-- ==== Sys2Proof/Word.lean ====
section
/-!
DEFINITION. The words the block is made of, and their plainest arithmetic: 32-bit control-space
registers (R6), 64-bit runnel registers (R53), 64-byte lines (R103), 16-byte message slots (R88).
-/
namespace Sys2Proof

/-- A control-space register (R6). -/
abbrev Word := BitVec 32
/-- A runnel general register (R53). -/
abbrev Word64 := BitVec 64
/-- One 16-byte message slot, a little-endian word (R88, R108). -/
abbrev Slot := BitVec 128
/-- The 64 bytes of a line, byte 0 in bits 7:0 (R111). -/
abbrev Line := BitVec 512
/-- An agent ID, 0-63. -/
abbrev Agent := BitVec 6
/-- A line address: byte-address bits 51:6 (R108). -/
abbrev LAddr := BitVec 46
/-- A request or transaction tag of 12 bits (R105, R106). -/
abbrev Tag := BitVec 12
/-- A service port: 0 is A, 1 is B (R411). -/
abbrev SPort := Fin 2
/-- A link: fabric ports 0-15, and 16 the mirror link (R77, R293). -/
abbrev Link := Fin 17

/-- Bits `hi` down to `lo` of a number, as a number. -/
def bitsOf (w hi lo : Nat) : Nat := (w >>> lo) % 2 ^ (hi + 1 - lo)

/-- Ceiling division. -/
def ceilDiv (a b : Nat) : Nat := (a + b - 1) / b

end Sys2Proof
end

