-- ==== Sys2Proof/Machine/Message.lean ====
section
/-!
DEFINITION. The records the commands carry: fabric messages (R108-R112), flits (R88), mirror
records (R296), sampled inputs of a tick, and the contents of a sill image copy (R319-R322).
-/
namespace Sys2Proof

/-- A REQ message (R108). `op` is kept as its 5-bit code, so a reserved request can be carried. -/
structure Req where
  op : BitVec 5 := 0
  agent : Agent := 0
  stream : BitVec 12 := 0
  tag : Tag := 0
  laddr : LAddr := 0
  reissue : Bool := false
  scope : BitVec 2 := 0
  durable : Bool := false
  deriving DecidableEq, Repr, Inhabited

/-- A frame control word (R82); FCRC is checked over the rest. -/
structure Fcw where
  sync : BitVec 8 := 0xB5
  frame : BitVec 8 := 0
  lctl : BitVec 8 := 0
  larg : BitVec 8 := 0
  fcrc : BitVec 8 := 0
  deriving DecidableEq, Repr, Inhabited

/-- A flit as it leaves the FEC decoder (R80, R88): `fecOk` says whether it decoded, `fixed` how many codewords were corrected that
end with it, `tagOk` whether the mirror messages that end in it verified (R294). -/
structure Flit where
  fecOk : Bool := true
  fixed : BitVec 2 := 0
  tagOk : Bool := true
  ftype : BitVec 2 := 0
  seq : BitVec 12 := 0
  ack : BitVec 12 := 0
  nak : Bool := false
  rply : Bool := false
  smap : BitVec 15 := 0
  slots : List Slot := []
  clsA : BitVec 3 := 0
  cntA : BitVec 8 := 0
  clsB : BitVec 3 := 0
  cntB : BitVec 8 := 0
  crc : Word := 0
  fcw : Fcw := {}
  deriving DecidableEq, Repr, Inhabited

/-- What the pins and converters give at a tick boundary (R349, R384, R446). Rails in mV, VIN in
10 mV units, the bank in mV, sensors signed in 0.125 degree units; `bistOk` is each sensor's own check. -/
structure TickIn where
  rails : List (BitVec 16) := []
  good : BitVec 16 := 0
  vin : BitVec 16 := 0
  hu : BitVec 16 := 0
  sensors : List (BitVec 12) := []
  bistOk : BitVec 24 := 0
  pfaultLow : Bool := false
  storeOk : Bool := true
  deriving DecidableEq, Repr, Inhabited

/-- One UPD record (R296) with its data line where DATA = 1. -/
structure UpdRec where
  laddr : LAddr := 0
  st : BitVec 2 := 0
  own : Agent := 0
  add1 : BitVec 7 := 0x40
  add2 : BitVec 7 := 0x40
  way : BitVec 5 := 0
  alloc : Bool := false
  poison : Bool := false
  data : Option Line := none
  crec : Bool := false
  agent : Agent := 0
  tag : Tag := 0
  status : BitVec 3 := 0
  grant : BitVec 2 := 0
  ndat : Bool := false
  fromHome : Bool := false
  op : BitVec 5 := 0
  deriving DecidableEq, Repr, Inhabited

/-- One line of a WMIR message (R296). -/
structure WmirLine where
  line : BitVec 6 := 0
  agent : Agent := 0
  tag : Tag := 0
  data : Line := 0
  deriving DecidableEq, Repr, Inhabited

/-- A CLAIM (R295). -/
structure Claim where
  channel : BitVec 6 := 0
  window : BitVec 18 := 0
  homeB : Bool := false
  second : Bool := false
  fallback : Bool := false
  leaf : BitVec 40 := 0
  deriving DecidableEq, Repr, Inhabited

/-- What a pairing handshake step carries (R310); the checks' results that rest on cryptography
(`certOk`, `sigOk`, `confirmOk`) are carried as found. -/
structure HsData where
  certOk : Bool := true
  sigOk : Bool := true
  confirmOk : Bool := true
  idHash : Word64 := 0
  pairver : BitVec 16 := 0
  hashes : BitVec 384 := 0
  roleB : Bool := false
  pepoch : Word := 0
  partner : Word64 := 0
  rebuilt : Bool := true
  gstate : BitVec 4 := 0
  spos : BitVec 20 := 0
  deriving DecidableEq, Repr, Inhabited

/-- One die-slot table entry (R28), fields as stored; `owner` is the service runnel whose table a SERVICE entry stands in. -/
structure SlotEntry where
  start : BitVec 16 := 0
  length : BitVec 11 := 1
  kind : BitVec 5 := 0
  die : BitVec 11 := 0
  home : BitVec 2 := 0
  lmax : BitVec 4 := 0xF
  resv : BitVec 3 := 0
  arg : BitVec 12 := 0
  owner : Nat := 0
  deriving DecidableEq, Repr, Inhabited

/-- A region record (R322). -/
structure RegionRec where
  valid : Bool := false
  wp : Bool := false
  ack : BitVec 2 := 0
  keyid : BitVec 12 := 0
  first : BitVec 31 := 0
  nseg : BitVec 31 := 0
  access : Word64 := 0
  deriving DecidableEq, Repr, Inhabited

/-- One runnel section (R321, R52, R63-R72): role, entries, declared routines, bundles, initial data. -/
structure RunnelSect where
  role : BitVec 4 := 0
  recovery : BitVec 12 := 0
  epoch : BitVec 12 := 0
  demand : BitVec 12 := 0
  slotEnd : BitVec 12 := 0
  restart : BitVec 12 := 0
  cold : BitVec 12 := 0
  routines : List (BitVec 12) := []
  bundles : List (Nat × Slot) := []
  data : List (Nat × BitVec 8) := []
  deriving DecidableEq, Repr, Inhabited

/-- The dirty-cap parameters (R358). -/
structure DirtyCap where
  pFlush : Nat := 554
  tFixed : Nat := 100000
  tBudget : Nat := 250000
  rate : Nat := 230
  meta_ : Nat := 4
  capMax : Nat := 32
  capMin : Nat := 4
  margin : Nat := 320
  vMin : Nat := 18000
  iTest : Nat := 2000
  meas : Nat := 200000
  deriving DecidableEq, Repr, Inhabited

/-- The die-specific operation codes of the geometry section (R190), and its row-address layout (R191): a row address is the
page, then from bit `rowPlane` the plane, from bit `rowBlock` the block. -/
structure DieOps where
  slcPfx : BitVec 8 := 0xA2
  suspend : BitVec 8 := 0x61
  resume : BitVec 8 := 0x62
  flagRead : BitVec 8 := 0x63
  suspBit : BitVec 3 := 2
  ofsFeat : BitVec 8 := 0x89
  extFeat : BitVec 8 := 0x8A
  extVal : BitVec 8 := 0x8B
  rowPlane : Nat := 12
  rowBlock : Nat := 14
  deriving DecidableEq, Repr, Inhabited

/-- What the sections of a copy say, once parsed (R321). `demand` gives each channel its PERIOD and READ_TK (R36);
`phaseDies` die indices are covered by the phase map, and `phaseMap` lists those in phase B (R35, R46). -/
structure Image where
  pairver : BitVec 16 := 0
  keySlot : BitVec 8 := 0
  revoke : BitVec 8 := 0
  version : Word := 0
  floor : Word := 0
  build : Word64 := 0
  roleB : BitVec 8 := 0
  phaseSf : BitVec 4 := 3
  demand : List (Nat × Nat) := []
  divs : List Nat := []
  phaseMap : List Nat := []
  phaseDies : Nat := 2048
  slots : List SlotEntry := []
  dTk : Nat := 1728
  runnels : List RunnelSect := []
  regions : List RegionRec := []
  macSeg : Option (BitVec 31) := none
  nch : Nat := 64
  pd : Nat := 15
  cist : Nat := 4
  op : Nat := 9
  rates : List (BitVec 3) := []
  pfMode : BitVec 2 := 1
  dieOps : DieOps := {}
  gbbLimit : Nat := 281
  peRated : Nat := 10000
  segPerDie : Nat := 984023
  unlimitedSuspend : Bool := true
  ofsNoBusy : Bool := true
  ntRate : BitVec 3 := 0
  ntDens : BitVec 2 := 0
  ntG2 : Bool := false
  ntPopOk : Bool := true
  ntRegions : List (Nat × Nat) := []
  nsets : Nat := 0
  npool : Nat := 0
  thresholds : List (Nat × Word) := []
  calEpochs : Nat := 1
  offsets : List Int := []
  scrubBits : Nat := 0
  grtBp : BitVec 2 := 1
  routes : List Word := []
  asets : List Word64 := []
  dcap : DirtyCap := {}
  railPg : List (BitVec 14) := []
  railTableOk : Bool := true
  bounds : List (Nat × Nat) := []
  pairHash : BitVec 384 := 0
  headerHash : BitVec 384 := 0
  sectHash : BitVec 384 := 0
  deriving DecidableEq, Repr, Inhabited

/-- An entry of a copy's section table (R320), and what was read of its section: the section header (R321) and the hash of its bytes. -/
structure SectEntry where
  typ : BitVec 8 := 0
  inst : BitVec 8 := 0
  resv : BitVec 48 := 0
  offset : Word := 0
  length : Word := 0
  hash : BitVec 384 := 0
  hdrTyp : BitVec 8 := 0
  hdrInst : BitVec 8 := 0
  hdrFormat : BitVec 16 := 0
  nrec : Word := 0
  reclen : Word := 0
  hdrResv : Word := 0
  found : BitVec 384 := 0
  deriving DecidableEq, Repr, Inhabited

/-- One copy in the flash (R316-R323): its header checks by field, its sections as an `Image`, and
the results of the hash and signature checks, which are found outside the model. -/
structure FlashCopy where
  magic : Word := 0x49534B4C
  format : BitVec 16 := 1
  imgLen : Word := 0x1000
  nsect : BitVec 8 := 54
  spiClk : BitVec 8 := 0
  pubkeyHash : BitVec 384 := 0
  sigOk : Bool := true
  table : List SectEntry := []
  readOk : Bool := true
  img : Image := {}
  deriving DecidableEq, Repr, Inhabited

/-- The flash as SFDP describes it (R317). `rdMode`: 0 1-1-1, 1 1-1-4, 2 1-4-4, 3 none supported. -/
structure Flash where
  sfdpOk : Bool := true
  mib : Nat := 64
  rdMode : BitVec 2 := 0
  copyA : FlashCopy := {}
  copyB : FlashCopy := {}
  deriving DecidableEq, Repr, Inhabited

/-- The words of a boot rail's WARN, FAULT and CTL registers that the fuses hold (R347). -/
structure RailFuse where
  warn : Word := 0
  fault : Word := 0
  ctl : Word := 0
  deriving DecidableEq, Repr, Inhabited

/-- The fuse key slots (R324): SHA-384 of a signing key, PROGRAMMED, REVOKED. -/
structure FuseSlot where
  hash : BitVec 384 := 0
  programmed : Bool := false
  revoked : Bool := false
  deriving DecidableEq, Repr, Inhabited

/-- A line of the near tier outside the leaf cache, the pool and the segment table, whose place in its region the spec does not give
(log entry 75): a map page by its segment ordinal, a counter line (level 0) or node, a journal buffer by its media channel, the shadows of
these (R165), a line of the shadow directory (R299), or the SRAM of a merge-buffer entry by its line address (R169). -/
inductive NtItem where
  | placed
  | mapPage (seg : BitVec 31)
  | node (level : BitVec 4) (idx : BitVec 40)
  | shadowNode (level : BitVec 4) (idx : BitVec 40)
  | journal (ch : BitVec 6)
  | shadowJournal (ch : BitVec 6)
  | directory (line : BitVec 21)
  | merge (laddr : LAddr)
  deriving DecidableEq, Repr, Inhabited

/-- A line unit read in a tenure (R161, R162) and the error pattern it was read with: bits 511:0 of the line, 575:512 of its metadata
word, 583:576 of its check byte. Where a node must be fetched from media again, `copies` are those of its two node pages that fail
(R273, R277). -/
structure NtUnit where
  slot : Fin 7 := 0
  item : NtItem := .placed
  err : BitVec 584 := 0
  copies : BitVec 2 := 0
  deriving DecidableEq, Repr, Inhabited

/-- What a Weir tenure read (R175): the block it touched (a scrub reads the block that is next), the line units, the requests raised
meanwhile, and the sub-window of the decision. -/
structure NtAccess where
  bank : BitVec 4 := 0
  row : BitVec 18 := 0
  block : BitVec 2 := 0
  units : List NtUnit := []
  raised : BitVec 10 := 0
  subWindow : Fin 16 := 0
  deriving DecidableEq, Repr, Inhabited

/-- An ECC error the Basin finds in a snoop-filter way it reads (R130). -/
structure EccErr where
  set : BitVec 16 := 0
  way : BitVec 5 := 0
  uncorrectable : Bool := false
  deriving DecidableEq, Repr, Inhabited

/-- One calibration sample a CAL slot gives (R236): die index, class, and the offsets with the fewest corrected bits. -/
structure CalSample where
  die : BitVec 11 := 0
  cls : BitVec 3 := 0
  best : List Int := []
  deriving DecidableEq, Repr, Inhabited

/-- A scrub read of a SCRUB slot (R236): die index, stripe, and the bits it corrected. -/
structure ScrubRead where
  die : BitVec 11 := 0
  stripe : BitVec 14 := 0
  bits : Nat := 0
  deriving DecidableEq, Repr, Inhabited

/-- What the sector metadata of a decoded codeword says of it (R216): KIND and ID. -/
structure SectorId where
  kind : BitVec 4 := 1
  id : BitVec 40 := 0
  deriving DecidableEq, Repr, Inhabited

/-- An MCTP packet on the I3C binding (R393). -/
structure Packet where
  pecOk : Bool := true
  hdrOk : Bool := true
  som : Bool := true
  eom : Bool := true
  payload : List (BitVec 8) := []
  deriving DecidableEq, Repr, Inhabited

/-- What step 2 of a start finds in the Grotto (R379-R381): whether a copy of the sector map checks, the logical pages that its margin reads
refresh, and those uncorrectable at the normal reference. -/
structure GrtScan where
  mapOk : Bool := true
  weak : List (BitVec 14) := []
  bad : List (BitVec 14) := []
  deriving DecidableEq, Repr, Inhabited

/-- The leaf an XFER's read brings (R188), and what its sector's metadata says where it names another sector (R222). -/
structure XferLeaf where
  leaf : Option (BitVec 40) := none
  md : Option SectorId := none
  deriving DecidableEq, Repr, Inhabited

/-- A way allocation that is tried (R128): the transaction that waits, and what the read of the set finds (R130). -/
structure WayRead where
  htag : Tag := 0
  ecc : List EccErr := []
  deriving DecidableEq, Repr, Inhabited

/-- What a receiver found of its lanes in training (R79): each lane's polarity, and the lane order as FAB_LMAP shows it. -/
structure LanesFound where
  pol : BitVec 9 := 0
  order : Word := 0
  deriving DecidableEq, Repr, Inhabited

/-- A pre-emption of a near-tier channel (R179): the line units of the tenure that were transferred. -/
structure Preemption where
  ch : Fin 48 := 0
  moved : Fin 8 := 0
  deriving DecidableEq, Repr, Inhabited

/-- One training of a channel (R182, R184): the ticks it took, and which of ZQ calibration, duty-cycle correction, read DQ and write DQ
training passed. -/
structure TrainRun where
  ticks : Nat := 0
  steps : BitVec 4 := 15
  deriving DecidableEq, Repr, Inhabited

/-- What a training finds of the extension that rate code 4 needs (R184): what Get Features returned at EXT_FEAT by die position, the two
deskews, the duty adjustment, and the errors of the eye check in each direction. -/
structure TrainExt where
  ext : List (BitVec 8) := []
  deskew : BitVec 2 := 3
  duty : Bool := true
  eyeIn : Nat := 0
  eyeOut : Nat := 0
  deriving DecidableEq, Repr, Inhabited

/-- What media recovery finds on one die (R207): the open blocks the journal shows and the zero bits that codeword 0 of their next
word line holds (R187). -/
structure DieScan where
  die : BitVec 11 := 0
  idOk : Bool := true
  plane : BitVec 2 := 0
  block : BitVec 14 := 0
  native : Bool := true
  nwl : Nat := 0
  eraseUnfinished : Bool := false
  nextZeros : Nat := 0
  complete : Nat := 0
  deriving DecidableEq, Repr, Inhabited

/-- A message on a fabric port (R108-R112). `evt` from the device carries R112's fields; from an agent only
its OP, sender and the target field of DOWN (R133). -/
inductive LcfMsg where
  | req (r : Req)
  | snp (op : BitVec 5) (agent : Agent) (rtag : Tag) (ragent : Agent) (htag : Tag) (laddr : LAddr)
      (homeB : Bool) (rgrant : BitVec 2)
  | rsp (op : BitVec 5) (agent : Agent) (tag htag : Tag) (status : BitVec 3) (homeB : Bool)
      (grant : BitVec 2) (ndat : Bool)
  | dat (op : BitVec 5) (agent : Agent) (tag htag : Tag) (status : BitVec 3) (homeB : Bool)
      (grant : BitVec 2) (bmask : Word64) (line : Line)
  | evt (op : BitVec 5) (agent : Agent) (evnum : BitVec 9) (homeB : Bool) (tick : BitVec 40) (arg : Word)
  | bad (cls : BitVec 3) (agent : Agent)
  deriving DecidableEq, Repr, Inhabited

/-- A message on the mirror link (R295), its payload decoded. -/
inductive MirMsg where
  | upd (recs : List UpdRec)
  | wmir (leaf : BitVec 40) (lines : List WmirLine)
  | ack (seq : BitVec 48)
  | claim (c : Claim)
  | void (channel : BitVec 6) (window : BitVec 18) (release : Bool)
  | leaf (leaf : BitVec 40) (use : BitVec 2) (poison : Word64) (lines : List Line)
  | lreq (kind : BitVec 2) (leaf : BitVec 40) (line : BitVec 6) (set : BitVec 16) (way : BitVec 5)
  | hb (spos : BitVec 20) (level state : BitVec 4) (wok : Bool) (gtick : Word64)
  | decl (agent : Agent) (cause : BitVec 4) (what : BitVec 2)
  | hs (step : BitVec 8) (data : HsData)
  | ctl (op : BitVec 8)
  | retire (cidx : List (BitVec 15))
  | sfway (set : BitVec 16) (way : BitVec 5) (entry : BitVec 228)
  deriving DecidableEq, Repr, Inhabited

/-- What a service port sends: an MCTP message body (R329), an IBI with its mandatory data byte (R409), a
direct CCC response, or the MCTP control response. -/
inductive PortOut where
  | body (bytes : List (BitVec 8))
  | ibi (mdb : BitVec 8)
  | ccc (bytes : List (BitVec 8))
  | ctrl (bytes : List (BitVec 8))
  | nack
  deriving DecidableEq, Repr, Inhabited

/-- A Ledger record (R420). `detail` holds the used bytes of DETAIL; the rest are 0. -/
structure LedRec where
  seq : Nat := 0
  tick : Nat := 0
  evnum : Nat := 0
  kind : Nat := 1
  prio : Bool := false
  arg : Word := 0
  detail : List (BitVec 8) := []
  deriving DecidableEq, Repr, Inhabited

/-- An event raised before routing loads (R408). -/
structure HeldEvt where
  evnum : Nat := 0
  arg : Word := 0
  tick : Nat := 0
  deriving DecidableEq, Repr, Inhabited

end Sys2Proof
end

