-- ==== Sys2Proof/Syntax.lean ====
section
/-!
DEFINITION. The commands the block takes: one constructor per row of spec/opcode_table.json, in the
table's order. The table gives the rows no fields, so the operands are this model's (log entry 1).
-/
namespace Sys2Proof

/-- What every runnel operation carries: the logical runnel, its guard (R56), and whether it is the
last operation of its bundle (R57; log entry 6). -/
structure OpHdr where
  rn : Fin 44 := 0
  guard : BitVec 4 := 0
  last : Bool := true
  deriving DecidableEq, Repr, Inhabited

/-- The commands (opcode table). -/
inductive Instr where
  /-- REGISTER_WRITE (R8). -/
  | registerWrite (p : SPort) (addr : Word) (v : Word)
  /-- UNMAPPED_CONTROL_ACCESS (R7). -/
  | unmappedControlAccess (p : SPort) (addr : Word) (write : Bool) (v : Word)
  /-- LOW_HALF_READ (R11). -/
  | lowHalfRead (p : SPort) (addr : Word)
  /-- TICK (R24). -/
  | tick (inp : TickIn)
  /-- DUTY_LEVEL_FIX (R386). -/
  | dutyLevelFix
  /-- SUPERFRAME_BOUNDARY (R44). -/
  | superframeBoundary (entropyOk : Bool) (unblown : BitVec 4)
  /-- EPOCH_BOUNDARY (R234). -/
  | epochBoundary
  /-- EPOCH_SCHEDULE_START (R26). -/
  | epochScheduleStart
  /-- RUNNEL_TICK (R63). -/
  | runnelTick (cal : List CalSample) (scrub : List ScrubRead) (corrected : List (Fin 44))
  /-- NOP (R57). -/
  | nop (h : OpHdr)
  /-- ADD (R57). -/
  | add (h : OpHdr) (d a b : BitVec 5)
  /-- SUB (R57). -/
  | sub (h : OpHdr) (d a b : BitVec 5)
  /-- AND (R57). -/
  | andOp (h : OpHdr) (d a b : BitVec 5)
  /-- OR (R57). -/
  | orOp (h : OpHdr) (d a b : BitVec 5)
  /-- XOR (R57). -/
  | xorOp (h : OpHdr) (d a b : BitVec 5)
  /-- ANDN (R57). -/
  | andn (h : OpHdr) (d a b : BitVec 5)
  /-- SHL (R57). -/
  | shl (h : OpHdr) (d a b : BitVec 5) (f : BitVec 7)
  /-- SHR (R57). -/
  | shr (h : OpHdr) (d a b : BitVec 5) (f : BitVec 7)
  /-- SAR (R57). -/
  | sar (h : OpHdr) (d a b : BitVec 5) (f : BitVec 7)
  /-- ADDI (R57). -/
  | addi (h : OpHdr) (d a : BitVec 5) (imm : BitVec 12)
  /-- LDI (R57). -/
  | ldi (h : OpHdr) (d : BitVec 5) (imm : BitVec 17)
  /-- EXTR (R57). -/
  | extr (h : OpHdr) (d a : BitVec 5) (imm : BitVec 12)
  /-- INS (R57). -/
  | ins (h : OpHdr) (d a : BitVec 5) (imm : BitVec 12)
  /-- MUL (R57). -/
  | mul (h : OpHdr) (d a b : BitVec 5)
  /-- MULH (R57). -/
  | mulh (h : OpHdr) (d a b : BitVec 5)
  /-- CMPEQ (R57). -/
  | cmpeq (h : OpHdr) (a b : BitVec 5) (f : BitVec 7)
  /-- CMPNE (R57). -/
  | cmpne (h : OpHdr) (a b : BitVec 5) (f : BitVec 7)
  /-- CMPLTU (R57). -/
  | cmpltu (h : OpHdr) (a b : BitVec 5) (f : BitVec 7)
  /-- CMPLTS (R57). -/
  | cmplts (h : OpHdr) (a b : BitVec 5) (f : BitVec 7)
  /-- CMPEQI (R57). -/
  | cmpeqi (h : OpHdr) (d a : BitVec 5) (imm : BitVec 12)
  /-- PLOG (R57). -/
  | plog (h : OpHdr) (d a b : BitVec 5) (f : BitVec 7)
  /-- SEL (R57). -/
  | sel (h : OpHdr) (d a b : BitVec 5) (f : BitVec 7)
  /-- POPC (R57). -/
  | popc (h : OpHdr) (d a : BitVec 5)
  /-- CLZ (R57). -/
  | clz (h : OpHdr) (d a : BitVec 5)
  /-- BR (R57). -/
  | br (h : OpHdr) (target : BitVec 12)
  /-- CALL (R57). -/
  | call (h : OpHdr) (target : BitVec 12)
  /-- CALLX (R57). -/
  | callx (h : OpHdr) (a : BitVec 5)
  /-- RET (R57). -/
  | ret (h : OpHdr)
  /-- LOOP (R66). -/
  | loopOp (h : OpHdr) (count : BitVec 8) (target : BitVec 12)
  /-- TEXIT (R66). -/
  | texit (h : OpHdr)
  /-- LD8 (R54). -/
  | ld8 (h : OpHdr) (d a : BitVec 5) (imm : BitVec 12)
  /-- LD16 (R54). -/
  | ld16 (h : OpHdr) (d a : BitVec 5) (imm : BitVec 12)
  /-- LD32 (R54). -/
  | ld32 (h : OpHdr) (d a : BitVec 5) (imm : BitVec 12)
  /-- LD64 (R54). -/
  | ld64 (h : OpHdr) (d a : BitVec 5) (imm : BitVec 12)
  /-- ST8 (R67). -/
  | st8 (h : OpHdr) (d a : BitVec 5) (imm : BitVec 12)
  /-- ST16 (R67). -/
  | st16 (h : OpHdr) (d a : BitVec 5) (imm : BitVec 12)
  /-- ST32 (R67). -/
  | st32 (h : OpHdr) (d a : BitVec 5) (imm : BitVec 12)
  /-- ST64 (R67). -/
  | st64 (h : OpHdr) (d a : BitVec 5) (imm : BitVec 12)
  /-- LDP (R54). -/
  | ldp (h : OpHdr) (d a : BitVec 5) (imm : BitVec 12)
  /-- STP (R54). -/
  | stp (h : OpHdr) (d a : BitVec 5) (imm : BitVec 12)
  /-- SLOTPOP (R65). -/
  | slotpop (h : OpHdr) (d : BitVec 5) (f : BitVec 7)
  /-- MPOST (R59). -/
  | mpost (h : OpHdr) (d a : BitVec 5) (f : BitVec 7)
  /-- MPOP (R59). -/
  | mpop (h : OpHdr) (d : BitVec 5) (f : BitVec 7)
  /-- RDTK (R58). -/
  | rdtk (h : OpHdr) (d : BitVec 5)
  /-- CNT (R58). -/
  | cnt (h : OpHdr) (imm : BitVec 12)
  /-- MCMD (R59). -/
  | mcmd (h : OpHdr) (d a b : BitVec 5)
  /-- MRB (R59). -/
  | mrb (h : OpHdr) (a b : BitVec 5) (f : BitVec 7)
  /-- MSTAT (R59). -/
  | mstat (h : OpHdr) (d a b : BitVec 5)
  /-- MDIN (R60). -/
  | mdin (h : OpHdr) (d a b : BitVec 5)
  /-- MDOUT (R60). -/
  | mdout (h : OpHdr) (d a b : BitVec 5) (f : BitVec 7)
  /-- MLOG (R61). -/
  | mlog (h : OpHdr) (d b : BitVec 5) (f : BitVec 7)
  /-- XMOV (R62). -/
  | xmov (h : OpHdr) (a : BitVec 5) (f : BitVec 7)
  /-- XPOLL (R62). -/
  | xpoll (h : OpHdr) (d a : BitVec 5)
  /-- XFER_COMPLETE (R62). -/
  | xferComplete (rn : Fin 44) (desc : BitVec 18) (status : BitVec 3) (htag : Tag) (leaf : XferLeaf)
  /-- ENGINE_FAULT (R70). -/
  | engineFault (rn : Fin 44) (found : BitVec 4)
  /-- SPARE_SUBSTITUTED (R70). -/
  | spareSubstituted (dataLost : Bool)
  /-- WARDEN_RECORD_EXPIRE (R47). -/
  | wardenRecordExpire
  /-- WARDEN_DISAGREEMENT (R74). -/
  | wardenDisagreement
  /-- SCH_CYC_CLR (R75). -/
  | schCycClr (p : SPort)
  /-- DIE_OPERATION_COMPLETE (R192). -/
  | dieOperationComplete (ch : Fin 64) (die : BitVec 5) (status : BitVec 8)
  /-- ERASE_SUSPEND (R195). -/
  | eraseSuspend (ch : Fin 64) (die : BitVec 5) (status : BitVec 8)
  /-- BLANK_CHECK (R197). -/
  | blankCheck (ch : Fin 64) (die : BitVec 5) (zeros : List Nat)
  /-- BUSY_TIMEOUT (R199). -/
  | busyTimeout (ch : Fin 64) (die : BitVec 5)
  /-- REQ_RECEIVED (R39). -/
  | reqReceived (port : Fin 16) (r : Req) (draw : BitVec 24)
  /-- READSHARED (R119). -/
  | readShared (htag : Tag)
  /-- READOWN (R119). -/
  | readOwn (htag : Tag)
  /-- UPGRADE (R119). -/
  | upgrade (htag : Tag)
  /-- WRITELINE (R119). -/
  | writeLine (htag : Tag)
  /-- WRITEPARTIAL (R119). -/
  | writePartial (htag : Tag)
  /-- WRITEBACK (R119). -/
  | writeBack (htag : Tag)
  /-- EVICTCLEAN (R119). -/
  | evictClean (htag : Tag)
  /-- RESERVEREAD (R153). -/
  | reserveRead (htag : Tag)
  /-- CONDWRITE (R153). -/
  | condWrite (htag : Tag)
  /-- BARRIER (R149). -/
  | barrier (htag : Tag)
  /-- RESERVED_REQUEST (R108). -/
  | reservedRequest (port : Fin 16) (r : Req)
  /-- REISSUED_REQUEST (R306). -/
  | reissuedRequest (port : Fin 16) (agent : Agent) (tag : Tag)
  /-- ADMISSION (R39). -/
  | admission (port : Fin 16) (agent : Agent) (tag : Tag)
  /-- WINDOW_RESOLUTION (R40). -/
  | windowResolution (htag : Tag)
  /-- ACTIVATION (R107). -/
  | activation (laddr : LAddr) (tagOk : Bool) (ecc : List EccErr)
  /-- REBIND (R462). -/
  | rebind (htag : Tag)
  /-- WAY_ALLOCATION (R128). -/
  | wayAllocation (read : WayRead)
  /-- SNPRSPI (R120). -/
  | snpRspI (port : Fin 16) (agent : Agent) (htag : Tag) (home : Bool)
  /-- SNPRSPFWDS (R120). -/
  | snpRspFwdS (port : Fin 16) (agent : Agent) (htag : Tag) (home : Bool)
  /-- SNPRSPFWDI (R120). -/
  | snpRspFwdI (port : Fin 16) (agent : Agent) (htag : Tag) (home : Bool)
  /-- SNPRSPIDATA (R120). -/
  | snpRspIData (port : Fin 16) (agent : Agent) (htag : Tag) (home : Bool)
  /-- DATAWR (R111). -/
  | dataWr (port : Fin 16) (agent : Agent) (htag : Tag) (bmask : Word64) (data : Line) (tagOk : Bool)
  /-- DATASNP (R111). -/
  | dataSnp (port : Fin 16) (agent : Agent) (htag : Tag) (poison : Bool) (data : Line)
  /-- DEPART (R140). -/
  | depart (port : Fin 16) (agent : Agent)
  /-- DOWN (R133). -/
  | down (port : Fin 16) (agent target : Agent)
  /-- RESERVED_AGENT_EVT (R133). -/
  | reservedAgentEvt (port : Fin 16) (agent : Agent) (op : BitVec 5)
  /-- SNOOP_TIMEOUT (R132). -/
  | snoopTimeout (htag : Tag) (agent : Agent)
  /-- PULL_TIMEOUT (R132). -/
  | pullTimeout (htag : Tag)
  /-- SKINK_WALK_STEP (R136). -/
  | skinkWalkStep (ecc : List EccErr)
  /-- LINE_LOSS_MARK (R137). -/
  | lineLossMark (laddr : LAddr)
  /-- HTAG_QUARANTINE_END (R138). -/
  | htagQuarantineEnd (htag : Tag)
  /-- DECLARE (R132). -/
  | declare (p : SPort) (agent : Agent)
  /-- CLEAR (R139). -/
  | clear (p : SPort) (agent : Agent)
  /-- BARRIER_COMPLETION (R149). -/
  | barrierCompletion (htag : Tag)
  /-- DIRTY_ROOM_WAIT_END (R357). -/
  | dirtyRoomWaitEnd (htag : Tag)
  /-- FLIT_RECEIVED (R91). -/
  | flitReceived (link : Link) (f : Flit)
  /-- HOLD_FLIT (R92). -/
  | holdFlit (link : Link) (f : Flit)
  /-- NAK_RETRY_TIMER (R93). -/
  | nakRetryTimer (link : Link)
  /-- SWAP_REQ (R98). -/
  | swapReq (link : Link) (lane : BitVec 8)
  /-- SWAP_RDY (R98). -/
  | swapRdy (link : Link) (lane : BitVec 8)
  /-- SWAP_COMMIT (R98). -/
  | swapCommit (link : Link) (frame : BitVec 8)
  /-- HALF_REQ (R99). -/
  | halfReq (link : Link) (map : BitVec 8)
  /-- HALF_COMMIT (R99). -/
  | halfCommit (link : Link) (frame : BitVec 8)
  /-- REALIGN (R94). -/
  | realign (link : Link)
  /-- LANE_SWITCH_FRAME (R98). -/
  | laneSwitchFrame (link : Link)
  /-- LANE_FAILURE (R98). -/
  | laneFailure (link : Link) (lane : Fin 18) (errors : Nat) (lockLost : Bool)
  /-- SWAP_TIMEOUT (R98). -/
  | swapTimeout (link : Link)
  /-- TRAINING_FRAMES_RECEIVED (R84). -/
  | trainingFramesReceived (link : Link) (tstate : BitVec 8)
  /-- TRAINING_STATE_EXIT (R84). -/
  | trainingStateExit (link : Link) (lanes : BitVec 9) (found : LanesFound)
  /-- PARAM (R86). -/
  | param (link : Link) (w0 w1 w2 : Word64)
  /-- TRAINING_TIMEOUT (R84). -/
  | trainingTimeout (link : Link)
  /-- DOWN_TIMEOUT (R100). -/
  | downTimeout (port : Fin 16)
  /-- FAB_CMD_REALIGN (R94). -/
  | fabCmdRealign (p : SPort) (port : Fin 16)
  /-- TENURE_END (R176). -/
  | tenureEnd (ch : Fin 48) (acc : NtAccess)
  /-- REFRESH_PREEMPT (R179). -/
  | refreshPreempt (cut : Preemption)
  /-- JTAG_PREEMPT (R179). -/
  | jtagPreempt (cut : Preemption)
  /-- FRAME_ALLOCATION (R166). -/
  | frameAllocation (htag : Tag)
  /-- MERGE_WINDOW_EXPIRY (R169). -/
  | mergeWindowExpiry (laddr : LAddr) (tagOk : Bool)
  /-- SCRUB_GO (R174). -/
  | scrubGo (p : SPort)
  /-- PROBE_GO (R240). -/
  | probeGo (p : SPort) (v : Word)
  /-- REKEY_WALK_STEP (R282). -/
  | rekeyWalkStep
  /-- ENTROPY_HEALTH_FAILURE (R285). -/
  | entropyHealthFailure
  /-- INV (R291). -/
  | inv (p : SPort)
  /-- KEY (R287). -/
  | key (page : Fin 66) (idx : BitVec 3) (v : BitVec 256) (mask : Word64)
  /-- FIRST (R288). -/
  | first (page : Fin 66) (len : BitVec 12) (last : Bool)
  /-- MAC_CONTINUE (R288). -/
  | macContinue (page : Fin 66) (len : BitVec 12)
  /-- LAST (R288). -/
  | last (page : Fin 66) (len : BitVec 12) (first : Bool)
  /-- KEYCLR (R288). -/
  | keyclr (page : Fin 66)
  /-- MAC_WINDOW_REQUEST (R286). -/
  | macWindowRequest (port : Fin 16) (r : Req) (bmask : Word64) (data : Line)
  /-- UPD (R297). -/
  | upd (recs : List UpdRec)
  /-- WMIR (R296). -/
  | wmir (leaf : BitVec 40) (lines : List WmirLine)
  /-- MIRROR_ACK (R297). -/
  | mirrorAck (seq : BitVec 48)
  /-- CLAIM (R42). -/
  | claim (c : Claim)
  /-- VOID (R42). -/
  | void (channel : BitVec 6) (window : BitVec 18) (release : Bool)
  /-- LEAF (R16). -/
  | leaf (leaf : BitVec 40) (use : BitVec 2) (poison : Word64) (lines : List Line) (verified : Bool)
  /-- LREQ (R295). -/
  | lreq (kind : BitVec 2) (leaf : BitVec 40) (line : BitVec 6) (set : BitVec 16) (way : BitVec 5)
  /-- HB (R302). -/
  | hb (spos : BitVec 20) (level : BitVec 4) (state : BitVec 4) (wok : Bool) (gtick : Word64)
  /-- DECL (R132). -/
  | decl (agent : Agent) (cause : BitVec 4) (what : BitVec 2)
  /-- HS (R310). -/
  | hs (step : BitVec 8) (data : HsData)
  /-- CTL_DETACH (R309). -/
  | ctlDetach
  /-- HANDOVER (R313). -/
  | handover
  /-- RESTORE_SENT (R295). -/
  | restoreSent
  /-- RETIRE (R298). -/
  | retire (cidx : List (BitVec 15))
  /-- SFWAY (R130). -/
  | sfway (set : BitVec 16) (way : BitVec 5) (entry : BitVec 228)
  /-- RESERVED_MCLS (R295). -/
  | reservedMcls (mcls : BitVec 4)
  /-- TICKSYNC_PULSE (R301). -/
  | ticksyncPulse (diff : BitVec 16)
  /-- PARTNER_LOST (R303). -/
  | partnerLost
  /-- TICKSYNC_LOST (R303). -/
  | ticksyncLost
  /-- LINK_LOSS_TIMEOUT (R303). -/
  | linkLossTimeout
  /-- TAKEOVER_ANNOUNCE (R304). -/
  | takeoverAnnounce
  /-- REISSUE_PHASE_END (R304). -/
  | reissuePhaseEnd
  /-- DETACH (R309). -/
  | detach (p : SPort)
  /-- DETACH_DRAIN_END (R309). -/
  | detachDrainEnd
  /-- HANDSHAKE_TIMEOUT (R310). -/
  | handshakeTimeout
  /-- HANDSHAKE_RETRY (R310). -/
  | handshakeRetry
  /-- RESILVER_COPY_COMPLETE (R313). -/
  | resilverCopyComplete
  /-- CIDX_WAIT_END (R298). -/
  | cidxWaitEnd (htag : Tag)
  /-- COLD_START (R334). -/
  | coldStart (vstbyOk : Bool)
  /-- RESET_N (R343). -/
  | resetN (ticks : Nat)
  /-- RST (R334). -/
  | rst (p : SPort)
  /-- SOLO (R336). -/
  | solo (p : SPort)
  /-- SEQUENCING (R335). -/
  | sequencing (roleB : Bool) (fuses : List RailFuse)
  /-- GROTTO_RECOVERY (R381). -/
  | grottoRecovery
  /-- KEY_UNWRAP (R335). -/
  | keyUnwrap (fuses : List FuseSlot) (ok : Bool) (entropyOk : Bool)
  /-- IMAGE_VERIFY (R323). -/
  | imageVerify (flash : Flash)
  /-- FLASH_READ_TIMEOUT (R317). -/
  | flashReadTimeout (copyB : Bool)
  /-- RUNNEL_LOAD (R51). -/
  | runnelLoad
  /-- MEDIA_RECOVERY (R207). -/
  | mediaRecovery (trained : BitVec 48) (topOk : Bool) (dies : List DieScan)
  /-- CHANNEL_TRAINING (R184). -/
  | channelTraining (ch : Fin 64) (run : TrainRun) (ext : TrainExt)
  /-- FACTORY_SCAN (R201). -/
  | factoryScan (ch : Fin 64) (die : BitVec 5) (bad : List (BitVec 2 × BitVec 14))
  /-- MAP_REBUILD (R232). -/
  | mapRebuild (failed torn : List (BitVec 6))
  /-- PAIRING_COMPLETE (R87). -/
  | pairingComplete
  /-- STARTUP_STEP_TIMEOUT (R335). -/
  | startupStepTimeout
  /-- SERVING_START (R340). -/
  | servingStart
  /-- TADPOLE_END (R342). -/
  | tadpoleEnd
  /-- TADPOLE_TIMEOUT (R342). -/
  | tadpoleTimeout
  /-- RAIL_QUALIFIED (R348). -/
  | railQualified (r : Fin 16)
  /-- RAIL_QUALIFY_TIMEOUT (R348). -/
  | railQualifyTimeout (r : Fin 16)
  /-- RAIL_DISCHARGED (R352). -/
  | railDischarged (r : Fin 16)
  /-- DISCHARGE_TIMEOUT (R352). -/
  | dischargeTimeout (r : Fin 16)
  /-- RAIL_FAULT (R351). -/
  | railFault (r : Fin 16) (cause : BitVec 4)
  /-- GOOD_LOW (R350). -/
  | goodLow (r : Fin 16) (ns : Nat)
  /-- INPUT_FAILURE (R353). -/
  | inputFailure (bank : Bool)
  /-- PFAULT_FOLLOW (R354). -/
  | pfaultFollow
  /-- QUIESCE_END (R360). -/
  | quiesceEnd
  /-- SPILLWAY_PHASE (R361). -/
  | spillwayPhase
  /-- VIN_RETURN (R365). -/
  | vinReturn
  /-- SPILLWAY_RESUME (R365). -/
  | spillwayResume
  /-- OFF (R366). -/
  | off (p : SPort)
  /-- HU_MEAS (R356). -/
  | huMeas (p : SPort)
  /-- BANK_MEASUREMENT_SAMPLE (R356). -/
  | bankMeasurementSample
  /-- BANK_MEASUREMENT_END (R356). -/
  | bankMeasurementEnd
  /-- PAGE_WRITE (R373). -/
  | pageWrite (addr : BitVec 22) (bytes : List (BitVec 8))
  /-- PAGE_WRITE_START (R374). -/
  | pageWriteStart
  /-- PHYSICAL_PROGRAM_DONE (R375). -/
  | physicalProgramDone (ok : Bool)
  /-- SECTOR_MOVE (R377). -/
  | sectorMove (sector : Fin 48)
  /-- MARGIN_READ (R379). -/
  | marginRead (weak : List (BitVec 14)) (bad : List (BitVec 14))
  /-- PROTECT (R378). -/
  | protect (p : SPort) (level : BitVec 2)
  /-- GRT_RD_DATA (R382); `bad` says the page read is uncorrectable (R380). -/
  | grtRdData (p : SPort) (bad : Bool)
  /-- SENSOR_FAILURE (R385). -/
  | sensorFailure (k : Fin 24)
  /-- THERMAL_TRIP (R388). -/
  | thermalTrip
  /-- THERMAL_START_HOLD (R389). -/
  | thermalStartHold (t22 t23 : BitVec 12)
  /-- THM_PEAK_CLR (R390). -/
  | thmPeakClr (p : SPort)
  /-- REFCLK_FAILURE (R451). -/
  | refclkFailure
  /-- ENTDAA (R392). -/
  | entdaa (p : SPort) (da : BitVec 7)
  /-- SETDASA (R392). -/
  | setdasa (p : SPort) (static da : BitVec 7)
  /-- RSTDAA (R394). -/
  | rstdaa (p : SPort)
  /-- ENEC (R392). -/
  | enec (p : SPort)
  /-- DISEC (R392). -/
  | disec (p : SPort)
  /-- GETPID (R392). -/
  | getpid (p : SPort)
  /-- GETBCR (R392). -/
  | getbcr (p : SPort)
  /-- GETDCR (R392). -/
  | getdcr (p : SPort)
  /-- GETSTATUS (R392). -/
  | getstatus (p : SPort)
  /-- GETMWL (R392). -/
  | getmwl (p : SPort)
  /-- SETMWL (R393). -/
  | setmwl (p : SPort) (n : BitVec 16)
  /-- GETMRL (R392). -/
  | getmrl (p : SPort)
  /-- SETMRL (R393). -/
  | setmrl (p : SPort) (n : BitVec 16)
  /-- RSTACT (R394). -/
  | rstact (p : SPort) (action : BitVec 8)
  /-- TARGET_RESET (R394). -/
  | targetReset (p : SPort)
  /-- MCTP_PACKET (R393). -/
  | mctpPacket (p : SPort) (pkt : Packet)
  /-- SET_ENDPOINT_ID (R393). -/
  | setEndpointId (p : SPort) (eid : BitVec 8)
  /-- GET_ENDPOINT_ID (R393). -/
  | getEndpointId (p : SPort)
  /-- GET_MCTP_VERSION_SUPPORT (R393). -/
  | getMctpVersionSupport (p : SPort)
  /-- GET_MESSAGE_TYPE_SUPPORT (R393). -/
  | getMessageTypeSupport (p : SPort)
  /-- GET_VENDOR_DEFINED_MESSAGE_SUPPORT (R393). -/
  | getVendorDefinedMessageSupport (p : SPort)
  /-- READ (R395). -/
  | read (p : SPort) (seq : BitVec 8) (addr : Word) (count : BitVec 8) (lenOk : Bool)
  /-- WRITE (R395). -/
  | write (p : SPort) (seq : BitVec 8) (addr : Word) (count : BitVec 8) (words : List Word)
  /-- UNSUPPORTED_COMMAND (R395). -/
  | unsupportedCommand (p : SPort) (mclass cmd seq : BitVec 8)
  /-- EXECUTOR_ACCESS (R396); bit p of `mid`: port p is within a packet at this instant (R399). -/
  | executorAccess (mid : BitVec 2)
  /-- EVT_RILL_LO (R400). -/
  | evtRillLo (p : SPort)
  /-- FLUSH (R399), `mid` as for EXECUTOR_ACCESS. -/
  | flush (p : SPort) (mid : BitVec 2)
  /-- FLUSH_CMD (R399), of the command Rill of `target`. -/
  | flushCmd (p : SPort) (target : SPort) (mid : BitVec 2)
  /-- RILL_FLUSH (R399). -/
  | rillFlush (p : SPort) (command : Bool)
  /-- ACQUIRE (R401). -/
  | acquire (p : SPort)
  /-- RELEASE (R402). -/
  | release (p : SPort)
  /-- LOCK_TIMEOUT (R402). -/
  | lockTimeout
  /-- BEGIN (R403). -/
  | beginTxn (p : SPort) (shadowRd : Bool)
  /-- COMMIT (R405). -/
  | commit (p : SPort) (shadowRd : Bool)
  /-- ROLLBACK (R403). -/
  | rollback (p : SPort) (shadowRd : Bool)
  /-- COMMIT_CHECK (R405). -/
  | commitCheck
  /-- COMMIT_BOUNDARY (R405). -/
  | commitBoundary
  /-- GET_VERSION (R330). -/
  | getVersion (p : SPort) (seq : BitVec 8)
  /-- GET_IDENTITY (R330). -/
  | getIdentity (p : SPort) (seq : BitVec 8)
  /-- GET_CERT (R330). -/
  | getCert (p : SPort) (seq : BitVec 8) (offset : BitVec 16)
  /-- GET_REPORT (R331). -/
  | getReport (p : SPort) (seq : BitVec 8) (nonce : BitVec 256) (mask : BitVec 8)
  /-- REPORT_SIGNED (R331). -/
  | reportSigned (p : SPort)
  /-- CLRWRAP (R415). -/
  | clrwrap (p : SPort)
  /-- ZERO (R415). -/
  | zero (p : SPort)
  /-- COUNTER_SWEEP (R416). -/
  | counterSweep
  /-- FREEZE (R416). -/
  | freeze (p : SPort) (on : Bool)
  /-- POP (R419). -/
  | pop (p : SPort)
  /-- LEDGER_GROTTO_WRITE (R423). -/
  | ledgerGrottoWrite
  /-- GET_INFO (R424). -/
  | getInfo (p : SPort) (seq : BitVec 8)
  /-- LEDGER_READ (R424). -/
  | ledgerRead (p : SPort) (seq : BitVec 8) (from_ : Word) (count : BitVec 8)
  /-- GET_NONCE (R425). -/
  | getNonce (p : SPort) (seq : BitVec 8)
  /-- LEDGER_CLEAR (R425). -/
  | ledgerClear (p : SPort) (seq : BitVec 8) (upto : Word) (slot : BitVec 8) (pubkeyHash : BitVec 384) (sig : BitVec 768)
  /-- LEDGER_FLUSH (R423). -/
  | ledgerFlush (p : SPort) (seq : BitVec 8)
  /-- NONCE_LAPSE (R425). -/
  | nonceLapse
  /-- REPOPULATION_FETCH (R237). -/
  | repopulationFetch (die : BitVec 11) (leaf : BitVec 40) (poison : Word64) (lines : List Line)
  /-- RESERVED_RESPONSE_OP (R110). -/
  | reservedResponseOp (port : Fin 16) (agent : Agent) (dat : Bool) (op : BitVec 5)
  /-- PFAULT_N_RELEASED (R365). -/
  | pfaultNReleased
  /-- RESET_N_RELEASE (R343). -/
  | resetNRelease
  /-- POWER_REMOVED (R337). -/
  | powerRemoved
  /-- ENERGY_STORE_FAULT (R374). -/
  | energyStoreFault
  deriving DecidableEq, Repr

end Sys2Proof
end

