-- ==== Sys2Proof/Config.lean ====
section
/-!
DEFINITION. What the spec leaves to a device or names by reference only: values the device draws
(keys, nonces, Gecko draws), signatures and hashes, each an opaque constant. Nothing can be proved
about their values, so every statement holds for all of them (log entries 8 and 9).
-/
namespace Sys2Proof

/-- The key the DRBG gives at the n-th draw (R255, R285). -/
opaque Config.freeKey : Nat → BitVec 256
/-- The nonce the device issues at the n-th draw (R425). -/
opaque Config.freeNonce : Nat → BitVec 256
/-- A value of 64 bits the spec leaves open, at the n-th use. -/
opaque Config.freeValue : Nat → BitVec 64
/-- What EXTR finds beyond bit 63 of a register (R57). -/
opaque Config.beyondRegister : BitVec 64 → BitVec 64
/-- A byte the spec leaves open: of an I3C GET response (R392), or of a Grotto sector whose layout it does not give (R372). -/
opaque Config.freeByte : Nat → BitVec 8
/-- What MLOG reads of an issue log (R61): its entries (tick, die position, refused), oldest first, and the entry asked for. The
spec gives the word no layout. -/
opaque Config.logWord : List (Nat × Nat × Bool) → Nat → BitVec 64
/-- SHA-384, named by reference (R319, R328, R331). -/
opaque Config.sha384 : List (BitVec 8) → BitVec 384
/-- ECDSA verification on brainpoolP384r1 (R323, R425): key hash, digest, signature. -/
opaque Config.ecdsaVerify : BitVec 384 → BitVec 384 → BitVec 768 → Bool
/-- The identity key's ECDSA signature of a digest (R331), at the n-th signing. -/
opaque Config.ecdsaSign : Nat → BitVec 384 → BitVec 768
/-- The AES-256 block function, named by reference (R255, R263): key, block. -/
opaque Config.aes256 : BitVec 256 → BitVec 128 → BitVec 128
/-- The nine check bits of a snoop-filter entry over bits 218:0 (R126, R130): the spec names no code. -/
opaque Config.sfCheck : BitVec 219 → BitVec 9
/-- The 15 check bits of the near tier's inline code over a line and bits 56:0 of its metadata word (R162): the spec names no code. -/
opaque Config.inlineCheck : BitVec 569 → BitVec 15
/-- Whether that code detects an error pattern that R162 does not promise to detect. -/
opaque Config.inlineDetects : BitVec 584 → Bool
/-- The LDPC parity of a codeword's bytes 0 to 4,127 (R186): 480 bytes, by a code the spec does not name. -/
opaque Config.ldpcParity : List (BitVec 8) → List (BitVec 8)
/-- The key-encryption key derived from the fuse secret (R255). -/
opaque Config.keyEncryptionKey : BitVec 256
/-- The scrambler 1 + x^39 + x^58 of IEEE 802.3 Clause 119 (R80), named by reference: message bits, from a scrambler state. -/
opaque Config.scramble : Nat → List Bool → List Bool
/-- The RS(544,514) code of IEEE 802.3 Clause 119 (R80), named by reference: 544 code symbols of 5,140 message bits. -/
opaque Config.rsEncode : List Bool → List (BitVec 10)
/-- What the n-th scan of the Grotto finds (R379-R381): whether a copy of the sector map checks, the logical pages that the margin reads
refresh, and those uncorrectable at the normal reference. How cells age the spec does not give. -/
opaque Config.grottoScan : Nat → Bool × List (BitVec 14) × List (BitVec 14)
/-- The device's identity public key (97 bytes) and certificate chain (R328). -/
opaque Config.identityKey : List (BitVec 8)
/-- The certificate followed by the issuer key (R330). -/
opaque Config.certChain : List (BitVec 8)

end Sys2Proof
end

