-- ==== Sys2Proof/Machine/RegMap.lean ====
section
/-!
DEFINITION. The register map: every register of the spec's register tables with its reset value and
access masks (R8), and a name for every field. Generated from the tables of spec/02 to spec/21.
-/
namespace Sys2Proof.Machine

/-- A field: register address (32-bit aligned), high bit, low bit. -/
structure Fld where
  addr : Nat
  hi : Nat
  lo : Nat
  deriving DecidableEq, Repr

/-- A row of a register table: base, stride and count of the replicated register, its reset value and
the masks of its RW, RWL, W1C and WO bits and of all readable bits (R8, R9). -/
structure RegRow where
  base : Nat
  stride : Nat
  count : Nat
  reset : Word
  rw : Word
  rwl : Word
  w1c : Word
  wo : Word
  rd : Word
  deriving DecidableEq, Repr

/-- The registers of window 0x0 (R6). -/
def regs_glb : List RegRow := [
  ⟨0x100, 0x4, 1, 0x0, 0x0, 0x0, 0x0, 0x0, 0xFFF⟩ /- GLB_IMG_STS -/,
  ⟨0x104, 0x4, 1, 0x0, 0x0, 0x0, 0x0, 0x0, 0xFFFFFFFF⟩ /- GLB_IMG_VER -/,
  ⟨0x108, 0x4, 1, 0x0, 0x0, 0x0, 0x0, 0x0, 0xFFFFFFFF⟩ /- GLB_MINVER -/,
  ⟨0x10C, 0x4, 1, 0x0, 0x0, 0x0, 0x0, 0x0, 0x3FFFF⟩ /- GLB_IMG_ID -/,
  ⟨0x110, 0x4, 1, 0x0, 0x0, 0x0, 0x0, 0x0, 0xFFFFFFFF⟩ /- GLB_IMG_BUILD_LO -/,
  ⟨0x114, 0x4, 1, 0x0, 0x0, 0x0, 0x0, 0x0, 0xFFFFFFFF⟩ /- GLB_IMG_BUILD_HI -/,
  ⟨0x118, 0x4, 1, 0x0, 0x0, 0x0, 0x0, 0x0, 0xFF⟩ /- GLB_FUSE_KEYS -/,
  ⟨0x120, 0x4, 1, 0x0, 0x0, 0x0, 0x0, 0x0, 0xFFFFFFFF⟩ /- GLB_IDHASH_LO -/,
  ⟨0x124, 0x4, 1, 0x0, 0x0, 0x0, 0x0, 0x0, 0xFFFFFFFF⟩ /- GLB_IDHASH_HI -/,
  ⟨0x1000, 0x20, 64, 0x0, 0x0, 0xFFFE, 0x0, 0x0, 0xFFFF⟩ /- GLB_RGN_r_CTL -/,
  ⟨0x1004, 0x20, 64, 0x0, 0x0, 0x0, 0x0, 0x0, 0x7FFFFFFF⟩ /- GLB_RGN_r_FIRST -/,
  ⟨0x1008, 0x20, 64, 0x0, 0x0, 0x0, 0x0, 0x0, 0x7FFFFFFF⟩ /- GLB_RGN_r_NSEG -/,
  ⟨0x100C, 0x20, 64, 0x0, 0x0, 0xFFFFFFFF, 0x0, 0x0, 0xFFFFFFFF⟩ /- GLB_RGN_r_ACC_LO -/,
  ⟨0x1010, 0x20, 64, 0x0, 0x0, 0xFFFFFFFF, 0x0, 0x0, 0xFFFFFFFF⟩ /- GLB_RGN_r_ACC_HI -/,
  ⟨0x200, 0x4, 1, 0x1, 0x0, 0x0, 0x0, 0x0, 0xFFFFF⟩ /- GLB_BOOT_STS -/,
  ⟨0x204, 0x4, 1, 0x0, 0x0, 0x0, 0x0, 0x0, 0xFFFFFFFF⟩ /- GLB_BOOT_TIME -/,
  ⟨0x208, 0x4, 1, 0x0, 0x0, 0x0, 0x0, 0x0, 0xFFFFFFFF⟩ /- GLB_BOOT_CNT_COLD -/,
  ⟨0x20C, 0x4, 1, 0x0, 0x0, 0x0, 0x0, 0x0, 0xFFFFFFFF⟩ /- GLB_BOOT_CNT_WARM -/,
  ⟨0x210, 0x4, 1, 0x0, 0x0, 0x0, 0x0, 0x3, 0x0⟩ /- GLB_BOOT_CTL -/,
  ⟨0x214, 0x4, 1, 0x0, 0x0, 0x0, 0x0, 0x0, 0xF⟩ /- GLB_TADPOLE -/,
  ⟨0x0, 0x4, 1, 0x4C344B57, 0x0, 0x0, 0x0, 0x0, 0xFFFFFFFF⟩ /- GLB_ID -/,
  ⟨0x4, 0x4, 1, 0x101, 0x0, 0x0, 0x0, 0x0, 0xFFFF⟩ /- GLB_REV -/,
  ⟨0x8, 0x4, 1, 0x1, 0x0, 0x0, 0x0, 0x0, 0xFF⟩ /- GLB_STATE -/,
  ⟨0x10, 0x4, 1, 0x0, 0x0, 0x0, 0x0, 0x0, 0xFFFFFFFF⟩ /- GLB_TICK_LO -/,
  ⟨0x14, 0x4, 1, 0x0, 0x0, 0x0, 0x0, 0x0, 0xFFFFFFFF⟩ /- GLB_TICK_HI -/]

/-- The registers of window 0x1 (R6). -/
def regs_svc : List RegRow := [
  ⟨0x100000, 0x4, 1, 0x0, 0x0, 0x0, 0x0, 0x30, 0x1F03⟩ /- SVC_LOCK -/,
  ⟨0x100004, 0x4, 1, 0x0, 0x4, 0x0, 0x0, 0x3, 0x1FFFF4⟩ /- SVC_TXN -/,
  ⟨0x100008, 0x4, 1, 0xF4240, 0x0, 0xFFFFFF, 0x0, 0x0, 0xFFFFFF⟩ /- SVC_TMO -/,
  ⟨0x10000C, 0x4, 1, 0x0, 0x0, 0x0, 0x0, 0x0, 0xFFFFFFFF⟩ /- SVC_COMMIT -/,
  ⟨0x100010, 0x4, 1, 0x0, 0x0, 0x0, 0x7, 0x0, 0x7⟩ /- SVC_ERR -/,
  ⟨0x100100, 0x20, 2, 0x400000, 0x0, 0x0, 0x0, 0x0, 0xFFFFFF⟩ /- SVC_PORT_p_STS -/,
  ⟨0x100104, 0x20, 2, 0x1A0, 0x0, 0x1FF, 0x0, 0x200, 0x1FF⟩ /- SVC_PORT_p_CFG -/,
  ⟨0x100108, 0x20, 2, 0x0, 0x0, 0x0, 0x3F, 0x0, 0x3F⟩ /- SVC_PORT_p_ERR -/,
  ⟨0x10010C, 0x20, 2, 0x0, 0x0, 0x0, 0x0, 0x0, 0xFFFF⟩ /- SVC_PORT_p_RST -/]

/-- The registers of window 0x2 (R6). -/
def regs_evt : List RegRow := [
  ⟨0x200000, 0x4, 1, 0x0, 0x0, 0x0, 0x0, 0x0, 0xFFFFFFFF⟩ /- EVT_RILL_LO -/,
  ⟨0x200004, 0x4, 1, 0x0, 0x0, 0x0, 0x0, 0x0, 0xFFFFFFFF⟩ /- EVT_RILL_HI -/,
  ⟨0x200008, 0x4, 1, 0x40, 0x0, 0x0, 0x80, 0x100, 0xFFFF00FF⟩ /- EVT_RILL_STS -/,
  ⟨0x20000C, 0x4, 1, 0x0, 0x0, 0x0, 0x0, 0x0, 0xFFFFFFFF⟩ /- EVT_DROP -/,
  ⟨0x200100, 0x4, 16, 0x0, 0x0, 0x0, 0xFFFFFFFF, 0x0, 0xFFFFFFFF⟩ /- EVT_PEND_b -/,
  ⟨0x201000, 0x4, 512, 0x0, 0x0, 0xFF, 0x0, 0x0, 0xFF⟩ /- EVT_ROUTE_n -/,
  ⟨0x202000, 0x8, 15, 0x0, 0x0, 0xFFFFFFFF, 0x0, 0x0, 0xFFFFFFFF⟩ /- EVT_ASET_k_LO -/,
  ⟨0x202004, 0x8, 15, 0x0, 0x0, 0xFFFFFFFF, 0x0, 0x0, 0xFFFFFFFF⟩ /- EVT_ASET_k_HI -/]

/-- The registers of window 0x3 (R6). -/
def regs_sch : List RegRow := [
  ⟨0x300000, 0x4, 1, 0x0, 0x0, 0x0, 0x0, 0x0, 0x1FFFFFFF⟩ /- SCH_SPOS -/,
  ⟨0x300004, 0x4, 1, 0x0, 0x0, 0x0, 0x0, 0x0, 0xFFFFF⟩ /- SCH_POS_OFS -/,
  ⟨0x300008, 0x4, 1, 0x0, 0x0, 0x0, 0x0, 0x0, 0x1F⟩ /- SCH_IMG -/,
  ⟨0x30000C, 0x4, 1, 0x4, 0x0, 0x0, 0x0, 0x0, 0x7⟩ /- SCH_SPARE -/,
  ⟨0x300010, 0x4, 1, 0x0, 0x0, 0x0, 0x0, 0x0, 0xFFFFFFFF⟩ /- SCH_RETIRED_LO -/,
  ⟨0x300014, 0x4, 1, 0x0, 0x0, 0x0, 0x0, 0x0, 0xFFFF⟩ /- SCH_RETIRED_HI -/,
  ⟨0x300018, 0x4, 1, 0x0, 0x0, 0x0, 0x0, 0x0, 0x1FFFFFF⟩ /- SCH_FLT_SPOS -/,
  ⟨0x30001C, 0x4, 1, 0x0, 0x0, 0x0, 0x0, 0x0, 0x801F3F3F⟩ /- SCH_FLT_INFO -/,
  ⟨0x300020, 0x4, 1, 0x1, 0x0, 0x0, 0x0, 0x0, 0x3⟩ /- SCH_WARDEN -/,
  ⟨0x300024, 0x4, 1, 0x0, 0x0, 0x0, 0x0, 0x1, 0x0⟩ /- SCH_CYC_CLR -/,
  ⟨0x300100, 0x4, 44, 0x0, 0x0, 0x0, 0x0, 0x0, 0x80000F3F⟩ /- SCH_MAP_n -/,
  ⟨0x300200, 0x4, 44, 0x0, 0x0, 0x0, 0x0, 0x0, 0x7FF07FF⟩ /- SCH_CYC_n -/,
  ⟨0x300300, 0x4, 44, 0x0, 0x0, 0x0, 0x0, 0x0, 0x7FF⟩ /- SCH_WC_n -/]

/-- The registers of window 0x4 (R6). -/
def regs_fab : List RegRow := [
  ⟨0x400000, 0x100, 16, 0x34, 0x0, 0x3F, 0x0, 0x0, 0x3F⟩ /- FAB_CTL_p -/,
  ⟨0x400004, 0x100, 16, 0x3FC0, 0x0, 0x0, 0x0, 0x0, 0x7FFFFF⟩ /- FAB_STS_p -/,
  ⟨0x400008, 0x100, 16, 0x76543210, 0x0, 0x0, 0x0, 0x0, 0xFFFFFFFF⟩ /- FAB_LMAP_p -/,
  ⟨0x40000C, 0x100, 16, 0xFFFFFFFF, 0x0, 0xFFFFFFFF, 0x0, 0x0, 0xFFFFFFFF⟩ /- FAB_ALLOW_LO_p -/,
  ⟨0x400010, 0x100, 16, 0xFFFFFFFF, 0x0, 0xFFFFFFFF, 0x0, 0x0, 0xFFFFFFFF⟩ /- FAB_ALLOW_HI_p -/,
  ⟨0x400014, 0x100, 16, 0x0, 0x0, 0x0, 0x0, 0x0, 0xFFFFFFFF⟩ /- FAB_AGT_LO_p -/,
  ⟨0x400018, 0x100, 16, 0x0, 0x0, 0x0, 0x0, 0x0, 0xFFFFFFFF⟩ /- FAB_AGT_HI_p -/,
  ⟨0x40001C, 0x100, 16, 0x0, 0x0, 0x0, 0x0, 0x0, 0xFFFFFFFF⟩ /- FAB_CRINIT_p -/,
  ⟨0x400020, 0x100, 16, 0x0, 0x0, 0x0, 0x0, 0x0, 0xFFFFFFFF⟩ /- FAB_CRNOW_p -/,
  ⟨0x400024, 0x100, 16, 0x1000, 0x0, 0xFFFFFF, 0x0, 0x0, 0xFFFFFF⟩ /- FAB_LTHR_p -/,
  ⟨0x400028, 0x100, 16, 0x0, 0x0, 0x0, 0xFF, 0x0, 0xFF⟩ /- FAB_ERR_p -/,
  ⟨0x40002C, 0x100, 16, 0x0, 0x0, 0x0, 0x0, 0x1, 0x0⟩ /- FAB_CMD_p -/,
  ⟨0x401000, 0x4, 1, 0x7D0, 0x0, 0xFFFFFF, 0x0, 0x0, 0xFFFFFF⟩ /- FAB_DOWN_TMO -/]

/-- The registers of window 0x5 (R6). -/
def regs_bsn : List RegRow := [
  ⟨0x500000, 0x4, 1, 0x27102710, 0x0, 0xFFFFFFFF, 0x0, 0x0, 0xFFFFFFFF⟩ /- BSN_TMO -/,
  ⟨0x500004, 0x4, 1, 0x10, 0x0, 0x1F, 0x0, 0x0, 0x1F⟩ /- BSN_SF_CTL -/,
  ⟨0x500008, 0x4, 1, 0x0, 0x0, 0x0, 0x0, 0x0, 0x1FFFFF⟩ /- BSN_SF_STS -/,
  ⟨0x50000C, 0x4, 1, 0x10000, 0x0, 0x0, 0x0, 0x0, 0xFFFFFFFF⟩ /- BSN_SF_SPARE -/,
  ⟨0x500010, 0x4, 1, 0x0, 0x0, 0x0, 0x0, 0x0, 0x801F0FFF⟩ /- BSN_TRK -/,
  ⟨0x500014, 0x4, 1, 0x0, 0x0, 0x0, 0x0, 0x0, 0xFFFFFFFF⟩ /- BSN_DEAD_LO -/,
  ⟨0x500018, 0x4, 1, 0x0, 0x0, 0x0, 0x0, 0x0, 0xFFFFFFFF⟩ /- BSN_DEAD_HI -/,
  ⟨0x50001C, 0x4, 1, 0x0, 0x0, 0x0, 0x0, 0x33F, 0x0⟩ /- BSN_AGENT_CMD -/,
  ⟨0x500020, 0x4, 1, 0x0, 0x0, 0x0, 0x0, 0x0, 0xFFFFFFF⟩ /- BSN_SKINK_STS -/,
  ⟨0x500024, 0x4, 1, 0x0, 0x0, 0x0, 0x0, 0x0, 0xFFFFFFFF⟩ /- BSN_SKINK_LOST_LO -/,
  ⟨0x500028, 0x4, 1, 0x0, 0x0, 0x0, 0x0, 0x0, 0xFFFF⟩ /- BSN_SKINK_LOST_HI -/,
  ⟨0x50002C, 0x4, 1, 0x0, 0x0, 0x0, 0x3F, 0x0, 0x3F⟩ /- BSN_ERR -/,
  ⟨0x500030, 0x4, 1, 0x0, 0x0, 0x0, 0x0, 0x0, 0x803FFFFF⟩ /- BSN_PERR_INFO -/,
  ⟨0x500034, 0x4, 1, 0x0, 0x0, 0x0, 0x0, 0x0, 0x1FFFF⟩ /- BSN_SF_UNC -/]

/-- The registers of window 0x6 (R6). -/
def regs_ntr : List RegRow := [
  ⟨0x600000, 0x4, 1, 0x0, 0x0, 0x0, 0x0, 0x0, 0x3F⟩ /- NTR_CFG -/,
  ⟨0x600004, 0x4, 1, 0x2, 0x0, 0xF, 0x0, 0x0, 0x7FF⟩ /- NTR_MERGE -/,
  ⟨0x600008, 0x4, 1, 0x0, 0x0, 0xFF3FF, 0x0, 0x0, 0xFF3FF⟩ /- NTR_WCLS -/,
  ⟨0x60000C, 0x4, 1, 0xFFFFFFFF, 0x0, 0xFFFFFFFF, 0x0, 0x0, 0xFFFFFFFF⟩ /- NTR_WIN_LO -/,
  ⟨0x600010, 0x4, 1, 0xFFFFFFFF, 0x0, 0xFFFFFFFF, 0x0, 0x0, 0xFFFFFFFF⟩ /- NTR_WIN_HI -/,
  ⟨0x600014, 0x4, 1, 0x810, 0x0, 0xFFFF, 0x0, 0x0, 0xFFFF⟩ /- NTR_THR -/,
  ⟨0x600018, 0x4, 1, 0x0, 0x0, 0x0, 0x1, 0x0, 0x7F⟩ /- NTR_CE_STS -/,
  ⟨0x60001C, 0x4, 1, 0x1FFFF8, 0x0, 0x0, 0x0, 0x0, 0x1FFFFF⟩ /- NTR_SPARE -/,
  ⟨0x600020, 0x4, 1, 0x0, 0x0, 0x0, 0x0, 0x0, 0xFFFFFF⟩ /- NTR_LEAF -/,
  ⟨0x600024, 0x4, 1, 0x0, 0x0, 0x0, 0x0, 0x0, 0xFFFFFFFF⟩ /- NTR_POOL -/,
  ⟨0x600030, 0x4, 1, 0x0, 0xFFFFFFFF, 0x0, 0x0, 0x0, 0xFFFFFFFF⟩ /- NTR_SCRUB_FIRST -/,
  ⟨0x600034, 0x4, 1, 0x0, 0xFFFFFFFF, 0x0, 0x0, 0x0, 0xFFFFFFFF⟩ /- NTR_SCRUB_LAST -/,
  ⟨0x600038, 0x4, 1, 0x0, 0x0, 0x0, 0xC, 0x1, 0xE⟩ /- NTR_SCRUB_CTL -/,
  ⟨0x60003C, 0x4, 1, 0x0, 0x0, 0x0, 0x0, 0x0, 0xFFFFFFFF⟩ /- NTR_SCRUB_SUM -/,
  ⟨0x600040, 0x8, 5, 0x0, 0x0, 0x0, 0x0, 0x0, 0xFFFFFFFF⟩ /- NTR_RGN_r -/,
  ⟨0x600044, 0x8, 5, 0x0, 0x0, 0x0, 0x0, 0x0, 0xFFFFFFFF⟩ /- NTR_RGNSZ_r -/,
  ⟨0x600100, 0x8, 32, 0x0, 0x0, 0x0, 0x80000000, 0x0, 0xBFFFFFFF⟩ /- NTR_CE_k_LO -/,
  ⟨0x600104, 0x8, 32, 0x0, 0x0, 0x0, 0x0, 0x0, 0xFF07⟩ /- NTR_CE_k_HI -/,
  ⟨0x600200, 0x4, 48, 0x0, 0x0, 0x0, 0x0, 0x0, 0x1FF⟩ /- NTR_CH_c -/]

/-- The registers of window 0x7 (R6). -/
def regs_med : List RegRow := [
  ⟨0x700000, 0x4, 1, 0x0, 0x0, 0x0, 0x0, 0x0, 0x7⟩ /- MED_CFG -/,
  ⟨0x700004, 0x4, 1, 0x2EE0, 0x0, 0xFFFF, 0x0, 0x0, 0xFFFF⟩ /- MED_TMO -/,
  ⟨0x700008, 0x4, 1, 0x40, 0x0, 0x3FF, 0x0, 0x0, 0x3FF⟩ /- MED_ERASED -/,
  ⟨0x70000C, 0x4, 1, 0x0, 0x0, 0x0, 0x0, 0x0, 0xFFFFFFFF⟩ /- MED_GDT_LO -/,
  ⟨0x700010, 0x4, 1, 0x0, 0x0, 0x0, 0x0, 0x0, 0xFFFF⟩ /- MED_GDT_HI -/,
  ⟨0x701000, 0x40, 64, 0x0, 0x0, 0x0, 0x0, 0x0, 0x3F⟩ /- MED_CH_STS_c -/,
  ⟨0x701004, 0x40, 64, 0x0, 0x0, 0x0, 0x0, 0x0, 0xFFFFFFFF⟩ /- MED_DIE_POP_c -/,
  ⟨0x701008, 0x40, 64, 0x0, 0x0, 0x0, 0x0, 0x0, 0xFFFFFFFF⟩ /- MED_DIE_FAIL_c -/,
  ⟨0x70100C, 0x40, 64, 0x0, 0x0, 0x0, 0x0, 0x0, 0xFFFFFFFF⟩ /- MED_DIE_RSV_c -/,
  ⟨0x701010, 0x40, 64, 0x0, 0x0, 0x0, 0x3FF, 0x0, 0x3FF⟩ /- MED_ERR_c -/,
  ⟨0x701014, 0x40, 64, 0x0, 0x0, 0x0, 0x0, 0x0, 0x81FFFFFF⟩ /- MED_LAST_c -/,
  ⟨0x701018, 0x40, 64, 0x0, 0x0, 0x0, 0x0, 0x0, 0x7FF⟩ /- MED_OPEN_c -/]

/-- The registers of window 0x8 (R6). -/
def regs_xlt : List RegRow := [
  ⟨0x800000, 0x4, 1, 0x0, 0x0, 0x0, 0x0, 0x0, 0x3FFFFF⟩ /- XLT_CFG -/,
  ⟨0x800004, 0x4, 1, 0x200040, 0x0, 0xFFFFFFF, 0x0, 0x0, 0xFFFFFFF⟩ /- XLT_GC -/,
  ⟨0x800008, 0x4, 1, 0x0, 0x0, 0x0, 0x0, 0x0, 0x1FFFFFF⟩ /- XLT_FREE_MIN -/,
  ⟨0x80000C, 0x4, 1, 0x0, 0x0, 0x0, 0x0, 0x0, 0xFFFFFFFF⟩ /- XLT_AGE_NOW -/,
  ⟨0x800014, 0x4, 1, 0x40, 0x0, 0xFFFFFFFF, 0x0, 0x0, 0xFFFFFFFF⟩ /- XLT_AGEB_k -/,
  ⟨0x800018, 0x4, 1, 0x400, 0x0, 0xFFFFFFFF, 0x0, 0x0, 0xFFFFFFFF⟩ /- XLT_AGEB_k -/,
  ⟨0x80001C, 0x4, 1, 0x4000, 0x0, 0xFFFFFFFF, 0x0, 0x0, 0xFFFFFFFF⟩ /- XLT_AGEB_k -/,
  ⟨0x800020, 0x4, 1, 0x40000, 0x0, 0xFFFFFFFF, 0x0, 0x0, 0xFFFFFFFF⟩ /- XLT_AGEB_k -/,
  ⟨0x800024, 0x4, 1, 0x100000, 0x0, 0xFFFFFFFF, 0x0, 0x0, 0xFFFFFFFF⟩ /- XLT_AGEB_k -/,
  ⟨0x800028, 0x4, 1, 0x400000, 0x0, 0xFFFFFFFF, 0x0, 0x0, 0xFFFFFFFF⟩ /- XLT_AGEB_k -/,
  ⟨0x80002C, 0x4, 1, 0x1000000, 0x0, 0xFFFFFFFF, 0x0, 0x0, 0xFFFFFFFF⟩ /- XLT_AGEB_k -/,
  ⟨0x800030, 0x4, 1, 0x0, 0x0, 0x0, 0x0, 0x0, 0xFFFFFFFF⟩ /- XLT_REBUILD -/,
  ⟨0x800034, 0x4, 1, 0x0, 0x0, 0x0, 0x7F, 0x0, 0x7F⟩ /- XLT_ERR -/,
  ⟨0x800038, 0x4, 1, 0x0, 0xFFFFFFFF, 0x0, 0x0, 0x0, 0xFFFFFFFF⟩ /- XLT_PROBE_LEAF_LO -/,
  ⟨0x80003C, 0x4, 1, 0x0, 0xFF, 0x0, 0x0, 0x80000000, 0xFF⟩ /- XLT_PROBE_LEAF_HI -/,
  ⟨0x800040, 0x4, 1, 0x0, 0x0, 0x0, 0x0, 0x0, 0xFFFFFFFF⟩ /- XLT_PROBE_PA_LO -/,
  ⟨0x800044, 0x4, 1, 0x0, 0x0, 0x0, 0x0, 0x0, 0x8007FFFF⟩ /- XLT_PROBE_PA_HI -/,
  ⟨0x800100, 0x4, 64, 0x0, 0x0, 0x0, 0x0, 0x0, 0xFFFF⟩ /- XLT_CKPT_c -/]

/-- The registers of window 0x9 (R6). -/
def regs_slu : List RegRow := [
  ⟨0x900000, 0x4, 1, 0x0, 0x0, 0x1, 0x0, 0x2, 0xFD⟩ /- SLU_WC_CTL -/,
  ⟨0x900004, 0x4, 1, 0x17, 0x0, 0x1E, 0x0, 0x0, 0x1F⟩ /- SLU_SCA -/,
  ⟨0x900008, 0x4, 1, 0x1, 0x0, 0x0, 0x2, 0x0, 0x3⟩ /- SLU_ENT -/,
  ⟨0x90000C, 0x4, 1, 0x0, 0x0, 0x0, 0x0, 0x0, 0xFFFFFFFF⟩ /- SLU_ROOTCTR_LO -/,
  ⟨0x900010, 0x4, 1, 0x0, 0x0, 0x0, 0x0, 0x0, 0xFFFFFFFF⟩ /- SLU_ROOTCTR_HI -/,
  ⟨0x900014, 0x4, 1, 0x0, 0xFFF, 0x0, 0x0, 0x0, 0xFFF⟩ /- SLU_KEY_SEL -/,
  ⟨0x900018, 0x4, 1, 0x0, 0x0, 0x0, 0x0, 0x0, 0x3⟩ /- SLU_KEY_STS -/,
  ⟨0x90001C, 0x4, 1, 0x0, 0x0, 0x0, 0x0, 0x0, 0xFFFFFFFF⟩ /- SLU_REKEY -/,
  ⟨0x900020, 0x4, 1, 0x0, 0x0, 0x0, 0x0, 0x0, 0xFFFFFFFF⟩ /- SLU_REKEY_CUR_LO -/,
  ⟨0x900024, 0x4, 1, 0x0, 0x0, 0x0, 0x0, 0x0, 0xFF⟩ /- SLU_REKEY_CUR_HI -/,
  ⟨0x900028, 0x4, 1, 0x1000, 0x0, 0xFFFF, 0x0, 0x0, 0xFFFF⟩ /- SLU_REKEY_RATE -/,
  ⟨0x90002C, 0x4, 1, 0x0, 0x0, 0x0, 0x0, 0x0, 0xFFFFFFFF⟩ /- SLU_REKEY_PEND -/,
  ⟨0x900030, 0x4, 1, 0x0, 0x0, 0x0, 0x0, 0x0, 0xFFFFFFFF⟩ /- SLU_REFUSED -/,
  ⟨0x900034, 0x4, 1, 0x0, 0x0, 0x0, 0x3FF, 0x0, 0x3FF⟩ /- SLU_ERR -/]

/-- The registers of window 0xA (R6). -/
def regs_twn : List RegRow := [
  ⟨0xA00000, 0x4, 1, 0x0, 0x0, 0x0, 0x0, 0x0, 0x7FFF⟩ /- TWN_STS -/,
  ⟨0xA00004, 0x4, 1, 0x0, 0x0, 0x1, 0x0, 0x0, 0x1⟩ /- TWN_CTL -/,
  ⟨0xA00008, 0x4, 1, 0x0, 0x0, 0x0, 0x0, 0x3, 0x0⟩ /- TWN_CMD -/,
  ⟨0xA0000C, 0x4, 1, 0x0, 0x0, 0x0, 0x0, 0x0, 0xFFFFFFFF⟩ /- TWN_PEPOCH -/,
  ⟨0xA00010, 0x4, 1, 0x0, 0x0, 0x0, 0x0, 0x0, 0xFFFFFFFF⟩ /- TWN_PARTNER_LO -/,
  ⟨0xA00014, 0x4, 1, 0x0, 0x0, 0x0, 0x0, 0x0, 0xFFFFFFFF⟩ /- TWN_PARTNER_HI -/,
  ⟨0xA00018, 0x4, 1, 0x0, 0x0, 0xFF, 0x0, 0x0, 0xFFFFFF⟩ /- TWN_TSYNC -/,
  ⟨0xA0001C, 0x4, 1, 0x7D02710, 0x0, 0xFFFFFFFF, 0x0, 0x0, 0xFFFFFFFF⟩ /- TWN_TMO -/,
  ⟨0xA00020, 0x4, 1, 0xB4, 0x0, 0xFF, 0x0, 0x0, 0xFF⟩ /- TWN_RSLV_RATE -/,
  ⟨0xA00024, 0x4, 1, 0x0, 0x0, 0x0, 0x0, 0x0, 0xFFFFFFFF⟩ /- TWN_RSLV_PROG -/,
  ⟨0xA00028, 0x4, 1, 0x0, 0x0, 0x0, 0x0, 0x0, 0xFFFF⟩ /- TWN_CTAB -/,
  ⟨0xA0002C, 0x4, 1, 0x0, 0x0, 0x0, 0x3F, 0x0, 0x3F⟩ /- TWN_ERR -/,
  ⟨0xA00030, 0x4, 1, 0x0, 0x0, 0x0, 0x0, 0x0, 0x7F⟩ /- TWN_HS_INFO -/]

/-- The registers of window 0xB (R6). -/
def regs_pwr : List RegRow := [
  ⟨0xB00000, 0x4, 1, 0x0, 0x0, 0x0, 0x0, 0x0, 0x1FF⟩ /- PWR_STS -/,
  ⟨0xB00004, 0x4, 1, 0x1, 0x0, 0x1, 0x0, 0x0, 0x1⟩ /- PWR_CTL -/,
  ⟨0xB00008, 0x4, 1, 0x0, 0x0, 0x0, 0x0, 0x3, 0x0⟩ /- PWR_CMD -/,
  ⟨0xB0000C, 0x4, 1, 0x10680000, 0x0, 0xFFFF0000, 0x0, 0x0, 0xFFFFFFFF⟩ /- PWR_VIN -/,
  ⟨0xB00010, 0x4, 1, 0x75300000, 0x0, 0xFFFF0000, 0x0, 0x0, 0xFFFFFFFF⟩ /- PWR_HU_V -/,
  ⟨0xB00014, 0x4, 1, 0x0, 0x0, 0x0, 0x0, 0x0, 0xFFFFFFFF⟩ /- PWR_HU_CAP -/,
  ⟨0xB00018, 0x4, 1, 0x0, 0x0, 0x0, 0x0, 0x0, 0xFFFFFFFF⟩ /- PWR_HU_E -/,
  ⟨0xB0001C, 0x4, 1, 0x0, 0x0, 0x0, 0x0, 0x0, 0xFF⟩ /- PWR_DCAP -/,
  ⟨0xB00020, 0x4, 1, 0x0, 0x0, 0x0, 0x0, 0x0, 0x1FFFF⟩ /- PWR_DIRTY -/,
  ⟨0xB00024, 0x4, 1, 0x0, 0x0, 0x0, 0x0, 0x0, 0x7FFFFF⟩ /- PWR_SPW_LAST -/,
  ⟨0xB00028, 0x4, 1, 0x20864, 0x0, 0x3FFFFF, 0x0, 0x0, 0x3FFFFF⟩ /- PWR_QUAL -/,
  ⟨0xB0002C, 0x4, 1, 0x0, 0x0, 0x0, 0xFF, 0x0, 0xFF⟩ /- PWR_ERR -/,
  ⟨0xB00100, 0x10, 16, 0x0, 0x0, 0x0, 0x0, 0x0, 0x3FFFFFF⟩ /- PWR_RAIL_r_STS -/,
  ⟨0xB00104, 0x10, 16, 0x0, 0x0, 0xFFFFFFFF, 0x0, 0x0, 0xFFFFFFFF⟩ /- PWR_RAIL_r_WARN -/,
  ⟨0xB00108, 0x10, 16, 0x0, 0x0, 0xFFFFFFFF, 0x0, 0x0, 0xFFFFFFFF⟩ /- PWR_RAIL_r_FAULT -/,
  ⟨0xB0010C, 0x10, 16, 0x0, 0x0, 0xFFFF, 0x0, 0x0, 0x3FFFFFFF⟩ /- PWR_RAIL_r_CTL -/]

/-- The registers of window 0xC (R6). -/
def regs_thm : List RegRow := [
  ⟨0xC00000, 0x4, 1, 0x0, 0x0, 0x0, 0x0, 0x0, 0x1FFFFF⟩ /- THM_STS -/,
  ⟨0xC00004, 0x4, 1, 0x3302F8, 0x0, 0xFFFFFF, 0x0, 0x0, 0xFFFFFF⟩ /- THM_LVL -/,
  ⟨0xC00008, 0x4, 1, 0x380, 0x0, 0x0, 0x0, 0x0, 0xFFF⟩ /- THM_SHUT -/,
  ⟨0xC0000C, 0x4, 1, 0x5, 0x0, 0x1F, 0x0, 0x0, 0x1F⟩ /- THM_CFG -/,
  ⟨0xC00010, 0x4, 1, 0x0, 0x0, 0x0, 0x0, 0x0, 0xFFFFFF⟩ /- THM_FAIL -/,
  ⟨0xC00014, 0x4, 1, 0x0, 0x0, 0x0, 0x0, 0x80000000, 0xFFF⟩ /- THM_PEAK -/,
  ⟨0xC00100, 0x4, 24, 0x0, 0x0, 0x0, 0x0, 0x0, 0xFFF⟩ /- THM_SENS_k -/]

/-- The registers of window 0xD (R6). -/
def regs_grt : List RegRow := [
  ⟨0xD00000, 0x4, 1, 0x0, 0x0, 0x0, 0x0, 0x0, 0xFF⟩ /- GRT_STS -/,
  ⟨0xD00004, 0x4, 1, 0xE, 0x0, 0x0, 0x0, 0x0, 0x3FF⟩ /- GRT_SPARE -/,
  ⟨0xD00008, 0x4, 1, 0x104, 0x0, 0xFFF, 0x0, 0x0, 0xFFF⟩ /- GRT_MARGIN -/,
  ⟨0xD0000C, 0x4, 1, 0x10000, 0x0, 0xFFFFFF, 0x0, 0x0, 0xFFFFFF⟩ /- GRT_ROT -/,
  ⟨0xD00010, 0x4, 1, 0x0, 0x0, 0x0, 0x0, 0xF, 0x0⟩ /- GRT_CMD -/,
  ⟨0xD00014, 0x4, 1, 0x0, 0x3FFFFF, 0x0, 0x0, 0x0, 0x3FFFFF⟩ /- GRT_RD_ADDR -/,
  ⟨0xD00018, 0x4, 1, 0x0, 0x0, 0x0, 0x0, 0x0, 0xFFFFFFFF⟩ /- GRT_RD_DATA -/,
  ⟨0xD0001C, 0x4, 1, 0x0, 0x0, 0x0, 0xF, 0x0, 0xF⟩ /- GRT_ERR -/]

/-- The registers of window 0xE (R6). -/
def regs_obs : List RegRow := [
  ⟨0xE00800, 0x4, 1, 0x0, 0x3FF, 0x0, 0x0, 0x0, 0x3FF⟩ /- OBS_BND_SEL -/,
  ⟨0xE00804, 0x4, 1, 0x0, 0x0, 0x0, 0x0, 0x0, 0xFFFFFF⟩ /- OBS_BND_VAL -/,
  ⟨0xE00808, 0x4, 1, 0x0, 0x0, 0x0, 0x0, 0x0, 0xFFFFFFFF⟩ /- OBS_BND_MISS_LO -/,
  ⟨0xE0080C, 0x4, 1, 0x0, 0x0, 0x0, 0x0, 0x0, 0xFFFF⟩ /- OBS_BND_MISS_HI -/,
  ⟨0xE00810, 0x4, 1, 0x0, 0x0, 0x0, 0x0, 0x0, 0xFFFFFFFF⟩ /- OBS_BND_LAST_LO -/,
  ⟨0xE00814, 0x4, 1, 0x0, 0x0, 0x0, 0x0, 0x0, 0x80003F3F⟩ /- OBS_BND_LAST_HI -/,
  ⟨0xE00818, 0x4, 1, 0x0, 0x0, 0x0, 0x0, 0x0, 0xFFFFFFFF⟩ /- OBS_BND_UNEXPL -/,
  ⟨0xE00000, 0x4, 1, 0x0, 0x1, 0x0, 0x0, 0x0, 0x3⟩ /- OBS_CTL -/,
  ⟨0xE00004, 0x4, 1, 0x136C, 0x0, 0x0, 0x0, 0x0, 0xFFFF1FFF⟩ /- OBS_CNT_NUM -/,
  ⟨0xE00008, 0x4, 1, 0x0, 0xFFFF, 0x0, 0x0, 0x0, 0xFFFF⟩ /- OBS_CNT_SEL -/,
  ⟨0xE0000C, 0x4, 1, 0x0, 0x0, 0x0, 0x0, 0x0, 0xFFFFFFFF⟩ /- OBS_CNT_LO -/,
  ⟨0xE00010, 0x4, 1, 0x0, 0x0, 0x0, 0x0, 0x0, 0x7FFFF⟩ /- OBS_CNT_HI -/,
  ⟨0xE00014, 0x4, 1, 0x0, 0x0, 0x0, 0x0, 0x0, 0xFFFFFFFF⟩ /- OBS_CNT_TK -/,
  ⟨0xE00018, 0x4, 1, 0x0, 0x0, 0x0, 0x0, 0x3, 0x0⟩ /- OBS_CNT_CMD -/,
  ⟨0xE00100, 0x4, 1, 0x0, 0x0, 0x1F, 0x0, 0x100, 0x1F⟩ /- OBS_GK_CTL -/,
  ⟨0xE00104, 0x4, 1, 0x0, 0x0, 0x0, 0x0, 0x0, 0xFFFFFFFF⟩ /- OBS_GK_STS -/,
  ⟨0xE00140, 0x4, 16, 0x0, 0x0, 0x0, 0x0, 0x0, 0xFFFFFFFF⟩ /- OBS_GK_REC_w -/,
  ⟨0xE00200, 0x4, 1, 0x10, 0x0, 0xFF, 0x0, 0x0, 0xFF⟩ /- OBS_LED_CFG -/,
  ⟨0xE00204, 0x4, 1, 0x0, 0x0, 0x0, 0x0, 0x0, 0x3FFFFFFF⟩ /- OBS_LED_STS -/,
  ⟨0xE00208, 0x4, 1, 0x1, 0x0, 0x0, 0x0, 0x0, 0xFFFFFFFF⟩ /- OBS_LED_NEXT -/,
  ⟨0xE0020C, 0x4, 1, 0x0, 0x0, 0x0, 0x0, 0x0, 0xFFFFFFFF⟩ /- OBS_LED_DROP -/,
  ⟨0xE00210, 0x4, 1, 0x0, 0x0, 0x0, 0x0, 0x0, 0xFFFFFFFF⟩ /- OBS_LED_SUPP -/,
  ⟨0xE00300, 0x4, 16, 0x0, 0x0, 0xFFFFFFFF, 0x0, 0x0, 0xFFFFFFFF⟩ /- OBS_LED_PRIO_b -/,
  ⟨0xE00400, 0x4, 16, 0x0, 0x0, 0xFFFFFFFF, 0x0, 0x0, 0xFFFFFFFF⟩ /- OBS_LED_SNAP_b -/,
  ⟨0xE00500, 0x4, 10, 0x0, 0x0, 0xFFFFFFFD, 0x0, 0x0, 0xFFFFFFFD⟩ /- OBS_LED_REG_k -/]

/-- The registers of window 0xF (R6). -/
def regs_spr : List RegRow := [
  ⟨0xF00000, 0x4, 1, 0x0, 0x0, 0x0, 0x0, 0x0, 0x3FF1FFF⟩ /- SPR_STS -/,
  ⟨0xF00004, 0x4, 1, 0x400020, 0x0, 0x3FF03FF, 0x0, 0x0, 0x3FF03FF⟩ /- SPR_DRY -/,
  ⟨0xF00008, 0x4, 1, 0x14, 0x0, 0xFF, 0x0, 0x0, 0xFF⟩ /- SPR_REPOP -/,
  ⟨0xF0000C, 0x4, 1, 0x0, 0x0, 0x0, 0x0, 0x0, 0xFFFFFFFF⟩ /- SPR_WPROT_CNT -/,
  ⟨0xF00010, 0x4, 1, 0x64, 0x0, 0x0, 0x0, 0x0, 0x7FF7F⟩ /- SPR_WEAR -/,
  ⟨0xF00100, 0x8, 10, 0x0, 0x0, 0x0, 0x0, 0x0, 0xFFFFFF⟩ /- SPR_GAUGE_k -/,
  ⟨0xF00104, 0x4, 1, 0x1, 0x0, 0xFFFFFF, 0x0, 0x0, 0xFFFFFF⟩ /- SPR_LOW_k -/,
  ⟨0xF0010C, 0x4, 1, 0x1, 0x0, 0xFFFFFF, 0x0, 0x0, 0xFFFFFF⟩ /- SPR_LOW_k -/,
  ⟨0xF00114, 0x4, 1, 0x100, 0x0, 0xFFFFFF, 0x0, 0x0, 0xFFFFFF⟩ /- SPR_LOW_k -/,
  ⟨0xF0011C, 0x4, 1, 0xA, 0x0, 0xFFFFFF, 0x0, 0x0, 0xFFFFFF⟩ /- SPR_LOW_k -/,
  ⟨0xF00124, 0x4, 1, 0x8, 0x0, 0xFFFFFF, 0x0, 0x0, 0xFFFFFF⟩ /- SPR_LOW_k -/,
  ⟨0xF0012C, 0x4, 1, 0x1, 0x0, 0xFFFFFF, 0x0, 0x0, 0xFFFFFF⟩ /- SPR_LOW_k -/,
  ⟨0xF00134, 0x4, 1, 0x1, 0x0, 0xFFFFFF, 0x0, 0x0, 0xFFFFFF⟩ /- SPR_LOW_k -/,
  ⟨0xF0013C, 0x4, 1, 0x2, 0x0, 0xFFFFFF, 0x0, 0x0, 0xFFFFFF⟩ /- SPR_LOW_k -/,
  ⟨0xF00144, 0x4, 1, 0x1000, 0x0, 0xFFFFFF, 0x0, 0x0, 0xFFFFFF⟩ /- SPR_LOW_k -/,
  ⟨0xF0014C, 0x4, 1, 0x4, 0x0, 0xFFFFFF, 0x0, 0x0, 0xFFFFFF⟩ /- SPR_LOW_k -/]

/-- The table of a control-space window. -/
def regTable (w : Nat) : List RegRow :=
  match w with
  | 0 => regs_glb
  | 1 => regs_svc
  | 2 => regs_evt
  | 3 => regs_sch
  | 4 => regs_fab
  | 5 => regs_bsn
  | 6 => regs_ntr
  | 7 => regs_med
  | 8 => regs_xlt
  | 9 => regs_slu
  | 10 => regs_twn
  | 11 => regs_pwr
  | 12 => regs_thm
  | 13 => regs_grt
  | 14 => regs_obs
  | 15 => regs_spr
  | _ => []

/-- Whether a row covers an address. -/
def RegRow.covers (r : RegRow) (a : Nat) : Bool :=
  decide (r.base ≤ a) && decide ((a - r.base) % r.stride = 0) && decide ((a - r.base) / r.stride < r.count)

/-- The row of the register at an address, if one occupies it (R7). -/
def regRow (a : Nat) : Option RegRow := (regTable (a / 0x100000)).find? (·.covers a)

/-- The value a register has at reset. `SCH_MAP_n.PHYS` resets to n (R75). -/
def resetOf (a : Nat) : Word :=
  match regRow a with
  | none => 0
  | some r => if r.base = 0x300100 then BitVec.ofNat 32 ((a - r.base) / 4) else r.reset

/-- R75. -/
def F.SCH_SPOS_SPOS : Fld := ⟨0x00300000, 19, 0⟩
/-- R75. -/
def F.SCH_SPOS_LEVEL : Fld := ⟨0x00300000, 23, 20⟩
/-- R75. -/
def F.SCH_SPOS_NEXT_LEVEL : Fld := ⟨0x00300000, 27, 24⟩
/-- R75. -/
def F.SCH_SPOS_EPOCH_PROG : Fld := ⟨0x00300000, 28, 28⟩
/-- R75. -/
def F.SCH_POS_OFS_OFS : Fld := ⟨0x00300004, 19, 0⟩
/-- R75. -/
def F.SCH_IMG_PHASE_SF : Fld := ⟨0x00300008, 3, 0⟩
/-- R75. -/
def F.SCH_IMG_COPY : Fld := ⟨0x00300008, 4, 4⟩
/-- R75. -/
def F.SCH_SPARE_FREE : Fld := ⟨0x0030000C, 2, 0⟩
/-- R75. -/
def F.SCH_RETIRED_LO_ENG : Fld := ⟨0x00300010, 31, 0⟩
/-- R75. -/
def F.SCH_RETIRED_HI_ENG : Fld := ⟨0x00300014, 15, 0⟩
/-- R75. -/
def F.SCH_FLT_SPOS_SPOS : Fld := ⟨0x00300018, 19, 0⟩
/-- R75. -/
def F.SCH_FLT_SPOS_LEVEL : Fld := ⟨0x00300018, 23, 20⟩
/-- R75. -/
def F.SCH_FLT_SPOS_REPEAT : Fld := ⟨0x00300018, 24, 24⟩
/-- R75. -/
def F.SCH_FLT_INFO_LOGICAL : Fld := ⟨0x0030001C, 5, 0⟩
/-- R75. -/
def F.SCH_FLT_INFO_PHYS : Fld := ⟨0x0030001C, 13, 8⟩
/-- R75. -/
def F.SCH_FLT_INFO_CAUSE : Fld := ⟨0x0030001C, 19, 16⟩
/-- R75. -/
def F.SCH_FLT_INFO_COLD : Fld := ⟨0x0030001C, 20, 20⟩
/-- R75. -/
def F.SCH_FLT_INFO_VALID : Fld := ⟨0x0030001C, 31, 31⟩
/-- R75. -/
def F.SCH_WARDEN_LOCKSTEP_OK : Fld := ⟨0x00300020, 0, 0⟩
/-- R75. -/
def F.SCH_WARDEN_SUBST_BUSY : Fld := ⟨0x00300020, 1, 1⟩
/-- R75. -/
def F.SCH_CYC_CLR_CLR : Fld := ⟨0x00300024, 0, 0⟩
/-- R75. -/
def F.SCH_MAP_PHYS (n : Nat) : Fld := ⟨0x00300100 + 0x4 * n, 5, 0⟩
/-- R75. -/
def F.SCH_MAP_ROLE (n : Nat) : Fld := ⟨0x00300100 + 0x4 * n, 11, 8⟩
/-- R75. -/
def F.SCH_MAP_VALID (n : Nat) : Fld := ⟨0x00300100 + 0x4 * n, 31, 31⟩
/-- R75. -/
def F.SCH_CYC_LAST (n : Nat) : Fld := ⟨0x00300200 + 0x4 * n, 10, 0⟩
/-- R75. -/
def F.SCH_CYC_MAX (n : Nat) : Fld := ⟨0x00300200 + 0x4 * n, 26, 16⟩
/-- R75. -/
def F.SCH_WC_WC (n : Nat) : Fld := ⟨0x00300300 + 0x4 * n, 10, 0⟩
/-- R101. -/
def F.FAB_CTL_ENABLE (n : Nat) : Fld := ⟨0x00400000 + 0x100 * n, 0, 0⟩
/-- R101. -/
def F.FAB_CTL_REACH (n : Nat) : Fld := ⟨0x00400000 + 0x100 * n, 1, 1⟩
/-- R101. -/
def F.FAB_CTL_INTLV (n : Nat) : Fld := ⟨0x00400000 + 0x100 * n, 2, 2⟩
/-- R101. -/
def F.FAB_CTL_PRECODE (n : Nat) : Fld := ⟨0x00400000 + 0x100 * n, 3, 3⟩
/-- R101. -/
def F.FAB_CTL_SWAP_EN (n : Nat) : Fld := ⟨0x00400000 + 0x100 * n, 4, 4⟩
/-- R101. -/
def F.FAB_CTL_HALF_EN (n : Nat) : Fld := ⟨0x00400000 + 0x100 * n, 5, 5⟩
/-- R101. -/
def F.FAB_STS_LTSTATE (n : Nat) : Fld := ⟨0x00400004 + 0x100 * n, 3, 0⟩
/-- R101. -/
def F.FAB_STS_HALF (n : Nat) : Fld := ⟨0x00400004 + 0x100 * n, 4, 4⟩
/-- R101. -/
def F.FAB_STS_SPARE_USED (n : Nat) : Fld := ⟨0x00400004 + 0x100 * n, 5, 5⟩
/-- R101. -/
def F.FAB_STS_FAILED_A (n : Nat) : Fld := ⟨0x00400004 + 0x100 * n, 9, 6⟩
/-- R101. -/
def F.FAB_STS_FAILED_B (n : Nat) : Fld := ⟨0x00400004 + 0x100 * n, 13, 10⟩
/-- R101. -/
def F.FAB_STS_POL (n : Nat) : Fld := ⟨0x00400004 + 0x100 * n, 22, 14⟩
/-- R101. -/
def F.FAB_LMAP_PHYS (n : Nat) : Fld := ⟨0x00400008 + 0x100 * n, 31, 0⟩
/-- R101. -/
def F.FAB_ALLOW_LO_ALLOW (n : Nat) : Fld := ⟨0x0040000C + 0x100 * n, 31, 0⟩
/-- R101. -/
def F.FAB_ALLOW_HI_ALLOW (n : Nat) : Fld := ⟨0x00400010 + 0x100 * n, 31, 0⟩
/-- R101. -/
def F.FAB_AGT_LO_BOUND (n : Nat) : Fld := ⟨0x00400014 + 0x100 * n, 31, 0⟩
/-- R101. -/
def F.FAB_AGT_HI_BOUND (n : Nat) : Fld := ⟨0x00400018 + 0x100 * n, 31, 0⟩
/-- R101. -/
def F.FAB_CRINIT_GRANT (n : Nat) : Fld := ⟨0x0040001C + 0x100 * n, 31, 0⟩
/-- R101. -/
def F.FAB_CRNOW_HELD (n : Nat) : Fld := ⟨0x00400020 + 0x100 * n, 31, 0⟩
/-- R101. -/
def F.FAB_LTHR_THR (n : Nat) : Fld := ⟨0x00400024 + 0x100 * n, 23, 0⟩
/-- R101. -/
def F.FAB_ERR_CRC_FAIL (n : Nat) : Fld := ⟨0x00400028 + 0x100 * n, 0, 0⟩
/-- R101. -/
def F.FAB_ERR_FEC_UNCORR (n : Nat) : Fld := ⟨0x00400028 + 0x100 * n, 1, 1⟩
/-- R101. -/
def F.FAB_ERR_RETRY_EXH (n : Nat) : Fld := ⟨0x00400028 + 0x100 * n, 2, 2⟩
/-- R101. -/
def F.FAB_ERR_CREDIT_OVF (n : Nat) : Fld := ⟨0x00400028 + 0x100 * n, 3, 3⟩
/-- R101. -/
def F.FAB_ERR_BAD_CLASS (n : Nat) : Fld := ⟨0x00400028 + 0x100 * n, 4, 4⟩
/-- R101. -/
def F.FAB_ERR_BAD_AGENT (n : Nat) : Fld := ⟨0x00400028 + 0x100 * n, 5, 5⟩
/-- R101. -/
def F.FAB_ERR_PARAM_MISMATCH (n : Nat) : Fld := ⟨0x00400028 + 0x100 * n, 6, 6⟩
/-- R101. -/
def F.FAB_ERR_TRAIN_TMO (n : Nat) : Fld := ⟨0x00400028 + 0x100 * n, 7, 7⟩
/-- R101. -/
def F.FAB_CMD_REALIGN (n : Nat) : Fld := ⟨0x0040002C + 0x100 * n, 0, 0⟩
/-- R101. -/
def F.FAB_DOWN_TMO_TMO : Fld := ⟨0x00401000, 23, 0⟩
/-- R141. -/
def F.BSN_TMO_SNP_TMO : Fld := ⟨0x00500000, 15, 0⟩
/-- R141. -/
def F.BSN_TMO_PULL_TMO : Fld := ⟨0x00500000, 31, 16⟩
/-- R141. -/
def F.BSN_SF_CTL_BI_LIMIT : Fld := ⟨0x00500004, 4, 0⟩
/-- R141. -/
def F.BSN_SF_STS_OCC : Fld := ⟨0x00500008, 20, 0⟩
/-- R141. -/
def F.BSN_SF_SPARE_FREE : Fld := ⟨0x0050000C, 16, 0⟩
/-- R141. -/
def F.BSN_SF_SPARE_SHORT : Fld := ⟨0x0050000C, 31, 17⟩
/-- R141. -/
def F.BSN_TRK_ACTIVE : Fld := ⟨0x00500010, 11, 0⟩
/-- R141. -/
def F.BSN_TRK_BI : Fld := ⟨0x00500010, 20, 16⟩
/-- R141. -/
def F.BSN_TRK_FULL : Fld := ⟨0x00500010, 31, 31⟩
/-- R141. -/
def F.BSN_DEAD_LO_DEAD : Fld := ⟨0x00500014, 31, 0⟩
/-- R141. -/
def F.BSN_DEAD_HI_DEAD : Fld := ⟨0x00500018, 31, 0⟩
/-- R141. -/
def F.BSN_AGENT_CMD_AGENT : Fld := ⟨0x0050001C, 5, 0⟩
/-- R141. -/
def F.BSN_AGENT_CMD_OP : Fld := ⟨0x0050001C, 9, 8⟩
/-- R141. -/
def F.BSN_SKINK_STS_BUSY : Fld := ⟨0x00500020, 0, 0⟩
/-- R141. -/
def F.BSN_SKINK_STS_AGENT : Fld := ⟨0x00500020, 6, 1⟩
/-- R141. -/
def F.BSN_SKINK_STS_CAUSE : Fld := ⟨0x00500020, 10, 7⟩
/-- R141. -/
def F.BSN_SKINK_STS_SET : Fld := ⟨0x00500020, 26, 11⟩
/-- R141. -/
def F.BSN_SKINK_STS_DEPART : Fld := ⟨0x00500020, 27, 27⟩
/-- R141. -/
def F.BSN_SKINK_LOST_LO_LOST : Fld := ⟨0x00500024, 31, 0⟩
/-- R141. -/
def F.BSN_SKINK_LOST_HI_LOST : Fld := ⟨0x00500028, 15, 0⟩
/-- R141. -/
def F.BSN_ERR_PROTO : Fld := ⟨0x0050002C, 0, 0⟩
/-- R141. -/
def F.BSN_ERR_MISROUTE : Fld := ⟨0x0050002C, 1, 1⟩
/-- R141. -/
def F.BSN_ERR_SF_UNCORR : Fld := ⟨0x0050002C, 2, 2⟩
/-- R141. -/
def F.BSN_ERR_SNP_TMO : Fld := ⟨0x0050002C, 3, 3⟩
/-- R141. -/
def F.BSN_ERR_PULL_TMO : Fld := ⟨0x0050002C, 4, 4⟩
/-- R141. -/
def F.BSN_ERR_CMD_REFUSED : Fld := ⟨0x0050002C, 5, 5⟩
/-- R141. -/
def F.BSN_PERR_INFO_PORT : Fld := ⟨0x00500030, 3, 0⟩
/-- R141. -/
def F.BSN_PERR_INFO_CLASS : Fld := ⟨0x00500030, 6, 4⟩
/-- R141. -/
def F.BSN_PERR_INFO_OP : Fld := ⟨0x00500030, 11, 7⟩
/-- R141. -/
def F.BSN_PERR_INFO_AGENT : Fld := ⟨0x00500030, 17, 12⟩
/-- R141. -/
def F.BSN_PERR_INFO_REASON : Fld := ⟨0x00500030, 21, 18⟩
/-- R141. -/
def F.BSN_PERR_INFO_VALID : Fld := ⟨0x00500030, 31, 31⟩
/-- R141. -/
def F.BSN_SF_UNC_SETS : Fld := ⟨0x00500034, 16, 0⟩
/-- R180. -/
def F.NTR_CFG_RATE : Fld := ⟨0x00600000, 2, 0⟩
/-- R180. -/
def F.NTR_CFG_DENS : Fld := ⟨0x00600000, 4, 3⟩
/-- R180. -/
def F.NTR_CFG_G2 : Fld := ⟨0x00600000, 5, 5⟩
/-- R180. -/
def F.NTR_MERGE_WIN : Fld := ⟨0x00600004, 3, 0⟩
/-- R180. -/
def F.NTR_MERGE_USED : Fld := ⟨0x00600004, 10, 4⟩
/-- R180. -/
def F.NTR_WCLS_CLS : Fld := ⟨0x00600008, 19, 0⟩
/-- R180. -/
def F.NTR_WIN_LO_MASK : Fld := ⟨0x0060000C, 31, 0⟩
/-- R180. -/
def F.NTR_WIN_HI_MASK : Fld := ⟨0x00600010, 31, 0⟩
/-- R180. -/
def F.NTR_THR_ROW_THR : Fld := ⟨0x00600014, 7, 0⟩
/-- R180. -/
def F.NTR_THR_UE_THR : Fld := ⟨0x00600014, 15, 8⟩
/-- R180. -/
def F.NTR_CE_STS_OVF : Fld := ⟨0x00600018, 0, 0⟩
/-- R180. -/
def F.NTR_CE_STS_USED : Fld := ⟨0x00600018, 6, 1⟩
/-- R180. -/
def F.NTR_SPARE_ACTIVE : Fld := ⟨0x0060001C, 2, 0⟩
/-- R180. -/
def F.NTR_SPARE_FAILED_G0 : Fld := ⟨0x0060001C, 8, 3⟩
/-- R180. -/
def F.NTR_SPARE_FAILED_G1 : Fld := ⟨0x0060001C, 14, 9⟩
/-- R180. -/
def F.NTR_SPARE_FAILED_G2 : Fld := ⟨0x0060001C, 20, 15⟩
/-- R180. -/
def F.NTR_LEAF_NSETS : Fld := ⟨0x00600020, 23, 0⟩
/-- R180. -/
def F.NTR_POOL_NPOOL : Fld := ⟨0x00600024, 31, 0⟩
/-- R180. -/
def F.NTR_SCRUB_FIRST_BLOCK : Fld := ⟨0x00600030, 31, 0⟩
/-- R180. -/
def F.NTR_SCRUB_LAST_BLOCK : Fld := ⟨0x00600034, 31, 0⟩
/-- R180. -/
def F.NTR_SCRUB_CTL_GO : Fld := ⟨0x00600038, 0, 0⟩
/-- R180. -/
def F.NTR_SCRUB_CTL_BUSY : Fld := ⟨0x00600038, 1, 1⟩
/-- R180. -/
def F.NTR_SCRUB_CTL_DONE : Fld := ⟨0x00600038, 2, 2⟩
/-- R180. -/
def F.NTR_SCRUB_CTL_ERR : Fld := ⟨0x00600038, 3, 3⟩
/-- R180. -/
def F.NTR_SCRUB_SUM_CE : Fld := ⟨0x0060003C, 15, 0⟩
/-- R180. -/
def F.NTR_SCRUB_SUM_UE : Fld := ⟨0x0060003C, 23, 16⟩
/-- R180. -/
def F.NTR_SCRUB_SUM_ROWS : Fld := ⟨0x0060003C, 31, 24⟩
/-- R180. -/
def F.NTR_RGN_BASE (n : Nat) : Fld := ⟨0x00600040 + 0x8 * n, 31, 0⟩
/-- R180. -/
def F.NTR_RGNSZ_SIZE (n : Nat) : Fld := ⟨0x00600044 + 0x8 * n, 31, 0⟩
/-- R180. -/
def F.NTR_CE_LO_CHANNEL (n : Nat) : Fld := ⟨0x00600100 + 0x8 * n, 5, 0⟩
/-- R180. -/
def F.NTR_CE_LO_BANK (n : Nat) : Fld := ⟨0x00600100 + 0x8 * n, 9, 6⟩
/-- R180. -/
def F.NTR_CE_LO_ROW (n : Nat) : Fld := ⟨0x00600100 + 0x8 * n, 27, 10⟩
/-- R180. -/
def F.NTR_CE_LO_BLOCK (n : Nat) : Fld := ⟨0x00600100 + 0x8 * n, 29, 28⟩
/-- R180. -/
def F.NTR_CE_LO_VALID (n : Nat) : Fld := ⟨0x00600100 + 0x8 * n, 31, 31⟩
/-- R180. -/
def F.NTR_CE_HI_SLOT (n : Nat) : Fld := ⟨0x00600104 + 0x8 * n, 2, 0⟩
/-- R180. -/
def F.NTR_CE_HI_COUNT (n : Nat) : Fld := ⟨0x00600104 + 0x8 * n, 15, 8⟩
/-- R180. -/
def F.NTR_CH_STATE (n : Nat) : Fld := ⟨0x00600200 + 0x4 * n, 2, 0⟩
/-- R180. -/
def F.NTR_CH_REMAP (n : Nat) : Fld := ⟨0x00600200 + 0x4 * n, 8, 3⟩
/-- R208. -/
def F.MED_CFG_PFMODE : Fld := ⟨0x00700000, 1, 0⟩
/-- R208. -/
def F.MED_CFG_SCAN_DONE : Fld := ⟨0x00700000, 2, 2⟩
/-- R208. -/
def F.MED_TMO_TMO : Fld := ⟨0x00700004, 15, 0⟩
/-- R208. -/
def F.MED_ERASED_ZB : Fld := ⟨0x00700008, 9, 0⟩
/-- R208. -/
def F.MED_GDT_LO_COUNT : Fld := ⟨0x0070000C, 31, 0⟩
/-- R208. -/
def F.MED_GDT_HI_COUNT : Fld := ⟨0x00700010, 15, 0⟩
/-- R208. -/
def F.MED_CH_STS_STATE (n : Nat) : Fld := ⟨0x00701000 + 0x40 * n, 2, 0⟩
/-- R208. -/
def F.MED_CH_STS_RATE (n : Nat) : Fld := ⟨0x00701000 + 0x40 * n, 5, 3⟩
/-- R208. -/
def F.MED_DIE_POP_POP (n : Nat) : Fld := ⟨0x00701004 + 0x40 * n, 31, 0⟩
/-- R208. -/
def F.MED_DIE_FAIL_FAIL (n : Nat) : Fld := ⟨0x00701008 + 0x40 * n, 31, 0⟩
/-- R208. -/
def F.MED_DIE_RSV_RSV (n : Nat) : Fld := ⟨0x0070100C + 0x40 * n, 31, 0⟩
/-- R208. -/
def F.MED_ERR_PROG_FAIL (n : Nat) : Fld := ⟨0x00701010 + 0x40 * n, 0, 0⟩
/-- R208. -/
def F.MED_ERR_ERASE_FAIL (n : Nat) : Fld := ⟨0x00701010 + 0x40 * n, 1, 1⟩
/-- R208. -/
def F.MED_ERR_BLANK_FAIL (n : Nat) : Fld := ⟨0x00701010 + 0x40 * n, 2, 2⟩
/-- R208. -/
def F.MED_ERR_GUARD_REF (n : Nat) : Fld := ⟨0x00701010 + 0x40 * n, 3, 3⟩
/-- R208. -/
def F.MED_ERR_PHASE_REF (n : Nat) : Fld := ⟨0x00701010 + 0x40 * n, 4, 4⟩
/-- R208. -/
def F.MED_ERR_BUSY_TMO (n : Nat) : Fld := ⟨0x00701010 + 0x40 * n, 5, 5⟩
/-- R208. -/
def F.MED_ERR_DIE_FAILED (n : Nat) : Fld := ⟨0x00701010 + 0x40 * n, 6, 6⟩
/-- R208. -/
def F.MED_ERR_TRAIN_FAIL (n : Nat) : Fld := ⟨0x00701010 + 0x40 * n, 7, 7⟩
/-- R208. -/
def F.MED_ERR_TMPL_REF (n : Nat) : Fld := ⟨0x00701010 + 0x40 * n, 8, 8⟩
/-- R208. -/
def F.MED_ERR_OPEN_FULL (n : Nat) : Fld := ⟨0x00701010 + 0x40 * n, 9, 9⟩
/-- R208. -/
def F.MED_LAST_DIE (n : Nat) : Fld := ⟨0x00701014 + 0x40 * n, 4, 0⟩
/-- R208. -/
def F.MED_LAST_PLANE (n : Nat) : Fld := ⟨0x00701014 + 0x40 * n, 6, 5⟩
/-- R208. -/
def F.MED_LAST_BLOCK (n : Nat) : Fld := ⟨0x00701014 + 0x40 * n, 20, 7⟩
/-- R208. -/
def F.MED_LAST_CAUSE (n : Nat) : Fld := ⟨0x00701014 + 0x40 * n, 24, 21⟩
/-- R208. -/
def F.MED_LAST_VALID (n : Nat) : Fld := ⟨0x00701014 + 0x40 * n, 31, 31⟩
/-- R208. -/
def F.MED_OPEN_USED (n : Nat) : Fld := ⟨0x00701018 + 0x40 * n, 10, 0⟩
/-- R240. -/
def F.XLT_CFG_NCH : Fld := ⟨0x00800000, 6, 0⟩
/-- R240. -/
def F.XLT_CFG_PD : Fld := ⟨0x00800000, 11, 7⟩
/-- R240. -/
def F.XLT_CFG_CIST : Fld := ⟨0x00800000, 14, 12⟩
/-- R240. -/
def F.XLT_CFG_OP : Fld := ⟨0x00800000, 21, 15⟩
/-- R240. -/
def F.XLT_GC_GC_LOW : Fld := ⟨0x00800004, 13, 0⟩
/-- R240. -/
def F.XLT_GC_GC_STOP : Fld := ⟨0x00800004, 27, 14⟩
/-- R240. -/
def F.XLT_FREE_MIN_FREE : Fld := ⟨0x00800008, 13, 0⟩
/-- R240. -/
def F.XLT_FREE_MIN_DIE : Fld := ⟨0x00800008, 24, 14⟩
/-- R240. -/
def F.XLT_AGE_NOW_AGE : Fld := ⟨0x0080000C, 31, 0⟩
/-- R240. -/
def F.XLT_AGEB_BOUND (n : Nat) : Fld := ⟨0x00800014 + 0x4 * n, 31, 0⟩
/-- R240. -/
def F.XLT_REBUILD_BUSY : Fld := ⟨0x00800030, 0, 0⟩
/-- R240. -/
def F.XLT_REBUILD_DIE : Fld := ⟨0x00800030, 11, 1⟩
/-- R240. -/
def F.XLT_REBUILD_DONE : Fld := ⟨0x00800030, 31, 12⟩
/-- R240. -/
def F.XLT_ERR_REPLAY_TORN : Fld := ⟨0x00800034, 0, 0⟩
/-- R240. -/
def F.XLT_ERR_REPLAY_FAIL : Fld := ⟨0x00800034, 1, 1⟩
/-- R240. -/
def F.XLT_ERR_FOLD_TWIN : Fld := ⟨0x00800034, 2, 2⟩
/-- R240. -/
def F.XLT_ERR_POISONED : Fld := ⟨0x00800034, 3, 3⟩
/-- R240. -/
def F.XLT_ERR_NO_FREE : Fld := ⟨0x00800034, 4, 4⟩
/-- R240. -/
def F.XLT_ERR_ID_MISMATCH : Fld := ⟨0x00800034, 5, 5⟩
/-- R240. -/
def F.XLT_ERR_UNFORMABLE : Fld := ⟨0x00800034, 6, 6⟩
/-- R240. -/
def F.XLT_PROBE_LEAF_LO_LEAF : Fld := ⟨0x00800038, 31, 0⟩
/-- R240. -/
def F.XLT_PROBE_LEAF_HI_LEAF : Fld := ⟨0x0080003C, 7, 0⟩
/-- R240. -/
def F.XLT_PROBE_LEAF_HI_GO : Fld := ⟨0x0080003C, 31, 31⟩
/-- R240. -/
def F.XLT_PROBE_PA_LO_PADDR : Fld := ⟨0x00800040, 31, 0⟩
/-- R240. -/
def F.XLT_PROBE_PA_HI_PADDR : Fld := ⟨0x00800044, 15, 0⟩
/-- R240. -/
def F.XLT_PROBE_PA_HI_ZERO : Fld := ⟨0x00800044, 16, 16⟩
/-- R240. -/
def F.XLT_PROBE_PA_HI_REBUILD : Fld := ⟨0x00800044, 17, 17⟩
/-- R240. -/
def F.XLT_PROBE_PA_HI_MISS : Fld := ⟨0x00800044, 18, 18⟩
/-- R240. -/
def F.XLT_PROBE_PA_HI_DONE : Fld := ⟨0x00800044, 31, 31⟩
/-- R240. -/
def F.XLT_CKPT_AGE (n : Nat) : Fld := ⟨0x00800100 + 0x4 * n, 15, 0⟩
/-- R253. -/
def F.OBS_BND_SEL_LEVEL : Fld := ⟨0x00E00800, 3, 0⟩
/-- R253. -/
def F.OBS_BND_SEL_CASE : Fld := ⟨0x00E00800, 7, 4⟩
/-- R253. -/
def F.OBS_BND_SEL_STATE : Fld := ⟨0x00E00800, 9, 8⟩
/-- R253. -/
def F.OBS_BND_VAL_BOUND : Fld := ⟨0x00E00804, 23, 0⟩
/-- R253. -/
def F.OBS_BND_MISS_LO_MISS : Fld := ⟨0x00E00808, 31, 0⟩
/-- R253. -/
def F.OBS_BND_MISS_HI_MISS : Fld := ⟨0x00E0080C, 15, 0⟩
/-- R253. -/
def F.OBS_BND_LAST_LO_LAT : Fld := ⟨0x00E00810, 23, 0⟩
/-- R253. -/
def F.OBS_BND_LAST_LO_CASE : Fld := ⟨0x00E00810, 27, 24⟩
/-- R253. -/
def F.OBS_BND_LAST_LO_CAUSE : Fld := ⟨0x00E00810, 31, 28⟩
/-- R253. -/
def F.OBS_BND_LAST_HI_AGENT : Fld := ⟨0x00E00814, 5, 0⟩
/-- R253. -/
def F.OBS_BND_LAST_HI_LEVEL : Fld := ⟨0x00E00814, 11, 8⟩
/-- R253. -/
def F.OBS_BND_LAST_HI_STATE : Fld := ⟨0x00E00814, 13, 12⟩
/-- R253. -/
def F.OBS_BND_LAST_HI_VALID : Fld := ⟨0x00E00814, 31, 31⟩
/-- R253. -/
def F.OBS_BND_UNEXPL_COUNT : Fld := ⟨0x00E00818, 31, 0⟩
/-- R291. -/
def F.SLU_WC_CTL_EN : Fld := ⟨0x00900000, 0, 0⟩
/-- R291. -/
def F.SLU_WC_CTL_INV : Fld := ⟨0x00900000, 1, 1⟩
/-- R291. -/
def F.SLU_WC_CTL_USED : Fld := ⟨0x00900000, 7, 2⟩
/-- R291. -/
def F.SLU_SCA_MASK : Fld := ⟨0x00900004, 0, 0⟩
/-- R291. -/
def F.SLU_SCA_SHUF_INL : Fld := ⟨0x00900004, 1, 1⟩
/-- R291. -/
def F.SLU_SCA_SHUF_MAC : Fld := ⟨0x00900004, 2, 2⟩
/-- R291. -/
def F.SLU_SCA_DUMMY : Fld := ⟨0x00900004, 4, 3⟩
/-- R291. -/
def F.SLU_ENT_HEALTH_OK : Fld := ⟨0x00900008, 0, 0⟩
/-- R291. -/
def F.SLU_ENT_FAIL : Fld := ⟨0x00900008, 1, 1⟩
/-- R291. -/
def F.SLU_ROOTCTR_LO_CTR : Fld := ⟨0x0090000C, 31, 0⟩
/-- R291. -/
def F.SLU_ROOTCTR_HI_CTR : Fld := ⟨0x00900010, 31, 0⟩
/-- R291. -/
def F.SLU_KEY_SEL_KEYID : Fld := ⟨0x00900014, 11, 0⟩
/-- R291. -/
def F.SLU_KEY_STS_STATE : Fld := ⟨0x00900018, 1, 0⟩
/-- R291. -/
def F.SLU_REKEY_BUSY : Fld := ⟨0x0090001C, 0, 0⟩
/-- R291. -/
def F.SLU_REKEY_BLOCKED : Fld := ⟨0x0090001C, 1, 1⟩
/-- R291. -/
def F.SLU_REKEY_REGION : Fld := ⟨0x0090001C, 7, 2⟩
/-- R291. -/
def F.SLU_REKEY_OLD : Fld := ⟨0x0090001C, 19, 8⟩
/-- R291. -/
def F.SLU_REKEY_NEW : Fld := ⟨0x0090001C, 31, 20⟩
/-- R291. -/
def F.SLU_REKEY_CUR_LO_LEAF : Fld := ⟨0x00900020, 31, 0⟩
/-- R291. -/
def F.SLU_REKEY_CUR_HI_LEAF : Fld := ⟨0x00900024, 7, 0⟩
/-- R291. -/
def F.SLU_REKEY_RATE_LEAVES : Fld := ⟨0x00900028, 15, 0⟩
/-- R291. -/
def F.SLU_REKEY_PEND_COUNT : Fld := ⟨0x0090002C, 31, 0⟩
/-- R291. -/
def F.SLU_REFUSED_COUNT : Fld := ⟨0x00900030, 31, 0⟩
/-- R291. -/
def F.SLU_ERR_LINE_TAG : Fld := ⟨0x00900034, 0, 0⟩
/-- R291. -/
def F.SLU_ERR_LEAF_TAG : Fld := ⟨0x00900034, 1, 1⟩
/-- R291. -/
def F.SLU_ERR_NODE_TAG : Fld := ⟨0x00900034, 2, 2⟩
/-- R291. -/
def F.SLU_ERR_MIRROR_TAG : Fld := ⟨0x00900034, 3, 3⟩
/-- R291. -/
def F.SLU_ERR_STRUCT_TAG : Fld := ⟨0x00900034, 4, 4⟩
/-- R291. -/
def F.SLU_ERR_MERGE_POISON : Fld := ⟨0x00900034, 5, 5⟩
/-- R291. -/
def F.SLU_ERR_KEY_REFUSED : Fld := ⟨0x00900034, 6, 6⟩
/-- R291. -/
def F.SLU_ERR_WC_REFUSED : Fld := ⟨0x00900034, 7, 7⟩
/-- R291. -/
def F.SLU_ERR_PAGE_ISOL : Fld := ⟨0x00900034, 8, 8⟩
/-- R291. -/
def F.SLU_ERR_REKEY_BLOCKED : Fld := ⟨0x00900034, 9, 9⟩
/-- R314. -/
def F.TWN_STS_ROLE : Fld := ⟨0x00A00000, 0, 0⟩
/-- R314. -/
def F.TWN_STS_LINK : Fld := ⟨0x00A00000, 3, 1⟩
/-- R314. -/
def F.TWN_STS_TAKEOVER : Fld := ⟨0x00A00000, 4, 4⟩
/-- R314. -/
def F.TWN_STS_REISSUE : Fld := ⟨0x00A00000, 5, 5⟩
/-- R314. -/
def F.TWN_STS_RSLV : Fld := ⟨0x00A00000, 6, 6⟩
/-- R314. -/
def F.TWN_STS_TARGET : Fld := ⟨0x00A00000, 7, 7⟩
/-- R314. -/
def F.TWN_STS_FOLLOWER : Fld := ⟨0x00A00000, 8, 8⟩
/-- R314. -/
def F.TWN_STS_HB_OK : Fld := ⟨0x00A00000, 9, 9⟩
/-- R314. -/
def F.TWN_STS_TSYNC_OK : Fld := ⟨0x00A00000, 10, 10⟩
/-- R314. -/
def F.TWN_STS_PSTATE : Fld := ⟨0x00A00000, 14, 11⟩
/-- R314. -/
def F.TWN_CTL_ADOPT : Fld := ⟨0x00A00004, 0, 0⟩
/-- R314. -/
def F.TWN_CMD_OP : Fld := ⟨0x00A00008, 1, 0⟩
/-- R314. -/
def F.TWN_PEPOCH_EPOCH : Fld := ⟨0x00A0000C, 31, 0⟩
/-- R314. -/
def F.TWN_PARTNER_LO_ID : Fld := ⟨0x00A00010, 31, 0⟩
/-- R314. -/
def F.TWN_PARTNER_HI_ID : Fld := ⟨0x00A00014, 31, 0⟩
/-- R314. -/
def F.TWN_TSYNC_DELAY : Fld := ⟨0x00A00018, 7, 0⟩
/-- R314. -/
def F.TWN_TSYNC_SKEW : Fld := ⟨0x00A00018, 23, 8⟩
/-- R314. -/
def F.TWN_TMO_REISSUE_TMO : Fld := ⟨0x00A0001C, 15, 0⟩
/-- R314. -/
def F.TWN_TMO_LINK_TMO : Fld := ⟨0x00A0001C, 31, 16⟩
/-- R314. -/
def F.TWN_RSLV_RATE_GBPS : Fld := ⟨0x00A00020, 7, 0⟩
/-- R314. -/
def F.TWN_RSLV_PROG_SEG : Fld := ⟨0x00A00024, 31, 0⟩
/-- R314. -/
def F.TWN_CTAB_USED : Fld := ⟨0x00A00028, 15, 0⟩
/-- R314. -/
def F.TWN_ERR_HS_REFUSED : Fld := ⟨0x00A0002C, 0, 0⟩
/-- R314. -/
def F.TWN_ERR_TSYNC_LOST : Fld := ⟨0x00A0002C, 1, 1⟩
/-- R314. -/
def F.TWN_ERR_SKEW : Fld := ⟨0x00A0002C, 2, 2⟩
/-- R314. -/
def F.TWN_ERR_SPOS_MISMATCH : Fld := ⟨0x00A0002C, 3, 3⟩
/-- R314. -/
def F.TWN_ERR_CMD_REFUSED : Fld := ⟨0x00A0002C, 4, 4⟩
/-- R314. -/
def F.TWN_ERR_CTAB_FULL : Fld := ⟨0x00A0002C, 5, 5⟩
/-- R314. -/
def F.TWN_HS_INFO_REASON : Fld := ⟨0x00A00030, 3, 0⟩
/-- R314. -/
def F.TWN_HS_INFO_STEP : Fld := ⟨0x00A00030, 6, 4⟩
/-- R332. -/
def F.GLB_IMG_STS_A_RSN : Fld := ⟨0x00000100, 3, 0⟩
/-- R332. -/
def F.GLB_IMG_STS_B_RSN : Fld := ⟨0x00000100, 7, 4⟩
/-- R332. -/
def F.GLB_IMG_STS_LOADED : Fld := ⟨0x00000100, 9, 8⟩
/-- R332. -/
def F.GLB_IMG_STS_RDMODE : Fld := ⟨0x00000100, 11, 10⟩
/-- R332. -/
def F.GLB_IMG_VER_VERSION : Fld := ⟨0x00000104, 31, 0⟩
/-- R332. -/
def F.GLB_MINVER_MINVER : Fld := ⟨0x00000108, 31, 0⟩
/-- R332. -/
def F.GLB_IMG_ID_PAIRVER : Fld := ⟨0x0000010C, 15, 0⟩
/-- R332. -/
def F.GLB_IMG_ID_SLOT : Fld := ⟨0x0000010C, 17, 16⟩
/-- R332. -/
def F.GLB_IMG_BUILD_LO_BUILD : Fld := ⟨0x00000110, 31, 0⟩
/-- R332. -/
def F.GLB_IMG_BUILD_HI_BUILD : Fld := ⟨0x00000114, 31, 0⟩
/-- R332. -/
def F.GLB_FUSE_KEYS_PROG : Fld := ⟨0x00000118, 3, 0⟩
/-- R332. -/
def F.GLB_FUSE_KEYS_REVOKED : Fld := ⟨0x00000118, 7, 4⟩
/-- R332. -/
def F.GLB_IDHASH_LO_ID : Fld := ⟨0x00000120, 31, 0⟩
/-- R332. -/
def F.GLB_IDHASH_HI_ID : Fld := ⟨0x00000124, 31, 0⟩
/-- R332. -/
def F.GLB_RGN_CTL_VALID (n : Nat) : Fld := ⟨0x00001000 + 0x20 * n, 0, 0⟩
/-- R332. -/
def F.GLB_RGN_CTL_WP (n : Nat) : Fld := ⟨0x00001000 + 0x20 * n, 1, 1⟩
/-- R332. -/
def F.GLB_RGN_CTL_ACK (n : Nat) : Fld := ⟨0x00001000 + 0x20 * n, 3, 2⟩
/-- R332. -/
def F.GLB_RGN_CTL_KEYID (n : Nat) : Fld := ⟨0x00001000 + 0x20 * n, 15, 4⟩
/-- R332. -/
def F.GLB_RGN_FIRST_SEG (n : Nat) : Fld := ⟨0x00001004 + 0x20 * n, 30, 0⟩
/-- R332. -/
def F.GLB_RGN_NSEG_SEG (n : Nat) : Fld := ⟨0x00001008 + 0x20 * n, 30, 0⟩
/-- R332. -/
def F.GLB_RGN_ACC_LO_ACC (n : Nat) : Fld := ⟨0x0000100C + 0x20 * n, 31, 0⟩
/-- R332. -/
def F.GLB_RGN_ACC_HI_ACC (n : Nat) : Fld := ⟨0x00001010 + 0x20 * n, 31, 0⟩
/-- R345. -/
def F.GLB_BOOT_STS_STEP : Fld := ⟨0x00000200, 3, 0⟩
/-- R345. -/
def F.GLB_BOOT_STS_FAIL_STEP : Fld := ⟨0x00000200, 7, 4⟩
/-- R345. -/
def F.GLB_BOOT_STS_FAIL_RSN : Fld := ⟨0x00000200, 15, 8⟩
/-- R345. -/
def F.GLB_BOOT_STS_LAST_START : Fld := ⟨0x00000200, 17, 16⟩
/-- R345. -/
def F.GLB_BOOT_STS_FLUSHED : Fld := ⟨0x00000200, 18, 18⟩
/-- R345. -/
def F.GLB_BOOT_STS_TADPOLE : Fld := ⟨0x00000200, 19, 19⟩
/-- R345. -/
def F.GLB_BOOT_TIME_TICKS : Fld := ⟨0x00000204, 31, 0⟩
/-- R345. -/
def F.GLB_BOOT_CNT_COLD_COUNT : Fld := ⟨0x00000208, 31, 0⟩
/-- R345. -/
def F.GLB_BOOT_CNT_WARM_COUNT : Fld := ⟨0x0000020C, 31, 0⟩
/-- R345. -/
def F.GLB_BOOT_CTL_RST : Fld := ⟨0x00000210, 0, 0⟩
/-- R345. -/
def F.GLB_BOOT_CTL_SOLO : Fld := ⟨0x00000210, 1, 1⟩
/-- R345. -/
def F.GLB_TADPOLE_EPOCHS : Fld := ⟨0x00000214, 3, 0⟩
/-- R367. -/
def F.PWR_STS_VIN_OK : Fld := ⟨0x00B00000, 0, 0⟩
/-- R367. -/
def F.PWR_STS_PF_IN : Fld := ⟨0x00B00000, 1, 1⟩
/-- R367. -/
def F.PWR_STS_PF_DRV : Fld := ⟨0x00B00000, 2, 2⟩
/-- R367. -/
def F.PWR_STS_SPW : Fld := ⟨0x00B00000, 5, 3⟩
/-- R367. -/
def F.PWR_STS_PAUSED : Fld := ⟨0x00B00000, 6, 6⟩
/-- R367. -/
def F.PWR_STS_HU_TEST : Fld := ⟨0x00B00000, 7, 7⟩
/-- R367. -/
def F.PWR_STS_CAP_SHORT : Fld := ⟨0x00B00000, 8, 8⟩
/-- R367. -/
def F.PWR_CTL_PF_FOLLOW : Fld := ⟨0x00B00004, 0, 0⟩
/-- R367. -/
def F.PWR_CMD_OP : Fld := ⟨0x00B00008, 1, 0⟩
/-- R367. -/
def F.PWR_VIN_NOW : Fld := ⟨0x00B0000C, 15, 0⟩
/-- R367. -/
def F.PWR_VIN_PF : Fld := ⟨0x00B0000C, 31, 16⟩
/-- R367. -/
def F.PWR_HU_V_NOW : Fld := ⟨0x00B00010, 15, 0⟩
/-- R367. -/
def F.PWR_HU_V_PF : Fld := ⟨0x00B00010, 31, 16⟩
/-- R367. -/
def F.PWR_HU_CAP_CAP : Fld := ⟨0x00B00014, 15, 0⟩
/-- R367. -/
def F.PWR_HU_CAP_V0 : Fld := ⟨0x00B00014, 31, 16⟩
/-- R367. -/
def F.PWR_HU_E_EUSE : Fld := ⟨0x00B00018, 15, 0⟩
/-- R367. -/
def F.PWR_HU_E_ENEED : Fld := ⟨0x00B00018, 31, 16⟩
/-- R367. -/
def F.PWR_DCAP_CAP : Fld := ⟨0x00B0001C, 5, 0⟩
/-- R367. -/
def F.PWR_DCAP_LIMIT : Fld := ⟨0x00B0001C, 7, 6⟩
/-- R367. -/
def F.PWR_DIRTY_MIB : Fld := ⟨0x00B00020, 16, 0⟩
/-- R367. -/
def F.PWR_SPW_LAST_TICKS : Fld := ⟨0x00B00024, 19, 0⟩
/-- R367. -/
def F.PWR_SPW_LAST_END : Fld := ⟨0x00B00024, 22, 20⟩
/-- R367. -/
def F.PWR_QUAL_QUAL_TK : Fld := ⟨0x00B00028, 9, 0⟩
/-- R367. -/
def F.PWR_QUAL_LOW_TK : Fld := ⟨0x00B00028, 13, 10⟩
/-- R367. -/
def F.PWR_QUAL_CHAT_N : Fld := ⟨0x00B00028, 21, 14⟩
/-- R367. -/
def F.PWR_ERR_RAIL_WARN : Fld := ⟨0x00B0002C, 0, 0⟩
/-- R367. -/
def F.PWR_ERR_RAIL_FAULT : Fld := ⟨0x00B0002C, 1, 1⟩
/-- R367. -/
def F.PWR_ERR_CHATTER : Fld := ⟨0x00B0002C, 2, 2⟩
/-- R367. -/
def F.PWR_ERR_DIS_TMO : Fld := ⟨0x00B0002C, 3, 3⟩
/-- R367. -/
def F.PWR_ERR_LOG_ABANDON : Fld := ⟨0x00B0002C, 4, 4⟩
/-- R367. -/
def F.PWR_ERR_HU_FAIL : Fld := ⟨0x00B0002C, 5, 5⟩
/-- R367. -/
def F.PWR_ERR_CAP_LOWERED : Fld := ⟨0x00B0002C, 6, 6⟩
/-- R367. -/
def F.PWR_ERR_FLUSH_TORN : Fld := ⟨0x00B0002C, 7, 7⟩
/-- R367. -/
def F.PWR_RAIL_STS_MV (n : Nat) : Fld := ⟨0x00B00100 + 0x10 * n, 15, 0⟩
/-- R367. -/
def F.PWR_RAIL_STS_STATE (n : Nat) : Fld := ⟨0x00B00100 + 0x10 * n, 18, 16⟩
/-- R367. -/
def F.PWR_RAIL_STS_TRANS (n : Nat) : Fld := ⟨0x00B00100 + 0x10 * n, 23, 19⟩
/-- R367. -/
def F.PWR_RAIL_STS_TRIES (n : Nat) : Fld := ⟨0x00B00100 + 0x10 * n, 25, 24⟩
/-- R367. -/
def F.PWR_RAIL_WARN_LO (n : Nat) : Fld := ⟨0x00B00104 + 0x10 * n, 15, 0⟩
/-- R367. -/
def F.PWR_RAIL_WARN_HI (n : Nat) : Fld := ⟨0x00B00104 + 0x10 * n, 31, 16⟩
/-- R367. -/
def F.PWR_RAIL_FAULT_LO (n : Nat) : Fld := ⟨0x00B00108 + 0x10 * n, 15, 0⟩
/-- R367. -/
def F.PWR_RAIL_FAULT_HI (n : Nat) : Fld := ⟨0x00B00108 + 0x10 * n, 31, 16⟩
/-- R367. -/
def F.PWR_RAIL_CTL_REACT (n : Nat) : Fld := ⟨0x00B0010C + 0x10 * n, 1, 0⟩
/-- R367. -/
def F.PWR_RAIL_CTL_DIS_TMO (n : Nat) : Fld := ⟨0x00B0010C + 0x10 * n, 15, 2⟩
/-- R367. -/
def F.PWR_RAIL_CTL_PG_TMO (n : Nat) : Fld := ⟨0x00B0010C + 0x10 * n, 29, 16⟩
/-- R382. -/
def F.GRT_STS_STORE_OK : Fld := ⟨0x00D00000, 0, 0⟩
/-- R382. -/
def F.GRT_STS_BUSY : Fld := ⟨0x00D00000, 1, 1⟩
/-- R382. -/
def F.GRT_STS_WAIT : Fld := ⟨0x00D00000, 2, 2⟩
/-- R382. -/
def F.GRT_STS_PROT : Fld := ⟨0x00D00000, 4, 3⟩
/-- R382. -/
def F.GRT_STS_RECOV : Fld := ⟨0x00D00000, 7, 5⟩
/-- R382. -/
def F.GRT_SPARE_FREE : Fld := ⟨0x00D00004, 3, 0⟩
/-- R382. -/
def F.GRT_SPARE_RETIRED : Fld := ⟨0x00D00004, 9, 4⟩
/-- R382. -/
def F.GRT_MARGIN_PAGES : Fld := ⟨0x00D00008, 7, 0⟩
/-- R382. -/
def F.GRT_MARGIN_BITS : Fld := ⟨0x00D00008, 11, 8⟩
/-- R382. -/
def F.GRT_ROT_WRITES : Fld := ⟨0x00D0000C, 23, 0⟩
/-- R382. -/
def F.GRT_CMD_OP : Fld := ⟨0x00D00010, 1, 0⟩
/-- R382. -/
def F.GRT_CMD_LEVEL : Fld := ⟨0x00D00010, 3, 2⟩
/-- R382. -/
def F.GRT_RD_ADDR_ADDR : Fld := ⟨0x00D00014, 21, 0⟩
/-- R382. -/
def F.GRT_RD_DATA_DATA : Fld := ⟨0x00D00018, 31, 0⟩
/-- R382. -/
def F.GRT_ERR_PROT : Fld := ⟨0x00D0001C, 0, 0⟩
/-- R382. -/
def F.GRT_ERR_NOSPARE : Fld := ⟨0x00D0001C, 1, 1⟩
/-- R382. -/
def F.GRT_ERR_UNCORR : Fld := ⟨0x00D0001C, 2, 2⟩
/-- R382. -/
def F.GRT_ERR_PROG_FAIL : Fld := ⟨0x00D0001C, 3, 3⟩
/-- R390. -/
def F.THM_STS_MAX : Fld := ⟨0x00C00000, 11, 0⟩
/-- R390. -/
def F.THM_STS_HOT : Fld := ⟨0x00C00000, 16, 12⟩
/-- R390. -/
def F.THM_STS_WARN : Fld := ⟨0x00C00000, 17, 17⟩
/-- R390. -/
def F.THM_STS_THROT : Fld := ⟨0x00C00000, 18, 18⟩
/-- R390. -/
def F.THM_STS_TRIP : Fld := ⟨0x00C00000, 19, 19⟩
/-- R390. -/
def F.THM_STS_FORCED : Fld := ⟨0x00C00000, 20, 20⟩
/-- R390. -/
def F.THM_LVL_WARN : Fld := ⟨0x00C00004, 11, 0⟩
/-- R390. -/
def F.THM_LVL_THROT : Fld := ⟨0x00C00004, 23, 12⟩
/-- R390. -/
def F.THM_SHUT_SHUT : Fld := ⟨0x00C00008, 11, 0⟩
/-- R390. -/
def F.THM_CFG_STEP : Fld := ⟨0x00C0000C, 4, 0⟩
/-- R390. -/
def F.THM_FAIL_SENS : Fld := ⟨0x00C00010, 23, 0⟩
/-- R390. -/
def F.THM_PEAK_PEAK : Fld := ⟨0x00C00014, 11, 0⟩
/-- R390. -/
def F.THM_PEAK_CLR : Fld := ⟨0x00C00014, 31, 31⟩
/-- R390. -/
def F.THM_SENS_TEMP (n : Nat) : Fld := ⟨0x00C00100 + 0x4 * n, 11, 0⟩
/-- R410. -/
def F.GLB_ID_VENDOR : Fld := ⟨0x00000000, 15, 0⟩
/-- R410. -/
def F.GLB_ID_PART : Fld := ⟨0x00000000, 31, 16⟩
/-- R410. -/
def F.GLB_REV_STEPPING : Fld := ⟨0x00000004, 7, 0⟩
/-- R410. -/
def F.GLB_REV_LCFVER : Fld := ⟨0x00000004, 15, 8⟩
/-- R410. -/
def F.GLB_STATE_STATE : Fld := ⟨0x00000008, 3, 0⟩
/-- R410. -/
def F.GLB_STATE_TADPOLE : Fld := ⟨0x00000008, 4, 4⟩
/-- R410. -/
def F.GLB_STATE_DEGRADED : Fld := ⟨0x00000008, 5, 5⟩
/-- R410. -/
def F.GLB_STATE_THROTTLED : Fld := ⟨0x00000008, 6, 6⟩
/-- R410. -/
def F.GLB_STATE_DRY : Fld := ⟨0x00000008, 7, 7⟩
/-- R410. -/
def F.GLB_TICK_LO_TICK : Fld := ⟨0x00000010, 31, 0⟩
/-- R410. -/
def F.GLB_TICK_HI_TICK : Fld := ⟨0x00000014, 31, 0⟩
/-- R411. -/
def F.SVC_LOCK_OWNER : Fld := ⟨0x00100000, 1, 0⟩
/-- R411. -/
def F.SVC_LOCK_OP : Fld := ⟨0x00100000, 5, 4⟩
/-- R411. -/
def F.SVC_LOCK_LOSS : Fld := ⟨0x00100000, 11, 8⟩
/-- R411. -/
def F.SVC_LOCK_SELF : Fld := ⟨0x00100000, 12, 12⟩
/-- R411. -/
def F.SVC_TXN_OP : Fld := ⟨0x00100004, 1, 0⟩
/-- R411. -/
def F.SVC_TXN_SHADOW_RD : Fld := ⟨0x00100004, 2, 2⟩
/-- R411. -/
def F.SVC_TXN_STATE : Fld := ⟨0x00100004, 5, 4⟩
/-- R411. -/
def F.SVC_TXN_RESULT : Fld := ⟨0x00100004, 9, 6⟩
/-- R411. -/
def F.SVC_TXN_STAGED : Fld := ⟨0x00100004, 19, 10⟩
/-- R411. -/
def F.SVC_TXN_OVF : Fld := ⟨0x00100004, 20, 20⟩
/-- R411. -/
def F.SVC_TMO_LOCK_TMO : Fld := ⟨0x00100008, 23, 0⟩
/-- R411. -/
def F.SVC_COMMIT_TICK : Fld := ⟨0x0010000C, 31, 0⟩
/-- R411. -/
def F.SVC_ERR_LOCK_REFUSED : Fld := ⟨0x00100010, 0, 0⟩
/-- R411. -/
def F.SVC_ERR_TXN_REFUSED : Fld := ⟨0x00100010, 1, 1⟩
/-- R411. -/
def F.SVC_ERR_STAGE_OVF : Fld := ⟨0x00100010, 2, 2⟩
/-- R411. -/
def F.SVC_PORT_STS_DA (n : Nat) : Fld := ⟨0x00100100 + 0x20 * n, 6, 0⟩
/-- R411. -/
def F.SVC_PORT_STS_IBI_EN (n : Nat) : Fld := ⟨0x00100100 + 0x20 * n, 7, 7⟩
/-- R411. -/
def F.SVC_PORT_STS_EID (n : Nat) : Fld := ⟨0x00100100 + 0x20 * n, 15, 8⟩
/-- R411. -/
def F.SVC_PORT_STS_CMD_LVL (n : Nat) : Fld := ⟨0x00100100 + 0x20 * n, 21, 16⟩
/-- R411. -/
def F.SVC_PORT_STS_CMD_EMPTY (n : Nat) : Fld := ⟨0x00100100 + 0x20 * n, 22, 22⟩
/-- R411. -/
def F.SVC_PORT_STS_ASSEMBLING (n : Nat) : Fld := ⟨0x00100100 + 0x20 * n, 23, 23⟩
/-- R411. -/
def F.SVC_PORT_CFG_MDB (n : Nat) : Fld := ⟨0x00100104 + 0x20 * n, 7, 0⟩
/-- R411. -/
def F.SVC_PORT_CFG_IBI_ALERT (n : Nat) : Fld := ⟨0x00100104 + 0x20 * n, 8, 8⟩
/-- R411. -/
def F.SVC_PORT_CFG_FLUSH_CMD (n : Nat) : Fld := ⟨0x00100104 + 0x20 * n, 9, 9⟩
/-- R411. -/
def F.SVC_PORT_ERR_PEC (n : Nat) : Fld := ⟨0x00100108 + 0x20 * n, 0, 0⟩
/-- R411. -/
def F.SVC_PORT_ERR_HDR (n : Nat) : Fld := ⟨0x00100108 + 0x20 * n, 1, 1⟩
/-- R411. -/
def F.SVC_PORT_ERR_OVERSIZE (n : Nat) : Fld := ⟨0x00100108 + 0x20 * n, 2, 2⟩
/-- R411. -/
def F.SVC_PORT_ERR_PARTIAL (n : Nat) : Fld := ⟨0x00100108 + 0x20 * n, 3, 3⟩
/-- R411. -/
def F.SVC_PORT_ERR_NACK (n : Nat) : Fld := ⟨0x00100108 + 0x20 * n, 4, 4⟩
/-- R411. -/
def F.SVC_PORT_ERR_RESET (n : Nat) : Fld := ⟨0x00100108 + 0x20 * n, 5, 5⟩
/-- R411. -/
def F.SVC_PORT_RST_COUNT (n : Nat) : Fld := ⟨0x0010010C + 0x20 * n, 15, 0⟩
/-- R412. -/
def F.EVT_RILL_LO_EVNUM : Fld := ⟨0x00200000, 8, 0⟩
/-- R412. -/
def F.EVT_RILL_LO_ALERT : Fld := ⟨0x00200000, 9, 9⟩
/-- R412. -/
def F.EVT_RILL_LO_LOST_BEFORE : Fld := ⟨0x00200000, 10, 10⟩
/-- R412. -/
def F.EVT_RILL_LO_TICK : Fld := ⟨0x00200000, 31, 11⟩
/-- R412. -/
def F.EVT_RILL_HI_ARG : Fld := ⟨0x00200004, 31, 0⟩
/-- R412. -/
def F.EVT_RILL_STS_LEVEL : Fld := ⟨0x00200008, 5, 0⟩
/-- R412. -/
def F.EVT_RILL_STS_EMPTY : Fld := ⟨0x00200008, 6, 6⟩
/-- R412. -/
def F.EVT_RILL_STS_UNDERRUN : Fld := ⟨0x00200008, 7, 7⟩
/-- R412. -/
def F.EVT_RILL_STS_FLUSH : Fld := ⟨0x00200008, 8, 8⟩
/-- R412. -/
def F.EVT_RILL_STS_LOST : Fld := ⟨0x00200008, 31, 16⟩
/-- R412. -/
def F.EVT_DROP_COUNT : Fld := ⟨0x0020000C, 31, 0⟩
/-- R412. -/
def F.EVT_PEND_PEND (n : Nat) : Fld := ⟨0x00200100 + 0x4 * n, 31, 0⟩
/-- R412. -/
def F.EVT_ROUTE_ROUTE (n : Nat) : Fld := ⟨0x00201000 + 0x4 * n, 7, 0⟩
/-- R412. -/
def F.EVT_ASET_LO_AGENTS (n : Nat) : Fld := ⟨0x00202000 + 0x8 * n, 31, 0⟩
/-- R412. -/
def F.EVT_ASET_HI_AGENTS (n : Nat) : Fld := ⟨0x00202004 + 0x8 * n, 31, 0⟩
/-- R426. -/
def F.OBS_CTL_FREEZE : Fld := ⟨0x00E00000, 0, 0⟩
/-- R426. -/
def F.OBS_CTL_FROZEN : Fld := ⟨0x00E00000, 1, 1⟩
/-- R426. -/
def F.OBS_CNT_NUM_NUM : Fld := ⟨0x00E00004, 12, 0⟩
/-- R426. -/
def F.OBS_CNT_NUM_SWEEPS : Fld := ⟨0x00E00004, 31, 16⟩
/-- R426. -/
def F.OBS_CNT_SEL_INDEX : Fld := ⟨0x00E00008, 15, 0⟩
/-- R426. -/
def F.OBS_CNT_LO_VALUE : Fld := ⟨0x00E0000C, 31, 0⟩
/-- R426. -/
def F.OBS_CNT_HI_VALUE : Fld := ⟨0x00E00010, 15, 0⟩
/-- R426. -/
def F.OBS_CNT_HI_WRAP : Fld := ⟨0x00E00010, 16, 16⟩
/-- R426. -/
def F.OBS_CNT_HI_SAT : Fld := ⟨0x00E00010, 17, 17⟩
/-- R426. -/
def F.OBS_CNT_HI_NONE : Fld := ⟨0x00E00010, 18, 18⟩
/-- R426. -/
def F.OBS_CNT_TK_TIME : Fld := ⟨0x00E00014, 31, 0⟩
/-- R426. -/
def F.OBS_CNT_CMD_OP : Fld := ⟨0x00E00018, 1, 0⟩
/-- R426. -/
def F.OBS_GK_CTL_N : Fld := ⟨0x00E00100, 4, 0⟩
/-- R426. -/
def F.OBS_GK_CTL_POP : Fld := ⟨0x00E00100, 8, 8⟩
/-- R426. -/
def F.OBS_GK_STS_USED : Fld := ⟨0x00E00104, 8, 0⟩
/-- R426. -/
def F.OBS_GK_STS_INFL : Fld := ⟨0x00E00104, 15, 9⟩
/-- R426. -/
def F.OBS_GK_STS_OVW : Fld := ⟨0x00E00104, 31, 16⟩
/-- R426. -/
def F.OBS_GK_REC_DATA (n : Nat) : Fld := ⟨0x00E00140 + 0x4 * n, 31, 0⟩
/-- R426. -/
def F.OBS_LED_CFG_FLOOD : Fld := ⟨0x00E00200, 7, 0⟩
/-- R426. -/
def F.OBS_LED_STS_BUF : Fld := ⟨0x00E00204, 12, 0⟩
/-- R426. -/
def F.OBS_LED_STS_BFULL : Fld := ⟨0x00E00204, 13, 13⟩
/-- R426. -/
def F.OBS_LED_STS_PFULL : Fld := ⟨0x00E00204, 14, 14⟩
/-- R426. -/
def F.OBS_LED_STS_GFULL : Fld := ⟨0x00E00204, 15, 15⟩
/-- R426. -/
def F.OBS_LED_STS_GUSED : Fld := ⟨0x00E00204, 29, 16⟩
/-- R426. -/
def F.OBS_LED_NEXT_SEQ : Fld := ⟨0x00E00208, 31, 0⟩
/-- R426. -/
def F.OBS_LED_DROP_COUNT : Fld := ⟨0x00E0020C, 31, 0⟩
/-- R426. -/
def F.OBS_LED_SUPP_COUNT : Fld := ⟨0x00E00210, 31, 0⟩
/-- R426. -/
def F.OBS_LED_PRIO_PRIO (n : Nat) : Fld := ⟨0x00E00300 + 0x4 * n, 31, 0⟩
/-- R426. -/
def F.OBS_LED_SNAP_SNAP (n : Nat) : Fld := ⟨0x00E00400 + 0x4 * n, 31, 0⟩
/-- R426. -/
def F.OBS_LED_REG_EN (n : Nat) : Fld := ⟨0x00E00500 + 0x4 * n, 0, 0⟩
/-- R426. -/
def F.OBS_LED_REG_ADDR (n : Nat) : Fld := ⟨0x00E00500 + 0x4 * n, 31, 2⟩
/-- R439. -/
def F.SPR_STS_DRY : Fld := ⟨0x00F00000, 0, 0⟩
/-- R439. -/
def F.SPR_STS_ARMED : Fld := ⟨0x00F00000, 1, 1⟩
/-- R439. -/
def F.SPR_STS_DIE : Fld := ⟨0x00F00000, 12, 2⟩
/-- R439. -/
def F.SPR_STS_LOW : Fld := ⟨0x00F00000, 25, 16⟩
/-- R439. -/
def F.SPR_DRY_ENTER : Fld := ⟨0x00F00004, 9, 0⟩
/-- R439. -/
def F.SPR_DRY_EXIT : Fld := ⟨0x00F00004, 25, 16⟩
/-- R439. -/
def F.SPR_REPOP_GBPS : Fld := ⟨0x00F00008, 7, 0⟩
/-- R439. -/
def F.SPR_WPROT_CNT_COUNT : Fld := ⟨0x00F0000C, 31, 0⟩
/-- R439. -/
def F.SPR_WEAR_REMAIN : Fld := ⟨0x00F00010, 6, 0⟩
/-- R439. -/
def F.SPR_WEAR_DIE : Fld := ⟨0x00F00010, 18, 8⟩
/-- R439. -/
def F.SPR_GAUGE_VALUE (n : Nat) : Fld := ⟨0x00F00100 + 0x8 * n, 23, 0⟩
/-- R439. -/
def F.SPR_LOW_LOW (n : Nat) : Fld := ⟨0x00F00104 + 0x8 * n, 23, 0⟩

end Sys2Proof.Machine
end

