-- ==== Sys2Proof/Machine/SMap.lean ====
section
/-!
DEFINITION. Sparse maps: lists of (key, value) pairs with strictly rising keys and no entry equal to
what an unlisted key reads as. Every numbered collection of the block and every addressed store is
one, so equal contents are equal data.
-/
namespace Sys2Proof

/-- A sparse map from numbers. What an unlisted key reads as is the caller's `dflt`. -/
abbrev SMap (α : Type) := List (Nat × α)

/-- The value at key `k`. -/
def SMap.get {α : Type} (dflt : α) : SMap α → Nat → α
  | [], _ => dflt
  | (j, v) :: rest, k => if j = k then v else SMap.get dflt rest k

/-- Drop every entry at key `k` (in canonical form there is at most one). -/
def SMap.erase {α : Type} : SMap α → Nat → SMap α
  | [], _ => []
  | (j, v) :: rest, k => if j = k then SMap.erase rest k else (j, v) :: SMap.erase rest k

/-- Insert or replace the entry at key `k`, keeping the keys rising. -/
def SMap.insert {α : Type} : SMap α → Nat → α → SMap α
  | [], k, v => [(k, v)]
  | (j, w) :: rest, k, v =>
    if k < j then (k, v) :: (j, w) :: rest
    else if j = k then (k, v) :: rest
    else (j, w) :: SMap.insert rest k v

/-- Write `v` at key `k`; a value equal to the unlisted value leaves no entry. -/
def SMap.put {α : Type} [DecidableEq α] (dflt : α) (m : SMap α) (k : Nat) (v : α) : SMap α :=
  if v = dflt then m.erase k else m.insert k v

/-- Change the value at key `k` by `f`. -/
def SMap.upd {α : Type} [DecidableEq α] (dflt : α) (m : SMap α) (k : Nat) (f : α → α) : SMap α :=
  m.put dflt k (f (m.get dflt k))

/-- The keys are strictly rising from `lo`, and no entry equals what its key reads as when unlisted. -/
def SMap.wfBy {α : Type} [DecidableEq α] (dflt : Nat → α) : Nat → SMap α → Bool
  | _, [] => true
  | lo, (j, v) :: rest => decide (lo ≤ j) && !decide (v = dflt j) && SMap.wfBy dflt (j + 1) rest

/-- The canonical form of a map whose every unlisted key reads as one value. -/
def SMap.wf {α : Type} [DecidableEq α] (dflt : α) (m : SMap α) : Bool := SMap.wfBy (fun _ => dflt) 0 m

end Sys2Proof
end

