-- ==== Sys2Proof/Machine/State.lean ====
section
/-!
DEFINITION. The state of one LK4P device: its registers, and every other piece of state the spec gives
it, in one structure per block, with the queue of waiting commands. Plain data throughout.
-/
namespace Sys2Proof.Machine

/-- The base device state (R3). Serving stands for codes 0x5 to 0x9, told apart by the condition flags (R4). -/
inductive Base where
  | off | sequencing | loading | recovering | pairing | serving | withdrawn | shutdown
  deriving DecidableEq, Repr, Inhabited

/-- GLB state that no register holds. `debugUnlocked`: a returned part that Kwaelle has unlocked (R457). -/
structure Glb where
  base : Base := .sequencing
  tadpole : Bool := false
  degraded : Bool := false
  dry : Bool := false
  roleB : Bool := false
  tick : Nat := 0
  routingLoaded : Bool := false
  held : List HeldEvt := []
  image : Option Image := none
  fuses : List FuseSlot := []
  unblown : BitVec 4 := 0
  antiRollbackDone : Bool := false
  stepStart : Nat := 0
  startTick : Nat := 0
  resetLow : Bool := false
  resetHold : Bool := false
  sfEvents : List Nat := []
  sweeping : Bool := false
  sweepEnded : Bool := false
  tadpoleLate : Bool := false
  tadpoleSince : Nat := 0
  joinAt : Option Nat := none
  soloTaken : Bool := false
  handshakeDone : Bool := false
  standbyOnly : Bool := false
  idHash : Word64 := 0
  debugUnlocked : Bool := false
  deriving DecidableEq, Repr, Inhabited

/-- An entry of an event Rill (R400). -/
structure RillEnt where
  evnum : Nat := 0
  alert : Bool := false
  lostBefore : Bool := false
  tick : Nat := 0
  arg : Word := 0
  deriving DecidableEq, Repr, Inhabited

/-- A Ledger command of MCTP class 0x03 (R424). -/
inductive LedCmd where
  | info
  | read (from_ : Word) (count : BitVec 8)
  | nonce
  | clear (upto : Word) (slot : BitVec 8) (pubkeyHash : BitVec 384) (sig : BitVec 768)
  | flush
  deriving DecidableEq, Repr, Inhabited

/-- An entry of a command Rill: one control-space access, or one Ledger command (R396). -/
inductive CmdEnt where
  | rd (seq : BitVec 8) (addr : Word) (last : Bool)
  | wr (seq : BitVec 8) (addr v : Word) (last : Bool)
  | led (seq : BitVec 8) (c : LedCmd)
  deriving DecidableEq, Repr, Inhabited

/-- A service port (R392-R400). -/
structure SvcPort where
  asm : Option (List (BitVec 8)) := none
  cmd : List CmdEnt := []
  words : List Word := []
  doneWords : Nat := 0
  waitCommit : Option (BitVec 8 × Bool) := none
  ev : List RillEnt := []
  lost : Nat := 0
  lostMark : Bool := false
  underrun : Bool := false
  lastLo : Word := 0
  lastHi : Word := 0
  armCmd : Bool := false
  armEv : Bool := false
  capt : SMap (Option Word) := []
  mwl : Nat := 256
  mrl : Nat := 256
  rstact : BitVec 8 := 1
  report : Option (BitVec 8 × BitVec 256 × BitVec 8) := none
  out : List PortOut := []
  deriving DecidableEq, Repr, Inhabited

/-- Service state: semaphore order, transaction shadow bank, executor turn (R401-R406). -/
structure Svc where
  a : SvcPort := {}
  b : SvcPort := {}
  lastOwnerB : Bool := true
  idleSince : Nat := 0
  shadow : SMap (Option Word) := []
  commitAt : Nat := 0
  commitPortB : Bool := false
  turnB : Bool := true
  evtQ : SMap (List LcfMsg) := []
  deriving DecidableEq, Repr, Inhabited

/-- A post between runnels (R59). -/
structure Post where
  target : Nat := 0
  lo : Word64 := 0
  hi : Word64 := 0
  deriving DecidableEq, Repr, Inhabited

/-- A launcher event (R64, R65): the two words SLOTPOP returns. -/
structure Launch where
  w0 : Word64 := 0
  w1 : Word64 := 0
  deriving DecidableEq, Repr, Inhabited

/-- A loop-stack entry (R66). -/
structure LoopEnt where
  first : BitVec 12 := 0
  last : BitVec 12 := 0
  count : Nat := 0
  depth : Nat := 0
  deriving DecidableEq, Repr, Inhabited

/-- What a bundle's MEDIA or XFER slot asks of the units outside the runnel, applied when the bundle closes. -/
inductive UnitReq where
  | mcmd (ch : Nat) (die : Nat) (tmpl : List (BitVec 8))
  | mdin (ch : Nat) (die : Nat) (desc bytes mem ctag : Nat)
  | mdout (ch : Nat) (die : Nat) (desc bytes mem ctag : Nat) (demand : Bool)
  | xmov (desc : Nat) (tmpl : List (BitVec 8))
  deriving DecidableEq, Repr, Inhabited

/-- A control transfer of the ALU slot, taken after the bundle (R57). -/
inductive Ctl where
  | none | branch (t : BitVec 12) | call (t : BitVec 12) | ret | loop (count : Nat) (last : BitVec 12) | exit
  deriving DecidableEq, Repr, Inhabited

/-- An XFER submitted and not ended (R62): its descriptor's data address, and the descriptor as XMOV read it. -/
structure Xfer where
  desc : Nat := 0
  tmpl : List (BitVec 8) := []
  deriving DecidableEq, Repr, Inhabited

/-- The part of a runnel that its bundles change. `popped` are the posts popped in this tick (R71). -/
structure Core where
  g : SMap Word64 := []
  p : BitVec 8 := 1
  ret : List (BitVec 12) := []
  loops : List LoopEnt := []
  data : SMap (BitVec 8) := []
  undo : SMap (Option (List (BitVec 8))) := []
  outbox : List Post := []
  inbox : List Post := []
  popped : List Post := []
  fifo : List Launch := []
  reqs : List UnitReq := []
  xfers : List Xfer := []
  counts : List Nat := []
  ctl : Ctl := .none
  wrG : List Nat := []
  wrP : List Nat := []
  slots : BitVec 4 := 0
  free : Nat := 0
  deriving DecidableEq, Repr, Inhabited

/-- Whether a runnel runs (R63, R66, R69). -/
inductive RunSt where
  | idle | running | faulted (cause : BitVec 4) | held | offline
  deriving DecidableEq, Repr, Inhabited

/-- A logical runnel (R53). `issue` is its core as the current bundle issued (R57), `instr` its instruction SRAM (R54; an
unlisted bundle is all zeros), `arrived` the posts delivered in this tick, which it can pop from the next on (R59). -/
structure Runnel where
  core : Core := {}
  issue : Core := {}
  st : RunSt := .offline
  pc : BitVec 12 := 0
  cyc : Nat := 0
  cost : Nat := 0
  shadowG : SMap Word64 := []
  shadowP : BitVec 8 := 1
  restart : Option (BitVec 12) := none
  instr : SMap Slot := []
  arrived : List Post := []
  deriving DecidableEq, Repr, Inhabited

/-- A warden fault record (R47). -/
structure FaultRec where
  pos : Nat := 0
  level : Nat := 0
  tick : Nat := 0
  deriving DecidableEq, Repr, Inhabited

/-- A substitution in progress (R70); `done` when the spare has taken the role and waits for tick T+4. -/
structure Subst where
  logical : Nat := 0
  phys : Nat := 0
  spare : Nat := 0
  tick : Nat := 0
  done : Bool := false
  deriving DecidableEq, Repr, Inhabited

/-- A bound DEMAND window (R38, R39). `issue` is its issue tick in GLB_TICK; `own` says it serves this twin's copy;
`claimed` marks a window of the other home bound here by the partner's claim; `mapRead` that it carries the map page;
`issued` that its read has been issued. -/
structure Window where
  ch : Nat := 0
  n : Nat := 0
  issue : Nat := 0
  die : Nat := 0
  homeB : Bool := false
  own : Bool := true
  claimed : Bool := false
  htag : Nat := 0
  mapRead : Bool := false
  second : Bool := false
  fallback : Bool := false
  issued : Bool := false
  leaf : Nat := 0
  paddr : Nat := 0
  agecls : Nat := 0
  deriving DecidableEq, Repr, Inhabited

/-- Schedule, runnel and warden state. `freed` are the windows released in this tick, which only a later tick may bind (R40),
`lastLevel` the duty level of the superframe before, `basinPosts` the posts of the last tick to the Basin's translation
interface (R59). -/
structure Sch where
  runnels : SMap Runnel := []
  records : List FaultRec := []
  substs : List Subst := []
  windows : List Window := []
  freed : List (Bool × Nat × Nat) := []
  lastLevel : Nat := 0
  basinPosts : List Post := []
  deriving DecidableEq, Repr, Inhabited

/-- What runs on a die's array (R192-R199). -/
inductive DieOp where
  | none | read | prog (native : Bool) | erase (first : Bool) | reset
  deriving DecidableEq, Repr, Inhabited

/-- An outstanding erase of a die (R194, R195). `suspAt` is the tick of a SUSPEND whose status is still to be read,
`resumeAt` when an erase suspended for a read goes on (R245), `resumed` that RESUME was the last command of it. -/
structure EraseSt where
  native : Bool := true
  blocks : List (Nat × Nat) := []
  credited : Nat := 0
  suspended : Bool := false
  suspAt : Option Nat := none
  resumeAt : Option Nat := none
  resumed : Bool := false
  deriving DecidableEq, Repr, Inhabited

/-- An open-block table entry (R196). -/
structure OpenBlk where
  plane : Nat := 0
  block : Nat := 0
  native : Bool := true
  nwl : Nat := 0
  deriving DecidableEq, Repr, Inhabited

/-- A stripe-table entry (R217). `isCopy` marks the copy stripe (R225), `jlast` the last SEQ of a journal or checkpoint page in
it, `verified` the word lines that count as verified (R205). -/
structure Stripe where
  blk : List Nat := []
  st : BitVec 4 := 0
  erases : Nat := 0
  valid : Nat := 0
  nwl : Nat := 0
  use : BitVec 2 := 0
  ptime : Nat := 0
  jseq : Nat := 0
  refresh : Bool := false
  isCopy : Bool := false
  jlast : Nat := 0
  verified : Nat := 0
  deriving DecidableEq, Repr, Inhabited

/-- A destage record (R221): the leaf, its new address, and at the XFER its lines, poison bits, minors (F) and MAJOR. -/
structure Destage where
  leaf : Nat := 0
  paddr : Nat := 0
  lines : List Line := []
  poison : Word64 := 0
  mins : List Nat := []
  major : Nat := 0
  deriving DecidableEq, Repr, Inhabited

/-- A fold or garbage-collection copy of one leaf (R222, R225): its source and target addresses. -/
structure Copy where
  leaf : Nat := 0
  src : Nat := 0
  dst : Nat := 0
  deriving DecidableEq, Repr, Inhabited

/-- An interior node of the counter tree (R269): MAJOR and its 32 minors, or a counter line with its 64 (R258). Its TAG follows from it
and its parent (R265). -/
structure TreeNode where
  major : Nat := 0
  minors : SMap Nat := []
  deriving DecidableEq, Repr, Inhabited

/-- A node page in media (R273): up to 56 node lines by key, their values and tags as the near tier held them. -/
structure NodePage where
  keys : List Nat := []
  vals : List TreeNode := []
  tags : List Word64 := []
  deriving DecidableEq, Repr, Inhabited

/-- What the program accepted on a die writes (R221, R222, R225, R227, R230). -/
inductive Work where
  | destage (ds : List Destage)
  | copy (gc : Bool) (stripe wl : Nat) (cs : List Copy)
  | wback (stripe : Nat) (recs : List Nat) (pages : List (Nat × Nat)) (ck : Nat) (nodes : List (NodePage × Nat))
  | other
  deriving DecidableEq, Repr, Inhabited

/-- One die, at its index position. `work` is what the program on its array writes, `unver` the copies of word lines programmed
and not yet verified (R205), `missNext` says its next slot is missed and `missNow` that its present one is (R48), `blank` an erase that waits for its blank check, `blankFails` the blocks
whose first blank check failed (R197). `page` is the data register as data-in filled it, `array` where the free values begin that
stand for what the last read brought into it (R61, R193). -/
structure Die where
  op : DieOp := .none
  busySince : Nat := 0
  progBlocks : List (Nat × Nat) := []
  progWl : Nat := 0
  progNative : Bool := false
  blank : Option EraseSt := none
  erase : Option EraseSt := none
  open_ : List OpenBlk := []
  status : BitVec 8 := 0x60
  ready : Bool := true
  missNext : Bool := false
  missNow : Bool := false
  page : SMap (BitVec 8) := []
  array : Option Nat := none
  split : Bool := false
  work : List Work := []
  unver : List Work := []
  gcOn : Bool := false
  blankFails : List (Nat × Nat) := []
  stripes : SMap Stripe := []
  spares : List (Nat × Nat) := []
  bad : List (Nat × Nat) := []
  grown : List (Nat × Nat × Nat) := []
  hasRecord : Bool := false
  notErased : List (Nat × Nat) := []
  offsets : SMap (List Int) := []
  swept : List Nat := []
  nLeaves : List Nat := []
  deriving DecidableEq, Repr, Inhabited

/-- An issue-log entry (R61). -/
structure IssueRec where
  tick : Nat := 0
  die : Nat := 0
  refused : Bool := false
  deriving DecidableEq, Repr, Inhabited

/-- A queued channel transfer (R60): its descriptor with its tag (R62) and the media-buffer address it names, its length and the
bytes still to move, and for a DEMAND transfer the tick its pair is due (R36). -/
structure Transfer where
  rn : Nat := 0
  die : Nat := 0
  desc : Nat := 0
  dataIn : Bool := true
  demand : Bool := false
  left : Nat := 0
  len : Nat := 0
  mem : Nat := 0
  ctag : Nat := 0
  due : Nat := 0
  deriving DecidableEq, Repr, Inhabited

/-- A media channel (R182-R209). `ddr` are the positions in an NV-LPDDR4 timing mode, the others in SDR mode (R182). `subst` is its substitution table (R212) and `failed` its failed positions; both last across starts. -/
structure Chan where
  log : List IssueRec := []
  queue : List Transfer := []
  busUntil : Nat := 0
  buf : SMap (BitVec 8) := []
  subst : SMap Nat := []
  failed : BitVec 32 := 0
  tries : Nat := 0
  ddr : BitVec 32 := 0
  lastVol : SMap Nat := []
  deriving DecidableEq, Repr, Inhabited

/-- Media state. `dies` is keyed by die index, reserve dies by their own position; `swapDue` are the indices, each with its
reserve's position, that change over at the next superframe boundary (R212). -/
structure Med where
  chans : SMap Chan := []
  dies : SMap Die := []
  swapDue : List (Nat × Nat) := []
  recovered : Bool := false
  deriving DecidableEq, Repr, Inhabited

/-- A flit as sent (R88, R91): its fields, and the messages in it (one a flit, log entry 10), a mirror message with its SEQ. -/
structure OutFlit where
  ftype : BitVec 2 := 0
  seq : Nat := 0
  ack : Nat := 4095
  nak : Bool := false
  rply : Bool := false
  clsA : Nat := 0
  cntA : Nat := 0
  clsB : Nat := 0
  cntB : Nat := 0
  lcf : List LcfMsg := []
  mir : List (MirMsg × Nat) := []
  deriving DecidableEq, Repr, Inhabited

/-- A link: a fabric port, or the mirror link (R77-R102, R293). `lt` is the mirror link's training state (a port's is its
FAB_STS register); `tx` fields are the transmit direction's lanes, the others the receive direction's. `sent` is what it has put on
the wire, `ackOut` the last ACK sent; `rxFree` are the credits the other end holds, `owed` the freed entries whose credits have not
gone back (R95); `paramOut` the control words it sends in Param (R85); `txAcc` counts sent frames in sixteenths; `rxFrame` is the last
FRAME received since a switch was agreed; `swapAgain` a swap that a Realign abandoned (R98); `replayDue` waits for the first flit after a
Realign (R94). -/
structure LinkSt where
  stateSince : Nat := 0
  trainSince : Nat := 0
  everActive : Bool := false
  keep : Bool := false
  paramOk : Bool := false
  txSeq : Nat := 0
  rxSeq : Nat := 4095
  acked : Nat := 4095
  nakOut : Bool := false
  nakSince : Nat := 0
  nakAck : Nat := 0
  nakRow : Nat := 0
  rnakAck : Nat := 0
  rnakRow : Nat := 0
  dropping : Bool := false
  replayFrom : Option Nat := none
  retry : List OutFlit := []
  wait : List LcfMsg := []
  mirWait : List (MirMsg × Nat) := []
  crHeld : SMap Nat := []
  rxFree : SMap Nat := []
  lctlOut : Option (BitVec 8 × BitVec 8) := none
  lastLctl : BitVec 16 := 0
  swapLane : Option Nat := none
  swapSince : Nat := 0
  switchAt : Option (BitVec 8) := none
  halfMap : Option (BitVec 8) := none
  failed : List Nat := []
  txSwap : Option Nat := none
  txSpare : Option Nat := none
  txHalf : Option (BitVec 8) := none
  switchTx : Option (BitVec 8) := none
  lt : Nat := 0
  txFrame : BitVec 8 := 0
  sent : List OutFlit := []
  ackOut : Nat := 4095
  owed : SMap Nat := []
  paramOut : List Word64 := []
  frameErrs : Nat := 0
  txAcc : Nat := 0
  switchAcc : Nat := 0
  rxFrame : Option (BitVec 8) := none
  swapAgain : Option Nat := none
  replayDue : Bool := false
  downSince : Option Nat := none
  stoppedSince : Option Nat := none
  deriving DecidableEq, Repr, Inhabited

/-- A request waiting in a port's REQ buffer (R39, R41); `order` is its order of arrival at the home, `covered` the
agents a Barrier covers, fixed when it was received (R150). -/
structure ReqEnt where
  port : Nat := 0
  r : Req := {}
  order : Nat := 0
  gecko : Option Nat := none
  covered : List Nat := []
  waited : Bool := false
  deriving DecidableEq, Repr, Inhabited

/-- Where a transaction stands (R107, R118): queued on its line; active and not yet acted on; acted on and
collecting; its update sent and not yet committed; ended with its HTAG still held (R138). -/
inductive Phase where
  | queued | active | acted | sent | done
  deriving DecidableEq, Repr, Inhabited

/-- Why the Basin runs a transaction: a request, a back-invalidation (R129), a lost-line marking (R137), a promotion or
poisoning by Sluice or translation (R278, R222). -/
inductive TxKind where
  | request | backInv | lost
  deriving DecidableEq, Repr, Inhabited

/-- A snoop sent and not yet fully answered: agent, OP, ticks waited (stopped ticks left out, R131 row 14), the response
taken, and whether its DataSnp has been taken. -/
structure SnpWait where
  agent : Nat := 0
  op : BitVec 5 := 0
  waited : Nat := 0
  rsp : Option (BitVec 5) := none
  data : Bool := false
  deriving DecidableEq, Repr, Inhabited

/-- What an acted transaction waits for besides messages: nothing, a frame (R166), dirty room (R357), a way (R128),
a CIDX (R298). -/
inductive WaitFor where
  | nothing | frame | dirty | way | cidx
  deriving DecidableEq, Repr, Inhabited

/-- A fill that has arrived for a leaf and waits for a frame: poison bits, lines, and whether it is promoted (R278). -/
structure Fill where
  poison : Word64 := 0
  lines : List Line := []
  promote : Bool := false
  deriving DecidableEq, Repr, Inhabited

/-- A tracker entry: one transaction, keyed by its HTAG (R106). -/
structure Txn where
  kind : TxKind := .request
  port : Nat := 0
  r : Req := {}
  order : Nat := 0
  adm : Nat := 0
  actAt : Nat := 0
  phase : Phase := .active
  wait : WaitFor := .nothing
  start : Nat := 0
  excluded : Nat := 0
  posted : Bool := false
  cmpSent : Bool := false
  noCmp : Bool := false
  case_ : Nat := 0
  level : Nat := 0
  bstate : Nat := 0
  cause : Nat := 0
  gecko : Option Nat := none
  status : BitVec 3 := 0
  grant : BitVec 2 := 0
  ndat : Bool := false
  homeData : Bool := false
  value : Line := 0
  st : BitVec 2 := 0
  own : Nat := 0
  condOk : Bool := false
  snps : List SnpWait := []
  fwd : List Nat := []
  shared : Bool := false
  gone : Bool := false
  ownerData : Option Line := none
  pull : Option Nat := none
  pullWait : Nat := 0
  wr : Option (Word64 × Line) := none
  noWrite : Bool := false
  tagBad : Bool := false
  lostBy : Option Nat := none
  quar : Bool := false
  recover : Bool := false
  stage : Nat := 0
  needWin : Bool := false
  rebind : Bool := false
  rbOwn : Bool := true
  rbMap : Bool := false
  fill : Option Fill := none
  way : Option Nat := none
  alloc : Bool := false
  victim : Option Nat := none
  oldVec : Word64 := 0
  seq : Option Nat := none
  acked : Bool := false
  lossOut : Bool := false
  cidx : Option Nat := none
  heldFrom : Nat := 0
  covered : List Nat := []
  sector : Option (Nat × Nat) := none
  walk : Option Nat := none
  deriving DecidableEq, Repr, Inhabited

/-- One line of a snoop-filter entry: ST and OWN (R126). -/
structure SfLine where
  st : BitVec 2 := 0
  own : Agent := 0
  deriving DecidableEq, Repr, Inhabited

/-- A snoop-filter way (R126). -/
structure SfWay where
  v : Bool := false
  tag : BitVec 26 := 0
  sharers : Word64 := 0
  lines : SMap SfLine := []
  retired : Bool := false
  bi : Bool := false
  deriving DecidableEq, Repr, Inhabited

/-- A snoop-filter set: 16 ways in use, one spare, 15 PLRU bits (R126, R130). -/
structure SfSet where
  ways : SMap SfWay := []
  plru : BitVec 15 := 0
  spareUsed : Bool := false
  short : Bool := false
  pinned : Bool := false
  uncertain : Bool := false
  deriving DecidableEq, Repr, Inhabited

/-- A Skink or DEPART walk (R136, R140). -/
structure Walk where
  agent : Nat := 0
  cause : Nat := 0
  set : Nat := 0
  lost : Nat := 0
  depart : Bool := false
  read : Bool := false
  ended : Bool := false
  shadow : Bool := false
  deriving DecidableEq, Repr, Inhabited

/-- A Gecko tag in flight or a completed record (R418, R419). -/
structure Gecko where
  id : Nat := 0
  seq : Nat := 0
  r : Req := {}
  port : Nat := 0
  start : Nat := 0
  stages : SMap Nat := []
  hdr : Word := 0
  deriving DecidableEq, Repr, Inhabited

/-- Basin state (R103-R158). -/
structure Bsn where
  reqs : List ReqEnt := []
  order : Nat := 0
  txns : SMap Txn := []
  sf : SMap SfSet := []
  shadow : SMap SfSet := []
  resv : SMap (Option LAddr) := []
  walks : List Walk := []
  departed : List Nat := []
  partnerWalk : List Nat := []
  lostWait : List (LAddr × Nat) := []
  biQueue : List (Nat × Nat) := []
  barrierRsp : List Nat := []
  undur : List (Nat × Nat) := []
  deriving DecidableEq, Repr, Inhabited

/-- One line of a leaf: valid, data, poison, and its minor counter (dirty exactly when not 0, R260). -/
structure LineRec where
  valid : Bool := false
  minor : Nat := 0
  poison : Bool := false
  data : Line := 0
  deriving DecidableEq, Repr, Inhabited

/-- A leaf-cache frame or victim-pool entry: which leaf it holds (R166, R167). -/
structure Frame where
  leaf : Option Nat := none
  out : Bool := false
  deriving DecidableEq, Repr, Inhabited

/-- A merge-buffer entry (R168). -/
structure Merge where
  laddr : LAddr := 0
  data : Line := 0
  mask : Word64 := 0
  tick : Nat := 0
  deriving DecidableEq, Repr, Inhabited

/-- A row retirement under way (R172): the row, the borrowed row, blocks copied. Rows are row × 16 + bank. -/
structure RowCopy where
  row : Nat := 0
  dest : Nat := 0
  done : Nat := 0
  deriving DecidableEq, Repr, Inhabited

/-- Weir of one near-tier channel (R175-R179). `left` are the line units that a pre-empted tenure still has; `taken` who holds the
channel in place of a requester, JTAG as true, refresh first. -/
structure WeirCh where
  raised : BitVec 10 := 0
  granted : Option Nat := none
  lastOf : SMap Nat := []
  ueEpoch : Nat := 0
  remap : List (Nat × Nat) := []
  copies : List RowCopy := []
  left : SMap Nat := []
  taken : List Bool := []
  deriving DecidableEq, Repr, Inhabited

/-- Near-tier state. `lines` is keyed by line address (a line of the main cache or of the pool); frames by
set × 8 + way; the pool by entry; `pins` counts transfers in flight on a leaf; `repair` lists lines whose committed
value the partner was asked for, with the reason; `raw` are bytes that XFERs wrote by near-tier address (R62); `scrubCe`, `scrubUe` and `scrubRows` count for the summary of a running scrub (R174); `data_` and `spare` are the channels in use and held in reserve (R160, R173). -/
structure Ntr where
  lines : SMap LineRec := []
  frames : SMap Frame := []
  pool : SMap Frame := []
  plru : SMap (BitVec 7) := []
  pins : SMap Nat := []
  merge : List Merge := []
  raw : SMap (Option (BitVec 8)) := []
  weir : SMap WeirCh := []
  scrubNext : Nat := 0
  scrubCe : Nat := 0
  scrubUe : Nat := 0
  scrubRows : Nat := 0
  repair : List (LAddr × Nat) := []
  data_ : List Nat := []
  spare : List Nat := []
  deriving DecidableEq, Repr, Inhabited

/-- A segment-table entry (R214). -/
structure Seg where
  mloc : BitVec 30 := 0
  mvalid : Bool := false
  rebuild : Bool := false
  deriving DecidableEq, Repr, Inhabited

/-- A journal record (R229). -/
inductive JRec where
  | pad
  | leaf (leaf : Nat) (paddr : Nat)
  | mapPage (e : Nat) (s : Seg)
  | stripe (pos stripe : Nat) (st : BitVec 4) (use : BitVec 2) (cause age : Nat)
  | wlver (pos stripe wl : Nat)
  | form (pos stripe plane block : Nat)
  | ckpt (seq : Nat)
  | defect (die plane block cause tick : Nat)
  deriving DecidableEq, Repr, Inhabited

/-- A change that waits for its journal record (R230): a destage's or a copy's LEAF record carries what its commit needs. -/
structure Change where
  ch : Nat := 0
  rec_ : JRec := .pad
  ds : Option Destage := none
  src : Option Nat := none
  deriving DecidableEq, Repr, Inhabited

/-- A leaf map page as media holds it (R215): its 512 addresses and JSEQ. -/
structure MapPage where
  ents : SMap (BitVec 48) := []
  jseq : Nat := 0
  deriving DecidableEq, Repr, Inhabited

/-- A channel's journal: next SEQ, buffered records and their shadow in write staging (R165), records in media, its anchor with the segment and stripe entries of that
checkpoint (stripes by die index × 2^14 + stripe), the running sweep: its starting SEQ and codewords left (R228-R232). -/
structure Journal where
  seq : Nat := 1
  buf : List (Nat × JRec) := []
  shadow : List (Nat × JRec) := []
  media : List (Nat × JRec) := []
  anchor : Option Nat := none
  ckSegs : SMap Seg := []
  ckStripes : SMap Stripe := []
  sweepStart : Nat := 0
  sweepLeft : Nat := 0
  deriving DecidableEq, Repr, Inhabited

/-- Translation state. `map` is keyed by leaf number; the sentinel is the unlisted value. `pages` are the map pages in media by
segment ordinal, `dirtyMaps` the cached pages newer than those, `todo` the changes that wait for room in a journal buffer,
`flush` the journal records of a Spillway flush (R227), `reloaded` the flushed leaves not yet destaged, `reloadRecs` the records of their
destages not yet in media, by channel and SEQ (R338), `repopRoom` the bytes that a repopulation may fetch now (R432). `media` is what a physical leaf address holds, `images` the flush images of the last flush by leaf (R227). -/
structure Xlt where
  segs : SMap Seg := []
  map : SMap (BitVec 48) := []
  cached : List Nat := []
  pages : SMap MapPage := []
  dirtyMaps : List Nat := []
  journals : SMap Journal := []
  todo : List Change := []
  flush : List (Nat × Nat × JRec) := []
  reloaded : List Nat := []
  reloadRecs : List (Nat × Nat) := []
  repop : Option Nat := none
  repopSegs : List Nat := []
  repopLeaves : List Nat := []
  repopRoom : Nat := 0
  media : SMap (Option (List Line × Word64)) := []
  images : SMap (List LineRec) := []
  deriving DecidableEq, Repr, Inhabited

/-- Key-store states (R257). -/
inductive KeySt where
  | free | active | retiring
  deriving DecidableEq, Repr, Inhabited

/-- A MAC page (R287). `rekeyed` says the key was written while its message was open. -/
structure MacPage where
  key : BitVec 256 := 0
  words : BitVec 8 := 0
  keyValid : Bool := false
  isOpen : Bool := false
  done : Bool := false
  err : BitVec 4 := 0
  total : Nat := 0
  msg : SMap (BitVec 8) := []
  acc : List (BitVec 8) := []
  result : BitVec 128 := 0
  rekeyed : Bool := false
  deriving DecidableEq, Repr, Inhabited

/-- Sluice state (R255-R292). `major` by leaf; nodes by level × 2^40 + index; `near` what the near tier holds of a counter line or node
that was written out (R270), `shadows` the copies in write staging of those not yet in media (R165); `nodePages` the node pages by
physical leaf address, `nodeDir` the node directory, `nodeHalf` pages that have one verified copy (R273). -/
structure Slu where
  keyState : SMap KeySt := []
  keys : SMap (Option (BitVec 256)) := []
  major : SMap Nat := []
  refused : List Nat := []
  nodes : SMap TreeNode := []
  wc : SMap (Nat × Bool) := []
  wcPlru : BitVec 47 := 0
  rekeyLeaves : List Nat := []
  draws : Nat := 0
  pages : SMap MacPage := []
  near : SMap TreeNode := []
  shadows : SMap TreeNode := []
  nodePages : SMap NodePage := []
  nodeDir : SMap (Nat × Nat) := []
  nodeHalf : List (Nat × NodePage) := []
  deriving DecidableEq, Repr, Inhabited

/-- A completion-table entry (R298). -/
structure CEnt where
  used : Bool := false
  agent : Agent := 0
  tag : Tag := 0
  laddr : LAddr := 0
  op : BitVec 5 := 0
  status : BitVec 3 := 0
  grant : BitVec 2 := 0
  ndat : Bool := false
  fromHome : Bool := false
  deriving DecidableEq, Repr, Inhabited

/-- An LREQ to the partner that is not yet answered (R295): kind, leaf, line, set, way, and whether it has been sent. -/
structure LReq where
  kind : Nat := 0
  leaf : Nat := 0
  line : Nat := 0
  set : Nat := 0
  way : Nat := 0
  sent : Bool := false
  deriving DecidableEq, Repr, Inhabited

/-- Twin state (R293-R315). `held` are messages of the stream, with their SEQ, that wait for dirty room; `hsDec` is what
step 4 of the handshake decided (R311): 1 a new pair, 2 the pair formed, 3 resilver as source, 4 as target; `keyTx` and `keyRx` the
link keys of the two directions (R267, R310). -/
structure Twn where
  txSeq : Nat := 0
  rxSeq : Nat := 0
  hbHist : BitVec 8 := 0
  pulseHist : BitVec 8 := 0
  lastHb : Nat := 0
  plevel : Nat := 0
  pspos : BitVec 20 := 0
  mism : Nat := 0
  skewRow : Nat := 0
  skewWide : Bool := false
  hbStop : Bool := false
  takeoverAt : Nat := 0
  announced : Bool := false
  ctab : SMap CEnt := []
  cnext : Nat := 0
  hcidx : List Nat := []
  hnext : Nat := 0
  retires : List (Nat × Nat × Nat × Nat) := []
  lreqs : List LReq := []
  held : List (MirMsg × Nat) := []
  hsOn : Bool := false
  hsStep : Nat := 0
  hsStart : Nat := 0
  hsDec : Nat := 0
  hsEpoch : Nat := 0
  hsPartner : Word64 := 0
  hsStepStart : Nat := 0
  hsRetryAt : Option Nat := none
  source : Bool := false
  rebuilt : Bool := true
  draining : Bool := false
  rsNext : Nat := 0
  rsCopied : Bool := false
  handoverWait : Bool := false
  partnerWithdrawn : Bool := false
  keyTx : BitVec 256 := 0
  keyRx : BitVec 256 := 0
  deriving DecidableEq, Repr, Inhabited

/-- A rail's supervision state (R347-R352): enabled since; which of warning low, warning high, fault low, fault
high the last conversion lay beyond, and which are crossed; since when GOOD has been high; faults found and not yet handled; GOOD transitions
in this superframe; a retry waiting for discharge; a third failure to qualify. -/
structure Rail where
  en : Bool := false
  since : Nat := 0
  beyond : BitVec 4 := 0
  crossed : BitVec 4 := 0
  goodSince : Option Nat := none
  due : List Nat := []
  trans : Nat := 0
  retry : Bool := false
  failed : Bool := false
  deriving DecidableEq, Repr, Inhabited

/-- Power and hold-up state (R347-R368). `why` says why Shutdown was entered: 1 input failure, 2 PFAULT_N followed,
3 RESET_N, 4 GLB_BOOT_CTL.RST, 5 a fault or trip, 6 before Withdrawn, 7 OFF, 8 bank failure; `down` holds the rails still to be
disabled, `group` those to be disabled on entry to Withdrawn; the bank's C is `capNum` / `capDen` in µF, and `newNum` / `newDen` the
one just measured; `meas` is 1 in the test, 2 in the
recharge; `offStep` is the step of R366, `paused` the dies erased in a pause and `flushed` the stripes closed by it (R365). -/
structure Pwr where
  rails : SMap Rail := []
  vinLow : Nat := 0
  huLow : Nat := 0
  pfLow : Nat := 0
  pfHighSince : Nat := 0
  vinGoodSince : Nat := 0
  meas : Nat := 0
  measStart : Nat := 0
  measV0 : Nat := 0
  newNum : Nat := 0
  newDen : Nat := 1
  capNum : Nat := 0
  capDen : Nat := 1
  why : Nat := 0
  entry : Nat := 0
  vinBack : Bool := false
  paused : List Nat := []
  flushed : List (Nat × Nat) := []
  offStep : Nat := 0
  down : List Nat := []
  group : List Nat := []
  deriving DecidableEq, Repr, Inhabited

/-- One step of a counter change (R376): counter, step (0 intent, 1 cell 0, 2 cell 1, 3 marker), new value. -/
structure CtrStep where
  k : Nat := 0
  step : Nat := 0
  value : Nat := 0
  deriving DecidableEq, Repr, Inhabited

/-- A logical page write of the Grotto (R373): address and bytes, or one step of a counter change. -/
structure GWrite where
  addr : Nat := 0
  bytes : List (BitVec 8) := []
  ctr : Option CtrStep := none
  deriving DecidableEq, Repr, Inhabited

/-- A multi-cell counter of the Grotto (R376): its intent record when whole, and its cells; a cell that does
not check is none. -/
structure GCtr where
  intent : Option Nat := none
  cell0 : Option Nat := some 0
  cell1 : Option Nat := some 0
  deriving DecidableEq, Repr, Inhabited

/-- A top-image slot with its bound part (R276, R362): the ROOTCTR it is tagged under, AGE_NOW, the re-key walk (SLU_REKEY, its
cursor and PEND), TWN_PEPOCH and the USE 2 stripes written. -/
structure TopImg where
  root : Nat := 0
  age : Nat := 0
  rekey : Option (Nat × Nat × Nat) := none
  epoch : Nat := 0
  stripes : List (Nat × Nat) := []
  deriving DecidableEq, Repr, Inhabited

/-- Grotto state (R369-R383): contents by logical byte address, sector map (logical to physical, unlisted
k at k + 2), page-write counts since mapping and in total, retired sectors, the running write with its program
number 1 to 4, a write cut short with its staging (whole or not), and the writes waiting under R374. `rows` are the
near-tier rows taken and `ppr` the rows of a channel repaired so far (R172), `sfWays` the retired snoop-filter ways (R130), `slots` the two top-image slots, `flushTag` the ROOTCTR value that commits
the flush last begun (R276, R364), `offsets` the saved offset table by die × 8 + class, `engines` the retired runnel engines (R51).
`priorPage` and `priorCtr` are what the running write's page or counter held before it (R377); `keyLost` and `structLost` say that an
uncorrectable page held keys, or structure records (R380). -/
structure Grt where
  bytes : SMap (BitVec 8) := []
  smap : SMap Nat := []
  since : SMap Nat := []
  counts : SMap Nat := []
  retired : List Nat := []
  mapSeq : Nat := 0
  mapOk : Bool := true
  cur : Option GWrite := none
  program : Nat := 0
  retried : Bool := false
  priorPage : List (BitVec 8) := []
  priorCtr : GCtr := {}
  keyLost : Bool := false
  structLost : Bool := false
  cut : Option (GWrite × Bool) := none
  wait : List GWrite := []
  ctrs : SMap GCtr := []
  protect : Nat := 1
  marginAt : Nat := 0
  partner : Word64 := 0
  rows : List (Nat × Nat) := []
  ppr : SMap Nat := []
  sfWays : List (Nat × Nat) := []
  offsets : SMap (List Int) := []
  offsetsValid : Bool := false
  slots : SMap (Option TopImg) := []
  flushTag : Option Nat := none
  spwLast : Word := 0
  logNext : Nat := 0
  tadpole : Nat := 0
  engines : List Nat := []
  deriving DecidableEq, Repr, Inhabited

/-- Thermal state (R384-R391): ticks in a row that a sensor has been far from the median, failures found and not yet handled, the
current maximum, consecutive maxima at or above SHUT, sensors below -40 °C, the hold of R389 (whether its event was raised and when the
sensors were last read), a trip not yet cleared by a start, and the highest maximum of this superframe's ticks 0 to 2,031. -/
structure Thm where
  devRow : SMap Nat := []
  due : List Nat := []
  maxT : Int := -2048
  hotRow : Nat := 0
  coldSeen : List Nat := []
  heldRaised : Bool := false
  heldAt : Option Nat := none
  tripped : Bool := false
  sfMax : Int := -2048
  deriving DecidableEq, Repr, Inhabited

/-- A counter (R415). -/
structure Ctr where
  val : Nat := 0
  wrap : Bool := false
  sat : Bool := false
  deriving DecidableEq, Repr, Inhabited

/-- Flood count of one event in this superframe (R422). -/
structure Flood where
  written : Nat := 0
  supp : Nat := 0
  first : Nat := 0
  last : Nat := 0
  deriving DecidableEq, Repr, Inhabited

/-- Observability state (R414-R427): the counters, the readout store and the tick of its sweep, Gecko tags and
ring, the Ledger buffer and Grotto area, flood counts, the issued nonce, and the loaded bounds (R253). -/
structure Obs where
  ctrs : SMap Ctr := []
  store : SMap Ctr := []
  sweptAt : Option Nat := none
  inFlight : List Gecko := []
  ring : List Gecko := []
  gkSeq : Nat := 0
  gkNext : Nat := 0
  buf : List LedRec := []
  area : List LedRec := []
  nextSeq : Nat := 1
  floods : SMap Flood := []
  flushDue : Bool := false
  nonce : Option (BitVec 256 × Nat) := none
  bounds : SMap Nat := []
  deriving DecidableEq, Repr, Inhabited

/-- Sparing state (R428-R440). -/
structure Spr where
  armed : List Nat := []
  wornRaised : Bool := false
  deriving DecidableEq, Repr, Inhabited

/-- The device: its registers by address (R6; an unlisted register holds its reset value), and the rest
of its state by block. `free` counts the free values drawn (log entry 9). -/
structure Dev where
  regs : SMap Word := []
  glb : Glb := {}
  svc : Svc := {}
  sch : Sch := {}
  fab : SMap LinkSt := []
  bsn : Bsn := {}
  ntr : Ntr := {}
  med : Med := {}
  xlt : Xlt := {}
  slu : Slu := {}
  twn : Twn := {}
  pwr : Pwr := {}
  grt : Grt := {}
  thm : Thm := {}
  obs : Obs := {}
  spr : Spr := {}
  free : Nat := 0
  deriving DecidableEq, Repr, Inhabited

/-- The machine: the device and its queue of waiting commands, first in, first out. -/
structure State where
  pending : List Instr := []
  dev : Dev := {}
  deriving DecidableEq, Repr

/-- Why the block stops. No command of the spec stops it: the one reason is kept for the type and is
never raised (safe). -/
inductive Fault where
  /-- Raised by nothing: every command of the spec has an effect. Safe. -/
  | unused
  deriving DecidableEq, Repr

/-- Why a command is refused. -/
inductive Refusal where
  /-- A command with no meaning yet; raised by an arm of `exec` only. Safe. -/
  | notModelled (mnemonic : String)
  /-- A command whose operands no interface of the device can carry; raised by `step` after
  `WellFormed`. Safe. -/
  | illFormed
  deriving DecidableEq, Repr

/-- The machine right after reset: every register at its reset value (an unlisted register reads as it),
GLB_STATE Sequencing, nothing stored, no command waiting. -/
def State.reset : State := {}

end Sys2Proof.Machine
end

