-- ==== Sys2Proof/Machine/Views.lean ====
section
/-!
DEFINITION. Reading registers: the register file's accessors, GLB_STATE (R3, R4), and what a
control-space read shows without side effects (R8, R9, R421), the derived registers included.
-/
namespace Sys2Proof.Machine

/-- The stored value of the register at an address. -/
def regGet (d : Dev) (a : Nat) : Word := SMap.get (resetOf a) d.regs a

/-- Store a register value. -/
def regSet (a : Nat) (v : Word) (d : Dev) : Dev := { d with regs := d.regs.put (resetOf a) a v }

/-- Bits `hi:lo` of a word replaced by a number. -/
def putBits (w : Word) (hi lo v : Nat) : Word :=
  BitVec.ofNat 32 (w.toNat - bitsOf w.toNat hi lo * 2 ^ lo + v % 2 ^ (hi + 1 - lo) * 2 ^ lo)

/-- A field's value. -/
def getF (d : Dev) (f : Fld) : Nat := bitsOf (regGet d f.addr).toNat f.hi f.lo

/-- Write a field. -/
def setF (f : Fld) (v : Nat) (d : Dev) : Dev := regSet f.addr (putBits (regGet d f.addr) f.hi f.lo v) d

/-- A one-bit field. -/
def flag (d : Dev) (f : Fld) : Bool := getF d f != 0

/-- Set a one-bit field. -/
def setB (f : Fld) (b : Bool) (d : Dev) : Dev := setF f (if b then 1 else 0) d

/-- Add to a field, holding at its largest value. -/
def addSat (f : Fld) (n : Nat) (d : Dev) : Dev := setF f (min (2 ^ (f.hi + 1 - f.lo) - 1) (getF d f + n)) d

/-- Write the two halves of a 64-bit quantity held in two whole registers. -/
def setPair (lo hi : Fld) (v : Nat) (d : Dev) : Dev := setF hi (v / 2 ^ 32) (setF lo v d)

/-- Read a 64-bit quantity. -/
def getPair (lo hi : Fld) (d : Dev) : Nat := getF d lo + getF d hi * 2 ^ 32

/-- The duty level in effect (R44). -/
def dutyLevel (d : Dev) : Nat := getF d F.SCH_SPOS_LEVEL

/-- Throttled holds while the level is not 0 (R387). -/
def throttled (d : Dev) : Bool := dutyLevel d != 0

/-- The GLB_STATE code: in the serving states the highest code among the conditions that hold (R3, R4). -/
def stateCode (d : Dev) : Nat :=
  match d.glb.base with
  | .off => 0x0
  | .sequencing => 0x1
  | .loading => 0x2
  | .recovering => 0x3
  | .pairing => 0x4
  | .withdrawn => 0xA
  | .shutdown => 0xB
  | .serving =>
    if d.glb.dry then 0x9
    else if throttled d then 0x8
    else if d.glb.degraded then 0x7
    else if d.glb.tadpole then 0x5
    else 0x6

/-- GLB_STATE bits 7:0 (R410). -/
def stateByte (d : Dev) : Nat :=
  stateCode d + (if d.glb.tadpole then 0x10 else 0) + (if d.glb.degraded then 0x20 else 0)
    + (if throttled d then 0x40 else 0) + (if d.glb.dry then 0x80 else 0)

/-- Tadpole, Serving, Degraded, Throttled or Dry. -/
def serves (d : Dev) : Bool := d.glb.base = .serving

/-- In a Spillway flush and in Withdrawn no transaction takes a further step (R360, R5). -/
def frozen (d : Dev) : Bool :=
  decide (d.glb.base = .withdrawn) || (decide (d.glb.base = .shutdown) && decide (getF d F.PWR_STS_SPW ≠ 0))

/-- A twin in which no partner takes part: Degraded. -/
def alone (d : Dev) : Bool := d.glb.degraded

/-- SPOS of a GLB_TICK value (R25). -/
def sposAt (d : Dev) (t : Nat) : Nat := (t + getF d F.SCH_POS_OFS_OFS) % 2 ^ 20

/-- SPOS of the current tick. -/
def spos (d : Dev) : Nat := sposAt d d.glb.tick

/-- The tick within the superframe. -/
def sfTick (d : Dev) : Nat := spos d % 2048

/-- A service port's state. -/
def portOf (d : Dev) (p : Nat) : SvcPort := if p = 0 then d.svc.a else d.svc.b

/-- Change a service port. -/
def onPort (p : Nat) (f : SvcPort → SvcPort) (d : Dev) : Dev :=
  if p = 0 then { d with svc := { d.svc with a := f d.svc.a } }
  else { d with svc := { d.svc with b := f d.svc.b } }

/-- An event-Rill entry's low word (R412). -/
def rillWord (e : RillEnt) : Word :=
  BitVec.ofNat 32 (e.evnum + (if e.alert then 0x200 else 0) + (if e.lostBefore then 0x400 else 0)
    + e.tick % 2 ^ 21 * 2 ^ 11)

/-- A fabric port's or the mirror link's state. -/
def linkOf (d : Dev) (l : Nat) : LinkSt := d.fab.get {} l

/-- Change a link. -/
def onLink (l : Nat) (f : LinkSt → LinkSt) (d : Dev) : Dev := { d with fab := d.fab.upd {} l f }

/-- A runnel. -/
def runnelOf (d : Dev) (n : Nat) : Runnel := d.sch.runnels.get {} n

/-- Change a runnel. -/
def onRunnel (n : Nat) (f : Runnel → Runnel) (d : Dev) : Dev :=
  { d with sch := { d.sch with runnels := d.sch.runnels.upd {} n f } }

/-- The counter indices of R414, by block, in ascending order: base index and count. -/
def ctrBlocks : List (Nat × Nat) :=
  [(0x3000, 2904), (0x4000, 256), (0x5000, 7), (0x6000, 384), (0x7000, 1152), (0x8000, 69), (0x9000, 80),
   (0xA000, 29), (0xB000, 51), (0xC000, 18), (0xD000, 4), (0xE000, 6), (0xF000, 12)]

/-- Whether a counter index is implemented (R414). -/
def ctrExists (i : Nat) : Bool := ctrBlocks.any fun b => decide (b.1 ≤ i) && decide (i < b.1 + b.2)

/-- The sweep position of an implemented counter (R416). -/
def ctrPos : List (Nat × Nat) → Nat → Nat
  | [], _ => 0
  | (b, n) :: rest, i => if b ≤ i ∧ i < b + n then i - b else n + ctrPos rest i

/-- The readout-store copy OBS_CNT_SEL names (R416). -/
def ctrCopy (d : Dev) : Ctr := d.obs.store.get {} (getF d F.OBS_CNT_SEL_INDEX)

/-- The time that copy carries: a sweep takes one counter every 2 ns in ascending index order (R416; log entry 3). -/
def copyTime (d : Dev) : Word :=
  match d.obs.sweptAt with
  | none => 0
  | some t =>
    let i := getF d F.OBS_CNT_SEL_INDEX
    if ctrExists i then
      let pos := ctrPos ctrBlocks i
      BitVec.ofNat 32 ((t + pos / 500) % 2 ^ 23 * 2 ^ 9 + pos % 500)
    else 0

/-- The Gecko record bytes' 32-bit words (R419). A stage offset saturates at 0xFF_FFFE; 0xFF_FFFF is not reached. -/
def geckoStage (g : Gecko) (s : Nat) : Nat :=
  if (g.stages.any fun e => e.1 = s) then min 0xFFFFFE (SMap.get 0 g.stages s - SMap.get 0 g.stages 0) else 0xFFFFFF

/-- Byte `i` of a Gecko record (R419). -/
def geckoByte (g : Gecko) (i : Nat) : Nat :=
  let byteOf (v k : Nat) : Nat := v / 256 ^ k % 256
  if i < 4 then byteOf g.seq i
  else if i < 8 then byteOf g.hdr.toNat (i - 4)
  else if i < 14 then byteOf g.r.laddr.toNat (i - 8)
  else if i < 16 then byteOf g.r.tag.toNat (i - 14)
  else if i < 20 then byteOf (g.start % 2 ^ 23 * 2 ^ 9) (i - 16)
  else if i < 24 then 0
  else if i < 57 then byteOf (geckoStage g ((i - 24) / 3 + 1)) ((i - 24) % 3)
  else if i < 60 then 0
  else byteOf g.seq (i - 60)

/-- Word `w` of the oldest unread Gecko record. -/
def geckoWord (d : Dev) (w : Nat) : Word :=
  match d.obs.ring with
  | [] => 0
  | g :: _ => BitVec.ofNat 32 (geckoByte g (4 * w) + geckoByte g (4 * w + 1) * 256
      + geckoByte g (4 * w + 2) * 65536 + geckoByte g (4 * w + 3) * 16777216)

/-- Byte `i` of a Ledger record as stored (R420). -/
def ledByte (r : LedRec) (i : Nat) : BitVec 8 :=
  let byteOf (v k : Nat) : BitVec 8 := BitVec.ofNat 8 (v / 256 ^ k)
  if i < 4 then byteOf r.seq i
  else if i < 12 then byteOf r.tick (i - 4)
  else if i < 14 then byteOf (r.evnum + r.kind * 512 + (if r.prio then 0x2000 else 0)) (i - 12)
  else if i < 16 then 0
  else if i < 20 then byteOf r.arg.toNat (i - 16)
  else if i < 60 then r.detail.getD (i - 20) 0
  else byteOf r.seq (i - 60)

/-- The bytes of a number, least significant first. -/
def bytesLE : Nat → Nat → List (BitVec 8)
  | 0, _ => []
  | n + 1, v => BitVec.ofNat 8 v :: bytesLE n (v / 256)

/-- CRC-32C (polynomial 0x1EDC6F41, reflected) of bytes, as the Grotto's records carry it (R371, R376). -/
def crc32cBit : Nat → Nat → Nat
  | 0, c => c
  | n + 1, c => crc32cBit n (if c % 2 = 1 then (c / 2) ^^^ 0x82F63B78 else c / 2)

/-- CRC-32C of a list of bytes. -/
def crc32c (bs : List (BitVec 8)) : Nat :=
  (bs.foldl (fun c b => crc32cBit 8 (c ^^^ b.toNat)) 0xFFFFFFFF) ^^^ 0xFFFFFFFF

/-- A byte whose place in the Grotto the spec leaves open: a free value (log entry 9). -/
def grtFree (d : Dev) (a : Nat) : BitVec 8 := Config.freeByte (a + 2 ^ 22 * d.free)

/-- A byte of the counter sector (R376): intent records in page 0, the cells of counters 0 to 4 in pages 1 to 10, never-written cells
up to page 16; the partner's identity hash has no stated place (R372). -/
def counterByte (d : Dev) (a : Nat) : BitVec 8 :=
  let rec_ (v k : Nat) (marker : List (BitVec 8)) : BitVec 8 :=
    let body := bytesLE 8 v ++ [BitVec.ofNat 8 k] ++ marker
    (body ++ List.replicate (12 - body.length) 0 ++ bytesLE 4 (crc32c body)).getD (a % 32) 0
  let page := a / 256
  if page = 0 then
    let k := a / 32
    match (d.grt.ctrs.get {} k).intent with
    | some v => rec_ v k [0xA5]
    | none => if a % 32 = 9 then 0 else if a % 32 < 16 ∧ k < 5 then grtFree d a else 0
  else if page ≤ 16 then
    let k := (page - 1) / 2
    if 32 ≤ a % 256 ∨ 5 ≤ k then 0
    else match (if page % 2 = 1 then (d.grt.ctrs.get {} k).cell0 else (d.grt.ctrs.get {} k).cell1) with
      | some v => rec_ v k []
      | none => if a % 32 < 16 then grtFree d a else 0
  else grtFree d a

/-- The record of a set in the snoop-filter way map (R130, R372): retired ways in bits 16:0, the spare way in use in bit 17. -/
def sfWayWord (d : Dev) (set : Nat) : Nat :=
  let ws := (d.grt.sfWays.filter fun e => decide (e.1 = set)).map fun e => e.2
  ws.foldl (fun v w => v ||| 2 ^ w) (if ws = [] then 0 else 2 ^ 17)

/-- A byte of the logical Grotto as GRT_RD_DATA shows it (R372, R382): sectors 5 to 7 and 47 and the reserved ones read 0; the
contents whose layout the spec does not give are free values. -/
def grtByte (d : Dev) (a : Nat) : BitVec 8 :=
  let sector := a / 0x10000
  if 5 ≤ sector ∧ sector ≤ 7 ∨ sector = 47 ∨ 17 ≤ sector ∧ sector ≤ 23 ∨ 36 ≤ sector ∧ sector ≤ 46 then 0
  else if sector = 0 then counterByte d a
  else if 9 ≤ sector ∧ sector ≤ 12 then
    BitVec.ofNat 8 (sfWayWord d ((a - 9 * 0x10000) / 4) / 256 ^ (a % 4))
  else if 24 ≤ sector ∧ sector ≤ 35 then
    match d.obs.area[(a - 24 * 0x10000) / 64]? with
    | none => 0
    | some r => ledByte r (a % 64)
  else if sector = 16 then d.grt.bytes.get 0 a
  else grtFree d a

/-- The MAC page of a service port or agent. -/
def macPage (d : Dev) (k : Nat) : MacPage := d.slu.pages.get {} k

/-- Byte `o` of a MAC page as it reads (R287). -/
def macByte (m : MacPage) (o : Nat) : Nat :=
  let status := (if m.keyValid then 1 else 0) + (if m.isOpen then 2 else 0) + (if m.done then 4 else 0)
    + m.err.toNat * 8
  if 0x44 ≤ o ∧ o < 0x48 then status / 256 ^ (o - 0x44) % 256
  else if 0x48 ≤ o ∧ o < 0x4C then m.total / 256 ^ (o - 0x48) % 256
  else if 0x80 ≤ o ∧ o < 0x90 then m.result.toNat / 256 ^ (0x8F - o) % 256
  else 0

/-- The word of a MAC page at a word-aligned offset. -/
def macWord (m : MacPage) (o : Nat) : Word :=
  BitVec.ofNat 32 (macByte m o + macByte m (o + 1) * 256 + macByte m (o + 2) * 65536
    + macByte m (o + 3) * 16777216)

/-- Request HTAGs in use or quarantined (R106, R121). -/
def htagsUsed (d : Dev) : Nat := (d.bsn.txns.filter fun e => e.1 < 0xF00).length

/-- Sectors under back-invalidation (R129). -/
def sectorsBi (d : Dev) : Nat :=
  (d.bsn.sf.map fun e => (e.2.ways.filter fun w => w.2.bi).length).sum

/-- Valid snoop-filter entries. -/
def sfOcc (d : Dev) : Nat := (d.bsn.sf.map fun e => (e.2.ways.filter fun w => w.2.v).length).sum

/-- The leaves with a dirty line, highest first (R260, R357). -/
def dirtyLeafList (d : Dev) : List Nat :=
  d.ntr.lines.foldl (fun acc e =>
    if e.2.minor ≠ 0 ∧ acc.head? ≠ some (e.1 / 64) then e.1 / 64 :: acc else acc) []

/-- A die by die index position. -/
def dieOf (d : Dev) (x : Nat) : Die := d.med.dies.get {} x

/-- Credits the device holds on a port, packed as FAB_CRNOW (R101). -/
def crNow (d : Dev) (p : Nat) : Word :=
  let c := (linkOf d p).crHeld
  BitVec.ofNat 32 (c.get 0 1 + c.get 0 2 * 256 + c.get 0 3 * 65536 + c.get 0 4 * 16777216)

/-- What a read of an address shows to port `p`, without side effects. Registers not listed here read
their stored readable bits (R8, R9). -/
def viewReg (d : Dev) (p a : Nat) : Word :=
  match regRow a with
  | none =>
    if 0x901000 ≤ a ∧ a < 0x902000 then (if p = 0 then macWord (macPage d 64) (a - 0x901000) else 0)
    else if 0x902000 ≤ a ∧ a < 0x903000 then (if p = 1 then macWord (macPage d 65) (a - 0x902000) else 0)
    else 0
  | some row =>
    let w := regGet d a &&& row.rd
    let q := portOf d p
    if a = 0x8 then BitVec.ofNat 32 (stateByte d)
    else if a = 0x10 then BitVec.ofNat 32 d.glb.tick
    else if a = 0x14 then BitVec.ofNat 32 (d.glb.tick / 2 ^ 32)
    else if a = 0x100000 then putBits w 12 12 (if getF d F.SVC_LOCK_OWNER = p + 1 then 1 else 0)
    else if row.base = 0x100100 then
      let q := portOf d ((a - 0x100100) / 0x20)
      putBits (putBits (putBits w 21 16 q.cmd.length) 22 22 (if q.cmd = [] then 1 else 0)) 23 23
        (if q.asm.isSome then 1 else 0)
    else if a = 0x200000 then (match q.ev with | [] => q.lastLo | e :: _ => rillWord e)
    else if a = 0x200004 then (match q.ev with | [] => q.lastHi | e :: _ => e.arg)
    else if a = 0x200008 then
      BitVec.ofNat 32 (q.ev.length + (if q.ev = [] then 0x40 else 0) + (if q.underrun then 0x80 else 0)
        + q.lost * 65536)
    else if a = 0x300000 then putBits w 19 0 (spos d)
    else if row.base = 0x400020 then crNow d ((a - 0x400020) / 0x100)
    else if a = 0x500008 then BitVec.ofNat 32 (sfOcc d)
    else if a = 0x500010 then putBits (putBits (putBits w 11 0 (htagsUsed d)) 20 16 (sectorsBi d)) 31 31 (if d.bsn.reqs.any fun e => e.waited then 1 else 0)
    else if a = 0x600004 then putBits w 10 4 d.ntr.merge.length
    else if a = 0x600018 then putBits w 6 1 ((List.range 32).filter fun k => flag d (F.NTR_CE_LO_VALID k)).length
    else if row.base = 0x701018 then
      let c := (a - 0x701018) / 0x40
      BitVec.ofNat 32 ((d.med.dies.filter fun e => e.1 / 32 = c).map fun e => e.2.open_.length).sum
    else if a = 0x900018 then
      (match d.slu.keyState.get .free (getF d F.SLU_KEY_SEL_KEYID) with
        | .free => 0 | .active => 1 | .retiring => 2)
    else if a = 0x900000 then putBits w 7 2 d.slu.wc.length
    else if a = 0xB00020 then BitVec.ofNat 32 ((dirtyLeafList d).length / 256)
    else if a = 0xA00028 then BitVec.ofNat 32 (d.twn.ctab.filter fun e => e.2.used).length
    else if a = 0xD00018 then
      let b := getF d F.GRT_RD_ADDR_ADDR / 4 * 4
      BitVec.ofNat 32 ((grtByte d b).toNat + (grtByte d (b + 1)).toNat * 256
        + (grtByte d (b + 2)).toNat * 65536 + (grtByte d (b + 3)).toNat * 16777216)
    else if a = 0xE0000C then BitVec.ofNat 32 (ctrCopy d).val
    else if a = 0xE00010 then
      let c := ctrCopy d
      BitVec.ofNat 32 (c.val / 2 ^ 32 + (if c.wrap then 0x10000 else 0) + (if c.sat then 0x20000 else 0)
        + (if ctrExists (getF d F.OBS_CNT_SEL_INDEX) then 0 else 0x40000))
    else if a = 0xE00014 then copyTime d
    else if a = 0xE00104 then putBits (putBits w 8 0 d.obs.ring.length) 15 9 d.obs.inFlight.length
    else if row.base = 0xE00140 then geckoWord d ((a - 0xE00140) / 4)
    else if a = 0xE00204 then
      let pr := (d.obs.buf.filter fun r => r.prio).length
      putBits (putBits (putBits (putBits w 12 0 d.obs.buf.length) 13 13
        (if 3968 ≤ d.obs.buf.length - pr then 1 else 0)) 14 14 (if 128 ≤ pr then 1 else 0)) 29 16 d.obs.area.length
    else if a = 0xE00208 then BitVec.ofNat 32 d.obs.nextSeq
    else if a = 0xE00804 then BitVec.ofNat 32 (d.obs.bounds.get 0 (regGet d 0xE00800).toNat)
    else w

/-- The register addresses whose high halves a read of address `a` captures (R11, R417). -/
def capturesOf (a : Nat) : List Nat :=
  if a = 0xE0000C then [0xE00010, 0xE00014]
  else if a ∈ [0x10, 0x110, 0x120, 0x300010, 0x500014, 0x500024, 0x60000C, 0x70000C, 0x800038, 0x800040,
      0x90000C, 0x900020, 0xA00010, 0xE00808, 0xE00810] then [a + 4]
  else match regRow a with
    | none => []
    | some r => if r.base ∈ [0x100C, 0x202000, 0x40000C, 0x400014, 0x600100] then [a + 4] else []

/-- The identity registers a Withdrawn device still answers for (R5, R397). R332 calls 0x100-0x12C identity registers; no register stands at
0x11C, 0x128 or 0x12C, and these addresses count as identity too (log entry 65). -/
def isIdentity (a : Nat) : Bool :=
  a ∈ [0x0, 0x4, 0x8, 0x10, 0x14, 0x200] || (decide (0x100 ≤ a) && decide (a ≤ 0x12C))

end Sys2Proof.Machine
end

