-- ==== Sys2Proof/Machine/Cipher.lean ====
section
/-!
DEFINITION. The constructions of Sluice (R263-R266, SP 800-38B, SP 800-38D, SP 800-38F) over the AES-256 block function, and the bytes
that hold what they protect: near-tier blocks (R161, R162), tree nodes and node pages (R269, R273), media codewords (R186, R216).
-/
namespace Sys2Proof.Machine

/-! ## Bytes and blocks -/

/-- Bytes as a number, the first byte the most significant. -/
def ofBytesBE (bs : List (BitVec 8)) : Nat := bs.foldl (fun a b => a * 256 + b.toNat) 0

/-- The bytes of a number, most significant first. -/
def bytesBE (n v : Nat) : List (BitVec 8) := (bytesLE n v).reverse

/-- Bytes cut into 16-byte blocks, the last filled with zero bytes (SP 800-38D). -/
def blocksOf (bs : List (BitVec 8)) : List (BitVec 128) :=
  (List.range ((bs.length + 15) / 16)).map fun i => BitVec.ofNat 128 (ofBytesBE ((bs.drop (16 * i) ++ List.replicate 16 0).take 16))

/-- An AES input block (R263). -/
def aesBlock (use line blk leaf major low : Nat) : BitVec 128 :=
  BitVec.ofNat 3 use ++ BitVec.ofNat 6 line ++ BitVec.ofNat 2 blk ++ BitVec.ofNat 40 leaf ++ BitVec.ofNat 64 major ++ BitVec.ofNat 13 low

/-! ## USE codes (R264) -/

/-- Line keystream. -/
def useLineStream : Nat := 0
/-- Line tag mask. -/
def useLineMask : Nat := 1
/-- Media keystream. -/
def useMediaStream : Nat := 2
/-- Media tag mask. -/
def useMediaMask : Nat := 3
/-- Tree tag mask. -/
def useTreeMask : Nat := 4
/-- Mirror keystream. -/
def useMirrorStream : Nat := 5
/-- Mirror tag mask. -/
def useMirrorMask : Nat := 6
/-- Hash subkey; LINE is the form: 0 line, 1 media, 2 tree, 3 mirror. -/
def useSubkey : Nat := 7

/-! ## Encryption and tags (R265) -/

/-- The product of two blocks in GF(2^128), bit 127 the coefficient of 1 (SP 800-38D). -/
def gfMul (x y : BitVec 128) : BitVec 128 :=
  ((List.range 128).foldl (fun (a : BitVec 128 × BitVec 128) i =>
    (if x.getLsbD (127 - i) then a.1 ^^^ a.2 else a.1,
     if a.2.getLsbD 0 then (a.2 >>> 1) ^^^ (0xE1#8 ++ 0#120) else a.2 >>> 1)) (0, y)).1

/-- GHASH of blocks under a subkey (SP 800-38D). -/
def ghash (h : BitVec 128) (bs : List (BitVec 128)) : BitVec 128 := bs.foldl (fun y x => gfMul (y ^^^ x) h) 0

/-- The tag block of a form before truncation: S XOR AES of the mask block; `a` and `c` are bytes. -/
def tagBlock (key : BitVec 256) (form : Nat) (mask : BitVec 128) (a c : List (BitVec 8)) : BitVec 128 :=
  let h := Config.aes256 key (aesBlock useSubkey form 0 0 0 0)
  let s := ghash h (blocksOf a ++ blocksOf c ++ [BitVec.ofNat 64 (8 * a.length) ++ BitVec.ofNat 64 (8 * c.length)])
  s ^^^ Config.aes256 key mask

/-- The first `n` bits of a block. -/
def firstBits (n : Nat) (b : BitVec 128) : BitVec n := BitVec.ofNat n (b.toNat / 2 ^ (128 - n))

/-- Bytes XORed with keystream blocks, the i-th block of them with `ks i`. -/
def xorStream (ks : Nat → BitVec 128) (bs : List (BitVec 8)) : List (BitVec 8) :=
  (List.zip (List.range bs.length) bs).map fun (e : Nat × BitVec 8) =>
    e.2 ^^^ BitVec.ofNat 8 ((ks (e.1 / 16)).toNat / 256 ^ (15 - e.1 % 16))

/-- The 64 bytes of a line. -/
def lineBytes (l : Line) : List (BitVec 8) := bytesLE 64 l.toNat

/-- A near-tier line as it is stored (R265, line form). -/
def lineCipher (key : BitVec 256) (leaf i major minor : Nat) (l : Line) : List (BitVec 8) :=
  xorStream (fun b => Config.aes256 key (aesBlock useLineStream i b leaf major minor)) (lineBytes l)

/-- Its tag of 56 bits (R265, R162). -/
def lineTag (key : BitVec 256) (keyid leaf i major minor : Nat) (poison : Bool) (c : List (BitVec 8)) : BitVec 56 :=
  firstBits 56 (tagBlock key 0 (aesBlock useLineMask i 0 leaf major minor)
    (bytesBE 16 (keyid * 2 ^ 116 + leaf * 2 ^ 76 + i * 2 ^ 70 + poison.toNat * 2 ^ 69)) c)

/-- A leaf as a media codeword holds it (R265, media form); with `flush` given, a Spillway flush image: its minors, lines of minor 0
stored as zeros. -/
def mediaCipher (key : BitVec 256) (leaf major : Nat) (flush : Option (List Nat)) (ls : List Line) : List (BitVec 8) :=
  (List.zip (List.range 64) ls).flatMap fun (e : Nat × Line) =>
    match flush with
    | none => xorStream (fun b => Config.aes256 key (aesBlock useMediaStream e.1 b leaf major 0)) (lineBytes e.2)
    | some ms =>
      if ms.getD e.1 0 = 0 then List.replicate 64 0
      else xorStream (fun b => Config.aes256 key (aesBlock useMediaStream e.1 b leaf major (ms.getD e.1 0))) (lineBytes e.2)

/-- The leaf tag of 128 bits (R265); LOW is the SUM of the minors in a flush image. -/
def mediaTag (key : BitVec 256) (keyid leaf major : Nat) (flush : Option (List Nat)) (poison : Word64) (c : List (BitVec 8)) :
    BitVec 128 :=
  tagBlock key 1 (aesBlock useMediaMask 0 0 leaf major ((flush.getD []).sum))
    (bytesBE 16 (keyid * 2 ^ 116 + leaf * 2 ^ 76 + poison.toNat)) c

/-- The 64 bytes of an interior node with a TAG field (R269). -/
def nodeBytes (n : TreeNode) (tag : Nat) : List (BitVec 8) :=
  bytesLE 64 (n.major + (List.range 32).foldl (fun a j => a + n.minors.get 0 j * 2 ^ (56 + 12 * j)) 0 + tag * 2 ^ 448)

/-- The 64 bytes of a counter line (R258). -/
def counterBytes (n : TreeNode) : List (BitVec 8) :=
  bytesLE 64 (n.major + (List.range 64).foldl (fun a j => a + n.minors.get 0 j * 2 ^ (64 + 7 * j)) 0)

/-- The tag of a child of the tree under its parent's counter for it (R265, tree form): 56 bits of a counter line (level 0), 64 of an
interior node, whose TAG field counts as zero. -/
def treeTag (key0 : BitVec 256) (level idx : Nat) (parent child : TreeNode) : BitVec 64 :=
  let mask := aesBlock useTreeMask level 0 idx parent.major (parent.minors.get 0 (idx % 32))
  if level = 0 then (firstBits 56 (tagBlock key0 2 mask [] (counterBytes child))).zeroExtend 64
  else firstBits 64 (tagBlock key0 2 mask [] (nodeBytes child 0))

/-- The tag of a top image of levels 6 to 8 (R276): LINE 9, MAJOR the ROOTCTR it is written under. -/
def topTag (key0 : BitVec 256) (rootctr : Nat) (image : List (BitVec 8)) : BitVec 64 :=
  firstBits 64 (tagBlock key0 2 (aesBlock useTreeMask 9 0 0 rootctr 0) [] image)

/-- The payload of a mirror message as it is sent (R265, mirror form). -/
def mirrorCipher (key : BitVec 256) (seq : Nat) (payload : List (BitVec 8)) : List (BitVec 8) :=
  xorStream (fun b => Config.aes256 key (aesBlock useMirrorStream 0 0 0 seq b)) payload

/-- Its tag of 64 bits, over bits 63:0 of the header and the payload. -/
def mirrorTag (key : BitVec 256) (seq : Nat) (header : Word64) (c : List (BitVec 8)) : BitVec 64 :=
  firstBits 64 (tagBlock key 3 (aesBlock useMirrorMask 0 0 0 seq 0) (bytesLE 8 header.toNat) c)

/-! ## CMAC (R266, R286) and key wrap (R255) -/

/-- Doubling in GF(2^128), as SP 800-38B makes its subkeys. -/
def cmacDouble (b : BitVec 128) : BitVec 128 := if b.msb then (b <<< 1) ^^^ 0x87 else b <<< 1

/-- The CMAC chain over what is left of a message. -/
def cmacGo (key : BitVec 256) : Nat → BitVec 128 → List (BitVec 8) → BitVec 128
  | 0, x, _ => x
  | fuel + 1, x, m =>
    if 16 < m.length then cmacGo key fuel (Config.aes256 key (x ^^^ BitVec.ofNat 128 (ofBytesBE (m.take 16)))) (m.drop 16)
    else
      let k1 := cmacDouble (Config.aes256 key 0)
      if m.length = 16 then Config.aes256 key (x ^^^ BitVec.ofNat 128 (ofBytesBE m) ^^^ k1)
      else Config.aes256 key (x ^^^ BitVec.ofNat 128 (ofBytesBE ((m ++ [0x80] ++ List.replicate 15 0).take 16))
        ^^^ cmacDouble k1)

/-- AES-256-CMAC of bytes under a key (SP 800-38B). -/
def cmacOf (key : BitVec 256) (m : List (BitVec 8)) : BitVec 128 := cmacGo key (m.length / 16 + 1) 0 m

/-- AES-256-CMAC (SP 800-38B) of a MAC page's message; `key` holds the key's first byte as its least significant. -/
def cmac (key : BitVec 256) (m : List (BitVec 8)) : BitVec 128 :=
  cmacGo (BitVec.ofNat 256 (ofBytesBE (bytesLE 32 key.toNat))) (m.length / 16 + 1) 0 m

/-- The TAG of a device-structure page (R266): CMAC under key ID 0 over the codeword's data and metadata bytes 0 to 15. -/
def structTag (key0 : BitVec 256) (data meta_ : List (BitVec 8)) : BitVec 128 := cmacOf key0 (data ++ meta_.take 16)

/-- AES key wrap of a 256-bit key (SP 800-38F KW): the register A and four 64-bit blocks over 6 rounds. -/
def keyWrap (kek key : BitVec 256) : List (BitVec 8) :=
  let r0 : List (BitVec 64) := (List.range 4).map fun i => BitVec.ofNat 64 (key.toNat / 2 ^ (64 * (3 - i)))
  let z := (List.range 24).foldl (fun (s : BitVec 64 × List (BitVec 64)) t =>
    let b := Config.aes256 kek (s.1 ++ s.2.getD (t % 4) 0)
    ((b >>> 64).setWidth 64 ^^^ BitVec.ofNat 64 (t + 1), s.2.set (t % 4) (b.setWidth 64))) (0xA6A6A6A6A6A6A6A6#64, r0)
  bytesBE 8 z.1.toNat ++ z.2.flatMap fun v => bytesBE 8 v.toNat

/-! ## The near tier's block (R161, R162) -/

/-- A line unit: its 64 stored bytes, its metadata word, its check byte. -/
structure LineUnit where
  bytes : List (BitVec 8) := []
  meta_ : BitVec 64 := 0
  check : BitVec 8 := 0
  deriving DecidableEq, Repr, Inhabited

/-- The line unit of stored bytes with their TAG and POISON (R162): check bits 6:0 stand in the metadata word, the others in the check
byte. -/
def mkUnit (bytes : List (BitVec 8)) (tag : BitVec 56) (poison : Bool) : LineUnit :=
  let c := Config.inlineCheck (BitVec.ofBool poison ++ tag ++ BitVec.ofNat 512 (ofBytesBE bytes.reverse))
  { bytes := bytes, meta_ := c.setWidth 7 ++ BitVec.ofBool poison ++ tag, check := (c >>> 7).setWidth 8 }

/-- The 512 bytes of a block with its seven line units (R161); byte 511 is written as 0. -/
def unitsBytes (us : List LineUnit) : List (BitVec 8) :=
  ((List.range 7).flatMap fun j => ((us.getD j {}).bytes ++ List.replicate 64 0).take 64)
    ++ ((List.range 7).flatMap fun j => bytesLE 8 (us.getD j {}).meta_.toNat)
    ++ ((List.range 7).map fun j => (us.getD j {}).check) ++ [0]

/-- What reading a line unit with an error pattern gives (R162): 0 no error, 1 corrected, 2 found uncorrectable, 3 missed by the code and
found by the tag. The code corrects every single-bit error; it detects every double-bit error, and every error confined to one 16-bit
transfer of the line's burst. -/
def unitResult (err : BitVec 584) : Nat :=
  let bits := (List.range 584).filter fun i => err.getLsbD i
  if bits = [] then 0
  else if bits.length = 1 then 1
  else if bits.length = 2 ∨ (bits.all fun i => decide (i < 512) && decide (i / 16 = (bits.headD 0) / 16)) then 2
  else if Config.inlineDetects err then 2
  else 3

/-! ## Media codewords (R186, R216) and node pages (R273) -/

/-- The 32 bytes of sector metadata (R216). -/
def sectorMeta (id kind keyid : Nat) (poison : Word64) (tag : BitVec 128) : List (BitVec 8) :=
  bytesLE 5 id ++ bytesLE 1 (kind % 16) ++ bytesLE 2 (keyid % 4096) ++ bytesLE 8 poison.toNat ++ bytesBE 16 tag.toNat

/-- The 4,608 bytes of a codeword (R186): data, metadata, parity. -/
def codeword (data meta_ : List (BitVec 8)) : List (BitVec 8) := data ++ meta_ ++ Config.ldpcParity (data ++ meta_)

/-- The codeword of a device-structure page (R266): plaintext, its TAG a CMAC under key ID 0. -/
def structCodeword (key0 : BitVec 256) (id kind : Nat) (data : List (BitVec 8)) : List (BitVec 8) :=
  let m := sectorMeta id kind 0 0 0
  codeword data (m.take 16 ++ bytesBE 16 (structTag key0 data m).toNat)

/-- Whether a codeword counts as erased (R187): no more zero bits than MED_ERASED.ZB. -/
def erasedCodeword (zb : Nat) (bytes : List (BitVec 8)) : Bool :=
  decide ((bytes.map fun b => ((List.range 8).filter fun i => !b.getLsbD i).length).sum ≤ zb)

/-- The 4,096 bytes of a node page (R273): up to 56 node lines, their tags, zeros. -/
def nodePageBytes (p : NodePage) : List (BitVec 8) :=
  let lines := (List.zip (List.zip p.keys p.vals) p.tags).flatMap fun (e : (Nat × TreeNode) × Word64) =>
    if e.1.1 / 2 ^ 40 = 0 then counterBytes e.1.2 else nodeBytes e.1.2 e.2.toNat
  let tags := p.tags.flatMap fun t => bytesLE 8 t.toNat
  (lines ++ List.replicate 3584 0).take 3584 ++ (tags ++ List.replicate 448 0).take 448 ++ List.replicate 64 0

end Sys2Proof.Machine
end

