-- ==== Sys2Proof/Machine/Frame.lean ====
section
/-!
DEFINITION. What goes on a wire: the slots of a message (R108-R112), the bytes of a flit with its CRC (R88, R89), the frame control
word (R82), and the frame of two codewords spread over the lanes (R80, R81, R293).
-/
namespace Sys2Proof.Machine

/-! ## Messages in slots (R89, R108-R112) -/

/-- A slot whose fields start at the bits given; every other bit is 0. -/
def packSlot (fs : List (Nat × Nat)) : Slot := BitVec.ofNat 128 (fs.map fun e => e.2 * 2 ^ e.1).sum

/-- The four slots that hold a line, bytes 0 to 63 in order (R111). -/
def lineSlots (l : Line) : List Slot := (List.range 4).map fun i => (l >>> (128 * i)).setWidth 128

/-- The slots of a message (R108 REQ, R109 SNP, R110 RSP, R111 DAT, R112 EVT). A DAT whose STATUS is POISON holds zeros. -/
def msgSlots : LcfMsg → List Slot
  | .req r => [packSlot [(3, r.op.toNat), (8, r.agent.toNat), (14, r.stream.toNat), (26, r.tag.toNat), (38, r.laddr.toNat),
      (84, r.reissue.toNat), (85, r.scope.toNat), (87, r.durable.toNat)]]
  | .snp op a rtag ragent htag la homeB rgrant => [packSlot [(0, 1), (3, op.toNat), (8, a.toNat), (14, rtag.toNat),
      (26, ragent.toNat), (32, htag.toNat), (44, la.toNat), (90, homeB.toNat), (91, rgrant.toNat)]]
  | .rsp op a tag htag st homeB grant ndat => [packSlot [(0, 2), (3, op.toNat), (8, a.toNat), (14, tag.toNat), (26, htag.toNat),
      (38, st.toNat), (41, homeB.toNat), (42, grant.toNat), (44, ndat.toNat)]]
  | .dat op a tag htag st homeB grant bmask line => packSlot [(0, 3), (3, op.toNat), (8, a.toNat), (14, tag.toNat), (26, htag.toNat),
      (38, st.toNat), (41, homeB.toNat), (42, grant.toNat), (64, bmask.toNat)] :: lineSlots (if st = 1 then 0 else line)
  | .evt op a n homeB tick arg => [packSlot [(0, 4), (3, op.toNat), (8, a.toNat), (14, n.toNat), (23, homeB.toNat), (24, tick.toNat),
      (64, arg.toNat)]]
  | .bad c a => [packSlot [(0, c.toNat), (8, a.toNat)]]

/-- SMAP of messages laid one after another from slot 0 (R88): a bit at the first slot of each. -/
def smapFrom : Nat → List LcfMsg → Nat
  | _, [] => 0
  | i, m :: rest => 2 ^ i + smapFrom (i + (msgSlots m).length) rest

/-! ## Mirror messages in slots (R265, R295, R296) -/

/-- The code of a message's class (R295). -/
def mirCls : MirMsg → Nat
  | .upd _ => 1 | .wmir .. => 2 | .ack _ => 3 | .claim _ => 4 | .void .. => 5 | .leaf .. => 6 | .lreq .. => 7
  | .hb .. => 8 | .decl .. => 9 | .hs .. => 10 | .ctl _ => 11 | .retire _ => 12 | .sfway .. => 13

/-- A UPD record (R296). -/
def updSlot (r : UpdRec) : Slot :=
  packSlot [(0, r.laddr.toNat), (46, r.st.toNat), (48, r.own.toNat), (54, r.add1.toNat), (61, r.add2.toNat), (68, r.way.toNat),
    (73, r.alloc.toNat), (74, r.poison.toNat), (75, r.data.isSome.toNat), (76, r.crec.toNat), (77, r.agent.toNat), (83, r.tag.toNat),
    (95, r.status.toNat), (98, r.grant.toNat), (100, r.ndat.toNat), (101, r.fromHome.toNat), (102, r.op.toNat)]

/-- Bytes in slots, the last filled with zeros. -/
def byteSlots (bs : List (BitVec 8)) : List Slot :=
  (List.range ((bs.length + 15) / 16)).map fun i =>
    packSlot ((List.range 16).map fun k => (8 * k, (bs.getD (16 * i + k) 0).toNat))

/-- The payload slots of a message in clear (R295). Handshake data have no stated layout, and none is made for them; where the CIDX
values of a RETIRE stand in a slot is the model's choice, 16 bits each (log entry 76). -/
def mirPayload : MirMsg → List Slot
  | .upd rs => rs.flatMap fun r => updSlot r :: (match r.data with | none => [] | some l => lineSlots l)
  | .wmir _ ls => byteSlots (ls.flatMap fun l => bytesLE 3 (l.line.toNat + l.agent.toNat * 64 + l.tag.toNat * 4096))
      ++ ls.flatMap fun l => lineSlots l.data
  | .claim c => [packSlot [(0, c.leaf.toNat)]]
  | .leaf _ _ poison ls => packSlot [(0, poison.toNat)] :: ls.flatMap lineSlots
  | .hb _ _ _ _ g => [packSlot [(0, g.toNat)]]
  | .retire cs => byteSlots (cs.flatMap fun c => bytesLE 2 c.toNat)
  | .sfway _ _ e => [packSlot [(0, e.toNat % 2 ^ 128)], packSlot [(0, e.toNat / 2 ^ 128)]]
  | .ack _ => [] | .void .. => [] | .lreq .. => [] | .decl .. => [] | .hs .. => [] | .ctl _ => []

/-- The ARG of a message, as bits 63:13 of its header hold it (R295). -/
def mirArg : MirMsg → Nat
  | .upd rs => rs.length * 2 ^ 13
  | .wmir leaf ls => leaf.toNat * 2 ^ 13 + ls.length * 2 ^ 53
  | .ack s => s.toNat * 2 ^ 13
  | .claim c => c.channel.toNat * 2 ^ 13 + c.window.toNat * 2 ^ 19 + c.homeB.toNat * 2 ^ 37 + c.second.toNat * 2 ^ 38
      + c.fallback.toNat * 2 ^ 39
  | .void ch w r => ch.toNat * 2 ^ 13 + w.toNat * 2 ^ 19 + r.toNat * 2 ^ 37
  | .leaf l u _ _ => l.toNat * 2 ^ 13 + u.toNat * 2 ^ 53
  | .lreq k l i s w => k.toNat * 2 ^ 59 + (if k.toNat < 2 then l.toNat * 2 ^ 13 + i.toNat * 2 ^ 53 else s.toNat * 2 ^ 13 + w.toNat * 2 ^ 29)
  | .hb s l st w _ => s.toNat * 2 ^ 13 + l.toNat * 2 ^ 33 + st.toNat * 2 ^ 37 + w.toNat * 2 ^ 41
  | .decl a c w => a.toNat * 2 ^ 13 + c.toNat * 2 ^ 19 + w.toNat * 2 ^ 23
  | .hs s _ => s.toNat * 2 ^ 13
  | .ctl o => o.toNat * 2 ^ 13
  | .retire cs => cs.length * 2 ^ 13
  | .sfway s w _ => s.toNat * 2 ^ 13 + w.toNat * 2 ^ 29

/-- Bits 63:0 of a message's header slot (R295): MCLS, NSLOT, ARG. -/
def mirHeader (m : MirMsg) : Word64 := BitVec.ofNat 64 (mirCls m + (mirPayload m).length * 2 ^ 4 + mirArg m)

/-- The slots of a mirror message under a link key and its SEQ: the header with its tag, then the encrypted payload (R265, R295). -/
def mirSlots (key : BitVec 256) (m : MirMsg × Nat) : List Slot :=
  let c := mirrorCipher key m.2 ((mirPayload m.1).flatMap fun s => bytesLE 16 s.toNat)
  packSlot [(0, (mirHeader m.1).toNat), (64, (mirrorTag key m.2 (mirHeader m.1) c).toNat)] :: byteSlots c

/-! ## Flits (R88) -/

/-- Bytes 0 to 251 of a flit (R88), least significant byte first. -/
def flitBytes (ftype seq ack : Nat) (nak rply : Bool) (smap : Nat) (slots : List Slot) (clsA cntA clsB cntB : Nat) : List (BitVec 8) :=
  bytesLE 8 (ftype * 2 ^ 62 + seq * 2 ^ 50 + ack * 2 ^ 38 + nak.toNat * 2 ^ 37 + rply.toNat * 2 ^ 36 + smap * 2 ^ 21)
    ++ ((List.range 15).flatMap fun i => bytesLE 16 (slots.getD i 0).toNat)
    ++ bytesLE 4 (clsA * 2 ^ 29 + cntA * 2 ^ 21 + clsB * 2 ^ 18 + cntB * 2 ^ 10)

/-- The slots of what a flit carries; a mirror message under the link key goes on in the flits after it (R294). -/
def OutFlit.slots (key : BitVec 256) (f : OutFlit) : List Slot := f.lcf.flatMap msgSlots ++ f.mir.flatMap (mirSlots key)

/-- The 256 bytes of a flit that is sent (R88, R89, R294); CRC last. -/
def OutFlit.bytes (key : BitVec 256) (f : OutFlit) : List (BitVec 8) :=
  let smap := smapFrom 0 f.lcf + (if f.mir = [] then 0 else 1)
  let bs := flitBytes f.ftype.toNat f.seq f.ack f.nak f.rply smap (f.slots key) f.clsA f.cntA f.clsB f.cntB
  bs ++ bytesLE 4 (crc32c bs)

/-- Whether a received flit's CRC holds (R88). -/
def crcGood (f : Flit) : Bool :=
  crc32c (flitBytes f.ftype.toNat f.seq.toNat f.ack.toNat f.nak f.rply f.smap.toNat f.slots f.clsA.toNat f.cntA.toNat f.clsB.toNat
    f.cntB.toNat) = f.crc.toNat

/-! ## Frames (R80-R82) -/

/-- CRC-8 of bits, first bit first (R82): polynomial 0x07, from 0 and not inverted (log entry 73). -/
def crc8 (bits : List Bool) : BitVec 8 :=
  bits.foldl (fun (c : BitVec 8) b => if c.getLsbD 7 != b then (c <<< 1) ^^^ 0x07#8 else c <<< 1) 0

/-- The bits of a number, most significant first. -/
def bitsMSB (n v : Nat) : List Bool := (List.range n).map fun i => v.testBit (n - 1 - i)

/-- FCRC of a frame control word, over its bits 31:8 (R82). -/
def fcrcOf (frame lctl larg : BitVec 8) : BitVec 8 := crc8 (bitsMSB 8 frame.toNat ++ bitsMSB 8 lctl.toNat ++ bitsMSB 8 larg.toNat)

/-- Whether a received frame control word's FCRC holds. -/
def fcrcGood (w : Fcw) : Bool := fcrcOf w.frame w.lctl w.larg = w.fcrc

/-- The frame control word of a frame that a link sends: the code it repeats, or NOP (R82, R83). -/
def fcwOf (l : LinkSt) : BitVec 40 :=
  let c := l.lctlOut.getD (0, 0)
  0xB5#8 ++ l.txFrame ++ c.1 ++ c.2 ++ fcrcOf l.txFrame c.1 c.2

/-- The message bits of a frame (R81): the frame control word, then five flits, scrambled. -/
def frameBits (scr : Nat) (fcw : BitVec 40) (flits : List (List (BitVec 8))) : List Bool :=
  Config.scramble scr (bitsMSB 40 fcw.toNat ++ flits.flatMap fun f => f.flatMap fun b => bitsMSB 8 b.toNat)

/-- The code symbols of a frame in the order they are sent (R81): codeword A holds the first 5,140 message bits and B the rest; with
INTLV they alternate. -/
def frameSymbols (intlv : Bool) (bits : List Bool) : List (BitVec 10) :=
  let a := Config.rsEncode (bits.take 5140)
  let b := Config.rsEncode (bits.drop 5140)
  if intlv then (List.zip a b).flatMap fun e => [e.1, e.2] else a ++ b

/-- The logical lane of symbol k of the sent order (R81, R99, R293), on a link of `lanes` logical lanes. -/
def symbolLane (lanes k : Nat) : Nat := k % lanes

end Sys2Proof.Machine
end

