-- ==== Sys2Proof/Machine/Ops.lean ====
section
/-!
DEFINITION. The shared operations of the block: free values, counters (R415), the Ledger (R420-R423),
raising an event (R408), sending on a port (R90-R95) and on the mirror link (R294, R295), Gecko stamps
(R418, R419), service-port output, and entry to Withdrawn and Shutdown.
-/
namespace Sys2Proof.Machine

/-- Apply `f` when `b` holds. -/
def whenD (b : Bool) (f : Dev → Dev) (d : Dev) : Dev := if b then f d else d

/-- Apply a step for each element, left to right. -/
def forEach {α : Type} (l : List α) (f : α → Dev → Dev) (d : Dev) : Dev := l.foldl (fun s a => f a s) d

/-- A free value of 64 bits: nothing is known of it (log entry 9). -/
def drawFree (d : Dev) : Word64 × Dev := (Config.freeValue d.free, { d with free := d.free + 1 })

/-- The numbers whose bit is set in `v`, below `n`. -/
def bitList (n v : Nat) : List Nat := (List.range n).filter fun i => v.testBit i

/-- Elements without repeats, first occurrence kept. -/
def insertNew {α : Type} [DecidableEq α] (x : α) (l : List α) : List α := if x ∈ l then l else l ++ [x]

/-! ## Counters (R414, R415) -/

/-- One increment of a counter: past 2^48 − 1 it wraps and sets WRAP; with WRAP set it stops there and sets SAT. -/
def Ctr.inc (c : Ctr) : Ctr :=
  if c.sat then c
  else if c.val + 1 = 2 ^ 48 then { c with val := 0, wrap := true }
  else if c.wrap ∧ c.val + 1 = 2 ^ 48 - 1 then { c with val := 2 ^ 48 - 1, sat := true }
  else { c with val := c.val + 1 }

/-- Several increments of a counter at once. -/
def Ctr.add (n : Nat) (c : Ctr) : Ctr :=
  if c.sat then c
  else if c.val + n < 2 ^ 48 - (if c.wrap then 1 else 0) then { c with val := c.val + n }
  else if c.wrap ∨ 2 ^ 49 - 1 ≤ c.val + n then { val := 2 ^ 48 - 1, wrap := true, sat := true }
  else { c with val := c.val + n - 2 ^ 48, wrap := true }

/-- Increment a counter, raising nothing. -/
def bump (i : Nat) (d : Dev) : Dev := { d with obs := { d.obs with ctrs := d.obs.ctrs.upd {} i Ctr.inc } }

/-! ## The Ledger -/

/-- Put a record into the buffer (R420, R422), or discard and count it; the flag says it was discarded.
An eligible record takes a priority slot when the general slots are full or its event enters Withdrawn. -/
def ledPut (eligible entersW : Bool) (r : LedRec) (d : Dev) : Dev × Bool :=
  let pr := (d.obs.buf.filter fun x => x.prio).length
  let gen := d.obs.buf.length - pr
  let put (prio : Bool) : Dev × Bool :=
    (bump 0xE002 { d with obs := { d.obs with
      buf := d.obs.buf ++ [{ r with seq := d.obs.nextSeq, tick := d.glb.tick, prio := prio }],
      nextSeq := d.obs.nextSeq + 1 } }, false)
  if eligible ∧ (3968 ≤ gen ∨ entersW) ∧ pr < 128 then put true
  else if gen < 3968 then put false
  else (bump 0xE004 (addSat F.OBS_LED_DROP_COUNT 1 d), true)

/-- Whether an event is marked in a bank of 16 one-bit-per-event registers. -/
def eventBit (d : Dev) (base n : Nat) : Bool := getF d ⟨base + 4 * (n / 32), n % 32, n % 32⟩ != 0

/-- A record under the flood rule (R422). The flags say: written, discarded. -/
def ledFlood (entersW : Bool) (r : LedRec) (d : Dev) : Dev × Bool × Bool :=
  let f := d.obs.floods.get {} r.evnum
  if f.written < getF d F.OBS_LED_CFG_FLOOD then
    let d := { d with obs := { d.obs with floods := d.obs.floods.put {} r.evnum { f with written := f.written + 1 } } }
    let p := ledPut (eventBit d 0xE00300 r.evnum) entersW r d
    (p.1, !p.2, p.2)
  else
    let f' : Flood := { f with supp := f.supp + 1, first := if f.supp = 0 then d.glb.tick else f.first, last := d.glb.tick }
    (bump 0xE003 (addSat F.OBS_LED_SUPP_COUNT 1
      { d with obs := { d.obs with floods := d.obs.floods.put {} r.evnum f' } }), false, false)

/-- The number that bytes spell, least significant first. -/
def ofBytesLE : List (BitVec 8) → Nat
  | [] => 0
  | b :: rest => b.toNat + 256 * ofBytesLE rest

/-- The snapshot of R421: ten registers, read without side effects, a disabled entry giving 0. -/
def snapshot (d : Dev) : List (BitVec 8) :=
  (List.range 10).flatMap fun k =>
    bytesLE 4 (if getF d (F.OBS_LED_REG_EN k) = 1 then (viewReg d 0 (getF d (F.OBS_LED_REG_ADDR k) * 4)).toNat else 0)

/-! ## Raising an event -/

/-- Whether a once-per-superframe event of this key was raised in this superframe. -/
def seenSf (k : Nat) (d : Dev) : Bool := decide (k ∈ d.glb.sfEvents)

/-- Mark a once-per-superframe key. -/
def markSf (k : Nat) (d : Dev) : Dev := { d with glb := { d.glb with sfEvents := k :: d.glb.sfEvents } }

/-- Set an event's bit in EVT_PEND (R408); event numbers have 9 bits. -/
def pendEvent (n : Nat) (d : Dev) : Dev := setF ⟨0x200100 + 4 * (n % 512 / 32), n % 32, n % 32⟩ 1 d

/-- Enter an event in a port's Rill (R400), or count it lost; an alert that becomes active sends one IBI (R409).
The flag says the Rill was full. -/
def rillPut (p n : Nat) (alert : Bool) (tick : Nat) (arg : Word) (d : Dev) : Dev × Bool :=
  let q := portOf d p
  if 32 ≤ q.ev.length then
    (onPort p (fun q => { q with lost := min 65535 (q.lost + 1), lostMark := true }) d, true)
  else
    let ibi := alert && !(q.ev.any fun e => e.alert) && flag d (F.SVC_PORT_CFG_IBI_ALERT p)
      && flag d (F.SVC_PORT_STS_IBI_EN p)
    let mdb := BitVec.ofNat 8 (getF d (F.SVC_PORT_CFG_MDB p))
    (onPort p (fun q => { q with
      ev := q.ev ++ [⟨n, alert, q.lostMark, tick, arg⟩], lostMark := false,
      out := if ibi then q.out ++ [.ibi mdb] else q.out }) d, false)

/-- The fabric ports an agent is bound to. -/
def portsOfAgent (d : Dev) (a : Nat) : List Nat :=
  (List.range 16).filter fun p =>
    if a < 32 then (getF d (F.FAB_AGT_LO_BOUND p)).testBit a else (getF d (F.FAB_AGT_HI_BOUND p)).testBit (a - 32)

/-- The agents bound to a port. -/
def agentsOfPort (d : Dev) (p : Nat) : List Nat :=
  bitList 64 (getPair (F.FAB_AGT_LO_BOUND p) (F.FAB_AGT_HI_BOUND p) d)

/-- An EVT message that enters the send queue ahead of routed ones: TAKEOVER, EVENT 165 and EVENT 391 (R408). -/
def evtFirst : LcfMsg → Bool
  | .evt op _ n _ _ _ => decide (op = 2) || decide (n = 165) || decide (n = 391)
  | _ => false

/-- Queue a routed EVT message, or count it dropped when the queue of 16 is full (R408). -/
def evtQueue (p : Nat) (m : LcfMsg) (d : Dev) : Dev :=
  let q := d.svc.evtQ.get [] p
  if q.length < 16 then { d with svc := { d.svc with evtQ := d.svc.evtQ.put [] p (q ++ [m]) } }
  else addSat F.EVT_DROP_COUNT 1 d

/-- Queue an EVT message to a named agent ahead of routed ones; never dropped (R408). -/
def evtQueueFirst (p : Nat) (m : LcfMsg) (d : Dev) : Dev :=
  let q := d.svc.evtQ.get [] p
  let ahead := q.takeWhile evtFirst
  { d with svc := { d.svc with evtQ := d.svc.evtQ.put [] p (ahead ++ [m] ++ q.drop ahead.length) } }

/-- The role of this twin: false A, true B. -/
def roleB (d : Dev) : Bool := d.glb.roleB

/-! ## Gecko tags -/

/-- Stamp a stage of a tagged request in flight; a tick is 500 units of 2 ns (R419). -/
def stamp (g : Option Nat) (s : Nat) (d : Dev) : Dev :=
  match g with
  | none => d
  | some id => { d with obs := { d.obs with inFlight := d.obs.inFlight.map fun x =>
      if x.id = id then { x with stages := x.stages.insert s (d.glb.tick * 500) } else x } }

/-- Drop a tag whose request ends without a CMP (R418). -/
def dropTag (g : Option Nat) (d : Dev) : Dev :=
  match g with
  | none => d
  | some id => { d with obs := { d.obs with inFlight := d.obs.inFlight.filter fun x => x.id ≠ id } }

/-- The tag in flight of a request. -/
def tagOf (d : Dev) (a : Agent) (t : Tag) : Option Nat :=
  (d.obs.inFlight.find? fun x => x.r.agent = a ∧ x.r.tag = t).map Gecko.id

/-- Complete a tag: its record enters the 256-record ring (R419). The flag says a record was overwritten. -/
def ringPut (id : Nat) (d : Dev) : Dev × Bool :=
  match d.obs.inFlight.find? fun x => x.id = id with
  | none => (d, false)
  | some g =>
    let full := decide (256 ≤ d.obs.ring.length)
    let ring := (if full then d.obs.ring.drop 1 else d.obs.ring) ++ [{ g with seq := d.obs.gkSeq }]
    let d := { d with obs := { d.obs with
      ring := ring, gkSeq := d.obs.gkSeq + 1,
      inFlight := d.obs.inFlight.filter fun x => x.id ≠ id } }
    (if full then addSat F.OBS_GK_STS_OVW 1 d else d, full)

/-! ## Sending on a port -/

/-- The class of a message (R89). -/
def lcfCls : LcfMsg → Nat
  | .req _ => 0 | .snp .. => 1 | .rsp .. => 2 | .dat .. => 3 | .evt .. => 4 | .bad c _ => c.toNat

/-- The first message of a class, and the rest in order. -/
def takeCls (c : Nat) : List LcfMsg → Option (LcfMsg × List LcfMsg)
  | [] => none
  | m :: rest => if lcfCls m = c then some (m, rest) else (takeCls c rest).map fun x => (x.1, m :: x.2)

/-- The next message a port may send: RSP, DAT, SNP, each while a credit of its class is held (R90, R95). -/
def pickMsg (l : LinkSt) : Option (LcfMsg × List LcfMsg) :=
  let try_ (c : Nat) := if l.crHeld.get 0 c = 0 then none else takeCls c l.wait
  match try_ 2 with
  | some r => some r
  | none => match try_ 3 with
    | some r => some r
    | none => try_ 1

/-- What leaving the port does to a tag: stage 10 at the first DAT flit, stage 11 at the CMP, which completes it (R418). -/
def leaveHook (m : LcfMsg) (d : Dev) : Dev × Bool :=
  match m with
  | .dat op a t _ _ _ _ _ _ => if op = 1 then (stamp (tagOf d a t) 10 d, false) else (d, false)
  | .rsp op a t _ _ _ _ _ =>
    if op = 1 then match tagOf d a t with
      | none => (d, false)
      | some id => ringPut id (stamp (some id) 11 d)
    else (d, false)
  | _ => (d, false)

/-- The classes and counts of the credits that the next flit returns (R88, R95): two classes, at most 255 of each. -/
def credPair : SMap Nat → (Nat × Nat) × (Nat × Nat)
  | [] => ((0, 0), (0, 0))
  | [(c, n)] => ((c, min n 255), (0, 0))
  | (c, n) :: (c', n') :: _ => ((c, min n 255), (c', min n' 255))

/-- Credits of a class go back to the other end. -/
def creditBack (e : Nat × Nat) (x : LinkSt) : LinkSt :=
  { x with owed := x.owed.put 0 e.1 (x.owed.get 0 e.1 - e.2), rxFree := x.rxFree.put 0 e.1 (x.rxFree.get 0 e.1 + e.2) }

/-- Put a flit on the wire (R88, R91): the next SEQ, the ACK and NAK that are due, credits that go back, and a place in the retry
buffer. A flit with no message is an idle flit. -/
def wireFlit (lcf : List LcfMsg) (mir : List (MirMsg × Nat)) (x : LinkSt) : LinkSt :=
  let c := credPair x.owed
  let f : OutFlit := {
    ftype := if lcf.isEmpty && mir.isEmpty then 1 else 0, seq := x.txSeq, ack := x.rxSeq, nak := x.nakOut, clsA := c.1.1, cntA := c.1.2
    clsB := c.2.1, cntB := c.2.2, lcf := lcf, mir := mir }
  creditBack c.2 (creditBack c.1 { x with
    retry := x.retry ++ [f], sent := x.sent ++ [f], txSeq := (x.txSeq + 1) % 4096, nakOut := false, ackOut := x.rxSeq })

/-- Send a hold flit (R92): ACK and NAK only, with no SEQ and no place in the retry buffer. -/
def wireHold (x : LinkSt) : LinkSt :=
  { x with sent := x.sent ++ [{ ftype := 2, ack := x.rxSeq, nak := x.nakOut }], nakOut := false, ackOut := x.rxSeq }

/-- Whether a link is in Active. -/
def linkActive (d : Dev) (l : Nat) : Bool :=
  if l < 16 then decide (getF d (F.FAB_STS_LTSTATE l) = 6) else decide (getF d F.TWN_STS_LINK = 2) || decide (getF d F.TWN_STS_LINK = 3)

/-- Send what the other end waits to learn (R91-R95): an ACK, a NAK, returned credits, in an idle flit, or with the window closed in
a hold flit. When the others of the idle flits go out is time within a tick (log entry 10). -/
def flushOne (l : Nat) (d : Dev) : Dev :=
  let x := linkOf d l
  if !linkActive d l then d
  else if 512 ≤ x.retry.length then (if x.nakOut ∨ x.ackOut ≠ x.rxSeq then onLink l wireHold d else d)
  else if x.owed ≠ [] ∨ x.nakOut ∨ x.ackOut ≠ x.rxSeq then onLink l (wireFlit [] []) d
  else d

/-- Two idle flits return the credits of all four classes. -/
def flushLink (l : Nat) (d : Dev) : Dev := flushOne l (flushOne l d)

/-- Put a message on the wire: a flit of its own, one credit (R91, R95). -/
def emit (p : Nat) (m : LcfMsg) (d : Dev) : Dev × Bool :=
  leaveHook m (onLink p (fun l => wireFlit [m] [] { l with
    crHeld := l.crHeld.put 0 (lcfCls m) (l.crHeld.get 0 (lcfCls m) - 1) }) d)

/-- Send one waiting message of a port in Active whose window is open (R92), if any may go. -/
def pumpOne (p : Nat) (d : Dev) : Option (Dev × Bool) :=
  let l := linkOf d p
  if getF d (F.FAB_STS_LTSTATE p) ≠ 6 ∨ 512 ≤ l.retry.length then none
  else match pickMsg l with
    | some (m, rest) => some (emit p m (onLink p (fun l => { l with wait := rest }) d))
    | none =>
      match d.svc.evtQ.get [] p with
      | [] => none
      | m :: rest =>
        if l.crHeld.get 0 4 = 0 then none
        else some (emit p m { d with svc := { d.svc with evtQ := d.svc.evtQ.put [] p rest } })

/-- Send up to `n` waiting messages of a port; the flag says the Gecko ring overwrote a record. -/
def pumpN : Nat → Nat → Dev → Dev × Bool
  | 0, _, d => (d, false)
  | n + 1, p, d =>
    match pumpOne p d with
    | none => (d, false)
    | some (d, o) => let r := pumpN n p d; (r.1, o || r.2)

/-- Send everything that may go on a port, raising nothing. -/
def pumpQuiet (p : Nat) (d : Dev) : Dev × Bool :=
  pumpN ((linkOf d p).wait.length + (d.svc.evtQ.get [] p).length) p d

/-- Route an event (R408): an entry in each routed Rill and a message to each bound agent of its set. The flags: Rill A full,
Rill B full. -/
def routeEvt (n tick : Nat) (arg : Word) (d : Dev) : Dev × Bool × Bool :=
  let r := getF d (F.EVT_ROUTE_ROUTE n)
  let (d, fa) := if r.testBit 0 || r.testBit 2 then rillPut 0 n (r.testBit 2) tick arg d else (d, false)
  let (d, fb) := if r.testBit 1 || r.testBit 3 then rillPut 1 n (r.testBit 3) tick arg d else (d, false)
  let k := r / 16 % 16
  let set := if k = 0 then 0 else getPair (F.EVT_ASET_LO_AGENTS (k - 1)) (F.EVT_ASET_HI_AGENTS (k - 1)) d
  let d := forEach (bitList 64 set) (fun a d => forEach (portsOfAgent d a) (fun p d =>
    (pumpQuiet p (evtQueue p (.evt 1 (BitVec.ofNat 6 a) (BitVec.ofNat 9 n) (roleB d)
      (BitVec.ofNat 40 tick) arg) d)).1) d) d
  (d, fa, fb)

/-- Raise an event (R408): its EVT_PEND bit, its Ledger record (R420), and its routing. Nothing is routed in Withdrawn; before
routing loads the event is held (R408). `w` says the event enters Withdrawn. The flags: record discarded, Rill A full, Rill B full. -/
def raiseCore (w : Bool) (n : Nat) (arg : Word) (d : Dev) : Dev × Bool × Bool × Bool :=
  let d := pendEvent n d
  let snap := eventBit d 0xE00400 n
  let rec0 : LedRec := { evnum := n, kind := if snap then 2 else 1, arg := arg, detail := if snap then snapshot d else [] }
  let (d, written, dropped) := ledFlood w rec0 d
  let d := if written && eventBit d 0xE00300 n then { d with obs := { d.obs with flushDue := true } } else d
  if d.glb.base = .withdrawn then (d, dropped, false, false)
  else if !d.glb.routingLoaded then
    ({ d with glb := { d.glb with held := d.glb.held ++ [⟨n, arg, d.glb.tick⟩] } }, dropped, false, false)
  else
    let (d, fa, fb) := routeEvt n d.glb.tick arg d
    (d, dropped, fa, fb)

/-- Raise an event with what follows from it once per superframe: 485 for a discarded record, 7 for a full Rill,
487 for a Ledger counter that saturates. -/
def raiseBy (w : Bool) (n : Nat) (arg : Word) (d : Dev) : Dev :=
  let satBefore := [0xE002, 0xE003, 0xE004].filter fun i => (d.obs.ctrs.get {} i).sat
  let (d, dropped, fa, fb) := raiseCore w n arg d
  let follow (key m : Nat) (a : Word) (c : Bool) (d : Dev) : Dev :=
    if c && !seenSf key d then (raiseCore false m a (markSf key d)).1 else d
  let d := follow 485 485 (BitVec.ofNat 32 (getF d F.OBS_LED_DROP_COUNT % 65536)) dropped d
  let d := follow 7000 7 0 fa d
  let d := follow 7001 7 1 fb d
  let sat := [0xE002, 0xE003, 0xE004].filter fun i => (d.obs.ctrs.get {} i).sat ∧ i ∉ satBefore
  follow 487 487 (BitVec.ofNat 32 (sat.headD 0)) (sat ≠ []) d

/-- Raise an event. -/
def raise (n : Nat) (arg : Word) (d : Dev) : Dev := raiseBy false n arg d

/-- Raise an event with a number as its argument. -/
def raiseN (n arg : Nat) (d : Dev) : Dev := raise n (BitVec.ofNat 32 arg) d

/-- Raise an event whose argument the spec does not state: a free value. -/
def raiseFree (n : Nat) (d : Dev) : Dev := let r := drawFree d; raise n (r.1.truncate 32) r.2

/-- Raise an event at most once a superframe under a key. -/
def raiseOnce (key n arg : Nat) (d : Dev) : Dev := if seenSf key d then d else raiseN n arg (markSf key d)

/-- Count one occurrence; a counter that saturates raises event 487 at most once a superframe (R415). -/
def count (i : Nat) (d : Dev) : Dev :=
  let was := (d.obs.ctrs.get {} i).sat
  let d := bump i d
  if (d.obs.ctrs.get {} i).sat && !was then raiseOnce 487 487 i d else d

/-- Count several occurrences. -/
def countN (i n : Nat) (d : Dev) : Dev :=
  let was := (d.obs.ctrs.get {} i).sat
  let d := { d with obs := { d.obs with ctrs := d.obs.ctrs.upd {} i (Ctr.add n) } }
  if (d.obs.ctrs.get {} i).sat && !was then raiseOnce 487 487 i d else d

/-- A detail record of the Ledger (R420): 40 bytes, and continuation records with the rest when it is written. -/
def ledDetail (n : Nat) (arg : Word) (detail : List (BitVec 8)) (d : Dev) : Dev :=
  let (d, written, dropped) := ledFlood false { evnum := n, kind := 3, arg := arg, detail := detail.take 40 } d
  let (d, dropped) :=
    if written ∧ 40 < detail.length then
      let p := ledPut (eventBit d 0xE00300 n) false { evnum := n, kind := 6, arg := arg, detail := detail.drop 40 } d
      (p.1, dropped || p.2)
    else (d, dropped)
  if dropped then raiseOnce 485 485 (getF d F.OBS_LED_DROP_COUNT % 65536) d else d

/-! ## Sending, with the events it raises -/

/-- Send everything that may go on a port; the Gecko ring's overwriting raises event 488 once a superframe. -/
def pump (p : Nat) (d : Dev) : Dev :=
  let (d, o) := pumpQuiet p d
  if o then raiseOnce 488 488 (getF d F.OBS_GK_STS_OVW) d else d

/-- Send an RSP, DAT or SNP message on a port, in its class's order (R90). -/
def sendLcf (p : Nat) (m : LcfMsg) (d : Dev) : Dev :=
  pump p (onLink p (fun l => { l with wait := l.wait ++ [m] }) d)

/-- Send an EVENT to every bound agent outside routing (R408: events 165 and 391). -/
def tellAgents (n : Nat) (arg : Word) (d : Dev) : Dev :=
  forEach (List.range 16) (fun p d => forEach (agentsOfPort d p) (fun a d =>
    pump p (evtQueueFirst p (.evt 1 (BitVec.ofNat 6 a) (BitVec.ofNat 9 n) (roleB d)
      (BitVec.ofNat 40 d.glb.tick) arg) d)) d) d

/-- The order in which the mirror link takes messages (R295). -/
def mirRank : MirMsg → Nat
  | .hb .. => 0 | .ack _ => 1 | .claim _ => 2 | .void .. => 2 | .decl .. => 3 | .ctl _ => 4 | .hs .. => 4
  | .upd _ => 5 | .sfway .. => 5 | .retire _ => 6 | .lreq .. => 7
  | .leaf _ u _ _ => if u = 2 then 10 else 8
  | .wmir .. => 9

/-- Insert by rank, after the messages of its own rank. -/
def mirInsert (m : MirMsg) (tag : Nat) : List (MirMsg × Nat) → List (MirMsg × Nat)
  | [] => [(m, tag)]
  | x :: rest => if mirRank x.1 ≤ mirRank m then x :: mirInsert m tag rest else (m, tag) :: x :: rest

/-- Give the transaction of an UPD the SEQ its message goes out under (R267, R297). -/
def noteSeq (tag : Nat) (d : Dev) : Dev :=
  let n := d.twn.txSeq
  let d := { d with twn := { d.twn with txSeq := n + 1 } }
  if tag = 0 then d
  else { d with bsn := { d.bsn with txns := d.bsn.txns.map fun e =>
    if e.1 = tag - 1 then (e.1, { e.2 with seq := some n }) else e } }

/-- Put waiting mirror messages on the wire while the link is Active and the window is open. -/
def mirPumpN : Nat → Dev → Dev
  | 0, d => d
  | n + 1, d =>
    let l := linkOf d 16
    if (getF d F.TWN_STS_LINK ≠ 2 ∧ getF d F.TWN_STS_LINK ≠ 3) ∨ 512 ≤ l.retry.length then d
    else match l.mirWait with
      | [] => d
      | (m, tag) :: rest =>
        let d := onLink 16 (fun l => wireFlit [] [(m, d.twn.txSeq)] { l with mirWait := rest }) d
        mirPumpN n (noteSeq tag (whenD (mirCls m ≤ 12) (count (0xA000 + mirCls m - 1)) d))

/-- Send everything that may go on the mirror link. -/
def mirPump (d : Dev) : Dev := mirPumpN (linkOf d 16).mirWait.length d

/-- Send a message to the partner for a transaction (`tag` is its HTAG + 1, or 0). -/
def mirSendFor (tag : Nat) (m : MirMsg) (d : Dev) : Dev :=
  mirPump (onLink 16 (fun l => { l with mirWait := mirInsert m tag l.mirWait }) d)

/-- Send a message to the partner. -/
def mirSend (m : MirMsg) (d : Dev) : Dev := mirSendFor 0 m d

/-- A service port sends something. -/
def portSay (p : Nat) (o : PortOut) (d : Dev) : Dev := onPort p (fun q => { q with out := q.out ++ [o] }) d

/-- A control-space access or Ledger command of the lock's owner restarts the lock timer (R402). -/
def touch (p : Nat) (d : Dev) : Dev :=
  if getF d F.SVC_LOCK_OWNER = p + 1 then { d with svc := { d.svc with idleSince := d.glb.tick } } else d

/-- Something service software does through a port: the ports serve from the end of step 1, not in Off, and in Withdrawn only
reads of identity registers (R397). -/
def viaPort (p : Nat) (f : Dev → Dev) (d : Dev) : Dev :=
  match d.glb.base with
  | .off | .sequencing | .withdrawn => d
  | _ => f (touch p d)

/-- A response body in the vendor-defined format (R329): CMD with bit 7 set, STATUS first in the payload. -/
def response (mclass cmd seq : BitVec 8) (status : BitVec 8) (payload : List (BitVec 8)) : List (BitVec 8) :=
  [0x7F, 0x00, 0x01, 0xC4, 0xA9, mclass, cmd ||| 0x80, seq] ++ bytesLE 2 (payload.length + 1) ++ [status] ++ payload

/-- Answer a message on a service port. -/
def answer (p : Nat) (mclass cmd seq status : BitVec 8) (payload : List (BitVec 8)) (d : Dev) : Dev :=
  portSay p (.body (response mclass cmd seq status payload)) d

/-- A change of GLB_STATE or of a condition flag raises event 0 (R413). -/
def finish (before : Nat) (d : Dev) : Dev := if stateByte d = before then d else raiseN 0 (stateByte d) d

/-- Carry out an effect on the device: the next state, with event 0 where GLB_STATE changed. -/
def run (f : Dev → Dev) (s : State) : Host.Outcome State Fault Refusal :=
  .next { s with dev := finish (stateByte s.dev) (f s.dev) }

/-- Carry out an effect that cannot change GLB_STATE. -/
def runQ (f : Dev → Dev) (s : State) : Host.Outcome State Fault Refusal := .next { s with dev := f s.dev }

end Sys2Proof.Machine
end

