-- ==== Sys2Proof/Machine/Grotto.lean ====
section
/-!
DEFINITION. The Grotto (R369-R383): logical page writes in four physical programs, multi-cell counters,
rotation, block protect, margin reads and recovery at power-up.
-/
namespace Sys2Proof.Machine

/-- Change the Grotto's state. -/
def onGrt (f : Grt → Grt) (d : Dev) : Dev := { d with grt := f d.grt }

/-- Whether block protect refuses writes to a logical sector (R378). -/
def grtRefuses (d : Dev) (sector : Nat) : Bool :=
  match d.grt.protect with
  | 0 => false
  | 1 => decide (36 ≤ sector)
  | 2 => decide (24 ≤ sector)
  | _ => true

/-- The physical sector of a logical sector; a fresh device maps sector k to pool sector k + 2. -/
def physSector (g : Grt) (s : Nat) : Nat := g.smap.get (s + 2) s

/-- The free pool sectors: neither mapped nor retired (R370, R371). -/
def freeSectors (g : Grt) : List Nat :=
  (List.range 62).filterMap fun i =>
    if (List.range 48).any (fun s => physSector g s = i + 2) ∨ (i + 2) ∈ g.retired then none else some (i + 2)

/-- The free sector with the lowest total page-write count, the lowest number first. -/
def bestFree (g : Grt) : Option Nat :=
  (freeSectors g).foldl (fun (b : Option Nat) x => match b with
    | none => some x
    | some y => if g.counts.get 0 x < g.counts.get 0 y then some x else some y) none

/-- Show the free and retired sectors in GRT_SPARE. -/
def showSpare (d : Dev) : Dev :=
  setF F.GRT_SPARE_RETIRED d.grt.retired.length (setF F.GRT_SPARE_FREE (freeSectors d.grt).length d)

/-- Map a logical sector to another physical sector: the sector map is written anew (R371, R377). -/
def moveTo (s phys : Nat) (d : Dev) : Dev :=
  showSpare (count 0xD003 (onGrt (fun g => { g with
    smap := g.smap.insert s phys, since := g.since.put 0 s 0, mapSeq := g.mapSeq + 1,
    counts := g.counts.put 0 phys (g.counts.get 0 phys + 256) }) d))

/-- Change one counter (R376). -/
def onCtr (k : Nat) (f : GCtr → GCtr) (d : Dev) : Dev := onGrt (fun g => { g with ctrs := g.ctrs.upd {} k f }) d

/-- The value of a counter as R376 reads it; none when it is lost. -/
def ctrValue (c : GCtr) : Option Nat :=
  match c.intent, c.cell0, c.cell1 with
  | some v, _, _ => some v
  | none, some a, some b => some (max a b)
  | none, some a, none => some a
  | none, none, some b => some b
  | none, none, none => none

/-- A counter's value, 0 when lost. -/
def ctrNow (d : Dev) (k : Nat) : Nat := (ctrValue (d.grt.ctrs.get {} k)).getD 0

/-- Show the counters in the registers they are read through. -/
def showCounters (d : Dev) : Dev :=
  let d := setPair F.SLU_ROOTCTR_LO_CTR F.SLU_ROOTCTR_HI_CTR (ctrNow d 0) d
  let d := setF F.GLB_MINVER_MINVER (ctrNow d 1) d
  let d := setF F.TWN_PEPOCH_EPOCH (ctrNow d 2) d
  let d := setF F.GLB_BOOT_CNT_COLD_COUNT (ctrNow d 3) d
  setF F.GLB_BOOT_CNT_WARM_COUNT (ctrNow d 4) d

/-- The new content of a page write stands (R373): its bytes, wrapping within the page, or its step of a counter. -/
def grtApply (w : GWrite) (d : Dev) : Dev :=
  match w.ctr with
  | some c =>
    showCounters (onCtr c.k (fun g => match c.step with
      | 0 => { g with intent := some c.value }
      | 1 => { g with cell0 := some c.value }
      | 2 => { g with cell1 := some c.value }
      | _ => { g with intent := none }) d)
  | none =>
    onGrt (fun g => { g with bytes := (List.zip (List.range w.bytes.length) w.bytes).foldl (fun m x =>
      m.put 0 (w.addr / 256 * 256 + (w.addr + x.1) % 256) x.2) g.bytes }) d

/-- The logical sector a write targets; counter steps are in sector 0 (R372). -/
def writeSector (w : GWrite) : Nat := if w.ctr.isSome then 0 else w.addr / 0x10000

/-- Submit a logical page write; block protect refuses it with event 476 and changes nothing (R378). -/
def grtSubmit (w : GWrite) (d : Dev) : Dev :=
  if grtRefuses d (writeSector w) then raiseN 476 (writeSector w) (setB F.GRT_ERR_PROT true d)
  else onGrt (fun g => { g with wait := g.wait ++ [w] }) d

/-- Submit the four page writes that change a counter (R376). -/
def grtSetCtr (k v : Nat) (d : Dev) : Dev :=
  forEach [0, 1, 2, 3] (fun i => grtSubmit { ctr := some ⟨k, i, v⟩ }) d

/-- The value a counter will have once every write waiting for it is carried out. -/
def ctrComing (d : Dev) (k : Nat) : Nat :=
  let q := (match d.grt.cur with | none => d.grt.wait | some w => w :: d.grt.wait)
  q.foldl (fun v w => match w.ctr with
    | some c => if c.k = k then c.value else v
    | none => v) (ctrNow d k)

/-- Submit the increment of a counter. -/
def grtInc (k : Nat) (d : Dev) : Dev := grtSetCtr k (ctrComing d k + 1) d

/-- PAGE_WRITE: a logical page write of 256 bytes. -/
def pageWrite (addr : BitVec 22) (bytes : List (BitVec 8)) (d : Dev) : Dev :=
  grtSubmit { addr := addr.toNat, bytes := bytes } d

/-- PAGE_WRITE (R373). -/
def execPageWrite (addr : BitVec 22) (bytes : List (BitVec 8)) (s : State) : Host.Outcome State Fault Refusal :=
  runQ (pageWrite addr bytes) s

/-- The first waiting write starts when VDD_GRT is qualified and inside its warning levels and the energy
store is charged; otherwise it waits (R374). -/
def pageWriteStart (d : Dev) : Dev :=
  match d.grt.cur, d.grt.wait with
  | none, w :: rest =>
    if getF d (F.PWR_RAIL_STS_STATE 4) = 2 ∧ flag d F.GRT_STS_STORE_OK then
      setB F.GRT_STS_WAIT false (setB F.GRT_STS_BUSY true
        (onGrt (fun g => { g with cur := some w, program := 1, retried := false, wait := rest }) d))
    else setB F.GRT_STS_WAIT true d
  | _, _ => d

/-- PAGE_WRITE_START (R374). -/
def execPageWriteStart (s : State) : Host.Outcome State Fault Refusal := runQ pageWriteStart s

/-- The end of the running write: its page write is counted for its physical sector. -/
def writeEnds (w : GWrite) (d : Dev) : Dev :=
  let sec := writeSector w
  let ph := physSector d.grt sec
  setB F.GRT_STS_BUSY false (count 0xD000 (onGrt (fun g => { g with
    cur := none, program := 0, retried := false, since := g.since.put 0 sec (g.since.get 0 sec + 1),
    counts := g.counts.put 0 ph (g.counts.get 0 ph + 1) }) d))

/-- The stored bytes of a logical page. -/
def pageContent (d : Dev) (p : Nat) : List (BitVec 8) :=
  (List.range 256).map fun i => d.grt.bytes.get 0 (p * 256 + i)

/-- Keep what the running write's page or counter holds, before its new content stands. -/
def keepPrior (w : GWrite) (d : Dev) : Dev :=
  match w.ctr with
  | some c => onGrt (fun g => { g with priorCtr := g.ctrs.get {} c.k }) d
  | none => onGrt (fun g => { g with priorPage := pageContent d (w.addr / 256) }) d

/-- A refused write leaves its page or counter as it was (R377). -/
def putPrior (w : GWrite) (d : Dev) : Dev :=
  match w.ctr with
  | some c => showCounters (onCtr c.k (fun _ => d.grt.priorCtr) d)
  | none => onGrt (fun g => { g with bytes := (List.zip (List.range 256) g.priorPage).foldl (fun m x =>
      m.put 0 (w.addr / 256 * 256 + x.1) x.2) g.bytes }) d

/-- The next program of the running write, or its end. -/
def programNext (w : GWrite) (d : Dev) : Dev :=
  let d := if d.grt.program = 2 then grtApply w (keepPrior w d) else d
  if 4 ≤ d.grt.program then writeEnds w d
  else onGrt (fun g => { g with program := g.program + 1, retried := false }) d

/-- A physical program ends. A failed one is repeated once; a second failure retires the physical sector and the
write completes in the replacement, or is refused when no sector is free, and the sector keeps its earlier content (R375, R377). The
sector retired is the one of the page written, whichever program failed (log entry 37). -/
def physicalProgramDone (ok : Bool) (d : Dev) : Dev :=
  match d.grt.cur with
  | none => d
  | some w =>
    let d := count 0xD001 d
    if ok then programNext w d
    else if !d.grt.retried then onGrt (fun g => { g with retried := true }) d
    else
      let sec := writeSector w
      let ph := physSector d.grt sec
      let d := setB F.GRT_ERR_PROG_FAIL true d
      match bestFree d.grt with
      | none =>
        let d := raiseN 477 sec (setB F.GRT_ERR_NOSPARE true (if 3 ≤ d.grt.program then putPrior w d else d))
        setB F.GRT_STS_BUSY false (onGrt (fun g => { g with cur := none, program := 0, retried := false }) d)
      | some f =>
        let d := onGrt (fun g => { g with retired := g.retired ++ [ph] }) d
        let d := count 0xF009 (raiseN 474 ph (moveTo sec f d))
        programNext w d

/-- PHYSICAL_PROGRAM_DONE (R375). -/
def execPhysicalProgramDone (ok : Bool) (s : State) : Host.Outcome State Fault Refusal :=
  runQ (physicalProgramDone ok) s

/-- A logical sector whose page writes since mapping reach GRT_ROT.WRITES moves to the free sector with the lowest
total count (R377); without a free sector nothing moves. -/
def sectorMove (s : Nat) (d : Dev) : Dev :=
  if d.grt.since.get 0 s < getF d F.GRT_ROT_WRITES then d
  else match bestFree d.grt with
    | none => d
    | some f => moveTo s f d

/-- SECTOR_MOVE (R377). -/
def execSectorMove (s : Fin 48) (st : State) : Host.Outcome State Fault Refusal := runQ (sectorMove s.val) st

/-- Forget what an uncorrectable page held (R380): a counter's intent or cell, a top-image slot, keys or the identity, structure
records or the way map, the offset table, a rail log entry, or the Ledger's records; a sector map copy is read from the other system
sector. -/
def pageForget (p : Nat) (d : Dev) : Dev :=
  let sector := p / 256
  if p = 0 then forEach (List.range 8) (fun k => onCtr k fun c => { c with intent := none }) d
  else if p ≤ 16 then onCtr ((p - 1) / 2) (fun c => if p % 2 = 1 then { c with cell0 := none } else { c with cell1 := none }) d
  else if (5 ≤ sector ∧ sector ≤ 7) ∨ sector = 47 then onGrt (fun g => { g with keyLost := true }) d
  else if 8 ≤ sector ∧ sector ≤ 12 then onGrt (fun g => { g with structLost := true }) d
  else if 1 ≤ sector ∧ sector ≤ 4 then onGrt (fun g => { g with slots := g.slots.put none ((sector - 1) / 2) none }) d
  else if 13 ≤ sector ∧ sector ≤ 15 then onGrt (fun g => { g with offsetsValid := false }) d
  else if sector = 16 then onGrt (fun g => { g with bytes := g.bytes.filter fun e => decide (e.1 / 256 ≠ p) }) d
  else if 24 ≤ sector ∧ sector ≤ 35 then
    { d with obs := { d.obs with area := d.obs.area.take ((p - 24 * 256) * 4) ++ d.obs.area.drop ((p - 24 * 256) * 4 + 4) } }
  else d

/-- A page read is uncorrectable at the normal reference (R380): event 478. -/
def pageUncorr (p : Nat) (d : Dev) : Dev := pageForget p (raiseN 478 p (setB F.GRT_ERR_UNCORR true d))

/-- A page is rewritten with its own content after a margin read (R379): event 473. -/
def refreshPage (p : Nat) (d : Dev) : Dev :=
  raiseN 473 p (count 0xD002 (if 17 ≤ p ∧ p < 48 * 256 then grtSubmit { addr := p * 256, bytes := pageContent d p } d else d))

/-- The used physical pages the margin reader visits: mapped sectors and the two system sectors, in ascending
order; the next read goes on where the last ended (R379). -/
def marginRead (weak bad : List (BitVec 14)) (d : Dev) : Dev :=
  let n := getF d F.GRT_MARGIN_PAGES
  let from_ := d.grt.marginAt
  let due (p : Nat) : Bool := decide (from_ ≤ p) && decide (p < from_ + n)
  let d := forEach ((weak.map BitVec.toNat).filter due) refreshPage d
  let d := forEach ((bad.map BitVec.toNat).filter due) pageUncorr d
  onGrt (fun g => { g with marginAt := (from_ + n) % (50 * 256) }) d

/-- MARGIN_READ (R379): the logical page numbers that need refresh, each rewritten with its own content, and those uncorrectable at the normal reference. -/
def execMarginRead (weak bad : List (BitVec 14)) (s : State) : Host.Outcome State Fault Refusal :=
  runQ (marginRead weak bad) s

/-- A fault of the energy store cuts a started write short (R374): whole staging is kept, else the write is lost. -/
def energyStoreFault (d : Dev) : Dev :=
  let d := setB F.GRT_STS_STORE_OK false d
  match d.grt.cur with
  | none => d
  | some w =>
    setB F.GRT_STS_BUSY false (onGrt (fun g => { g with
      cur := none, program := 0, retried := false, cut := some (w, decide (3 ≤ g.program)) }) d)

/-- ENERGY_STORE_FAULT (R374). -/
def execEnergyStoreFault (s : State) : Host.Outcome State Fault Refusal := runQ energyStoreFault s

/-- Record a resolved operation (R381): its kind in GRT_STS.RECOV, and event 472. -/
def resolved (kind : Nat) (d : Dev) : Dev := raiseN 472 kind (setF F.GRT_STS_RECOV kind d)

/-- Step 2's treatment of one counter (R376, R381). -/
def recoverCtr (k : Nat) (d : Dev) : Dev :=
  let c := d.grt.ctrs.get {} k
  let same (v : Nat) : Dev → Dev := onCtr k fun _ => { intent := none, cell0 := some v, cell1 := some v }
  match c.intent, c.cell0, c.cell1 with
  | some v, _, _ => resolved 3 (same v d)
  | none, some a, some b => if a = b then d else resolved 4 (same (max a b) d)
  | none, some a, none => resolved 4 (same a d)
  | none, none, some b => resolved 4 (same b d)
  | none, none, none => if k ≤ 1 then d else resolved 5 (same 0 d)

/-- The writes of R381 before the counters: a cut page write is completed from whole staging, else rolled back. -/
def recoverCut (d : Dev) : Dev :=
  match d.grt.cut with
  | none => d
  | some (w, whole) =>
    let d := onGrt (fun g => { g with cut := none }) d
    if whole then resolved 1 (grtApply w d) else resolved 2 d

/-- Whether step 2 can go on: the sector map checks and neither ROOTCTR nor MINVER is lost. -/
def grottoOk (d : Dev) : Bool :=
  d.grt.mapOk && (ctrValue (d.grt.ctrs.get {} 0)).isSome && (ctrValue (d.grt.ctrs.get {} 1)).isSome

/-- The protect level shown in GRT_STS. -/
def showProtect (d : Dev) : Dev := setF F.GRT_STS_PROT d.grt.protect d

/-- The pages whose margin reads are part of step 2 (R379): the counter sector's and the two system sectors'. -/
def atStep2 (p : Nat) : Bool := decide (p < 256) || decide (48 * 256 ≤ p)

/-- What the reads of step 2 find uncorrectable shows before the counters are read (R379, R380). -/
def grottoScan (scan : GrtScan) (d : Dev) : Dev :=
  forEach ((scan.bad.map BitVec.toNat).filter atStep2) pageUncorr (onGrt (fun g => { g with mapOk := scan.mapOk }) d)

/-- The recovery of R381, the failures apart. -/
def grottoRecover (scan : GrtScan) (d : Dev) : Dev :=
  let d := forEach [0, 1, 2, 3, 4] recoverCtr (recoverCut d)
  showProtect (showSpare (showCounters (forEach ((scan.weak.map BitVec.toNat).filter atStep2) refreshPage d)))

/-- PROTECT raises the protect level for the port that holds the lock; a level not above the current one is
discarded with event 3 (R378). -/
def protect (level : Nat) (d : Dev) : Dev :=
  if level ≤ d.grt.protect then raiseN 3 0xD00010 d
  else raiseN 479 level (showProtect (onGrt (fun g => { g with protect := level }) d))

end Sys2Proof.Machine
end

