-- ==== Sys2Proof/Machine/Life.lean ====
section
/-!
DEFINITION. What ends a device's service and begins its next start: losing the lock (R402), ending a transaction
(R403, R406), Withdrawn (R5, R308), Shutdown (R360), switching rails off (R347, R352), and reset (R334, R343).
-/
namespace Sys2Proof.Machine

/-! ## The lock and transactions -/

/-- Change the service state. -/
def onSvc (f : Svc → Svc) (d : Dev) : Dev := { d with svc := f d.svc }

/-- Roll back or abandon the transaction with a RESULT: the shadow bank is discarded, STATE IDLE, event 6 (R403, R406). -/
def rollBack (result : Nat) (d : Dev) : Dev :=
  let d := onSvc (fun v => { v with shadow := [] }) d
  let d := setF F.SVC_TXN_STATE 0 (setF F.SVC_TXN_RESULT result (setF F.SVC_TXN_STAGED 0 (setB F.SVC_TXN_OVF false d)))
  raiseN 6 result d

/-- The RESULT that matches a lock-loss cause (R402, R411). -/
def lossResult (cause : Nat) : Nat :=
  match cause with
  | 1 => 3
  | 2 => 4
  | 3 => 5
  | _ => 7

/-- The lock is lost (R402): LOSS, event 2 for causes 2 to 4, an open transaction rolled back. -/
def loseLock (cause : Nat) (d : Dev) : Dev :=
  let owner := getF d F.SVC_LOCK_OWNER
  if owner = 0 then d
  else
    let d := setF F.SVC_LOCK_OWNER 0 (setF F.SVC_LOCK_LOSS cause d)
    let d := if 2 ≤ cause then raiseN 2 ((owner - 1) + cause * 16) d else d
    if getF d F.SVC_TXN_STATE = 1 then rollBack (lossResult cause) d else d

/-- A commit waiting for its boundary is abandoned (R406); its response follows. -/
def abandonCommit (d : Dev) : Dev :=
  if getF d F.SVC_TXN_STATE = 2 then rollBack 7 d else d

/-- What entry to Shutdown or Withdrawn and a warm reset do to the lock and the transaction (R402 cause 4, R406). -/
def endService (d : Dev) : Dev := abandonCommit (loseLock 4 d)

/-! ## Rails -/

/-- Rails in up order (R347). -/
def upOrder : List Nat := [0, 1, 2, 3, 4, 5, 6, 7, 12, 10, 11, 9, 8, 15, 14, 13]

/-- Nominal voltages in mV (R347). -/
def railNominal : List Nat := [750, 850, 1800, 1800, 2500, 900, 900, 1200, 750, 500, 1050, 900, 1800, 1200, 1200, 2500]

/-- Change a rail. -/
def onRail (r : Nat) (f : Rail → Rail) (d : Dev) : Dev := { d with pwr := { d.pwr with rails := d.pwr.rails.upd {} r f } }

/-- A rail. -/
def railOf (d : Dev) (r : Nat) : Rail := d.pwr.rails.get {} r

/-- Change the power state. -/
def onPwr (f : Pwr → Pwr) (d : Dev) : Dev := { d with pwr := f d.pwr }

/-- Disable a rail: it discharges (R352). -/
def railOff (r : Nat) (d : Dev) : Dev :=
  setF (F.PWR_RAIL_STS_STATE r) 6 (onRail r (fun x => { x with
    en := false, since := d.glb.tick, goodSince := none, due := [] }) d)

/-- No rail is on, discharging, or still to be disabled. -/
def railsIdle (d : Dev) : Bool :=
  decide (d.pwr.down = []) && (List.range 16).all fun r => !(railOf d r).en && decide (getF d (F.PWR_RAIL_STS_STATE r) ≠ 6)

/-- Change the global state. -/
def onGlb (f : Glb → Glb) (d : Dev) : Dev := { d with glb := f d.glb }

/-- Once every rail of a device in Shutdown is down, the device is Off and no longer drives PFAULT_N (R354, R365); after a
trip or OFF only the standby domain stays powered (R366, R389). A device in Withdrawn stays there (R5). -/
def settleOff (d : Dev) : Dev :=
  if d.glb.base = .shutdown ∧ railsIdle d then
    setB F.PWR_STS_PF_DRV false (setF F.PWR_STS_SPW 0 (onGlb (fun g => { g with
      base := .off, standbyOnly := decide (d.pwr.why = 7) || d.thm.tripped }) d))
  else d

/-- Disable rails one after another in descending up order, each waiting for the one before it (R347, R352). -/
def railsDown (rs : List Nat) (d : Dev) : Dev :=
  let due := upOrder.reverse.filter fun r => r ∈ d.pwr.down ∨ (r ∈ rs ∧ (railOf d r).en)
  if (List.range 16).any fun r => decide (getF d (F.PWR_RAIL_STS_STATE r) = 6) then onPwr (fun p => { p with down := due }) d
  else match due with
    | [] => if rs = [] then d else settleOff d
    | r :: rest => railOff r (onPwr (fun p => { p with down := rest }) d)

/-! ## Withdrawn and Shutdown -/

/-- Nothing that a service port was about to answer is answered (R5, R397). -/
def hushPort (q : SvcPort) : SvcPort :=
  { q with asm := none, cmd := [], words := [], doneWords := 0, waitCommit := none, armCmd := false, armEv := false, report := none }

/-- A port of a device that falls silent is held idle: event 0 where it leaves Active (R102). -/
def hushLink (p : Nat) (d : Dev) : Dev :=
  let was := getF d (F.FAB_STS_LTSTATE p)
  let d := setF (F.FAB_STS_LTSTATE p) 0 (onLink p (fun l => { l with nakOut := false, lctlOut := none }) d)
  if was = 6 then raiseN (96 + 4 * p) 0 d else d

/-- What a device that enters Withdrawn does: HB and pulses stop, every link is held idle and no port answers, the merge buffer is
abandoned, the Ledger is due for the Grotto, PFAULT_N is not driven (R5, R87, R169, R308, R354, R397, R402, R406, R423). -/
def fallSilent (d : Dev) : Dev :=
  let d := onPort 0 hushPort (onPort 1 hushPort (endService d))
  let d := { d with
    twn := { d.twn with hbStop := true }, ntr := { d.ntr with merge := [] }, obs := { d.obs with flushDue := true } }
  let d := setB F.PWR_STS_PF_DRV false (setF F.PWR_STS_SPW 0 (setB F.PWR_STS_PAUSED false d))
  let d := forEach (List.range 16) hushLink d
  let d := setF F.TWN_STS_LINK 0 (onLink 16 (fun l => { l with lt := 0, nakOut := false, lctlOut := none }) d)
  let d := railsDown d.pwr.group d
  onPwr (fun p => { p with group := [], why := 0 }) d

/-- Enter Withdrawn: fail-silent (R5). -/
def toWithdrawn (d : Dev) : Dev := fallSilent (onGlb (fun g => { g with base := .withdrawn }) d)

/-- Suspend every running erase (R203, R360). -/
def suspendErases (d : Dev) : Dev :=
  { d with med := { d.med with dies := d.med.dies.map fun e =>
      match e.2.op with
      | .erase _ => (e.1, { e.2 with op := .none, erase := e.2.erase.map fun x => { x with suspended := true } })
      | _ => e } }

/-- Enter Shutdown, with the flush or without (R360): Spillway begins with its quiesce; without a flush the rails go down (R337). -/
def shutdownAs (flush : Bool) (why : Nat) (d : Dev) : Dev :=
  let d := onGlb (fun g => { g with base := .shutdown }) d
  let d := endService d
  let d := suspendErases d
  let d := onPwr (fun p => { p with why := why, entry := d.glb.tick, vinBack := false, paused := [], flushed := [], offStep := 0 }) d
  if flush then count 0xB030 (setF F.PWR_STS_SPW 1 (onGrt (fun g => { g with flushTag := some (ctrComing d 0 + 1) }) d))
  else railsDown upOrder d

/-- Enter Shutdown: Spillway runs from a serving state and from no other (R360). -/
def enterShutdown (why : Nat) (d : Dev) : Dev := shutdownAs (serves d) why d

/-- A cause that enters Withdrawn. In Degraded the Spillway flush runs first, except after a warden disagreement (R308). -/
def withdraw (warden : Bool) (d : Dev) : Dev :=
  match d.glb.base with
  | .off | .withdrawn => d
  | .shutdown =>
    if d.glb.degraded && !warden && getF d F.PWR_STS_SPW != 0 then onPwr (fun p => { p with why := 6 }) d
    else toWithdrawn d
  | _ => if serves d && d.glb.degraded && !warden then enterShutdown 6 d else toWithdrawn d

/-- A start step fails: GLB_BOOT_STS and event 12 (R335). -/
def stepFails (step rsn : Nat) (d : Dev) : Dev :=
  raiseBy true 12 (BitVec.ofNat 32 (step + rsn * 256))
    (setF F.GLB_BOOT_STS_FAIL_STEP step (setF F.GLB_BOOT_STS_FAIL_RSN rsn d))

/-- A start step fails and the device enters Withdrawn (R335). -/
def stepWithdraws (step rsn : Nat) (d : Dev) : Dev := withdraw false (stepFails step rsn d)

/-! ## Reset -/

/-- The Grotto across a reset: a started write runs to its end (R374); waiting writes end with the supply. -/
def grtReset (keepWaiting : Bool) (d : Dev) : Grt :=
  let g := (match d.grt.cur with | none => d | some w => grtApply w d).grt
  { g with cur := none, program := 0, retried := false, wait := if keepWaiting then g.wait else [] }

/-- A die across a reset: what ran on its array ends; a block whose erase was outstanding is not erased (R207, R339). -/
def dieReset (x : Die) : Die :=
  { x with
    op := .none, erase := none, blank := none, progBlocks := [], ready := true, missNext := false, missNow := false, split := false, page := [], array := none, work := [], unver := [], gcOn := false, blankFails := [],
    notErased := x.notErased ++ (match x.erase with | none => [] | some e => e.blocks) }

/-- The registers that a warm reset leaves: the boot rails' levels and readings (the rails stay up, R334), the failed
sensors (R385) and the port-reset counts, which run since cold start (R411). -/
def warmRegs (d : Dev) : SMap Word :=
  d.regs.filter fun e => (decide (0xB00100 ≤ e.1) && decide (e.1 < 0xB00160)) || e.1 = 0x10010C || e.1 = 0x10012C || e.1 = 0xC00010

/-- Put back what the standby domain and the ADC go on showing across a reset (R348, R349), and the level forced by failed
sensors (R385). -/
def keepReadings (d d' : Dev) : Dev :=
  let d' := setB F.PWR_STS_VIN_OK (flag d F.PWR_STS_VIN_OK) (setB F.PWR_STS_PF_IN (flag d F.PWR_STS_PF_IN) d')
  let d' := setF F.PWR_VIN_NOW (getF d F.PWR_VIN_NOW) (setF F.PWR_HU_V_NOW (getF d F.PWR_HU_V_NOW) d')
  setB F.THM_STS_FORCED (decide (8 ≤ (bitList 24 (getF d' F.THM_FAIL_SENS)).length)) d'

/-- What a reset leaves: registers at their reset values, volatile stores empty, the Grotto and the media contents as they
stand. A warm reset keeps GLB_TICK, the counters, the Ledger buffer and the boot rails (R24, R334, R414, R423). -/
def clearedDev (cold : Bool) (d : Dev) : Dev := {
  regs := if cold then [] else warmRegs d
  glb := { roleB := d.glb.roleB, tick := d.glb.tick, fuses := d.glb.fuses, unblown := d.glb.unblown, idHash := d.glb.idHash,
           resetLow := d.glb.resetLow }
  svc := { lastOwnerB := if cold then true else d.svc.lastOwnerB }
  med := { dies := d.med.dies.map fun e => (e.1, dieReset e.2)
           chans := (d.med.chans.map fun e => (e.1, ({ subst := e.2.subst, failed := e.2.failed } : Chan))).filter fun e => e.2 ≠ {} }
  xlt := { d.xlt with segs := [], map := [], cached := [], repop := none, repopSegs := [], repopLeaves := [], repopRoom := 0, todo := [], dirtyMaps := [],
                      journals := d.xlt.journals.map fun e => (e.1, { e.2 with buf := [], shadow := [], sweepLeft := 0 }), reloadRecs := [] }
  slu := { d.slu with wc := [], wcPlru := 0, pages := [], near := [], shadows := [], nodeHalf := [] }
  pwr := { rails := if cold then [] else d.pwr.rails.filter fun e => e.1 < 6
           vinLow := d.pwr.vinLow, huLow := d.pwr.huLow, pfLow := d.pwr.pfLow
           pfHighSince := d.pwr.pfHighSince, vinGoodSince := d.pwr.vinGoodSince }
  grt := grtReset (!cold) d
  thm := { tripped := d.thm.tripped }
  obs := { area := d.obs.area, nextSeq := d.obs.nextSeq, ctrs := if cold then [] else d.obs.ctrs,
           buf := if cold then [] else d.obs.buf }
  free := d.free }

/-- The device after a reset. -/
def resetDev (cold : Bool) (d : Dev) : Dev := setB F.TWN_STS_ROLE d.glb.roleB (keepReadings d (clearedDev cold d))

/-- Begin step 2 of a start: Loading. -/
def beginStep2 (d : Dev) : Dev :=
  setF F.GLB_BOOT_STS_STEP 2 (onGlb (fun g => { g with
    base := .loading, resetHold := false, stepStart := g.tick }) d)

/-- The end of a warm reset: registers reset, LAST_START and FLUSHED; step 2 begins once RESET_N is high (R343). -/
def warmReset (kind : Nat) (flushed : Bool) (d : Dev) : Dev :=
  let d := if flushed then raiseN 16 0 d else d
  let d := onGlb (fun g => { g with startTick := g.tick }) (resetDev false (endService d))
  let d := setF F.GLB_BOOT_STS_LAST_START kind (setB F.GLB_BOOT_STS_FLUSHED flushed d)
  if d.glb.resetLow then onGlb (fun g => { g with resetHold := true }) d else beginStep2 d

/-- A warm reset is asked for (R334, R337, R343): a serving device stops its HB and flushes first; Sequencing has
no boot rails in regulation yet; a running flush ignores it. -/
def askWarmReset (kind : Nat) (d : Dev) : Dev :=
  match d.glb.base with
  | .off | .sequencing | .shutdown => d
  | .serving =>
    enterShutdown (if kind = 1 then 3 else 4) { d with twn := { d.twn with hbStop := true } }
  | _ => warmReset kind false d

end Sys2Proof.Machine
end

