-- ==== Sys2Proof/Machine/Obs.lean ====
section
/-!
DEFINITION. Counters, Gecko tags and the Ledger as commands (R414-R427).
-/
namespace Sys2Proof.Machine

/-- Change the observability state. -/
def onObs (f : Obs → Obs) (d : Dev) : Dev := { d with obs := f d.obs }

/-- CLRWRAP on the selected counter: WRAP and SAT cleared, the value kept (R415). -/
def ctrClrWrap (d : Dev) : Dev :=
  onObs (fun o => { o with ctrs := o.ctrs.upd {} (getF d F.OBS_CNT_SEL_INDEX) fun c =>
    { c with wrap := false, sat := false } }) d

/-- ZERO on the selected counter (R415). -/
def ctrZero (d : Dev) : Dev :=
  onObs (fun o => { o with ctrs := o.ctrs.put {} (getF d F.OBS_CNT_SEL_INDEX) {} }) d

/-- CLRWRAP (R415). -/
def execClrwrap (p : SPort) (s : State) : Host.Outcome State Fault Refusal := runQ (viaPort p.val ctrClrWrap) s

/-- ZERO (R415). -/
def execZero (p : SPort) (s : State) : Host.Outcome State Fault Refusal := runQ (viaPort p.val ctrZero) s

/-- A sweep of the central reader ends: the store holds it; with FREEZE set, copying stops (R416). A frozen
store takes no sweep. -/
def counterSweep (d : Dev) : Dev :=
  if flag d F.OBS_CTL_FROZEN then d
  else
    let d := onObs (fun o => { o with store := o.ctrs, sweptAt := some d.glb.tick }) d
    let d := setF F.OBS_CNT_NUM_SWEEPS (getF d F.OBS_CNT_NUM_SWEEPS + 1) d
    whenD (flag d F.OBS_CTL_FREEZE) (setB F.OBS_CTL_FROZEN true) d

/-- COUNTER_SWEEP (R416). -/
def execCounterSweep (s : State) : Host.Outcome State Fault Refusal := runQ counterSweep s

/-- FREEZE written: 1 stops copying at the end of the sweep in progress; 0 lets the next sweep copy (R416). -/
def setFreeze (on : Bool) (d : Dev) : Dev :=
  let d := setB F.OBS_CTL_FREEZE on d
  if on then d else setB F.OBS_CTL_FROZEN false d

/-- FREEZE (R416). -/
def execFreeze (p : SPort) (on : Bool) (s : State) : Host.Outcome State Fault Refusal := runQ (viaPort p.val (setFreeze on)) s

/-- POP advances to the next Gecko record (R419). -/
def gkPop (d : Dev) : Dev := onObs (fun o => { o with ring := o.ring.drop 1 }) d

/-- POP (R419). -/
def execPop (p : SPort) (s : State) : Host.Outcome State Fault Refusal := runQ (viaPort p.val gkPop) s

/-- Draw for a tag on an accepted request (R418): probability 1 in 2^N, at most 64 in flight. -/
def gkTag (port : Nat) (r : Req) (draw : Nat) (d : Dev) : Option Nat × Dev :=
  let n := getF d F.OBS_GK_CTL_N
  if n < 4 ∨ 24 < n ∨ draw % 2 ^ n ≠ 0 then (none, d)
  else if 64 ≤ d.obs.inFlight.length then (none, count 0xE001 d)
  else
    let g : Gecko := { id := d.obs.gkNext, r := r, port := port, start := d.glb.tick, stages := [(0, d.glb.tick * 500)] }
    (some d.obs.gkNext,
      count 0xE000 (onObs (fun o => { o with inFlight := o.inFlight ++ [g], gkNext := o.gkNext + 1 }) d))

/-- Write the Ledger buffer to the Grotto in SEQ order (R423). A full area or block protect stops it, with event 484.
The flag says every record is in the Grotto. -/
def ledgerWrite (d : Dev) : Dev × Bool :=
  let room := if grtRefuses d 24 then 0 else 12288 - d.obs.area.length
  let n := min room d.obs.buf.length
  let left := d.obs.buf.length - n
  let d := onObs (fun o => { o with area := o.area ++ o.buf.take n, buf := o.buf.drop n, flushDue := false }) d
  let d := if grtRefuses d 24 then raiseN 476 24 (setB F.GRT_ERR_PROT true d) else d
  let d := if left = 0 then setB F.OBS_LED_STS_GFULL false d
    else raiseN 484 d.obs.area.length (setB F.OBS_LED_STS_GFULL true d)
  let d := if n = 0 then d else raiseN 486 n (count 0xE005 d)
  (d, decide (left = 0))

/-- The Ledger is written when an event of R423 made it due. -/
def ledgerGrottoWrite (d : Dev) : Dev := if d.obs.flushDue then (ledgerWrite d).1 else d

/-- LEDGER_GROTTO_WRITE (R423). -/
def execLedgerGrottoWrite (s : State) : Host.Outcome State Fault Refusal := runQ ledgerGrottoWrite s

/-- A record as its 64 bytes (R420). -/
def ledBytes (r : LedRec) : List (BitVec 8) := (List.range 64).map (ledByte r)

/-- The record of a SEQ, wherever it lies. -/
def ledFind (d : Dev) (seq : Nat) : Option LedRec := (d.obs.area ++ d.obs.buf).find? fun r => r.seq = seq

/-- GET_INFO (R424). With no record held the oldest SEQ is unstated: a free value. -/
def ledInfo (p : Nat) (seq : BitVec 8) (d : Dev) : Dev :=
  let (oldest, d) := (match d.obs.area ++ d.obs.buf with
    | r :: _ => (r.seq, d)
    | [] => let f := drawFree d; (f.1.toNat, f.2))
  answer p 3 1 seq 0 (bytesLE 4 oldest ++ bytesLE 4 d.obs.nextSeq ++ bytesLE 2 d.obs.buf.length
    ++ bytesLE 2 d.obs.area.length ++ bytesLE 4 (getF d F.OBS_LED_DROP_COUNT)
    ++ bytesLE 4 (getF d F.OBS_LED_SUPP_COUNT)) d

/-- READ of 1 to 15 records; one not held is 64 zero bytes (R424). -/
def ledRead (p : Nat) (seq : BitVec 8) (from_ : Word) (n : BitVec 8) (d : Dev) : Dev :=
  if n.toNat = 0 ∨ 15 < n.toNat then answer p 3 2 seq 6 [] d
  else answer p 3 2 seq 0 ((List.range n.toNat).flatMap fun i =>
    match ledFind d (from_.toNat + i) with
    | some r => ledBytes r
    | none => List.replicate 64 0) d

/-- GET_NONCE: a fresh nonce, the earlier one lapsing (R425). -/
def ledNonce (p : Nat) (seq : BitVec 8) (d : Dev) : Dev :=
  let n := Config.freeNonce d.free
  let d := onObs (fun o => { o with nonce := some (n, d.glb.tick) }) { d with free := d.free + 1 }
  answer p 3 3 seq 0 (bytesLE 32 n.toNat) d

/-- The digest a CLEAR's signature is over (R425): identity hash, nonce, UPTO. -/
def clearDigest (nonce : BitVec 256) (upto : Word) : BitVec 384 :=
  Config.sha384 (bytesLE 48 (Config.sha384 Config.identityKey).toNat ++ bytesLE 32 nonce.toNat ++ bytesLE 4 upto.toNat)

/-- The STATUS of a CLEAR (R424, R425). -/
def clearStatus (p : Nat) (upto : Word) (slot : BitVec 8) (pk : BitVec 384) (sig : BitVec 768) (d : Dev) : Nat :=
  if getF d F.SVC_LOCK_OWNER ≠ p + 1 then 0x08
  else match d.obs.nonce with
    | none => 0x0A
    | some (n, _) =>
      match d.glb.fuses[slot.toNat]? with
      | none => 0x09
      | some f =>
        if !f.programmed || f.revoked || decide (f.hash ≠ pk) || !Config.ecdsaVerify pk (clearDigest n upto) sig
        then 0x09
        else if grtRefuses d 24 || decide (12288 ≤ d.obs.area.length) then 0x0B
        else 0

/-- CLEAR (R425). A nonce is good for one CLEAR by the port that holds the lock. -/
def ledClear (p : Nat) (seq : BitVec 8) (upto : Word) (slot : BitVec 8) (pk : BitVec 384) (sig : BitVec 768)
    (d : Dev) : Dev :=
  let st := clearStatus p upto slot pk sig d
  let detail := bytesLE 4 upto.toNat ++ [BitVec.ofNat 8 p, slot, BitVec.ofNat 8 st]
  let d := if st = 0x08 then d else onObs (fun o => { o with nonce := none }) d
  let d :=
    if st = 0 then
      let keep (l : List LedRec) := l.filter fun r => upto.toNat < r.seq
      let r : LedRec := { seq := d.obs.nextSeq, tick := d.glb.tick, evnum := 482, kind := 5, arg := upto, detail := detail }
      let d := onObs (fun o => { o with
        area := keep o.area ++ [r], buf := keep o.buf, nextSeq := o.nextSeq + 1 }) d
      raise 482 upto (setB F.OBS_LED_STS_GFULL false d)
    else
      let (d, dropped) := ledPut true false { evnum := 483, kind := 5, arg := BitVec.ofNat 32 st, detail := detail } d
      let d := if dropped then raiseOnce 485 485 (getF d F.OBS_LED_DROP_COUNT % 65536) d else d
      raiseN 483 st d
  answer p 3 4 seq (BitVec.ofNat 8 st) [] d

/-- FLUSH (R423, R424). -/
def ledFlushCmd (p : Nat) (seq : BitVec 8) (d : Dev) : Dev :=
  let (d, ok) := ledgerWrite d
  answer p 3 5 seq (if ok then 0 else 0x0B) [] d

/-- Carry out a Ledger command of a port (R424). -/
def ledCarry (p : Nat) (seq : BitVec 8) (c : LedCmd) (d : Dev) : Dev :=
  match c with
  | .info => ledInfo p seq d
  | .read f n => ledRead p seq f n d
  | .nonce => ledNonce p seq d
  | .clear u k h g => ledClear p seq u k h g d
  | .flush => ledFlushCmd p seq d

/-- A nonce lapses one epoch after it was issued (R425). -/
def nonceLapse (d : Dev) : Dev :=
  match d.obs.nonce with
  | none => d
  | some (_, t) => if t + 2 ^ 20 ≤ d.glb.tick then onObs (fun o => { o with nonce := none }) d else d

/-- NONCE_LAPSE (R425). -/
def execNonceLapse (s : State) : Host.Outcome State Fault Refusal := runQ nonceLapse s

/-- The flood summaries at a superframe's end (R422): one KIND 0x4 record for each event with records suppressed. -/
def floodSummary (d : Dev) : Dev :=
  let d := d.obs.floods.foldl (fun d e =>
    if e.2.supp = 0 then d
    else
      let r : LedRec := {
        evnum := e.1, kind := 4,
        detail := bytesLE 4 e.2.supp ++ bytesLE 8 e.2.first ++ bytesLE 8 e.2.last }
      let (d, dropped) := ledPut (eventBit d 0xE00300 e.1) false r d
      if dropped then raiseOnce 485 485 (getF d F.OBS_LED_DROP_COUNT % 65536) d else d) d
  onObs (fun o => { o with floods := [] }) d

/-- A port reset or a new GET_NONCE ends the nonce; this is the port reset's part (R425). -/
def nonceDrop (d : Dev) : Dev := onObs (fun o => { o with nonce := none }) d

end Sys2Proof.Machine
end

