-- ==== Sys2Proof/Machine/Leaf.lean ====
section
/-!
DEFINITION. Leaves in the near tier: the leaf cache and its victim pool (R166, R167), the counter lines and the tree
above them (R258-R275), line writes, fills, and the merge buffer (R168, R169). Lines are kept in clear, with the counters and keys under
which they are stored; the stored bytes and tags follow from these (R265).
-/
namespace Sys2Proof.Machine

/-- Change the near tier. -/
def onNtr (f : Ntr → Ntr) (d : Dev) : Dev := { d with ntr := f d.ntr }
/-- Change Sluice. -/
def onSlu (f : Slu → Slu) (d : Dev) : Dev := { d with slu := f d.slu }
/-- Change translation. -/
def onXlt (f : Xlt → Xlt) (d : Dev) : Dev := { d with xlt := f d.xlt }
/-- Change the Basin. -/
def onBsn (f : Bsn → Bsn) (d : Dev) : Dev := { d with bsn := f d.bsn }
/-- Change the twin's state. -/
def onTwn (f : Twn → Twn) (d : Dev) : Dev := { d with twn := f d.twn }

/-! ## Tree pseudo-LRU (R126, R166, R274; the node numbering and the sense of a bit are the model's, log entry 11) -/

/-- Follow the tree from a node over 2^k entries from `lo`; where the indicated half holds no candidate, the other. -/
def plruPick (bit : Nat → Bool) (ok : Nat → Bool) : Nat → Nat → Nat → Option Nat
  | 0, _, lo => if ok lo then some lo else none
  | k + 1, node, lo =>
    let left := plruPick bit ok k (2 * node + 1) lo
    let right := plruPick bit ok k (2 * node + 2) (lo + 2 ^ k)
    if bit node then (match right with | none => left | r => r) else (match left with | none => right | l => l)

/-- Set the bits on an entry's path to point away from it. -/
def plruTouch (w : Nat) : Nat → Nat → Nat → Nat → Nat
  | 0, _, _, bits => bits
  | k + 1, node, lo, bits =>
    let isLeft := decide (w < lo + 2 ^ k)
    let bits := if isLeft then bits ||| 2 ^ node else (if bits.testBit node then bits - 2 ^ node else bits)
    if isLeft then plruTouch w k (2 * node + 1) lo bits else plruTouch w k (2 * node + 2) (lo + 2 ^ k) bits

/-! ## Which leaves are held -/

/-- Sets of the main leaf cache; NSETS counts in units of 8 (R180). -/
def setCount (d : Dev) : Nat := getF d F.NTR_LEAF_NSETS * 8

/-- The set of a leaf (R166). -/
def leafSet (d : Dev) (leaf : Nat) : Nat := leaf % setCount d

/-- The way of a leaf in the main cache. -/
def mainWay (d : Dev) (leaf : Nat) : Option Nat :=
  (List.range 8).find? fun w => decide ((d.ntr.frames.get {} (leafSet d leaf * 8 + w)).leaf = some leaf)

/-- The pool entry of a leaf (R167). -/
def poolEntry (d : Dev) (leaf : Nat) : Nat := leaf % getF d F.NTR_POOL_NPOOL

/-- Whether the pool holds a leaf. -/
def inPool (d : Dev) (leaf : Nat) : Bool :=
  decide (getF d F.NTR_POOL_NPOOL ≠ 0) && decide ((d.ntr.pool.get {} (poolEntry d leaf)).leaf = some leaf)

/-- Whether the leaf cache holds a leaf, in its main part or in the pool. -/
def resident (d : Dev) (leaf : Nat) : Bool := (mainWay d leaf).isSome || inPool d leaf

/-- A line of the leaf cache. -/
def lineOf (d : Dev) (la : Nat) : LineRec := d.ntr.lines.get {} la

/-- Whether a line is valid in the leaf cache. -/
def lineValid (d : Dev) (la : Nat) : Bool := (lineOf d la).valid

/-- Put a line record. -/
def putLine (la : Nat) (l : LineRec) (d : Dev) : Dev := onNtr (fun n => { n with lines := n.lines.put {} la l }) d

/-- Forget the lines of a leaf. -/
def dropLines (leaf : Nat) (d : Dev) : Dev :=
  onNtr (fun n => { n with lines := n.lines.filter fun e => e.1 / 64 ≠ leaf }) d

/-- Whether a leaf has a dirty line (R260). -/
def leafDirty (d : Dev) (leaf : Nat) : Bool := (List.range 64).any fun i => (lineOf d (leaf * 64 + i)).minor ≠ 0

/-- Whether the lines of a leaf are all valid. -/
def leafWhole (d : Dev) (leaf : Nat) : Bool := (List.range 64).all fun i => lineValid d (leaf * 64 + i)

/-- The dirty cap in leaves (R357, R358). -/
def capLeaves (d : Dev) : Nat := getF d F.PWR_DCAP_CAP * 262144

/-- Whether a line of this leaf may become dirty: its leaf is counted already, or one more leaf stays within the cap (R357). -/
def roomFor (d : Dev) (leaf : Nat) : Bool :=
  leafDirty d leaf || decide ((dirtyLeafList d).length + 1 ≤ capLeaves d)

/-- The line a transaction acts on. -/
def txnLine (t : Txn) : Nat := t.r.laddr.toNat

/-- Whether a leaf has a transaction, or a transfer in flight (R166). -/
def pinnedLeaf (d : Dev) (leaf : Nat) : Bool :=
  (d.bsn.txns.any fun e => e.2.phase != .done && decide (e.2.r.op ≠ 10) && decide (txnLine e.2 / 64 = leaf))
    || decide (d.ntr.pins.get 0 leaf ≠ 0)

/-- Copy an evicted clean leaf into the pool; with no pool it is dropped (R167, R173). -/
def toPool (leaf : Nat) (d : Dev) : Dev :=
  if getF d F.NTR_POOL_NPOOL = 0 then dropLines leaf d
  else
    let e := poolEntry d leaf
    let d := match (d.ntr.pool.get {} e).leaf with
      | none => d
      | some u => dropLines u d
    onNtr (fun n => { n with pool := n.pool.put {} e { leaf := some leaf } }) d

/-- Note a use of a way of a set. -/
def touchFrame (set w : Nat) (d : Dev) : Dev :=
  onNtr (fun n => { n with plru := n.plru.upd 0 set fun b => BitVec.ofNat 7 (plruTouch w 3 0 0 b.toNat) }) d

/-- The way R166's walk selects in a set: not pinned, no dirty line, in use. -/
def victimWay (d : Dev) (set : Nat) : Option Nat :=
  let bits := (d.ntr.plru.get 0 set).toNat
  plruPick (fun n => bits.testBit n) (fun w =>
    let f := d.ntr.frames.get {} (set * 8 + w)
    !f.out && (match f.leaf with
      | none => true
      | some v => !pinnedLeaf d v && !leafDirty d v)) 3 0 0

/-- Bring a leaf into the main cache (R166, R167): its own frame, or a victim's, the victim going to the pool. None when no
frame qualifies. -/
def allocFrame (leaf : Nat) (d : Dev) : Option Dev :=
  let set := leafSet d leaf
  match mainWay d leaf with
  | some w => some (touchFrame set w d)
  | none =>
    match victimWay d set with
    | none => none
    | some w =>
      let old := (d.ntr.frames.get {} (set * 8 + w)).leaf
      let d := if inPool d leaf then onNtr (fun n => { n with pool := n.pool.put {} (poolEntry d leaf) {} }) d else d
      let d := match old with
        | none => d
        | some v => toPool v d
      some (touchFrame set w (onNtr (fun n => { n with frames := n.frames.put {} (set * 8 + w) { leaf := some leaf } }) d))

/-! ## Counters and their tree -/

/-- The MAJOR of a leaf's counter line (R258). -/
def majorOf (d : Dev) (leaf : Nat) : Nat := d.slu.major.get 0 leaf

/-- The key of an interior node. -/
def nodeKey (level idx : Nat) : Nat := level * 2 ^ 40 + idx

/-- An interior node. -/
def nodeOf (d : Dev) (level idx : Nat) : TreeNode := d.slu.nodes.get {} (nodeKey level idx)

/-- The slot that holds a node in the tree-walk cache. -/
def wcSlot (d : Dev) (key : Nat) : Option Nat := (d.slu.wc.find? fun e => e.2.1 = key).map fun e => e.1

/-- The children of a node at a level that are not on the die (R268, R270): those of a level above 6 are. -/
def offDie (d : Dev) (level idx : Nat) : List Nat :=
  if 6 < level then []
  else (List.range 32).filter fun k => decide (level = 1) || (wcSlot d (nodeKey (level - 1) (idx * 32 + k))).isNone

/-- A child is tagged again under its parent's new counter with the value the near tier holds of it: a write-out, in the near tier and
in write staging (R165, R270). -/
def retag (level idx : Nat) (d : Dev) : Dev :=
  let k := nodeKey level idx
  count (0x9008 + level) (onSlu (fun s => { s with
    near := s.near.insert k (s.near.get {} k), shadows := s.shadows.insert k (s.near.get {} k) }) d)

/-- Increment the parent's minor for child slot `j`; at 4,095 MAJOR rises, every minor becomes 0 and the other children that are not on
the die are tagged anew (R270). -/
def parentInc (level idx j : Nat) (d : Dev) : Dev :=
  let n := nodeOf d level idx
  let set (n : TreeNode) (d : Dev) : Dev := onSlu (fun s => { s with nodes := s.nodes.put {} (nodeKey level idx) n }) d
  if n.minors.get 0 j < 4095 then set { n with minors := n.minors.put 0 j (n.minors.get 0 j + 1) } d
  else
    let d := ((offDie d level idx).filter fun k => k ≠ j).foldl (fun d k => retag (level - 1) (idx * 32 + k) d) d
    set { major := n.major + 1, minors := [(j, 1)] } d

/-- Note a use of an entry of the tree-walk cache (R274: 0-31 and 32-47 below the root, each a full binary tree). -/
def wcTouch (slot : Nat) (b : Nat) : Nat :=
  let root := if slot < 32 then b ||| 1 else b / 2 * 2
  let left := root / 2 % 2 ^ 31
  let right := root / 2 ^ 32
  if slot < 32 then root % 2 + plruTouch slot 5 0 0 left * 2 + right * 2 ^ 32
  else root % 2 + left * 2 + plruTouch (slot - 32) 4 0 0 right * 2 ^ 32

/-- The victim of the tree-walk cache: the walk takes the other subtree where the indicated one holds no entry that may go (R274). -/
def wcVictim (ok : Nat → Bool) (b : Nat) : Option Nat :=
  let left := plruPick (fun n => (b / 2).testBit n) ok 5 0 0
  let right := (plruPick (fun n => (b / 2 ^ 32).testBit n) (fun k => ok (k + 32)) 4 0 0).map fun k => k + 32
  if b % 2 = 0 then (match left with | none => right | l => l) else (match right with | none => left | r => r)

/-- Whether the tree-walk cache is in use. -/
def wcOn (d : Dev) : Bool := flag d F.SLU_WC_CTL_EN

/-- A leaf's counter line (R258). -/
def counterLine (d : Dev) (leaf : Nat) : TreeNode :=
  { major := majorOf d leaf
    minors := (List.range 64).filterMap fun i => let m := (lineOf d (leaf * 64 + i)).minor; if m = 0 then none else some (i, m) }

/-- A counter line or node is written to the near tier and, until media holds it, to its shadow in write staging: the write is
complete when both are (R165). -/
def putNear (level idx : Nat) (d : Dev) : Dev :=
  let v := if level = 0 then counterLine d idx else nodeOf d level idx
  onSlu (fun s => { s with near := s.near.insert (nodeKey level idx) v, shadows := s.shadows.insert (nodeKey level idx) v }) d

/-- The keys of a node and of its ancestors to level 5. -/
def pathKeys (level idx : Nat) : List Nat := (List.range (6 - level)).map fun k => nodeKey (level + k) (idx / 32 ^ k)

/-- Put a node into a slot of the tree-walk cache. -/
def wcPut (slot key : Nat) (dirty : Bool) (d : Dev) : Dev :=
  onSlu (fun s => { s with
    wc := s.wc.insert slot (key, dirty), wcPlru := BitVec.ofNat 47 (wcTouch slot s.wcPlru.toNat) }) d

/-- Use a node of the tree-walk cache, bringing it in when it is not there (R274): in a free slot or a victim's that no running walk
pins; `out` writes a dirty victim out of the die. -/
def wcEnter (out : Nat → Nat → Dev → Dev) (pinned : List Nat) (key : Nat) (d : Dev) : Dev :=
  match d.slu.wc.find? fun e => e.2.1 = key with
  | some e => wcPut e.1 key e.2.2 d
  | none =>
    match (List.range 48).find? fun i => !(d.slu.wc.any fun e => e.1 = i) with
    | some slot => wcPut slot key false d
    | none =>
      match wcVictim (fun i => decide ((d.slu.wc.get (0, false) i).1 ∉ pinned)) d.slu.wcPlru.toNat with
      | none => d
      | some v =>
        let old := d.slu.wc.get (0, false) v
        let d := wcPut v key false d
        if old.2 then out (old.1 / 2 ^ 40) (old.1 % 2 ^ 40) d else d

/-- A walk from a node up to the first trusted one (R272, R274): what is not in the cache is fetched, verified from the top down and
kept there. -/
def walkWith (out : Nat → Nat → Dev → Dev) (level idx : Nat) (d : Dev) : Dev :=
  let path := pathKeys level idx
  let missing := path.takeWhile fun k => (wcSlot d k).isNone
  let d := count (if missing = [] then 0x9006 else 0x9007) d
  (missing.reverse ++ path.take 1).foldl (fun d k => wcEnter out path k d) d

/-- A child at a level is written out of the die (R270): its parent's minor rises; a parent of level 1 to 5 becomes a
dirty entry of the tree-walk cache, whose dirty victim is written out in turn, or with the cache off is written out
itself. Levels 6 to 8 stay on the die. -/
def treeWrite : Nat → Nat → Nat → Dev → Dev
  | 0, _, _, d => d
  | fuel + 1, level, idx, d =>
    let d := whenD (level ≤ 5) (count (0x9008 + level)) d
    let d := putNear level idx (parentInc (level + 1) (idx / 32) (idx % 32) d)
    if 5 < level + 1 then d
    else if !wcOn d then treeWrite fuel (level + 1) (idx / 32) d
    else
      let d := walkWith (treeWrite fuel) (level + 1) (idx / 32) d
      match wcSlot d (nodeKey (level + 1) (idx / 32)) with
      | some slot => wcPut slot (nodeKey (level + 1) (idx / 32)) true d
      | none => treeWrite fuel (level + 1) (idx / 32) d

/-- The walk that verifies a leaf's counter line before it is used (R272): with the cache off every level from 1 to 5 is read. -/
def treeWalk (leaf : Nat) (d : Dev) : Dev := if wcOn d then walkWith (treeWrite 64) 1 (leaf / 32) d else d

/-- Write out the dirty entries of one level of the tree-walk cache. -/
def wcWriteLevel (level : Nat) (d : Dev) : Dev :=
  let hit (e : Nat × Nat × Bool) : Bool := e.2.2 && decide (e.2.1 / 2 ^ 40 = level)
  let dirty := d.slu.wc.filter hit
  let d := onSlu (fun s => { s with wc := s.wc.map fun e => if hit e then (e.1, (e.2.1, false)) else e }) d
  dirty.foldl (fun d e => treeWrite 64 level (e.2.1 % 2 ^ 40) d) d

/-- Write out the dirty entries of the tree-walk cache (R275), from level 1 up: writing a level makes parents dirty. -/
def wcWriteOut (d : Dev) : Dev := [1, 2, 3, 4, 5].foldl (fun d l => wcWriteLevel l d) d

/-- The lowest level of a leaf's path whose node can take no more change beneath it (R270). -/
def nodeAtEnd (d : Dev) (leaf : Nat) : Option Nat :=
  ([1, 2, 3, 4, 5, 6, 7, 8].find? fun k =>
    let n := nodeOf d k (leaf / 32 ^ k)
    decide (n.major = 2 ^ 56 - 1) && decide (n.minors.get 0 (leaf / 32 ^ (k - 1) % 32) = 4095))

/-- Whether a leaf is in the refused-write state (R262). -/
def leafRefused (d : Dev) (leaf : Nat) : Bool := decide (leaf ∈ d.slu.refused)

/-- A leaf's MAJOR rises; at its end the leaf enters the refused-write state (R262). -/
def majorInc (leaf : Nat) (d : Dev) : Dev :=
  let m := majorOf d leaf + 1
  let d := onSlu (fun s => { s with major := s.major.put 0 leaf m }) d
  if 2 ^ 64 - 2 ≤ m ∧ !leafRefused d leaf then
    raiseN 355 leaf (addSat F.SLU_REFUSED_COUNT 1 (onSlu (fun s => { s with refused := s.refused ++ [leaf] }) d))
  else d

/-! ## Fills -/

/-- What the media copy the map names holds of a leaf: lines and poison; zeros for a leaf never written (R238). -/
def mediaLeaf (d : Dev) (leaf : Nat) : List Line × Word64 := 
  (d.xlt.media.get none (d.xlt.map.get (BitVec.allOnes 48) leaf).toNat).getD ([], 0)

/-- Install the lines of a leaf that are not valid (R16, R312); promoted lines take minor 1 (R278), and the counter line changes. -/
def installLines (leaf : Nat) (poison : Word64) (lines : List Line) (promote : Bool) (d : Dev) : Dev :=
  whenD promote (treeWrite 64 0 leaf) <| (List.range 64).foldl (fun d i =>
    let l := lineOf d (leaf * 64 + i)
    if l.valid then (if promote && decide (l.minor = 0) then putLine (leaf * 64 + i) { l with minor := 1 } d else d)
    else putLine (leaf * 64 + i) {
      valid := true, minor := if promote then 1 else 0, poison := poison.getLsbD i, data := lines.getD i 0 } d) d

/-- Fill the lines of a leaf that are not valid from its media copy (R221 step 1, R261). -/
def fillLeaf (leaf : Nat) (d : Dev) : Dev := let m := mediaLeaf d leaf; installLines leaf m.2 m.1 false d

/-! ## Line writes -/

/-- A minor reached 112 (R261): the leaf is filled, MAJOR rises and every line is dirty with minor 1. -/
def overflowLeaf (leaf : Nat) (d : Dev) : Dev :=
  let d := majorInc leaf (fillLeaf leaf (count 0x9005 d))
  let d := (List.range 64).foldl (fun d i =>
    putLine (leaf * 64 + i) { lineOf d (leaf * 64 + i) with minor := 1 } d) d
  treeWrite 64 0 leaf d

/-- A line takes a value and a poison bit: its minor rises by 1 (R259). -/
def lineWrite (la : Nat) (v : Line) (poison : Bool) (d : Dev) : Dev :=
  let m := (lineOf d la).minor + 1
  let d := treeWrite 64 0 (la / 64) (putLine la { valid := true, minor := m, poison := poison, data := v } d)
  if m = 112 then overflowLeaf (la / 64) d else d

/-! ## The merge buffer -/

/-- Spread a byte mask over the 512 bits of a line. -/
def spreadMask (mask : Word64) : Line :=
  BitVec.ofNat 512 ((List.range 64).foldl (fun a i => if mask.getLsbD i then a + 255 * 256 ^ i else a) 0)

/-- The bytes a mask selects laid over a line. -/
def overlay (old new : Line) (mask : Word64) : Line :=
  let m := spreadMask mask
  (old &&& ~~~m) ||| (new &&& m)

/-- The merge entry of a line. -/
def mergeOf (d : Dev) (la : Nat) : Option Merge := d.ntr.merge.find? fun m => m.laddr.toNat = la

/-- The value a read of a line through the leaf cache returns (R168). -/
def lineNow (d : Dev) (la : Nat) : Line :=
  match mergeOf d la with
  | none => (lineOf d la).data
  | some m => overlay (lineOf d la).data m.data m.mask

/-- Remove a merge entry. -/
def mergeDrop (la : Nat) (d : Dev) : Dev :=
  onNtr (fun n => { n with merge := n.merge.filter fun m => m.laddr.toNat ≠ la }) d

/-- Drain a merge entry: its bytes laid over the line, written under its incremented counter (R169). -/
def mergeDrain (la : Nat) (d : Dev) : Dev :=
  match mergeOf d la with
  | none => d
  | some _ => let v := lineNow d la; lineWrite la v (lineOf d la).poison (mergeDrop la d)

/-- Drain every merge entry of a leaf (R169). -/
def mergeDrainLeaf (leaf : Nat) (d : Dev) : Dev :=
  (d.ntr.merge.filter fun m => m.laddr.toNat / 64 = leaf).foldl (fun d m => mergeDrain m.laddr.toNat d) d

/-- Enter bytes of a valid line into the merge buffer (R168, R169): into its entry, or a new one, the oldest being
drained first when all 64 are in use; a full mask is drained without a read. A mask of 0 enters nothing. -/
def mergeWrite (la : Nat) (v : Line) (mask : Word64) (d : Dev) : Dev :=
  if mask = 0 then d
  else
    let d := match mergeOf d la with
      | some _ => onNtr (fun n => { n with merge := n.merge.map fun m =>
          if m.laddr.toNat = la then { m with data := overlay m.data v mask, mask := m.mask ||| mask } else m }) d
      | none =>
        let d := if 64 ≤ d.ntr.merge.length then (match d.ntr.merge with
          | [] => d
          | m :: _ => mergeDrain m.laddr.toNat d) else d
        let d := onNtr (fun n => { n with merge := n.merge ++ [⟨BitVec.ofNat 46 la, v, mask, d.glb.tick⟩] }) d
        let l := lineOf d la
        if l.minor = 0 then treeWrite 64 0 (la / 64) (putLine la { l with minor := 1 } d) else d
    match mergeOf d la with
    | some m => if m.mask = BitVec.allOnes 64 ∨ getF d F.NTR_MERGE_WIN = 0 then mergeDrain la d else d
    | none => d

/-- A full line written: over a merge entry it replaces the entry (R168). -/
def fullWrite (la : Nat) (v : Line) (d : Dev) : Dev := lineWrite la v false (mergeDrop la d)

/-- Set a line's poison flag, its data gone (R137 step 1). -/
def poisonLine (la : Nat) (d : Dev) : Dev := lineWrite la 0 true (mergeDrop la d)

end Sys2Proof.Machine
end

