-- ==== Sys2Proof/Machine/Window.lean ====
section
/-!
DEFINITION. Where a line lives (R210-R214, R322) and the DEMAND windows its read is bound to (R36-R42, R246, R247, R461,
R462): program windows, the die-slot tables, binding, claiming and releasing.
-/
namespace Sys2Proof.Machine

/-- Change schedule, runnel and warden state. -/
def onSch (f : Sch → Sch) (d : Dev) : Dev := { d with sch := f d.sch }

/-- The image in use. -/
def img (d : Dev) : Image := d.glb.image.getD {}

/-- PERIOD of a channel's demand pattern (R36). -/
def imgPeriod (i : Image) (ch : Nat) : Nat := ((i.demand[ch]?).getD (4, 4)).1

/-- READ_TK of a channel's demand pattern (R36). -/
def imgReadTk (i : Image) (ch : Nat) : Nat := ((i.demand[ch]?).getD (4, 4)).2

/-- PERIOD of a channel under the image in use. -/
def periodOf (d : Dev) (ch : Nat) : Nat := imgPeriod (img d) ch

/-- READ_TK of a channel under the image in use. -/
def readTkOf (d : Dev) (ch : Nat) : Nat := imgReadTk (img d) ch

/-! ## Addresses -/

/-- The populated region that covers a segment (R211, R322). -/
def regionOf (d : Dev) (seg : Nat) : Option Nat :=
  (List.range 64).find? fun r => flag d (F.GLB_RGN_CTL_VALID r)
    && decide (getF d (F.GLB_RGN_FIRST_SEG r) ≤ seg)
    && decide (seg < getF d (F.GLB_RGN_FIRST_SEG r) + getF d (F.GLB_RGN_NSEG_SEG r))

/-- The segment of a leaf. -/
def segOfLeaf (leaf : Nat) : Nat := leaf / 512

/-- The segment ordinal E of a segment of region r (R211). -/
def ordinalIn (d : Dev) (r seg : Nat) : Nat :=
  (((List.range r).filter fun q => flag d (F.GLB_RGN_CTL_VALID q)).map fun q => getF d (F.GLB_RGN_NSEG_SEG q)).sum
    + (seg - getF d (F.GLB_RGN_FIRST_SEG r))

/-- The ordinal of a leaf's segment. -/
def ordinalOf (d : Dev) (leaf : Nat) : Option Nat :=
  (regionOf d (segOfLeaf leaf)).map fun r => ordinalIn d r (segOfLeaf leaf)

/-- The die index of a segment ordinal (R211). -/
def dieOfOrdinal (d : Dev) (e : Nat) : Nat :=
  let nch := getF d F.XLT_CFG_NCH
  e % nch * 32 + e / nch % getF d F.XLT_CFG_PD

/-- The die index of a leaf; 0 outside every region. -/
def dieOfLeaf (d : Dev) (leaf : Nat) : Nat := match ordinalOf d leaf with | none => 0 | some e => dieOfOrdinal d e

/-- The map's sentinel (R213). -/
def sentinel : BitVec 48 := BitVec.allOnes 48

/-- The segment entry of a leaf (R214). -/
def segOf (d : Dev) (leaf : Nat) : Seg := match ordinalOf d leaf with | none => {} | some e => d.xlt.segs.get {} e

/-- A leaf never written: no media read is needed (R238). A segment without a map page in media has only sentinels, but for
entries its cached page already holds. An index being repopulated is read from the partner whatever its map holds (R237). -/
def neverWritten (d : Dev) (leaf : Nat) : Bool :=
  !(segOf d leaf).rebuild && decide (d.xlt.map.get sentinel leaf = sentinel)

/-- Whether the map page of a leaf's segment is cached. -/
def mapCached (d : Dev) (leaf : Nat) : Bool := match ordinalOf d leaf with | none => false | some e => decide (e ∈ d.xlt.cached)

/-- The stripe of a die that holds a block of a plane. -/
def stripeAt (x : Die) (plane block : Nat) : Option (Nat × Stripe) :=
  x.stripes.find? fun e => decide (e.2.blk[plane]? = some block) && decide (e.2.st ≠ 0x7)

/-- The age class of a stripe (R234): 0 while open. -/
def ageClass (d : Dev) (s : Stripe) : Nat :=
  let age := if s.st = 4 ∨ s.st = 5 ∨ s.st = 6 then getF d F.XLT_AGE_NOW_AGE - s.ptime else 0
  ([7, 6, 5, 4, 3, 2, 1].find? fun k => decide (getF d (F.XLT_AGEB_BOUND (k - 1)) ≤ age)).getD 0

/-- The age class of the stripe that holds a physical page (R65, R234); 0 for a page of no stripe. -/
def ageAt (d : Dev) (pa : Nat) : Nat :=
  match stripeAt (dieOf d (bitsOf pa 40 35 * 32 + bitsOf pa 34 30)) (bitsOf pa 29 28) (bitsOf pa 27 14) with
  | none => 0
  | some s => ageClass d s.2

/-- The physical address the map names for a leaf, with its age class (R235, R238). -/
def resolveLeaf (d : Dev) (leaf : Nat) : Nat × Nat :=
  let pa := (d.xlt.map.get sentinel leaf).toNat
  (pa, ageAt d pa)

/-- The physical address of a segment's map page: its MLOC on the segment's die (R214). -/
def mapPageAddr (d : Dev) (leaf : Nat) : Nat :=
  let x := dieOfLeaf d leaf
  (segOf d leaf).mloc.toNat + x % 32 * 2 ^ 30 + x / 32 * 2 ^ 35

/-- The address of the map page a window reads first, with the age class of the stripe that holds it (R65). -/
def resolveMap (d : Dev) (leaf : Nat) : Nat × Nat := (mapPageAddr d leaf, ageAt d (mapPageAddr d leaf))

/-- The twin that homes a leaf (R12): true is B. -/
def leafHomeB (leaf : Nat) : Bool := leaf.testBit 0

/-- Whether this twin is home for a leaf (R12, R304). -/
def isHome (d : Dev) (leaf : Nat) : Bool := flag d F.TWN_STS_TAKEOVER || leafHomeB leaf == roleB d

/-! ## Program windows and free dies -/

/-- Superframes in one program window (R27). -/
def phaseSf (d : Dev) : Nat := 2 ^ (img d).phaseSf.toNat

/-- Ticks in a phase cycle (R27). -/
def phaseCycle (d : Dev) : Nat := 2 * phaseSf d * 2048

/-- Whether a die index is in its program window at a schedule position, in the twin of a role (R33). -/
def inProgram (d : Dev) (rb : Bool) (die sp : Nat) : Bool :=
  decide (sp / 2048 / phaseSf d % 2 = 1) == (decide (die ∈ (img d).phaseMap) != rb)

/-- The level at which a tick of this twin is judged, and whether it is fixed yet (R44, R461). -/
def levelAt (d : Dev) (t : Nat) : Nat × Bool :=
  let sf := sposAt d t / 2048
  let now := spos d / 2048
  if sf = now then (dutyLevel d, true)
  else if sf = (now + 1) % 512 ∧ 2032 ≤ sfTick d then (getF d F.SCH_SPOS_NEXT_LEVEL, true)
  else (dutyLevel d, false)

/-- DIV_L of a level (R37). -/
def divOf (d : Dev) (l : Nat) : Nat := ((img d).divs[l]?).getD 1

/-- Two tick ranges overlap. -/
def overlaps (a la b lb : Nat) : Bool := decide (a < b + lb) && decide (b < a + la)

/-- Whether a table entry covers part of an interval of `len` ticks from a position in the phase cycle (R28). -/
def entryCovers (d : Dev) (e : SlotEntry) (sp len : Nat) : Bool :=
  let pc := phaseCycle d
  let at_ := sp % pc
  overlaps e.start.toNat e.length.toNat at_ len || overlaps (e.start.toNat + pc) e.length.toNat at_ len
    || overlaps e.start.toNat e.length.toNat (at_ + pc) len

/-- Ticks a window holds its die (R36). -/
def windowLen (d : Dev) (die : Nat) : Nat := readTkOf d (die / 32) + 2

/-- Whether the die of a copy is free for a window at a tick (R38, R461): no table entry of the level and no other window
covers it; for a fallback or rebound read erase slices count as free (R42, R245). -/
def dieFree (d : Dev) (own fallback : Bool) (die t : Nat) : Bool :=
  let lv := if own then levelAt d t else (d.twn.plevel, decide (sposAt d t / 2048 = spos d / 2048))
  let entries := (img d).slots.any fun e =>
    decide (e.die.toNat = die) && decide (e.kind.toNat ≠ 0x0A)
      && (!lv.2 || decide (lv.1 ≤ e.lmax.toNat))
      && !(fallback && (decide (e.kind.toNat = 3) || decide (e.kind.toNat = 4)))
      && entryCovers d e (sposAt d t) (windowLen d die)
  let wins := d.sch.windows.any fun w =>
    w.own == own && decide (w.die = die) && overlaps w.issue (windowLen d die) t (windowLen d die)
  !entries && !wins

/-- Whether a window of a home exists at a tick on a channel (R36, R37), at the level it is judged by. -/
def windowExists (d : Dev) (ch : Nat) (own anyHome homeB_ : Bool) (t : Nat) : Bool :=
  let sp := sposAt d t
  let p := periodOf d ch
  let n := sp / p
  let l := if own then (levelAt d t).1 else d.twn.plevel
  decide (sp % p = 0) && decide (n / 2 % divOf d l = 0) && (anyHome || decide (n % 2 = 1) == homeB_)

/-- Whether no read is bound to the window of a copy's channel at a tick, and none was released from it in this tick (R40). -/
def windowUnbound (d : Dev) (own : Bool) (ch t : Nat) : Bool :=
  !(d.sch.windows.any fun w => w.own == own && decide (w.ch = ch) && decide (w.issue = t))
    && !(d.sch.freed.any fun w => w.1 == own && decide (w.2 = (ch, t)))

/-- The first tick at or after `a`, of `fuel`, that satisfies a test. -/
def firstTick (p : Nat → Bool) : Nat → Nat → Option Nat
  | 0, _ => none
  | fuel + 1, a => if p a then some a else firstTick p fuel (a + 1)

/-- A window bound to a read. -/
def mkWindow (d : Dev) (htag die : Nat) (own fallback second mapRead : Bool) (leaf t : Nat) : Window :=
  let n := sposAt d t / periodOf d (die / 32)
  { ch := die / 32, n := n, issue := t, die := die, homeB := decide (n % 2 = 1), own := own, htag := htag
    fallback := fallback, second := second, mapRead := mapRead, leaf := leaf }

/-- Far enough to look for a window: every wait of R246 and R247 ends within it. -/
def lookAhead (d : Dev) : Nat := (img d).dTk + 4096

/-- Whether a twin's die stays in its open window over a window's ticks, i to i + READ_TK + 1 (R38). -/
def dieOpen (d : Dev) (rb : Bool) (die i : Nat) : Bool :=
  !inProgram d rb die (sposAt d i) && !inProgram d rb die (sposAt d (i + readTkOf d (die / 32) + 1))

/-- Bind W1 and W2 at admission in a healthy pair (R39): the copy is the one whose die is in its open window. -/
def bindHealthy (d : Dev) (htag leaf : Nat) : Option (List Window) :=
  let t := d.glb.tick + 1
  let die := dieOfLeaf d leaf
  let own := !inProgram d (roleB d) die (sposAt d t)
  let rb := roleB d == own
  let usable (i : Nat) : Bool := windowUnbound d own (die / 32) i && dieOpen d rb die i && dieFree d own false die i
  if !(windowExists d (die / 32) own false (roleB d) t && usable t) then none
  else match firstTick (windowExists d (die / 32) own false (roleB d)) 1024 (t + 1) with
    | none => none
    | some t2 =>
      if usable t2 then some [mkWindow d htag die own false false false leaf t, mkWindow d htag die own false true false leaf t2]
      else none

/-- Bind W1 and W2 in Degraded (R246). -/
def bindDegraded (d : Dev) (htag leaf : Nat) : Option (List Window) :=
  let t := d.glb.tick
  let die := dieOfLeaf d leaf
  let g := (2 * divOf d (dutyLevel d) - 1) * periodOf d (die / 32)
  let rt := readTkOf d (die / 32)
  let usable (i : Nat) : Bool := windowExists d (die / 32) true true false i && windowUnbound d true (die / 32) i && dieFree d true true die i
  match firstTick usable (1 + (img d).dTk + g) (t + 1) with
  | none => none
  | some w1 =>
    match firstTick usable (g + 1) (w1 + rt + 12) with
    | none => none
    | some w2 => some [mkWindow d htag die true false false false leaf w1, mkWindow d htag die true false true false leaf w2]

/-- Bind a fallback or rebound read on a copy (R247, R462): the first window after this tick whose die is free, and with a
map-page read a second one READ_TK + 12 later. -/
def bindLoose (d : Dev) (htag leaf : Nat) (own withMap secondOnly : Bool) : Option (List Window) :=
  let die := dieOfLeaf d leaf
  let any_ := alone d
  let usable (i : Nat) : Bool :=
    windowExists d (die / 32) own any_ (roleB d) i && windowUnbound d own (die / 32) i && dieFree d own true die i
  match firstTick usable (lookAhead d) (d.glb.tick + 1) with
  | none => none
  | some w1 =>
    let first := mkWindow d htag die own true secondOnly withMap leaf w1
    if !withMap then some [first]
    else match firstTick usable (lookAhead d) (w1 + readTkOf d (die / 32) + 12) with
      | none => none
      | some w2 => some [first, mkWindow d htag die own true true false leaf w2]

/-- The windows bound to an HTAG. -/
def windowsOf (d : Dev) (htag : Nat) : List Window := d.sch.windows.filter fun w => !w.claimed && decide (w.htag = htag)

/-- Release every window of an HTAG (R40). -/
def releaseWindows (htag : Nat) (d : Dev) : Dev :=
  let gone (w : Window) : Bool := !w.claimed && decide (w.htag = htag)
  onSch (fun s => { s with
    windows := s.windows.filter fun w => !gone w
    freed := s.freed ++ (s.windows.filter gone).map fun w => (w.own, w.ch, w.issue) }) d

/-- Bind windows, and claim those on the partner's copy over the mirror link (R38, R42). -/
def bindWindows (ws : List Window) (d : Dev) : Dev :=
  let d := onSch (fun s => { s with windows := s.windows ++ ws }) d
  ws.foldl (fun d w => if w.own then d else mirSend (.claim {
    channel := BitVec.ofNat 6 w.ch, window := BitVec.ofNat 18 w.n, homeB := w.homeB, second := w.second,
    fallback := w.fallback, leaf := BitVec.ofNat 40 w.leaf }) d) d

/-- Give the windows of this twin's own copy their work (R40): a leaf whose map page is cached is read in the first window
and the others are released; else the first window carries the map page. A window whose read is issued is past this. -/
def resolveOwn (htag : Nat) (d : Dev) : Dev :=
  if (windowsOf d htag).any fun w => w.own && w.issued then d
  else match (windowsOf d htag).filter fun w => w.own && !w.issued with
  | [] => d
  | w :: rest =>
    let p := resolveLeaf d w.leaf
    if mapCached d w.leaf ∨ rest = [] then
      let d := releaseWindows htag d
      onSch (fun s => { s with windows := s.windows ++ [{ w with mapRead := false, paddr := p.1, agecls := p.2 }] }) d
    else
      onSch (fun s => { s with windows := s.windows.map fun x =>
        if x = w then { w with mapRead := true, paddr := (resolveMap d w.leaf).1, agecls := (resolveMap d w.leaf).2 } else x }) d

end Sys2Proof.Machine
end

