-- ==== Sys2Proof/Machine/Filter.lean ====
section
/-!
DEFINITION. The snoop filter (R125-R130), the shadow directory (R299), and reservations (R153, R154).
-/
namespace Sys2Proof.Machine

/-- The set of a line's sector (R125): SN[15:0] XOR SN[31:16]. -/
def sfSet (la : Nat) : Nat := (la / 16 % 65536) ^^^ (la / 16 / 65536 % 65536)

/-- The tag of a line's sector: SN[41:16]. -/
def sfTag (la : Nat) : Nat := la / 16 / 65536

/-- Whether a line's record is in this twin's own filter; otherwise it is in the shadow (R299, R304). -/
def ownSide (d : Dev) (la : Nat) : Bool := leafHomeB (la / 64) == roleB d

/-- A set of the filter or of the shadow. -/
def sfGet (d : Dev) (own : Bool) (set : Nat) : SfSet := (if own then d.bsn.sf else d.bsn.shadow).get {} set

/-- Put a set. -/
def sfPut (own : Bool) (set : Nat) (x : SfSet) (d : Dev) : Dev :=
  onBsn (fun b => if own then { b with sf := b.sf.put {} set x } else { b with shadow := b.shadow.put {} set x }) d

/-- The way that holds a line's sector. -/
def wayOf (d : Dev) (la : Nat) : Option Nat :=
  ((sfGet d (ownSide d la) (sfSet la)).ways.find? fun e => e.2.v && decide (e.2.tag.toNat = sfTag la)).map fun e => e.1

/-- The way's entry for a line's sector; an invalid one when there is none. -/
def entryOf (d : Dev) (la : Nat) : SfWay :=
  match wayOf d la with
  | none => {}
  | some w => (sfGet d (ownSide d la) (sfSet la)).ways.get {} w

/-- A line's recorded state (R103): I when its sector has no entry. -/
def stateOf (d : Dev) (la : Nat) : SfLine := (entryOf d la).lines.get {} (la % 16)

/-- Agent `n` is in a sharer vector. -/
def inVec (v : Word64) (n : Nat) : Bool := v.getLsbD n

/-- A vector with agent `n` added. -/
def addVec (v : Word64) (n : Nat) : Word64 := v ||| BitVec.ofNat 64 (2 ^ n)

/-- A vector with agent `n` removed. -/
def dropVec (v : Word64) (n : Nat) : Word64 := v &&& ~~~(BitVec.ofNat 64 (2 ^ n))

/-- After an event on a sector: no line in S empties the vector, and all lines in I free the way (R127); a sector under
back-invalidation keeps its way until that has ended (R122, R129). -/
def tidyWay (w : SfWay) : SfWay :=
  if w.lines = [] then (if w.bi then { w with sharers := 0 } else { retired := w.retired })
  else if w.lines.any fun e => e.2.st = 1 then w else { w with sharers := 0 }

/-- The position of a way in the PLRU tree: the spare way stands in the place of the way it replaces (R130). -/
def plruPos (s : SfSet) (w : Nat) : Nat :=
  if w < 16 then w else (((List.range 16).find? fun p => (s.ways.get {} p).retired).getD 0)

/-- Update the PLRU bits of a set for a way (R128). -/
def touchWay (own : Bool) (set w : Nat) (d : Dev) : Dev :=
  let s := sfGet d own set
  sfPut own set { s with plru := BitVec.ofNat 15 (plruTouch (plruPos s w) 4 0 0 s.plru.toNat) } d

/-- Change the entry of a way. -/
def onWay (own : Bool) (set w : Nat) (f : SfWay → SfWay) (d : Dev) : Dev :=
  let s := sfGet d own set
  sfPut own set { s with ways := s.ways.upd {} w f } d

/-- Record a line's new state in a way, with agents added to the vector (R127). -/
def recordIn (own : Bool) (set w i : Nat) (x : SfLine) (adds : List Nat) (d : Dev) : Dev :=
  onWay own set w (fun e => tidyWay { e with
    lines := e.lines.put {} i x, sharers := adds.foldl addVec e.sharers }) d

/-- Record a line's new state where its sector has a way (R127). -/
def enterRecord (la : Nat) (x : SfLine) (adds : List Nat) (d : Dev) : Dev :=
  match wayOf d la with
  | none => d
  | some w => touchWay (ownSide d la) (sfSet la) w (recordIn (ownSide d la) (sfSet la) w (la % 16) x adds d)

/-- A transaction that pins its sector's way (R128): active or queued on one of its lines, not waiting for a way. -/
def pinsSector (t : Txn) (sn : Nat) : Bool :=
  t.phase != .done && decide (t.r.op ≠ 10) && t.wait != .way && decide (txnLine t / 16 = sn)

/-- The sector number a way of a set holds. -/
def sectorOf (set : Nat) (w : SfWay) : Nat := w.tag.toNat * 65536 + ((w.tag.toNat % 65536) ^^^ set)

/-- Whether a way is pinned (R128). -/
def wayPinned (d : Dev) (set : Nat) (w : SfWay) : Bool :=
  w.bi || d.bsn.txns.any fun e => pinsSector e.2 (sectorOf set w)

/-- Ways in use in a set: those not retired, and the spare once it has replaced one (R130). -/
def usableWays (s : SfSet) : List Nat :=
  ((List.range 16).filter fun w => !(s.ways.get {} w).retired) ++ (if s.spareUsed then [16] else [])

/-- The lowest-numbered free way that stands in no list. -/
def freeWay (s : SfSet) (kept : List Nat) : Option Nat := (usableWays s).find? fun w => !(s.ways.get {} w).v && decide (w ∉ kept)

/-- The victim of R128: an unpinned way with no line in M if there is one, else any unpinned way, by the PLRU walk. -/
def victimOf (d : Dev) (own : Bool) (set : Nat) : Option Nat :=
  let s := sfGet d own set
  let at_ (p : Nat) : Nat := if (s.ways.get {} p).retired then 16 else p
  let usable (p : Nat) : Bool := decide (at_ p ∈ usableWays s) && decide (plruPos s (at_ p) = p)
  let ok (p : Nat) : Bool := usable p && (s.ways.get {} (at_ p)).v && !wayPinned d set (s.ways.get {} (at_ p))
  let noM (p : Nat) : Bool := ok p && !((s.ways.get {} (at_ p)).lines.any fun e => e.2.st = 2)
  let walk (f : Nat → Bool) := plruPick (fun n => s.plru.getLsbD n) f 4 0 0
  ((match walk noM with | none => walk ok | r => r).map at_)

/-- Bits 218:0 of an entry (R126). -/
def wayWord (w : SfWay) : BitVec 219 :=
  BitVec.ofNat 219 ((if w.v then 1 else 0) + w.tag.toNat * 2 + w.sharers.toNat * 2 ^ 27
    + (w.lines.map fun e => (e.2.st.toNat + e.2.own.toNat * 4) * 2 ^ (91 + 8 * e.1)).sum)

/-- The 228 bits of an entry (R126): the nine check bits over bits 218:0 are those of the code, which the spec leaves open. -/
def wayBits (w : SfWay) : BitVec 228 := BitVec.ofNat 228 ((wayWord w).toNat + (Config.sfCheck (wayWord w)).toNat * 2 ^ 219)

/-- The ways of a set that read with the reserved ST 0b11 (R126). -/
def badWays (s : SfSet) : List Nat := (s.ways.filter fun e => e.2.v && e.2.lines.any fun x => decide (x.2.st = 3)).map fun e => e.1

/-- The entry that 228 bits spell (R126). -/
def wayOfBits (b : BitVec 228) : SfWay :=
  let n := b.toNat
  if !b.getLsbD 0 then {}
  else
    let line (i : Nat) : SfLine := ⟨BitVec.ofNat 2 (n / 2 ^ (91 + 8 * i)), BitVec.ofNat 6 (n / 2 ^ (93 + 8 * i))⟩
    let lines := (List.range 16).foldl (fun (m : SMap SfLine) i => m.put {} i (line i)) []
    { v := true, tag := BitVec.ofNat 26 (n / 2), sharers := BitVec.ofNat 64 (n / 2 ^ 27), lines := lines }

/-! ## Reservations -/

/-- Clear the slot of an agent. -/
def clearSlot (a : Nat) (d : Dev) : Dev := onBsn (fun b => { b with resv := b.resv.put none a none }) d

/-- Clear every reservation on a line held by an agent other than `keep` (64: none is kept). -/
def clearLine (la keep : Nat) (d : Dev) : Dev :=
  let gone (e : Nat × Option LAddr) : Bool := decide (e.1 ≠ keep) && decide (e.2 = some (BitVec.ofNat 46 la))
  onBsn (fun b => { b with resv := b.resv.filter fun e => !gone e }) d

/-- Clear every slot of this twin. -/
def clearAllResv (d : Dev) : Dev := onBsn (fun b => { b with resv := [] }) d

/-- Whether an agent's slot names a line. -/
def reserves (d : Dev) (a la : Nat) : Bool := decide (d.bsn.resv.get none a = some (BitVec.ofNat 46 la))

end Sys2Proof.Machine
end

