-- ==== Sys2Proof/Machine/Txn.lean ====
section
/-!
DEFINITION. A transaction at its home (R105-R120, R143-R154): acting on activation by the home transition table, collecting
responses, writing, sending the state update, and completing at the commit point.
-/
namespace Sys2Proof.Machine

/-- The transaction of an HTAG. -/
def getT (d : Dev) (h : Nat) : Txn := d.bsn.txns.get {} h
/-- Whether an HTAG is in the tracker. -/
def hasT (d : Dev) (h : Nat) : Bool := d.bsn.txns.any fun e => e.1 = h
/-- Put a transaction. -/
def putT (h : Nat) (t : Txn) (d : Dev) : Dev := onBsn (fun b => { b with txns := b.txns.insert h t }) d
/-- Change a transaction that is in the tracker. -/
def onT (h : Nat) (f : Txn → Txn) (d : Dev) : Dev := if hasT d h then putT h (f (getT d h)) d else d
/-- Free an HTAG. -/
def endT (h : Nat) (d : Dev) : Dev := onBsn (fun b => { b with txns := b.txns.erase h }) d

/-- Acting on its line: active, acted on, or waiting for its ACK. -/
def running (t : Txn) : Bool := t.phase == .active || t.phase == .acted || t.phase == .sent

/-- A Barrier. -/
def isBarrier (t : Txn) : Bool := t.kind == .request && decide (t.r.op = 10)

/-- The HTAGs in use, ascending. -/
def htags (d : Dev) : List Nat := d.bsn.txns.map fun e => e.1

/-- Whether a line has an active transaction (R107). -/
def lineBusy (d : Dev) (la : Nat) : Bool :=
  d.bsn.txns.any fun e => running e.2 && !isBarrier e.2 && decide (txnLine e.2 = la)

/-- Whether a line has a queued transaction (R107). -/
def lineQueued (d : Dev) (la : Nat) : Bool := d.bsn.txns.any fun e => e.2.phase == .queued && decide (txnLine e.2 = la)

/-- Whether a line's sector is under back-invalidation, up to its last commit point (R122, R129, R140). -/
def sectorBusy (d : Dev) (la : Nat) : Bool :=
  (entryOf d la).bi
    || (d.bsn.txns.any fun e => e.2.kind == .backInv && e.2.phase != .done && decide (txnLine e.2 / 16 = la / 16))
    || d.bsn.biQueue.any fun e => decide (e.1 / 16 = la / 16)

/-- Whether an agent is marked dead. -/
def isDead (d : Dev) (a : Nat) : Bool := (getPair F.BSN_DEAD_LO_DEAD F.BSN_DEAD_HI_DEAD d).testBit a

/-- The Basin's protocol error (R141, event 161). -/
def protoError (port cls op agent reason : Nat) (d : Dev) : Dev :=
  let d := setF F.BSN_PERR_INFO_PORT port (setF F.BSN_PERR_INFO_CLASS cls (setF F.BSN_PERR_INFO_OP op d))
  let d := setF F.BSN_PERR_INFO_AGENT agent (setF F.BSN_PERR_INFO_REASON reason (setB F.BSN_PERR_INFO_VALID true d))
  raiseN 161 (agent + port * 64 + reason * 1024) (setB F.BSN_ERR_PROTO true d)

/-- Stamp a Gecko stage the first time it is passed. -/
def stampFirst (g : Option Nat) (s : Nat) (d : Dev) : Dev :=
  match g with
  | none => d
  | some id =>
    if d.obs.inFlight.any fun x => decide (x.id = id) && (x.stages.any fun e => e.1 = s) then d else stamp g s d

/-! ## Messages of a transaction -/

/-- Send a snoop to an agent and wait for its answer (R109); an agent bound to no port is not snooped (R134). -/
def snoopAgent (h a : Nat) (op : BitVec 5) (rgrant : BitVec 2) (d : Dev) : Dev :=
  match portsOfAgent d a with
  | [] => d
  | p :: _ =>
    let t := getT d h
    let inv := decide (op = 3)
    let d := stampFirst t.gecko 3 (onT h (fun t => { t with snps := t.snps ++ [{ agent := a, op := op }] }) d)
    sendLcf p (.snp op (BitVec.ofNat 6 a) (if inv then 0 else t.r.tag) (if inv then 0 else t.r.agent) (BitVec.ofNat 12 h)
      t.r.laddr (roleB d) rgrant) (count (0x5000 + (op.toNat - 1)) d)

/-- Send WrPull to the requester (R110). -/
def sendPull (h : Nat) (d : Dev) : Dev :=
  let t := getT d h
  let d := stampFirst t.gecko 3 (onT h (fun t => { t with pull := some d.glb.tick }) d)
  sendLcf t.port (.rsp 2 t.r.agent t.r.tag (BitVec.ofNat 12 h) 0 (roleB d) 0 false) d

/-- Send a CMP to an agent (R110). -/
def sendCmp (port : Nat) (agent : Agent) (tag : Tag) (status : BitVec 3) (grant : BitVec 2) (ndat : Bool) (d : Dev) : Dev :=
  let d := if status = 0 then d else clearSlot agent.toNat d
  sendLcf port (.rsp 1 agent tag 0 status (roleB d) grant ndat) d

/-- Send DataHome to a requester (R111): zero data with STATUS POISON. -/
def sendHome (port : Nat) (agent : Agent) (tag : Tag) (h : Nat) (status : BitVec 3) (grant : BitVec 2) (v : Line) (d : Dev) : Dev :=
  sendLcf port (.dat 1 agent tag (BitVec.ofNat 12 h) status (roleB d) grant 0 (if status = 0 then v else 0)) d

/-- Send FwdRel for an HTAG to an agent (R116, R300). -/
def sendFwdRel (h a : Nat) (d : Dev) : Dev :=
  match portsOfAgent d a with
  | [] => d
  | p :: _ => sendLcf p (.rsp 3 (BitVec.ofNat 6 a) 0 (BitVec.ofNat 12 h) 0 (roleB d) 0 false) d

/-- Whether a partner takes the state stream: in the pair, or a resilver target (R297, R312). -/
def mirrors (d : Dev) : Bool := !alone d || flag d F.TWN_STS_RSLV

/-- Send a record to the partner where one takes the stream. -/
def sendUpd (tag : Nat) (r : UpdRec) (d : Dev) : Dev := if mirrors d then mirSendFor tag (.upd [r]) d else d

/-- Count a leaf among the counted leaves of its die (R431). -/
def countLeaf (leaf : Nat) (d : Dev) : Dev :=
  { d with med := { d.med with dies := d.med.dies.upd {} (dieOfLeaf d leaf) fun x => { x with nLeaves := insertNew leaf x.nLeaves } } }

/-! ## Lost lines -/

/-- Whether a line waits to be marked lost (R137), or for its value from the partner (R171, R280). -/
def lostPending (d : Dev) (la : Nat) : Bool :=
  (d.bsn.lostWait.any fun e => e.1.toNat = la) || d.ntr.repair.any fun e => decide (e.1.toNat = la) && decide (e.2 < 9)

/-- A line is lost to an agent's walk: event 164 at the first (R142). -/
def walkLost (agent : Nat) (d : Dev) : Dev :=
  match d.bsn.walks.find? fun w => decide (w.agent = agent) && !w.ended with
  | none => d
  | some w =>
    let d := onBsn (fun b => { b with walks := b.walks.map fun x => if x = w then { w with lost := w.lost + 1 } else x }) d
    if w.lost = 0 then raiseN 164 agent d else d

/-- The transaction that runs on a line, as its HTAG + 1, or 0: a loss inside it holds its completion to the ACK (R115). -/
def runningTag (d : Dev) (la : Nat) : Nat :=
  match (htags d).find? fun h => running (getT d h) && !isBarrier (getT d h) && decide (txnLine (getT d h) = la) with
  | none => 0
  | some h => h + 1

/-- Mark a line lost (R137): poison, ST I, the state update, the Ledger record, and for an agent the exact count. Without
dirty room or a frame it waits. `agent` 127 stands for steps 1 to 4 with agent field 0x3F, 126 for steps 1 to 3: a line of a
leaf lost in both twins, whose Ledger record is that of R16. -/
def markLost (la agent : Nat) (d : Dev) : Dev :=
  let wait (d : Dev) : Dev := onBsn (fun b => { b with lostWait := insertNew (BitVec.ofNat 46 la, agent) b.lostWait }) d
  if !roomFor d (la / 64) then wait d
  else match allocFrame (la / 64) d with
    | none => wait d
    | some d =>
      let field := agent % 64
      let way := (wayOf d la).getD 0
      let d := onBsn (fun b => { b with lostWait := b.lostWait.filter fun e => e.1.toNat ≠ la }) d
      let d := clearLine la 64 (enterRecord la {} [] (poisonLine la d))
      let tag := runningTag d la
      let d := if tag = 0 ∨ !mirrors d then d else onT (tag - 1) (fun t => { t with lossOut := true }) d
      let d := sendUpd tag { laddr := BitVec.ofNat 46 la, way := BitVec.ofNat 5 way, poison := true } d
      let d := if agent = 126 then d else ledDetail 164 (BitVec.ofNat 32 field) (BitVec.ofNat 8 field :: bytesLE 6 la) d
      if agent < 64 then
        walkLost agent (setPair F.BSN_SKINK_LOST_LO_LOST F.BSN_SKINK_LOST_HI_LOST
          (getPair F.BSN_SKINK_LOST_LO_LOST F.BSN_SKINK_LOST_HI_LOST d + 1) d)
      else d

/-! ## Read windows of a transaction -/

/-- Bind the windows of a transaction whose line is not valid (R39, R40, R246): a leaf on an index being repopulated is read
from the partner's copy (R237, R432). -/
def bindRead (h : Nat) (d : Dev) : Dev :=
  let t := getT d h
  let leaf := txnLine t / 64
  let ws := if (segOf d leaf).rebuild && !alone d then bindLoose d h leaf false true false
    else if alone d then bindDegraded d h leaf else bindHealthy d h leaf
  match ws with
  | none => onT h (fun t => { t with needWin := true }) d
  | some ws => bindWindows ws (onT h (fun t => { t with needWin := false, start := d.glb.tick, excluded := 0 }) d)

/-- Rebind a lost or failed read on a copy (R247, R462). -/
def rebindRead (h : Nat) (own withMap secondOnly : Bool) (d : Dev) : Dev :=
  let leaf := txnLine (getT d h) / 64
  match bindLoose d h leaf own withMap secondOnly with
  | none => onT h (fun t => { t with rebind := true, rbOwn := own, rbMap := withMap }) d
  | some ws =>
    let d := bindWindows ws (onT h (fun t => { t with rebind := false }) d)
    if own then resolveOwn h d else d

/-- Note the first cause that touched a request (R252). -/
def noteCause (h c : Nat) (d : Dev) : Dev := onT h (fun t => if t.cause = 0 then { t with cause := c } else t) d

/-! ## The home transition table -/

/-- What activation sends (R119): snoops with their RGRANT, and WrPull. -/
structure Row where
  snps : List (Nat × BitVec 5 × BitVec 2) := []
  pull : Bool := false
  deriving DecidableEq, Repr

/-- The row of R119 for a request on activation. `vec` holds the sharers that can be snooped. ReserveRead in M snoops its owner even where
that is the requester, as its row says (log entry 23). -/
def rowOf (op : Nat) (st : Nat) (own r : Nat) (vec : Word64) (write : Bool) : Row :=
  let sharers (all : Bool) := ((bitList 64 vec.toNat).filter fun n => all || decide (n ≠ r)).map fun n => (n, (3 : BitVec 5), (0 : BitVec 2))
  if op = 4 ∨ op = 5 ∨ op = 9 then
    if !write then {}
    else if st = 2 then { snps := [(own, 3, 0)], pull := true }
    else if st = 1 then { snps := sharers true, pull := true }
    else { pull := true }
  else if op = 6 then { pull := decide (st = 2) && decide (own = r) }
  else if op = 7 then (if st = 2 ∧ own = r then { snps := [(own, 3, 0)] } else {})
  else if op = 8 then (if st = 2 then { snps := [(own, 1, 0)] } else {})
  else if op = 1 then (if st = 2 ∧ own ≠ r then { snps := [(own, 1, 1)] } else {})
  else if op = 2 ∨ op = 3 then
    if st = 2 then (if own ≠ r then { snps := [(own, 2, 2)] } else {})
    else if st = 1 then { snps := sharers false }
    else {}
  else {}

/-- How a transaction ends: its CMP, the new state with the agents added, and what it writes: a full line first, then the
bytes a mask selects on top (R119). -/
structure Res where
  status : BitVec 3 := 0
  grant : BitVec 2 := 0
  ndat : Bool := false
  homeData : Bool := false
  st : Option SfLine := none
  adds : List Nat := []
  full : Option Line := none
  bytes : Option (Word64 × Line) := none
  deriving DecidableEq, Repr

/-- Whether a transaction finds its line poisoned (R114). -/
def poisoned (d : Dev) (t : Txn) : Bool :=
  t.lostBy.isSome || (decide (t.st = 0) && lineValid d (txnLine t) && (lineOf d (txnLine t)).poison)

/-- The end of a transaction, once every answer has arrived (R114, R119, R129, R135). -/
def resOf (d : Dev) (t : Txn) : Res :=
  let r := t.r.agent.toNat
  let m (a : Nat) : Option SfLine := some { st := 2, own := BitVec.ofNat 6 a }
  let s : Option SfLine := some { st := 1 }
  let i : Option SfLine := some {}
  let p := poisoned d t
  let homeRead (g : BitVec 2) (st : Option SfLine) (adds : List Nat) : Res :=
    if p then { status := 1, ndat := true, homeData := true }
    else if t.gone then {} else { grant := g, ndat := true, homeData := true, st := st, adds := adds }
  let readOwn : Res :=
    if t.st = 2 ∧ t.lostBy = none then
      (if t.own = r then { grant := 2 } else { grant := 2, ndat := true, st := m r })
    else homeRead 2 (m r) []
  if t.kind ≠ .request then { st := i, full := t.ownerData }
  else if t.recover then { st := i, full := t.ownerData }
  else match t.r.op.toNat with
    | 1 =>
      if t.st = 2 ∧ t.lostBy = none then
        if t.own = r then { grant := 2 }
        else if t.gone then { st := s, adds := [t.own], full := t.ownerData }
        else { grant := 1, ndat := true, st := s, adds := [t.own, r], full := t.ownerData }
      else homeRead 1 s [r]
    | 2 => readOwn
    | 3 => if t.st = 1 ∧ t.shared then (if t.gone then {} else { grant := 2, st := m r }) else readOwn
    | 8 =>
      if t.st = 2 ∧ t.lostBy = none then { ndat := true, st := s, adds := [t.own], full := t.ownerData }
      else homeRead 0 none []
    | 4 => if t.noWrite then { st := i, full := t.ownerData } else { st := i, full := t.wr.map fun w => w.2 }
    | 5 =>
      if p then { status := 1 } else if t.noWrite then { st := i, full := t.ownerData }
      else { st := i, full := t.ownerData, bytes := t.wr }
    | 9 =>
      if p then { status := 1 } else if !t.condOk then { status := 5 }
      else if t.noWrite then { st := i, full := t.ownerData }
      else { st := i, full := t.ownerData, bytes := t.wr }
    | 6 => (match t.wr with
      | some w => { st := i, full := some w.2 }
      | none => {})
    | 7 =>
      if t.st = 2 ∧ t.own = r ∧ t.lostBy = none then { st := i, full := t.ownerData }
      else if t.st = 1 ∧ (entryOf d (txnLine t)).sharers = addVec 0 r then { st := i } else {}
    | _ => {}

/-- Bytes a result merges over the old line. -/
def mergeMask (r : Res) : Word64 := match r.bytes with | none => 0 | some w => w.1

/-- Whether a result makes the line dirty. -/
def dirties (r : Res) : Bool := r.full.isSome || mergeMask r != 0

/-- Whether a result needs the home's line: data to return, or an old line to merge into. -/
def needsLine (r : Res) : Bool :=
  (r.homeData && decide (r.status = 0)) || (mergeMask r != 0 && r.full.isNone)

/-- Whether a result changes the line's home state or value, so that an update is sent (R115). -/
def changes (d : Dev) (la : Nat) (r : Res) : Bool :=
  dirties r || (match r.st with
    | none => false
    | some x => decide (stateOf d la ≠ x)) || r.adds.any fun a => !inVec (entryOf d la).sharers a

/-! ## Ways -/

/-- Back-invalidation transactions waiting for an HTAG, and the lowest free one (R121). -/
def freeBiTag (d : Dev) : Option Nat := (List.range 256).findSome? fun i => if hasT d (0xF00 + i) then none else some (0xF00 + i)

/-- The lines of an entry not in I. -/
def heldLines (set : Nat) (w : SfWay) : List Nat := w.lines.map fun e => sectorOf set w * 16 + e.1

/-- Snoop for a back-invalidation of one line (R129). -/
def biAct (h : Nat) (d : Dev) : Dev :=
  let t := getT d h
  let la := txnLine t
  let x := stateOf d la
  let d := onT h (fun t => { t with phase := .acted, st := x.st, own := x.own.toNat }) d
  let targets := if x.st = 2 then [x.own.toNat]
    else if x.st = 1 then (bitList 64 (entryOf d la).sharers.toNat).filter fun a => !isDead d a else []
  targets.foldl (fun d a => snoopAgent h a 3 0 d) d

/-! ## Commit -/

/-- A bound of the image (R253), in 10 ns units. -/
def boundOf (d : Dev) (t : Txn) : Nat := d.obs.bounds.get 0 (t.level + t.case_ * 16 + t.bstate * 256)

/-- Compare a request's counted time with its bound (R252, R254); whole ticks count 100 units (log entry 3). -/
def checkBound (t : Txn) (d : Dev) : Dev :=
  let units := (d.glb.tick - t.start - 1 - t.excluded) * 100
  if t.r.op = 10 ∨ t.r.op = 7 ∨ t.kind ≠ .request ∨ units ≤ boundOf d t then d
  else
    let cause := if t.cause = 0 then 15 else t.cause
    let d := setPair F.OBS_BND_MISS_LO_MISS F.OBS_BND_MISS_HI_MISS
      (getPair F.OBS_BND_MISS_LO_MISS F.OBS_BND_MISS_HI_MISS d + 1) d
    let d := setF F.OBS_BND_LAST_LO_LAT (min (2 ^ 24 - 1) units) (setF F.OBS_BND_LAST_LO_CASE t.case_ d)
    let d := setF F.OBS_BND_LAST_LO_CAUSE cause (setF F.OBS_BND_LAST_HI_AGENT t.r.agent.toNat d)
    let d := setF F.OBS_BND_LAST_HI_LEVEL t.level (setF F.OBS_BND_LAST_HI_STATE t.bstate (setB F.OBS_BND_LAST_HI_VALID true d))
    let arg := t.case_ + cause * 16 + t.level * 256 + t.bstate * 4096
    let d := raiseOnce 480 480 arg d
    if cause = 15 then
      let d := raiseOnce 481 481 arg (addSat F.OBS_BND_UNEXPL_COUNT 1 d)
      ledDetail 481 (BitVec.ofNat 32 arg) ([BitVec.ofNat 8 t.case_, BitVec.ofNat 8 t.level, BitVec.ofNat 8 t.bstate,
        BitVec.ofNat 8 t.r.agent.toNat] ++ bytesLE 4 t.r.tag.toNat ++ bytesLE 4 (sposAt d t.start)) d
    else d

/-- The reservations a commit clears or sets (R153, R154). -/
def commitResv (t : Txn) (d : Dev) : Dev :=
  let r := t.r.agent.toNat
  let la := txnLine t
  match t.r.op.toNat with
  | 4 => if t.noWrite then d else clearLine la r d
  | 5 => if t.noWrite ∨ t.status ≠ 0 then d else clearLine la r d
  | 9 => if t.noWrite ∨ t.status ≠ 0 then d else clearLine la r d
  | 6 => if t.wr.isSome then clearLine la r d else d
  | 2 => if t.grant = 2 then clearLine la r d else d
  | 3 => if t.grant = 2 then clearLine la r d else d
  | 8 =>
    if t.status = 0 ∧ !t.gone then onBsn (fun b => { b with resv := b.resv.put none r (some t.r.laddr) }) d else d
  | _ => d

/-- Whether flits with the CMP or DataHome of a request are still to be acknowledged on its port (R298). -/
def cmpInFlight (d : Dev) (port : Nat) (agent : Nat) (tag : Nat) : Bool :=
  let mine (m : LcfMsg) : Bool := match m with
    | .rsp op a t _ _ _ _ _ => decide (op = 1) && decide (a.toNat = agent) && decide (t.toNat = tag)
    | .dat op a t _ _ _ _ _ _ => decide (op = 1) && decide (a.toNat = agent) && decide (t.toNat = tag)
    | _ => false
  let l := linkOf d port
  l.wait.any mine || l.retry.any fun f => f.lcf.any mine

/-- Send the RETIRE of a CIDX, which becomes free (R298). -/
def retireCidx (c : Nat) (d : Dev) : Dev :=
  let d := onTwn (fun t => { t with
    hcidx := t.hcidx.filter fun x => x ≠ c, retires := t.retires.filter fun x => x.1 ≠ c }) d
  if mirrors d then mirSend (.retire [BitVec.ofNat 15 c]) d else d

/-- Retire every completion whose flits a port's link ACK covers. -/
def sweepRetires (d : Dev) : Dev :=
  (d.twn.retires.filter fun x => !cmpInFlight d x.2.1 x.2.2.1 x.2.2.2).foldl (fun d x => retireCidx x.1 d) d

/-- The end of a back-invalidated line: when its sector has no line left, the way is free (R129); a departing agent's walk may end. -/
def biEnds (la : Nat) (d : Dev) : Dev :=
  let own := ownSide d la
  let set := sfSet la
  let sn := la / 16
  let s := sfGet d own set
  let left := d.bsn.txns.any fun e => e.2.kind == .backInv && decide (txnLine e.2 / 16 = sn)
  let queued := d.bsn.biQueue.any fun e => decide (e.1 / 16 = sn)
  if left || queued then d
  else match s.ways.find? fun e => e.2.bi && decide (sectorOf set e.2 = sn) with
    | none => d
    | some e => sfPut own set { s with ways := s.ways.put {} e.1 { retired := e.2.retired } } d

/-- Whether the dirty total stands within the cap (R18, R357). -/
def withinCap (d : Dev) : Bool := decide ((dirtyLeafList d).length ≤ capLeaves d)

/-- The commit point of a transaction (R115, R118): reservations, FwdRel, DataHome and CMP; the HTAG is freed, or held
out of use (R138). -/
def commitT (h : Nat) (d : Dev) : Dev :=
  let t := getT d h
  let la := txnLine t
  let late := t.posted && decide (t.r.op.toNat ∈ [4, 5, 9, 6]) && decide (t.status = 0) && !withinCap d
  let d := if late then onBsn (fun b => { b with undur := b.undur ++ [(t.r.agent.toNat, t.order)] }) d else d
  let d := commitResv t (stamp t.gecko 9 d)
  let d := t.fwd.foldl (fun d a => sendFwdRel h a d) d
  let d := if t.kind ≠ .request ∨ t.noCmp then (if t.kind = .request then dropTag t.gecko d else d)
    else
      let d := if t.homeData then sendHome t.port t.r.agent t.r.tag h t.status t.grant t.value d else d
      let d := if t.cmpSent then d else sendCmp t.port t.r.agent t.r.tag t.status t.grant t.ndat d
      checkBound t d
  let d := match t.cidx with
    | none => d
    | some c => onTwn (fun x => { x with retires := x.retires ++ [(c, t.port, t.r.agent.toNat, t.r.tag.toNat)] }) d
  let d := releaseWindows h d
  let d := if t.quar then
      raiseN 173 h (onT h (fun t => { t with phase := .done, heldFrom := d.glb.tick }) d)
    else endT h d
  let d := if t.kind = .backInv then biEnds la d else d
  sweepRetires d

/-- Transactions of one stream commit in the order of admission (R144). -/
def earlierInStream (d : Dev) (h : Nat) : Bool :=
  let t := getT d h
  t.kind == .request && d.bsn.txns.any fun e => decide (e.1 ≠ h) && e.2.kind == .request && e.2.phase != .done
    && decide (e.2.r.agent = t.r.agent) && decide (e.2.r.stream = t.r.stream) && decide (e.2.order < t.order)

/-- The third condition of R18: a durable write completes only while the dirty total is within the cap. -/
def durableNow (d : Dev) (t : Txn) : Bool :=
  t.kind != .request || t.posted || decide (t.r.op.toNat ∉ [4, 5, 9, 6]) || decide (t.status ≠ 0) || withinCap d

/-- Commit what may commit, until nothing more may. -/
def commitSweepN : Nat → Dev → Dev
  | 0, d => d
  | n + 1, d =>
    match (htags d).find? fun h => (getT d h).phase == .sent && (getT d h).acked && durableNow d (getT d h) && !earlierInStream d h with
    | none => d
    | some h => commitSweepN n (commitT h d)

/-- A durable write whose ACK has come waits for dirty room (R18). -/
def capWaits (d : Dev) : Dev :=
  onBsn (fun b => { b with txns := b.txns.map fun e =>
    if e.2.phase == .sent && e.2.acked && !durableNow d e.2 then (e.1, { e.2 with wait := .dirty }) else e }) d

/-- Commit every acknowledged transaction whose stream's earlier ones have committed. -/
def commitSweep (d : Dev) : Dev := capWaits (commitSweepN d.bsn.txns.length d)

/-! ## Finishing -/

/-- The next free CIDX in ring order (R298). -/
def nextCidx (used : List Nat) : Nat → Nat → Option Nat
  | 0, _ => none
  | n + 1, c => if c ∈ used then nextCidx used n ((c + 1) % 32768) else some c

/-- The record of a transaction's change (R296). -/
def updOf (d : Dev) (t : Txn) (r : Res) (way : Option Nat) (wrote crec : Bool) : UpdRec :=
  let la := txnLine t
  let x := stateOf d la
  let add (n : Nat) : BitVec 7 := match r.adds[n]? with | none => 0x40 | some a => BitVec.ofNat 7 a
  { laddr := t.r.laddr, st := x.st, own := x.own, add1 := add 0, add2 := add 1,
    way := BitVec.ofNat 5 (way.getD 0), alloc := t.alloc, poison := (lineOf d la).poison,
    data := if wrote then some (lineNow d la) else none, crec := crec, agent := t.r.agent, tag := t.r.tag,
    status := r.status, grant := r.grant, ndat := r.ndat, fromHome := r.homeData, op := t.r.op }

/-- A way taken and not written goes back (R127). -/
def releaseWay (la : Nat) (d : Dev) : Dev :=
  match wayOf d la with
  | none => d
  | some w => onWay (ownSide d la) (sfSet la) w tidyWay d

/-- The walk behind a line or leaf read for a request (R272): with the tree-walk cache off it reads every level, cause 0x4 of a missed
bound (R252, R275). -/
def readWalk (h leaf : Nat) (d : Dev) : Dev := if wcOn d then treeWalk leaf d else noteCause h 4 d

/-- The write step: the line, the filter, the state update, or with nothing changed the commit at once (R115, R118). -/
def finishT (h : Nat) (r : Res) (cidx : Option Nat) (d : Dev) : Dev :=
  let t := getT d h
  let la := txnLine t
  let changed := changes d la r
  let way := wayOf d la
  let d := if dirties r ∨ r.grant = 2 then countLeaf (la / 64) d else d
  let d := (match r.full with | none => d | some v => fullWrite la v d)
  let d := (match r.bytes with | none => d | some w => mergeWrite la w.2 w.1 d)
  let d := (match r.st with | none => d | some x => enterRecord la x r.adds d)
  let d := releaseWay la d
  let d := if r.homeData then readWalk h (la / 64) d else d
  let d := (match cidx with
    | none => d
    | some c => onTwn (fun x => { x with hcidx := x.hcidx ++ [c], hnext := (c + 1) % 32768 }) d)
  let d := onT h (fun t => { t with
    phase := .sent, wait := .nothing, status := r.status, grant := r.grant, ndat := r.ndat, homeData := r.homeData
    value := if r.homeData then lineNow d la else 0, cidx := cidx, acked := alone d || (!changed && !t.lossOut), lossOut := t.lossOut && !changed }) d
  let d := if changed then stamp t.gecko 8 (sendUpd (h + 1) (updOf d (getT d h) r way (dirties r) cidx.isSome) d) else d
  commitSweep d

/-- Act on a back-invalidation (R129): a dead owner's line is lost first (R136); with nobody left to ask it ends. -/
def biStep (h : Nat) (d : Dev) : Dev :=
  let la := txnLine (getT d h)
  let x := stateOf d la
  if frozen d ∨ lostPending d la then d
  else
    let d := if x.st = 2 ∧ isDead d x.own.toNat then markLost la x.own.toNat d else d
    if lostPending d la then d
    else
      let d := biAct h d
      if (getT d h).snps = [] then finishT h (resOf d (getT d h)) none d else d

/-- Start a back-invalidation transaction on a line (R129, R130, R140): `walk` is the departing agent + 1, or 0. -/
def startBi (la walk : Nat) (d : Dev) : Dev :=
  match freeBiTag d with
  | none => onBsn (fun b => { b with biQueue := insertNew (la, walk) b.biQueue }) d
  | some h =>
    let t : Txn := {
      kind := .backInv, r := { laddr := BitVec.ofNat 46 la }, order := d.bsn.order, adm := d.bsn.order, actAt := d.bsn.order
      phase := if lineBusy d la || lineQueued d la then .queued else .active, start := d.glb.tick
      walk := if walk = 0 then none else some (walk - 1) }
    let d := putT h t (onBsn (fun b => { b with
      order := b.order + 1, biQueue := b.biQueue.filter fun e => e ≠ (la, walk) }) (count 0x5003 d))
    if t.phase = .active then biStep h d else d

/-- Give a transaction a way in its sector's set (R128, R129): a free one that no other allocation has chosen, or a victim of its
own whose lines are back-invalidated first. With every way pinned, or BI_LIMIT sectors under back-invalidation, it waits, and
waiting allocations take ways in the order of their activation. -/
def takeWay (h : Nat) (d : Dev) : Dev :=
  let t := getT d h
  let la := txnLine t
  let own := ownSide d la
  let set := sfSet la
  let s := sfGet d own set
  let rival (e : Nat × Txn) : Bool :=
    decide (e.1 ≠ h) && e.2.wait == .way && decide (sfSet (txnLine e.2) = set) && ownSide d (txnLine e.2) == own
  let kept := (d.bsn.txns.filter rival).filterMap fun e => e.2.victim
  let older := d.bsn.txns.any fun e => rival e && e.2.victim.isNone && decide (e.2.actAt < t.actAt)
  let wait (d : Dev) : Dev := if t.wait = .way then d else count 0x5004 (onT h (fun t => { t with wait := .way }) d)
  let take (w : Nat) (d : Dev) : Dev :=
    let d := onWay own set w (fun e => { e with v := true, tag := BitVec.ofNat 26 (sfTag la), sharers := 0, lines := [] }) d
    touchWay own set w (onT h (fun t => { t with way := some w, alloc := true, wait := .nothing, victim := none }) d)
  match (t.victim.filter fun w => !(s.ways.get {} w).retired) with
  | some w => if (s.ways.get {} w).v then d else take w d
  | none =>
    if older then wait d
    else match freeWay s kept with
      | some w => take w d
      | none =>
        if getF d F.BSN_SF_CTL_BI_LIMIT ≤ sectorsBi d then wait d
        else match victimOf d own set with
          | none => wait d
          | some w =>
            let e := s.ways.get {} w
            let d := onT h (fun t => { t with wait := .way, victim := some w }) (onWay own set w (fun e => { e with bi := true }) d)
            (heldLines set e).foldl (fun d l => startBi l 0 d) d

/-- Wait for something, with the event the wait raises once (R166: 247; R298: 398). -/
def waitT (h : Nat) (w : WaitFor) (d : Dev) : Dev :=
  let t := getT d h
  if t.wait = w then d
  else
    let d := onT h (fun t => { t with wait := w }) d
    match w with
    | .frame => raiseN 247 (leafSet d (txnLine t / 64)) (noteCause h 4 d)
    | .cidx => raiseN 398 0 (setB F.TWN_ERR_CTAB_FULL true d)
    | _ => d

/-- Ask the partner for a line's committed value (R171, R280). -/
def askLine (la : Nat) (d : Dev) : Dev :=
  let q : LReq := { kind := 0, leaf := la / 64, line := la % 64 }
  if d.twn.lreqs.any fun x => decide (x.kind = 0) && decide (x.leaf = q.leaf) && decide (x.line = q.line) then d
  else if 64 ≤ (d.twn.lreqs.filter fun x => x.sent).length then onTwn (fun t => { t with lreqs := t.lreqs ++ [q] }) d
  else mirSend (.lreq 0 (BitVec.ofNat 40 q.leaf) (BitVec.ofNat 6 q.line) 0 0)
    (onTwn (fun t => { t with lreqs := t.lreqs ++ [{ q with sent := true }] }) d)

/-- A merge whose old line cannot be had (R280): the line is poisoned and the write has no effect. -/
def mergePoisoned (h : Nat) (d : Dev) : Dev :=
  let t := getT d h
  let la := txnLine t
  let d := raiseN 357 (la / 64) (setB F.SLU_ERR_MERGE_POISON true (markLost la 127 d))
  let d := if t.posted then ledDetail 357 (BitVec.ofNat 32 (la / 64))
    (BitVec.ofNat 8 t.r.agent.toNat :: bytesLE 2 t.r.tag.toNat ++ bytesLE 6 la) d else d
  onT h (fun t => { t with lostBy := some 127, stage := 0, tagBad := false }) d

/-- Go on with an acted transaction as far as it can: every answer in, the line at hand, a way, dirty room, a frame and a
CIDX; then the write step (R118, R128, R166, R298, R357). -/
def progress (h : Nat) (d : Dev) : Dev :=
  let t := getT d h
  let la := txnLine t
  if frozen d ∨ t.phase ≠ .acted ∨ t.snps ≠ [] ∨ t.pull.isSome ∨ lostPending d la ∨ t.stage = 1 ∨ t.stage = 3
      ∨ (sfGet d (ownSide d la) (sfSet la)).pinned then d
  else
    let r := resOf d t
    if needsLine r && !lineValid d la then d
    else if r.grant ≠ 0 ∧ (r.st.isSome) ∧ wayOf d la = none then takeWay h d
    else if mergeMask r ≠ 0 ∧ r.full.isNone ∧ t.tagBad then
      let d := setB F.SLU_ERR_LINE_TAG true (onT h (fun t => { t with stage := 3 }) (count 0x9000 d))
      if alone d then mergePoisoned h d else askLine la d
    else if dirties r && !roomFor d (la / 64) then waitT h .dirty d
    else
      let framed := if dirties r then allocFrame (la / 64) d else some d
      match framed with
      | none => waitT h .frame d
      | some d =>
        let crec := changes d la r && t.kind == .request && mirrors d
        if !crec then finishT h r none d
        else match nextCidx d.twn.hcidx 32768 d.twn.hnext with
          | none => waitT h .cidx d
          | some c => finishT h r (some c) (count 0xA01B d)

/-- Install what has arrived for a transaction's leaf and go on with every transaction of the leaf (R16, R40). -/
def wakeLeaf (leaf : Nat) (d : Dev) : Dev :=
  ((htags d).filter fun h => decide (txnLine (getT d h) / 64 = leaf)).foldl (fun d h => progress h d) d

/-- A fill arrives for a leaf: it is installed in a frame of the main cache, or its transaction waits for one (R166). A
promotion that the dirty cap does not let in yet waits (R278). -/
def fillArrives (h leaf : Nat) (f : Fill) (d : Dev) : Dev :=
  match allocFrame leaf d with
  | none => waitT h .frame (onT h (fun t => { t with fill := some f }) d)
  | some d =>
    let may := f.promote && roomFor d leaf
    let d := installLines leaf f.poison f.lines may (readWalk h leaf d)
    let d := if f.promote && !may then onNtr (fun n => { n with
      repair := insertNew (BitVec.ofNat 46 (leaf * 64), 9) n.repair, pins := n.pins.put 0 leaf 1 }) d else d
    let d := stamp (getT d h).gecko 7 (onT h (fun t => { t with fill := none, wait := .nothing }) d)
    wakeLeaf leaf d

/-! ## Acting on activation -/

/-- Act on a request by its row of the table (R119), the poison rule (R114) and the reservation check (R147, R153). -/
def actRow (h : Nat) (d : Dev) : Dev :=
  let t := getT d h
  let la := txnLine t
  let r := t.r.agent.toNat
  let x := stateOf d la
  let vec := (entryOf d la).sharers
  let live := (bitList 64 vec.toNat).filter fun a => !isDead d a
  let vecLive := live.foldl addVec 0
  let cond := if t.posted then t.condOk else reserves d r la
  let d := if t.r.op = 9 ∧ !t.posted then clearSlot r d else d
  let d := onT h (fun t => { t with
    phase := .acted, st := x.st, own := x.own.toNat, shared := inVec vec r, oldVec := vec, condOk := cond }) (stampFirst t.gecko 2 d)
  let d := match wayOf d la with
    | none => d
    | some w => touchWay (ownSide d la) (sfSet la) w d
  let t := getT d h
  let write := !poisoned d t || decide (t.r.op = 4)
  let row := rowOf t.r.op.toNat x.st.toNat x.own.toNat r vecLive (write && (decide (t.r.op ≠ 9) || cond))
  let d := if row.pull then sendPull h d else d
  let d := row.snps.foldl (fun d s => snoopAgent h s.1 s.2.1 s.2.2 d) d
  let d := if x.st = 2 ∧ (row.snps.any fun s => s.2.1 ≠ 3) then onT h (fun t => { t with fwd := [x.own.toNat] }) d else d
  let grants := (t.r.op = 1 ∨ t.r.op = 2 ∨ t.r.op = 3) ∧ wayOf d la = none ∧ !poisoned d t
  let d := if grants then takeWay h d else d
  let reads := (x.st ≠ 2 ∧ (t.r.op = 1 ∨ t.r.op = 2 ∨ t.r.op = 8 ∨ (t.r.op = 3 ∧ !(x.st = 1 ∧ inVec vec r)))) ∨
    (x.st ≠ 2 ∧ row.pull ∧ (t.r.op = 5 ∨ t.r.op = 9))
  let d :=
    if reads ∧ !lineValid d la ∧ windowsOf d h = [] ∧ t.fill = none then
      if neverWritten d (la / 64) then fillArrives h (la / 64) {} d else bindRead h d
    else d
  progress h d

/-- Send SnpInv to every bound agent for a line of an uncertain set with no entry (R130). -/
def broadcast (h : Nat) (d : Dev) : Dev :=
  let d := onT h (fun t => { t with phase := .acted, stage := 1 }) d
  let agents := (List.range 64).filter fun a => !(portsOfAgent d a).isEmpty
  agents.foldl (fun d a => snoopAgent h a 3 0 d) d

/-- A request active on its line acts (R119): once its set is readable and its line is not waiting to be marked lost; a dead
owner's line is lost first (R136), and an uncertain set is asked about first (R130). -/
def act (h : Nat) (d : Dev) : Dev :=
  let t := getT d h
  let la := txnLine t
  let s := sfGet d (ownSide d la) (sfSet la)
  if frozen d ∨ t.phase ≠ .active ∨ isBarrier t ∨ lostPending d la ∨ s.pinned then d
  else
    let x := stateOf d la
    if t.kind ≠ .request then
      let d := if x.st = 2 ∧ isDead d x.own.toNat then markLost la x.own.toNat d else d
      if lostPending d la then d else progress h (biAct h d)
    else if x.st = 2 ∧ isDead d x.own.toNat then
      let d := markLost la x.own.toNat d
      if lostPending d la then d else actRow h d
    else if s.uncertain ∧ wayOf d la = none ∧ t.stage = 0 then broadcast h d
    else actRow h d

/-- The broadcast of R130 has been answered: what an owner returned is written, the line is in I, and the request acts. -/
def afterBroadcast (h : Nat) (d : Dev) : Dev :=
  let t := getT d h
  let la := txnLine t
  if frozen d ∨ t.stage ≠ 1 ∨ t.snps ≠ [] then d
  else match t.ownerData with
    | none => act h (onT h (fun t => { t with stage := 2, phase := .active }) d)
    | some v =>
      if !roomFor d (la / 64) then waitT h .dirty d
      else match allocFrame (la / 64) d with
        | none => waitT h .frame d
        | some d =>
          let d := sendUpd 0 { laddr := t.r.laddr, data := some v } (fullWrite la v d)
          act h (onT h (fun t => { t with stage := 2, phase := .active, ownerData := none, wait := .nothing }) d)

/-- Go on with a transaction, whatever it waits for. -/
def advance (h : Nat) (d : Dev) : Dev :=
  if (getT d h).stage = 1 then afterBroadcast h d
  else if (getT d h).phase = .active then act h d else progress h d

/-- The oldest queued transaction of a line, when none is active and its sector is not under back-invalidation (R107, R122). -/
def nextQueued (d : Dev) (la : Nat) : Option Nat :=
  if lineBusy d la then none
  else
    (d.bsn.txns.filter fun e => e.2.phase == .queued && decide (txnLine e.2 = la) && (e.2.kind != .request || !sectorBusy d la)).foldl
      (fun (b : Option Nat) e => match b with
        | none => some e.1
        | some h => if e.2.adm < (getT d h).adm then some e.1 else b) none

/-- The oldest queued request of a line becomes active and acts (R107). -/
def activate (la : Nat) (d : Dev) : Dev :=
  match (if frozen d then none else nextQueued d la) with
  | none => d
  | some h =>
    let n := d.bsn.order
    act h (onBsn (fun b => { b with order := n + 1 }) (onT h (fun t => { t with phase := .active, actAt := n }) d))

end Sys2Proof.Machine
end

