-- ==== Sys2Proof/Machine/Basin.lean ====
section
/-!
DEFINITION. Requests at the home: reception, admission and its checks (R39-R41, R113, R121, R149, R150), activation,
responses (R110-R112, R120, R464), waits that end, and window resolution (R40).
-/
namespace Sys2Proof.Machine

/-! ## Reception -/

/-- A protocol error of a port (R97, R102). -/
def portError (p cause cls agent : Nat) (d : Dev) : Dev :=
  raiseN (96 + 4 * p + 3) (cause + cls * 16 + agent * 256) d

/-- An entry of a class is freed: its credit goes back in the next flit (R95). -/
def giveCredit (p cls : Nat) (d : Dev) : Dev :=
  flushLink p (onLink p (fun l => { l with owed := l.owed.put 0 cls (l.owed.get 0 cls + 1) }) d)

/-- Take one credit of a class from the agent side. -/
def takeCredit (p cls : Nat) (d : Dev) : Dev :=
  onLink p (fun l => { l with rxFree := l.rxFree.put 0 cls (l.rxFree.get 0 cls - 1) }) d

/-- Take a message of a class from an agent on a port: it must be Active, hold a credit and be bound there (R97); where it lacks a
credit and comes from an unbound agent, CREDIT_OVF is the one flag set (log entry 67). RSP, DAT and EVT entries are freed at once
(R96), and so is that of a message discarded for its agent. -/
def received (p cls agent : Nat) (k : Dev → Dev) (d : Dev) : Dev :=
  if getF d (F.FAB_STS_LTSTATE p) ≠ 6 then d
  else if (linkOf d p).rxFree.get 0 cls = 0 then portError p 1 cls agent (setB (F.FAB_ERR_CREDIT_OVF p) true d)
  else if agent ∉ agentsOfPort d p then
    giveCredit p cls (takeCredit p cls (portError p 3 cls agent (setB (F.FAB_ERR_BAD_AGENT p) true d)))
  else if cls = 0 then k d
  else giveCredit p cls (k (takeCredit p cls d))

/-- The agents a Barrier covers, fixed when the home receives it (R149, R150); a malformed one covers nothing (R152). -/
def coveredBy (d : Dev) (p : Nat) (r : Req) : List Nat :=
  if r.op ≠ 10 ∨ r.scope = 3 ∨ r.laddr ≠ 0 then [] else if r.scope = 1 then agentsOfPort d p else [r.agent.toNat]

/-- REQ_RECEIVED: the request enters its port's REQ buffer (R39, R41), drawn for a Gecko tag (R418). -/
def reqReceived (p : Nat) (r : Req) (draw : Nat) (d : Dev) : Dev :=
  received p 0 r.agent.toNat (fun d =>
    let (g, d) := gkTag p r draw (takeCredit p 0 d)
    onBsn (fun b => { b with
      reqs := b.reqs ++ [{ port := p, r := r, order := b.order, gecko := g, covered := coveredBy d p r }],
      order := b.order + 1 }) d) d

/-- REQ_RECEIVED (R39, R105, R418). -/
def execReqReceived (port : Fin 16) (r : Req) (draw : BitVec 24) (s : State) : Host.Outcome State Fault Refusal :=
  runQ (reqReceived port.val r draw.toNat) s

/-- A request with a reserved OP enters its port's REQ buffer like another (R41); its admission completes it with NOACC (R108). -/
def reservedReq (p : Nat) (r : Req) (d : Dev) : Dev :=
  received p 0 r.agent.toNat (fun d =>
    onBsn (fun b => { b with reqs := b.reqs ++ [{ port := p, r := r, order := b.order }], order := b.order + 1 }) (takeCredit p 0 d)) d

/-- RESERVED_REQUEST (R108). -/
def execReservedRequest (port : Fin 16) (r : Req) (s : State) : Host.Outcome State Fault Refusal :=
  runQ (reservedReq port.val r) s

/-! ## Admission -/

/-- Requests that may need a media read (R39). -/
def mayRead (op : Nat) : Bool := op = 1 || op = 2 || op = 3 || op = 8 || op = 9 || op = 5

/-- Requests that WPROT can refuse (R113). -/
def writeClass (op : Nat) : Bool := op = 4 || op = 5 || op = 9 || op = 2 || op = 3

/-- The lowest free request HTAG (R121). -/
def freeTag (d : Dev) : Option Nat := (List.range 0xF00).find? fun h => !hasT d h

/-- Whether an unfinished Barrier received earlier holds a request of an agent (R150). -/
def barrierHolds (d : Dev) (order agent : Nat) : Bool :=
  (d.bsn.reqs.any fun e => decide (e.r.op = 10) && decide (e.order < order) && decide (agent ∈ e.covered))
    || d.bsn.txns.any fun e => isBarrier e.2 && decide (e.2.order < order) && decide (agent ∈ e.2.covered)

/-- Whether an earlier request of the same stream still waits (R41, R144). -/
def streamHolds (d : Dev) (e : ReqEnt) : Bool :=
  d.bsn.reqs.any fun x => decide (x.order < e.order) && decide (x.r.agent = e.r.agent) && decide (x.r.stream = e.r.stream)

/-- Take a request out of its REQ buffer and return its credit (R41). -/
def leaveReqs (e : ReqEnt) (d : Dev) : Dev :=
  stamp e.gecko 1 (giveCredit e.port 0 (onBsn (fun b => { b with reqs := b.reqs.filter fun x => x ≠ e }) d))

/-- Complete a request at its admission, with a status and nothing else (R113). -/
def refuse (e : ReqEnt) (status : BitVec 3) (d : Dev) : Dev :=
  sendCmp e.port e.r.agent e.r.tag status 0 false (leaveReqs e d)

/-- The region of a request's line. -/
def reqRegion (d : Dev) (r : Req) : Option Nat := regionOf d (segOfLeaf (r.laddr.toNat / 64))

/-- Whether an address lies in the MAC window (R286). -/
def inMacWindow (d : Dev) (r : Req) : Bool := decide ((img d).macSeg.map BitVec.toNat = some (segOfLeaf (r.laddr.toNat / 64)))

/-- The Dry part of WPROT (R435, R437): the first refusal on an armed die's index enters Dry. -/
def dryRefuses (r : Req) (d : Dev) : Bool × Dev :=
  if !writeClass r.op.toNat then (false, d)
  else
    let die := dieOfLeaf d (r.laddr.toNat / 64)
    let enters := !d.glb.dry && decide (die ∈ d.spr.armed)
    let d := if enters then raiseN 508 die (setB F.SPR_STS_DRY true (onGlb (fun g => { g with dry := true }) d)) else d
    if d.glb.dry then (true, raiseOnce 510 510 r.agent.toNat (count 0xF00A (addSat F.SPR_WPROT_CNT_COUNT 1 d)))
    else (false, d)

/-- The state a request is admitted in (R243): Degraded before Tadpole. -/
def boundState (d : Dev) : Nat := if alone d then 2 else if d.glb.tadpole then 1 else 0

/-- The case a request is admitted in (R243, R253). -/
def boundCase (d : Dev) (r : Req) (posted : Bool) : Nat :=
  let la := r.laddr.toNat
  let op := r.op.toNat
  let x := stateOf d la
  if op = 4 ∨ op = 5 ∨ op = 9 ∨ op = 6 then (if posted then 6 else 5)
  else if x.st = 2 ∧ x.own ≠ r.agent then 4
  else if x.st = 2 ∨ lineValid d la ∨ !mayRead op then 0
  else if (segOf d (la / 64)).rebuild then 3
  else if mapCached d (la / 64) then 1 else 2

/-- Whether a posted CondWrite succeeds at acceptance (R147): its slot is valid, and no request of another agent ahead on the
line could clear it. -/
def condAtAcceptance (d : Dev) (r : Req) : Bool :=
  reserves d r.agent.toNat r.laddr.toNat && !(d.bsn.txns.any fun e =>
    e.2.kind == .request && e.2.phase != .done && decide (e.2.r.laddr = r.laddr) && decide (e.2.r.agent ≠ r.agent)
      && decide (e.2.r.op.toNat ∈ [4, 5, 9, 6, 2, 3]))

/-- The presence of a request's line as found in the admission tick: whether a read from media is needed (R40). -/
def needsRead (d : Dev) (r : Req) : Bool :=
  let la := r.laddr.toNat
  mayRead r.op.toNat && !lineValid d la && !decide ((stateOf d la).st = 2) && !lineBusy d la && !lineQueued d la && !sectorBusy d la

/-- Enter an admitted request into the tracker (R106, R107): active when its line is free, else queued; a posted write's CMP
is sent at acceptance (R19, R147). -/
def enter (h : Nat) (e : ReqEnt) (d : Dev) : Dev :=
  let la := e.r.laddr.toNat
  let posted := decide ((reqRegion d e.r).map (fun r => getF d (F.GLB_RGN_CTL_ACK r)) = some 1)
    && decide (e.r.op.toNat ∈ [4, 5, 9, 6])
  let cond := condAtAcceptance d e.r
  let d := leaveReqs e d
  let d := if posted && decide (e.r.op = 9) then clearSlot e.r.agent.toNat d else d
  if posted && decide (e.r.op = 9) && !cond then sendCmp e.port e.r.agent e.r.tag 5 0 false d
  else
    let busy := lineBusy d la || lineQueued d la || sectorBusy d la
    let n := d.bsn.order
    let t : Txn := {
      port := e.port, r := e.r, order := e.order, adm := n, actAt := n, phase := if busy then .queued else .active, start := d.glb.tick
      posted := posted, cmpSent := posted, case_ := boundCase d e.r posted, level := dutyLevel d, bstate := boundState d
      gecko := e.gecko, condOk := cond }
    let d := putT h t (onBsn (fun b => { b with order := n + 1 }) d)
    if posted then checkBound t (sendCmp e.port e.r.agent e.r.tag 0 0 false d) else d

/-- Bind the windows a may-read request is admitted with (R39, R246, R432); none when they are not free yet. -/
def admitWindows (d : Dev) (h : Nat) (r : Req) : Option (List Window) :=
  let leaf := r.laddr.toNat / 64
  if !mayRead r.op.toNat then some []
  else if (segOf d leaf).rebuild && !alone d then bindLoose d h leaf false true false
  else if alone d then bindDegraded d h leaf else bindHealthy d h leaf

/-- A read the partner's copy serves starts as a map miss: its map-page presence is the partner's to resolve, and a VOID with
RELEASE says that it was a hit (R40, R243). -/
def caseOfPartner (h : Nat) (ws : List Window) (d : Dev) : Dev :=
  if ws.any fun w => !w.own && w.second then onT h (fun t => { t with case_ := if t.case_ = 1 then 2 else t.case_ }) d else d

/-- A completion entry of the partner's half for a request (R298, R306). -/
def ctabFind (d : Dev) (a : Agent) (t : Tag) : Option CEnt :=
  (d.twn.ctab.find? fun e => e.2.used && decide (e.2.agent = a) && decide (e.2.tag = t)).map fun e => e.2

/-- Whether a reissued request is answered from its completion entry (R306). -/
def answeredBy (d : Dev) (r : Req) (c : CEnt) : Bool :=
  let op := r.op.toNat
  let x := stateOf d r.laddr.toNat
  if op ∈ [4, 5, 9, 6, 7] then true
  else if op ∈ [1, 2, 3] then
    (decide (c.grant = 1) && decide (x.st = 1) && inVec (entryOf d r.laddr.toNat).sharers r.agent.toNat)
      || (decide (c.grant = 2) && decide (x.st = 2) && decide (x.own = r.agent))
  else false

/-- Answer a reissued request from its completion entry: CMP, with DataHome when the entry says so (R306). -/
def answerEntry (h : Nat) (e : ReqEnt) (c : CEnt) (d : Dev) : Dev :=
  let d := leaveReqs e d
  let d := if c.fromHome then sendHome e.port e.r.agent e.r.tag h c.status c.grant (lineNow d e.r.laddr.toNat) d else d
  sendCmp e.port e.r.agent e.r.tag c.status c.grant c.ndat d

/-- A request with its windows and HTAG enters; without its windows it waits (R39, R41). -/
def admitBound (h : Nat) (e : ReqEnt) (d : Dev) : Dev :=
  let ws := admitWindows d h e.r
  if ws.isNone then d
  else
    let needed := needsRead d e.r
    let ws := ws.getD []
    let d := enter h e d
    if needed then bindWindows ws (caseOfPartner h ws d) else onSch (fun s => { s with windows := s.windows ++ ws }) d

/-- The Dry check, the last of WPROT (R435, R437). -/
def admitDry (h : Nat) (e : ReqEnt) (d : Dev) : Dev :=
  let p := dryRefuses e.r d
  if p.1 then refuse e 2 p.2 else admitBound h e p.2

/-- A request for a line the other twin homes (R13). -/
def misrouted (e : ReqEnt) (d : Dev) : Dev := raiseN 160 (e.r.agent.toNat + e.port * 64) (setB F.BSN_ERR_MISROUTE true d)

/-- The checks of R113 on a request in a region. -/
def admitChecked (h rg : Nat) (e : ReqEnt) (d : Dev) : Dev :=
  let r := e.r
  let leaf := r.laddr.toNat / 64
  let atEnd := if writeClass r.op.toNat then nodeAtEnd d leaf else none
  if !isHome d leaf then refuse e 4 (misrouted e d)
  else if !(getPair (F.GLB_RGN_ACC_LO_ACC rg) (F.GLB_RGN_ACC_HI_ACC rg) d).testBit r.agent.toNat then refuse e 3 d
  else if writeClass r.op.toNat && (flag d (F.GLB_RGN_CTL_WP rg) || leafRefused d leaf) then refuse e 2 d
  else if atEnd.isSome then refuse e 2 (raiseN 364 (atEnd.getD 0) d)
  else admitDry h e d

/-- Process a request that has its HTAG (R113, R148). -/
def admitTagged (h : Nat) (e : ReqEnt) (d : Dev) : Dev :=
  let r := e.r
  let rg := reqRegion d r
  if r.op = 10 then
    putT h { port := e.port, r := r, order := e.order, phase := .active, start := d.glb.tick, gecko := e.gecko, covered := e.covered }
      (leaveReqs e d)
  else if rg.isNone then refuse e 4 (if isHome d (r.laddr.toNat / 64) then d else misrouted e d)
  else admitChecked h (rg.getD 0) e d

/-- A request that finds no HTAG waits (R121): event 172, counted once a request. -/
def waitsTag (e : ReqEnt) (d : Dev) : Dev :=
  let mark (x : ReqEnt) : ReqEnt := if x = e then { x with waited := true } else x
  let d := if e.waited then d else count 0x5006 (onBsn (fun b => { b with reqs := b.reqs.map mark }) d)
  raiseOnce 172 172 0 d

/-- A request whose OP or form is reserved (R108). -/
def malformed (r : Req) : Bool := decide (r.op = 0 ∨ 10 < r.op.toNat) || (decide (r.op = 10) && decide (r.scope = 3 ∨ r.laddr ≠ 0))

/-- The checks of R113 in their order, on a request that has its HTAG (R106, R305, R306, R140, R108). -/
def admitWith (h : Nat) (e : ReqEnt) (d : Dev) : Dev :=
  let r := e.r
  let proto (reason : Nat) (d : Dev) : Dev := refuse e 3 (protoError e.port 0 r.op.toNat r.agent.toNat reason d)
  if r.reissue && !flag d F.TWN_STS_REISSUE then proto 8 d
  else
    let c := ((if r.reissue then ctabFind d r.agent r.tag else none).filter fun c => answeredBy d r c)
    match c with
    | some c => answerEntry h e c d
    | none =>
      if r.agent.toNat ∈ d.bsn.departed then proto 6 d
      else if malformed r then proto 1 d
      else admitTagged h e d

/-- Admission of a request of a port (R39, R41, R106, R113, R121, R150): without a free HTAG it waits. -/
def admitReq (e : ReqEnt) (d : Dev) : Dev :=
  let r := e.r
  if !serves d || d.twn.draining || streamHolds d e || barrierHolds d e.order r.agent.toNat then d
  else if r.op ≠ 10 ∧ !malformed r ∧ inMacWindow d r then d
  else match freeTag d with
    | none => waitsTag e d
    | some h => admitWith h e d

/-- The waiting request of an agent's TAG on a port. -/
def reqOf (d : Dev) (p : Nat) (a : Agent) (t : Tag) : Option ReqEnt :=
  d.bsn.reqs.find? fun e => decide (e.port = p) && decide (e.r.agent = a) && decide (e.r.tag = t)

/-- ADMISSION (R39, R113, R121). -/
def execAdmission (port : Fin 16) (agent : Agent) (tag : Tag) (s : State) : Host.Outcome State Fault Refusal :=
  run (fun d => match reqOf d port.val agent tag with | none => d | some e => admitReq e d) s

/-- REISSUED_REQUEST (R305, R306). -/
def execReissuedRequest (port : Fin 16) (agent : Agent) (tag : Tag) (s : State) : Host.Outcome State Fault Refusal :=
  run (fun d => match reqOf d port.val agent tag with
    | none => d
    | some e => if e.r.reissue then admitReq e d else d) s

/-! ## Acting by request type (R119) -/

/-- A request of an OP that is active on its line acts. -/
def actOp (op : Nat) (h : Tag) (d : Dev) : Dev :=
  let t := getT d h.toNat
  if hasT d h.toNat ∧ t.kind = .request ∧ t.r.op.toNat = op then act h.toNat d else d

/-- READSHARED (R119). -/
def execReadShared (htag : Tag) (s : State) : Host.Outcome State Fault Refusal := runQ (actOp 1 htag) s
/-- READOWN (R119). -/
def execReadOwn (htag : Tag) (s : State) : Host.Outcome State Fault Refusal := runQ (actOp 2 htag) s
/-- UPGRADE (R119). -/
def execUpgrade (htag : Tag) (s : State) : Host.Outcome State Fault Refusal := runQ (actOp 3 htag) s
/-- WRITELINE (R119). -/
def execWriteLine (htag : Tag) (s : State) : Host.Outcome State Fault Refusal := runQ (actOp 4 htag) s
/-- WRITEPARTIAL (R119). -/
def execWritePartial (htag : Tag) (s : State) : Host.Outcome State Fault Refusal := runQ (actOp 5 htag) s
/-- WRITEBACK (R119). -/
def execWriteBack (htag : Tag) (s : State) : Host.Outcome State Fault Refusal := runQ (actOp 6 htag) s
/-- EVICTCLEAN (R119). -/
def execEvictClean (htag : Tag) (s : State) : Host.Outcome State Fault Refusal := runQ (actOp 7 htag) s
/-- RESERVEREAD (R119, R153). -/
def execReserveRead (htag : Tag) (s : State) : Host.Outcome State Fault Refusal := runQ (actOp 8 htag) s
/-- CONDWRITE (R119, R147, R153). -/
def execCondWrite (htag : Tag) (s : State) : Host.Outcome State Fault Refusal := runQ (actOp 9 htag) s

/-! ## Barriers -/

/-- Whether every request a Barrier covers has reached its point (R149): ordered, or committed with SYSTEM; with DURABLE each
covered write is committed, and has been within the dirty cap since (R18, R143). -/
def barrierMet (d : Dev) (t : Txn) : Bool :=
  let cov (a : Agent) : Bool := decide (a.toNat ∈ t.covered)
  let waiting := d.bsn.reqs.any fun e => decide (e.order < t.order) && cov e.r.agent
  let unmet := d.bsn.txns.any fun e =>
    let x := e.2
    x.kind == .request && x.phase != .done && decide (x.order < t.order) && cov x.r.agent
      && (isBarrier x || decide (t.r.scope = 2) || (t.r.durable && decide (x.r.op.toNat ∈ [4, 5, 9, 6])))
  let late := t.r.durable && !withinCap d && d.bsn.undur.any fun u => decide (u.2 < t.order) && decide (u.1 ∈ t.covered)
  !waiting && !unmet && !late

/-- Complete a Barrier at the first tick its covered requests allow (R149); during a resilver handover an agent's Barrier
waits for the source to hand over (R313). -/
def barrierTry (h : Nat) (d : Dev) : Dev :=
  let t := getT d h
  if !hasT d h ∨ !isBarrier t ∨ !barrierMet d t then d
  else if d.twn.handoverWait ∧ t.r.scope = 0 then
    onBsn (fun b => { b with barrierRsp := insertNew t.r.agent.toNat b.barrierRsp }) d
  else sendCmp t.port t.r.agent t.r.tag 0 0 false (endT h d)

/-- BARRIER (R119, R149). -/
def execBarrier (htag : Tag) (s : State) : Host.Outcome State Fault Refusal := runQ (barrierTry htag.toNat) s
/-- BARRIER_COMPLETION (R149). -/
def execBarrierCompletion (htag : Tag) (s : State) : Host.Outcome State Fault Refusal := runQ (barrierTry htag.toNat) s

/-! ## Windows (R40, R462) -/

/-- What the windows of a request turn out to be for, one tick after admission (R40, R238). -/
def windowResolution (h : Nat) (d : Dev) : Dev :=
  let t := getT d h
  let la := txnLine t
  match windowsOf d h with
  | [] => d
  | w :: _ =>
    if t.phase = .queued ∨ lineValid d la ∨ (stateOf d la).st = 2 then releaseWindows h d
    else if neverWritten d (la / 64) ∧ w.own then fillArrives h (la / 64) {} (releaseWindows h d)
    else if w.own then resolveOwn h d else d

/-- WINDOW_RESOLUTION (R40). -/
def execWindowResolution (htag : Tag) (s : State) : Host.Outcome State Fault Refusal :=
  runQ (windowResolution htag.toNat) s

/-- Try again to bind a read that has no window (R40, R462). -/
def rebindTry (h : Nat) (d : Dev) : Dev :=
  let t := getT d h
  if !hasT d h then d
  else if t.rebind then rebindRead h t.rbOwn t.rbMap false d
  else if t.needWin then
    (if lineValid d (txnLine t) then progress h (onT h (fun t => { t with needWin := false }) d) else bindRead h d)
  else d

/-- REBIND (R462). -/
def execRebind (htag : Tag) (s : State) : Host.Outcome State Fault Refusal := runQ (rebindTry htag.toNat) s

/-! ## Snoop-filter errors (R130) -/

/-- A set loses a way for good: it runs short, event 168. -/
def setShort (own : Bool) (set : Nat) (d : Dev) : Dev :=
  let s := sfGet d own set
  raiseN 168 set (if s.short then d else addSat F.BSN_SF_SPARE_SHORT 1 (sfPut own set { s with short := true } d))

/-- The spare way takes the retired way's place, or the set runs short. -/
def takeSpare (set : Nat) (d : Dev) : Dev :=
  let s := sfGet d true set
  if s.spareUsed then setShort true set d
  else count 0xF008 (setF F.BSN_SF_SPARE_FREE (getF d F.BSN_SF_SPARE_FREE - 1) (sfPut true set { s with spareUsed := true } d))

/-- Mark a set uncertain (R130). -/
def uncertainSet (set : Nat) (d : Dev) : Dev :=
  let d := takeSpare set d
  let s := sfGet d true set
  let d := sfPut true set { s with pinned := false, uncertain := true } d
  raiseN 169 set (if s.uncertain then d else addSat F.BSN_SF_UNC_SETS 1 d)

/-- An uncorrectable entry (R130): the way is retired and the set pinned until the partner's shadow gives the entry; a twin
alone marks the set uncertain. -/
def sfUncorrectable (set way : Nat) (d : Dev) : Dev :=
  let d := raiseN 167 set (setB F.BSN_ERR_SF_UNCORR true d)
  let s := sfGet d true set
  let ways := s.ways.put {} way { retired := true }
  let d := onGrt (fun g => { g with sfWays := insertNew (set, way) g.sfWays }) (sfPut true set { s with ways := ways, pinned := true } d)
  if alone d then uncertainSet set d
  else
    let q : LReq := { kind := 2, set := set, way := way }
    if 64 ≤ (d.twn.lreqs.filter fun x => x.sent).length then onTwn (fun t => { t with lreqs := t.lreqs ++ [q] }) d
    else mirSend (.lreq 2 0 0 (BitVec.ofNat 16 set) (BitVec.ofNat 5 way))
      (onTwn (fun t => { t with lreqs := t.lreqs ++ [{ q with sent := true }] }) d)

/-- The ECC errors the Basin finds at a read of the filter (R130). -/
def sfErrors (es : List EccErr) (d : Dev) : Dev :=
  es.foldl (fun d e =>
    if e.uncorrectable then sfUncorrectable e.set.toNat e.way.toNat d
    else raiseN 166 e.set.toNat (count 0x5005 d)) d

/-- A read of a whole set (R130): what its ECC finds, and a reserved ST, which is an uncorrectable error (R126). -/
def readSet (set : Nat) (es : List EccErr) (d : Dev) : Dev :=
  let d := sfErrors es d
  forEach (badWays (sfGet d true set)) (fun w d => sfUncorrectable set w d) d

/-- ACTIVATION (R107): the oldest queued request of a line becomes active and acts. `tagOk` is the old line's check at a merge
allocation (R280), `ecc` what the read of the filter finds. -/
def execActivation (laddr : LAddr) (tagOk : Bool) (ecc : List EccErr) (s : State) : Host.Outcome State Fault Refusal :=
  runQ (fun d =>
    let d := readSet (sfSet laddr.toNat) ecc d
    match nextQueued d laddr.toNat with
    | none => d
    | some h => activate laddr.toNat (onT h (fun t => { t with tagBad := !tagOk }) d)) s

/-! ## Responses -/

/-- The response OPs that answer a snoop (R120). -/
def answersSnoop (snoop rsp : BitVec 5) : Bool :=
  if snoop = 1 then rsp = 8 || rsp = 0x0A else if snoop = 2 then rsp = 8 || rsp = 0x0B else rsp = 8 || rsp = 0x0C

/-- Take a snoop off a transaction. -/
def snoopDone (h agent : Nat) (d : Dev) : Dev :=
  onT h (fun t => { t with snps := t.snps.filter fun s => s.agent ≠ agent }) d

/-- The recorded owner has no data for the request (R464, R135): the line is marked lost and the transaction goes on as to a
poisoned line. -/
def ownerGone (h agent : Nat) (d : Dev) : Dev :=
  let la := txnLine (getT d h)
  advance h (markLost la agent (onT h (fun t => { t with lostBy := some agent, recover := false, ownerData := none }) (snoopDone h agent d)))

/-- A snoop response (R110, R112, R120, R464). One whose HOME names the other role names no transaction here (REASON 2): the spec states no
outcome; DataSnp and DataWr carry no HOME that is heeded (log entry 74). -/
def snpRsp (p agent h : Nat) (home : Bool) (op : BitVec 5) (d : Dev) : Dev :=
  received p 2 agent (fun d =>
    let t := getT d h
    if !hasT d h ∨ t.phase = .done ∨ home ≠ roleB d then protoError p 2 op.toNat agent 2 d
    else match t.snps.find? fun s => s.agent = agent with
      | none => protoError p 2 op.toNat agent 3 d
      | some w =>
        if !answersSnoop w.op op ∨ w.rsp.isSome then protoError p 2 op.toNat agent 3 d
        else
          let d := stamp t.gecko 4 d
          if op = 8 then
            if t.st = 2 ∧ t.own = agent ∧ t.stage ≠ 1 then ownerGone h agent (protoError p 2 8 agent 9 d)
            else advance h (snoopDone h agent d)
          else if op = 0x0B then
            if t.gone then snoopAgent h agent 3 0 (onT h (fun t => { t with recover := true }) (snoopDone h agent d))
            else advance h (snoopDone h agent d)
          else
            let d := if op = 0x0C then onT h (fun t => { t with fwd := insertNew agent t.fwd }) d else d
            if w.data then advance h (snoopDone h agent d)
            else onT h (fun t => { t with snps := t.snps.map fun s => if s.agent = agent then { s with rsp := some op } else s }) d) d

/-- SNPRSPI (R110, R464). -/
def execSnpRspI (port : Fin 16) (agent : Agent) (htag : Tag) (home : Bool) (s : State) : Host.Outcome State Fault Refusal :=
  runQ (snpRsp port.val agent.toNat htag.toNat home 8) s
/-- SNPRSPFWDS (R110). -/
def execSnpRspFwdS (port : Fin 16) (agent : Agent) (htag : Tag) (home : Bool) (s : State) : Host.Outcome State Fault Refusal :=
  runQ (snpRsp port.val agent.toNat htag.toNat home 0x0A) s
/-- SNPRSPFWDI (R110). -/
def execSnpRspFwdI (port : Fin 16) (agent : Agent) (htag : Tag) (home : Bool) (s : State) : Host.Outcome State Fault Refusal :=
  runQ (snpRsp port.val agent.toNat htag.toNat home 0x0B) s
/-- SNPRSPIDATA (R110, R300). -/
def execSnpRspIData (port : Fin 16) (agent : Agent) (htag : Tag) (home : Bool) (s : State) : Host.Outcome State Fault Refusal :=
  runQ (snpRsp port.val agent.toNat htag.toNat home 0x0C) s

/-- A DataSnp (R111): the owner's line; one that carries POISON gives no line, and the line is lost (log entry 12). -/
def dataSnp (p agent h : Nat) (poison : Bool) (v : Line) (d : Dev) : Dev :=
  received p 3 agent (fun d =>
    let t := getT d h
    if !hasT d h ∨ t.phase = .done then protoError p 3 4 agent 2 d
    else match t.snps.find? fun s => s.agent = agent with
      | none => protoError p 3 4 agent 3 d
      | some w =>
        if w.data ∨ w.op = 2 then protoError p 3 4 agent 3 d
        else
          let d := stamp t.gecko 4 d
          if poison then ownerGone h agent d
          else
            let d := onT h (fun t => { t with ownerData := some v }) d
            if w.rsp.isSome then advance h (snoopDone h agent d)
            else onT h (fun t => { t with snps := t.snps.map fun s => if s.agent = agent then { s with data := true } else s }) d) d

/-- DATASNP (R111). -/
def execDataSnp (port : Fin 16) (agent : Agent) (htag : Tag) (poison : Bool) (data : Line) (s : State) : Host.Outcome State Fault Refusal :=
  runQ (dataSnp port.val agent.toNat htag.toNat poison data) s

/-- A DataWr (R111, R112): taken only when a WrPull asked its agent for it. -/
def dataWr (p agent h : Nat) (mask : Word64) (v : Line) (tagOk : Bool) (d : Dev) : Dev :=
  received p 3 agent (fun d =>
    let t := getT d h
    if !hasT d h ∨ t.phase = .done then protoError p 3 3 agent 2 d
    else if t.pull = none ∨ t.r.agent.toNat ≠ agent then protoError p 3 3 agent 4 d
    else advance h (onT h (fun t => { t with pull := none, wr := some (mask, v), tagBad := !tagOk }) (stamp t.gecko 4 d))) d

/-- DATAWR (R111). -/
def execDataWr (port : Fin 16) (agent : Agent) (htag : Tag) (bmask : Word64) (data : Line) (tagOk : Bool) (s : State) :
    Host.Outcome State Fault Refusal := runQ (dataWr port.val agent.toNat htag.toNat bmask data tagOk) s

/-- RESERVED_RESPONSE_OP: a response or data message with a reserved OP is discarded (R110, R111). -/
def execReservedResponseOp (port : Fin 16) (agent : Agent) (dat : Bool) (op : BitVec 5) (s : State) : Host.Outcome State Fault Refusal :=
  runQ (fun d => let c := if dat then 3 else 2
    received port.val c agent.toNat (protoError port.val c op.toNat agent.toNat 1) d) s

/-- RESERVED_AGENT_EVT: an agent EVT with a reserved OP is discarded (R112, R133). -/
def execReservedAgentEvt (port : Fin 16) (agent : Agent) (op : BitVec 5) (s : State) : Host.Outcome State Fault Refusal :=
  runQ (received port.val 4 agent.toNat (protoError port.val 4 op.toNat agent.toNat 5)) s

/-! ## Waits that end -/

/-- A transaction that waits for a way tries again (R128). -/
def wayTry (h : Nat) (ecc : List EccErr) (d : Dev) : Dev :=
  let d := readSet (sfSet (txnLine (getT d h))) ecc d
  let d := d.bsn.biQueue.foldl (fun d e => startBi e.1 e.2 d) d
  if (getT d h).wait = .way ∧ !(sfGet d (ownSide d (txnLine (getT d h))) (sfSet (txnLine (getT d h)))).pinned then (let d := takeWay h d; if (getT d h).wait = .way then d else progress h d) else d

/-- WAY_ALLOCATION (R128, R129). -/
def execWayAllocation (x : WayRead) (s : State) : Host.Outcome State Fault Refusal := runQ (wayTry x.htag.toNat x.ecc) s

/-- A transaction that waits for something of a kind tries again. -/
def waitTry (w : WaitFor) (h : Nat) (d : Dev) : Dev :=
  let t := getT d h
  if !hasT d h ∨ t.wait ≠ w then d
  else match t.fill with
    | some f => fillArrives h (txnLine t / 64) f d
    | none => advance h d

/-- FRAME_ALLOCATION (R166). -/
def execFrameAllocation (htag : Tag) (s : State) : Host.Outcome State Fault Refusal := runQ (waitTry .frame htag.toNat) s
/-- DIRTY_ROOM_WAIT_END (R18, R357): an acknowledged write commits, and a waiting one goes on. -/
def execDirtyRoomWaitEnd (htag : Tag) (s : State) : Host.Outcome State Fault Refusal :=
  runQ (fun d => if (getT d htag.toNat).phase = .sent then commitSweep d else waitTry .dirty htag.toNat d) s
/-- CIDX_WAIT_END (R298). -/
def execCidxWaitEnd (htag : Tag) (s : State) : Host.Outcome State Fault Refusal := runQ (waitTry .cidx htag.toNat) s

/-- A line that waits to be marked lost tries again; then its transaction goes on (R137). -/
def lossTry (la : Nat) (d : Dev) : Dev :=
  match d.bsn.lostWait.find? fun e => e.1.toNat = la with
  | none => d
  | some e =>
    let d := markLost la e.2 d
    if lostPending d la then d
    else ((htags d).filter fun h => running (getT d h) && decide (txnLine (getT d h) = la)).foldl (fun d h => advance h d) d

/-- LINE_LOSS_MARK (R137). -/
def execLineLossMark (laddr : LAddr) (s : State) : Host.Outcome State Fault Refusal := runQ (lossTry laddr.toNat) s

/-- An HTAG held out of use for SNP_TMO ticks is freed (R138). -/
def quarantineEnd (h : Nat) (d : Dev) : Dev :=
  let t := getT d h
  if hasT d h ∧ t.phase = .done ∧ t.heldFrom + getF d F.BSN_TMO_SNP_TMO ≤ d.glb.tick then endT h d else d

/-- HTAG_QUARANTINE_END (R138). -/
def execHtagQuarantineEnd (htag : Tag) (s : State) : Host.Outcome State Fault Refusal := runQ (quarantineEnd htag.toNat) s

end Sys2Proof.Machine
end

