-- ==== Sys2Proof/Machine/LoadCheck.lean ====
section
/-!
DEFINITION. The runnel programs as the device checks them at Loading (R46 item 5, R58, R64, R68): the four slots of a bundle
decoded, legal bundles and their costs (R57), the paths through entries and routines, and the worst cost of a tick.
-/
namespace Sys2Proof.Machine

/-! ## Bundles (R57, R58) -/

/-- What the ALU slot of a bundle does to control (R57, R66). -/
inductive Flow where
  | step | branch (t : Nat) | call (t : Nat) | callx | ret | loop (count last : Nat) | exit
  deriving DecidableEq, Repr

/-- A slot of a bundle as the load check sees it: legal, its cycles, what it writes, and its control. -/
structure SlotInfo where
  ok : Bool := true
  cycles : Nat := 1
  writesG : List Nat := []
  writesP : List Nat := []
  flow : Flow := .step
  deriving DecidableEq, Repr

/-- The guard of a slot's word (R56). -/
def wGuard (w : Nat) : Nat := w / 2 ^ 28 % 16
/-- The opcode of a slot's word. -/
def wOp (w : Nat) : Nat := w / 2 ^ 22 % 64
/-- Field d of a slot's word. -/
def wD (w : Nat) : Nat := w / 2 ^ 17 % 32
/-- Field a of a slot's word. -/
def wA (w : Nat) : Nat := w / 2 ^ 12 % 32
/-- Field f of a slot's word. -/
def wF (w : Nat) : Nat := w % 128

/-- The ALU slot. Format B's reserved bits 13:12, and a count other than LOOP's, make it illegal (log entry 72). -/
def aluInfo (w : Nat) : SlotInfo :=
  let plainB := decide (w / 2 ^ 12 % 1024 = 0)
  match wOp w with
  | 0x00 => {}
  | 0x0E => { cycles := 4, writesG := [wD w] }
  | 0x0F => { cycles := 4, writesG := [wD w] }
  | 0x10 => { writesP := [wF w % 8] }
  | 0x11 => { writesP := [wF w % 8] }
  | 0x12 => { writesP := [wF w % 8] }
  | 0x13 => { writesP := [wF w % 8] }
  | 0x14 => { writesP := [wD w % 8] }
  | 0x15 => { ok := decide (wF w % 4 ≠ 3), writesP := [wD w % 8] }
  | 0x16 => { writesG := [wD w] }
  | 0x17 => { cycles := 2, writesG := [wD w] }
  | 0x18 => { cycles := 2, writesG := [wD w] }
  | 0x19 => { ok := plainB, cycles := 2, flow := .branch (w % 4096) }
  | 0x1A => { ok := plainB, cycles := 2, flow := .call (w % 4096) }
  | 0x1B => { cycles := 2, flow := .callx }
  | 0x1C => { cycles := 2, flow := .ret }
  | 0x1D =>
    { ok := decide (w / 2 ^ 12 % 4 = 0) && decide (w / 2 ^ 14 % 256 ≠ 0), flow := .loop (w / 2 ^ 14 % 256) (w % 4096) }
  | 0x1E => { flow := .exit }
  | op => if op ≤ 0x0D then { writesG := [wD w] } else { ok := false }

/-- The MEM slot. -/
def memInfo (w : Nat) : SlotInfo :=
  let even (n : Nat) : Bool := decide (n % 2 = 0)
  match wOp w with
  | 0x00 => {}
  | 0x09 => { ok := even (wD w), cycles := 4, writesG := [wD w, wD w + 1] }
  | 0x0A => { ok := even (wD w), cycles := 3 }
  | 0x0B => { ok := even (wD w), cycles := 3, writesG := [wD w, wD w + 1], writesP := [wF w % 8] }
  | 0x0C => { ok := even (wA w), cycles := 4, writesP := [wD w % 8] }
  | 0x0D => { ok := even (wD w), cycles := 4, writesG := [wD w, wD w + 1], writesP := [wF w % 8] }
  | 0x0E => { writesG := [wD w] }
  | 0x0F => {}
  | op => if op ≤ 4 then { cycles := 3, writesG := [wD w] } else if op ≤ 8 then { cycles := 2 } else { ok := false }

/-- The MEDIA slot. -/
def mediaInfo (w : Nat) : SlotInfo :=
  match wOp w with
  | 0x00 => {}
  | 0x01 => { cycles := 2 }
  | 0x02 => { cycles := 2, writesP := [wF w % 8] }
  | 0x03 => { cycles := 3, writesG := [wD w] }
  | 0x04 => { cycles := 2 }
  | 0x05 => { cycles := 2 }
  | 0x06 => { cycles := 3, writesG := [wD w] }
  | _ => { ok := false }

/-- The XFER slot. -/
def xferInfo (w : Nat) : SlotInfo :=
  match wOp w with
  | 0x00 => {}
  | 0x01 => { cycles := 2, writesP := [wF w % 8] }
  | 0x02 => { cycles := 2, writesG := [wD w] }
  | _ => { ok := false }

/-- The word of a bundle's ALU slot. -/
def aluWord (b : Slot) : Nat := b.toNat / 2 ^ 96

/-- The four slots of a bundle (R57). -/
def bundleSlots (b : Slot) : List SlotInfo :=
  [aluInfo (aluWord b), memInfo (b.toNat / 2 ^ 64 % 2 ^ 32), mediaInfo (b.toNat / 2 ^ 32 % 2 ^ 32), xferInfo (b.toNat % 2 ^ 32)]

/-- Whether a bundle is legal (R58): no reserved opcode or illegal form, no two writers of one register or predicate. -/
def bundleLegal (b : Slot) : Bool :=
  let ss := bundleSlots b
  (ss.all fun s => s.ok) && decide (ss.flatMap SlotInfo.writesG).Nodup && decide (ss.flatMap SlotInfo.writesP).Nodup

/-- Whether a bundle holds a MEDIA operation other than NOP. -/
def holdsMedia (b : Slot) : Bool := decide (wOp (b.toNat / 2 ^ 32 % 2 ^ 32) ≠ 0)

/-- The cost of a bundle: the largest cycle count of its four slots (R57). -/
def bundleCost (b : Slot) : Nat := ((bundleSlots b).map SlotInfo.cycles).foldl max 1

/-- The instruction SRAM that a runnel section fills (R54). -/
def bundlesOf (s : RunnelSect) : SMap Slot := s.bundles.foldl (fun m e => m.put 0 e.1 e.2) []

/-! ## Paths (R66, R68) -/

/-- How the paths from a bundle leave the code being walked, each with its worst cost: by RET, by TEXIT, at the end of the loop
body, by a branch out of the body (with its target). -/
structure Ways where
  ret : Option Nat := none
  exit : Option Nat := none
  fin : Option Nat := none
  leave : List (Nat × Nat) := []
  deriving DecidableEq, Repr

/-- The larger of two costs. -/
def worse : Option Nat → Option Nat → Option Nat
  | none, b => b
  | a, none => a
  | some a, some b => some (max a b)

/-- The ways of two sets of paths. -/
def Ways.join (a b : Ways) : Ways := ⟨worse a.ret b.ret, worse a.exit b.exit, worse a.fin b.fin, a.leave ++ b.leave⟩

/-- The ways, after `n` cycles more. -/
def Ways.after (n : Nat) (w : Ways) : Ways :=
  ⟨w.ret.map (n + ·), w.exit.map (n + ·), w.fin.map (n + ·), w.leave.map fun e => (e.1, e.2 + n)⟩

/-- Join the ways of paths that must all be good. -/
def joinAll : List (Option Ways) → Option Ways
  | [] => some {}
  | w :: rest => match w, joinAll rest with
    | some a, some b => some (a.join b)
    | _, _ => none

/-- Whether a loop body holds a CALLX: the dispatch body of an entry (R68 item 5). -/
def dispatches (prog : SMap Slot) (first last : Nat) : Bool :=
  (List.range (last + 1 - first)).any fun k => decide ((aluInfo (aluWord (prog.get 0 (first + k)))).flow = .callx)

/-- Walk every path from a bundle at a call and loop depth, in a loop body or outside one (R66, R68 items 2 and 3); none where a
path breaks a rule or does not end. A CALL counts its routine; a CALLX the worst declared routine, but none in the dispatch
body of an entry walked for `ev` due events, which is passed once for each of them and once more until it branches out. -/
def walkPaths (prog : SMap Slot) (routines : List Nat) (ev : Option Nat) :
    Nat → Nat → Nat → Option (Nat × Nat) → Nat → Option Ways
  | 0, _, _, _, _ => none
  | fuel + 1, calls, loops, body, pc =>
    if body.any fun b => decide (pc = b.2 + 1) then some { fin := some 0 }
    else if 4096 ≤ pc then none
    else
      let b := prog.get 0 pc
      let next (t : Nat) : Option Ways := walkPaths prog routines ev fuel calls loops body t
      let called (t : Nat) : Option Nat :=
        if 8 ≤ calls then none
        else match walkPaths prog routines ev fuel (calls + 1) loops none t with
          | some ⟨some c, none, none, []⟩ => some c
          | _ => none
      let a := aluInfo (aluWord b)
      let skips := decide (wGuard (aluWord b) ≠ 0)
      let runs := decide (wGuard (aluWord b) ≠ 8)
      let taken : Option Ways := match a.flow with
        | .step => next (pc + 1)
        | .branch t =>
          if body.any fun r => decide (t < r.1) || decide (r.2 < t) then some { leave := [(t, 0)] } else next t
        | .call t => (match called t, next (pc + 1) with
          | some c, some w => some (w.after c)
          | _, _ => none)
        | .callx =>
          if ev.isSome && decide (calls = 0) && body.isSome then next (pc + 1)
          else (match (routines.map called).foldl (fun (m : Option (Option Nat)) c => match m, c with
              | some m, some c => some (worse m (some c))
              | _, _ => none) (some none), next (pc + 1) with
            | some (some c), some w => some (w.after c)
            | _, _ => none)
        | .ret => if body.isSome then none else some { ret := some 0 }
        | .loop n last =>
          if 2 ≤ loops then none
          else match walkPaths prog routines ev fuel calls (loops + 1) (some (pc + 1, last)) (pc + 1) with
            | some ⟨none, none, fin, leave⟩ =>
              let disp := ev.isSome && decide (calls = 0) && dispatches prog (pc + 1) last
              let count := if disp then ev.getD 0 else n
              let through (k : Nat) : Nat := match fin with | none => 0 | some c => k * (c + 1)
              let ends : List (Option Ways) := match fin with
                | none => []
                | some _ => if count = 0 then [] else [(next (last + 1)).map fun w => w.after (through count - 1)]
              let outs := leave.map fun e => (next e.1).map fun w => w.after (through (if disp then count else count - 1) + e.2)
              joinAll (ends ++ outs)
            | _ => none
        | .exit => if calls ≠ 0 ∨ body.isSome then none else some { exit := some 0 }
      (joinAll [if runs || decide (a.flow = .step) then taken else some {},
        if skips && decide (a.flow ≠ .step) then next (pc + 1) else some {}]).map fun w => w.after (bundleCost b)

/-- Steps enough for every path of a program that ends: 4,096 bundles, at 9 depths of call and 3 of loop. -/
def walkFuel : Nat := 2 ^ 17

/-- WC of a routine that the dispatch body calls (R68 item 4); none when a path does not end in RET. -/
def routineWc (prog : SMap Slot) (routines : List Nat) (r : Nat) : Option Nat :=
  match walkPaths prog routines none walkFuel 1 1 none r with
  | some ⟨some c, none, none, []⟩ => some c
  | _ => none

/-- The worst cost of an entry (R68 items 3, 5 and 6); none when a path does not reach exactly one TEXIT. -/
def entryWc (prog : SMap Slot) (routines : List Nat) (ev : Option Nat) (entry : Nat) : Option Nat :=
  match walkPaths prog routines ev walkFuel 0 0 none entry with
  | some ⟨none, some c, none, []⟩ => some c
  | _ => none

/-! ## The tick cost (R64, R68) -/

/-- The runnel whose table an entry stands in. -/
def slotOwner (e : SlotEntry) : Nat := if e.kind.toNat = 0x0A then e.owner else e.die.toNat / 64

/-- The declared routine entries of a runnel (R58, R66). -/
def declared (n : Nat) (s : RunnelSect) : List (BitVec 12) := (if n < 32 then [s.demand] else []) ++ s.slotEnd :: s.routines

/-- Ticks in an image's phase cycle (R27). -/
def imgCycle (i : Image) : Nat := 2 * 2 ^ i.phaseSf.toNat * 2048

/-- Whether a channel has a DEMAND window at a tick of the phase cycle at a level (R36, R37). -/
def imgWindowAt (i : Image) (ch level t : Nat) : Bool :=
  let p := imgPeriod i ch
  decide (ch < i.nch) && decide (t % p = 0) && decide (t / p / 2 % (i.divs[level]?).getD 1 = 0)

/-- The routines of the events due on a runnel at a tick and level, with a demand issue for each channel that has a window (R64). -/
def dueRoutines (i : Image) (n : Nat) (s : RunnelSect) (level t : Nat) : List Nat :=
  let mine := i.slots.filter fun e => decide (slotOwner e = n)
  let demands := (List.range 2).filter fun b => decide (n < 32) && imgWindowAt i (2 * n + b) level t
  let ends := mine.filter fun e => decide ((e.start.toNat + e.length.toNat - 1) % imgCycle i = t)
  let starts := mine.filter fun e => decide (e.start.toNat % imgCycle i = t) && decide (level ≤ e.lmax.toNat)
  (demands.map fun _ => s.demand.toNat) ++ (ends.map fun _ => s.slotEnd.toNat) ++ starts.map fun e => e.arg.toNat

/-- The cost of a tick (R68 item 5): the epoch entry with its dispatch body once per event due, and each event's routine. More
than 32 events in one tick fail (R64). -/
def tickCost (i : Image) (n : Nat) (s : RunnelSect) (level t : Nat) : Option Nat :=
  let prog := bundlesOf s
  let rs := (declared n s).map BitVec.toNat
  let due := dueRoutines i n s level t
  if 32 < due.length then none
  else due.foldl (fun (c : Option Nat) r => match c, routineWc prog rs r with
    | some a, some b => some (a + b)
    | _, _ => none) (entryWc prog rs (some due.length) s.epoch.toNat)

/-- The ticks of the phase cycle at which a runnel's cost can be largest: those at which one of its entries starts or ends, and tick
0, a window's issue tick at every level; at any other tick no more is due than at tick 0. -/
def costlyTicks (i : Image) (n : Nat) : List Nat :=
  0 :: (i.slots.filter fun e => decide (slotOwner e = n)).flatMap fun e =>
    [e.start.toNat % imgCycle i, (e.start.toNat + e.length.toNat - 1) % imgCycle i]

/-- The largest tick cost of a runnel, which SCH_WC_n reports (R68 item 5); none where a tick fails. -/
def runnelWc (i : Image) (n : Nat) (s : RunnelSect) : Option Nat :=
  (List.range 16).foldl (fun m level => (costlyTicks i n).foldl (fun (m : Option Nat) t => match m, tickCost i n s level t with
    | some a, some b => some (max a b)
    | _, _ => none) m) (some 0)

/-- The load check of one runnel program (R68). The restart and cold routines begin at cycle 0 of a tick (R70, R72), so they are
checked as entries are (log entry 72). -/
def runnelOk (i : Image) (n : Nat) (s : RunnelSect) : Bool :=
  let prog := bundlesOf s
  let rs := (declared n s).map BitVec.toNat
  (s.bundles.all fun e => decide (e.1 < 4096) && bundleLegal e.2 && (decide (n < 32) || !holdsMedia e.2))
    && (rs.all fun r => (routineWc prog rs r).isSome)
    && (entryWc prog rs none s.restart.toNat).isSome && (entryWc prog rs none s.cold.toNat).isSome
    && (match entryWc prog rs none s.recovery.toNat with | none => false | some c => decide (c ≤ 1900))
    && (match runnelWc i n s with | none => false | some c => decide (c ≤ 1900))

end Sys2Proof.Machine
end

