-- ==== Sys2Proof/Machine/Skink.lean ====
section
/-!
DEFINITION. Dead agents (R132-R139), departing agents (R140), and the walks over the snoop filter (R136).
-/
namespace Sys2Proof.Machine

/-- Unbind an agent from its port (R134). -/
def unbindAgent (a : Nat) (d : Dev) : Dev :=
  (portsOfAgent d a).foldl (fun d p =>
    let v := getPair (F.FAB_AGT_LO_BOUND p) (F.FAB_AGT_HI_BOUND p) d
    setPair (F.FAB_AGT_LO_BOUND p) (F.FAB_AGT_HI_BOUND p) (v - 2 ^ a) d) d

/-- Zeroise a MAC page (R290). -/
def zeroMac (page : Nat) (d : Dev) : Dev := onSlu (fun s => { s with pages := s.pages.erase page }) d

/-- Set or clear an agent's dead mark. -/
def markDead (a : Nat) (dead : Bool) (d : Dev) : Dev :=
  let v := getPair F.BSN_DEAD_LO_DEAD F.BSN_DEAD_HI_DEAD d
  setPair F.BSN_DEAD_LO_DEAD F.BSN_DEAD_HI_DEAD (if dead then v ||| 2 ^ a else if v.testBit a then v - 2 ^ a else v) d

/-- Show a walk in BSN_SKINK_STS when it is the most recent (R141). -/
def showWalk (w : Walk) (d : Dev) : Dev :=
  let d := setB F.BSN_SKINK_STS_BUSY (d.bsn.walks.any fun x => !x.ended) d
  if (d.bsn.walks.getLast?.map fun x => x.agent) ≠ some w.agent then d else
  let d := setF F.BSN_SKINK_STS_AGENT w.agent (setF F.BSN_SKINK_STS_CAUSE w.cause d)
  setF F.BSN_SKINK_STS_SET w.set (setB F.BSN_SKINK_STS_DEPART w.depart d)

/-- Start a walk for an agent; its earlier ended walk gives way (R136, R140). -/
def startWalk (w : Walk) (d : Dev) : Dev :=
  showWalk w (onBsn (fun b => { b with walks := (b.walks.filter fun x => x.agent ≠ w.agent) ++ [w] }) d)

/-- The records that put a line's state back with its sharers, two to a record (R296). -/
def updPairs (r : UpdRec) : List Nat → List UpdRec
  | a :: b :: c :: rest => { r with add1 := BitVec.ofNat 7 a, add2 := BitVec.ofNat 7 b } :: updPairs r (c :: rest)
  | [a, b] => [{ r with add1 := BitVec.ofNat 7 a, add2 := BitVec.ofNat 7 b }]
  | [a] => [{ r with add1 := BitVec.ofNat 7 a }]
  | [] => [r]

/-- The part an agent has as requester in a transaction, at its declaration point (R135). -/
def cutRequester (h : Nat) (d : Dev) : Dev :=
  let t := getT d h
  let la := txnLine t
  let drop (d : Dev) : Dev := dropTag t.gecko (endT h (releaseWindows h d))
  let op := t.r.op.toNat
  match t.phase with
  | .done => d
  | .queued | .active => drop d
  | .acted =>
    if isBarrier t then drop d
    else if op = 6 ∧ t.wr = none ∧ t.pull.isSome then
      let d := markLost la t.r.agent.toNat (onT h (fun t => { t with noCmp := true, pull := none, noWrite := true }) d)
      advance h d
    else if (op = 4 ∨ op = 5 ∨ op = 9) ∧ t.wr = none then
      advance h (onT h (fun t => { t with noCmp := true, pull := none, noWrite := true }) d)
    else if op = 1 ∨ op = 2 ∨ op = 3 ∨ op = 8 then
      let d := onT h (fun t => { t with noCmp := true, gone := true }) d
      let forwarded := decide (t.st = 2) && decide (t.own ≠ t.r.agent.toNat) && (op = 2 || op = 3) && t.snps == []
      if forwarded && !t.recover then
        (if isDead d t.own then ownerGone h t.own d else snoopAgent h t.own 3 0 (onT h (fun t => { t with recover := true }) d))
      else advance h d
    else onT h (fun t => { t with noCmp := true }) d
  | .sent =>
    let d := onT h (fun t => { t with noCmp := true, gone := true }) d
    if (op = 2 ∨ op = 3) ∧ t.grant = 2 ∧ !t.acked then
      if t.st = 2 then
        let d := enterRecord la { st := 2, own := BitVec.ofNat 6 t.own } [] d
        let d := onT h (fun t => { t with phase := .acted, recover := true, cidx := none, seq := none }) d
        if isDead d t.own then ownerGone h t.own d else snoopAgent h t.own 3 0 d
      else
        let back := if t.st = 1 then bitList 64 t.oldVec.toNat else []
        let d := enterRecord la { st := t.st } back d
        let recs := updPairs { laddr := t.r.laddr, st := t.st, way := BitVec.ofNat 5 ((wayOf d la).getD 0) } back
        mirSendFor (h + 1) (.upd recs) (onT h (fun t => { t with grant := 0, seq := none }) d)
    else d

/-- The part an agent has as snooped agent in a transaction, at its declaration point (R135). -/
def cutSnooped (h a : Nat) (d : Dev) : Dev :=
  let t := getT d h
  match t.snps.find? fun s => s.agent = a with
  | none => d
  | some w =>
    if t.st = 2 ∧ t.own = a ∧ t.stage ≠ 1 then
      let d := onT h (fun t => { t with quar := decide (w.op = 1) || decide (w.op = 2) }) d
      ownerGone h a d
    else advance h (snoopDone h a d)

/-- The declaration point of an agent (R134, R135): unbound, marked, its snoops not yet sent dropped, its requests removed, its
transactions cut, its reservation and MAC page cleared, the partner told, event 162, and the walk started. -/
def declareDead (a cause : Nat) (d : Dev) : Dev :=
  if isDead d a then d
  else
    let wasDepart := d.bsn.walks.any fun w => decide (w.agent = a) && w.depart && !w.ended
    let d := (portsOfAgent d a).foldl (fun d p => onLink p (fun l => { l with
      wait := l.wait.filter fun m => match m with | .snp _ x _ _ _ _ _ _ => decide (x.toNat ≠ a) | _ => true }) d) d
    let d := (d.bsn.reqs.filter fun e => decide (e.r.agent.toNat = a)).foldl (fun d e => dropTag e.gecko (giveCredit e.port 0
      (onBsn (fun b => { b with reqs := b.reqs.filter fun x => x ≠ e }) d))) d
    let d := markDead a true (unbindAgent a d)
    let d := zeroMac a (clearSlot a d)
    let d := onBsn (fun b => { b with departed := b.departed.filter fun x => x ≠ a }) d
    let d := if cause = 6 ∨ !mirrors d then d else mirSend (.decl (BitVec.ofNat 6 a) (BitVec.ofNat 4 cause) 0) d
    let d := raiseN 162 (a + cause * 64) d
    let d := if wasDepart then
        let go (w : Walk) : Walk := if w.agent = a then { w with depart := false, cause := cause } else w
        onBsn (fun b => { b with walks := b.walks.map go }) d
      else startWalk { agent := a, cause := cause } d
    let d := (htags d).foldl (fun d h =>
      let t := getT d h
      if t.kind = .request ∧ t.r.agent.toNat = a then cutRequester h d else d) d
    (htags d).foldl (fun d h => cutSnooped h a d) d

/-- SNOOP_TIMEOUT (R132): a snoop unanswered for SNP_TMO unstopped ticks. -/
def execSnoopTimeout (htag : Tag) (agent : Agent) (s : State) : Host.Outcome State Fault Refusal :=
  runQ (fun d =>
    match (getT d htag.toNat).snps.find? fun w => w.agent = agent.toNat with
    | none => d
    | some w =>
      if w.waited < getF d F.BSN_TMO_SNP_TMO then d
      else declareDead agent.toNat 2 (raiseN 170 agent.toNat (setB F.BSN_ERR_SNP_TMO true d))) s

/-- PULL_TIMEOUT (R132): a WrPull unanswered for PULL_TMO unstopped ticks. -/
def execPullTimeout (htag : Tag) (s : State) : Host.Outcome State Fault Refusal :=
  runQ (fun d =>
    let t := getT d htag.toNat
    if t.pull = none ∨ t.pullWait < getF d F.BSN_TMO_PULL_TMO then d
    else declareDead t.r.agent.toNat 3 (raiseN 171 t.r.agent.toNat (setB F.BSN_ERR_PULL_TMO true d))) s

/-- DOWN (R133): an agent bound to the same port has failed. -/
def execDown (port : Fin 16) (agent target : Agent) (s : State) : Host.Outcome State Fault Refusal :=
  runQ (received port.val 4 agent.toNat fun d =>
    if target.toNat ∈ agentsOfPort d port.val then declareDead target.toNat 4 d
    else protoError port.val 4 2 agent.toNat 7 d) s

/-- Whether a service port holds the lock. -/
def holdsLock (d : Dev) (p : Nat) : Bool := decide (getF d F.SVC_LOCK_OWNER = p + 1)

/-- BSN_AGENT_CMD DECLARE, from the port that holds the lock (R132, R141). -/
def declareCmd (p a : Nat) (d : Dev) : Dev := if holdsLock d p then declareDead a 5 d else d

/-- DECLARE (R132). -/
def execDeclare (p : SPort) (agent : Agent) (s : State) : Host.Outcome State Fault Refusal :=
  runQ (viaPort p.val (declareCmd p.val agent.toNat)) s

/-- Whether every walk for an agent has ended here. -/
def walkEnded (d : Dev) (a : Nat) : Bool := !(d.bsn.walks.any fun w => decide (w.agent = a) && !w.ended)

/-- BSN_AGENT_CMD CLEAR (R139): accepted once this twin's walk, and in the pair the partner's, has ended. -/
def clearCmd (p a : Nat) (d : Dev) : Dev :=
  if !holdsLock d p ∨ !isDead d a then d
  else if walkEnded d a && (alone d || decide (a ∈ d.bsn.partnerWalk)) then
    let d := markDead a false (onBsn (fun b => { b with partnerWalk := b.partnerWalk.filter fun x => x ≠ a }) d)
    if mirrors d then mirSend (.decl (BitVec.ofNat 6 a) 0 2) d else d
  else setB F.BSN_ERR_CMD_REFUSED true d

/-- CLEAR (R139). -/
def execClear (p : SPort) (agent : Agent) (s : State) : Host.Outcome State Fault Refusal :=
  runQ (viaPort p.val (clearCmd p.val agent.toNat)) s

/-- DEPART starts a walk that loses nothing (R133, R140); the agent's reservation and MAC page are cleared (R154, R290). -/
def departCmd (p a : Nat) (d : Dev) : Dev :=
  received p 4 a (fun d =>
    if a ∈ d.bsn.departed then d
    else startWalk { agent := a, depart := true } (zeroMac a (clearSlot a
      (onBsn (fun b => { b with departed := b.departed ++ [a] }) d)))) d

/-- DEPART (R140). -/
def execDepart (port : Fin 16) (agent : Agent) (s : State) : Host.Outcome State Fault Refusal :=
  runQ (departCmd port.val agent.toNat) s

/-! ## The walk -/

/-- What a walk does in one way of a set (R136, R140): the agent leaves the sharers, and each line it owns is lost, or for a
departing agent back-invalidated. -/
def walkWay (own : Bool) (w : Walk) (set way : Nat) (d : Dev) : Dev :=
  let e := (sfGet d own set).ways.get {} way
  if !e.v then d
  else
    let owned := (e.lines.filter fun x => decide (x.2.st = 2) && decide (x.2.own.toNat = w.agent)).map fun x => sectorOf set e * 16 + x.1
    let clear (e : SfWay) : SfWay :=
      let v := dropVec e.sharers w.agent
      let lines := if v = 0 then e.lines.filter fun x => x.2.st ≠ 1 else e.lines
      if inVec e.sharers w.agent then tidyWay { e with sharers := v, lines := lines } else e
    let d := onWay own set way clear d
    owned.foldl (fun d la =>
      if w.depart then (if d.bsn.txns.any fun x => x.2.kind == .backInv && decide (txnLine x.2 = la) then d else startBi la (w.agent + 1) d)
      else if d.bsn.txns.any fun x => (x.2.phase == .active || (x.2.phase == .acted && !(x.2.kind == .request
          && decide (x.2.r.agent.toNat = w.agent) && decide (x.2.r.op.toNat ∈ [1, 2, 3, 8])))) && decide (txnLine x.2 = la) then d
      else markLost la w.agent d) d

/-- Whether an agent still owns a line in a set that waits to be marked lost: the walk holds there (R136). -/
def setHeld (d : Dev) (own : Bool) (w : Walk) (set : Nat) : Bool :=
  !w.depart && (sfGet d own set).ways.any fun e =>
    e.2.lines.any fun x => decide (x.2.st = 2) && decide (x.2.own.toNat = w.agent) && lostPending d (sectorOf set e.2 * 16 + x.1)

/-- What a walk does in one set, up to an entry that holds it (R136). -/
def walkSet (own : Bool) (w : Walk) (set : Nat) (d : Dev) : Dev :=
  (sfGet d own set).ways.foldl (fun d e => if setHeld d own w set then d else walkWay own w set e.1 d) d

/-- Back-invalidations a departing agent's walk still waits for. -/
def walkBi (d : Dev) (a : Nat) : Bool :=
  (d.bsn.txns.any fun e => e.2.kind == .backInv && decide (e.2.walk = some a)) || d.bsn.biQueue.any fun e => decide (e.2 = a + 1)

/-- The end of a walk (R140, R142): event 165 to a departing agent, which is unbound; else event 163 and the partner told. -/
def walkEnds (w : Walk) (d : Dev) : Dev :=
  let set (x : Walk) (d : Dev) : Dev := onBsn (fun b => { b with walks := b.walks.map fun y => if y.agent = w.agent then x else y }) d
  if w.depart then
    let p := (portsOfAgent d w.agent).headD 0
    let d := pump p (evtQueueFirst p (.evt 1 (BitVec.ofNat 6 w.agent) 165 (roleB d) (BitVec.ofNat 40 d.glb.tick)
      (BitVec.ofNat 32 w.agent)) d)
    let d := raiseN 165 w.agent (unbindAgent w.agent d)
    showWalk { w with ended := true } (set { w with ended := true }
      (onBsn (fun b => { b with departed := b.departed.filter fun x => x ≠ w.agent }) d))
  else
    let d := raiseN 163 (w.agent + w.lost * 64) (set { w with ended := true } d)
    let d := showWalk { w with ended := true } d
    if mirrors d then mirSend (.decl (BitVec.ofNat 6 w.agent) (BitVec.ofNat 4 w.cause) 1) d else d

/-- The sets, among the next eight, a walk reads before one holds it. -/
def walkSets : Nat → Bool → Walk → Nat → Dev → Nat × Dev
  | 0, _, _, set, d => (set, d)
  | n + 1, both, w, set, d =>
    if 65536 ≤ set then (set, d)
    else
      let d := walkSet true w set d
      let d := if both then walkSet false w set d else d
      if setHeld d true w set || (both && setHeld d false w set) then (set, d) else walkSets n both w (set + 1) d

/-- One tick of a walk: eight sets of the filter, and after a takeover of the shadow as well (R136, R304). -/
def walkTick (w : Walk) (d : Dev) : Dev :=
  let (set, d) := walkSets 8 (alone d) w w.set d
  let w' := ((d.bsn.walks.find? fun x => x.agent = w.agent).getD w)
  let w' := { w' with set := set }
  let d := onBsn (fun b => { b with walks := b.walks.map fun x => if x.agent = w.agent then w' else x }) d
  let d := showWalk { w' with set := set % 65536 } d
  if 65536 ≤ set ∧ !(w.depart && walkBi d w.agent) then walkEnds w' d else d

/-- SKINK_WALK_STEP (R136). -/
def execSkinkWalkStep (ecc : List EccErr) (s : State) : Host.Outcome State Fault Refusal :=
  runQ (fun d =>
    let d := sfErrors ecc d
    let d := (d.bsn.walks.filter fun w => !w.ended).foldl (fun d w =>
      forEach ((List.range 8).map fun i => w.set + i) (fun set d => readSet set [] d) d) d
    (d.bsn.walks.filter fun w => !w.ended).foldl (fun d w => walkTick w d) d) s

end Sys2Proof.Machine
end

