-- ==== Sys2Proof/Machine/Pair.lean ====
section
/-!
DEFINITION. What twin operations share: applying the state stream (R297, R298), takeover (R304), the decision of the
handshake (R310, R311), the resilver (R312, R313), and what the mirror-link unit does at a tick (R301, R302).
-/
namespace Sys2Proof.Machine

/-- Whether the mirror link carries messages; in Withdrawn the device answers nothing there (R5). -/
def mirUp (d : Dev) : Bool :=
  let l := getF d F.TWN_STS_LINK
  decide (d.glb.base ≠ .withdrawn) && (decide (l = 2) || decide (l = 3))

/-- Take a mirror message of a class: it is counted and its SEQ passes (R267, R297). -/
def mirRecv (cls : Nat) (k : Nat → Dev → Dev) (d : Dev) : Dev :=
  if !mirUp d then d
  else
    let n := d.twn.rxSeq
    k n (whenD (cls ≤ 12) (count (0xA00C + cls - 1)) (onTwn (fun t => { t with rxSeq := n + 1 }) d))

/-! ## Applying the state stream -/

/-- Make a completion entry at the next free CIDX in ring order (R298). -/
def ctabTake (e : CEnt) (d : Dev) : Dev :=
  match nextCidx ((d.twn.ctab.filter fun x => x.2.used).map fun x => x.1) 32768 d.twn.cnext with
  | none => d
  | some c => count 0xA01B (onTwn (fun t => { t with ctab := t.ctab.put {} c { e with used := true }, cnext := (c + 1) % 32768 }) d)

/-- A record's state in the directory of its line's half (R127, R297): a way written with the sector's tag first. -/
def applyState (r : UpdRec) (d : Dev) : Dev :=
  let la := r.laddr.toNat
  let own := ownSide d la
  let set := sfSet la
  let adds := ([r.add1, r.add2].filter fun a => a.toNat < 64).map BitVec.toNat
  let fresh (e : SfWay) : SfWay := { e with v := true, tag := BitVec.ofNat 26 (sfTag la), sharers := 0, lines := [] }
  let d := if r.alloc ∧ wayOf d la = none then onWay own set r.way.toNat fresh d else d
  enterRecord la ⟨r.st, r.own⟩ adds d

/-- A record's data and poison in the leaf cache, as dirty (R297). None while the dirty cap or the frames have no room. -/
def applyData (r : UpdRec) (d : Dev) : Option Dev :=
  let la := r.laddr.toNat
  if r.data.isNone && !r.poison then some d
  else if !roomFor d (la / 64) then none
  else match allocFrame (la / 64) d with
    | none => none
    | some d =>
      let d := countLeaf (la / 64) d
      let d := (match r.data with | none => d | some v => fullWrite la v d)
      some (if r.poison then poisonLine la d else d)

/-- Apply one record (R297). -/
def applyRec (r : UpdRec) (d : Dev) : Option Dev :=
  match applyData r d with
  | none => none
  | some d =>
    let d := applyState r (if r.grant = 2 then countLeaf (r.laddr.toNat / 64) d else d)
    some (if r.crec then ctabTake {
      agent := r.agent, tag := r.tag, laddr := r.laddr, op := r.op, status := r.status, grant := r.grant, ndat := r.ndat,
      fromHome := r.fromHome } d else d)

/-- Apply records in order; the list left waits for room. -/
def applyRecs : List UpdRec → Dev → List UpdRec × Dev
  | [], d => ([], d)
  | r :: rest, d => match applyRec r d with
    | none => (r :: rest, d)
    | some d => applyRecs rest d

/-- A line of a WMIR as a record: a committed write, ST I, STATUS OK, no grant, CREC 1 (R296). -/
def wmirRec (leaf : BitVec 40) (l : WmirLine) : UpdRec :=
  { laddr := BitVec.ofNat 46 (leaf.toNat * 64 + l.line.toNat), data := some l.data, crec := true, agent := l.agent, tag := l.tag, op := 4 }

/-- The entry of a way that answers an LREQ (R130, R299). -/
def answerWay (own : Bool) (set way : Nat) (d : Dev) : Dev :=
  mirSend (.sfway (BitVec.ofNat 16 set) (BitVec.ofNat 5 way) (wayBits ((sfGet d own set).ways.get {} way))) d

/-- The shadow's entry of a way the partner has retired moves to the spare way, as the partner's own does (R130 step 3, R299). -/
def shadowMove (set way : Nat) (d : Dev) : Dev :=
  let s := sfGet d false set
  if 16 ≤ way ∨ s.spareUsed ∨ (s.ways.get {} 16).v then d
  else sfPut false set { s with spareUsed := true, ways := (s.ways.put {} 16 (s.ways.get {} way)).put {} way {} } d

/-- A leaf as this twin's copy gives it: each line from the leaf cache where it is valid there, else from media (R16, R280). -/
def leafOut (d : Dev) (leaf : Nat) : List Line × Word64 :=
  let m := mediaLeaf d leaf
  let val (i : Nat) : Line := if lineValid d (leaf * 64 + i) then lineNow d (leaf * 64 + i) else m.1.getD i 0
  let bad (i : Nat) : Bool := if lineValid d (leaf * 64 + i) then (lineOf d (leaf * 64 + i)).poison else m.2.getLsbD i
  ((List.range 64).map val, BitVec.ofNat 64 ((List.range 64).foldl (fun a i => if bad i then a + 2 ^ i else a) 0))

/-- Send a leaf to the partner with a use code (R295). -/
def sendLeaf (leaf use : Nat) (d : Dev) : Dev :=
  let p := leafOut d leaf
  mirSend (.leaf (BitVec.ofNat 40 leaf) (BitVec.ofNat 2 use) p.2 p.1) d

/-- Carry out a message of the stream; none when it must wait for dirty room, with what is left of it (R297, R298, R312). -/
def streamMsg (m : MirMsg) (seq : Nat) (d : Dev) : Option MirMsg × Dev :=
  let ackd (d : Dev) : Dev := mirSend (.ack (BitVec.ofNat 48 seq)) d
  match m with
  | .upd recs =>
    let (left, d) := applyRecs recs d
    if left = [] then (none, ackd d) else (some (.upd left), d)
  | .wmir leaf ls =>
    let (left, d) := applyRecs (ls.map (wmirRec leaf)) d
    if left = [] then (none, ackd d) else (some (.upd left), d)
  | .retire cs =>
    (none, onTwn (fun t => { t with ctab := cs.foldl (fun m c => m.put {} c.toNat {}) t.ctab }) d)
  | .lreq k leaf _ set way =>
    if k = 0 then (none, sendLeaf leaf.toNat 0 d)
    else if k = 1 then (none, sendLeaf leaf.toNat 1 d)
    else if k = 2 then (none, shadowMove set.toNat way.toNat (answerWay false set.toNat way.toNat d))
    else (none, answerWay true set.toNat way.toNat d)
  | .leaf leaf _ poison ls =>
    if roomFor d leaf.toNat then
      match allocFrame leaf.toNat d with
      | none => (some m, d)
      | some d => (none, installLines leaf.toNat poison ls true d)
    else (some m, d)
  | _ => (none, d)

/-- A message of the stream arrives: it is carried out in order, behind any that waits. -/
def stream (m : MirMsg) (seq : Nat) (d : Dev) : Dev :=
  let hold (m : MirMsg) (d : Dev) : Dev := onTwn (fun t => { t with held := t.held ++ [(m, seq)] }) d
  if d.twn.held ≠ [] then hold m d
  else match streamMsg m seq d with
    | (none, d) => d
    | (some m, d) => hold m d

/-- Carry out waiting messages of the stream as far as the room allows. -/
def heldDrain : Nat → Dev → Dev
  | 0, d => d
  | n + 1, d =>
    match d.twn.held with
    | [] => d
    | (m, seq) :: rest =>
      match streamMsg m seq (onTwn (fun t => { t with held := rest }) d) with
      | (none, d) => heldDrain n d
      | (some m, d) => onTwn (fun t => { t with held := (m, seq) :: t.held }) d

/-- Send queued LREQs while fewer than 64 are outstanding (R294). -/
def lreqSend : Nat → Dev → Dev
  | 0, d => d
  | n + 1, d =>
    if 64 ≤ (d.twn.lreqs.filter fun x => x.sent).length then d
    else match d.twn.lreqs.find? fun x => !x.sent with
      | none => d
      | some q =>
        let d := onTwn (fun t => { t with lreqs := t.lreqs.map fun x => if x = q then { q with sent := true } else x }) d
        lreqSend n (mirSend (.lreq (BitVec.ofNat 2 q.kind) (BitVec.ofNat 40 q.leaf) (BitVec.ofNat 6 q.line)
          (BitVec.ofNat 16 q.set) (BitVec.ofNat 5 q.way)) d)

/-! ## Lines the partner was asked for (R171, R280) -/

/-- A line whose committed value the partner gave: rewritten; a pending merge goes on (events 241, 356). -/
def repairGood (la reason : Nat) (v : Line) (d : Dev) : Dev :=
  let poison := (lineOf d la).poison
  let d := onNtr (fun n => { n with repair := n.repair.filter fun e => e.1.toNat ≠ la }) d
  if reason = 2 then
    let m := mergeOf d la
    let d := raiseN 356 (la / 64) (lineWrite la v poison (mergeDrop la d))
    (match m with | none => d | some m => lineWrite la (overlay v m.data m.mask) poison d)
  else raiseN 241 la (lineWrite la v poison d)

/-- A line whose value the partner could not give is poisoned (R137 steps 1 to 4, events 242, 357). -/
def repairBad (la reason : Nat) (d : Dev) : Dev :=
  let d := onNtr (fun n => { n with repair := n.repair.filter fun e => e.1.toNat ≠ la }) d
  let d := markLost la 127 (mergeDrop la d)
  if reason = 2 then raiseN 357 (la / 64) (setB F.SLU_ERR_MERGE_POISON true d) else raiseN 242 la d

/-- Go on with every transaction of a line. -/
def wakeLine (la : Nat) (d : Dev) : Dev :=
  ((htags d).filter fun h => running (getT d h) && decide (txnLine (getT d h) = la)).foldl (fun d h => advance h d) d

/-- The partner's answer, or the lack of one, for a line it was asked for (R280). -/
def lineAnswer (la : Nat) (v : Option Line) (d : Dev) : Dev :=
  let d := onTwn (fun t => { t with lreqs := t.lreqs.filter fun x => !(decide (x.kind = 0) && decide (x.leaf * 64 + x.line = la)) }) d
  let d := (d.ntr.repair.filter fun e => decide (e.1.toNat = la) && decide (e.2 < 9)).foldl (fun d e =>
    match v with
    | none => repairBad la e.2 d
    | some v => repairGood la e.2 v d) d
  let d := ((htags d).filter fun h => decide ((getT d h).stage = 3) && decide (txnLine (getT d h) = la)).foldl (fun d h =>
    match v with
    | none => mergePoisoned h d
    | some v => raiseN 356 (la / 64) (onT h (fun t => { t with stage := 0, tagBad := false })
        (lineWrite la v (lineOf d la).poison d))) d
  wakeLine la d

/-! ## Takeover (R304) -/

/-- The windows a failed partner can no longer serve: its claims here are dropped, and a read claimed on it is rebound on this
twin's own die (R304, R307, R462). -/
def voidClaims (d : Dev) : Dev :=
  let hs := (htags d).filter fun h => (windowsOf d h).any fun w => !w.own
  let d := onSch (fun s => { s with windows := s.windows.filter fun w => !w.claimed }) d
  hs.foldl (fun d h => rebindRead h true (!mapCached d (txnLine (getT d h) / 64)) false (releaseWindows h (noteCause h 1 d))) d

/-- What waits for an answer of the failed partner ends as for a twin alone (R130, R171, R280). -/
def lreqsEnd (d : Dev) : Dev :=
  let qs := d.twn.lreqs
  let d := onTwn (fun t => { t with lreqs := [], held := [] }) d
  qs.foldl (fun d q => if q.kind = 0 then lineAnswer (q.leaf * 64 + q.line) none d
    else if q.kind = 2 then uncertainSet q.set d else d) d

/-- Walks for dead agents cover the failed half's records as well: those not known to have ended there start anew (R139, R304). -/
def walksAfter (d : Dev) : Dev :=
  onBsn (fun b => { b with walks := b.walks.map fun w =>
    if w.depart then w
    else if w.ended && decide (w.agent ∈ b.partnerWalk) then w else { w with ended := false, set := 0 } }) d

/-- The actions of tick D: the survivor declares takeover (R304). -/
def takeover (cause : Nat) (d : Dev) : Dev :=
  let d := onGlb (fun g => { g with degraded := true, handshakeDone := false }) (setB F.TWN_STS_TAKEOVER true d)
  let d := raiseN 386 cause d
  let d := clearAllResv d
  let d := onTwn (fun t => { t with takeoverAt := d.glb.tick, announced := false, draining := false, retires := [], hcidx := [] }) d
  let d := onBsn (fun b => { b with txns := b.txns.map fun e => if e.2.phase == .sent then (e.1, { e.2 with acked := true }) else e }) d
  let d := walksAfter (lreqsEnd (voidClaims (commitSweep d)))
  let d := ((htags d).filter fun h => (getT d h).wait == .cidx).foldl (fun d h => progress h d) d
  grtInc 2 d

/-- The resilver ends with the partner: the target waits in Pairing again, the source serves on alone (R313). -/
def resilverEnds (d : Dev) : Dev :=
  let d := setB F.TWN_STS_RSLV false (setB F.TWN_STS_TARGET false d)
  onTwn (fun t => { t with source := false, rsCopied := false, handoverWait := false, hsOn := false, hsStep := 0, hsDec := 0 })
    (onBsn (fun b => { b with barrierRsp := [] }) d)

/-- The partner is lost, or has gone (R303, R363): a twin that serves with it takes over; a resilver is abandoned. -/
def partnerGone (cause : Nat) (d : Dev) : Dev :=
  match d.glb.base with
  | .serving => if alone d then (if flag d F.TWN_STS_RSLV then resilverEnds d else d) else takeover cause d
  | .shutdown =>
    if alone d ∨ getF d F.PWR_STS_SPW = 0 ∨ getF d F.TWN_STS_PSTATE = 0xB then d else takeover cause d
  | .pairing => if flag d F.TWN_STS_RSLV then resilverEnds d else d
  | _ => d

/-! ## The handshake (R310, R311) -/

/-- What this twin sends in a handshake step. -/
def hsMine (d : Dev) : HsData :=
  { idHash := d.glb.idHash, pairver := (img d).pairver, hashes := (img d).pairHash, roleB := roleB d
    pepoch := BitVec.ofNat 32 (getF d F.TWN_PEPOCH_EPOCH), partner := d.grt.partner, rebuilt := d.twn.rebuilt
    gstate := BitVec.ofNat 4 (stateCode d), spos := BitVec.ofNat 20 (spos d) }

/-- Send a handshake step. -/
def hsSend (step : Nat) (d : Dev) : Dev := mirSend (.hs (BitVec.ofNat 8 step) (hsMine d)) d

/-- Whether this twin can take part in a handshake: in Pairing, or alone and not yet resilvering a target. -/
def hsMay (d : Dev) : Bool :=
  mirUp d && !flag d F.TWN_STS_RSLV && (decide (d.glb.base = .pairing) || (serves d && alone d)) && !d.glb.handshakeDone

/-- Begin the handshake at step 1. -/
def hsBegin (d : Dev) : Dev :=
  if !hsMay d then d
  else
    let d := onTwn (fun t => { t with
      hsOn := true, hsStep := 0, hsStart := d.glb.tick, hsStepStart := d.glb.tick, hsRetryAt := none, hsDec := 0 }) d
    hsSend 1 d

/-- Refuse the handshake (R310): event 385, a Ledger record, and a retry after 1,000,000 tk. -/
def hsRefuse (reason step : Nat) (d : Dev) : Dev :=
  let d := setB F.TWN_ERR_HS_REFUSED true (setF F.TWN_HS_INFO_REASON reason d)
  let d := ledDetail 385 (BitVec.ofNat 32 reason) [BitVec.ofNat 8 reason, BitVec.ofNat 8 step] (raiseN 385 reason d)
  onTwn (fun t => { t with hsOn := false, hsStep := 0, hsRetryAt := some (d.glb.tick + 1000000) }) d

/-- The decision of step 4 (R311): 1 new pair, 2 pair formed, 3 this twin is the source, 4 it is the target, 5 both withdraw,
0 refused. -/
def hsDecide (d : Dev) (x : HsData) : Nat :=
  let e1 := getF d F.TWN_PEPOCH_EPOCH
  let e2 := x.pepoch.toNat
  let n1 := decide (d.grt.partner = x.idHash)
  let n2 := decide (x.partner = d.glb.idHash)
  let r1 := d.twn.rebuilt
  let r2 := x.rebuilt
  let bad1 := decide (e1 < e2) || !r1
  let bad2 := decide (e2 < e1) || !r2
  let serving2 := decide (5 ≤ x.gstate.toNat) && decide (x.gstate.toNat ≤ 9)
  if e1 = 0 ∧ e2 = 0 then 1
  else if !r1 && !r2 then 5
  else if n1 && n2 && decide (e1 = e2) && r1 && r2 then 2
  else if n1 && n2 && bad1 && !bad2 then 4
  else if n1 && n2 && bad2 && !bad1 then 3
  else if decide (0 < e1) && r1 && !n1 && (decide (e2 = 0) || !r2) then 3
  else if decide (0 < e2) && r2 && !n2 && (decide (e1 = 0) || !r1) then 4
  else if decide (0 < e2) && !n2 && serves d && r1 then (if flag d F.TWN_CTL_ADOPT then 3 else 0)
  else if decide (0 < e1) && !n1 && serving2 && r2 then 4
  else 0

/-- The refusal reason of a step, 0 when its check passes (R310). -/
def hsCheck (step : Nat) (x : HsData) (d : Dev) : Nat :=
  if step = 1 then (if x.certOk then 0 else 2)
  else if step = 2 then (if x.sigOk then 0 else 2)
  else if step = 3 then
    (if decide (x.pairver = (img d).pairver) && decide (x.hashes = (img d).pairHash) && x.roleB != roleB d then 0 else 3)
  else if step = 4 then (if x.idHash = 0 ∧ x.pepoch ≠ 0 then 4 else if hsDecide d x = 0 then 6 else 0)
  else if x.confirmOk then 0 else 5

/-- Adopt the reference's schedule position (R26). -/
def joinAs (x : HsData) (d : Dev) : Dev :=
  let ofs := (x.spos.toNat + 2 ^ 20 - d.glb.tick % 2 ^ 20) % 2 ^ 20
  setF F.SCH_POS_OFS_OFS ofs (setB F.TWN_STS_FOLLOWER true d)

/-- Keep the partner's identity hash in the Grotto and show it (R311). -/
def keepPartner (id : Word64) (d : Dev) : Dev :=
  setPair F.TWN_PARTNER_LO_ID F.TWN_PARTNER_HI_ID id.toNat (onGrt (fun g => { g with partner := id }) d)

/-- Send every valid way of the filter and of the shadow to the target (R312). -/
def sendFilter (d : Dev) : Dev :=
  let send (own : Bool) (m : SMap SfSet) (d : Dev) : Dev := m.foldl (fun d s =>
    s.2.ways.foldl (fun d w => if w.2.v then answerWay own s.1 w.1 d else d) d) d
  send false d.bsn.shadow (send true d.bsn.sf d)

/-- Tell the target of each dead agent, and of each walk that has ended (R313). -/
def sendDead (d : Dev) : Dev :=
  (d.bsn.walks.filter fun w => !w.depart && isDead d w.agent).foldl (fun d w =>
    let d := mirSend (.decl (BitVec.ofNat 6 w.agent) (BitVec.ofNat 4 w.cause) 0) d
    if w.ended then mirSend (.decl (BitVec.ofNat 6 w.agent) (BitVec.ofNat 4 w.cause) 1) d else d) d

/-- Key IDs a target generates anew: 0 and every region's (R256, R312). -/
def regionKeys (d : Dev) : List Nat :=
  (List.range 64).foldl (fun l r => if flag d (F.GLB_RGN_CTL_VALID r) then insertNew (getF d (F.GLB_RGN_CTL_KEYID r)) l else l) [0]

/-- Draw a key for an ID: it becomes ACTIVE, event 358 (R255, R257). -/
def drawKey (id : Nat) (d : Dev) : Dev :=
  let k := Config.freeKey d.slu.draws
  raiseN 358 id (onSlu (fun s => { s with
    keys := s.keys.put none id (some k), keyState := s.keyState.put .free id .active, draws := s.draws + 1 }) d)

/-- A target discards its translation state, keys and counters, and its near tier (R312). -/
def targetStarts (d : Dev) : Dev :=
  let d := { d with
    xlt := {}, ntr := { d.ntr with lines := [], frames := [], pool := [], merge := [], pins := [], repair := [] }
    bsn := { d.bsn with sf := [], shadow := [] }
    med := { d.med with dies := d.med.dies.map fun e =>
      (e.1, { e.2 with work := [], unver := [], nLeaves := [], stripes := e.2.stripes.map fun s => (s.1, { s.2 with valid := 0 }) }) }
    slu := { draws := d.slu.draws, pages := d.slu.pages }, grt := { d.grt with structLost := false } }
  (regionKeys d).foldl (fun d k => drawKey k d) d

/-- The handshake is done: what its step 4 decided takes place (R26, R311, R312). -/
def hsDone (x : HsData) (d : Dev) : Dev :=
  let dec := d.twn.hsDec
  let d := onTwn (fun t => { t with hsOn := false, hsRetryAt := none }) d
  let e2 := d.twn.hsEpoch
  if dec = 1 ∨ dec = 2 then
    let d := keepPartner d.twn.hsPartner d
    let d := if dec = 1 then grtSetCtr 2 1 d else d
    let d := if roleB d then joinAs x d else setB F.TWN_STS_FOLLOWER false d
    raiseN 384 e2 (onGlb (fun g => { g with handshakeDone := true }) d)
  else if dec = 3 then
    let d := raiseN 392 0 (setB F.TWN_STS_RSLV true (setB F.TWN_STS_TARGET false (setB F.TWN_STS_TAKEOVER true d)))
    let d := onTwn (fun t => { t with source := true, rsNext := 0, rsCopied := false }) d
    sendDead (sendFilter d)
  else if dec = 4 then
    let d := raiseN 392 1 (setB F.TWN_STS_RSLV true (setB F.TWN_STS_TARGET true (joinAs x d)))
    targetStarts d
  else withdraw false d

/-- The two link keys that the ephemeral keys of step 2 give (R267, R310); the partner's share in them makes them free values. -/
def linkKeys (d : Dev) : Dev :=
  let n := d.slu.draws
  onTwn (fun t => { t with keyTx := Config.freeKey n, keyRx := Config.freeKey (n + 1) }) (onSlu (fun s => { s with draws := n + 2 }) d)

/-- A handshake step arrives in order: it is checked and the next one sent, or the handshake is refused. -/
def hsStep (step : Nat) (x : HsData) (d : Dev) : Dev :=
  let d := if step = 1 ∧ (!d.twn.hsOn ∨ d.twn.hsStep ≠ 0) then hsBegin d else d
  if !d.twn.hsOn ∨ step ≠ d.twn.hsStep + 1 then d
  else
    let reason := hsCheck step x d
    if reason ≠ 0 then hsRefuse reason step d
    else
      let d := setF F.TWN_HS_INFO_STEP step (onTwn (fun t => { t with hsStep := step, hsStepStart := d.glb.tick }) d)
      let d := if step = 4 then onTwn (fun t => { t with
          hsDec := hsDecide d x, hsEpoch := x.pepoch.toNat, hsPartner := x.idHash }) d else d
      let d := if step = 2 then linkKeys d else d
      if step < 5 then hsSend (step + 1) d else hsDone x d

/-! ## The resilver (R312, R313) -/

/-- The segment of an ordinal E (R211). -/
def segOfOrdinal (d : Dev) (e : Nat) : Option Nat :=
  ((List.range 64).foldl (fun (x : Nat × Option Nat) r =>
    if x.2.isSome ∨ !flag d (F.GLB_RGN_CTL_VALID r) then x
    else
      let n := getF d (F.GLB_RGN_NSEG_SEG r)
      if e < x.1 + n then (x.1, some (getF d (F.GLB_RGN_FIRST_SEG r) + (e - x.1))) else (x.1 + n, none)) (0, none)).2

/-- The position after one leaf of the resilver's walk (R312). -/
def pastLeaf (d : Dev) : Dev :=
  setF F.TWN_RSLV_PROG_SEG ((d.twn.rsNext + 1) / 512) (onTwn (fun t => { t with rsNext := t.rsNext + 1 }) d)

/-- One leaf is sent to the target and counted (R312). -/
def copyLeaf (leaf : Nat) (d : Dev) : Dev := sendLeaf leaf 2 (count 0xA01C (pastLeaf d))

/-- The leaf the walk stands at. -/
def walkLeaf (d : Dev) : Nat :=
  ((segOfOrdinal d (d.twn.rsNext / 512)).getD 0) * 512 + d.twn.rsNext % 512

/-- Copy leaves to the target in ascending ordinal, at most `rate` of them; leaves never written are skipped. -/
def copyLeaves : Nat → Nat → Dev → Dev
  | 0, _, d => d
  | fuel + 1, rate, d =>
    if (segOfOrdinal d (d.twn.rsNext / 512)).isNone then onTwn (fun t => { t with rsCopied := true }) d
    else if neverWritten d (walkLeaf d) && !leafDirty d (walkLeaf d) then copyLeaves fuel rate (pastLeaf d)
    else if rate = 0 then d
    else copyLeaves fuel (rate - 1) (copyLeaf (walkLeaf d) d)

/-- One tick of the source's copy: at most TWN_RSLV_RATE GB/s (R312). -/
def resilverTick (d : Dev) : Dev :=
  if flag d F.TWN_STS_RSLV && d.twn.source && !d.twn.rsCopied && mirUp d then
    copyLeaves 512 (max 1 (getF d F.TWN_RSLV_RATE_GBPS * 1000 / 4096)) d
  else d

/-- A Barrier that waits for the handover. -/
def heldBarrier (d : Dev) (h : Nat) : Bool :=
  let t := getT d h
  isBarrier t && decide (t.r.scope = 0) && decide (t.r.agent.toNat ∈ d.bsn.barrierRsp)

/-- The source hands over once every bound agent's Barrier has arrived and the target's half is at rest (R313). The target takes the
state of the walks, so those that have ended here have ended there (R139). -/
def handoverTry (d : Dev) : Dev :=
  let bound := (List.range 64).filter fun a => !(portsOfAgent d a).isEmpty
  let busy := d.bsn.txns.any fun e => !isBarrier e.2 && e.2.phase != .done && (leafHomeB (txnLine e.2 / 64) != roleB d)
  if !d.twn.handoverWait || busy || !bound.all (fun a => decide (a ∈ d.bsn.barrierRsp)) then d
  else
    let d := setB F.TWN_STS_TAKEOVER false (setB F.TWN_STS_RSLV false (mirSend (.ctl 2) d))
    let d := ((htags d).filter (heldBarrier d)).foldl (fun d h =>
      let t := getT d h
      sendCmp t.port t.r.agent t.r.tag 0 0 false (endT h d)) d
    let d := onTwn (fun t => { t with handoverWait := false, source := false, rsCopied := false, hsDec := 0 })
      (onBsn (fun b => { b with
        barrierRsp := []
        partnerWalk := (b.walks.filter fun w => !w.depart && w.ended).foldl (fun l w => insertNew w.agent l) b.partnerWalk }) d)
    let d := onGlb (fun g => { g with degraded := false, handshakeDone := true }) (keepPartner d.twn.hsPartner d)
    let e := ctrComing d 2 + 1
    raiseN 393 e (grtSetCtr 2 e d)

/-! ## At a tick (R301-R303) -/

/-- WOK of an HB (R302): the checkers agree, and each runnel has ended its tick, so that its beat came, or is under substitution. -/
def wardenOk (d : Dev) : Bool :=
  flag d F.SCH_WARDEN_LOCKSTEP_OK && (List.range 44).all fun n => match (runnelOf d n).st with
    | .running => false
    | .faulted _ => false
    | _ => true

/-- The link's part of a tick: the HB and pulse histories shift, the HB goes out, and what waits for room, an LREQ or the
handover is tried again. -/
def twinTick (d : Dev) : Dev :=
  let missed := !d.twn.pulseHist.getLsbD 0
  let d := onTwn (fun t => { t with
    hbHist := t.hbHist <<< 1, pulseHist := t.pulseHist <<< 1, skewRow := if missed then 0 else t.skewRow }) d
  let d := setB F.TWN_STS_HB_OK (d.twn.hbHist != 0) (setB F.TWN_STS_TSYNC_OK (d.twn.pulseHist != 0) d)
  let quiet := d.twn.hbStop || decide (d.glb.base = .off) || decide (d.glb.base = .withdrawn)
  let d := if mirUp d && !quiet then mirSend (.hb (BitVec.ofNat 20 (spos d)) (BitVec.ofNat 4 (dutyLevel d))
    (BitVec.ofNat 4 (stateCode d)) (wardenOk d) (BitVec.ofNat 64 d.glb.tick)) d else d
  handoverTry (lreqSend d.twn.lreqs.length (heldDrain d.twn.held.length d))

end Sys2Proof.Machine
end

