-- ==== Sys2Proof/Machine/Twin.lean ====
section
/-!
DEFINITION. The mirror link's messages as commands, and the pair's other events (R293-R315).
-/
namespace Sys2Proof.Machine

/-! ## The state stream -/

/-- UPD (R297). -/
def execUpd (recs : List UpdRec) (s : State) : Host.Outcome State Fault Refusal :=
  runQ (mirRecv 1 fun n d => stream (.upd recs) n d) s

/-- WMIR (R296, R297). -/
def execWmir (leaf : BitVec 40) (lines : List WmirLine) (s : State) : Host.Outcome State Fault Refusal :=
  runQ (mirRecv 2 fun n d => stream (.wmir leaf lines) n d) s

/-- The ACK of a SEQ gives the commit point of every transaction whose record it covers (R115, R297). -/
def ackTo (seq : Nat) (d : Dev) : Dev :=
  let hit (t : Txn) : Bool := (match t.seq with | none => false | some n => decide (n ≤ seq))
  let noted (t : Txn) : Txn := if hit t then { t with acked := t.phase == .sent, lossOut := false } else t
  commitSweep (onBsn (fun b => { b with txns := b.txns.map fun e => (e.1, noted e.2) }) d)

/-- MIRROR_ACK (R297). -/
def execMirrorAck (seq : BitVec 48) (s : State) : Host.Outcome State Fault Refusal :=
  runQ (mirRecv 3 fun _ d => ackTo seq.toNat d) s

/-- RETIRE (R298). -/
def execRetire (cidx : List (BitVec 15)) (s : State) : Host.Outcome State Fault Refusal :=
  runQ (mirRecv 12 fun n d => stream (.retire cidx) n d) s

/-- LREQ (R295, R130, R299, R280): answered from this twin's records and copy, behind every earlier message of the stream. -/
def execLreq (kind : BitVec 2) (leaf : BitVec 40) (line : BitVec 6) (set : BitVec 16) (way : BitVec 5) (s : State) :
    Host.Outcome State Fault Refusal :=
  runQ (mirRecv 7 fun n d => stream (.lreq kind leaf line set way) n d) s

/-! ## SFWAY (R130, R299, R312) -/

/-- Put an entry into a way of a set. -/
def putWay (own : Bool) (set way : Nat) (e : SfWay) (d : Dev) : Dev :=
  let s := sfGet d own set
  sfPut own set { s with ways := s.ways.put {} way e } d

/-- The transactions on lines of a set that may act again. -/
def wakeSet (set : Nat) (d : Dev) : Dev :=
  ((htags d).filter fun h => (getT d h).phase == .active && decide (sfSet (txnLine (getT d h)) = set)).foldl (fun d h => advance h d) d

/-- The recovered entry of a retired way (R130 steps 3 and 4): into the spare, or with the spare in use back-invalidated. -/
def wayBack (set : Nat) (e : SfWay) (d : Dev) : Dev :=
  let s := sfGet d true set
  let more := d.twn.lreqs.any fun q => decide (q.kind = 2) && decide (q.set = set)
  let d := sfPut true set { s with pinned := more } d
  let d :=
    if !s.spareUsed then
      let d := count 0xF008 (setF F.BSN_SF_SPARE_FREE (getF d F.BSN_SF_SPARE_FREE - 1) d)
      let s := sfGet d true set
      sfPut true set { s with spareUsed := true, ways := s.ways.put {} 16 e } d
    else
      let d := setShort true set d
      if !e.v then d
      else (heldLines set e).foldl (fun d la => startBi la 0 d) (putWay true set 17 { e with bi := true } d)
  wakeSet set d

/-- A way's entry arrives: for a resilver target a way of its half or of the source's; else the answer to its LREQ. -/
def sfway (set way : Nat) (b : BitVec 228) (d : Dev) : Dev :=
  let e := wayOfBits b
  if flag d F.TWN_STS_TARGET then
    if e.v then putWay (leafHomeB (sectorOf set e / 4) == roleB d) set way e d else d
  else match d.twn.lreqs.find? fun q => decide (2 ≤ q.kind) && decide (q.set = set) && decide (q.way = way) with
    | none => d
    | some q =>
      let d := onTwn (fun t => { t with lreqs := t.lreqs.filter fun x => x ≠ q }) d
      if q.kind = 2 then wayBack set e d else putWay false set way e d

/-- SFWAY (R130, R299, R312). -/
def execSfway (set : BitVec 16) (way : BitVec 5) (entry : BitVec 228) (s : State) : Host.Outcome State Fault Refusal :=
  runQ (mirRecv 13 fun _ d => sfway set.toNat way.toNat entry d) s

/-! ## Claims and leaves (R16, R38, R40, R42) -/

/-- The tick at which a window number comes next, when that is within half an epoch (R36). -/
def claimTick (d : Dev) (ch n : Nat) : Option Nat :=
  let ahead := (n * periodOf d ch + 2 ^ 20 - spos d) % 2 ^ 20
  if ahead = 0 ∨ 2 ^ 19 ≤ ahead then none else some (d.glb.tick + ahead)

/-- A claim that is void: the window is left unused, VOID goes back and event 44 is raised (R42). -/
def claimVoid (c : Claim) (d : Dev) : Dev :=
  raiseN 44 (c.channel.toNat + c.window.toNat * 64) (mirSend (.void c.channel c.window false) d)

/-- The first window claimed for a leaf, not yet issued. -/
def firstClaim (d : Dev) (leaf : Nat) : Option Window :=
  d.sch.windows.find? fun w => w.claimed && !w.second && !w.issued && decide (w.leaf = leaf)

/-- A claimed window is taken for its read (R40): the map page in the first window when it is not cached here. -/
def claimTake (c : Claim) (t : Nat) (map : Bool) (p : Nat × Nat) (d : Dev) : Dev :=
  onSch (fun x => { x with windows := x.windows ++ [{
    ch := c.channel.toNat, n := c.window.toNat, issue := t, die := dieOfLeaf d c.leaf.toNat, homeB := c.homeB, claimed := true
    mapRead := map, second := c.second, fallback := c.fallback, leaf := c.leaf.toNat, paddr := p.1, agecls := p.2 }] }) d

/-- A claim arrives (R40, R42): its die is checked, its map-page presence resolved; a second window whose first needs no
map page goes back at once. A leaf never written here is sent as zeros (R238), and one whose lines are all valid in this twin's
leaf cache as it holds it (R17), both without a window. -/
def claim (c : Claim) (d : Dev) : Dev :=
  let leaf := c.leaf.toNat
  let t := claimTick d c.channel.toNat c.window.toNat
  if t.isNone || !dieFree d true c.fallback (dieOfLeaf d leaf) (t.getD 0) then claimVoid c d
  else if neverWritten d leaf ∨ leafWhole d leaf then
    (if c.second then mirSend (.void c.channel c.window true) d else sendLeaf leaf 0 d)
  else if c.second ∧ ((firstClaim d leaf).any fun w => !w.mapRead) then mirSend (.void c.channel c.window true) d
  else
    let map := !c.second && !mapCached d leaf
    claimTake c (t.getD 0) map (if map then resolveMap d leaf else resolveLeaf d leaf) d

/-- CLAIM (R42). -/
def execClaim (c : Claim) (s : State) : Host.Outcome State Fault Refusal := runQ (mirRecv 4 fun _ d => claim c d) s

/-- A VOID arrives (R40, R42): a window returned is released; a void claim's read is rebound, with its leaf-read window when
the void one was the first of two (R462). VOID does not say why: one that arrives in the window's issue tick tells of a missed
window (R48), one that arrives as the next superframe's level is fixed of a window there that lapsed (R461), any other of a void
claim (R252). A first window whose second is still bound is taken to have carried the map-page read (log entry 68). -/
def void (ch n : Nat) (release : Bool) (d : Dev) : Dev :=
  match d.sch.windows.find? fun w => !w.own && decide (w.ch = ch) && decide (w.n = n) with
  | none => d
  | some w =>
    let d := onSch (fun x => { x with windows := x.windows.filter fun y => y ≠ w, freed := x.freed ++ [(w.own, w.ch, w.issue)] }) d
    let lapsed := decide (sposAt d w.issue / 2048 = (spos d / 2048 + 1) % 512) && decide (2032 ≤ sfTick d)
    if release then onT w.htag (fun t => { t with case_ := if t.case_ = 7 then 3 else if t.case_ = 2 then 1 else t.case_ }) d
    else
      let two := !w.second && (windowsOf d w.htag).any fun y => y.second
      rebindRead w.htag false two w.second ((if w.second then id else releaseWindows w.htag) (noteCause w.htag (if w.issue = d.glb.tick ∨ lapsed then 2 else 1) d))

/-- VOID (R42). -/
def execVoid (channel : BitVec 6) (window : BitVec 18) (release : Bool) (s : State) : Host.Outcome State Fault Refusal :=
  runQ (mirRecv 5 fun _ d => void channel.toNat window.toNat release d) s

/-- The transactions of a leaf that wait for a line that is not valid: not one whose line an owner or its own copy gives. -/
def waiters (d : Dev) (leaf : Nat) : List Nat :=
  (htags d).filter fun h => let t := getT d h
    let reads := decide (t.st ≠ 2) && !(decide (t.r.op = 3) && decide (t.st = 1) && t.shared) && decide (t.r.op.toNat ∈ [1, 2, 3, 8, 5, 9])
    reads && t.phase == .acted && decide (txnLine t / 64 = leaf) && !lineValid d (txnLine t) && t.fill == none && t.kind == .request

/-- A leaf that neither twin can give (R16): each requested line is poisoned, and the Ledger holds die index and leaf. -/
def leafLost (leaf : Nat) (d : Dev) : Dev :=
  let die := dieOfLeaf d leaf
  let hs := waiters d leaf
  let d := ledDetail 353 (BitVec.ofNat 32 die) (bytesLE 2 die ++ bytesLE 5 leaf) d
  hs.foldl (fun d h =>
    let la := txnLine (getT d h)
    let d := onT h (fun t => { t with lostBy := some 126 }) (releaseWindows h d)
    advance h (if lineValid d la then d else markLost la 126 d)) d

/-- A leaf arrives from the partner (R16, R171, R222, R278, R280): the lines it was asked for are answered, and a waiting read
is filled; a leaf read because this twin's copy failed is promoted. -/
def leafIn (leaf : Nat) (poison : Word64) (lines : List Line) (verified : Bool) (d : Dev) : Dev :=
  let asked := (d.twn.lreqs.filter fun q => decide (q.kind = 0) && decide (q.leaf = leaf)).map fun q => q.line
  let d := asked.foldl (fun d i =>
    lineAnswer (leaf * 64 + i) (if verified && !poison.getLsbD i then some (lines.getD i 0) else none) d) d
  if !verified then leafLost leaf d
  else match waiters d leaf with
    | [] => d
    | h :: _ =>
      let t := getT d h
      let promote := (decide (t.case_ = 3) || decide (t.case_ = 7)) && !(segOf d leaf).rebuild
      let d := (waiters d leaf).foldl (fun d h => releaseWindows h d) d
      fillArrives h leaf { poison := poison, lines := lines, promote := promote } d

/-- A leaf the Cascade or a collection asked for (R222): it enters the leaf cache as dirty lines; with no good copy here either
its lines are poisoned, event 324. -/
def copySource (leaf : Nat) (poison : Word64) (lines : List Line) (verified : Bool) (d : Dev) : Dev :=
  let d := onTwn (fun t => { t with lreqs := t.lreqs.filter fun q => !(decide (q.kind = 1) && decide (q.leaf = leaf)) }) d
  if verified then stream (.leaf (BitVec.ofNat 40 leaf) 1 poison lines) 0 d
  else raiseN 324 leaf ((List.range 64).foldl (fun d i => markLost (leaf * 64 + i) 127 d) d)

/-- LEAF (R16, R222, R312). -/
def execLeaf (leaf : BitVec 40) (use : BitVec 2) (poison : Word64) (lines : List Line) (verified : Bool) (s : State) :
    Host.Outcome State Fault Refusal :=
  runQ (mirRecv 6 fun n d =>
    if use = 2 then (if flag d F.TWN_STS_TARGET && verified then stream (.leaf leaf 2 poison lines) n d else d)
    else if use = 1 then copySource leaf.toNat poison lines verified d
    else if use = 0 then leafIn leaf.toNat poison lines verified d else d) s

/-! ## Heartbeat and pulses (R301-R303) -/

/-- An HB arrives (R302, R363, R436): the partner's state, level and position are kept; two wrong positions in a row take the
follower to Withdrawn; a partner in Dry takes this twin along. -/
def hbIn (sp level st : Nat) (d : Dev) : Dev :=
  let bad := decide (sp ≠ spos d)
  let d := onTwn (fun t => { t with
    hbHist := t.hbHist ||| 1, lastHb := d.glb.tick, plevel := level, pspos := BitVec.ofNat 20 sp
    mism := if bad then t.mism + 1 else 0 }) d
  let d := setB F.TWN_STS_HB_OK true (setF F.TWN_STS_PSTATE st d)
  let d := if st = 0xA ∧ !d.twn.partnerWithdrawn then raiseN 397 0 d else d
  let d := onTwn (fun t => { t with partnerWithdrawn := decide (st = 0xA) }) d
  let d := if st = 9 ∧ serves d ∧ !d.glb.dry then
    raiseN 508 0x800 (setB F.SPR_STS_DRY true (onGlb (fun g => { g with dry := true }) d)) else d
  if 2 ≤ d.twn.mism ∧ flag d F.TWN_STS_FOLLOWER ∧ serves d then
    withdraw false (raiseBy true 396 (BitVec.ofNat 32 sp) (setB F.TWN_ERR_SPOS_MISMATCH true d))
  else d

/-- HB (R302). -/
def execHb (spos : BitVec 20) (level state : BitVec 4) (_wok : Bool) (_gtick : Word64) (s : State) :
    Host.Outcome State Fault Refusal :=
  run (mirRecv 8 fun _ d => hbIn spos.toNat level.toNat state.toNat d) s

/-- A pulse of the leader is measured (R301): a difference beyond the limit for 16 consecutive ticks raises event 395. -/
def pulseIn (diff : BitVec 16) (d : Dev) : Dev :=
  let skew := diff - BitVec.ofNat 16 (getF d F.TWN_TSYNC_DELAY)
  let d := setB F.TWN_STS_TSYNC_OK true (onTwn (fun t => { t with pulseHist := t.pulseHist ||| 1 }) d)
  if !flag d F.TWN_STS_FOLLOWER then onTwn (fun t => { t with skewWide := false }) d
  else
    let limit : Int := if d.twn.skewWide then 400 else 40
    let wide := decide (limit < skew.toInt) || decide (skew.toInt < -limit)
    let row := if wide then d.twn.skewRow + 1 else 0
    let d := setF F.TWN_TSYNC_SKEW skew.toNat (onTwn (fun t => { t with skewRow := row, skewWide := false }) d)
    if row = 16 then raiseN 395 skew.toNat (setB F.TWN_ERR_SKEW true d) else d

/-- TICKSYNC_PULSE (R301). -/
def execTicksyncPulse (diff : BitVec 16) (s : State) : Host.Outcome State Fault Refusal := runQ (pulseIn diff) s

/-- PARTNER_LOST (R303): eight ticks with neither HB nor pulses. -/
def execPartnerLost (s : State) : Host.Outcome State Fault Refusal :=
  run (fun d => if d.twn.hbHist ≠ 0 ∨ d.twn.pulseHist ≠ 0 then d
    else partnerGone (if getF d F.TWN_STS_LINK = 4 then 2 else 1) d) s

/-- TICKSYNC_LOST (R303): HB arriving, eight ticks without pulses. -/
def execTicksyncLost (s : State) : Host.Outcome State Fault Refusal :=
  runQ (fun d => if d.twn.hbHist = 0 ∨ d.twn.pulseHist ≠ 0 ∨ d.twn.skewWide then d
    else raiseN 390 0 (setB F.TWN_ERR_TSYNC_LOST true (onTwn (fun t => { t with skewWide := true }) d))) s

/-- LINK_LOSS_TIMEOUT (R293, R303): LINK_TMO ticks without an HB while pulses arrive; role B withdraws. -/
def execLinkLossTimeout (s : State) : Host.Outcome State Fault Refusal :=
  run (fun d =>
    if d.twn.hbHist ≠ 0 ∨ d.twn.pulseHist = 0 ∨ d.glb.tick < d.twn.lastHb + getF d F.TWN_TMO_LINK_TMO ∨ alone d ∨ !serves d then d
    else
      let d := setF F.TWN_STS_LINK 4 d
      if roleB d then raiseBy true 389 1 (withdraw false d) else d) s

/-! ## Declarations and control -/

/-- A DECL arrives (R132, R139, R313): the partner declared an agent, ended its walk, or cleared its mark. -/
def declIn (a cause what : Nat) (d : Dev) : Dev :=
  if what = 0 then
    (if flag d F.TWN_STS_TARGET then startWalk { agent := a, cause := cause } (markDead a true d) else declareDead a 6 d)
  else if what = 1 then
    let d := onBsn (fun b => { b with partnerWalk := insertNew a b.partnerWalk }) d
    if flag d F.TWN_STS_TARGET then
      onBsn (fun b => { b with walks := b.walks.map fun w => if w.agent = a then { w with ended := true } else w }) d
    else d
  else if what = 2 then markDead a false (onBsn (fun b => { b with partnerWalk := b.partnerWalk.filter fun x => x ≠ a }) d)
  else d

/-- DECL (R132). -/
def execDecl (agent : Agent) (cause : BitVec 4) (what : BitVec 2) (s : State) : Host.Outcome State Fault Refusal :=
  runQ (mirRecv 9 fun _ d => declIn agent.toNat cause.toNat what.toNat d) s

/-- HS (R310). -/
def execHs (step : BitVec 8) (data : HsData) (s : State) : Host.Outcome State Fault Refusal :=
  run (mirRecv 10 fun _ d => if hsMay d then hsStep step.toNat data d else d) s

/-- CTL_DETACH (R309): the partner leaves; tick D of R304. -/
def execCtlDetach (s : State) : Host.Outcome State Fault Refusal :=
  run (mirRecv 11 fun _ d => partnerGone 3 d) s

/-- The target takes its half (R313): it becomes home under R12 and enters Tadpole. -/
def handover (d : Dev) : Dev :=
  if !flag d F.TWN_STS_TARGET then d
  else
    let d := setB F.TWN_STS_RSLV false (setB F.TWN_STS_TARGET false (setB F.TWN_STS_TAKEOVER false d))
    let e := d.twn.hsEpoch + 1
    let d := grtSetCtr 2 e (keepPartner d.twn.hsPartner d)
    let d := onGlb (fun g => { g with
      base := .serving, tadpole := true, degraded := false, handshakeDone := true
      sweeping := true, sweepEnded := false, tadpoleLate := false, tadpoleSince := g.tick }) d
    raiseN 393 e (setF F.GLB_BOOT_STS_STEP 10 (onTwn (fun t => { t with rebuilt := true, hsDec := 0 }) d))

/-- HANDOVER (R313). -/
def execHandover (s : State) : Host.Outcome State Fault Refusal := run (mirRecv 11 fun _ d => handover d) s

/-- RESTORE_SENT (R295): the spec names the message and gives it no further effect. -/
def execRestoreSent (s : State) : Host.Outcome State Fault Refusal := runQ (mirRecv 11 fun _ d => d) s

/-- RESERVED_MCLS (R295): discarded, event 385 with reason 7; the flit counts as failed, so its SEQ does not pass (R294). -/
def execReservedMcls (_mcls : BitVec 4) (s : State) : Host.Outcome State Fault Refusal :=
  runQ (fun d => if !mirUp d then d
    else raiseN 385 7 (setF F.TWN_HS_INFO_REASON 7 (count 0xA018 (onLink 16 (fun l => { l with nakOut := true, nakSince := d.glb.tick }) d)))) s

/-! ## Takeover, detach, handshake and resilver by time -/

/-- The tick after D (R304): TAKEOVER to every bound agent; the reissue phase starts. -/
def announce (d : Dev) : Dev :=
  if !flag d F.TWN_STS_TAKEOVER ∨ d.twn.announced ∨ d.glb.tick < d.twn.takeoverAt + 1 ∨ !serves d then d
  else
    let d := setB F.TWN_STS_REISSUE true (onTwn (fun t => { t with announced := true }) d)
    (List.range 16).foldl (fun d p => (agentsOfPort d p).foldl (fun d a =>
      pump p (evtQueueFirst p (.evt 2 (BitVec.ofNat 6 a) 0 (roleB d) (BitVec.ofNat 40 d.glb.tick) 0) d)) d) d

/-- TAKEOVER_ANNOUNCE (R304). -/
def execTakeoverAnnounce (s : State) : Host.Outcome State Fault Refusal := runQ announce s

/-- The end of the reissue phase (R304): FwdRelAll for the failed role, the completion table cleared, event 387. -/
def reissueEnd (d : Dev) : Dev :=
  if !flag d F.TWN_STS_REISSUE ∨ d.glb.tick < d.twn.takeoverAt + 1 + getF d F.TWN_TMO_REISSUE_TMO then d
  else
    let n := (d.twn.ctab.filter fun e => e.2.used).length
    let d := setB F.TWN_STS_REISSUE false d
    let d := (List.range 16).foldl (fun d p => (agentsOfPort d p).foldl (fun d a =>
      sendLcf p (.rsp 4 (BitVec.ofNat 6 a) 0 0 0 (!roleB d) 0 false) d) d) d
    raiseN 387 n (onTwn (fun t => { t with ctab := [] }) d)

/-- REISSUE_PHASE_END (R304). -/
def execReissuePhaseEnd (s : State) : Host.Outcome State Fault Refusal := runQ reissueEnd s

/-- TWN_CMD DETACH from the port that holds the lock (R309). -/
def detachCmd (p : Nat) (d : Dev) : Dev :=
  let ps := getF d F.TWN_STS_PSTATE
  if !holdsLock d p then d
  else if alone d || flag d F.TWN_STS_RSLV || !serves d || !(decide (ps = 5) || decide (ps = 6) || decide (ps = 8)) then
    setB F.TWN_ERR_CMD_REFUSED true d
  else raiseN 394 0 (onTwn (fun t => { t with draining := true }) d)

/-- DETACH (R309). -/
def execDetach (p : SPort) (s : State) : Host.Outcome State Fault Refusal := run (viaPort p.val (detachCmd p.val)) s

/-- The drain has ended (R309): every transaction has its CMP; CTL DETACH goes out and the twin withdraws. -/
def detachEnd (d : Dev) : Dev :=
  if !d.twn.draining ∨ (d.bsn.txns.any fun e => e.2.phase != .done) then d
  else withdraw false (onTwn (fun t => { t with draining := false }) (mirSend (.ctl 1) d))

/-- DETACH_DRAIN_END (R309). -/
def execDetachDrainEnd (s : State) : Host.Outcome State Fault Refusal := run detachEnd s

/-- HANDSHAKE_TIMEOUT (R310): a step's 10,000 tk or the handshake's 100,000 tk have passed; pairing restarts from step 1. -/
def execHandshakeTimeout (s : State) : Host.Outcome State Fault Refusal :=
  runQ (fun d =>
    if d.twn.hsOn ∧ (d.twn.hsStepStart + 10000 ≤ d.glb.tick ∨ d.twn.hsStart + 100000 ≤ d.glb.tick) then hsBegin d else d) s

/-- HANDSHAKE_RETRY (R310): 1,000,000 tk after a refusal. -/
def execHandshakeRetry (s : State) : Host.Outcome State Fault Refusal :=
  runQ (fun d => match d.twn.hsRetryAt with
    | none => d
    | some t => if t ≤ d.glb.tick then hsBegin d else d) s

/-- RESILVER_COPY_COMPLETE (R313): after the last segment the source asks every bound agent for its Barrier. -/
def execResilverCopyComplete (s : State) : Host.Outcome State Fault Refusal :=
  run (fun d =>
    if !flag d F.TWN_STS_RSLV ∨ !d.twn.source ∨ !d.twn.rsCopied then d
    else if d.twn.handoverWait then handoverTry d
    else handoverTry (onTwn (fun t => { t with handoverWait := true }) (tellAgents 391 0 (raiseN 391 0 d)))) s

end Sys2Proof.Machine
end

