-- ==== Sys2Proof/Machine/Fabric.lean ====
section
/-!
DEFINITION. The links: fabric ports and the mirror link (R77-R102, R293, R294): training, flits, retry, credits, lane swaps,
half width, Realign and Down. A frame's flits are taken as the FEC decoder gives them (R80); the messages of a fabric flit are parsed by R89
and R108 to R112, while mirror messages, which travel encrypted (R265), arrive as their own commands.
-/
namespace Sys2Proof.Machine

/-! ## Training state -/

/-- The training state of a link (R84). -/
def ltOf (d : Dev) (l : Nat) : Nat := if l < 16 then getF d (F.FAB_STS_LTSTATE l) else (linkOf d 16).lt

/-- Whether the event of a port's Active state changes hands between two training states. -/
def activeChange (a b : Nat) : Bool := decide (a = 6) != decide (b = 6) || decide (b = 7) || decide (b = 8)

/-- The three control words this device sends in Param (R85, R95): VERSION 1, KIND 1, its INTLV, RESUME with the last SEQ it accepted,
its port and role; no agents; the credits it grants. On the mirror link PORT, AGENTS and CREDITS are 0 (R293). -/
def paramWords (d : Dev) (l : Nat) : List Word64 :=
  let x := linkOf d l
  let intlv := decide (l = 16) || flag d (F.FAB_CTL_INTLV l)
  let w0 := 1 + 2 ^ 8 + intlv.toNat * 2 ^ 9 + (if x.keep then 2 ^ 10 + x.rxSeq * 2 ^ 11 else 0) + l % 16 * 2 ^ 23 + (roleB d).toNat * 2 ^ 27
  [BitVec.ofNat 64 w0, 0, if l < 16 then BitVec.ofNat 64 (192 + 128 * 2 ^ 16 + 96 * 2 ^ 24 + 16 * 2 ^ 32) else 0]

/-- Enter a training state: event 0 of the port when it enters or leaves Active, or enters Realign or Down (R102); the mirror
link shows its state in TWN_STS.LINK (R314). -/
def setLt (l s gave : Nat) (d : Dev) : Dev :=
  let old := ltOf d l
  let words := paramWords d l
  let d := onLink l (fun x => { x with
    stateSince := d.glb.tick, trainSince := if old = 0 then d.glb.tick else x.trainSince
    paramOut := if s = 5 ∨ s = 8 then words else []
    downSince := if s = 8 then some (x.downSince.getD d.glb.tick) else if s = 6 ∨ !x.keep then none else x.downSince
    stoppedSince := if s = 7 ∨ s = 8 ∨ (x.keep ∧ 1 ≤ s ∧ s ≤ 5) then some (x.stoppedSince.getD d.glb.tick) else none }) d
  if l < 16 then
    let d := setF (F.FAB_STS_LTSTATE l) s d
    if activeChange old s || gave != 0 then raiseN (96 + 4 * l) (s + gave) d else d
  else
    let k := if s = 0 then 0 else if s = 6 then (if (linkOf d 16).halfMap.isSome then 3 else 2) else 1
    setF F.TWN_STS_LINK k (onLink 16 (fun x => { x with lt := s }) d)

/-- Whether a port may train: its ENABLE is 1 and the device has come to Pairing (R84, R87). -/
def mayTrain (d : Dev) (l : Nat) : Bool :=
  (decide (d.glb.base = .pairing) || decide (d.glb.base = .serving) || decide (d.glb.base = .shutdown))
    && (decide (l = 16) || flag d (F.FAB_CTL_ENABLE l))

/-- Entering Pairing starts the training of the mirror link and of every enabled port (R87, R293). -/
def trainAll (d : Dev) : Dev :=
  forEach (List.range 17) (fun l d => if mayTrain d l && decide (ltOf d l = 0) then setLt l 1 0 d else d) d

/-! ## Retry (R91-R94) -/

/-- Whether SEQ `a` is covered by an ACK of `b`. -/
def covers (b a : Nat) : Bool := decide ((b + 4096 - a) % 4096 < 2048)

/-- Take an ACK: the flits it covers leave the retry buffer; completions it covers are retired, and what waited may go
(R91, R298). -/
def takeAck (l ack : Nat) (d : Dev) : Dev :=
  let d := onLink l (fun x => { x with acked := ack, retry := x.retry.filter fun f => !covers ack f.seq }) d
  flushLink l (if l < 16 then pump l (sweepRetires d) else mirPump d)

/-- Enter Realign (R94): 0 by NAKs, 1 by command, 2 as asked by the other end. A swap under way is abandoned (R98). -/
def enterRealign (l why : Nat) (d : Dev) : Dev :=
  if ltOf d l ≠ 6 then d
  else
    let d := onLink l (fun x => { x with
      swapAgain := if x.swapLane.isSome then x.swapLane else x.swapAgain
      swapLane := none, switchAt := none, txSwap := none, switchTx := none, nakRow := 0, rnakRow := 0
      lctlOut := if why = 2 then none else some (6, 0) }) d
    let d := setLt l 7 0 d
    if l < 16 then raiseN (96 + 4 * l + 2) why (count (0x4000 + 16 * l + 14)
      (if why = 0 then setB (F.FAB_ERR_RETRY_EXH l) true d else d)) else d

/-- Count a NAK that names an ACK; 8 in a row that name the same one send REALIGN (R94). -/
def nakSent (l : Nat) (d : Dev) : Dev :=
  let ack := (linkOf d l).rxSeq
  let d := onLink l (fun x => { x with
    nakOut := true, nakSince := d.glb.tick, nakAck := ack, nakRow := if x.nakAck = ack then x.nakRow + 1 else 1 }) d
  let d := flushLink l (count (if l < 16 then 0x4000 + 16 * l + 12 else 0xA018) d)
  if 8 ≤ (linkOf d l).nakRow then enterRealign l 0 d else d

/-- Replay from ACK + 1 (R93): every flit not covered goes out again with RPLY set and the ACK that is due. -/
def replay (l ack : Nat) (d : Dev) : Dev :=
  let d := if l < 16 then count (0x4000 + 16 * l + 13) d else d
  onLink l (fun x => { x with
    replayFrom := some ((ack + 1) % 4096), replayDue := false, ackOut := x.rxSeq
    sent := x.sent ++ ((x.retry.filter fun f => !covers ack f.seq).map fun f => { f with rply := true, ack := x.rxSeq, nak := x.nakOut })
    nakOut := x.nakOut && (x.retry.all fun f => covers ack f.seq) }) d

/-- Take a NAK from the other end (R93, R94). -/
def takeNak (l ack : Nat) (d : Dev) : Dev :=
  let d := replay l ack (onLink l (fun x => { x with rnakAck := ack, rnakRow := if x.rnakAck = ack then x.rnakRow + 1 else 1 }) d)
  if 8 ≤ (linkOf d l).rnakRow then enterRealign l 0 d else d

/-- Take a flit's ACK and NAK. -/
def takeAckNak (l : Nat) (f : Flit) (d : Dev) : Dev :=
  let d := takeAck l f.ack.toNat d
  if f.nak then takeNak l f.ack.toNat d else onLink l (fun x => { x with rnakRow := 0 }) d

/-! ## Lanes (R98, R99, R293) -/

/-- Lanes of a link, and the spare of a lane's group. -/
def spareOf (l lane : Nat) : Nat := if l < 16 then 8 else if lane < 8 ∨ lane = 16 then 16 else 17

/-- The lanes of a failed lane's group that carry data by default. -/
def groupLanes (l lane : Nat) : List Nat :=
  if l < 16 then List.range 8 else if lane < 8 ∨ lane = 16 then List.range 8 else (List.range 8).map fun i => i + 8

/-- The lanes that are healthy in a receive direction. -/
def healthy (d : Dev) (l lane : Nat) : List Nat :=
  (groupLanes l lane ++ [spareOf l lane]).filter fun x => decide (x ∉ (linkOf d l).failed) && decide (x ≠ lane)

/-- A bit map of lanes. -/
def laneMap (ls : List Nat) : BitVec 8 := BitVec.ofNat 8 (ls.foldl (fun a x => a + 2 ^ (x % 8)) 0)

/-- Enter Down, with the link state kept (R84, R99). -/
def enterDown (l : Nat) (d : Dev) : Dev :=
  setLt l 8 0 (onLink l (fun x => { x with keep := true, paramOk := false, swapLane := none, switchAt := none, txSwap := none, switchTx := none }) d)

/-- A lane that has no recovery left: the port goes Down; the mirror link is lost when both its groups have failed (R99, R293). -/
def laneGone (l lane : Nat) (d : Dev) : Dev :=
  let d := onLink l (fun x => { x with failed := insertNew lane x.failed }) d
  if l < 16 then enterDown l (raiseN (96 + 4 * l + 1) (lane + 32) d)
  else setF F.TWN_STS_LINK 4 (enterDown 16 (raiseN 388 lane d))

/-- A receive lane has failed in a superframe, or lost its lock (R98, R99, R293). -/
def laneFailed (l lane : Nat) (d : Dev) : Dev :=
  let x := linkOf d l
  let spare := spareOf l lane
  let spareUsed := decide (spare ∈ x.failed) || (x.failed.any fun f => decide (f ∈ groupLanes l lane))
  if lane ∈ x.failed then d
  else if lane = spare ∧ !spareUsed then d
  else if !spareUsed then
    if (if l < 16 then flag d (F.FAB_CTL_SWAP_EN l) else true) && x.swapLane.isNone then
      onLink l (fun x => { x with swapLane := some lane, swapSince := d.glb.tick, lctlOut := some (1, BitVec.ofNat 8 lane) }) d
    else d
  else if l = 16 ∧ x.halfMap.isSome then laneGone l lane d
  else
    let good := healthy d l lane
    let other := (List.range 16).filter fun i => decide (i ∉ groupLanes l lane)
    if l < 16 then
      if flag d (F.FAB_CTL_HALF_EN l) ∧ 4 ≤ good.length then
        let m := laneMap (good.take 4)
        onLink l (fun x => { x with failed := insertNew lane x.failed, halfMap := some m, lctlOut := some (4, m) }) d
      else laneGone l lane d
    else
      let otherOk := (other.filter fun i => decide (i ∈ x.failed)).length < 2
      if otherOk then onLink 16 (fun x => { x with
        failed := insertNew lane x.failed, halfMap := some (laneMap other), lctlOut := some (4, laneMap other) }) d
      else laneGone 16 lane d

/-- LANE_FAILURE (R98): a lane's symbol errors over a superframe, or a lost lock. -/
def execLaneFailure (link : Link) (lane : Fin 18) (errors : Nat) (lockLost : Bool) (s : State) : Host.Outcome State Fault Refusal :=
  runQ (fun d =>
    let l := link.val
    let d := if l < 16 ∧ lane.val < 9 then countN (0x4000 + 16 * l + lane.val) errors d else d
    let thr := if l < 16 then getF d (F.FAB_LTHR_THR l) else 4096
    if ltOf d l ≠ 6 ∨ (l < 16 ∧ 8 < lane.val) ∨ !(lockLost || decide (thr < errors)) then d else laneFailed l lane.val d) s

/-- A link-control code is taken in Active only. A code that repeats in later frames is dropped with its frame control word
(R83). -/
def lctlIn (l code larg : Nat) (k : Dev → Dev) (d : Dev) : Dev :=
  if ltOf d l ≠ 6 then d
  else
    let key := BitVec.ofNat 16 (code + larg * 256)
    k (onLink l (fun x => { x with lastLctl := key }) d)

/-- SWAP_REQ: the transmitter brings in its spare (R98). -/
def swapReq (l lane : Nat) (d : Dev) : Dev := lctlIn l 1 lane (onLink l fun x => { x with txSwap := some lane }) d

/-- SWAP_RDY: the transmitter answers with SWAP_COMMIT, 128 frames on (R98). -/
def swapRdy (l lane : Nat) (d : Dev) : Dev :=
  lctlIn l 2 lane (onLink l fun x =>
    if x.txSwap = some lane ∧ x.switchTx = none then { x with
      lctlOut := some (3, x.txFrame + 128), switchTx := some (x.txFrame + 128), switchAcc := x.txAcc + 128 * 16 } else x) d

/-- SWAP_COMMIT: the receiver switches at frame F (R98). -/
def swapCommit (l : Nat) (frame : BitVec 8) (d : Dev) : Dev :=
  lctlIn l 3 frame.toNat (onLink l fun x => if x.swapLane.isSome then { x with switchAt := some frame, rxFrame := none, lctlOut := none } else x) d

/-- HALF_REQ: the transmitter answers with HALF_COMMIT (R99). -/
def halfReq (l : Nat) (map : BitVec 8) (d : Dev) : Dev :=
  lctlIn l 4 map.toNat (onLink l fun x => if x.txHalf = some map ∧ x.switchTx ≠ none then x else { x with
    txHalf := some map, lctlOut := some (5, x.txFrame + 128), switchTx := some (x.txFrame + 128), switchAcc := x.txAcc + 128 * 16 }) d

/-- HALF_COMMIT: the receiver goes to half width at frame F (R99). -/
def halfCommit (l : Nat) (frame : BitVec 8) (d : Dev) : Dev :=
  lctlIn l 5 frame.toNat (onLink l fun x => if x.halfMap.isSome then { x with switchAt := some frame, rxFrame := none, lctlOut := none } else x) d

/-- SWAP_REQ (R98). -/
def execSwapReq (link : Link) (lane : BitVec 8) (s : State) : Host.Outcome State Fault Refusal := runQ (swapReq link.val lane.toNat) s
/-- SWAP_RDY (R98). -/
def execSwapRdy (link : Link) (lane : BitVec 8) (s : State) : Host.Outcome State Fault Refusal := runQ (swapRdy link.val lane.toNat) s
/-- SWAP_COMMIT (R98). -/
def execSwapCommit (link : Link) (frame : BitVec 8) (s : State) : Host.Outcome State Fault Refusal := runQ (swapCommit link.val frame) s
/-- HALF_REQ (R99). -/
def execHalfReq (link : Link) (map : BitVec 8) (s : State) : Host.Outcome State Fault Refusal := runQ (halfReq link.val map) s
/-- HALF_COMMIT (R99). -/
def execHalfCommit (link : Link) (frame : BitVec 8) (s : State) : Host.Outcome State Fault Refusal := runQ (halfCommit link.val frame) s
/-- REALIGN (R94). -/
def execRealign (link : Link) (s : State) : Host.Outcome State Fault Refusal := runQ (enterRealign link.val 2) s

/-- FAB_CMD REALIGN, in Active only (R94, R101). -/
def execFabCmdRealign (p : SPort) (port : Fin 16) (s : State) : Host.Outcome State Fault Refusal :=
  runQ (viaPort p.val (enterRealign port.val 1)) s

/-- The field of FAB_LMAP that names the physical lane of a logical lane (R101). -/
def lmapFld (p i : Nat) : Fld := ⟨0x400008 + 0x100 * p, 4 * i + 3, 4 * i⟩

/-- The logical lane a physical lane carries on a port. -/
def logicalOf (d : Dev) (p lane : Nat) : Option Nat := (List.range 8).find? fun i => getF d (lmapFld p i) = lane

/-- A receive lane is replaced by its spare at frame F (R98): the map, the status, event 1, the swap counter. -/
def swapDone (l lane : Nat) (d : Dev) : Dev :=
  let d := onLink l (fun x => { x with failed := insertNew lane x.failed, swapLane := none, switchAt := none }) d
  if l < 16 then
    let d := (match logicalOf d l lane with | none => d | some i => setF (lmapFld l i) 8 d)
    let d := if getF d (F.FAB_STS_FAILED_A l) = 0xF then setF (F.FAB_STS_FAILED_A l) lane d else setF (F.FAB_STS_FAILED_B l) lane d
    raiseN (96 + 4 * l + 1) lane (count 0xF006 (count (0x4000 + 16 * l + 15) (setB (F.FAB_STS_SPARE_USED l) true d)))
  else raiseN 388 lane (count 0xF007 (count 0xA01A d))

/-- A receive direction goes to half width at frame F (R99, R293). -/
def halfDone (l : Nat) (m : BitVec 8) (d : Dev) : Dev :=
  let lane := ((linkOf d l).failed.getLast?).getD 0
  let d := onLink l (fun x => { x with switchAt := none }) d
  if l < 16 then
    let used := bitList 8 m.toNat
    let d := forEach (List.range 8) (fun i d => setF (lmapFld l i) (if i < 4 then used.getD i 0xF else 0xF) d) d
    let d := if getF d (F.FAB_STS_FAILED_A l) = 0xF then setF (F.FAB_STS_FAILED_A l) lane d else setF (F.FAB_STS_FAILED_B l) lane d
    raiseN (96 + 4 * l + 1) (lane + 16) (setB (F.FAB_STS_HALF l) true d)
  else raiseN 388 lane (setF F.TWN_STS_LINK 3 d)

/-- Sixteenths of a frame that a link sends in a tick (R81, R99, R293): a frame lasts 12.8 ns, 25.6 ns at half width; on the mirror
link 6.4 ns and 12.8 ns. -/
def frameRate (d : Dev) (l : Nat) : Nat :=
  let full := if l < 16 then 1250 else 2500
  if (linkOf d l).txHalf.isSome ∧ (linkOf d l).switchTx = none then full / 2 else full

/-- Whether the switching frame F of a direction begins in this tick or has begun (R98): for the transmit side 128 frames after the
frame of the commit; for the receive side unless the last FRAME received since the commit stands before F. -/
def txReached (d : Dev) (l : Nat) : Bool := decide ((linkOf d l).switchAcc < (linkOf d l).txAcc + frameRate d l)

/-- See `txReached`. -/
def rxReached (x : LinkSt) : Bool :=
  match x.switchAt, x.rxFrame with
  | some f, some r => decide ((r - f).toNat < 128)
  | some _, none => true
  | none, _ => false

/-- Frame F is reached (R98, R99): each direction that agreed on it switches. -/
def laneSwitch (l : Nat) (d : Dev) : Dev :=
  if ltOf d l ≠ 6 then d
  else
    let x := linkOf d l
    let d := (match (if rxReached x then x.switchAt else none), x.swapLane, x.halfMap with
      | some _, some lane, _ => swapDone l lane d
      | some _, none, some m => halfDone l m d
      | _, _, _ => d)
    if x.switchTx.isSome && txReached d l then onLink l (fun x => { x with
      switchTx := none, lctlOut := none, txSpare := if x.txSwap.isSome then x.txSwap else x.txSpare, txSwap := none }) d
    else d

/-- LANE_SWITCH_FRAME (R98, R99). -/
def execLaneSwitchFrame (link : Link) (s : State) : Host.Outcome State Fault Refusal := runQ (laneSwitch link.val) s

/-- SWAP_TIMEOUT (R98): 400 tk without the spare locked; the swap is abandoned. -/
def execSwapTimeout (link : Link) (s : State) : Host.Outcome State Fault Refusal :=
  runQ (fun d =>
    let x := linkOf d link.val
    if x.swapLane.isSome ∧ x.switchAt = none ∧ x.swapSince + 400 ≤ d.glb.tick then
      onLink link.val (fun x => { x with swapLane := none, lctlOut := none }) d
    else d) s

/-! ## Messages of a flit -/

/-- A field of a slot. -/
def slotF (w : Slot) (hi lo : Nat) : Nat := bitsOf w.toNat hi lo

/-- A REQ message (R108). -/
def reqOfSlot (w : Slot) : Req :=
  { op := BitVec.ofNat 5 (slotF w 7 3), agent := BitVec.ofNat 6 (slotF w 13 8), stream := BitVec.ofNat 12 (slotF w 25 14)
    tag := BitVec.ofNat 12 (slotF w 37 26), laddr := BitVec.ofNat 46 (slotF w 83 38), reissue := w.getLsbD 84
    scope := BitVec.ofNat 2 (slotF w 86 85), durable := w.getLsbD 87 }

/-- A REQ message is received. -/
def slotReq (p : Nat) (w : Slot) (d : Dev) : Dev :=
  let r := reqOfSlot w
  if 1 ≤ r.op.toNat ∧ r.op.toNat ≤ 10 then
    let (v, d) := drawFree d
    reqReceived p r (v.toNat % 2 ^ 24) d
  else reservedReq p r d

/-- An RSP message is received (R110). -/
def slotRsp (p : Nat) (w : Slot) (d : Dev) : Dev :=
  let op := slotF w 7 3
  let a := slotF w 13 8
  let h := slotF w 37 26
  if op = 8 ∨ op = 0xA ∨ op = 0xB ∨ op = 0xC then snpRsp p a h (w.getLsbD 41) (BitVec.ofNat 5 op) d
  else received p 2 a (protoError p 2 op a 1) d

/-- The line that four slots hold (R111). -/
def lineOfSlots (ws : List Slot) : Line :=
  BitVec.ofNat 512 (ws.reverse.foldl (fun a w => a * 2 ^ 128 + w.toNat) 0)

/-- A DAT message is received (R111). -/
def slotDat (p : Nat) (w : Slot) (rest : List Slot) (d : Dev) : Dev :=
  let op := slotF w 7 3
  let a := slotF w 13 8
  let h := slotF w 37 26
  if op = 3 then dataWr p a h (BitVec.ofNat 64 (slotF w 127 64)) (lineOfSlots (rest.take 4)) true d
  else if op = 4 then dataSnp p a h (decide (slotF w 40 38 = 1)) (lineOfSlots (rest.take 4)) d
  else received p 3 a (protoError p 3 op a 1) d

/-- An EVT message is received (R112, R133). -/
def slotEvt (p : Nat) (w : Slot) (d : Dev) : Dev :=
  let op := slotF w 7 3
  let a := slotF w 13 8
  if op = 1 then departCmd p a d
  else if op = 2 then received p 4 a (fun d =>
    if slotF w 19 14 ∈ agentsOfPort d p then declareDead (slotF w 19 14) 4 d else protoError p 4 2 a 7 d) d
  else received p 4 a (protoError p 4 op a 5) d

/-- The message that starts in a slot (R89, R97). -/
def slotMsg (p : Nat) (w : Slot) (rest : List Slot) (d : Dev) : Dev :=
  match slotF w 2 0 with
  | 0 => slotReq p w d
  | 2 => slotRsp p w d
  | 3 => slotDat p w rest d
  | 4 => slotEvt p w d
  | c => portError p 2 c (slotF w 13 8) (setB (F.FAB_ERR_BAD_CLASS p) true d)

/-- The messages of a flit, in slot order (R88, R90). -/
def slotMsgs (p : Nat) (smap : BitVec 15) : Nat → List Slot → Dev → Dev
  | _, [], d => d
  | i, w :: rest, d => slotMsgs p smap (i + 1) rest (if smap.getLsbD i then slotMsg p w rest d else d)

/-! ## Flits -/

/-- Credits returned in a flit (R88, R95). -/
def takeCredits (p cls n : Nat) (d : Dev) : Dev :=
  if n = 0 then d else onLink p (fun x => { x with crHeld := x.crHeld.put 0 cls (x.crHeld.get 0 cls + n) }) d

/-- The frame control word (R82, R83): a SYNC other than 0xB5 is a frame error; a word with a wrong FCRC is ignored, and so is a
link-control code that repeats the last one; a reserved code is a protocol error. -/
def fcwIn (l : Nat) (w : Fcw) (d : Dev) : Dev :=
  let code := w.lctl.toNat
  let key := BitVec.ofNat 16 (code + w.larg.toNat * 256)
  let d := if w.sync ≠ 0xB5 then onLink l (fun x => { x with frameErrs := x.frameErrs + 1 }) d else d
  if !fcrcGood w then d
  else
  let d := onLink l (fun x => { x with rxFrame := some w.frame }) d
  if code = 0 then onLink l (fun x => { x with lastLctl := 0 }) d
  else if (linkOf d l).lastLctl = key then d
  else if code = 1 then swapReq l w.larg.toNat d
  else if code = 2 then swapRdy l w.larg.toNat d
  else if code = 3 then swapCommit l w.larg d
  else if code = 4 then halfReq l w.larg d
  else if code = 5 then halfCommit l w.larg d
  else if code = 6 then enterRealign l 2 (onLink l (fun x => { x with lastLctl := key }) d)
  else if l < 16 then lctlIn l code w.larg.toNat (raiseN (96 + 4 * l + 3) 4) d
  else d

/-- Why a flit is discarded (R91, R93, R294): counters and flags; the first discard sets NAK. -/
def discardFlit (l : Nat) (f : Flit) (d : Dev) : Dev :=
  let d := if l < 16 then
      (if !f.fecOk then count (0x4000 + 16 * l + 10) (setB (F.FAB_ERR_FEC_UNCORR l) true d)
       else if !crcGood f ∨ f.ftype = 3 then count (0x4000 + 16 * l + 11) (setB (F.FAB_ERR_CRC_FAIL l) true d) else d)
    else if f.fecOk ∧ crcGood f ∧ !f.tagOk then raiseN 362 0 (setB F.SLU_ERR_MIRROR_TAG true (count 0x9004 (count 0xA019 d))) else d
  if (linkOf d l).dropping then d else nakSent l (onLink l (fun x => { x with dropping := true }) d)

/-- A flit is accepted (R91): its ACK, NAK, credits and messages. -/
def acceptFlit (l : Nat) (f : Flit) (d : Dev) : Dev :=
  let d := onLink l (fun x => { x with rxSeq := f.seq.toNat, dropping := false, nakOut := false, nakRow := 0 }) d
  if l < 16 then
    let d := takeCredits l f.clsB.toNat f.cntB.toNat (takeCredits l f.clsA.toNat f.cntA.toNat d)
    let d := takeAckNak l f d
    flushLink l (if f.ftype = 0 then slotMsgs l f.smap 0 (f.slots.take 15) d else d)
  else flushLink l (takeAckNak l f d)

/-- The first flit after a Realign: this end replays from its ACK (R94). -/
def resumeReplay (l : Nat) (f : Flit) (d : Dev) : Dev := if (linkOf d l).replayDue then replay l f.ack.toNat d else d

/-- A hold flit (R92): its ACK and NAK count, whatever SEQ is expected. -/
def holdFlit (l : Nat) (f : Flit) (d : Dev) : Dev :=
  if ltOf d l ≠ 6 ∨ !f.fecOk ∨ !crcGood f then d else flushLink l (takeAckNak l f (resumeReplay l f d))

/-- A flit arrives in Active (R91, R93). -/
def flitIn (l : Nat) (f : Flit) (d : Dev) : Dev :=
  if ltOf d l ≠ 6 then d
  else
    let d := fcwIn l f.fcw (whenD (decide (l < 16 ∧ f.fixed ≠ 0)) (countN (0x4000 + 16 * l + 9) f.fixed.toNat) d)
    if ltOf d l ≠ 6 then d
    else if f.ftype = 2 then holdFlit l f d
    else
      let d := if f.fecOk ∧ crcGood f then resumeReplay l f d else d
      let x := linkOf d l
      let good := f.fecOk && crcGood f && (f.tagOk || decide (l < 16)) && f.ftype != 3
        && decide (f.seq.toNat = (x.rxSeq + 1) % 4096) && (!x.dropping || f.rply)
      if good then acceptFlit l f d else discardFlit l f d

/-- FLIT_RECEIVED (R91). -/
def execFlitReceived (link : Link) (f : Flit) (s : State) : Host.Outcome State Fault Refusal := runQ (flitIn link.val f) s

/-- HOLD_FLIT (R92). -/
def execHoldFlit (link : Link) (f : Flit) (s : State) : Host.Outcome State Fault Refusal := runQ (holdFlit link.val f) s

/-- NAK_RETRY_TIMER (R93): no replay within 2 tk, so NAK is set again. -/
def execNakRetryTimer (link : Link) (s : State) : Host.Outcome State Fault Refusal :=
  runQ (fun d =>
    let x := linkOf d link.val
    if ltOf d link.val = 6 ∧ x.dropping ∧ x.nakSince + 2 ≤ d.glb.tick then nakSent link.val d else d) s

/-! ## Training (R84-R87, R100) -/

/-- A port gives up its link state (R100): retry buffers and credits discarded, completions of lost CMPs retired, and the agents
bound to it declared dead, after event 0 of the port (R102). -/
def giveUp (p : Nat) (d : Dev) : Dev :=
  let agents := agentsOfPort d p
  let d := setLt p 1 16 (onLink p (fun x => { x with keep := false }) d)
  let d := onLink p (fun x => { x with retry := [], wait := [], crHeld := [], rxFree := [], owed := [] }) d
  let d := { d with svc := { d.svc with evtQ := d.svc.evtQ.put [] p [] } }
  sweepRetires (agents.foldl (fun d a => declareDead a 1 d) d)

/-- Whether Param's check refuses the agent side's words (R86, R139). KIND = 1, an LK4P at the far end of a fabric port, is refused
too: R86 does not list it (log entry 67). -/
def paramRefused (d : Dev) (p : Nat) (w0 w1 w2 : Word64) : Bool :=
  let ids := bitList 64 w1.toNat
  let allow := getPair (F.FAB_ALLOW_LO_ALLOW p) (F.FAB_ALLOW_HI_ALLOW p) d
  let elsewhere (a : Nat) : Bool := (portsOfAgent d a).any fun q => decide (q ≠ p) && (decide (ltOf d q = 6) || decide (ltOf d q = 8))
  decide (slotF (w0.zeroExtend 128) 7 0 ≠ 1) || w0.getLsbD 8 || (w0.getLsbD 9 != flag d (F.FAB_CTL_INTLV p))
    || ids.isEmpty || decide (8 < ids.length) || (ids.any fun a => !allow.testBit a || elsewhere a || isDead d a)
    || decide (bitsOf w2.toNat 15 8 < 16) || decide (bitsOf w2.toNat 23 16 < 16) || decide (bitsOf w2.toNat 31 24 < 16)
    || decide (bitsOf w2.toNat 39 32 < 4)

/-- Param refused (R86): the flag, event 3 of the port, and Detect again. -/
def paramRefuse (p : Nat) (d : Dev) : Dev :=
  raiseN (96 + 4 * p + 3) 5 (setB (F.FAB_ERR_PARAM_MISMATCH p) true (if ltOf d p = 5 ∨ ltOf d p = 8 then setLt p 1 0 d else d))

/-- Param of a fabric port (R85, R86, R95, R100): a resumed link replays from RX_SEQ; otherwise the port starts anew, with SEQ 0 the
first in both directions. RESUME = 1 to a device that kept no link state is a fresh start. The section states neither (log
entry 67). -/
def paramPort (p : Nat) (w0 w1 w2 : Word64) (d : Dev) : Dev :=
  let x := linkOf d p
  let resume := w0.getLsbD 10
  if resume && x.keep then
    if paramRefused d p w0 w1 w2 then paramRefuse p d
    else
      let ack := bitsOf w0.toNat 22 11
      let d := setPair (F.FAB_AGT_LO_BOUND p) (F.FAB_AGT_HI_BOUND p) w1.toNat d
      replay p ack (onLink p (fun x => { x with
        paramOk := true, dropping := false, nakOut := false
        acked := ack, retry := x.retry.filter fun f => !covers ack f.seq }) d)
  else
    let d := if x.keep then giveUp p d else d
    if paramRefused d p w0 w1 w2 then paramRefuse p d
    else
      let cr : SMap Nat := [(1, bitsOf w2.toNat 15 8), (2, bitsOf w2.toNat 23 16), (3, bitsOf w2.toNat 31 24), (4, bitsOf w2.toNat 39 32)]
      let d := setPair (F.FAB_AGT_LO_BOUND p) (F.FAB_AGT_HI_BOUND p) w1.toNat d
      let d := setF (F.FAB_CRINIT_GRANT p) (bitsOf w2.toNat 39 8) d
      onLink p (fun x => { x with
        paramOk := true, txSeq := 0, rxSeq := 4095, acked := 4095, nakOut := false, dropping := false, replayFrom := none
        retry := [], wait := [], crHeld := cr, rxFree := [(0, 192), (2, 128), (3, 96), (4, 16)], owed := [], ackOut := 4095 }) d

/-- Param of the mirror link (R293): KIND 1 at both ends, and the other role. -/
def paramMirror (w0 : Word64) (d : Dev) : Dev :=
  if !w0.getLsbD 8 ∨ slotF (w0.zeroExtend 128) 7 0 ≠ 1 then setLt 16 1 0 d
  else if w0.getLsbD 27 == roleB d then raiseN 385 1 (setF F.TWN_HS_INFO_REASON 1 (setB F.TWN_ERR_HS_REFUSED true (setLt 16 1 0 d)))
  else if w0.getLsbD 10 && (linkOf d 16).keep then
    let ack := bitsOf w0.toNat 22 11
    replay 16 ack (onLink 16 (fun x => { x with
      paramOk := true, dropping := false, acked := ack, retry := x.retry.filter fun f => !covers ack f.seq }) d)
  else onLink 16 (fun x => { x with
    paramOk := true, txSeq := 0, rxSeq := 4095, acked := 4095, nakOut := false, dropping := false, replayFrom := none, retry := [], mirWait := [], ackOut := 4095 })
    (onTwn (fun t => { t with txSeq := 0, rxSeq := 0 }) d)

/-- PARAM (R86): the other end's three control words, in Param or at the end of a Down. -/
def execParam (link : Link) (w0 w1 w2 : Word64) (s : State) : Host.Outcome State Fault Refusal :=
  runQ (fun d =>
    if ltOf d link.val ≠ 5 ∧ ltOf d link.val ≠ 8 then d
    else if link.val < 16 then paramPort link.val w0 w1 w2 d else paramMirror w0 d) s

/-- Enter Active: what waited may go, and a swap that a Realign abandoned starts again (R98); the mirror link begins the handshake in
Pairing (R84, R94, R310). A receiver that was discarding flits goes on from the expected SEQ without demanding RPLY: the spec does not
say whether it does (log entry 67). -/
def goActive (l : Nat) (d : Dev) : Dev :=
  let d := onLink l (fun x => { x with
    everActive := true, keep := true, paramOk := false, nakOut := false, dropping := false, ackOut := (x.rxSeq + 1) % 4096
    swapLane := x.swapAgain, swapSince := if x.swapAgain.isSome then d.glb.tick else x.swapSince, swapAgain := none
    lctlOut := x.swapAgain.map fun lane => (1, BitVec.ofNat 8 lane) }) d
  let d := setLt l 6 0 d
  if l < 16 then flushLink l (pump l d) else hsBegin (flushLink l (mirPump d))

/-- Whether the lane order found names the lanes found, each once: nibble i is the physical lane of logical lane i. -/
def orderOk (lanes : BitVec 9) (order : Word) : Bool :=
  let ps := (List.range 8).map fun i => bitsOf order.toNat (4 * i + 3) (4 * i)
  decide ps.Nodup && ps.all fun q => decide (q < 9) && lanes.getLsbD q

/-- The lanes found in training (R79, R84): polarity, the lane order, the dead lane recorded as failed; with a data lane dead the
spare is in use. An order that does not fit the lanes found leaves each logical lane on its own physical lane, or on the spare. All
eight logical lanes are back, so a port at half width is at full width again (R99). -/
def lanesFound (p : Nat) (lanes pol : BitVec 9) (order : Word) (d : Dev) : Dev :=
  let d := setF (F.FAB_STS_POL p) pol.toNat d
  let dead := (List.range 9).filter fun i => !lanes.getLsbD i
  let map (i : Nat) : Nat :=
    if orderOk lanes order then bitsOf order.toNat (4 * i + 3) (4 * i) else if lanes.getLsbD i then i else 8
  let d := forEach (List.range 8) (fun i d => setF (lmapFld p i) (map i) d) d
  let d := setF (F.FAB_STS_FAILED_A p) (dead.headD 0xF) (setF (F.FAB_STS_FAILED_B p) 0xF d)
  let d := setB (F.FAB_STS_HALF p) false (setB (F.FAB_STS_SPARE_USED p) ((List.range 8).any fun i => decide (map i = 8)) d)
  onLink p (fun x => { x with failed := dead, halfMap := none, txHalf := none }) d

/-- The lane order and polarity found again in a Realign, where the lanes in use stay (R84). -/
def lanesAgain (p : Nat) (lanes pol : BitVec 9) (order : Word) (d : Dev) : Dev :=
  let d := setF (F.FAB_STS_POL p) pol.toNat d
  if flag d (F.FAB_STS_HALF p) || !orderOk lanes order then d
  else
    let d := forEach (List.range 8) (fun i d => setF (lmapFld p i) (bitsOf order.toNat (4 * i + 3) (4 * i)) d) d
    setB (F.FAB_STS_SPARE_USED p) ((List.range 8).any fun i => decide (bitsOf order.toNat (4 * i + 3) (4 * i) = 8)) d

/-- A training state's exit condition is met (R84). In Active it says that the spare of a swap under way is locked and equalized: the
receiver sends SWAP_RDY (R98). -/
def stateExit (l : Nat) (lanes pol : BitVec 9) (order : Word) (d : Dev) : Dev :=
  let enough := decide (8 ≤ (bitList 9 lanes.toNat).length) || decide (l = 16)
  match ltOf d l with
  | 0 => if mayTrain d l then setLt l 1 0 d else d
  | 1 => if enough then setLt l 2 0 d else d
  | 2 => if enough then setLt l 3 0 d else d
  | 3 => setLt l 4 0 d
  | 4 => setLt l 5 0 (if l < 16 then lanesFound l lanes pol order d else d)
  | 5 => if (linkOf d l).paramOk then goActive l d else d
  | 6 =>
    (match (linkOf d l).swapLane with
    | some lane =>
      if lanes.getLsbD 8 ∧ (linkOf d l).switchAt = none then onLink l (fun x => { x with lctlOut := some (2, BitVec.ofNat 8 lane) }) d
      else d
    | none => d)
  | 7 => goActive l (onLink l (fun x => { x with replayDue := true }) (if l < 16 then lanesAgain l lanes pol order d else d))
  | 8 => if (linkOf d l).paramOk then goActive l (if l < 16 then lanesFound l lanes pol order d else d) else d
  | _ => d

/-- TRAINING_STATE_EXIT (R84). -/
def execTrainingStateExit (link : Link) (lanes : BitVec 9) (x : LanesFound) (s : State) : Host.Outcome State Fault Refusal :=
  runQ (stateExit link.val lanes x.pol x.order) s

/-- TRAINING_FRAMES_RECEIVED (R84): the other end has started a retrain; the port enters Down with its link state kept. -/
def execTrainingFramesReceived (link : Link) (tstate : BitVec 8) (s : State) : Host.Outcome State Fault Refusal :=
  runQ (fun d =>
    let s := ltOf d link.val
    let t := tstate.toNat
    if s = 6 ∨ (s = 7 ∧ 1 ≤ t ∧ t ≤ 3) then enterDown link.val d else d) s

/-- The time limit of a training state (R84). -/
def trainLimit (s : Nat) : Option Nat :=
  if s = 2 then some 2000 else if s = 3 then some 20000 else if s = 4 ∨ s = 5 ∨ s = 7 then some 1000 else none

/-- TRAINING_TIMEOUT (R84): Detect again, or Down from Realign. -/
def execTrainingTimeout (link : Link) (s : State) : Host.Outcome State Fault Refusal :=
  runQ (fun d =>
    let l := link.val
    let s := ltOf d l
    match trainLimit s with
    | none => d
    | some n =>
      if d.glb.tick < (linkOf d l).stateSince + n then d
      else
        let d := if l < 16 then setB (F.FAB_ERR_TRAIN_TMO l) true d else d
        let d := if l < 16 ∧ s = 5 then setB (F.FAB_ERR_PARAM_MISMATCH l) true d else d
        if s = 7 then enterDown l d else setLt l 1 0 d) s

/-- DOWN_TIMEOUT (R100): a port that cannot leave Down in FAB_DOWN_TMO gives up its agents and trains anew. -/
def execDownTimeout (port : Fin 16) (s : State) : Host.Outcome State Fault Refusal :=
  runQ (fun d =>
    let p := port.val
    match (linkOf d p).downSince with
    | none => d
    | some t =>
    if ltOf d p = 6 ∨ d.glb.tick < t + getF d F.FAB_DOWN_TMO_TMO then d
    else giveUp p (setB (F.FAB_ERR_TRAIN_TMO p) true d)) s

end Sys2Proof.Machine
end

