-- ==== Sys2Proof/Machine/NearTier.lean ====
section
/-!
DEFINITION. The near tier's channels: where lines are (R163, R164, R166, R167), errors and their recovery (R170-R173), row retirement
(R172), scrubbing (R174), Weir (R175-R179), and the end of a merge window (R169).
-/
namespace Sys2Proof.Machine

/-! ## Where lines are (R163, R164, R166) -/

/-- Channel blocks per channel (R163). -/
def channelBlocks (d : Dev) : Nat := 4194304 * 2 ^ getF d F.NTR_CFG_DENS

/-- The data channel and channel block of a main-space block. -/
def blockPlace (d : Dev) (b : Nat) : Nat × Nat :=
  (d.ntr.data_.getD (b % d.ntr.data_.length) 0, b / d.ntr.data_.length)

/-- The spare channel and channel block of a pool-space block. -/
def poolPlace (d : Dev) (b : Nat) : Nat × Nat :=
  (d.ntr.spare.getD (b % d.ntr.spare.length) 0, b / d.ntr.spare.length)

/-- The channel block of a bank, row and block of the row (R163): bits 14:11 of the byte address are the bank, 32:15 the row. -/
def chanBlock (bank row block : Nat) : Nat := (row * 16 + bank) * 4 + block

/-- The main-space block that a channel block holds; none on a channel that is not in D. -/
def mainBlock (d : Dev) (ch cb : Nat) : Option Nat :=
  ((List.range d.ntr.data_.length).find? fun i => decide (d.ntr.data_.getD i 64 = ch)).map fun i => cb * d.ntr.data_.length + i

/-- The pool-space block that a channel block holds. -/
def poolBlock (d : Dev) (ch cb : Nat) : Option Nat :=
  ((List.range d.ntr.spare.length).find? fun i => decide (d.ntr.spare.getD i 64 = ch)).map fun i => cb * d.ntr.spare.length + i

/-- The region of a main-space block (R164). -/
def regionAt (d : Dev) (b : Nat) : Option Nat :=
  (List.range 5).find? fun r => decide (getF d (F.NTR_RGN_BASE r) ≤ b) && decide (b < getF d (F.NTR_RGN_BASE r) + getF d (F.NTR_RGNSZ_SIZE r))

/-- What a line slot holds. -/
inductive NtLine where
  | nothing
  | seg (line : Nat)
  | setState (set slot : Nat)
  | leaf (la : Nat)
  | pool (entry : Nat)
  | item (i : NtItem)
  deriving DecidableEq, Repr

/-- What slot G of the main leaf cache holds (R166): a set's directory and frame state, or a line of the leaf in a frame. -/
def leafSlot (d : Dev) (g : Nat) : NtLine :=
  if setCount d ≤ g / 515 then .nothing
  else if g % 515 < 3 then .setState (g / 515) (g % 515)
  else match (d.ntr.frames.get {} (g / 515 * 8 + (g % 515 - 3) / 64)).leaf with
    | none => .nothing
    | some v => .leaf (v * 64 + (g % 515 - 3) % 64)

/-- The line of a unit read on a channel (R163, R164, R166, R167). -/
def unitLine (d : Dev) (ch : Nat) (cb : Nat) (u : NtUnit) : NtLine :=
  if u.item ≠ .placed then .item u.item
  else match mainBlock d ch cb with
    | some b =>
      (match regionAt d b with
      | some 0 => .seg ((b - getF d (F.NTR_RGN_BASE 0)) * 7 + u.slot.val)
      | some 4 => leafSlot d ((b - getF d (F.NTR_RGN_BASE 4)) * 7 + u.slot.val)
      | _ => .nothing)
    | none =>
      match poolBlock d ch cb with
      | some b => if (b * 7 + u.slot.val) / 65 < getF d F.NTR_POOL_NPOOL then .pool ((b * 7 + u.slot.val) / 65) else .nothing
      | none => .nothing

/-- Whether a line slot holds a valid line of its structure (R171). -/
def lineHeld (d : Dev) : NtLine → Bool
  | .nothing => false
  | .seg l => (List.range 8).any fun i => decide (d.xlt.segs.get {} (8 * l + i) ≠ {})
  | .setState _ _ => true
  | .leaf la => lineValid d la
  | .pool e => (d.ntr.pool.get {} e).leaf.isSome
  | .item .placed => false
  | .item (.mapPage s) => decide (s.toNat ∈ d.xlt.cached)
  | .item (.node l i) => d.slu.near.any fun e => decide (e.1 = nodeKey l.toNat i.toNat)
  | .item (.shadowNode l i) => d.slu.shadows.any fun e => decide (e.1 = nodeKey l.toNat i.toNat)
  | .item (.journal c) => decide ((d.xlt.journals.get {} c.toNat).buf ≠ [])
  | .item (.shadowJournal c) => decide ((d.xlt.journals.get {} c.toNat).shadow ≠ [])
  | .item (.directory i) => decide (i.toNat < 65536 * 17 / 2)
  | .item (.merge la) => (mergeOf d la.toNat).isSome

/-- The channel of a line of the main leaf cache, when it is held there. -/
def lineChannel (d : Dev) (la : Nat) : Option Nat :=
  (mainWay d (la / 64)).map fun w =>
    (blockPlace d (getF d (F.NTR_RGN_BASE 4) + (515 * leafSet d (la / 64) + 3 + 64 * w + la % 64) / 7)).1

/-- The frames with a line slot in a channel block: set × 8 + way. -/
def framesOfBlock (d : Dev) (ch cb : Nat) : List Nat :=
  match mainBlock d ch cb with
  | none => []
  | some b =>
    if regionAt d b ≠ some 4 then []
    else
      let slots := (List.range 7).map fun j => (b - getF d (F.NTR_RGN_BASE 4)) * 7 + j
      (slots.filterMap fun g => if g % 515 < 3 then none else some (g / 515 * 8 + (g % 515 - 3) / 64)).foldl
        (fun l x => insertNew x l) []

/-- The frames of a row: its four blocks (R163). -/
def framesOfRow (d : Dev) (ch bank row : Nat) : List Nat :=
  (List.range 4).foldl (fun l k => (framesOfBlock d ch (chanBlock bank row k)).foldl (fun l x => insertNew x l) l) []

/-! ## Recovery (R171) -/

/-- Recover a dirty leaf line past its commit point: from the partner, or poisoned by a twin alone. -/
def recoverDirty (la reason : Nat) (d : Dev) : Dev :=
  if alone d then repairBad la reason d
  else askLine la (onNtr (fun n => { n with repair := insertNew (BitVec.ofNat 46 la, reason) n.repair }) d)

/-- A line has a write before its commit point: the home's staging entry still holds it. -/
def staged (d : Dev) (la : Nat) : Bool := d.bsn.txns.any fun e => e.2.phase == .sent && !e.2.acked && decide (txnLine e.2 = la)

/-- The requests for a line have been touched by cause 0x4 (R252). -/
def noteLine (p : Dev → Nat → Bool) (d : Dev) : Dev :=
  ((htags d).filter fun h => running (getT d h) && p d (txnLine (getT d h))).foldl (fun d h => noteCause h 4 d) d

/-- Recover a line of the main leaf cache: a clean one is no longer valid; a dirty one comes from the home's staging entry before its
commit point. A line that a merge drain reads fails as R280 says. -/
def recoverLeafLine (drain : Bool) (la : Nat) (d : Dev) : Dev :=
  let l := lineOf d la
  if !l.valid then d
  else
    let d := noteLine (fun _ x => decide (x = la)) d
    if l.minor = 0 then putLine la {} d
    else if staged d la then d
    else recoverDirty la (if drain && (mergeOf d la).isSome then 2 else 1) d

/-- Invalidate a pool entry. -/
def poolDrop (e : Nat) (d : Dev) : Dev :=
  match (d.ntr.pool.get {} e).leaf with
  | none => d
  | some leaf => dropLines leaf (onNtr (fun n => { n with pool := n.pool.put {} e {} }) d)

/-- Ask the partner for a way of its filter that a lost line of the shadow directory held (R299). -/
def askWay (idx : Nat) (d : Dev) : Dev :=
  onTwn (fun t => { t with lreqs := t.lreqs ++ [{ kind := 3, set := idx / 17, way := idx % 17 }] }) d

/-- A segment entry as the checkpoint and the journal of its channel give it (R165, R232). -/
def segRebuilt (d : Dev) (e : Nat) : Seg :=
  let j := d.xlt.journals.get {} (dieOfOrdinal d e / 32)
  let rec_ (s : Seg) : Nat × JRec → Seg
    | (_, .mapPage e' v) => if e' = e then v else s
    | _ => s
  (j.media ++ j.buf).foldl rec_ (j.ckSegs.get {} e)

/-- Rebuild a line of the segment table: the map service runnel does it from the checkpoint and the journal; event 250. -/
def rebuildSegs (ch l : Nat) (d : Dev) : Dev :=
  let es := (List.range 8).map fun i => 8 * l + i
  raiseN 250 ch (onXlt (fun x => { x with segs := es.foldl (fun m e => m.put {} e (segRebuilt d e)) x.segs }) d)

/-- Recover a counter line or node: from its shadow while it has one, else from its node pages in media. A page that fails is a node
failure, and the other copy is read; with both lost, event 354, and the device withdraws (R273, R277). -/
def recoverNode (level idx : Nat) (copies : BitVec 2) (d : Dev) : Dev :=
  let key := nodeKey level idx
  match d.slu.shadows.find? fun e => decide (e.1 = key) with
  | some e => onSlu (fun s => { s with near := s.near.insert key e.2 }) d
  | none =>
    let d := if copies = 0 then d else setB F.SLU_ERR_NODE_TAG true (count 0x9002 d)
    if copies = 3 then withdraw false (raiseBy true 354 (BitVec.ofNat 32 level) d)
    else
      let p := d.slu.nodePages.get {} (let e := d.slu.nodeDir.get (0, 0) key; if copies.getLsbD 0 then e.2 else e.1)
      match (List.zip p.keys p.vals).find? fun e => decide (e.1 = key) with
      | some e => onSlu (fun s => { s with near := s.near.insert key e.2 }) d
      | none => d

/-- Write a node's shadow again from the primary; event 251. -/
def rewriteShadow (ch key : Nat) (d : Dev) : Dev :=
  raiseN 251 ch (onSlu (fun s => { s with shadows := s.shadows.insert key (s.near.get {} key) }) d)

/-- Change the journal of a media channel. -/
def onJournal (c : Nat) (f : Journal → Journal) (d : Dev) : Dev :=
  onXlt (fun x => { x with journals := x.journals.upd {} c f }) d

/-- A merge-buffer entry's SRAM has failed (R169): its bytes are those of a dirty leaf line. -/
def recoverMerge (la : Nat) (d : Dev) : Dev :=
  let i := ((List.range 64).find? fun i => decide ((d.ntr.merge[i]?).map (fun m => m.laddr.toNat) = some la)).getD 0
  let d := raiseN 246 i d
  if staged d la then d else recoverDirty la 1 (mergeDrop la d)

/-- Recover a line by its kind (R171, R299). A line of the sets' directory and frame state has no row in R171's table: the device writes
it again from what it holds (log entry 75). -/
def recoverUnit (ch : Nat) (drain : Bool) (copies : BitVec 2) (l : NtLine) (d : Dev) : Dev :=
  match l with
  | .nothing => d
  | .seg l => rebuildSegs ch l d
  | .setState _ _ => d
  | .leaf la => recoverLeafLine drain la d
  | .pool e => poolDrop e d
  | .item .placed => d
  | .item (.mapPage s) =>
    if s.toNat ∈ d.xlt.dirtyMaps then d else onXlt (fun x => { x with cached := x.cached.filter fun e => decide (e ≠ s.toNat) }) d
  | .item (.node l i) => recoverNode l.toNat i.toNat copies d
  | .item (.shadowNode l i) => rewriteShadow ch (nodeKey l.toNat i.toNat) d
  | .item (.journal c) => onJournal c.toNat (fun j => { j with buf := j.shadow }) d
  | .item (.shadowJournal c) => raiseN 251 ch (onJournal c.toNat (fun j => { j with shadow := j.buf }) d)
  | .item (.directory i) => if alone d then d else askWay (2 * i.toNat + 1) (askWay (2 * i.toNat) d)
  | .item (.merge la) => recoverMerge la.toNat d

/-! ## Channel failure (R173) -/

/-- The group of a channel, and its spare. -/
def groupOf (ch : Nat) : Nat := ch / 16
/-- The spare channel of a group. -/
def spareCh (g : Nat) : Nat := 16 * g + 15
/-- NTR_SPARE's FAILED field of a group. -/
def failedFld (g : Nat) : Fld := ⟨F.NTR_SPARE_ACTIVE.addr, 8 + 6 * g, 3 + 6 * g⟩

/-- The lines of the segment table that lie on a channel and hold entries. -/
def segLinesOn (d : Dev) (ch : Nat) : List Nat :=
  (d.xlt.segs.foldl (fun l e => insertNew (e.1 / 8) l) []).filter fun l =>
    decide ((blockPlace d (getF d (F.NTR_RGN_BASE 0) + l / 7)).1 = ch)

/-- Every line of a failed channel is recovered (R173 step 3). Leaf-cache and segment-table lines are those the layout puts there; for
the other regions, whose layout the spec does not give, every clean cached map page is dropped, every shadowed line is whole in one of its
two copies, and one event 251 stands for the shadows written again (log entry 75). -/
def recoverChannel (ch : Nat) (leaves segs : List Nat) (d : Dev) : Dev :=
  let d := leaves.foldl (fun d la => recoverLeafLine false la d) d
  let d := segs.foldl (fun d l => rebuildSegs ch l d) d
  let d := onXlt (fun x => { x with cached := x.cached.filter fun e => decide (e ∈ x.dirtyMaps) }) d
  if d.slu.shadows = [] ∧ (d.xlt.journals.all fun j => decide (j.2.shadow = [])) then d else raiseN 251 ch d

/-- A channel fails: its group's spare takes its place, the pool shrinks, its lines are recovered; with no spare the device
withdraws (R173). -/
def channelFail (ch : Nat) (d : Dev) : Dev :=
  let g := groupOf ch
  let sp := spareCh g
  let d := raiseN (192 + ch) 3 d
  if ch = sp ∨ (getF d F.NTR_SPARE_ACTIVE).testBit g then withdraw false (raiseBy true 244 (BitVec.ofNat 32 ch) d)
  else
    let leaves := (d.ntr.lines.filter fun e => decide (lineChannel d e.1 = some ch)).map fun e => e.1
    let segs := segLinesOn d ch
    let d := (d.ntr.pool.filterMap fun e => e.2.leaf).foldl (fun d leaf => dropLines leaf d) d
    let spare := d.ntr.spare.filter fun x => x ≠ sp
    let npool := 7 * spare.length * channelBlocks d / 65
    let d := onNtr (fun n => { n with
      pool := [], spare := spare, data_ := n.data_.map fun c => if c = ch then sp else c, weir := n.weir.erase ch }) d
    let d := setF F.NTR_POOL_NPOOL npool (setF F.NTR_SPARE_ACTIVE (getF d F.NTR_SPARE_ACTIVE ||| 2 ^ g) d)
    let d := setF (failedFld g) ch (setF (F.NTR_CH_STATE ch) 4 (setF (F.NTR_CH_STATE sp) 3 d))
    let d := raiseN 243 (ch + sp * 64) (count 0xF005 d)
    recoverChannel ch leaves segs d

/-! ## Rows (R170, R172) -/

/-- A correctable-error table entry of an address. -/
def ceFind (d : Dev) (ch bank row block slot : Nat) : Option Nat :=
  (List.range 32).find? fun k => flag d (F.NTR_CE_LO_VALID k) && decide (getF d (F.NTR_CE_LO_CHANNEL k) = ch)
    && decide (getF d (F.NTR_CE_LO_BANK k) = bank) && decide (getF d (F.NTR_CE_LO_ROW k) = row)
    && decide (getF d (F.NTR_CE_LO_BLOCK k) = block) && decide (getF d (F.NTR_CE_HI_SLOT k) = slot)

/-- Log a correctable error's address (R170). -/
def ceLog (ch bank row block slot : Nat) (d : Dev) : Dev :=
  match ceFind d ch bank row block slot with
  | some k => addSat (F.NTR_CE_HI_COUNT k) 1 d
  | none =>
    match (List.range 32).find? fun k => !flag d (F.NTR_CE_LO_VALID k) with
    | some k =>
      let d := setF (F.NTR_CE_LO_CHANNEL k) ch (setF (F.NTR_CE_LO_BANK k) bank (setF (F.NTR_CE_LO_ROW k) row d))
      let d := setF (F.NTR_CE_LO_BLOCK k) block (setB (F.NTR_CE_LO_VALID k) true d)
      setF (F.NTR_CE_HI_SLOT k) slot (setF (F.NTR_CE_HI_COUNT k) 1 d)
    | none => if flag d F.NTR_CE_STS_OVF then d else raiseN 240 ch (setB F.NTR_CE_STS_OVF true d)

/-- Table entries of a row. -/
def rowEntries (d : Dev) (ch bank row : Nat) : List Nat :=
  (List.range 32).filter fun k => flag d (F.NTR_CE_LO_VALID k) && decide (getF d (F.NTR_CE_LO_CHANNEL k) = ch)
    && decide (getF d (F.NTR_CE_LO_BANK k) = bank) && decide (getF d (F.NTR_CE_LO_ROW k) = row)

/-- Change the Weir of a channel. -/
def onWeir (ch : Nat) (f : WeirCh → WeirCh) (d : Dev) : Dev := onNtr (fun n => { n with weir := n.weir.upd {} ch f }) d

/-- The Weir of a channel. -/
def weirOf (d : Dev) (ch : Nat) : WeirCh := d.ntr.weir.get {} ch

/-- The redirections of a channel's remap table (R172). -/
def remapOf (d : Dev) (ch : Nat) : List (Nat × Nat) := (weirOf d ch).remap

/-- The row that serves a block of a row (R172): the borrowed row once its copy is written. -/
def servedRow (d : Dev) (ch key block : Nat) : Nat :=
  let w := weirOf d ch
  match w.remap.find? fun e => decide (e.1 = key), w.copies.find? fun c => decide (c.row = key) with
  | some e, _ => e.2
  | none, some c => if block < c.done then c.dest else key
  | none, none => key

/-- Take frames of the leaf cache out of use. A clean leaf is dropped from one; a dirty or pinned leaf stays until it is neither. -/
def framesOut (fs : List Nat) (d : Dev) : Dev :=
  fs.foldl (fun d f =>
    match (d.ntr.frames.get {} f).leaf with
    | none => onNtr (fun n => { n with frames := n.frames.put {} f { out := true } }) d
    | some v =>
      if leafDirty d v || pinnedLeaf d v then onNtr (fun n => { n with frames := n.frames.put {} f { leaf := some v, out := true } }) d
      else dropLines v (onNtr (fun n => { n with frames := n.frames.put {} f { out := true } }) d)) d

/-- The frames out of use give up the leaves that have become clean. -/
def framesEmptied (d : Dev) : Dev := framesOut ((d.ntr.frames.filter fun e => e.2.out && e.2.leaf.isSome).map fun e => e.1) d

/-- Whether a row of the leaf region can be borrowed: its frames hold no dirty or pinned leaf and are in use. -/
def rowFree (d : Dev) (ch key : Nat) : Bool :=
  let fs := framesOfRow d ch (key % 16) (key / 16)
  !fs.isEmpty && fs.all fun f =>
    let x := d.ntr.frames.get {} f
    !x.out && (match x.leaf with | none => true | some v => !leafDirty d v && !pinnedLeaf d v)

/-- The row to borrow: the first from the region's end, among 4,096, whose frames are free and which is none that fails itself (the
choice is the model's, log entry 75). -/
def borrowRow (d : Dev) (ch : Nat) : Option Nat :=
  let last := (getF d (F.NTR_RGN_BASE 4) + getF d (F.NTR_RGNSZ_SIZE 4)) / d.ntr.data_.length / 4
  let w := weirOf d ch
  (List.range (min last 4096)).findSome? fun i =>
    let key := last - 1 - i
    if rowFree d ch key && !(w.remap.any fun e => decide (e.1 = key) || decide (e.2 = key))
      && !(w.copies.any fun c => decide (c.row = key) || decide (c.dest = key)) then some key else none

/-- Retire a row (R172): a row is borrowed and the copy starts, as Weir requester 8. With the remap table full, frames of the leaf
cache go out of use, and in another region the channel fails; so it does where no row can be borrowed (R173). A row of the pool is not
retired: its channel has no row of the leaf cache (log entry 75). -/
def retireRow (ch bank row block : Nat) (d : Dev) : Dev :=
  let key := row * 16 + bank
  let w := weirOf d ch
  match mainBlock d ch (chanBlock bank row block) with
  | none => d
  | some b =>
    if (w.remap.any fun e => decide (e.1 = key)) || (w.copies.any fun c => decide (c.row = key)) then d
    else if 32 ≤ w.remap.length + w.copies.length then
      (if regionAt d b = some 4 then raiseN 249 ch (framesOut (framesOfRow d ch bank row) d) else channelFail ch d)
    else match borrowRow d ch with
      | none => channelFail ch d
      | some r =>
        onWeir ch (fun w => { w with copies := w.copies ++ [{ row := key, dest := r }], raised := w.raised ||| 0x100 })
          (framesOut (framesOfRow d ch (r % 16) (r / 16)) d)

/-- A redirection enters the remap table and is recorded in the Grotto (R172). -/
def enterRemap (ch key row : Nat) (d : Dev) : Dev :=
  let d := onWeir ch (fun w => { w with remap := w.remap ++ [(key, row)] }) d
  let d := onGrt (fun g => { g with rows := insertNew (ch, key) g.rows }) d
  setF (F.NTR_CH_REMAP ch) (remapOf d ch).length d

/-- One block of a row retirement is copied; the fourth ends it (R172): the redirection, the row's table entries freed, the event. -/
def copyBlock (ch : Nat) (d : Dev) : Dev :=
  match (weirOf d ch).copies with
  | [] => d
  | c :: rest =>
    if c.done + 1 < 4 then
      onWeir ch (fun w => { w with copies := { c with done := c.done + 1 } :: rest, raised := w.raised ||| 0x100 }) d
    else
      let d := onWeir ch (fun w => { w with copies := rest, raised := if rest = [] then w.raised else w.raised ||| 0x100 }) d
      let d := (rowEntries d ch (c.row % 16) (c.row / 16)).foldl (fun d k => setB (F.NTR_CE_LO_VALID k) false d) d
      let d := enterRemap ch c.row c.dest d
      let d := if flag d F.NTR_SCRUB_CTL_BUSY then onNtr (fun n => { n with scrubRows := n.scrubRows + 1 }) d else d
      raiseN (192 + ch) 1 (count 0xF004 d)

/-- Retire the row of an access when its counts or an uncorrectable error ask for it (R172). -/
def rowCheck (ch bank row block : Nat) (bad : Bool) (d : Dev) : Dev :=
  let sum := ((rowEntries d ch bank row).map fun k => getF d (F.NTR_CE_HI_COUNT k)).sum
  if bad || decide (getF d F.NTR_THR_ROW_THR ≤ sum) then retireRow ch bank row block d else d

/-- What reading one line unit gives (R162, R170, R171, R173): `r` is the requester. Slots that hold no valid line are ignored, and so
is every error once the channel has failed. -/
def unitErrors (ch bank row block r : Nat) (u : NtUnit) (d : Dev) : Dev :=
  let l := unitLine d ch (chanBlock bank row block) u
  let scrub := flag d F.NTR_SCRUB_CTL_BUSY && decide (r = 7)
  let res := unitResult u.err
  let s := getF d (F.NTR_CH_STATE ch)
  if s = 0 ∨ 4 ≤ s ∨ !lineHeld d l ∨ res = 0 then d
  else match l with
    | .item (.merge la) => if res = 1 then d else recoverUnit ch false 0 (.item (.merge la)) d
    | l =>
      if res = 1 then
        let d := ceLog ch bank row block u.slot.val (count (0x6000 + 8 * ch) d)
        rowCheck ch bank row block false (if scrub then onNtr (fun n => { n with scrubCe := n.scrubCe + 1 }) d else d)
      else
        let d := if res = 2 then count (0x6001 + 8 * ch) (onWeir ch (fun w => { w with ueEpoch := w.ueEpoch + 1 }) d)
          else raiseN 352 ch (setB F.SLU_ERR_LINE_TAG true (count 0x9000 d))
        let d := if scrub then onNtr (fun n => { n with scrubUe := n.scrubUe + 1 }) d else d
        let d := raiseN (192 + ch) 2 (recoverUnit ch (decide (r = 4)) u.copies l d)
        if getF d F.NTR_THR_UE_THR < (weirOf d ch).ueEpoch then channelFail ch d
        else if res = 2 then rowCheck ch bank row block true d else d

/-! ## Weir (R175-R179) -/

/-- Line units of a requester's tenure (R175): one, or the seven of a block. -/
def tenureUnits (r : Nat) : Nat := if r ∈ [2, 5, 6, 7, 8, 9] then 7 else 1

/-- Whether a descriptor's near-tier range lies partly on a channel, its address taken as a byte address of main space (log entry
75). -/
def xferOn (d : Dev) (ch : Nat) (t : List (BitVec 8)) : Bool :=
  let num (o n : Nat) : Nat := ((t.drop o).take n).foldr (fun b a => b.toNat + 256 * a) 0
  let w := num 20 4
  let hit (a : Nat) : Bool :=
    (List.range (min 64 (num 16 2 % 4096 * 64 / 512 + 1))).any fun i => decide ((blockPlace d (a / 512 + i)).1 = ch)
  (decide (w % 4 = 1) && hit (num 0 8)) || (decide (w / 4 % 4 = 1) && hit (num 8 8))

/-- The class of requester 5 on a channel: WCLASS of the first outstanding XFER that uses the channel (R62, R175). -/
def xferClass (d : Dev) (ch : Nat) : Nat :=
  ((d.sch.runnels.flatMap fun r => r.2.core.xfers).find? fun x => xferOn d ch x.tmpl).elim 0 fun x =>
    (((x.tmpl.drop 20).take 4).foldr (fun b a => b.toNat + 256 * a) 0) / 128 % 4

/-- The class of a requester (R175, R176). -/
def classOf (d : Dev) (ch r : Nat) : Nat :=
  if r = 5 then xferClass d ch
  else if r = 9 ∧ d.glb.base = .shutdown then 0
  else bitsOf (regGet d F.NTR_WCLS_CLS.addr).toNat (2 * r + 1) (2 * r)

/-- Whether a class may compete in a sub-window (R176). -/
def classOn (d : Dev) (k c : Nat) : Bool :=
  decide (d.glb.base = .shutdown)
    || (if k < 8 then (regGet d F.NTR_WIN_LO_MASK.addr).toNat.testBit (4 * k + c)
        else (regGet d F.NTR_WIN_HI_MASK.addr).toNat.testBit (4 * (k - 8) + c))

/-- The requester granted next: in the lowest enabled class with a request raised, round robin from the one after the last
granted in that class (R176). -/
def weirNext (d : Dev) (ch : Nat) (w : WeirCh) (raised : BitVec 10) (k : Nat) : Option (Nat × Nat) :=
  (List.range 4).findSome? fun c =>
    if !classOn d k c then none
    else
      let from_ := (w.lastOf.get 9 c) + 1
      ((List.range 10).map fun i => (from_ + i) % 10).findSome? fun r =>
        if raised.getLsbD r && decide (classOf d ch r = c) then some (c, r) else none

/-- Grant the next tenure of a channel. -/
def weirGrant (ch : Nat) (raised : BitVec 10) (k : Nat) (d : Dev) : Dev :=
  let w := weirOf d ch
  match weirNext d ch w raised k with
  | none => onWeir ch (fun w => { w with raised := raised, granted := none }) d
  | some (c, r) =>
    count (0x6002 + 8 * ch + c) (onWeir ch (fun w => { w with
      raised := raised &&& ~~~(BitVec.ofNat 10 (2 ^ r)), granted := some r, lastOf := w.lastOf.put 9 c r }) d)

/-- Whether a channel is populated and not failed. -/
def chUp (d : Dev) (ch : Nat) : Bool := let s := getF d (F.NTR_CH_STATE ch); decide (1 ≤ s) && decide (s ≤ 3)

/-- Raise the scrubber's request at the channel of the block that is next (R174). -/
def scrubRaise (d : Dev) : Dev := onWeir (blockPlace d d.ntr.scrubNext).1 (fun w => { w with raised := w.raised ||| 0x80 }) d

/-- One scrubbed block ends; after the last one the scrub is done: DONE, the summary, event 245 (R174). -/
def scrubBlock (d : Dev) : Dev :=
  if !flag d F.NTR_SCRUB_CTL_BUSY then d
  else if d.ntr.scrubNext < getF d F.NTR_SCRUB_LAST_BLOCK then scrubRaise (onNtr (fun n => { n with scrubNext := n.scrubNext + 1 }) d)
  else
    let d := setF F.NTR_SCRUB_SUM_CE (min 65535 d.ntr.scrubCe) (setF F.NTR_SCRUB_SUM_UE (min 255 d.ntr.scrubUe) d)
    let d := setF F.NTR_SCRUB_SUM_ROWS (min 255 d.ntr.scrubRows) d
    raiseN 245 0 (setB F.NTR_SCRUB_CTL_DONE true (setB F.NTR_SCRUB_CTL_BUSY false d))

/-- The bank, row and block that the tenure of a requester touched: a scrub's are those of the block that is next, a row copy's those of
the row being copied. -/
def tenurePlace (d : Dev) (ch r : Nat) (a : NtAccess) : Nat × Nat × Nat :=
  if r = 7 ∧ flag d F.NTR_SCRUB_CTL_BUSY then
    let cb := (blockPlace d d.ntr.scrubNext).2
    (cb / 4 % 16, cb / 64, cb % 4)
  else match r, (weirOf d ch).copies with
    | 8, c :: _ => (c.row % 16, c.row / 16, c.done)
    | _, _ => (a.bank.toNat, a.row.toNat, a.block.toNat)

/-- The tenure of the granted requester ends: what its line units were read with is dealt with, and its own work goes on (R170, R171,
R172, R174). -/
def tenureWork (ch r : Nat) (a : NtAccess) (d : Dev) : Dev :=
  let p := tenurePlace d ch r a
  let d := (a.units.take (tenureUnits r)).foldl (fun d u => unitErrors ch p.1 p.2.1 p.2.2 r u d) d
  let d := if r = 7 then scrubBlock d else if r = 8 then copyBlock ch d else d
  onWeir ch (fun w => { w with left := w.left.erase r }) d

/-- TENURE_END (R176): a tenure ends, or whoever pre-empted it lets the channel go, and the next requester is granted. On a channel
that no one holds the requests presented are decided at once. -/
def tenureEnd (ch : Nat) (a : NtAccess) (d : Dev) : Dev :=
  if !chUp d ch then d
  else
    let w := weirOf d ch
    let d := match w.granted with
      | none => onWeir ch (fun w => { w with taken := w.taken.drop 1 }) d
      | some r => tenureWork ch r a d
    let w := weirOf d ch
    if !chUp d ch then d
    else if w.taken ≠ [] then onWeir ch (fun w => { w with raised := w.raised ||| a.raised, granted := none }) d
    else weirGrant ch (w.raised ||| a.raised) a.subWindow.val d

/-- TENURE_END (R176). -/
def execTenureEnd (ch : Fin 48) (acc : NtAccess) (s : State) : Host.Outcome State Fault Refusal := run (tenureEnd ch.val acc) s

/-- A pre-empted tenure keeps the line units that were transferred; the rest stays requested (R179). -/
def preempt (ch moved : Nat) (d : Dev) : Dev :=
  match (weirOf d ch).granted with
  | none => d
  | some r => count (0x6007 + 8 * ch) (onWeir ch (fun w =>
      let n := w.left.get (tenureUnits r) r - moved
      { w with
        raised := if n = 0 then w.raised else w.raised ||| BitVec.ofNat 10 (2 ^ r), granted := none
        left := if n = 0 then w.left.erase r else w.left.insert r n }) d)

/-- Refresh takes the channel at the next line-unit boundary, before the JTAG port (R179). -/
def refreshTakes (ch moved : Nat) (d : Dev) : Dev :=
  if !chUp d ch then d
  else onWeir ch (fun w => { w with taken := false :: w.taken.filter fun x => x }) (count (0x6006 + 8 * ch) (preempt ch moved d))

/-- REFRESH_PREEMPT (R179). -/
def execRefreshPreempt (x : Preemption) (s : State) : Host.Outcome State Fault Refusal :=
  runQ (refreshTakes x.ch.val x.moved.val) s

/-- The JTAG memory-access port takes the channel, on a part whose debug is unlocked (R179, R457): event 248; the requests whose lines
lie on the channel have been touched by cause 0x4 (R252). -/
def jtagTakes (ch moved : Nat) (d : Dev) : Dev :=
  if !d.glb.debugUnlocked || !chUp d ch then d
  else
    let d := onWeir ch (fun w => { w with taken := w.taken.filter (fun x => !x) ++ [true] }) (preempt ch moved d)
    noteLine (fun d la => decide (lineChannel d la = some ch)) (raiseN 248 ch d)

/-- JTAG_PREEMPT (R179). -/
def execJtagPreempt (x : Preemption) (s : State) : Host.Outcome State Fault Refusal :=
  runQ (jtagTakes x.ch.val x.moved.val) s

/-! ## Commands -/

/-- A merge window ends (R169): the entry is drained; an old line that fails its check goes to the partner (R280). -/
def mergeExpire (la : Nat) (tagOk : Bool) (d : Dev) : Dev :=
  match mergeOf d la with
  | none => d
  | some m =>
    if d.glb.tick < m.tick + getF d F.NTR_MERGE_WIN ∨ lostPending d la then d
    else if tagOk then mergeDrain la d
    else recoverDirty la 2 (setB F.SLU_ERR_LINE_TAG true (count 0x9000 d))

/-- MERGE_WINDOW_EXPIRY (R169). -/
def execMergeWindowExpiry (laddr : LAddr) (tagOk : Bool) (s : State) : Host.Outcome State Fault Refusal :=
  runQ (mergeExpire laddr.toNat tagOk) s

/-- GO starts the scrubber as Weir requester 7, unless it runs or FIRST lies beyond LAST (R174). -/
def scrubGo (d : Dev) : Dev :=
  if flag d F.NTR_SCRUB_CTL_BUSY ∨ getF d F.NTR_SCRUB_LAST_BLOCK < getF d F.NTR_SCRUB_FIRST_BLOCK then setB F.NTR_SCRUB_CTL_ERR true d
  else
    let d := onNtr (fun n => { n with scrubNext := getF d F.NTR_SCRUB_FIRST_BLOCK, scrubCe := 0, scrubUe := 0, scrubRows := 0 }) d
    scrubRaise (setB F.NTR_SCRUB_CTL_BUSY true d)

/-- SCRUB_GO (R174). -/
def execScrubGo (p : SPort) (s : State) : Host.Outcome State Fault Refusal := runQ (viaPort p.val scrubGo) s

end Sys2Proof.Machine
end

