-- ==== Sys2Proof/Machine/Sluice.lean ====
section
/-!
DEFINITION. Sluice's commands (R281-R291): the re-key walk, entropy health, the tree-walk cache, and the MAC pages.
-/
namespace Sys2Proof.Machine

/-! ## Re-keying -/

/-- Whether a region's KEYID write must be handled as a reserved encoding (R281): the old ID is the one it replaces. -/
def keyidRefused (new : Nat) (d : Dev) : Bool :=
  let st := d.slu.keyState.get .free new
  flag d F.SLU_REKEY_BUSY || decide (new = 0) || decide (st = .retiring)
    || (decide (st = .free) && !flag d F.SLU_ENT_HEALTH_OK)

/-- The first leaf of a region. -/
def regionStart (d : Dev) (r : Nat) : Nat := getF d (F.GLB_RGN_FIRST_SEG r) * 512

/-- The leaf past a region. -/
def regionEnd (d : Dev) (r : Nat) : Nat := (getF d (F.GLB_RGN_FIRST_SEG r) + getF d (F.GLB_RGN_NSEG_SEG r)) * 512

/-- Whether a region names a key ID. -/
def keyNamed (d : Dev) (id : Nat) : Bool :=
  (List.range 64).any fun r => flag d (F.GLB_RGN_CTL_VALID r) && decide (getF d (F.GLB_RGN_CTL_KEYID r) = id)

/-- Move the walk's cursor. -/
def setCursor (leaf : Nat) (d : Dev) : Dev := setF F.SLU_REKEY_CUR_HI_LEAF (leaf / 2 ^ 32) (setF F.SLU_REKEY_CUR_LO_LEAF leaf d)

/-- The walk's cursor. -/
def cursor (d : Dev) : Nat := getPair F.SLU_REKEY_CUR_LO_LEAF F.SLU_REKEY_CUR_HI_LEAF d

/-- A region's KEYID has changed at the commit's boundary (R281): the new key is generated when FREE, the old ID becomes
RETIRING when no region names it, and the walk starts, event 359. -/
def rekeyStart (region old new : Nat) (d : Dev) : Dev :=
  let d := if d.slu.keyState.get .free new = .free then drawKey new d else d
  let d := if keyNamed d old then d else onSlu (fun s => { s with keyState := s.keyState.put .free old .retiring }) d
  let d := setF F.SLU_REKEY_REGION region (setF F.SLU_REKEY_OLD old (setF F.SLU_REKEY_NEW new d))
  let d := setB F.SLU_REKEY_BUSY true (setB F.SLU_REKEY_BLOCKED false d)
  raiseN 359 (old + region * 4096) (setF F.SLU_REKEY_PEND_COUNT 0 (setCursor (regionStart d region) d))

/-- A counter line never written out: its parent counter is (0, 0) (R271), and nothing of it is in use. -/
def counterZero (d : Dev) (leaf : Nat) : Bool :=
  let n := nodeOf d 1 (leaf / 32)
  decide (n.major = 0) && decide (n.minors.get 0 (leaf % 32) = 0)

/-- Act on one leaf of the walk (R282); none when it must wait for its lines' transactions, a frame, or dirty room. -/
def rekeyLeaf (leaf : Nat) (d : Dev) : Option Dev :=
  if counterZero d leaf then some d
  else if leafRefused d leaf then some (setB F.SLU_REKEY_BLOCKED true d)
  else if pinnedLeaf d leaf || !roomFor d leaf then none
  else (allocFrame leaf d).map fun d =>
    let d := fillLeaf leaf (mergeDrainLeaf leaf d)
    let d := (List.range 64).foldl (fun d i =>
      let l := lineOf d (leaf * 64 + i)
      if l.minor = 0 then putLine (leaf * 64 + i) { l with minor := 1 } d else d) d
    let d := onSlu (fun s => { s with rekeyLeaves := insertNew leaf s.rekeyLeaves }) (treeWrite 64 0 leaf d)
    addSat F.SLU_REKEY_PEND_COUNT 1 d

/-- Move the cursor over up to `n` leaves. -/
def rekeyMove : Nat → Dev → Dev
  | 0, d => d
  | n + 1, d =>
    let leaf := cursor d
    if regionEnd d (getF d F.SLU_REKEY_REGION) ≤ leaf then d
    else match rekeyLeaf leaf d with
      | none => d
      | some d => rekeyMove n (setCursor (leaf + 1) d)

/-- The end of a walk (R283): the old key is zeroised and its ID released, or the walk was blocked. -/
def rekeyEnd (d : Dev) : Dev :=
  let old := getF d F.SLU_REKEY_OLD
  if cursor d < regionEnd d (getF d F.SLU_REKEY_REGION) ∨ getF d F.SLU_REKEY_PEND_COUNT ≠ 0 then d
  else
    let d := setB F.SLU_REKEY_BUSY false d
    if flag d F.SLU_REKEY_BLOCKED then raiseN 361 old (setB F.SLU_ERR_REKEY_BLOCKED true d)
    else if keyNamed d old then d
    else raiseN 360 old (onSlu (fun s => { s with
      keys := s.keys.put none old none, keyState := s.keyState.put .free old .free }) d)

/-- One superframe's part of the walk (R282, R283). -/
def rekeyWalkStep (d : Dev) : Dev :=
  if flag d F.SLU_REKEY_BUSY then rekeyEnd (rekeyMove (getF d F.SLU_REKEY_RATE_LEAVES) d) else d

/-- REKEY_WALK_STEP (R282, R283). -/
def execRekeyWalkStep (s : State) : Host.Outcome State Fault Refusal := runQ rekeyWalkStep s

/-- A re-keyed leaf has been destaged: PEND falls by 1 (R282). -/
def rekeyDestaged (leaf : Nat) (d : Dev) : Dev :=
  if leaf ∈ d.slu.rekeyLeaves then
    setF F.SLU_REKEY_PEND_COUNT (getF d F.SLU_REKEY_PEND_COUNT - 1)
      (onSlu (fun s => { s with rekeyLeaves := s.rekeyLeaves.filter fun x => x ≠ leaf }) d)
  else d

/-! ## Entropy and the tree-walk cache -/

/-- A health test fails (R285): HEALTH_OK 0, event 363; no key is generated until a reseed passes. -/
def entropyFails (d : Dev) : Dev := raiseN 363 0 (setB F.SLU_ENT_FAIL true (setB F.SLU_ENT_HEALTH_OK false d))

/-- ENTROPY_HEALTH_FAILURE (R285). -/
def execEntropyHealthFailure (s : State) : Host.Outcome State Fault Refusal := runQ entropyFails s

/-- The reseed of a superframe (R285). -/
def reseed (ok : Bool) (d : Dev) : Dev :=
  if ok then setB F.SLU_ENT_HEALTH_OK true d else if flag d F.SLU_ENT_HEALTH_OK then entropyFails d else d

/-- INV: write out the dirty entries, then invalidate every entry (R291). -/
def wcInvalidate (d : Dev) : Dev := onSlu (fun s => { s with wc := [] }) (wcWriteOut d)

/-- INV (R291). -/
def execInv (p : SPort) (s : State) : Host.Outcome State Fault Refusal := runQ (viaPort p.val wcInvalidate) s

/-- A commit of SLU_WC_CTL.EN (R275): 0 writes the dirty entries out; 1 needs USED 0, else it is discarded with event 365. -/
def commitWcEn (on : Bool) (d : Dev) : Dev :=
  if on && !wcOn d && decide (d.slu.wc ≠ []) then raiseN 365 d.slu.wc.length (setB F.SLU_ERR_WC_REFUSED true d)
  else if on then setB F.SLU_WC_CTL_EN true d
  else setB F.SLU_WC_CTL_EN false (wcWriteOut d)

/-! ## MAC pages -/

/-- A page is reached by its agent while the device serves, or through its service port (R286). -/
def viaPage (page : Nat) (f : Dev → Dev) (d : Dev) : Dev :=
  if page < 64 then (if serves d then f d else d) else viaPort (page - 64) f d

/-- Change a MAC page. -/
def onPage (k : Nat) (f : MacPage → MacPage) (d : Dev) : Dev := onSlu (fun s => { s with pages := s.pages.upd {} k f }) d

/-- A failed step (R289): the message is abandoned, RESULT 0, DONE 1, ERR the cause; event 366 once a superframe per page. -/
def macFail (page err : Nat) (d : Dev) : Dev :=
  let d := onPage page (fun m => { m with
    isOpen := false, acc := [], rekeyed := false, result := 0, done := true, err := BitVec.ofNat 4 err }) d
  raiseOnce (366000 + page) 366 (page + err * 128) d

/-- A key is complete. -/
def macKeyed (page : Nat) (key : BitVec 256) (d : Dev) : Dev :=
  onPage page (fun m => { m with key := key, keyValid := true, rekeyed := m.isOpen }) d

/-- An agent's KEY write must cover bytes 0 to 31 exactly (R287); else the step fails and the key is zeroised (R289). -/
def macKeyAgent (page : Nat) (v : BitVec 256) (mask : Word64) (d : Dev) : Dev :=
  if mask = 0xFFFFFFFF then macKeyed page v d
  else macFail page 7 (onPage page (fun m => { m with key := 0, words := 0, keyValid := false }) d)

/-- A service port writes one key word; word 0 discards the words before it (R287). -/
def macKeyWord (page idx : Nat) (w : Word) (d : Dev) : Dev :=
  let m := macPage d page
  let old := if idx = 0 then 0 else m.key.toNat
  let key := BitVec.ofNat 256 (old - old / 2 ^ (32 * idx) % 2 ^ 32 * 2 ^ (32 * idx) + w.toNat * 2 ^ (32 * idx))
  let words := (if idx = 0 then 0 else m.words) ||| BitVec.ofNat 8 (2 ^ idx)
  onPage page (fun m => { m with
    key := key, words := words, keyValid := m.keyValid && idx != 0 || decide (words = 0xFF), rekeyed := m.rekeyed || m.isOpen }) d

/-- KEY (R287): an agent's whole key with its byte mask, or one word of a service port. -/
def execKey (page : Fin 66) (idx : BitVec 3) (v : BitVec 256) (mask : Word64) (s : State) :
    Host.Outcome State Fault Refusal :=
  runQ (viaPage page.val fun d => if page.val < 64 then macKeyAgent page.val v mask d
    else macKeyWord page.val idx.toNat (BitVec.ofNat 32 v.toNat) d) s

/-- The causes that a step meets (R289). -/
def macCauses (m : MacPage) (len : Nat) (first last : Bool) : List Nat :=
  (if 2048 < len then [1] else [])
    ++ (if !last && (decide (len = 0) || decide (len % 16 ≠ 0)) then [2] else [])
    ++ (if 1048576 < (if first then 0 else m.total) + len then [3] else [])
    ++ (if !first && !m.isOpen then [4] else [])
    ++ (if first && m.isOpen then [5] else [])
    ++ (if m.keyValid then [] else [6])

/-- One CMD step (R288, R289). Where a step meets several causes, which of them ERR holds is unstated: a free choice. A
message whose key was written anew while it was open has no stated RESULT: a free value. -/
def macStep (page len : Nat) (first last : Bool) (d : Dev) : Dev :=
  let d := count (0x900E + page) d
  let m := macPage d page
  let cs := macCauses m len first last
  if cs ≠ [] then
    let (v, d) := if cs.length = 1 then ((0 : Word64), d) else drawFree d
    macFail page (cs.getD (v.toNat % cs.length) 0) d
  else
    let part := (List.range len).map fun i => m.msg.get 0 i
    let acc := (if first then [] else m.acc) ++ part
    let d := onPage page (fun m => { m with
      isOpen := true, done := false, err := 0, acc := acc, total := acc.length, rekeyed := m.rekeyed && !first }) d
    if !last then d
    else
      let (r, d) := if (macPage d page).rekeyed then
          let (a, d) := drawFree d
          let (b, d) := drawFree d
          (a ++ b, d)
        else (cmac (macPage d page).key acc, d)
      onPage page (fun m => { m with isOpen := false, done := true, acc := [], rekeyed := false, result := r }) d

/-- FIRST (R288). -/
def execFirst (page : Fin 66) (len : BitVec 12) (last : Bool) (s : State) : Host.Outcome State Fault Refusal :=
  runQ (viaPage page.val (macStep page.val len.toNat true last)) s

/-- A CMD write with FIRST = 0 and LAST = 0 (R288). -/
def execMacContinue (page : Fin 66) (len : BitVec 12) (s : State) : Host.Outcome State Fault Refusal :=
  runQ (viaPage page.val (macStep page.val len.toNat false false)) s

/-- LAST (R288). -/
def execLast (page : Fin 66) (len : BitVec 12) (first : Bool) (s : State) : Host.Outcome State Fault Refusal :=
  runQ (viaPage page.val (macStep page.val len.toNat first true)) s

/-- KEYCLR zeroises the key and abandons any open message (R288). -/
def macKeyClr (page : Nat) (d : Dev) : Dev :=
  onPage page (fun m => { m with key := 0, words := 0, keyValid := false, isOpen := false, acc := [], rekeyed := false })
    (count (0x900E + page) d)

/-- KEYCLR (R288). -/
def execKeyclr (page : Fin 66) (s : State) : Host.Outcome State Fault Refusal := runQ (viaPage page.val (macKeyClr page.val)) s

/-- A CMD word written (R287, R288). -/
def macCmd (page : Nat) (w : Word) (d : Dev) : Dev :=
  if w.getLsbD 14 then macKeyClr page d
  else macStep page (bitsOf w.toNat 13 2) (w.getLsbD 0) (w.getLsbD 1) d

/-- Write selected bytes of one 64-byte line of an agent's page (R287); bytes of CMD that are not selected count as 0. -/
def macWrite (page line : Nat) (mask : Word64) (v : Line) (d : Dev) : Dev :=
  let sel := (v &&& spreadMask mask).toNat
  if line = 0 then
    (if mask.toNat % 2 ^ 32 = 0 then d else macKeyAgent page (BitVec.ofNat 256 v.toNat) mask d)
  else if line = 1 then (if mask.toNat % 16 = 0 then d else macCmd page (BitVec.ofNat 32 sel) d)
  else if 32 ≤ line then
    onPage page (fun m => { m with msg := (bitList 64 mask.toNat).foldl (fun x i =>
      x.put 0 ((line - 32) * 64 + i) (BitVec.ofNat 8 (sel / 256 ^ i))) m.msg }) d
  else d

/-- One 64-byte line of a page as it reads. -/
def macLine (m : MacPage) (line : Nat) : Line :=
  BitVec.ofNat 512 (ofBytesLE ((List.range 64).map fun i => BitVec.ofNat 8 (macByte m (line * 64 + i))))

/-- A request in the MAC window at its turn (R286): the requester's page; ADDR from offset 0x2000 up and for the other
twin's half; NOACC for another type. Its write data come with it (log entry 13). -/
def macRequest (e : ReqEnt) (mask : Word64) (v : Line) (d : Dev) : Dev :=
  let r := e.r
  let off := r.laddr.toNat % 32768
  let page := r.agent.toNat
  if 128 ≤ off then refuse e 4 d
  else if !isHome d (r.laddr.toNat / 64) then
    refuse e 4 (raiseN 160 (r.agent.toNat + e.port * 64) (setB F.BSN_ERR_MISROUTE true d))
  else if r.op = 8 then
    let d := sendHome e.port r.agent r.tag 0 0 0 (macLine (macPage d page) (off % 64)) (leaveReqs e d)
    sendCmp e.port r.agent r.tag 0 0 true d
  else if r.op = 4 ∨ r.op = 5 then
    let d := macWrite page (off % 64) (if r.op = 4 then BitVec.allOnes 64 else mask) v (leaveReqs e d)
    sendCmp e.port r.agent r.tag 0 0 false d
  else refuse e 3 d

/-- MAC_WINDOW_REQUEST (R286): the request leaves its REQ buffer under the same holds as any admission. -/
def macWindowRequest (port : Nat) (r : Req) (mask : Word64) (v : Line) (d : Dev) : Dev :=
  match reqOf d port r.agent r.tag with
  | none => d
  | some e =>
    if !inMacWindow d e.r || decide (e.r.op = 10) then d
    else if !serves d || d.twn.draining || streamHolds d e || barrierHolds d e.order r.agent.toNat then d
    else if r.agent.toNat ∈ d.bsn.departed then refuse e 3 (protoError port 0 e.r.op.toNat r.agent.toNat 6 d)
    else if e.r.reissue && !flag d F.TWN_STS_REISSUE then refuse e 3 (protoError port 0 e.r.op.toNat r.agent.toNat 8 d)
    else macRequest e mask v d

/-- MAC_WINDOW_REQUEST (R286). -/
def execMacWindowRequest (port : Fin 16) (r : Req) (bmask : Word64) (data : Line) (s : State) :
    Host.Outcome State Fault Refusal := runQ (macWindowRequest port.val r bmask data) s

/-! ## A service port's page (R286) -/

/-- A service port touches the other port's page: event 367 and PAGE_ISOL. -/
def pageIsolated (p : Nat) (d : Dev) : Dev := raiseN 367 p (setB F.SLU_ERR_PAGE_ISOL true d)

/-- A service port writes a word of its own page (R287). -/
def macPortWrite (p off : Nat) (w : Word) (d : Dev) : Dev :=
  let page := 64 + p
  if off < 0x20 then macKeyWord page (off / 4) w d
  else if off = 0x40 then macCmd page w d
  else if 0x800 ≤ off then
    onPage page (fun m => { m with msg := (List.range 4).foldl (fun x i =>
      x.put 0 (off - 0x800 + i) (BitVec.ofNat 8 (w.toNat / 256 ^ i))) m.msg }) d
  else d

end Sys2Proof.Machine
end

