-- ==== Sys2Proof/Machine/Stored.lean ====
section
/-!
DEFINITION. What the near tier, the media and the Grotto hold of the device's state, as bytes (R161-R167, R215, R216, R228, R258, R265,
R266, R269, R273): the state keeps values and counters, and the stored forms follow from them.
-/
namespace Sys2Proof.Machine

/-! ## Keys (R255, R282) -/

/-- The key of a key ID. -/
def keyOf (d : Dev) (id : Nat) : BitVec 256 := (d.slu.keys.get none id).getD 0

/-- The key ID a leaf's near-tier lines are encrypted under (R282): its region's, but in a running walk's region the old one from the
cursor on. -/
def keyidOf (d : Dev) (leaf : Nat) : Nat :=
  match regionOf d (segOfLeaf leaf) with
  | none => 0
  | some r =>
    if flag d F.SLU_REKEY_BUSY && decide (getF d F.SLU_REKEY_REGION = r) && decide (cursor d ≤ leaf) then getF d F.SLU_REKEY_OLD
    else getF d (F.GLB_RGN_CTL_KEYID r)

/-- The key-store record of a key ID (R255, R372): the wrapped key, the state, reserved bytes; nothing of a FREE ID. -/
def keyRecord (d : Dev) (id : Nat) : List (BitVec 8) :=
  match d.slu.keys.get none id with
  | none => List.replicate 48 0
  | some k => keyWrap Config.keyEncryptionKey k ++ [match d.slu.keyState.get .free id with | .free => 0 | .active => 1 | .retiring => 2]
      ++ List.replicate 7 0

/-! ## The near tier (R161-R167) -/

/-- The line unit of a line of the leaf cache (R162, R265). -/
def leafUnit (d : Dev) (la : Nat) : LineUnit :=
  let l := lineOf d la
  let leaf := la / 64
  let id := keyidOf d leaf
  let c := lineCipher (keyOf d id) leaf (la % 64) (majorOf d leaf) l.minor l.data
  mkUnit c (lineTag (keyOf d id) id leaf (la % 64) (majorOf d leaf) l.minor l.poison c) l.poison

/-- The valid and dirty vectors of a leaf (R166). -/
def leafVectors (d : Dev) (leaf : Nat) : Nat × Nat :=
  (((List.range 64).filter fun i => lineValid d (leaf * 64 + i)).foldl (fun a i => a + 2 ^ i) 0,
   ((List.range 64).filter fun i => decide ((lineOf d (leaf * 64 + i)).minor ≠ 0)).foldl (fun a i => a + 2 ^ i) 0)

/-- Slots 0 to 2 of a set of the main leaf cache (R166): the directory, and the frame state of ways 0 to 3 and 4 to 7. -/
def setLine (d : Dev) (set slot : Nat) : Line :=
  let way (w : Nat) := (d.ntr.frames.get {} (set * 8 + w)).leaf
  if slot = 0 then
    BitVec.ofNat 512 ((List.range 8).foldl (fun a w => a + (match way w with | none => 0 | some v => v + 2 ^ 40) * 2 ^ (64 * w)) 0
      + (d.ntr.plru.get 0 set).toNat * 2 ^ 57)
  else
    BitVec.ofNat 512 ((List.range 4).foldl (fun a k => a + (match way ((slot - 1) * 4 + k) with
      | none => 0
      | some v => let p := leafVectors d v; p.1 + p.2 * 2 ^ 64) * 2 ^ (128 * k)) 0)

/-- The tag slot of a pool entry (R167). -/
def poolTag (d : Dev) (e : Nat) : Line :=
  match (d.ntr.pool.get {} e).leaf with
  | none => 0
  | some v => BitVec.ofNat 512 (v + 2 ^ 40 + (leafVectors d v).1 * 2 ^ 64)

/-- A line of the segment table: eight entries (R214). -/
def segLine (d : Dev) (l : Nat) : Line :=
  BitVec.ofNat 512 ((List.range 8).foldl (fun a i =>
    let s := d.xlt.segs.get {} (8 * l + i)
    a + (s.mloc.toNat + s.mvalid.toNat * 2 ^ 30 + s.rebuild.toNat * 2 ^ 31) * 2 ^ (64 * i)) 0)

/-- The line unit of a slot whose content the layouts give: a leaf line as Sluice stores it; the device's own tables in plaintext, since
the line form names no key for them (log entry 77). -/
def slotUnit (d : Dev) (g : Nat × NtLine) : Option LineUnit :=
  match g.2 with
  | .leaf la => if lineValid d la then some (leafUnit d la) else none
  | .setState s k => some (mkUnit (lineBytes (setLine d s k)) 0 false)
  | .seg l => some (mkUnit (lineBytes (segLine d l)) 0 false)
  | .pool e =>
    if g.1 % 65 = 0 then some (mkUnit (lineBytes (poolTag d e)) 0 false)
    else match (d.ntr.pool.get {} e).leaf with
      | none => none
      | some v => let la := v * 64 + (g.1 % 65 - 1); if lineValid d la then some (leafUnit d la) else none
  | _ => none

/-- A byte of main space, at block × 512 + offset (R161, R163): of a line unit whose content the layouts give, else none. -/
def mainByte (d : Dev) (a : Nat) : Option (BitVec 8) :=
  let b := a / 512
  let o := a % 512
  let j := if o < 448 then o / 64 else if o < 504 then (o - 448) / 8 else o - 504
  let p := blockPlace d b
  if o = 511 then some 0
  else (slotUnit d (b * 7 + j, unitLine d p.1 p.2 { slot := Fin.ofNat 7 j })).map fun u =>
    if o < 448 then u.bytes.getD (o % 64) 0
    else if o < 504 then BitVec.ofNat 8 (u.meta_.toNat / 256 ^ (o % 8))
    else u.check

/-! ## The counter tree (R258, R269) -/

/-- The tag of a counter line or node as the near tier holds it (R265, R270): under its parent's counter. -/
def nodeTag (d : Dev) (level idx : Nat) : Word64 :=
  treeTag (keyOf d 0) level idx (nodeOf d (level + 1) (idx / 32)) (d.slu.near.get {} (nodeKey level idx))

/-- The bytes of levels 6 to 8, the content of a top image (R276): level 8, then 7, then 6 (log entry 77). -/
def topBytes (d : Dev) : List (BitVec 8) :=
  let node (level idx : Nat) := nodeBytes (nodeOf d level idx) 0
  node 8 0 ++ ((List.range 32).flatMap fun i => node 7 i) ++ (List.range 1024).flatMap fun i => node 6 i

/-! ## Media pages (R215, R216, R228, R266) -/

/-- The codeword of a data leaf (KIND 0x1) that was destaged under the leaf's MAJOR (R216, R260, R265). -/
def leafCodeword (d : Dev) (leaf : Nat) (lines : List Line) (poison : Word64) : List (BitVec 8) :=
  let id := keyidOf d leaf
  let c := mediaCipher (keyOf d id) leaf (majorOf d leaf) none lines
  codeword c (sectorMeta leaf 1 id poison (mediaTag (keyOf d id) id leaf (majorOf d leaf) none poison c))

/-- The codeword of a Spillway flush image (KIND 0x5): lines with minor 0 are zero (R265). -/
def flushCodeword (d : Dev) (leaf : Nat) (ls : List LineRec) : List (BitVec 8) :=
  let id := keyidOf d leaf
  let ms := ls.map fun l => l.minor
  let poison := BitVec.ofNat 64 ((List.zip (List.range 64) ls).foldl (fun a e => a + e.2.poison.toNat * 2 ^ e.1) 0)
  let c := mediaCipher (keyOf d id) leaf (majorOf d leaf) (some ms) (ls.map fun l => l.data)
  codeword c (sectorMeta leaf 5 id poison (mediaTag (keyOf d id) id leaf (majorOf d leaf) (some ms) poison c))

/-- The data of a leaf map page (R215). -/
def mapPageBytes (e : Nat) (p : MapPage) (first : Nat) : List (BitVec 8) :=
  ((List.range 512).flatMap fun i => bytesLE 6 (p.ents.get (BitVec.allOnes 48) (first + i)).toNat)
    ++ bytesLE 4 e ++ List.replicate 4 0 ++ bytesLE 8 p.jseq ++ List.replicate 1008 0

/-- A journal record (R229). -/
def recBytes : JRec → List (BitVec 8)
  | .pad => bytesLE 16 0
  | .leaf l pa => bytesLE 16 (1 + pa * 2 ^ 4 + l * 2 ^ 52)
  | .mapPage e s => bytesLE 16 (2 + e * 2 ^ 4 + s.mloc.toNat * 2 ^ 35 + s.mvalid.toNat * 2 ^ 65 + s.rebuild.toNat * 2 ^ 66)
  | .stripe p s st u c age => bytesLE 16 (3 + p * 2 ^ 4 + s * 2 ^ 9 + st.toNat * 2 ^ 23 + u.toNat * 2 ^ 27 + c * 2 ^ 29 + age * 2 ^ 64)
  | .wlver p s wl => bytesLE 16 (4 + p * 2 ^ 4 + s * 2 ^ 9 + wl * 2 ^ 23)
  | .form p s pl b => bytesLE 16 (5 + p * 2 ^ 4 + s * 2 ^ 9 + pl * 2 ^ 23 + b * 2 ^ 25)
  | .ckpt n => bytesLE 16 (6 + n * 2 ^ 64)
  | .defect die pl b cause t => bytesLE 16 (7 + (die + pl * 2 ^ 11 + b * 2 ^ 13 + cause * 2 ^ 27 + t * 2 ^ 32) * 2 ^ 64)

/-- The data of a journal page (R228): its header with the CRC, then its records. -/
def journalPageBytes (c : Nat) (recs : List (Nat × JRec)) (next : Nat) : List (BitVec 8) :=
  let head := bytesLE 8 ((recs.map fun r => r.1).headD 0) ++ bytesLE 2 recs.length ++ bytesLE 2 c ++ List.replicate 4 0
    ++ bytesLE 4 next ++ List.replicate 8 0
  let body := recs.flatMap fun r => recBytes r.2
  (head ++ bytesLE 4 (crc32c (head ++ body)) ++ body ++ List.replicate 4096 0).take 4096

/-- The codeword of a map page (KIND 0x2), its TAG a CMAC under key ID 0 (R266). -/
def mapCodeword (d : Dev) (e first : Nat) : List (BitVec 8) :=
  structCodeword (keyOf d 0) e 2 (mapPageBytes e (d.xlt.pages.get {} e) first)

/-- The codeword of a journal page (KIND 0x3). -/
def journalCodeword (d : Dev) (c next : Nat) : List (BitVec 8) :=
  structCodeword (keyOf d 0) c 3 (journalPageBytes c (d.xlt.journals.get {} c).buf next)

/-- The codeword of a node page (KIND 0x6). -/
def nodeCodeword (d : Dev) (c pa : Nat) : List (BitVec 8) :=
  structCodeword (keyOf d 0) c 6 (nodePageBytes (d.slu.nodePages.get {} pa))

/-- A checkpoint codeword (KIND 0x4) of segment entries or stripe entries as words (R230). Its 32-byte header gives its kind (0
segments, 1 stripes), the first entry, the SEQ and a CRC; where in the header they stand is the model's choice (log entry 77). -/
def checkpointCodeword (d : Dev) (c kind first seq : Nat) (entries : List (List (BitVec 8))) : List (BitVec 8) :=
  let head := bytesLE 4 kind ++ bytesLE 8 first ++ bytesLE 8 seq ++ List.replicate 8 0
  let body := entries.flatMap id
  structCodeword (keyOf d 0) c 4 ((head ++ bytesLE 4 (crc32c (head ++ body)) ++ body ++ List.replicate 4096 0).take 4096)

end Sys2Proof.Machine
end

