-- ==== Sys2Proof/Machine/Xlt.lean ====
section
/-!
DEFINITION. Translation, Cistern and Cascade (R210-R239): physical addresses, stripes, the journal and the changes it lets
through, destage, folds and garbage-collection copies, writeback with checkpoints, retired blocks, failed dies and their
repopulation.
-/
namespace Sys2Proof.Machine

/-! ## Dies, channels, physical addresses -/

/-- Change a die. -/
def onDie (x : Nat) (f : Die → Die) (d : Dev) : Dev := { d with med := { d.med with dies := d.med.dies.upd {} x f } }
/-- Change a channel. -/
def onChan (c : Nat) (f : Chan → Chan) (d : Dev) : Dev := { d with med := { d.med with chans := d.med.chans.upd {} c f } }
/-- A channel. -/
def chanOf (d : Dev) (c : Nat) : Chan := d.med.chans.get {} c
/-- The physical position that carries a die index (R212). -/
def physPos (d : Dev) (x : Nat) : Nat := (chanOf d (x / 32)).subst.get (x % 32) (x % 32)

/-- A physical leaf address (R213). -/
def mkPaddr (die plane block page sector : Nat) : Nat :=
  sector + page * 2 ^ 2 + block * 2 ^ 14 + plane * 2 ^ 28 + die % 32 * 2 ^ 30 + die / 32 * 2 ^ 35
/-- The die index of a physical address. -/
def paDie (pa : Nat) : Nat := bitsOf pa 40 35 * 32 + bitsOf pa 34 30
/-- Its plane. -/
def paPlane (pa : Nat) : Nat := bitsOf pa 29 28
/-- Its block. -/
def paBlock (pa : Nat) : Nat := bitsOf pa 27 14
/-- Its page. -/
def paPage (pa : Nat) : Nat := bitsOf pa 13 2

/-- The stripe of a die that a physical address lies in. -/
def paStripe (d : Dev) (pa : Nat) : Option Nat := (stripeAt (dieOf d (paDie pa)) (paPlane pa) (paBlock pa)).map fun e => e.1

/-- Change a stripe. -/
def onStripe (x s : Nat) (f : Stripe → Stripe) (d : Dev) : Dev := onDie x (fun y => { y with stripes := y.stripes.upd {} s f }) d

/-- A stripe. -/
def stripeNo (d : Dev) (x s : Nat) : Stripe := (dieOf d x).stripes.get {} s

/-- Whether a stripe is formed (R217). -/
def formed (s : Stripe) : Bool := decide (s.st ≠ 7) && decide (s.blk ≠ [])

/-- The stripes of a die in a state, by number. -/
def stripesIn (d : Dev) (x : Nat) (p : Stripe → Bool) : List (Nat × Stripe) := (dieOf d x).stripes.filter fun e => formed e.2 && p e.2

/-- Insert into a list sorted by a key. -/
def insertKey {α : Type} (key : α → Nat) (x : α) : List α → List α
  | [] => [x]
  | y :: rest => if key x < key y then x :: y :: rest else y :: insertKey key x rest

/-- Sort by a key, equal keys in their order. -/
def sortKey {α : Type} (key : α → Nat) (l : List α) : List α := l.foldl (fun acc x => insertKey key x acc) []

/-- The leaves the map names in a stripe, in page order (R222). -/
def leavesIn (d : Dev) (x s : Nat) : List (Nat × Nat) :=
  let hit := (d.xlt.map.filter fun e => decide (paDie e.2.toNat = x) && decide (paStripe d e.2.toNat = some s)).map fun e =>
    (e.1, e.2.toNat)
  sortKey (fun a => paPage a.2) hit

/-- The data dies: index positions 0 to PD − 1 of the populated channels (R211). -/
def dataDies (d : Dev) : List Nat :=
  (List.range (getF d F.XLT_CFG_NCH)).flatMap fun c => (List.range (getF d F.XLT_CFG_PD)).map fun q => c * 32 + q

/-! ## The journal (R228-R231) -/

/-- A channel's journal. -/
def journalOf (d : Dev) (c : Nat) : Journal := d.xlt.journals.get {} c

/-- Move VALID by one on a stripe, once per record (R217, R232). -/
def moveValid (seq x s : Nat) (up : Bool) (d : Dev) : Dev :=
  onStripe x s (fun e => if e.jseq < seq then
    { e with jseq := seq, valid := if up then e.valid + 1 else e.valid - 1 } else e) d

/-- A LEAF record changes the map (R221 step 5, R232): the entry, VALID of both stripes, the cached page. -/
def applyLeaf (seq leaf pa : Nat) (d : Dev) : Dev :=
  let old := (d.xlt.map.get sentinel leaf)
  let d := if old = sentinel then d else match paStripe d old.toNat with
    | none => d
    | some s => moveValid seq (paDie old.toNat) s false d
  let d := match paStripe d pa with
    | none => d
    | some s => moveValid seq (paDie pa) s true d
  onXlt (fun x => { x with
    map := x.map.put sentinel leaf (BitVec.ofNat 48 pa)
    cached := match ordinalOf d leaf with | none => x.cached | some e => insertNew e x.cached
    dirtyMaps := match ordinalOf d leaf with | none => x.dirtyMaps | some e => insertNew e x.dirtyMaps }) d

/-- A STRIPE record changes a stripe entry (R229): to CLOSED it sets PTIME; to FREE after an erase it counts the erase. -/
def applyStripe (x s : Nat) (st : BitVec 4) (use : BitVec 2) (age : Nat) (d : Dev) : Dev :=
  onStripe x s (fun e => { e with
    st := st, use := use
    ptime := if st = 4 ∨ st = 5 then age else e.ptime
    erases := if st = 0 ∧ (e.st = 2 ∨ e.st = 3 ∨ e.st = 4 ∨ e.st = 5) then min 65535 (e.erases + 1) else e.erases
    nwl := if st = 0 ∨ st = 1 ∨ ((st = 2 ∨ st = 3) ∧ e.st ≠ st) then 0 else e.nwl
    verified := if st = 0 ∨ st = 1 then 0 else e.verified
    isCopy := if st = 0 then false else e.isCopy, refresh := if st = 0 then false else e.refresh }) d

/-- A record's change in the near tier (R229, R230). -/
def applyRecord (c seq : Nat) (r : JRec) (d : Dev) : Dev :=
  match r with
  | .pad => d
  | .leaf l pa => applyLeaf seq l pa d
  | .mapPage e s => onXlt (fun x => { x with segs := x.segs.put {} e s }) d
  | .stripe pos s st use _ age => applyStripe (c * 32 + pos) s st use age d
  | .wlver pos s wl => onStripe (c * 32 + pos) s (fun e => { e with verified := max e.verified (wl + 1) }) d
  | .form pos s plane block => onStripe (c * 32 + pos) s (fun e => { e with blk := e.blk.set plane block }) d
  | .ckpt n => onJournal c (fun j => { j with anchor := some n }) d
  | .defect x plane block cause _ => onDie x (fun y => { y with grown := insertNew (plane, block, cause) y.grown }) d

/-- The destage commit of one leaf (R259): MAJOR rises, every minor becomes 0 but for lines written since the XFER, bytes in the merge
buffer among them (R20, R168). -/
def destageCounters (g : Destage) (d : Dev) : Dev :=
  let same := decide (majorOf d g.leaf = g.major)
  let d := majorInc g.leaf d
  let d := (List.range 64).foldl (fun d i =>
    let l := lineOf d (g.leaf * 64 + i)
    if !l.valid then d
    else putLine (g.leaf * 64 + i) { l with minor := if same ∧ l.minor = g.mins.getD i 0 ∧ (mergeOf d (g.leaf * 64 + i)).isNone then 0 else 1 } d) d
  treeWrite 64 0 g.leaf d

/-- The segment of a leaf on an index being repopulated is done when every leaf of it has its record (R237). -/
def repopDone (leaf : Nat) (d : Dev) : Dev :=
  match ordinalOf d leaf with
  | none => d
  | some e =>
    if !(d.xlt.segs.get {} e).rebuild then d
    else
      let d := onXlt (fun x => { x with repopLeaves := insertNew leaf x.repopLeaves }) d
      let n := (d.xlt.repopLeaves.filter fun l => l / 512 = leaf / 512).length
      if n < 512 then d
      else
        let c := dieOfOrdinal d e / 32
        let d := onXlt (fun x => { x with
          repopLeaves := x.repopLeaves.filter fun l => l / 512 ≠ leaf / 512
          repopSegs := x.repopSegs.filter fun s => s ≠ e
          todo := x.todo ++ [{ ch := c, rec_ := .mapPage e { x.segs.get {} e with rebuild := false } }] }) d
        let d := addSat F.XLT_REBUILD_DONE 1 d
        if d.xlt.repopSegs = [] then
          raiseN 331 (getF d F.XLT_REBUILD_DIE) (setB F.XLT_REBUILD_BUSY false (onXlt (fun x => { x with repop := none }) d))
        else d

/-- A flushed and reloaded leaf has been destaged; the record of its destage is not yet in media (R227, R338). -/
def reloadDone (ch seq leaf : Nat) (d : Dev) : Dev :=
  if leaf ∉ d.xlt.reloaded then d
  else onXlt (fun x => { x with
    reloaded := x.reloaded.filter fun l => l ≠ leaf, reloadRecs := x.reloadRecs ++ [(ch, seq)] }) d

/-- Carry out a change: its record enters the journal buffer and it takes effect (R230); a copy whose map entry no longer
holds the source is dead space (R223). -/
def doChange (c : Change) (d : Dev) : Dev :=
  let dead : Bool := match c.rec_, c.src with
    | .leaf l _, some src => decide ((d.xlt.map.get sentinel l).toNat ≠ src)
    | _, _ => false
  if dead then count 0x8003 d
  else
    let seq := (journalOf d c.ch).seq
    let d := onJournal c.ch (fun j => { j with
      seq := seq + 1, buf := j.buf ++ [(seq, c.rec_)], shadow := j.shadow ++ [(seq, c.rec_)] }) d
    let d := applyRecord c.ch seq c.rec_ d
    let d := match c.ds with
      | none => d
      | some g => reloadDone c.ch seq g.leaf (rekeyDestaged g.leaf (destageCounters g (count 0x8000 d)))
    match c.rec_ with
    | .leaf l _ => repopDone l d
    | _ => d

/-- Records a journal page holds (R228). -/
def journalRoom (d : Dev) (c : Nat) : Bool := decide ((journalOf d c).buf.length < 254)

/-- Carry out waiting changes in order, those of a channel with a full buffer staying. -/
def changesGo : List Change → List Nat → Dev → Dev
  | [], _, d => d
  | c :: rest, held, d =>
    if c.ch ∈ held ∨ !journalRoom d c.ch then
      changesGo rest (c.ch :: held) (onXlt (fun x => { x with todo := x.todo ++ [c] }) d)
    else changesGo rest held (doChange c d)

/-- Carry out what changes may go (R230). -/
def runChanges (d : Dev) : Dev :=
  let cs := d.xlt.todo
  changesGo cs [] (onXlt (fun x => { x with todo := [] }) d)

/-- Ask for changes. -/
def change (cs : List Change) (d : Dev) : Dev := runChanges (onXlt (fun x => { x with todo := x.todo ++ cs }) d)

/-- A stripe takes a new state and use. -/
def stripeTo (x s : Nat) (st : BitVec 4) (use : BitVec 2) (cause : Nat) (d : Dev) : Dev :=
  change [{ ch := x / 32, rec_ := .stripe (x % 32) s st use cause (getF d F.XLT_AGE_NOW_AGE) }] d

/-! ## What a program writes -/

/-- The planes and blocks of a program, ascending. -/
def planesOf (bs : List (Nat × Nat)) : List (Nat × Nat) := sortKey (fun b => b.1) bs

/-- The leaf places of a 1-bit program: one page in each plane, four sectors each. -/
def places1 (x wl : Nat) (bs : List (Nat × Nat)) : List Nat :=
  (planesOf bs).flatMap fun b => (List.range 4).map fun s => mkPaddr x b.1 b.2 wl s

/-- The leaf places of a native program: three pages in each plane. -/
def places3 (x wl : Nat) (bs : List (Nat × Nat)) : List Nat :=
  (planesOf bs).flatMap fun b => (List.range 12).map fun i => mkPaddr x b.1 b.2 (3 * wl + i / 4) (i % 4)

/-- Whether a destage of a leaf is in flight on its die. -/
def inDestage (d : Dev) (x leaf : Nat) : Bool :=
  ((dieOf d x).work.any fun w => match w with | .destage gs => gs.any fun g => decide (g.leaf = leaf) | _ => false)
    || d.xlt.todo.any fun c => match c.ds with | none => false | some g => decide (g.leaf = leaf)

/-- Steps 1 to 3 of R221 for one leaf: merge bytes drained, missing lines filled, the XFER's content kept. -/
def takeDestage (leaf pa : Nat) (d : Dev) : Destage × Dev :=
  let d := treeWalk leaf (fillLeaf leaf (mergeDrainLeaf leaf d))
  let ls := (List.range 64).map fun i => lineOf d (leaf * 64 + i)
  ({ leaf := leaf, paddr := pa, lines := ls.map fun l => l.data, mins := ls.map fun l => l.minor, major := majorOf d leaf
     poison := BitVec.ofNat 64 ((List.range 64).foldl (fun a i => if (lineOf d (leaf * 64 + i)).poison then a + 2 ^ i else a) 0) }, d)

/-- The sets of the leaf cache in which a transaction waits for a frame (R166). -/
def waitingSets (d : Dev) : List Nat :=
  (d.bsn.txns.filter fun e => decide (e.2.wait = .frame)).map fun e => leafSet d (txnLine e.2 / 64)

/-- Select dirty leaves of an index for the places of a CPROG (R221 step 1): those of sets in which a transaction waits first (R166),
each part in ascending leaf order. -/
def startDestage (x : Nat) (places : List Nat) (d : Dev) : Dev :=
  let sets := waitingSets d
  let ls := sortKey (fun l => if leafSet d l ∈ sets then 0 else 1)
    ((dirtyLeafList d).reverse.filter fun l => decide (dieOfLeaf d l = x) && !inDestage d x l)
  let r := (List.zip (ls.take places.length) places).foldl (fun (a : List Destage × Dev) (e : Nat × Nat) =>
    let g := takeDestage e.1 e.2 a.2
    (a.1 ++ [g.1], g.2)) ([], d)
  onDie x (fun y => { y with work := y.work ++ [.destage r.1] }) r.2

/-- Leaves a copy of the die is already writing. -/
def inCopy (d : Dev) (x leaf : Nat) : Bool :=
  ((dieOf d x).work ++ (dieOf d x).unver).any fun w => match w with
    | .copy _ _ _ cs => cs.any fun c => decide (c.leaf = leaf)
    | _ => false

/-- The stripe a fold reads: the CLOSED_C data stripe with the lowest PTIME (R222). -/
def foldSource (d : Dev) (x : Nat) : Option Nat :=
  ((stripesIn d x fun s => decide (s.st = 5) && decide (s.use = 0)).foldl (fun (b : Option (Nat × Stripe)) e => match b with
    | none => some e
    | some y => if e.2.ptime < y.2.ptime then some e else some y) none).map fun e => e.1

/-- The victim of garbage collection (R224): BROKEN stripes and those marked for refresh first; else, while the die is in
collection, its CLOSED_N stripe with the lowest VALID. -/
def gcVictim (d : Dev) (x : Nat) : Option Nat :=
  match stripesIn d x fun s => (decide (s.st = 6) && decide (s.valid ≠ 0)) || (s.refresh && decide (s.st ≠ 0)) with
  | e :: _ => some e.1
  | [] =>
    if !(dieOf d x).gcOn then none
    else ((stripesIn d x fun s => decide (s.st = 4)).foldl (fun (b : Option (Nat × Stripe)) e => match b with
      | none => some e
      | some y => if e.2.valid < y.2.valid then some e else some y) none).map fun e => e.1

/-- Start a fold or a copy into a native word line (R222, R225): leaves of the source the map still names, dirty or destaging
ones skipped. -/
def startCopy (x s wl : Nat) (places : List Nat) (d : Dev) : Dev :=
  let gc := (stripeNo d x s).isCopy
  let src := if gc then gcVictim d x else foldSource d x
  let ls : List (Nat × Nat) := match src with
    | none => []
    | some v => (leavesIn d x v).filter fun e => !leafDirty d e.1 && !inDestage d x e.1 && !inCopy d x e.1
  let cs : List Copy := (List.zip (ls.take places.length) places).map fun (e : (Nat × Nat) × Nat) => { leaf := e.1.1, src := e.1.2, dst := e.2 }
  onDie x (fun y => { y with work := y.work ++ [.copy gc s wl cs] }) d

/-- A resilver target's native program (R312): copied leaves go straight into the native stripe, and the word line is recorded. -/
def startResilver (x s wl : Nat) (places : List Nat) (d : Dev) : Dev :=
  onDie x (fun y => { y with work := y.work ++ [.copy false s wl []] }) (startDestage x places d)

/-- Codewords of a channel's checkpoint (R230): segment entries 508 and stripe entries 127 to a codeword. -/
def sweepSize (d : Dev) (c : Nat) : Nat :=
  let segs := (d.xlt.segs.filter fun e => decide (dieOfOrdinal d e.1 / 32 = c)).length
  let strs := ((d.med.dies.filter fun e => decide (e.1 / 32 = c)).map fun e => e.2.stripes.length).sum
  (segs + 507) / 508 + (strs + 126) / 127

/-- Node pages that programs in flight write. -/
def nodePagesOut (d : Dev) : List NodePage :=
  d.med.dies.flatMap fun e => e.2.work.flatMap fun w => match w with | .wback _ _ _ _ ns => ns.map fun n => n.1 | _ => []

/-- A node page of the near-tier values of counter lines and nodes, with their tags (R270, R273). -/
def mkNodePage (d : Dev) (keys : List Nat) : NodePage :=
  { keys := keys, vals := keys.map fun k => d.slu.near.get {} k, tags := keys.map fun k => nodeTag d (k / 2 ^ 40) (k % 2 ^ 40) }

/-- Cut a list into parts of at most `n`, at most `fuel` of them. -/
def parts {α : Type} (n : Nat) : Nat → List α → List (List α)
  | 0, _ => []
  | _, [] => []
  | fuel + 1, l => l.take n :: parts n fuel (l.drop n)

/-- The node pages for up to `n` places on a channel (R273): second copies of pages whose first lies on another channel, then first
copies of the dirty counter lines and nodes, 56 to a page. -/
def nodePagesFor (d : Dev) (c n : Nat) : List NodePage :=
  let out := nodePagesOut d
  let second := ((d.slu.nodeHalf.filter fun p => decide (paDie p.1 / 32 ≠ c) && decide (p.2 ∉ out)).map fun p => p.2).take n
  let taken := (out ++ d.slu.nodeHalf.map fun p => p.2).flatMap fun p => p.keys
  let dirty := (d.slu.shadows.map fun e => e.1).filter fun k => decide (k ∉ taken)
  second ++ (parts 56 (n - second.length) dirty).map (mkNodePage d)

/-- Start a WBACK program (R230, R273): the journal page first, then dirty map pages of the die, then checkpoint codewords, then node
pages. -/
def startWback (x s : Nat) (places : List Nat) (d : Dev) : Dev :=
  let c := x / 32
  let j := journalOf d c
  let recs := j.buf.map fun r => r.1
  let n := places.length - (if recs = [] then 0 else 1)
  let rest := if recs = [] then places else places.drop 1
  let maps := (d.xlt.dirtyMaps.filter fun e => decide (dieOfOrdinal d e = x)).take n
  let pages := List.zip maps rest
  let j' := if j.sweepLeft = 0 then { j with sweepStart := j.seq, sweepLeft := sweepSize d c } else j
  let ck := min (n - maps.length) j'.sweepLeft
  let left := rest.drop (maps.length + ck)
  onDie x (fun y => { y with work := y.work ++ [.wback s recs pages ck (List.zip (nodePagesFor d c left.length) left)] })
    (onJournal c (fun _ => j') d)

/-! ## Programs verified -/

/-- A media leaf is written. -/
def mediaPut (pa : Nat) (lines : List Line) (poison : Word64) (d : Dev) : Dev :=
  onXlt (fun x => { x with media := x.media.insert pa (some (lines, poison)) }) d

/-- A destage program verified (R221 steps 4, 5). -/
def destageDone (x : Nat) (gs : List Destage) (d : Dev) : Dev :=
  let d := gs.foldl (fun d g => mediaPut g.paddr g.lines g.poison d) d
  change (gs.map fun g => { ch := x / 32, rec_ := .leaf g.leaf g.paddr, ds := some g }) d

/-- A word line of copies counts as verified (R205, R222 steps 4, 5). -/
def copyVerified (x : Nat) (gc : Bool) (s wl : Nat) (cs : List Copy) (d : Dev) : Dev :=
  let live := (cs.filter fun c => decide ((d.xlt.map.get sentinel c.leaf).toNat = c.src)).length
  let d := countN (if gc then 0x8002 else 0x8001) live d
  change ({ ch := x / 32, rec_ := .wlver (x % 32) s wl } ::
    cs.map fun c => { ch := x / 32, rec_ := .leaf c.leaf c.dst, src := some c.src }) d

/-- Paired-page mode (R204). -/
def pairedMode (d : Dev) : Bool := decide (getF d F.MED_CFG_PFMODE = 1)

/-- A native word line of copies is programmed (R205): in paired-page mode it verifies the word line before it, and its own
waits for the next, word line 1,023 apart. -/
def copyDone (x : Nat) (gc : Bool) (s wl : Nat) (cs : List Copy) (d : Dev) : Dev :=
  let d := cs.foldl (fun d c => match d.xlt.media.get none c.src with
    | none => d
    | some m => mediaPut c.dst m.1 m.2 d) d
  if !pairedMode d then copyVerified x gc s wl cs d
  else
    let before := (dieOf d x).unver.filter fun w => match w with | .copy _ s' w' _ => decide (s' = s) && decide (w' + 1 = wl) | _ => false
    let d := onDie x (fun y => { y with unver := (y.unver.filter fun w => w ∉ before) ++ [.copy gc s wl cs] }) d
    let d := before.foldl (fun d w => match w with | .copy g s' w' c' => copyVerified x g s' w' c' d | _ => d) d
    if wl ≠ 1023 then d
    else copyVerified x gc s wl cs (onDie x (fun y => { y with unver := y.unver.filter fun w => w ≠ .copy gc s wl cs }) d)

/-- A sweep ends (R230): a CKPT record, and the anchor with the tables as they stand; the Grotto takes it, in a layout the
spec leaves open. -/
def sweepEnds (c : Nat) (d : Dev) : Dev :=
  let start := (journalOf d c).sweepStart
  let d := change [{ ch := c, rec_ := .ckpt start }] d
  let segs := d.xlt.segs.filter fun e => decide (dieOfOrdinal d e.1 / 32 = c)
  let strs := (d.med.dies.filter fun e => decide (e.1 / 32 = c)).flatMap fun e => e.2.stripes.map fun s => (e.1 * 16384 + s.1, s.2)
  let d := onJournal c (fun j => { j with
    anchor := some start, ckSegs := segs, ckStripes := strs, media := j.media.filter fun r => decide (start ≤ r.1) }) d
  let r := (List.range 4).foldl (fun (a : List (BitVec 8) × Dev) _ => let f := drawFree a.2; (a.1 ++ bytesLE 8 f.1.toNat, f.2)) ([], d)
  raiseN 332 c (setF (F.XLT_CKPT_AGE c) 0 (grtSubmit { addr := 0x80000 + 32 * c, bytes := r.1 } r.2))

/-- A node page is verified (R273): with a copy on another channel both locations enter the directory, and the shadows of lines that have
not changed since are freed (R165). -/
def nodePageDone (d : Dev) (e : NodePage × Nat) : Dev :=
  let first := d.slu.nodeHalf.find? fun h => decide (h.2 = e.1) && decide (paDie h.1 / 32 ≠ paDie e.2 / 32)
  let d := onSlu (fun s => { s with nodePages := s.nodePages.insert e.2 e.1 }) d
  match first with
  | none => onSlu (fun s => { s with nodeHalf := s.nodeHalf ++ [(e.2, e.1)] }) d
  | some h =>
    let same : List Nat := ((List.zip e.1.keys e.1.vals).filter fun z => decide (d.slu.near.get {} z.1 = z.2)).map fun z => z.1
    onSlu (fun s => { s with
      nodeHalf := s.nodeHalf.filter fun y => y ≠ h
      nodeDir := e.1.keys.foldl (fun m k => m.insert k (h.1, e.2)) s.nodeDir
      shadows := s.shadows.filter fun z => decide (z.1 ∉ same) }) d

/-- A WBACK program verified (R230). -/
def wbackDone (x s : Nat) (recs : List Nat) (pages : List (Nat × Nat)) (ck : Nat) (nodes : List (NodePage × Nat)) (d : Dev) : Dev :=
  let c := x / 32
  let j := journalOf d c
  let d := whenD (recs ≠ []) (count (0x8005 + c)) d
  let d := onJournal c (fun j => { j with
    media := j.media ++ (j.buf.filter fun r => decide (r.1 ∈ recs))
    buf := j.buf.filter fun r => decide (r.1 ∉ recs)
    shadow := j.shadow.filter fun r => decide (r.1 ∉ recs)
    sweepLeft := j.sweepLeft - ck }) d
  let d := onXlt (fun y => { y with reloadRecs := y.reloadRecs.filter fun e => !(decide (e.1 = c) && decide (e.2 ∈ recs)) }) d
  let d := onStripe x s (fun e => { e with jlast := if recs ≠ [] ∨ ck ≠ 0 then j.seq - 1 else e.jlast }) d
  let d := pages.foldl (fun d p =>
    let ents := d.xlt.map.filter fun m => decide (ordinalOf d m.1 = some p.1)
    onXlt (fun y => { y with
      pages := y.pages.insert p.1 { ents := ents, jseq := (journalOf d c).seq - 1 }
      dirtyMaps := y.dirtyMaps.filter fun e => e ≠ p.1 }) d) d
  let seg (p : Nat × Nat) : Seg := { d.xlt.segs.get {} p.1 with mloc := BitVec.ofNat 30 (p.2 % 2 ^ 30), mvalid := true }
  let d := change (pages.map fun p => { ch := c, rec_ := .mapPage p.1 (seg p) }) d
  let d := nodes.foldl nodePageDone d
  if ck ≠ 0 ∧ (journalOf d c).sweepLeft = 0 then sweepEnds c d else d

/-- The work of a program that ended well. -/
def workDone (x : Nat) (w : Work) (d : Dev) : Dev :=
  match w with
  | .destage gs => destageDone x gs d
  | .copy gc s wl cs => copyDone x gc s wl cs d
  | .wback s recs pages ck nodes => wbackDone x s recs pages ck nodes d
  | .other => d

/-! ## Retired blocks and failed dies (R198-R200, R217, R432, R433) -/

/-- Show a channel's event (R209). -/
def medEvent (c cause pos plane block : Nat) (d : Dev) : Dev :=
  raiseN (256 + c) (cause + pos * 16 + plane * 512 + block * 2048) d

/-- The reserve die of a channel that is brought in next: the lowest populated position above the data positions. -/
def nextReserve (d : Dev) (c : Nat) : Option Nat :=
  (List.range 32).find? fun p => (getF d (F.MED_DIE_RSV_RSV c)).testBit p && !(getF d (F.MED_DIE_FAIL_FAIL c)).testBit p

/-- Poison every leaf of an index that is not resident (R433). -/
def poisonIndex (x : Nat) (d : Dev) : Dev :=
  let ls := d.xlt.map.filter fun e => decide (dieOfLeaf d e.1 = x) && !resident d e.1
  ls.foldl (fun d e => (List.range 64).foldl (fun d i => markLost (e.1 * 64 + i) 127 d) d) d

/-- Every segment of an index is marked for rebuilding (R237). -/
def rebuildIndex (x : Nat) (d : Dev) : Dev :=
  let es := (d.xlt.segs.filter fun e => decide (dieOfOrdinal d e.1 = x)).map fun e => e.1
  let d := onXlt (fun y => { y with repopSegs := y.repopSegs ++ es.filter fun e => decide (e ∉ y.repopSegs) }) d
  change (es.map fun e => { ch := x / 32, rec_ := .mapPage e { d.xlt.segs.get {} e with rebuild := true } }) d

/-- A die fails (R200): cause 0x6, no further command; a reserve takes its index at the next boundary, or there is none. Alone, the
index's leaves that are not resident are lost, with event 506, whether or not a reserve is free for the resident ones (R433). -/
def dieFails (x plane block : Nat) (d : Dev) : Dev :=
  let c := x / 32
  let p := physPos d x
  if (getF d (F.MED_DIE_FAIL_FAIL c)).testBit p then d
  else
    let d := setF (F.MED_DIE_FAIL_FAIL c) (getF d (F.MED_DIE_FAIL_FAIL c) + 2 ^ p) (setB (F.MED_ERR_DIE_FAILED c) true d)
    let d := medEvent c 6 p plane block (onChan c (fun y => { y with failed := y.failed ||| BitVec.ofNat 32 (2 ^ p) }) d)
    let d := onDie x (fun y => { y with op := .none, erase := none, work := [], unver := [], split := false, open_ := [] }) d
    let reserve := (getF d (F.MED_DIE_RSV_RSV c)).testBit p
    if reserve then setF (F.MED_DIE_RSV_RSV c) (getF d (F.MED_DIE_RSV_RSV c) - 2 ^ p) d
    else match nextReserve d c with
      | none =>
        if alone d then raiseN 506 x (poisonIndex x d)
        else withdraw false (raiseBy true 506 (BitVec.ofNat 32 x) d)
      | some q =>
        let d := setF (F.MED_DIE_RSV_RSV c) (getF d (F.MED_DIE_RSV_RSV c) - 2 ^ q) d
        let d := { d with med := { d.med with swapDue := d.med.swapDue ++ [(x, q)] } }
        if alone d then raiseN 506 x (poisonIndex x d) else rebuildIndex x d

/-- The reserve carries its index from a superframe boundary (R212, R237, R432): events 505 and 330. -/
def swapDie (x q : Nat) (d : Dev) : Dev :=
  let c := x / 32
  let fresh := dieOf d (c * 32 + q)
  let d := { d with med := { d.med with
    dies := (d.med.dies.erase (c * 32 + q)).insert x fresh, swapDue := d.med.swapDue.filter fun e => e ≠ (x, q) } }
  let d := onChan c (fun y => { y with subst := y.subst.insert (x % 32) q }) d
  let d := raiseN 505 x (count 0xF001 d)
  if alone d then d
  else
    let d := onXlt (fun y => { y with repop := some x, repopLeaves := [], repopRoom := 0 }) d
    raiseN 330 x (setF F.XLT_REBUILD_DIE x (setF F.XLT_REBUILD_DONE 0 (setB F.XLT_REBUILD_BUSY true d)))

/-- Change over every index that is due. -/
def swapDies (d : Dev) : Dev := d.med.swapDue.foldl (fun d e => swapDie e.1 e.2 d) d

/-- Retire a block (R198, R202): a grown defect, its stripe BROKEN; too many in a plane fail the die (R200). -/
def retireBlock (x plane block cause : Nat) (d : Dev) : Dev :=
  let c := x / 32
  let p := physPos d x
  let d := onDie x (fun y => { y with
    bad := insertNew (plane, block) y.bad, open_ := y.open_.filter fun o => !(decide (o.plane = plane) && decide (o.block = block)) }) d
  let d := setPair F.MED_GDT_LO_COUNT F.MED_GDT_HI_COUNT (getPair F.MED_GDT_LO_COUNT F.MED_GDT_HI_COUNT d + 1) d
  let d := setF (F.MED_LAST_DIE c) p (setF (F.MED_LAST_PLANE c) plane (setF (F.MED_LAST_BLOCK c) block d))
  let d := setF (F.MED_LAST_CAUSE c) cause (setB (F.MED_LAST_VALID c) true d)
  let d := medEvent c cause p plane block d
  let d := change [{ ch := c, rec_ := .defect x plane block cause (d.glb.tick / 2 ^ 20) }] d
  let d := match stripeAt (dieOf d x) plane block with
    | none => d
    | some s => stripeTo x s.1 6 s.2.use cause d
  let n := ((dieOf d x).grown.filter fun g => g.1 = plane).length
  if (img d).gbbLimit < n then dieFails x plane block d else d

/-- A program failed (R198, R221 step 6, R222): its blocks are retired with cause 0x1; the sources keep their data. -/
def programFails (x : Nat) (bs : List (Nat × Nat)) (w : List Work) (d : Dev) : Dev :=
  let copying := w.any fun y => match y with | .copy .. => true | _ => false
  let d := setB (F.MED_ERR_PROG_FAIL (x / 32)) true (count (0x7000 + 18 * (x / 32) + 13) d)
  let d := bs.foldl (fun d b => retireBlock x b.1 b.2 1 d) d
  if copying then raiseN 325 x d else d

/-- A BROKEN stripe none of whose leaves the map names is re-formed from the spare list, or becomes UNFORMED (R217). -/
def reform (x s : Nat) (d : Dev) : Dev :=
  let e := stripeNo d x s
  let y := dieOf d x
  match (List.zip (List.range 4) e.blk).find? fun b => decide (b ∈ y.bad) with
  | none => stripeTo x s 0 0 0 d
  | some b =>
    match (y.spares.filter fun z => z.1 = b.1).foldl (fun (m : Option Nat) z => match m with
      | none => some z.2
      | some v => some (min v z.2)) none with
    | some blk =>
      let d := onDie x (fun y => { y with spares := y.spares.filter fun z => z ≠ (b.1, blk) }) d
      raiseN 328 (x + s * 2048) (count 0xF002 <| change [
        { ch := x / 32, rec_ := .form (x % 32) s b.1 blk },
        { ch := x / 32, rec_ := .stripe (x % 32) s 0 0 0 (getF d F.XLT_AGE_NOW_AGE) }] d)
    | none =>
      let good := (List.zip (List.range 4) e.blk).filter fun z => decide (z ∉ y.bad)
      let d := onDie x (fun y => { y with spares := y.spares ++ good }) d
      raiseN 329 (x + s * 2048) (setB F.XLT_ERR_UNFORMABLE true (stripeTo x s 7 0 0 d))

/-! ## Inconsistencies (R213, R216) -/

/-- Whether a physical leaf address is one that no map may hold (R213): reserved bits set, or a block above 11,263. The sentinel is no
such value. -/
def badPaddr (pa : Nat) : Bool :=
  decide (pa ≠ sentinel.toNat) && (decide (2 ^ 41 ≤ pa) || decide (11263 < paBlock pa))

/-- A map value or sector metadata that cannot be (R213, R216): event 335. -/
def mapInconsistent (x : Nat) (d : Dev) : Dev := raiseN 335 x (setB F.XLT_ERR_ID_MISMATCH true d)

/-! ## The planners (R218, R219, R224) -/

/-- Count of FREE and OPEN stripes of a die (R224). -/
def freeCount (d : Dev) (x : Nat) : Nat := (stripesIn d x fun s => decide (s.st = 0) || decide (s.st = 2) || decide (s.st = 3)).length

/-- Whether a node page lives in a stripe (R219, R273). -/
def holdsNodes (d : Dev) (x s : Nat) : Bool :=
  let at_ (pa : Nat) : Bool := decide (paDie pa = x) && decide (paStripe d pa = some s)
  (d.slu.nodeDir.any fun e => at_ e.2.1 || at_ e.2.2) || d.slu.nodeHalf.any fun e => at_ e.1

/-- A closed stripe may be released (R219, R220): the map names nothing in it, no work reads or writes it, no bound read can
name it, and for USE 1 no map page or node page lives in it and its journal pages precede the anchor. -/
def releasable (d : Dev) (x s : Nat) : Bool :=
  let e := stripeNo d x s
  let mapHere := d.xlt.segs.any fun g => g.2.mvalid && decide (dieOfOrdinal d g.1 = x)
    && decide ((stripeAt (dieOf d x) (bitsOf g.2.mloc.toNat 29 28) (bitsOf g.2.mloc.toNat 27 14)).map (fun z => z.1) = some s)
  let work := ((dieOf d x).work ++ (dieOf d x).unver).any fun w => match w with
    | .copy _ _ _ cs => cs.any fun c => decide (paStripe d c.src = some s)
    | _ => false
  let reads := d.sch.windows.any fun w => w.own && decide (w.die = x) && decide (paStripe d w.paddr = some s)
  (leavesIn d x s).isEmpty && !work && !reads && !mapHere && !holdsNodes d x s
    && (decide (e.use ≠ 1) || (match (journalOf d (x / 32)).anchor with | none => false | some a => decide (e.jlast < a)))

/-- A used flush stripe may be released (R227, R338): every reloaded leaf has been destaged, the journal records of those destages are in
media, and no node page of the flush is still the copy of its lines. -/
def flushFree (d : Dev) (x s : Nat) : Bool :=
  d.xlt.reloaded.isEmpty && d.xlt.reloadRecs.isEmpty && !frozen d && !holdsNodes d x s

/-- One planning step of a die: garbage collection starts and stops, closed stripes that hold nothing are released, BROKEN
ones re-formed. -/
def planDie (x : Nat) (d : Dev) : Dev :=
  let n := freeCount d x
  let was := (dieOf d x).gcOn
  let now := if was then decide (n < getF d F.XLT_GC_GC_STOP) else decide (n < getF d F.XLT_GC_GC_LOW) && ((dieOf d x).stripes ≠ [])
  let d := onDie x (fun y => { y with gcOn := now }) d
  let d := if now && !was then raiseN 326 x d else d
  let d := (stripesIn d x fun s => decide (s.st = 4) || (decide (s.st = 5) && decide (s.use ≠ 2))).foldl (fun d e =>
    if releasable d x e.1 then stripeTo x e.1 0 0 0 d else d) d
  let d := (stripesIn d x fun s => decide (s.st = 5) && decide (s.use = 2)).foldl (fun d e =>
    if flushFree d x e.1 then stripeTo x e.1 0 0 0 d else d) d
  (stripesIn d x fun s => decide (s.st = 6)).foldl (fun d e => if releasable d x e.1 then reform x e.1 d else d) d

/-- The lowest FREE and OPEN count of any data die (R240). -/
def showFree (d : Dev) : Dev :=
  match (dataDies d).foldl (fun (b : Option (Nat × Nat)) x =>
    let n := freeCount d x
    match b with
    | none => some (n, x)
    | some y => if n < y.1 then some (n, x) else some y) none with
  | none => d
  | some y => setF F.XLT_FREE_MIN_DIE y.2 (setF F.XLT_FREE_MIN_FREE y.1 d)

/-- What the map and planner runnels do each tick. -/
def planTick (d : Dev) : Dev := showFree ((dataDies d).foldl (fun d x => planDie x d) (runChanges (framesEmptied d)))

/-! ## Sources that fail in a copy (R222) -/

/-- Whether a newer copy of a leaf exists than the page a copy of a die reads (R279): a line of it is dirty, or the map no longer names
that page. -/
def copyStale (leaf : Nat) (d : Dev) : Bool :=
  leafDirty d leaf || ((dieOf d (dieOfLeaf d leaf)).work ++ (dieOf d (dieOfLeaf d leaf)).unver).any fun w => match w with
    | .copy _ _ _ cs => cs.any fun c => decide (c.leaf = leaf) && decide ((d.xlt.map.get sentinel leaf).toNat ≠ c.src)
    | _ => false

/-- Take a leaf out of the copies of its die. -/
def copyDrop (leaf : Nat) (d : Dev) : Dev :=
  let drop (w : Work) : Work := match w with
    | .copy g s wl cs => .copy g s wl (cs.filter fun c => c.leaf ≠ leaf)
    | w => w
  onDie (dieOfLeaf d leaf) (fun y => { y with work := y.work.map drop, unver := y.unver.map drop }) d

/-- A leaf that fails decode (or, with `tag`, its leaf tag) in a fold or collection: a tag failure that only shows a newer copy is
dropped without an event (R279); the leaf-cache copy serves when whole; else the partner's, event 323; with neither its lines are
poisoned, event 324. -/
def copyReadFails (tag : Bool) (leaf : Nat) (d : Dev) : Dev :=
  let x := dieOfLeaf d leaf
  if tag && copyStale leaf d then copyDrop leaf d
  else if leafWhole d leaf then d
  else
    let d := copyDrop leaf d
    if alone d then
      raiseN 324 leaf (setB F.XLT_ERR_POISONED true ((List.range 64).foldl (fun d i => markLost (leaf * 64 + i) 127 d) d))
    else
      let q : LReq := { kind := 1, leaf := leaf }
      raiseN 323 x (setB F.XLT_ERR_FOLD_TWIN true (lreqSend 1 (onTwn (fun t => { t with lreqs := insertNew q t.lreqs }) d)))

/-- A leaf fetched for an index being repopulated (R237, R432): installed with every line dirty, while the dirty total is below
half the cap and the fetch limit leaves room for it. -/
def repopFetch (x leaf : Nat) (poison : Word64) (lines : List Line) (d : Dev) : Dev :=
  if d.xlt.repop ≠ some x ∨ getF d F.SPR_REPOP_GBPS = 0 ∨ d.xlt.repopRoom < 4096 ∨ capLeaves d ≤ 2 * (dirtyLeafList d).length ∨ dieOfLeaf d leaf ≠ x
      ∨ !(segOf d leaf).rebuild then d
  else match allocFrame leaf d with
    | none => d
    | some d => installLines leaf poison lines true (onXlt (fun y => { y with repopRoom := y.repopRoom - 4096 }) d)

/-- A tick of the fetch limit (R432): SPR_REPOP.GBPS thousand bytes a tick; what is not used does not pile up. -/
def repopPace (d : Dev) : Dev :=
  let r := getF d F.SPR_REPOP_GBPS * 1000
  onXlt (fun y => if y.repop.isSome then { y with repopRoom := min (y.repopRoom + r) (r + 4095) } else y) d

/-- REPOPULATION_FETCH (R237, R432). -/
def execRepopulationFetch (die : BitVec 11) (leaf : BitVec 40) (poison : Word64) (lines : List Line) (s : State) :
    Host.Outcome State Fault Refusal := runQ (repopFetch die.toNat leaf.toNat poison lines) s

/-! ## The probe (R240) -/

/-- GO looks a leaf up in the cached map pages (R240). -/
def probe (d : Dev) : Dev :=
  let leaf := getPair F.XLT_PROBE_LEAF_LO_LEAF F.XLT_PROBE_LEAF_HI_LEAF d
  let miss := !mapCached d leaf && !neverWritten d leaf
  let pa := (d.xlt.map.get sentinel leaf).toNat
  let d := setF F.XLT_PROBE_PA_LO_PADDR pa (setF F.XLT_PROBE_PA_HI_PADDR (pa / 2 ^ 32) d)
  let d := setB F.XLT_PROBE_PA_HI_ZERO (neverWritten d leaf) (setB F.XLT_PROBE_PA_HI_REBUILD (segOf d leaf).rebuild d)
  setB F.XLT_PROBE_PA_HI_MISS miss (setB F.XLT_PROBE_PA_HI_DONE true d)

/-- PROBE_GO (R240): the write of XLT_PROBE_LEAF_HI with GO set. -/
def execProbeGo (p : SPort) (v : Word) (s : State) : Host.Outcome State Fault Refusal :=
  runQ (viaPort p.val fun d => probe (setF F.XLT_PROBE_LEAF_HI_LEAF v.toNat d)) s

/-! ## Calibration and scrub (R236) -/

/-- Each stored offset moves by at most 4 steps towards the best one. -/
def stepOffset (old best : Int) : Int :=
  if best > old + 4 then old + 4 else if best < old - 4 then old - 4 else best

/-- The read offsets of a die for an age class (R235): the geometry section's until a calibration changed them. -/
def offsetsOf (d : Dev) (x k : Nat) : List Int :=
  match (dieOf d x).offsets.get [] k with
  | [] => (img d).offsets
  | l => l

/-- A calibration sample of a class on a die (R236). -/
def calibrate (c : CalSample) (d : Dev) : Dev :=
  let x := c.die.toNat
  let k := c.cls.toNat
  let old := offsetsOf d x k
  let new := (List.range 8).map fun i => stepOffset (old.getD i 0) (c.best.getD i (old.getD i 0))
  let moved := ((List.range 8).filter fun i => old.getD i 0 ≠ new.getD i 0).length
  countN 0x8004 moved (onDie x (fun y => { y with offsets := y.offsets.put [] k new, swept := insertNew k y.swept }) d)

/-- Whether a die and age-class pair counts as swept (R342): calibrated, or no closed stripe of the class on the die. -/
def sweptPair (d : Dev) (x k : Nat) : Bool :=
  decide (k ∈ (dieOf d x).swept)
    || (stripesIn d x fun s => (decide (s.st = 4) || decide (s.st = 5)) && decide (ageClass d s = k)).isEmpty

/-- The end of a sweep over every die and class (R236, R342): event 334. -/
def sweepCheck (d : Dev) : Dev :=
  if d.glb.sweeping && (dataDies d).all (fun x => (List.range 8).all (sweptPair d x)) then
    raiseN 334 0 (onGlb (fun g => { g with sweeping := false, sweepEnded := true })
      { d with med := { d.med with dies := d.med.dies.map fun e => (e.1, { e.2 with swept := [] }) } })
  else d

/-- The scrub routine marks a stripe for refresh (R236): event 333. -/
def scrubMark (x s : Nat) (d : Dev) : Dev := raiseN 333 (x + s * 2048) (onStripe x s (fun e => { e with refresh := true }) d)

/-- A scrub read that needs more corrected bits than the thresholds section allows marks its stripe (R236). -/
def scrubbed (r : ScrubRead) (d : Dev) : Dev := if (img d).scrubBits < r.bits then scrubMark r.die.toNat r.stripe.toNat d else d

end Sys2Proof.Machine
end

