-- ==== Sys2Proof/Machine/Media.lean ====
section
/-!
DEFINITION. Media channels and dies (R182-R209): command templates and the checks on them, what dies do, erase suspension,
the erase-state guard, failures, the bus pairs (R32, R49), and the end of an XFER (R62) with what it brings a demand read.
-/
namespace Sys2Proof.Machine

/-! ## The schedule as a channel unit sees it -/

/-- The table entry of a die that covers the current tick at the level in effect (R28). -/
def slotNow (d : Dev) (x : Nat) : Option SlotEntry :=
  let at_ := spos d % phaseCycle d
  (img d).slots.find? fun e => decide (e.die.toNat = x) && decide (e.kind.toNat ≠ 0x0A) && decide (dutyLevel d ≤ e.lmax.toNat)
    && decide ((at_ + phaseCycle d - e.start.toNat % phaseCycle d) % phaseCycle d < e.length.toNat)

/-- The slot kind that event 42 names for a die now: its entry's, or 0x1F for a DEMAND window (R50). -/
def kindNow (d : Dev) (x : Nat) : Nat :=
  if d.sch.windows.any fun w => w.own && decide (w.die = x) && decide (w.issue = d.glb.tick) then 0x1F
  else match slotNow d x with
    | none => 0x1F
    | some e => e.kind.toNat

/-- A slot is missed (R48): event 42. -/
def timingViolation (x kind : Nat) (d : Dev) : Dev := raiseN 42 (x + kind * 2048) d

/-- Whether a program or erase that would last `busy` ticks stays in its die's program window (R34); the rule does not apply
in Shutdown (R35). -/
def phaseOk (d : Dev) (x busy : Nat) : Bool :=
  let sp := spos d
  decide (d.glb.base = .shutdown) ||
    ((List.range 2).all fun i => inProgram d (roleB d) x (if i = 0 then sp else (sp + busy - 1) % 2 ^ 20)) && decide (busy ≤ phaseSf d * 2048)

/-- Bytes in a pair at a channel's rate (R183). -/
def pairBytes (d : Dev) (c : Nat) : Nat := match getF d (F.MED_CH_STS_RATE c) with | 2 => 6400 | 3 => 7200 | 4 => 9600 | _ => 4800

/-- Ticks from a schedule position to the end of the k-th service pair at or after it, on a bus of a PERIOD (R32). -/
def pairTicks (p : Nat) : Nat → Nat → Nat → Nat
  | 0, _, _ => 0
  | _, 0, _ => 0
  | fuel + 1, k + 1, sp =>
    if sp % 2 = 1 ∨ sp % p = 0 then 1 + pairTicks p fuel (k + 1) (sp + 1) else 2 + pairTicks p fuel k (sp + 2)

/-- Ticks from now to the end of a program's data-in (R32): the service transfers queued on the channel, and its own 12 pages of a
native word line or 4 of a 1-bit one unless they are among them. -/
def dataInTicks (d : Dev) (x : Nat) (native : Bool) : Nat :=
  let c := x / 32
  let bpp := pairBytes d c
  let q := (chanOf d c).queue.filter fun t => !t.demand
  let own := if q.any fun t => t.dataIn && decide (t.die = x % 32) then 0 else ceilDiv ((if native then 12 else 4) * 18432) bpp
  let k := (q.map fun t => ceilDiv t.left bpp).sum + own
  pairTicks (periodOf d c) (3 * k + 3) k (spos d)

/-- Ticks from a program's command to the end of its busy time (R32, R34). -/
def programTicks (d : Dev) (x : Nat) (native : Bool) : Nat := dataInTicks d x native + if native then 1600 else 60

/-- Ticks that an erase or RESUME commanded now keeps its die busy (R34, R195): to the end of the slice that suspends it, else the
rest of its 6,000 tk. -/
def sliceTicks (d : Dev) (x : Nat) : Nat :=
  let at_ := spos d % phaseCycle d
  match slotNow d x with
  | some e => e.length.toNat - (at_ + phaseCycle d - e.start.toNat % phaseCycle d) % phaseCycle d
  | none => 6000 - (match (dieOf d x).erase with | some e => e.credited | none => 0)

/-! ## Templates (R191) -/

/-- One ONFI operation of a template: whether SLC_PFX stands before it, its first command, its address bytes, its confirm. -/
structure Onfi where
  slc : Bool := false
  code : Nat := 0
  addrs : List Nat := []
  confirm : Option Nat := none
  deriving DecidableEq, Repr, Inhabited

/-- The commands that end an operation. -/
def isConfirm (v : Nat) : Bool := decide (v ∈ [0x10, 0x11, 0xD0, 0xD1, 0x30, 0x32, 0xE0])

/-- Read the cycles of a template into operations: each cycle is (value, type). -/
def onfiGo (pfx : Nat) : List (Nat × Nat) → Bool → Option Onfi → List Onfi
  | [], _, cur => cur.toList
  | (v, ty) :: rest, slc, cur =>
    if ty = 0 then
      if v = pfx then cur.toList ++ onfiGo pfx rest true none
      else match cur with
        | some o =>
          if isConfirm v then { o with confirm := some v } :: onfiGo pfx rest false none
          else o :: onfiGo pfx rest false (some { slc := slc, code := v })
        | none => onfiGo pfx rest false (some { slc := slc, code := v })
    else if ty = 1 then onfiGo pfx rest slc (cur.map fun o => { o with addrs := o.addrs ++ [v] })
    else onfiGo pfx rest slc cur

/-- The cycles of a template. -/
def cyclesOf (t : List (BitVec 8)) (n : Nat) : List (Nat × Nat) :=
  (List.range n).map fun j => ((t.getD (8 + 2 * j) 0).toNat, (t.getD (9 + 2 * j) 0).toNat % 4)

/-- Whether a template is refused (R191). -/
def tmplBad (t : List (BitVec 8)) : Bool :=
  let b (i : Nat) : Nat := (t.getD i 0).toNat
  let n := b 0 % 32
  decide (n = 0) || decide (12 < n) || decide (b 0 / 64 ≠ 0) || decide (b 1 ≠ 0)
    || ((List.range 6).any fun i => decide (b (2 + i) ≠ 0)) || ((List.range 12).any fun j => decide (b (9 + 2 * j) / 4 ≠ 0))
    || ((cyclesOf t n).any fun c => decide (c.2 = 3) || (decide (c.1 = 0xE1) && decide (c.2 = 0)))

/-- The row address of an operation, as (plane, block, page); programs and reads send two column bytes first. -/
def rowOfOp (d : Dev) (o : Onfi) : Nat × Nat × Nat :=
  let bytes := if o.code = 0x60 ∨ o.code = 0x78 ∨ o.code = 0xFA ∨ o.addrs.length ≤ 3 then o.addrs else o.addrs.drop 2
  let row := bytes.foldr (fun b a => b + 256 * a) 0
  let l := (img d).dieOps
  (row / 2 ^ l.rowPlane % 4, row / 2 ^ l.rowBlock % 2 ^ 14, row % 2 ^ l.rowPlane)

/-- The kind an operation is counted as (R189), by its row of the table. -/
def kindOfCode (d : Dev) (o : Onfi) : Option Nat :=
  let l := (img d).dieOps
  match o.code with
  | 0xFF => some 0 | 0xFA => some 1 | 0x90 => some 2 | 0xEC => some 2 | 0xD4 => some 3 | 0xD5 => some 3 | 0xF9 => some 4
  | 0x78 => some 5 | 0x00 => some 6 | 0x06 => some 7 | 0x80 => some 8 | 0x85 => some 9 | 0x60 => some 10
  | c => if c = l.flagRead.toNat then some 6 else if c = l.resume.toNat then some 10 else if c = l.suspend.toNat then some 17 else none

/-! ## The issue log and refusals -/

/-- Enter a command in the issue log of 16 (R61). -/
def logIssue (c pos : Nat) (refused : Bool) (d : Dev) : Dev :=
  onChan c (fun y => { y with log := (y.log ++ [({ tick := d.glb.tick, die := pos, refused := refused } : IssueRec)]).drop (y.log.length + 1 - 16) }) d

/-- Refuse a command (R34, R191, R193, R196). -/
def refuseCmd (x : Nat) (err : Fld) (d : Dev) : Dev :=
  logIssue (x / 32) (x % 32) true (setB err true (count (0x7000 + 18 * (x / 32) + 12) d))

/-- Refuse a template or command with cause 0xA. -/
def refuseTmpl (x : Nat) (d : Dev) : Dev := medEvent (x / 32) 0xA (physPos d x) 0 0 (refuseCmd x (F.MED_ERR_TMPL_REF (x / 32)) d)

/-- Refuse a program or erase outside its window with event 43 (R34). -/
def refusePhase (x : Nat) (d : Dev) : Dev := raiseN 43 x (refuseCmd x (F.MED_ERR_PHASE_REF (x / 32)) d)

/-- The command of a chip enable names a volume: the unit inserts Volume Select when the last one was another (R185). -/
def selectVolume (x : Nat) (d : Dev) : Dev :=
  let p := physPos d x
  let c := x / 32
  if (chanOf d c).lastVol.get 8 (p / 8) = p % 8 then d
  else count (0x7000 + 18 * c + 11) (onChan c (fun y => { y with lastVol := y.lastVol.insert (p / 8) (p % 8) }) d)

/-! ## Operations -/

/-- The open-block entry of a block. -/
def openOf (y : Die) (plane block : Nat) : Option OpenBlk := y.open_.find? fun o => decide (o.plane = plane) && decide (o.block = block)

/-- The word line of a page in a mode (R186). -/
def wordLine (native : Bool) (page : Nat) : Nat := if native then page / 3 else page

/-- What a check finds for one operation: it may be driven; it is refused by the template rule, the phase rule or the guard;
or it is not issued and its slot is missed (R48). -/
inductive Verdict where
  | ok | tmpl | phase | guard (plane block : Nat) | missed
  deriving DecidableEq, Repr

/-- Whether the table of R189 has an operation with this confirm: a cache program (15h), a copyback (85h ... 10h) and their like are
not in it (R182). -/
def confirmOk (o : Onfi) : Bool :=
  match o.code, o.confirm with
  | _, none => true
  | 0x80, some c => decide (c = 0x10) || decide (c = 0x11)
  | 0x60, some c => decide (c = 0xD0) || decide (c = 0xD1)
  | 0x06, some c => decide (c = 0xE0)
  | 0x85, some _ => false
  | _, some c => decide (c = 0x30) || decide (c = 0x32)

/-- The commands a die takes in SDR mode (R182): Reset, Read ID, Read Parameter Page, Set Features. -/
def sdrCodes : List Nat := [0xFF, 0x90, 0xEC, 0xD5]

/-- Check one operation before its first cycle (R34, R48, R182, R194-R196, R201). An opcode outside the table of R189 is refused with
the template (log entry 69). -/
def checkOp (d : Dev) (x : Nat) (o : Onfi) : Verdict :=
  let y := dieOf d x
  let l := (img d).dieOps
  let (plane, block, page) := rowOfOp d o
  let busy := decide (y.op ≠ .none)
  if kindOfCode d o = none ∨ !confirmOk o then .tmpl
  else if o.code ∉ sdrCodes ∧ !(chanOf d (x / 32)).ddr.getLsbD (physPos d x) then .tmpl
  else if o.code = 0x78 ∨ o.code = 0xFA ∨ o.code = 0xFF then .ok
  else if o.code = l.suspend.toNat then (match y.op with
    | .erase _ => .ok
    | _ => .missed)
  else if busy ∨ y.missNow then .missed
  else if o.code = 0x80 then
    let native := !o.slc
    let wl := wordLine native page
    if !phaseOk d x (programTicks d x native) then .phase
    else match openOf y plane block with
      | some e => if e.native = native ∧ e.nwl = wl then .ok else .guard plane block
      | none => .guard plane block
  else if o.code = 0x60 then
    if !y.hasRecord ∨ (plane, block) ∈ y.bad then .tmpl
    else if !phaseOk d x (sliceTicks d x) then .phase
    else if y.erase.isSome then .missed else .ok
  else if o.code = l.resume.toNat then
    if !phaseOk d x (sliceTicks d x) then .phase
    else if y.erase.any fun e => e.suspended then .ok else .missed
  else .ok

/-- What an accepted program does (R196, R221, R222, R230): the confirm 10h starts the array and the work it carries. -/
def startProgram (x : Nat) (o : Onfi) (d : Dev) : Dev :=
  let (plane, block, page) := rowOfOp d o
  let native := !o.slc
  let wl := wordLine native page
  let d := onDie x (fun y => { y with progBlocks := insertNew (plane, block) y.progBlocks, progWl := wl, progNative := native }) d
  if o.confirm ≠ some 0x10 then d
  else
    let d := onDie x (fun y => { y with op := .prog native, busySince := d.glb.tick }) d
    let bs := (dieOf d x).progBlocks
    match stripeAt (dieOf d x) plane block with
    | none => onDie x (fun y => { y with work := [.other] }) d
    | some s =>
      if frozen d ∨ s.2.use = 2 then onDie x (fun y => { y with work := [.other] }) d
      else if native then
        if flag d F.TWN_STS_TARGET then startResilver x s.1 wl (places3 x wl bs) d else startCopy x s.1 wl (places3 x wl bs) d
      else if s.2.use = 1 then startWback x s.1 (places1 x wl bs) d
      else startDestage x (places1 x wl bs) d

/-- The stripe of an erase becomes ERASING (R217). -/
def eraseStripe (x plane block : Nat) (d : Dev) : Dev :=
  match stripeAt (dieOf d x) plane block with
  | none => d
  | some s => if s.2.st = 1 then d else stripeTo x s.1 1 s.2.use 0 d

/-- What an accepted erase does (R194, R195): its blocks; D0h starts the array. What the blocks held is gone. -/
def startErase (x : Nat) (o : Onfi) (d : Dev) : Dev :=
  let (plane, block, _) := rowOfOp d o
  let native := match slotNow d x with
    | some e => decide (e.kind.toNat ≠ 4)
    | none => !o.slc
  let d := eraseStripe x plane block d
  let d := onXlt (fun z => { z with media := z.media.filter fun e =>
    !(decide (paDie e.1 = x) && decide (paPlane e.1 = plane) && decide (paBlock e.1 = block)) }) d
  let d := onDie x (fun y => { y with
    progBlocks := insertNew (plane, block) y.progBlocks
    open_ := y.open_.filter fun b => !(decide (b.plane = plane) && decide (b.block = block))
    notErased := y.notErased.filter fun b => b ≠ (plane, block) }) d
  if o.confirm ≠ some 0xD0 then d
  else onDie x (fun y => { y with
    op := .erase true, busySince := d.glb.tick, progBlocks := [], erase := some { native := native, blocks := y.progBlocks } }) d

/-- The status byte of a busy die: RDY and ARDY 0 (R192). -/
def busyStatus (s : BitVec 8) : BitVec 8 := s &&& 0x9F

/-- Drive one operation that passed its checks. -/
def driveOp (x : Nat) (o : Onfi) (d : Dev) : Dev :=
  let l := (img d).dieOps
  let c := x / 32
  let d := match kindOfCode d o with
    | none => d
    | some k => count (0x7000 + 18 * c + k) d
  let now := d.glb.tick
  if o.code = 0x80 then startProgram x o d
  else if o.code = 0x60 then startErase x o d
  else if o.code = l.resume.toNat then onDie x (fun y => { y with
    op := .erase false, busySince := now, erase := y.erase.map fun e => { e with suspended := false, resumed := true } }) d
  else if o.code = l.suspend.toNat then onDie x (fun y => { y with
    erase := y.erase.map fun e => { e with suspAt := some now } }) d
  else if o.code = 0xFA then onDie x (fun y => { y with op := .reset, busySince := now }) d
  else if o.code = 0x78 then onDie x (fun y => if y.op = .none then y else { y with status := busyStatus y.status }) d
  else if o.code = 0x00 ∨ o.code = l.flagRead.toNat then
    (if o.confirm = some 0x32 then d else onDie x (fun y => { y with op := .read, busySince := now }) d)
  else d

/-- The channel unit takes a template for a die (R48, R59, R191-R196): every operation of it is checked before the first cycle
is driven. -/
def driveTmpl (x : Nat) (t : List (BitVec 8)) (d : Dev) : Dev :=
  let c := x / 32
  let ops := onfiGo (img d).dieOps.slcPfx.toNat (cyclesOf t ((t.getD 0 0).toNat % 32)) false none
  let failed := (getF d (F.MED_DIE_FAIL_FAIL c)).testBit (physPos d x)
  if tmplBad t ∨ failed ∨ (dieOf d x).split then refuseTmpl x d
  else match (ops.map (checkOp d x)).find? fun v => v ≠ .ok with
    | some .tmpl => refuseTmpl x d
    | some .phase => refusePhase x d
    | some (.guard p b) => medEvent c 4 (physPos d x) p b (refuseCmd x (F.MED_ERR_GUARD_REF c) d)
    | some .missed => if (dieOf d x).missNow then d else timingViolation x (kindNow d x) d
    | _ => ops.foldl (fun d o => driveOp x o d) (logIssue c (x % 32) false (selectVolume x d))

/-! ## The end of what a die does -/

/-- Bit of the status byte. -/
def stBit (s : BitVec 8) (i : Nat) : Bool := s.getLsbD i

/-- The SUSP bit of a status byte (R190). -/
def suspBit (d : Dev) (s : BitVec 8) : Bool := stBit s (img d).dieOps.suspBit.toNat

/-- A word line is programmed: NWL rises, and at 1,024 the block is closed (R196, R217). -/
def advanceNwl (x : Nat) (bs : List (Nat × Nat)) (wl : Nat) (d : Dev) : Dev :=
  let d := onDie x (fun y => { y with open_ := (y.open_.map fun o =>
    if (o.plane, o.block) ∈ bs then { o with nwl := o.nwl + 1 } else o).filter fun o => o.nwl < 1024 }) d
  match bs with
  | [] => d
  | b :: _ => match stripeAt (dieOf d x) b.1 b.2 with
    | none => d
    | some s =>
      let d := onStripe x s.1 (fun e => { e with nwl := max e.nwl (wl + 1) }) d
      if wl + 1 < 1024 then d else stripeTo x s.1 (if s.2.st = 2 then 4 else 5) s.2.use 0 d

/-- A program's end (R192, R198). -/
def programEnds (x : Nat) (status : BitVec 8) (d : Dev) : Dev :=
  let y := dieOf d x
  let d := onDie x (fun y => { y with op := .none, work := [], progBlocks := [] }) d
  if stBit status 0 then programFails x y.progBlocks y.work d
  else
    let d := advanceNwl x y.progBlocks y.progWl d
    y.work.foldl (fun d w => workDone x w d) d

/-- An erase's end (R192, R197, R198): FAIL retires its blocks; else the blank check follows. -/
def eraseEnds (x : Nat) (status : BitVec 8) (d : Dev) : Dev :=
  match (dieOf d x).erase with
  | none => onDie x (fun y => { y with op := .none }) d
  | some e =>
    let d := onDie x (fun y => { y with op := .none, erase := none }) d
    if stBit status 0 then
      let d := setB (F.MED_ERR_ERASE_FAIL (x / 32)) true (count (0x7000 + 18 * (x / 32) + 14) d)
      e.blocks.foldl (fun d b => retireBlock x b.1 b.2 2 d) d
    else if e.resumed && suspBit d status then dieFails x 0 0 d
    else onDie x (fun y => { y with blank := some e }) d

/-- Whether a program's data-in is still to move: its confirm is driven in the last pair (R193). -/
def dataInDue (d : Dev) (x : Nat) : Bool := (chanOf d (x / 32)).queue.any fun t => t.dataIn && decide (t.die = x % 32)

/-- A die's operation ends and its status is read (R192). A read brings the die's register what the array holds in its codewords,
which the spec does not give: free values, 9,216 words of them for four planes. -/
def dieOpComplete (x : Nat) (status : BitVec 8) (d : Dev) : Dev :=
  if (dieOf d x).op = .none ∨ dataInDue d x then d
  else
    let d := count (0x7000 + 18 * (x / 32) + 5) (onDie x (fun y => { y with status := status }) d)
    if !stBit status 7 then dieFails x 0 0 d
    else if !stBit status 6 then d
    else match (dieOf d x).op with
      | .prog _ => programEnds x status d
      | .erase _ => eraseEnds x status d
      | .read =>
        let k := d.free
        onDie x (fun y => { y with op := .none, page := [], array := some k }) { d with free := k + 9216 }
      | _ => onDie x (fun y => { y with op := .none }) d

/-- DIE_OPERATION_COMPLETE (R192, R198, R221, R259). -/
def execDieOperationComplete (ch : Fin 64) (die : BitVec 5) (status : BitVec 8) (s : State) :
    Host.Outcome State Fault Refusal := run (dieOpComplete (ch.val * 32 + die.toNat) status) s

/-- The status after SUSPEND is read (R192, R195): the slice's ticks are credited; SUSP 0 fails the die. -/
def eraseSuspend (x : Nat) (status : BitVec 8) (d : Dev) : Dev :=
  match (dieOf d x).erase with
  | none => d
  | some e =>
    if e.suspAt = none ∧ !e.suspended then d
    else
      let d := count (0x7000 + 18 * (x / 32) + 5) (onDie x (fun y => { y with status := status }) d)
      if !stBit status 7 || !suspBit d status then dieFails x 0 0 d
      else match e.suspAt with
        | none => d
        | some t => onDie x (fun y => { y with
            op := .none
            erase := some { e with suspended := true, suspAt := none, resumed := false, credited := e.credited + (t - y.busySince - 1) } }) d

/-- ERASE_SUSPEND (R195). -/
def execEraseSuspend (ch : Fin 64) (die : BitVec 5) (status : BitVec 8) (s : State) : Host.Outcome State Fault Refusal :=
  run (eraseSuspend (ch.val * 32 + die.toNat) status) s

/-- The use a stripe erased for 1-bit programs takes (R218): the Spillway stripe first, then the data stripe, then meta. -/
def useFor (d : Dev) (x : Nat) : BitVec 2 :=
  let has (u : BitVec 2) : Bool := !(stripesIn d x fun s => decide (s.st = 3) && decide (s.use = u)).isEmpty
  if !has 2 then 2 else if !has 0 then 0 else if !has 1 then 1 else 0

/-- A blank check passes (R196, R197): an open-block entry for each plane, and the stripe is open. -/
def blankPasses (x : Nat) (e : EraseSt) (d : Dev) : Dev :=
  let c := x / 32
  let d := onDie x (fun y => { y with blankFails := y.blankFails.filter fun b => b ∉ e.blocks }) d
  if 32 < (dieOf d x).open_.length + e.blocks.length then
    medEvent c 0xB (physPos d x) 0 0 (setB (F.MED_ERR_OPEN_FULL c) true d)
  else
    let d := onDie x (fun y => { y with open_ := y.open_ ++ e.blocks.map fun b => ⟨b.1, b.2, e.native, 0⟩ }) d
    match e.blocks with
    | [] => d
    | b :: _ => match stripeAt (dieOf d x) b.1 b.2 with
      | none => d
      | some s =>
        let second := !(stripesIn d x fun t => decide (t.st = 2) && !t.isCopy).isEmpty
        let d := stripeTo x s.1 (if e.native then 2 else 3) (if e.native then 0 else useFor d x) 0 d
        if e.native then onStripe x s.1 (fun t => { t with isCopy := second }) d else d

/-- A blank check fails (R197): once more, or retired with cause 0x3. -/
def blankFailsNow (x : Nat) (e : EraseSt) (d : Dev) : Dev :=
  let d := setB (F.MED_ERR_BLANK_FAIL (x / 32)) true d
  e.blocks.foldl (fun d b =>
    if b ∈ (dieOf d x).blankFails then
      retireBlock x b.1 b.2 3 (onDie x (fun y => { y with blankFails := y.blankFails.filter fun z => z ≠ b }) d)
    else onDie x (fun y => { y with blankFails := y.blankFails ++ [b], notErased := insertNew b y.notErased }) d) d

/-- Whether a codeword with this many zero bits is reported as erased (R187). -/
def reportsErased (d : Dev) (zeros : Nat) : Bool := decide (zeros ≤ getF d F.MED_ERASED_ZB)

/-- A blank check ends (R197): `zeros` gives the zero bits of codeword 0 of word lines 0 and 1,023 of each erased plane; each that
reports as erased is counted (R208), and the check passes when all do. -/
def blankCheck (x : Nat) (zeros : List Nat) (d : Dev) : Dev :=
  match (dieOf d x).blank with
  | none => d
  | some e =>
    let n := 2 * e.blocks.length
    let erased := ((List.range n).filter fun k => reportsErased d (zeros.getD k 0)).length
    let d := countN (0x7000 + 18 * (x / 32) + 16) erased (onDie x (fun y => { y with blank := none }) d)
    if erased = n then blankPasses x e d else blankFailsNow x e d

/-- BLANK_CHECK (R197). -/
def execBlankCheck (ch : Fin 64) (die : BitVec 5) (zeros : List Nat) (s : State) : Host.Outcome State Fault Refusal :=
  run (blankCheck (ch.val * 32 + die.toNat) zeros) s

/-- A die still busy MED_TMO ticks after its last command (R199): Reset LUN; a program is failed, an erase undone. A die not
ready 1,000 tk after Reset LUN fails (R200). -/
def busyTimeout (x : Nat) (d : Dev) : Dev :=
  let c := x / 32
  let y := dieOf d x
  let since := d.glb.tick - y.busySince
  if y.op = .none then d
  else if y.op = .reset then (if 1000 ≤ since then dieFails x 0 0 d else d)
  else if since < getF d F.MED_TMO_TMO then d
  else
    let d := count (0x7000 + 18 * c + 1) (setB (F.MED_ERR_BUSY_TMO c) true (selectVolume x d))
    let d := onDie x (fun y => { y with
      op := .reset, busySince := d.glb.tick, work := [], progBlocks := [], erase := none
      notErased := y.notErased ++ (match y.op, y.erase with | .erase _, some e => e.blocks | _, _ => []) }) d
    let d := medEvent c 5 (physPos d x) 0 0 d
    match y.op with
    | .prog _ => programFails x y.progBlocks y.work d
    | _ => d

/-- BUSY_TIMEOUT (R199, R200). -/
def execBusyTimeout (ch : Fin 64) (die : BitVec 5) (s : State) : Host.Outcome State Fault Refusal :=
  run (busyTimeout (ch.val * 32 + die.toNat)) s

/-! ## Erase slices that a degraded or fallback read interrupts (R245) -/

/-- Suspend and resume the erase of a die around such a read. -/
def eraseAround (w : Window) (d : Dev) : Dev :=
  let now := d.glb.tick
  if !w.own || !(w.fallback || alone d) then d
  else if w.issue = now + 2 then
    match (dieOf d w.die).op, (dieOf d w.die).erase with
    | .erase _, some e =>
      let d := selectVolume w.die d
      count (0x7000 + 18 * (w.die / 32) + 5) (count (0x7000 + 18 * (w.die / 32) + 17) (onDie w.die (fun y => { y with
        op := .none
        erase := some { e with suspended := true, resumeAt := some (w.issue + readTkOf d w.ch + 2),
                               credited := e.credited + (now - y.busySince) } }) d))
    | _, _ => d
  else d

/-- Resume an erase whose read has ended, while its slice lasts. -/
def eraseResume (x : Nat) (d : Dev) : Dev :=
  match (dieOf d x).erase with
  | none => d
  | some e =>
    if e.resumeAt ≠ some d.glb.tick then d
    else
      let inSlice := match slotNow d x with
        | some s => decide (s.kind.toNat = 3) || decide (s.kind.toNat = 4)
        | none => false
      let again := inSlice && decide ((dieOf d x).op = .none)
      let d := whenD again (fun d => count (0x7000 + 18 * (x / 32) + 10) (selectVolume x d)) d
      onDie x (fun y => { y with
        op := if again then .erase false else y.op, busySince := if again then d.glb.tick else y.busySince
        erase := some { e with suspended := !again, resumeAt := none, resumed := again } }) d

/-- R245 for every window and die. -/
def erasesAround (d : Dev) : Dev :=
  let d := d.sch.windows.foldl (fun d w => eraseAround w d) d
  d.med.dies.foldl (fun d e => eraseResume e.1 d) d

/-! ## The bus (R32, R49, R60, R193) -/

/-- A transfer would start while one is running: it is held to the next pair of its kind, event 45 (R49). Requests whose
windows it carries note the cause (R252). -/
def busHeld (c : Nat) (d : Dev) : Dev := raiseN 45 c d

/-- Byte `i` of a die's data register (R193). -/
def pageByte (y : Die) (i : Nat) : BitVec 8 :=
  match y.array with
  | none => y.page.get 0 i
  | some k => BitVec.ofNat 8 ((Config.freeValue (k + i / 8)).toNat / 256 ^ (i % 8))

/-- A transfer has moved its data between the channel's media buffer and the die (R61). -/
def moveData (c : Nat) (t : Transfer) (d : Dev) : Dev :=
  let x := c * 32 + t.die
  if t.dataIn then
    let buf := (chanOf d c).buf
    onDie x (fun y => { y with
      array := none
      page := (List.range t.len).foldl (fun m i => m.put 0 i (buf.get 0 ((t.mem + i) % 2 ^ 19))) [] }) d
  else
    let y := dieOf d x
    onChan c (fun z => { z with buf := (List.range t.len).foldl (fun m i => m.put 0 ((t.mem + i) % 2 ^ 19) (pageByte y i)) z.buf }) d

/-- A transfer is complete: its data has moved; a program's confirm goes with the last pair, and its busy time begins at the tick
after it (R32, R193). -/
def transferEnds (c : Nat) (t : Transfer) (d : Dev) : Dev :=
  let d := moveData c t d
  if !t.dataIn then d
  else onDie (c * 32 + t.die) (fun y => match y.op with
    | .prog _ => { y with busySince := d.glb.tick + 2 }
    | _ => y) d

/-- One pair of a channel's bus: the first waiting transfer of the pair's kind moves; a DEMAND transfer not before its tick (R36).
A transfer split across pairs resumes with Change Column (R193). -/
def busPair (c : Nat) (demand : Bool) (d : Dev) : Dev :=
  let y := chanOf d c
  match y.queue.find? fun t => t.demand == demand && decide (t.due ≤ d.glb.tick) with
  | none => d
  | some t =>
    if d.glb.tick < y.busUntil then
      let hs := (d.sch.windows.filter fun w => demand && decide (w.die = c * 32 + t.die)).map fun w => w.htag
      busHeld c (hs.foldl (fun d h => noteCause h 2 d) d)
    else
      let bpp := pairBytes d c
      let x := c * 32 + t.die
      let d := whenD (dieOf d x).split (fun d => count (0x7000 + 18 * c + (if t.dataIn then 9 else 7)) (selectVolume x d)) d
      let done := demand || decide (t.left ≤ bpp)
      let ticks := if demand then 2 * ((t.left + bpp - 1) / bpp) else 2
      let d := onDie x (fun z => { z with split := !done }) d
      let d := onChan c (fun z => { z with
        busUntil := d.glb.tick + ticks
        queue := if done then z.queue.erase t else z.queue.map fun q => if q = t then { q with left := q.left - bpp } else q }) d
      if done then transferEnds c t d else d

/-- The buses in a tick: a pair begins on every even tick; the pair at offset 0 of the channel's demand period is the DEMAND
pair. The pair of a tick is carried when the tick ends, so that it takes what the runnels queued in it (R32). -/
def busTick (d : Dev) : Dev :=
  let sp := spos d
  if sp % 2 = 1 then d
  else (d.med.chans.map fun e => e.1).foldl (fun d c => busPair c (decide (sp % periodOf d c = 0)) d) d

/-! ## The end of a demand read (R40, R62, R188, R247) -/

/-- Bind the fallback of a failed read on the other copy (R247): case 3, or 7 when a map page may have to be read there. A
second fallback pending on the same die is cause 5 (R252). -/
def fallbackRead (h : Nat) (own : Bool) (d : Dev) : Dev :=
  let leaf := txnLine (getT d h) / 64
  let die := dieOfLeaf d leaf
  let pending := d.sch.windows.any fun w => w.fallback && decide (w.die = die) && decide (w.htag ≠ h)
  let map := if own then !mapCached d leaf else true
  let d := if pending then noteCause h 5 d else d
  rebindRead h own map false (onT h (fun t => { t with case_ := if map then 7 else 3 }) (releaseWindows h d))

/-- A demand read failed decode or verification on a copy (R16, R188): the other copy is read; with both failed, or alone, the
requested line is lost. -/
def readFails (h : Nat) (own : Bool) (d : Dev) : Dev :=
  let t := getT d h
  if alone d ∨ t.case_ = 3 ∨ t.case_ = 7 then leafLost (txnLine t / 64) d else fallbackRead h (!own) d

/-- A read whose window was missed or whose runnel was replaced is bound again on the same copy (R48, R71, R462); for a claimed window
the home is told by a VOID. -/
def readMissed (w : Window) (cause : Nat) (d : Dev) : Dev :=
  if w.claimed then
    mirSend (.void (BitVec.ofNat 6 w.ch) (BitVec.ofNat 18 w.n) false)
      (onSch (fun s => { s with windows := s.windows.filter fun x => x ≠ w }) d)
  else
    let d := onSch (fun s => { s with windows := s.windows.filter fun x => x ≠ w }) (noteCause w.htag cause d)
    let d := if w.second then d else releaseWindows w.htag d
    if hasT d w.htag then rebindRead w.htag w.own (w.own && !w.second && !mapCached d w.leaf) w.second d else d

/-- The data of a window's read has arrived with a STATUS of R62. -/
def readArrives (w : Window) (status : Nat) (d : Dev) : Dev :=
  let c := w.ch
  let x := w.die
  let d := if status = 3 then count (0x7000 + 18 * c + 15) d else d
  let d := if status = 2 then
      (if w.mapRead then raiseN 368 x (setB F.SLU_ERR_STRUCT_TAG true d)
       else raiseN 353 x (setB F.SLU_ERR_LEAF_TAG true (count 0x9001 d)))
    else d
  if status = 4 then readMissed w 3 d
  else
    let gone (d : Dev) : Dev := onSch (fun s => { s with windows := s.windows.filter fun y => y ≠ w }) d
    if w.claimed then
      if status ≠ 1 then gone d
      else if w.mapRead then
        let d := match ordinalOf d w.leaf with
          | none => d
          | some e => onXlt (fun z => { z with cached := insertNew e z.cached }) d
        let p := resolveLeaf d w.leaf
        onSch (fun s => { s with windows := s.windows.map fun y =>
          if y.claimed ∧ y.second ∧ y.leaf = w.leaf then { y with paddr := p.1, agecls := p.2 } else y }) (gone d)
      else sendLeaf w.leaf 0 (gone d)
    else if status ≠ 1 then readFails w.htag w.own (gone d)
    else if w.mapRead then
      let d := match ordinalOf d w.leaf with
        | none => d
        | some e => onXlt (fun z => { z with cached := insertNew e z.cached }) d
      let d := gone d
      if neverWritten d w.leaf then fillArrives w.htag w.leaf {} (releaseWindows w.htag d)
      else if (windowsOf d w.htag).isEmpty then rebindRead w.htag w.own false true d
      else resolveOwn w.htag d
    else
      let m := mediaLeaf d w.leaf
      fillArrives w.htag w.leaf { poison := m.2, lines := m.1 } (releaseWindows w.htag (gone d))

/-- The window an XFER carries: the request's own, or for HTAG 0xFFF the oldest issued claim of the runnel's channels. -/
def windowOfXfer (d : Dev) (rn htag : Nat) : Option Window :=
  if htag = 0xFFF then d.sch.windows.find? fun w => w.claimed && w.issued && decide (w.ch / 2 = rn)
  else match (windowsOf d htag).find? fun w => !w.own || w.issued with
    | some w => some w
    | none => none

/-- Whether a decoded codeword is not the one its reader expects (R216): another KIND, a reserved one among them, or another ID. -/
def otherSector (md : Option SectorId) (kind id : Nat) : Bool :=
  match md with
  | none => false
  | some m => decide (m.kind.toNat ≠ kind) || decide (m.id.toNat ≠ id)

/-- What the end of an XFER brings a request or a copy (R62): `leaf` names the leaf a fold or collection read carries, `md` what the
codeword's metadata says. A codeword with other metadata than expected is a decode failure, event 335 (R216). -/
def xferBrings (rn status htag : Nat) (leaf : Option Nat) (md : Option SectorId) (d : Dev) : Dev :=
  match leaf with
  | some l =>
    let other := decide (status = 1) && otherSector md 1 l
    let d := whenD other (mapInconsistent (dieOfLeaf d l)) d
    if status = 2 ∨ status = 3 ∨ other then copyReadFails (decide (status = 2)) l d else d
  | none => match windowOfXfer d rn htag with
    | none => d
    | some w =>
      let other := decide (status = 1) && (if w.mapRead then otherSector md 2 ((ordinalOf d w.leaf).getD 0) else otherSector md 1 w.leaf)
      let d := whenD other (mapInconsistent w.die) d
      if status = 0 ∨ 4 < status then d else readArrives w (if other then 3 else status) d

end Sys2Proof.Machine
end

