-- ==== Sys2Proof/Machine/Operands.lean ====
section
/-!
DEFINITION. Operands of the runnel operations (R53-R58): registers, predicates and guards, immediates, data SRAM with its undo
buffer (R67), and the bundle in which operations issue together (R57).
-/
namespace Sys2Proof.Machine

/-- A general register of a core. -/
def Core.reg (c : Core) (i : Nat) : Word64 := c.g.get 0 i
/-- A predicate of a core; p0 reads 1 (R53). -/
def Core.pred (c : Core) (i : Nat) : Bool := decide (i = 0) || c.p.getLsbD i
/-- Write a general register. -/
def Core.setReg (i : Nat) (v : Word64) (c : Core) : Core := { c with g := c.g.put 0 i v }
/-- Write a predicate; a write to p0 is discarded (R53). -/
def Core.setPred (i : Nat) (b : Bool) (c : Core) : Core :=
  if i = 0 then c
  else { c with p := if b then c.p ||| BitVec.twoPow 8 i else c.p &&& ~~~BitVec.twoPow 8 i }

/-- Whether an operation executes under its guard (R56): predicate bits 2:0, negated by bit 3. -/
def guardOn (c : Core) (g : BitVec 4) : Bool := c.pred (g.toNat % 8) != g.getLsbD 3

/-- A sign-extended 12-bit immediate. -/
def imm12s (i : BitVec 12) : Word64 := i.signExtend 64

/-- The shift amount of SHL, SHR and SAR (R57): f[5:0] when b is g0 and f is not 0, else b[5:0]. -/
def shiftAmount (c : Core) (b : BitVec 5) (f : BitVec 7) : Nat :=
  if b = 0 ∧ f ≠ 0 then f.toNat % 64 else (c.reg b.toNat).toNat % 64

/-- The width of an EXTR or INS field: 0 means 64. -/
def fieldWidth (imm : BitVec 12) : Nat := if imm.toNat % 64 = 0 then 64 else imm.toNat % 64

/-- The position of an EXTR or INS field. -/
def fieldPos (imm : BitVec 12) : Nat := imm.toNat / 64

/-! ## Data SRAM (R54) -/

/-- The 64-bit word of a table entry (R28). -/
def slotWord (e : SlotEntry) : Nat :=
  e.arg.toNat + e.resv.toNat * 2 ^ 12 + e.lmax.toNat * 2 ^ 15 + e.home.toNat * 2 ^ 19 + e.die.toNat * 2 ^ 21
    + e.kind.toNat * 2 ^ 32 + e.length.toNat * 2 ^ 37 + e.start.toNat * 2 ^ 48

/-- The slot table of a runnel, by START and then die index (R54). -/
def slotTable (d : Dev) (n : Nat) : List SlotEntry :=
  sortKey (fun e => e.start.toNat * 2048 + e.die.toNat) ((img d).slots.filter fun e => slotOwner e = n)

/-- A byte of the data address space of a runnel below 0x4_0000. -/
def dataByte (d : Dev) (n : Nat) (c : Core) (a : Nat) : BitVec 8 :=
  if a < 0x10000 then (match (slotTable d n)[a / 8]? with
    | none => 0
    | some e => BitVec.ofNat 8 (slotWord e / 256 ^ (a % 8)))
  else c.data.get 0 a

/-- The bytes of a range of the data address space. -/
def dataBytes (d : Dev) (n : Nat) (c : Core) (a len : Nat) : List (BitVec 8) := (List.range len).map fun i => dataByte d n c (a + i)

/-- Whether a read of `len` bytes is allowed: mapped and naturally aligned (R54). -/
def readOk (a len : Nat) : Bool := decide (a % len = 0) && decide (a + len ≤ 0x40100)
/-- Whether a write of `len` bytes is allowed (R54). -/
def writeOk (a len : Nat) : Bool := decide (a % len = 0) && decide (0x10000 ≤ a) && decide (a + len ≤ 0x40000)

/-- The 64 bytes of a block of data SRAM. -/
def blockBytes (c : Core) (b : Nat) : List (BitVec 8) := (List.range 64).map fun i => c.data.get 0 (b * 64 + i)

/-- Save a block in the undo buffer at its first write; none when 64 are saved already (R67). -/
def undoSave (a : Nat) (c : Core) : Option Core :=
  let b := a / 64
  if (c.undo.any fun e => e.1 = b) then some c
  else if 64 ≤ c.undo.length then none
  else some { c with undo := c.undo.insert b (some (blockBytes c b)) }

/-- Write bytes in data SRAM. -/
def putBytes (a : Nat) (bs : List (BitVec 8)) (c : Core) : Core :=
  { c with data := (List.zip (List.range bs.length) bs).foldl (fun m e => m.put 0 (a + e.1) e.2) c.data }

/-- Save every block that `len` bytes at `a` touch; none when the undo buffer is exhausted (R67). -/
def undoSaveAll (a len : Nat) (c : Core) : Option Core :=
  (List.range ((a + len + 63) / 64 - a / 64)).foldl (fun (c : Option Core) k => match c with
    | none => none
    | some c => undoSave ((a / 64 + k) * 64) c) (some c)

/-- Data SRAM as it stood before the tick's writes (R70). -/
def undoAll (c : Core) : Core :=
  { c.undo.foldl (fun c e => match e.2 with | none => c | some bs => putBytes (e.1 * 64) bs c) c with undo := [] }

/-! ## Bundles (R57, R58) -/

/-- The four slots of a bundle. -/
inductive SlotPos where
  | alu | mem | media | xfer
  deriving DecidableEq, Repr

/-- A slot's bit. -/
def SlotPos.bit : SlotPos → Nat
  | .alu => 0 | .mem => 1 | .media => 2 | .xfer => 3

/-- What an operation is, as its bundle's checks see it: its slot, cycles, the registers and predicates it writes, and whether
its encoding is illegal (R58). -/
structure OpShape where
  slot : SlotPos := .alu
  cycles : Nat := 1
  writesG : List Nat := []
  writesP : List Nat := []
  illegal : Bool := false
  deriving DecidableEq, Repr

/-- What an operation does: the new core, or a runnel fault with its cause (R69). -/
abbrev OpResult := Except Nat Core

/-- A runnel fault stops the runnel at the bundle: its operations have no effect (R69). -/
def runnelFault (n cause : Nat) (d : Dev) : Dev :=
  onRunnel n (fun r => { r with st := .faulted (BitVec.ofNat 4 cause), core := r.issue }) d

/-- Whether an operation makes its bundle illegal (R58): an illegal form, a slot taken twice, two writers of one register or
predicate. -/
def bundleBad (r : Runnel) (o : OpShape) : Bool :=
  o.illegal || r.core.slots.getLsbD o.slot.bit || (o.writesG.any fun i => decide (i ∈ r.core.wrG))
    || o.writesP.any fun i => decide (i ∈ r.core.wrP)

/-- The next bundle after control (R57, R66): loops whose body a taken branch leaves are ended. -/
def leaveLoops (depth : Nat) (t : BitVec 12) : List LoopEnt → List LoopEnt
  | [] => []
  | l :: rest =>
    if l.depth = depth ∧ (t.toNat < l.first.toNat ∨ l.last.toNat < t.toNat) then leaveLoops depth t rest else l :: rest

/-- Control reaches a bundle (R66): at the end of a body the loop goes back to its first bundle, at 1 cycle, or ends. -/
def loopStep (depth : Nat) (t : BitVec 12) : List LoopEnt → BitVec 12 × List LoopEnt × Nat
  | [] => (t, [], 0)
  | l :: rest =>
    if l.depth = depth ∧ t.toNat = l.last.toNat + 1 then
      if 1 < l.count then (l.first, { l with count := l.count - 1 } :: rest, 1) else loopStep depth t rest
    else (t, l :: rest, 0)

/-- The declared routine entries of a runnel (R58, R66). -/
def routinesOf (d : Dev) (n : Nat) : List (BitVec 12) :=
  match (img d).runnels[n]? with
  | none => []
  | some s => declared n s

/-- Where control goes after a bundle: the new core and bundle index with the loop's cycle, or a control error (R58, R66). -/
def control (pc : BitVec 12) (c : Core) : Except Nat (Core × BitVec 12 × Nat) :=
  let go (t : BitVec 12) (c : Core) : Except Nat (Core × BitVec 12 × Nat) :=
    let r := loopStep c.ret.length t c.loops
    .ok ({ c with loops := r.2.1, ctl := .none }, r.1, r.2.2)
  match c.ctl with
  | .none => go (pc + 1) c
  | .branch t => .ok ({ c with loops := leaveLoops c.ret.length t c.loops, ctl := .none }, t, 0)
  | .call t => if 8 ≤ c.ret.length then .error 5 else .ok ({ c with ret := (pc + 1) :: c.ret, ctl := .none }, t, 0)
  | .ret => (match c.ret with
    | [] => .error 5
    | t :: rest => go t { c with ret := rest })
  | .loop n last =>
    if 2 ≤ c.loops.length then .error 5
    else .ok ({ c with loops := ⟨pc + 1, last, n, c.ret.length⟩ :: c.loops, ctl := .none }, pc + 1, 0)
  | .exit => if c.ret = [] ∧ c.loops = [] then .ok ({ c with ctl := .none }, pc, 0) else .error 5

/-! ## What a bundle asks of the units outside the runnel -/

/-- Carry out one request (R59-R62). -/
def unitDo (n : Nat) (q : UnitReq) (d : Dev) : Dev :=
  match q with
  | .mcmd ch die t => driveTmpl (ch * 32 + die) t d
  | .mdin ch die desc bytes mem ctag => onChan ch (fun c => { c with
      queue := c.queue ++ [{ rn := n, die := die, desc := desc, dataIn := true, left := bytes, len := bytes, mem := mem, ctag := ctag }] }) d
  | .mdout ch die desc bytes mem ctag demand =>
    let due := if demand then d.glb.tick + readTkOf d ch else 0
    onChan ch (fun c => { c with
      queue := c.queue ++ [{ rn := n, die := die, desc := desc, dataIn := false, demand := demand, left := bytes, len := bytes,
                             mem := mem, ctag := ctag, due := due }] }) d
  | .xmov desc tmpl => onRunnel n (fun r => { r with core := { r.core with xfers := r.core.xfers ++ [⟨desc, tmpl⟩] } }) d

/-- Deliver the outbox of a runnel that gives its beat (R59): the recipient can pop a post from the next tick on. What a post to the
Basin's translation interface makes it do the spec does not give; the interface takes it in the next tick (log entry 40). -/
def deliver (ps : List Post) (d : Dev) : Dev :=
  ps.foldl (fun d p => if p.target = 63 then onSch (fun s => { s with basinPosts := s.basinPosts ++ [p] }) d
    else onRunnel p.target (fun r => { r with arrived := r.arrived ++ [p] }) d) d

/-- The beat of a runnel (R47, R66): shadow file, outbox, undo buffer, SCH_CYC, and the margin. -/
def beat (n : Nat) (d : Dev) : Dev :=
  let r := runnelOf d n
  let c := r.core
  let d := onRunnel n (fun r => { r with
    st := .idle, shadowG := c.g, shadowP := c.p, restart := none
    core := { c with undo := [], outbox := [] } }) d
  let d := deliver c.outbox d
  let d := setF (F.SCH_CYC_LAST n) r.cyc (setF (F.SCH_CYC_MAX n) (max (getF d (F.SCH_CYC_MAX n)) r.cyc) d)
  if 1900 < r.cyc then raiseN 40 n (count (0x3000 + 66 * n) d) else d

/-- The end of a bundle (R57): its requests go out, control moves on, its cost is spent; a TEXIT gives the beat, unless
cycle 2,000 has passed. -/
def bundleEnd (n : Nat) (d : Dev) : Dev :=
  let r := runnelOf d n
  let exits := decide (r.core.ctl = .exit)
  match control r.pc r.core with
  | .error e => runnelFault n e d
  | .ok (c, pc, extra) =>
    let cyc := r.cyc + r.cost + extra
    let d := onRunnel n (fun _ => { r with
      core := { c with reqs := [], counts := [], wrG := [], wrP := [], slots := 0 }, pc := pc, cyc := cyc, cost := 0 }) d
    let d := c.counts.foldl (fun d k => count (0x3000 + 66 * n + 2 + k) d) d
    let d := c.reqs.foldl (fun d q => unitDo n q d) d
    if !exits then d else if cyc ≤ 2000 then beat n d else runnelFault n 0 d

/-- Run one operation of a bundle of a runnel: all operations read the core as it stood when the bundle issued (R57). An
operation whose guard is false has no effect and its full cost (R56). A runnel that is not running runs nothing. -/
def runOp (h : OpHdr) (o : OpShape) (f : Dev → Core → Core → OpResult) (d : Dev) : Dev :=
  let n := h.rn.val
  let r := runnelOf d n
  if r.st ≠ .running then d
  else
    let d := if r.core.slots = 0 then onRunnel n (fun r => { r with issue := r.core }) d else d
    let r := runnelOf d n
    if 2000 ≤ r.cyc then runnelFault n 0 d
    else if bundleBad r o then runnelFault n 1 d
    else if o.slot = .media ∧ 32 ≤ n then runnelFault n 2 d
    else
      match (if guardOn r.issue h.guard then f d r.issue r.core else .ok r.core) with
      | .error e => runnelFault n e d
      | .ok c =>
        let c := { c with
          wrG := c.wrG ++ o.writesG, wrP := c.wrP ++ o.writesP
          slots := c.slots ||| BitVec.ofNat 4 (2 ^ o.slot.bit) }
        let d := onRunnel n (fun r => { r with core := c, cost := max r.cost o.cycles }) { d with free := d.free + c.free }
        let d := onRunnel n (fun r => { r with core := { r.core with free := 0 } }) d
        if h.last then bundleEnd n d else d

/-- An operation that writes one general register. -/
def opReg (h : OpHdr) (slot : SlotPos) (cycles : Nat) (dst : BitVec 5) (f : Dev → Core → Word64) (s : State) :
    Host.Outcome State Fault Refusal :=
  run (runOp h { slot := slot, cycles := cycles, writesG := [dst.toNat] } fun d i c => .ok (c.setReg dst.toNat (f d i))) s

/-- An operation that writes one predicate. -/
def opPred (h : OpHdr) (slot : SlotPos) (cycles : Nat) (p : Nat) (f : Dev → Core → Bool) (s : State) :
    Host.Outcome State Fault Refusal :=
  run (runOp h { slot := slot, cycles := cycles, writesP := [p] } fun d i c => .ok (c.setPred p (f d i))) s

/-- An operation that changes control. -/
def opCtl (h : OpHdr) (cycles : Nat) (illegal : Bool) (f : Dev → Core → Except Nat Ctl) (s : State) :
    Host.Outcome State Fault Refusal :=
  run (runOp h { cycles := cycles, illegal := illegal } fun d i c => match f d i with
    | .error e => .error e
    | .ok t => .ok { c with ctl := t }) s

end Sys2Proof.Machine
end

