-- ==== Sys2Proof/Machine/Flags.lean ====
section
/-!
DEFINITION. What the runnel operations compute (R57): arithmetic, shifts, fields, counts, and the predicates, which are the
block's flags.
-/
namespace Sys2Proof.Machine

/-- The high 64 bits of an unsigned product. -/
def mulHigh (a b : Word64) : Word64 := BitVec.ofNat 64 (a.toNat * b.toNat / 2 ^ 64)

/-- Bits of a from a position, of a width, zero-extended; R57 states no bits beyond 63, so those are free (log entry 5). -/
def extract (a : Word64) (pos width : Nat) : Word64 :=
  BitVec.ofNat 64 ((a.toNat + 2 ^ 64 * (Config.beyondRegister a).toNat) / 2 ^ pos % 2 ^ width)

/-- The low bits of a put into d at a position and width; what would lie beyond bit 63 is dropped (log entry 5). -/
def insertField (d a : Word64) (pos width : Nat) : Word64 :=
  let field := BitVec.ofNat 64 ((2 ^ width - 1) * 2 ^ pos)
  (d &&& ~~~field) ||| (BitVec.ofNat 64 (a.toNat % 2 ^ width * 2 ^ pos) &&& field)

/-- Population count. -/
def popCount (a : Word64) : Word64 := BitVec.ofNat 64 ((List.range 64).filter fun i => a.getLsbD i).length

/-- Leading zeros; 64 for 0. -/
def leadZeros (a : Word64) : Word64 := BitVec.ofNat 64 (((List.range 64).find? fun i => a.getLsbD (63 - i)).getD 64)

/-- The predicate operation PLOG selects: AND, OR, ANDN. -/
def plogFn (sel : Nat) (a b : Bool) : Bool := match sel with
  | 0 => a && b
  | 1 => a || b
  | _ => a && !b

/-- Signed comparison. -/
def ltSigned (a b : Word64) : Bool := BitVec.slt a b

/-- Unsigned comparison. -/
def ltUnsigned (a b : Word64) : Bool := BitVec.ult a b

end Sys2Proof.Machine
end

