-- ==== Sys2Proof/Machine/Runnel.lean ====
section
/-!
DEFINITION. The runnel operations (R53-R67), the tick of the runnels with its launcher (R63-R65), the end of an XFER (R62),
and the warden (R47, R69-R75).
-/
namespace Sys2Proof.Machine

/-! ## ALU operations (R57) -/

/-- NOP. -/
def execNop (h : OpHdr) (s : State) : Host.Outcome State Fault Refusal := run (runOp h {} fun _ _ c => .ok c) s

/-- ADD. -/
def execAdd (h : OpHdr) (d a b : BitVec 5) (s : State) : Host.Outcome State Fault Refusal :=
  opReg h .alu 1 d (fun _ i => i.reg a.toNat + i.reg b.toNat) s
/-- SUB. -/
def execSub (h : OpHdr) (d a b : BitVec 5) (s : State) : Host.Outcome State Fault Refusal :=
  opReg h .alu 1 d (fun _ i => i.reg a.toNat - i.reg b.toNat) s
/-- AND. -/
def execAndOp (h : OpHdr) (d a b : BitVec 5) (s : State) : Host.Outcome State Fault Refusal :=
  opReg h .alu 1 d (fun _ i => i.reg a.toNat &&& i.reg b.toNat) s
/-- OR. -/
def execOrOp (h : OpHdr) (d a b : BitVec 5) (s : State) : Host.Outcome State Fault Refusal :=
  opReg h .alu 1 d (fun _ i => i.reg a.toNat ||| i.reg b.toNat) s
/-- XOR. -/
def execXorOp (h : OpHdr) (d a b : BitVec 5) (s : State) : Host.Outcome State Fault Refusal :=
  opReg h .alu 1 d (fun _ i => i.reg a.toNat ^^^ i.reg b.toNat) s
/-- ANDN: a AND NOT b. -/
def execAndn (h : OpHdr) (d a b : BitVec 5) (s : State) : Host.Outcome State Fault Refusal :=
  opReg h .alu 1 d (fun _ i => i.reg a.toNat &&& ~~~(i.reg b.toNat)) s
/-- SHL. -/
def execShl (h : OpHdr) (d a b : BitVec 5) (f : BitVec 7) (s : State) : Host.Outcome State Fault Refusal :=
  opReg h .alu 1 d (fun _ i => i.reg a.toNat <<< shiftAmount i b f) s
/-- SHR. -/
def execShr (h : OpHdr) (d a b : BitVec 5) (f : BitVec 7) (s : State) : Host.Outcome State Fault Refusal :=
  opReg h .alu 1 d (fun _ i => i.reg a.toNat >>> shiftAmount i b f) s
/-- SAR. -/
def execSar (h : OpHdr) (d a b : BitVec 5) (f : BitVec 7) (s : State) : Host.Outcome State Fault Refusal :=
  opReg h .alu 1 d (fun _ i => (i.reg a.toNat).sshiftRight (shiftAmount i b f)) s
/-- ADDI. -/
def execAddi (h : OpHdr) (d a : BitVec 5) (imm : BitVec 12) (s : State) : Host.Outcome State Fault Refusal :=
  opReg h .alu 1 d (fun _ i => i.reg a.toNat + imm12s imm) s
/-- LDI. -/
def execLdi (h : OpHdr) (d : BitVec 5) (imm : BitVec 17) (s : State) : Host.Outcome State Fault Refusal :=
  opReg h .alu 1 d (fun _ _ => imm.setWidth 64) s
/-- EXTR. -/
def execExtr (h : OpHdr) (d a : BitVec 5) (imm : BitVec 12) (s : State) : Host.Outcome State Fault Refusal :=
  opReg h .alu 1 d (fun _ i => extract (i.reg a.toNat) (fieldPos imm) (fieldWidth imm)) s
/-- INS. -/
def execIns (h : OpHdr) (d a : BitVec 5) (imm : BitVec 12) (s : State) : Host.Outcome State Fault Refusal :=
  opReg h .alu 1 d (fun _ i => insertField (i.reg d.toNat) (i.reg a.toNat) (fieldPos imm) (fieldWidth imm)) s
/-- MUL. -/
def execMul (h : OpHdr) (d a b : BitVec 5) (s : State) : Host.Outcome State Fault Refusal :=
  opReg h .alu 4 d (fun _ i => i.reg a.toNat * i.reg b.toNat) s
/-- MULH. -/
def execMulh (h : OpHdr) (d a b : BitVec 5) (s : State) : Host.Outcome State Fault Refusal :=
  opReg h .alu 4 d (fun _ i => mulHigh (i.reg a.toNat) (i.reg b.toNat)) s
/-- CMPEQ. -/
def execCmpeq (h : OpHdr) (a b : BitVec 5) (f : BitVec 7) (s : State) : Host.Outcome State Fault Refusal :=
  opPred h .alu 1 (f.toNat % 8) (fun _ i => decide (i.reg a.toNat = i.reg b.toNat)) s
/-- CMPNE. -/
def execCmpne (h : OpHdr) (a b : BitVec 5) (f : BitVec 7) (s : State) : Host.Outcome State Fault Refusal :=
  opPred h .alu 1 (f.toNat % 8) (fun _ i => decide (i.reg a.toNat ≠ i.reg b.toNat)) s
/-- CMPLTU. -/
def execCmpltu (h : OpHdr) (a b : BitVec 5) (f : BitVec 7) (s : State) : Host.Outcome State Fault Refusal :=
  opPred h .alu 1 (f.toNat % 8) (fun _ i => ltUnsigned (i.reg a.toNat) (i.reg b.toNat)) s
/-- CMPLTS. -/
def execCmplts (h : OpHdr) (a b : BitVec 5) (f : BitVec 7) (s : State) : Host.Outcome State Fault Refusal :=
  opPred h .alu 1 (f.toNat % 8) (fun _ i => ltSigned (i.reg a.toNat) (i.reg b.toNat)) s
/-- CMPEQI. -/
def execCmpeqi (h : OpHdr) (d a : BitVec 5) (imm : BitVec 12) (s : State) : Host.Outcome State Fault Refusal :=
  opPred h .alu 1 (d.toNat % 8) (fun _ i => decide (i.reg a.toNat = imm12s imm)) s
/-- PLOG; f[1:0] = 3 is an illegal bundle. -/
def execPlog (h : OpHdr) (d a b : BitVec 5) (f : BitVec 7) (s : State) : Host.Outcome State Fault Refusal :=
  run (runOp h { writesP := [d.toNat % 8], illegal := decide (f.toNat % 4 = 3) } fun _ i c =>
    .ok (c.setPred (d.toNat % 8) (plogFn (f.toNat % 4) (i.pred (a.toNat % 8)) (i.pred (b.toNat % 8))))) s
/-- SEL. -/
def execSel (h : OpHdr) (d a b : BitVec 5) (f : BitVec 7) (s : State) : Host.Outcome State Fault Refusal :=
  opReg h .alu 1 d (fun _ i => if i.pred (f.toNat % 8) then i.reg a.toNat else i.reg b.toNat) s
/-- POPC. -/
def execPopc (h : OpHdr) (d a : BitVec 5) (s : State) : Host.Outcome State Fault Refusal :=
  opReg h .alu 2 d (fun _ i => popCount (i.reg a.toNat)) s
/-- CLZ. -/
def execClz (h : OpHdr) (d a : BitVec 5) (s : State) : Host.Outcome State Fault Refusal :=
  opReg h .alu 2 d (fun _ i => leadZeros (i.reg a.toNat)) s
/-- BR. -/
def execBr (h : OpHdr) (target : BitVec 12) (s : State) : Host.Outcome State Fault Refusal :=
  opCtl h 2 false (fun _ _ => .ok (.branch target)) s
/-- CALL. -/
def execCall (h : OpHdr) (target : BitVec 12) (s : State) : Host.Outcome State Fault Refusal :=
  opCtl h 2 false (fun _ _ => .ok (.call target)) s
/-- CALLX: only to a declared routine entry. -/
def execCallx (h : OpHdr) (a : BitVec 5) (s : State) : Host.Outcome State Fault Refusal :=
  opCtl h 2 false (fun d i =>
    let t := (i.reg a.toNat).setWidth 12
    if t ∈ routinesOf d h.rn.val then .ok (.call t) else .error 5) s
/-- RET. -/
def execRet (h : OpHdr) (s : State) : Host.Outcome State Fault Refusal := opCtl h 2 false (fun _ _ => .ok .ret) s
/-- LOOP (R66); a count of 0 is an illegal bundle. -/
def execLoopOp (h : OpHdr) (count : BitVec 8) (target : BitVec 12) (s : State) : Host.Outcome State Fault Refusal :=
  opCtl h 1 (decide (count = 0)) (fun _ _ => .ok (.loop count.toNat target)) s
/-- TEXIT (R66). -/
def execTexit (h : OpHdr) (s : State) : Host.Outcome State Fault Refusal := opCtl h 1 false (fun _ _ => .ok .exit) s

/-! ## MEM operations (R54, R59, R65, R67) -/

/-- The effective address of a MEM operation: a + imm12, the immediate as it stands. -/
def memAddr (i : Core) (a : BitVec 5) (imm : BitVec 12) : Nat := (i.reg a.toNat + imm.setWidth 64).toNat

/-- Read `len` bytes for a load; the local status area's content is unstated, so each 8 bytes of it are a free value. -/
def loadBytes (d : Dev) (n : Nat) (i c : Core) (a len : Nat) : Except Nat (List (BitVec 8) × Core) :=
  if !readOk a len then .error 3
  else if 0x40000 ≤ a then
    .ok ((bytesLE 8 (Config.freeValue (d.free + c.free)).toNat ++ bytesLE 8 (Config.freeValue (d.free + c.free + 1)).toNat).take len,
      { c with free := c.free + 2 })
  else .ok (dataBytes d n i a len, c)

/-- A zero-extended load into one register. -/
def loadOp (h : OpHdr) (len : Nat) (dst a : BitVec 5) (imm : BitVec 12) (s : State) : Host.Outcome State Fault Refusal :=
  run (runOp h { slot := .mem, cycles := 3, writesG := [dst.toNat] } fun d i c =>
    match loadBytes d h.rn.val i c (memAddr i a imm) len with
    | .error e => .error e
    | .ok (bs, c) => .ok (c.setReg dst.toNat (BitVec.ofNat 64 (ofBytesLE bs)))) s

/-- Store bytes through the undo buffer. -/
def storeBytes (a : Nat) (bs : List (BitVec 8)) (c : Core) : OpResult :=
  if !writeOk a bs.length then .error 3
  else match undoSave a c with
    | none => .error 6
    | some c => .ok (putBytes a bs c)

/-- A store of the low bytes of one register. -/
def storeOp (h : OpHdr) (len : Nat) (src a : BitVec 5) (imm : BitVec 12) (s : State) : Host.Outcome State Fault Refusal :=
  run (runOp h { slot := .mem, cycles := 2 } fun _ i c =>
    storeBytes (memAddr i a imm) (bytesLE len (i.reg src.toNat).toNat) c) s

/-- LD8. -/
def execLd8 (h : OpHdr) (d a : BitVec 5) (imm : BitVec 12) (s : State) : Host.Outcome State Fault Refusal := loadOp h 1 d a imm s
/-- LD16. -/
def execLd16 (h : OpHdr) (d a : BitVec 5) (imm : BitVec 12) (s : State) : Host.Outcome State Fault Refusal := loadOp h 2 d a imm s
/-- LD32. -/
def execLd32 (h : OpHdr) (d a : BitVec 5) (imm : BitVec 12) (s : State) : Host.Outcome State Fault Refusal := loadOp h 4 d a imm s
/-- LD64. -/
def execLd64 (h : OpHdr) (d a : BitVec 5) (imm : BitVec 12) (s : State) : Host.Outcome State Fault Refusal := loadOp h 8 d a imm s
/-- ST8. -/
def execSt8 (h : OpHdr) (d a : BitVec 5) (imm : BitVec 12) (s : State) : Host.Outcome State Fault Refusal := storeOp h 1 d a imm s
/-- ST16. -/
def execSt16 (h : OpHdr) (d a : BitVec 5) (imm : BitVec 12) (s : State) : Host.Outcome State Fault Refusal := storeOp h 2 d a imm s
/-- ST32. -/
def execSt32 (h : OpHdr) (d a : BitVec 5) (imm : BitVec 12) (s : State) : Host.Outcome State Fault Refusal := storeOp h 4 d a imm s
/-- ST64. -/
def execSt64 (h : OpHdr) (d a : BitVec 5) (imm : BitVec 12) (s : State) : Host.Outcome State Fault Refusal := storeOp h 8 d a imm s

/-- LDP: 16 bytes into d and d + 1; an odd d is an illegal bundle. -/
def execLdp (h : OpHdr) (d a : BitVec 5) (imm : BitVec 12) (s : State) : Host.Outcome State Fault Refusal :=
  run (runOp h { slot := .mem, cycles := 4, writesG := [d.toNat, d.toNat + 1], illegal := d.getLsbD 0 } fun dv i c =>
    match loadBytes dv h.rn.val i c (memAddr i a imm) 16 with
    | .error e => .error e
    | .ok (bs, c) => .ok ((c.setReg d.toNat (BitVec.ofNat 64 (ofBytesLE (bs.take 8)))).setReg (d.toNat + 1)
        (BitVec.ofNat 64 (ofBytesLE (bs.drop 8))))) s

/-- STP: 16 bytes of d and d + 1. -/
def execStp (h : OpHdr) (d a : BitVec 5) (imm : BitVec 12) (s : State) : Host.Outcome State Fault Refusal :=
  run (runOp h { slot := .mem, cycles := 3, illegal := d.getLsbD 0 } fun _ i c =>
    storeBytes (memAddr i a imm) (bytesLE 8 (i.reg d.toNat).toNat ++ bytesLE 8 (i.reg (d.toNat + 1)).toNat) c) s

/-- SLOTPOP (R65): the next launcher event into d and d + 1. -/
def execSlotpop (h : OpHdr) (d : BitVec 5) (f : BitVec 7) (s : State) : Host.Outcome State Fault Refusal :=
  run (runOp h { slot := .mem, cycles := 3, writesG := [d.toNat, d.toNat + 1], writesP := [f.toNat % 8]
                 illegal := d.getLsbD 0 } fun _ i c =>
    match i.fifo with
    | [] => .ok (c.setPred (f.toNat % 8) false)
    | e :: rest => .ok ((({ c with fifo := rest }).setReg d.toNat e.w0).setReg (d.toNat + 1) e.w1 |>.setPred (f.toNat % 8) true)) s

/-- Posts already queued to a target in every outbox (R59). -/
def postsTo (d : Dev) (t : Nat) : Nat :=
  ((List.range 44).map fun n => ((runnelOf d n).core.outbox.filter fun p => p.target = t).length).sum

/-- Posts a target holds and that are on their way to it (R59): an inbox has 64 entries. -/
def postsHeld (d : Dev) (t : Nat) : Nat :=
  (if t = 63 then d.sch.basinPosts.length else (runnelOf d t).core.inbox.length + (runnelOf d t).arrived.length) + postsTo d t

/-- MPOST (R59): a post of a and a + 1 to target f[5:0]; reserved targets fault. -/
def execMpost (h : OpHdr) (d a : BitVec 5) (f : BitVec 7) (s : State) : Host.Outcome State Fault Refusal :=
  run (runOp h { slot := .mem, cycles := 4, writesP := [d.toNat % 8], illegal := a.getLsbD 0 } fun dv i c =>
    let t := f.toNat % 64
    if 44 ≤ t ∧ t ≠ 63 then .error 3
    else
      let full := decide (16 ≤ i.outbox.length) || decide (64 ≤ postsHeld dv t)
      if full then .ok (c.setPred (d.toNat % 8) false)
      else .ok (({ c with outbox := c.outbox ++ [({ target := t, lo := i.reg a.toNat, hi := i.reg (a.toNat + 1) } : Post)] }).setPred (d.toNat % 8) true)) s

/-- MPOP (R59): the inbox head into d and d + 1. -/
def execMpop (h : OpHdr) (d : BitVec 5) (f : BitVec 7) (s : State) : Host.Outcome State Fault Refusal :=
  run (runOp h { slot := .mem, cycles := 4, writesG := [d.toNat, d.toNat + 1], writesP := [f.toNat % 8]
                 illegal := d.getLsbD 0 } fun _ i c =>
    match i.inbox with
    | [] => .ok (c.setPred (f.toNat % 8) false)
    | p :: rest => .ok ((({ c with inbox := rest, popped := c.popped ++ [p] }).setReg d.toNat p.lo).setReg (d.toNat + 1) p.hi |>.setPred (f.toNat % 8) true)) s

/-- RDTK: SCH_SPOS, with GLB_TICK bits 63:32 above it. -/
def execRdtk (h : OpHdr) (d : BitVec 5) (s : State) : Host.Outcome State Fault Refusal :=
  opReg h .mem 1 d (fun dv _ => BitVec.ofNat 64 ((viewReg dv 0 0x300000).toNat + dv.glb.tick / 2 ^ 32 * 2 ^ 32)) s

/-- CNT: one more on local counter imm12[5:0]. -/
def execCnt (h : OpHdr) (imm : BitVec 12) (s : State) : Host.Outcome State Fault Refusal :=
  run (runOp h { slot := .mem } fun _ _ c => .ok { c with counts := c.counts ++ [imm.toNat % 64] }) s

/-! ## MEDIA operations (R59-R61) -/

/-- The channel that b[0] selects of runnel k's pair. -/
def chanSel (n : Nat) (i : Core) (b : BitVec 5) : Nat := 2 * n + (i.reg b.toNat).toNat % 2
/-- The die position in a[4:0]. -/
def dieSel (i : Core) (a : BitVec 5) : Nat := (i.reg a.toNat).toNat % 32

/-- The 32 bytes at a data address; none when they are not all mapped. -/
def operand32 (d : Dev) (n : Nat) (i : Core) (a : Nat) : Option (List (BitVec 8)) :=
  if a + 32 ≤ 0x40000 then some (dataBytes d n i a 32) else none

/-- MCMD (R59, R191): the template at data address d for die a. -/
def execMcmd (h : OpHdr) (d a b : BitVec 5) (s : State) : Host.Outcome State Fault Refusal :=
  run (runOp h { slot := .media, cycles := 2 } fun dv i c =>
    match operand32 dv h.rn.val i (i.reg d.toNat).toNat with
    | none => .error 3
    | some t => .ok { c with reqs := c.reqs ++ [.mcmd (chanSel h.rn.val i b) (dieSel i a) t] }) s

/-- MRB: whether die a was ready as last sampled. -/
def execMrb (h : OpHdr) (a b : BitVec 5) (f : BitVec 7) (s : State) : Host.Outcome State Fault Refusal :=
  run (runOp h { slot := .media, cycles := 2, writesP := [f.toNat % 8] } fun dv i c =>
    .ok (c.setPred (f.toNat % 8) (dieOf dv (chanSel h.rn.val i b * 32 + dieSel i a)).ready)) s

/-- MSTAT: the most recent status byte of die a. -/
def execMstat (h : OpHdr) (d a b : BitVec 5) (s : State) : Host.Outcome State Fault Refusal :=
  opReg h .media 3 d (fun dv i => (dieOf dv (chanSel h.rn.val i b * 32 + dieSel i a)).status.setWidth 64) s

/-- LEN64 of a descriptor (R62). -/
def descLen (t : List (BitVec 8)) : Nat := ofBytesLE ((t.drop 16).take 4) % 4096
/-- The control word of a descriptor. -/
def descCtl (t : List (BitVec 8)) : Nat := ofBytesLE ((t.drop 20).take 4)

/-- The channel transfer tag of a descriptor (R62). -/
def descTag (t : List (BitVec 8)) : Nat := ofBytesLE ((t.drop 24).take 2)
/-- The media-buffer region a descriptor names (R61): its source where that is a media buffer, else its destination. -/
def descMem (t : List (BitVec 8)) : Nat := if descCtl t % 4 = 2 then ofBytesLE (t.take 8) else ofBytesLE ((t.drop 8).take 8)

/-- A descriptor a MEDIA or XFER operation names: 32 bytes of the descriptor area whose LEN64 is not 0,
else a descriptor fault. The spec states neither the cause for an address outside that area nor an alignment (log entry 70). -/
def descAt (d : Dev) (n : Nat) (i : Core) (a : Nat) : Except Nat (List (BitVec 8)) :=
  if a < 0x10000 ∨ 0x18000 < a + 32 then .error 8
  else
    let t := dataBytes d n i a 32
    if descLen t = 0 then .error 8 else .ok t

/-- MDIN (R60): a data-in transfer to die a. -/
def execMdin (h : OpHdr) (d a b : BitVec 5) (s : State) : Host.Outcome State Fault Refusal :=
  run (runOp h { slot := .media, cycles := 2 } fun dv i c =>
    let x := (i.reg d.toNat).toNat
    match descAt dv h.rn.val i x with
    | .error e => .error e
    | .ok t => .ok { c with reqs := c.reqs ++ [.mdin (chanSel h.rn.val i b) (dieSel i a) x (descLen t * 64) (descMem t) (descTag t)] }) s

/-- MDOUT (R60): a data-out transfer, in the DEMAND pair when f[0] = 1. -/
def execMdout (h : OpHdr) (d a b : BitVec 5) (f : BitVec 7) (s : State) : Host.Outcome State Fault Refusal :=
  run (runOp h { slot := .media, cycles := 2 } fun dv i c =>
    let x := (i.reg d.toNat).toNat
    match descAt dv h.rn.val i x with
    | .error e => .error e
    | .ok t => .ok { c with reqs := c.reqs ++ [.mdout (chanSel h.rn.val i b) (dieSel i a) x (descLen t * 64) (descMem t) (descTag t) (f.getLsbD 0)] }) s

/-- MLOG (R61): entry f[3:0] of the channel's issue log. -/
def execMlog (h : OpHdr) (d b : BitVec 5) (f : BitVec 7) (s : State) : Host.Outcome State Fault Refusal :=
  opReg h .media 3 d (fun dv i => Config.logWord
    ((chanOf dv (chanSel h.rn.val i b)).log.map fun e => (e.tick % 2 ^ 20, e.die, e.refused)) (f.toNat % 16)) s

/-! ## XFER operations (R62) -/

/-- Whether a descriptor faults (R62). -/
def descBad (t : List (BitVec 8)) : Bool :=
  let w := descCtl t
  decide (w % 4 = 3 ∧ w / 4 % 4 = 3) || decide (w / 16 % 8 = 7)

/-- XMOV (R62): submits the descriptor at data address a; at most 16 are outstanding. Its STATUS becomes 0, pending. -/
def execXmov (h : OpHdr) (a : BitVec 5) (f : BitVec 7) (s : State) : Host.Outcome State Fault Refusal :=
  run (runOp h { slot := .xfer, cycles := 2, writesP := [f.toNat % 8] } fun dv i c =>
    let x := (i.reg a.toNat).toNat
    match descAt dv h.rn.val i x with
    | .error e => .error e
    | .ok t =>
      if descBad t then .error 8
      else if 16 ≤ i.xfers.length then .ok (c.setPred (f.toNat % 8) false)
      else match undoSaveAll (x + 28) 4 c with
        | none => .error 6
        | some c => .ok ((putBytes (x + 28) [0, 0, 0, 0] { c with reqs := c.reqs ++ [.xmov x t] }).setPred (f.toNat % 8) true)) s

/-- XPOLL: the STATUS word of the descriptor at data address a. -/
def execXpoll (h : OpHdr) (d a : BitVec 5) (s : State) : Host.Outcome State Fault Refusal :=
  run (runOp h { slot := .xfer, cycles := 2, writesG := [d.toNat] } fun dv i c =>
    let x := (i.reg a.toNat).toNat
    if x < 0x10000 ∨ 0x18000 < x + 32 then .error 8
    else .ok (c.setReg d.toNat (BitVec.ofNat 64 (ofBytesLE (dataBytes dv h.rn.val i (x + 28) 4))))) s

/-- Free bytes, eight for each value drawn. -/
def freeBytes (len : Nat) (d : Dev) : List (BitVec 8) × Dev :=
  ((List.range len).map fun i => BitVec.ofNat 8 ((Config.freeValue (d.free + i / 8)).toNat / 256 ^ (i % 8)),
    { d with free := d.free + ceilDiv len 8 })

/-- The source bytes of an XFER (R62). Space 0 is data SRAM; 1 the near tier, whose addresses are those of main space (log entry 75):
what an XFER wrote there, else the byte the layouts give, else a free value; 2
the media buffers of the pair, 512 KiB each; what space 3 gives of the mirror link the spec does not state. -/
def xferSource (rn t : Nat) (src len : Nat) (d : Dev) : List (BitVec 8) × Dev :=
  if t = 0 then (dataBytes d rn (runnelOf d rn).core src len, d)
  else if t = 1 then
    let r := freeBytes len d
    ((List.zip (List.range len) r.1).map fun (e : Nat × BitVec 8) => (d.ntr.raw.get none (src + e.1)).getD ((mainByte d (src + e.1)).getD e.2), r.2)
  else if t = 2 then
    ((List.range len).map fun i => (chanOf d (2 * rn + (src + i) / 2 ^ 19 % 2)).buf.get 0 ((src + i) % 2 ^ 19), d)
  else freeBytes len d

/-- Write bytes of a runnel's data SRAM from outside its bundles: in a running tick through the undo buffer (R67), whose exhaustion
is a runnel fault. -/
def engineWrite (rn a : Nat) (bs : List (BitVec 8)) (d : Dev) : Dev :=
  let r := runnelOf d rn
  if r.st = .running then
    (match undoSaveAll a bs.length r.core with
    | none => runnelFault rn 6 d
    | some c => onRunnel rn (fun r => { r with core := putBytes a bs c }) d)
  else onRunnel rn (fun r => { r with core := putBytes a bs r.core }) d

/-- Put the bytes of an XFER at its destination; those for the mirror link leave the device. -/
def xferDest (rn t dst : Nat) (bs : List (BitVec 8)) (d : Dev) : Dev :=
  let es := List.zip (List.range bs.length) bs
  if t = 0 then (if 0x10000 ≤ dst ∧ dst + bs.length ≤ 0x40000 then engineWrite rn dst bs d else d)
  else if t = 1 then
    onNtr (fun n => { n with raw := es.foldl (fun (m : SMap (Option (BitVec 8))) e => m.insert (dst + e.1) (some e.2)) n.raw }) d
  else if t = 2 then
    es.foldl (fun d e =>
      onChan (2 * rn + (dst + e.1) / 2 ^ 19 % 2) (fun c => { c with buf := c.buf.put 0 ((dst + e.1) % 2 ^ 19) e.2 }) d) d
  else d

/-- Whether an XFER has started (R62): with CHAIN = 1 only once the channel transfer with its tag is complete. -/
def xferStarted (d : Dev) (rn : Nat) (t : List (BitVec 8)) : Bool :=
  decide (descCtl t / 512 % 2 = 0)
    || !((List.range 2).any fun b => (chanOf d (2 * rn + b)).queue.any fun q => decide (q.rn = rn) && decide (q.ctag = descTag t))

/-- Move the data of an XFER (R62). Under an SLU_OP the bytes are what the Sluice makes of them for a leaf and counters that the
descriptor does not name: free values. -/
def xferMove (rn : Nat) (t : List (BitVec 8)) (d : Dev) : Dev :=
  let w := descCtl t
  let len := descLen t * 64
  let r := xferSource rn (w % 4) (ofBytesLE (t.take 8)) len d
  let r := if w / 16 % 8 = 0 then r else freeBytes len r.2
  xferDest rn (w / 4 % 4) (ofBytesLE ((t.drop 8).take 8)) r.1 r.2

/-- Take an XFER off the list of outstanding ones, with its STATUS (R62). -/
def xferOff (rn desc status : Nat) (d : Dev) : Dev :=
  engineWrite rn (desc + 28) [BitVec.ofNat 8 status, 0, 0, 0]
    (onRunnel rn (fun r => { r with core := { r.core with xfers := r.core.xfers.filter fun x => x.desc ≠ desc } }) d)

/-- A submitted XFER that has started ends (R62): its data has moved when done, and STATUS is written. -/
def xferComplete (rn desc status htag : Nat) (leaf : Option Nat) (md : Option SectorId) (d : Dev) : Dev :=
  match (runnelOf d rn).core.xfers.find? fun x => x.desc = desc with
  | none => d
  | some x =>
    if status = 0 ∨ 4 < status ∨ !xferStarted d rn x.tmpl then d
    else xferBrings rn status htag leaf md (xferOff rn desc status (if status = 1 then xferMove rn x.tmpl d else d))

/-- XFER_COMPLETE (R62, R188, R222, R247). -/
def execXferComplete (rn : Fin 44) (desc : BitVec 18) (status : BitVec 3) (htag : Tag) (x : XferLeaf) (s : State) :
    Host.Outcome State Fault Refusal :=
  run (xferComplete rn.val desc.toNat status.toNat htag.toNat (x.leaf.map BitVec.toNat) x.md) s

/-! ## The launcher (R63-R65, R226) -/

/-- The image's section of a runnel. -/
def sectOf (d : Dev) (n : Nat) : RunnelSect := ((img d).runnels[n]?).getD {}

/-- A demand-issue event (R65). -/
def launchDemand (d : Dev) (w : Window) (n : Nat) : Launch :=
  { w0 := BitVec.ofNat 64 (w.paddr % 2 ^ 48 + (if w.homeB then 2 ^ 48 else 0) + (if w.mapRead then 2 ^ 49 else 0) + w.agecls * 2 ^ 50)
    w1 := BitVec.ofNat 64 (2 * 2 ^ 60 + w.ch % 2 * 2 ^ 59 + w.n * 2 ^ 38 + (sectOf d n).demand.toNat) }

/-- A slot start or slot end event (R65). -/
def launchSlot (d : Dev) (e : SlotEntry) (isEnd : Bool) (n : Nat) : Launch :=
  { w0 := BitVec.ofNat 64 (slotWord e)
    w1 := BitVec.ofNat 64 ((if isEnd then 2 ^ 60 else 0) + (if e.kind.toNat = 0x0A then 0 else e.die.toNat / 32 % 2) * 2 ^ 59
      + (if isEnd then (sectOf d n).slotEnd.toNat else e.arg.toNat)) }

/-- Push an event into a runnel's FIFO of 32. -/
def pushEvent (n : Nat) (e : Launch) (d : Dev) : Dev :=
  onRunnel n (fun r => { r with core := { r.core with fifo := (r.core.fifo ++ [e]).take 32 } }) d

/-- Whether a runnel takes launcher events in this tick: a held one's are dropped and their slots missed (R71). -/
def takesEvents (d : Dev) (n : Nat) : Bool := (runnelOf d n).st == .running

/-- A window whose line has become valid is released, and its request goes on (R17, R40). -/
def windowDrops (h : Nat) (d : Dev) : Dev :=
  let t := getT d h
  if t.phase ≠ .queued ∧ lineValid d (txnLine t) then
    let d := releaseWindows h d
    if t.phase = .acted then progress h d else d
  else d

/-- A claimed window whose leaf has become whole in this twin's leaf cache: the leaf is sent as held here, with no read (R17). -/
def claimDrops (w : Window) (d : Dev) : Dev :=
  sendLeaf w.leaf 0 (onSch (fun s => { s with windows := s.windows.filter fun y => y ≠ w }) d)

/-- Whether the map page that a second window's leaf read needs is still being read. -/
def pageLate (d : Dev) (w : Window) : Bool :=
  w.second && d.sch.windows.any fun v => v.own && v.mapRead && !v.second && decide (v.leaf = w.leaf) && v.claimed == w.claimed
    && (w.claimed || decide (v.htag = w.htag))

/-- A second window whose issue tick comes before its map page is ready is given up (R248): the leaf read is bound again when the page
is there, for a claimed window by the home. -/
def lateWindow (w : Window) (d : Dev) : Dev :=
  if w.claimed then readMissed w 3 d else onSch (fun s => { s with windows := s.windows.filter fun y => y ≠ w }) d

/-- One demand issue (R64). An address that no map may hold is found here and fails the read (R213). A die still busy misses its window (R48): the event stands, its read is not issued. So does a window of
a runnel under substitution (R71). -/
def launchWindow (w : Window) (d : Dev) : Dev :=
  let n := w.ch / 2
  if !takesEvents d n then readMissed w 3 d
  else if !w.mapRead && badPaddr w.paddr then readFails w.htag w.own (mapInconsistent w.die d)
  else
    let d := pushEvent n (launchDemand d w n) d
    if (dieOf d w.die).op ≠ .none then readMissed w 2 (timingViolation w.die 0x1F d)
    else onSch (fun s => { s with windows := s.windows.map fun x => if x = w then { w with issued := true } else x }) d

/-- The duty level in effect at an entry's START, for an entry whose slot holds this tick (R28, R44). -/
def levelAtStart (d : Dev) (e : SlotEntry) : Nat :=
  let at_ := spos d % phaseCycle d
  let past := (at_ + phaseCycle d - e.start.toNat % phaseCycle d) % phaseCycle d
  if past ≤ sfTick d then dutyLevel d else d.sch.lastLevel

/-- One slot end (R48, R64): a die still busy at the last tick of a slot that exists at its level makes its next slot missed. -/
def launchEnd (e : SlotEntry) (d : Dev) : Dev :=
  let n := slotOwner e
  let x := e.die.toNat
  let held := decide (e.kind.toNat ≠ 0x0A) && decide (levelAtStart d e ≤ e.lmax.toNat)
  let late := held && decide ((dieOf d x).op ≠ .none)
  let d := if held && (dieOf d x).missNow then onDie x (fun y => { y with missNow := false }) d else d
  let d := if late then onDie x (fun y => { y with missNext := true }) (timingViolation x e.kind.toNat d) else d
  if takesEvents d n then pushEvent n (launchSlot d e true n) d else d

/-- Whether a slot finds no open stripe of the kind it needs (R226). -/
def noStripe (d : Dev) (e : SlotEntry) : Bool :=
  let x := e.die.toNat
  let some_ (p : Stripe → Bool) : Bool := !(stripesIn d x p).isEmpty
  decide ((dieOf d x).stripes ≠ []) && (match e.kind.toNat with
    | 1 => !some_ fun s => decide (s.st = 2)
    | 2 => !some_ fun s => decide (s.st = 3) && decide (s.use = 0)
    | 4 => (dieOf d x).erase.isNone && !some_ fun s => decide (s.st = 0)
    | _ => false)

/-- One slot start (R48, R64, R226). The event of a missed slot stands too; its commands are not issued while the slot lasts. -/
def launchStart (e : SlotEntry) (d : Dev) : Dev :=
  let n := slotOwner e
  let x := e.die.toNat
  let d :=
    if e.kind.toNat ≠ 0x0A ∧ (dieOf d x).missNext then
      timingViolation x e.kind.toNat (onDie x (fun y => { y with missNext := false, missNow := true }) d)
    else if noStripe d e then onDie x (fun y => { y with missNow := true }) (raiseN 327 x (setB F.XLT_ERR_NO_FREE true d))
    else d
  if takesEvents d n then pushEvent n (launchSlot d e false n) d else d

/-- The events of this tick, in the order of R64. -/
def launchAll (d : Dev) : Dev :=
  let at_ := spos d % phaseCycle d
  let late := d.sch.windows.filter fun w => w.own && !w.issued && decide (w.issue = d.glb.tick) && pageLate d w
  let d := late.foldl (fun d w => lateWindow w d) d
  let unres := (d.sch.windows.filter fun w => w.own && !w.claimed && decide (w.issue = d.glb.tick) && !w.mapRead
    && decide (w.paddr = 0)).map fun w => w.htag
  let d := unres.foldl (fun d h => windowResolution h d) d
  let mine := (d.sch.windows.filter fun w => w.own && !w.claimed && !w.issued && decide (w.issue = d.glb.tick)).map fun w => w.htag
  let d := mine.foldl (fun d h => windowDrops h d) d
  let whole := d.sch.windows.filter fun w => w.claimed && !w.issued && !w.mapRead && decide (w.issue = d.glb.tick) && leafWhole d w.leaf
  let d := whole.foldl (fun d w => claimDrops w d) d
  let ws := sortKey (fun w => w.die) (d.sch.windows.filter fun w => w.own && !w.issued && decide (w.issue = d.glb.tick))
  let d := ws.foldl (fun d w => launchWindow w d) d
  let ends := sortKey (fun e => e.die.toNat) ((img d).slots.filter fun e =>
    decide ((e.start.toNat + e.length.toNat - 1) % phaseCycle d = at_))
  let d := ends.foldl (fun d e => launchEnd e d) d
  let starts := sortKey (fun e => e.die.toNat) ((img d).slots.filter fun e =>
    decide (e.start.toNat % phaseCycle d = at_) && decide (dutyLevel d ≤ e.lmax.toNat))
  starts.foldl (fun d e => launchStart e d) d

/-- A runnel begins its tick (R63): at its restart or cold routine after a substitution, else its recovery or epoch entry. Posts that
arrived in the tick before can be popped now (R59). Launcher events that the last tick left unpopped stay ahead of this tick's: the
spec does not say what becomes of them (log entry 71). -/
def startRunnel (n : Nat) (d : Dev) : Dev :=
  let s := sectOf d n
  let entry := if getF d F.SCH_SPOS_EPOCH_PROG = 1 then s.epoch else s.recovery
  onRunnel n (fun r => match r.st with
    | .offline => r
    | .held => r
    | .faulted c => { r with st := .faulted c }
    | _ =>
      let c := { r.core with
        undo := [], outbox := [], reqs := [], counts := [], wrG := [], wrP := [], slots := 0, ctl := .none
        inbox := r.core.inbox ++ r.arrived, popped := [] }
      { r with st := .running, pc := r.restart.getD entry, cyc := 0, cost := 0, core := c, issue := c, arrived := [] }) d

/-- A correctable error in a runnel's SRAM is corrected and counted (R55): event 37. -/
def sramCorrected (n : Nat) (d : Dev) : Dev := raiseFree 37 (count (0x3000 + 66 * n + 1) d)

/-- RUNNEL_TICK: cycle 0 of a tick (R63, R64, R236, R245), with what the map, planner, calibration and scrub runnels carry out. -/
def runnelTick (cal : List CalSample) (scrub : List ScrubRead) (corrected : List (Fin 44)) (d : Dev) : Dev :=
  let d := { d with med := { d.med with dies := d.med.dies.map fun e => (e.1, { e.2 with ready := decide (e.2.op = .none) }) } }
  let d := erasesAround d
  let d := (List.range 44).foldl (fun d n => startRunnel n d) (onSch (fun s => { s with basinPosts := [] }) d)
  let d := corrected.foldl (fun d n => sramCorrected n.val d) d
  if getF d F.SCH_SPOS_EPOCH_PROG ≠ 1 then runChanges d
  else
    let d := launchAll d
    let d := sweepCheck (cal.foldl (fun d c => calibrate c d) d)
    let d := scrub.foldl (fun d e => scrubbed e d) d
    resilverTick (planTick d)

/-- RUNNEL_TICK (R63). -/
def execRunnelTick (cal : List CalSample) (scrub : List ScrubRead) (corrected : List (Fin 44)) (s : State) :
    Host.Outcome State Fault Refusal := run (runnelTick cal scrub corrected) s

/-! ## The warden (R47, R69-R75) -/

/-- The physical engines without a logical runnel that are not retired, ascending (R51). -/
def spareEngines (d : Dev) : List Nat :=
  (List.range 48).filter fun e => decide (e ∉ d.grt.engines)
    && !((List.range 44).any fun n => decide (getF d (F.SCH_MAP_PHYS n) = e))
    && !(d.sch.substs.any fun s => decide (s.spare = e))

/-- Raise an event that coincides with entry to Withdrawn (R76): its EVT_PEND bit and its Ledger record, and no routing. -/
def raiseUnrouted (n : Nat) (arg : Word) (d : Dev) : Dev := (ledFlood true { evnum := n, kind := 1, arg := arg } (pendEvent n d)).1

/-- Begin a substitution (R70, R73): a spare is taken from the pool in the tick of the fault, and with the last one event 34 is
raised; with none left event 35, and Withdrawn. The warden begins none once its checkers have disagreed (R74). -/
def beginSubst (n : Nat) (d : Dev) : Dev :=
  if !flag d F.SCH_WARDEN_LOCKSTEP_OK ∨ d.glb.base = .withdrawn then d
  else match spareEngines d with
  | [] =>
    let v := drawFree d
    withdraw false (raiseUnrouted 35 (v.1.truncate 32) v.2)
  | sp :: rest =>
    let s : Subst := { logical := n, phys := getF d (F.SCH_MAP_PHYS n), spare := sp, tick := d.glb.tick }
    let d := onSch (fun x => { x with substs := x.substs ++ [s] }) d
    let d := setF F.SCH_SPARE_FREE rest.length (setB F.SCH_WARDEN_SUBST_BUSY true d)
    if rest = [] then raiseFree 34 d else d

/-- The windows of this tick whose read command a runnel has not issued (R47): the die's array does not read since this tick. -/
def unissued (d : Dev) (n : Nat) : List Window :=
  d.sch.windows.filter fun w => w.own && w.issued && decide (w.ch / 2 = n) && decide (w.issue = d.glb.tick)
    && !(decide ((dieOf d w.die).op = .read) && decide ((dieOf d w.die).busySince = d.glb.tick))

/-- Drop what a faulted runnel had not done (R71): the tick leaves no trace inside the runnel, and the posts it popped are back;
XFERs that have not started end with STATUS 4. -/
def dropTick (n : Nat) (d : Dev) : Dev :=
  let lost := unissued d n
  let idle := ((runnelOf d n).core.xfers.filter fun x => !xferStarted d n x.tmpl).map fun x => x.desc
  let d := onRunnel n (fun r => { r with
    st := .held, cost := 0, cyc := 2000
    core := { undoAll r.core with
      g := r.shadowG, p := r.shadowP, ret := [], loops := [], fifo := [], outbox := [], reqs := [], counts := [], wrG := [],
      wrP := [], slots := 0, ctl := .none, inbox := r.core.popped ++ r.core.inbox, popped := [] } }) d
  let d := idle.foldl (fun d x => xferOff n x 4 d) d
  lost.foldl (fun d w => readMissed w 3 d) d

/-- An engine fault (R47, R69, R70, R73): recorded and reported; every reservation is cleared (R154); a repeat at the position and
level of a record still kept is a schedule fault; else a spare is taken. -/
def engineFault (n cause : Nat) (d : Dev) : Dev :=
  let phys := getF d (F.SCH_MAP_PHYS n)
  let pos := spos d % phaseCycle d
  let repeat_ := d.sch.records.any fun r => decide (r.pos = pos) && decide (r.level = dutyLevel d)
    && decide (d.glb.tick < r.tick + 2 ^ 20)
  let d := setF (F.SCH_CYC_LAST n) 2000 (setF (F.SCH_CYC_MAX n) 2000 d)
  let d := setF F.SCH_FLT_SPOS_SPOS (spos d) (setF F.SCH_FLT_SPOS_LEVEL (dutyLevel d) (setB F.SCH_FLT_SPOS_REPEAT repeat_ d))
  let d := setF F.SCH_FLT_INFO_LOGICAL n (setF F.SCH_FLT_INFO_PHYS phys (setF F.SCH_FLT_INFO_CAUSE cause d))
  let d := setB F.SCH_FLT_INFO_COLD false (setB F.SCH_FLT_INFO_VALID true d)
  let d := onSch (fun s => { s with records := s.records ++ [⟨pos, dutyLevel d, d.glb.tick⟩] }) d
  let d := raiseFree 36 (raiseFree (48 + phys) (clearAllResv (dropTick n d)))
  if repeat_ then
    withdraw false (raiseBy true 41 (BitVec.ofNat 32 (spos d + dutyLevel d * 2 ^ 20)) d)
  else beginSubst n d

/-- The cause of a missing or wrong beat: what the runnel fault recorded; an uncorrectable SRAM error or a beat mismatch found
outside; an illegal bundle that the instruction SRAM holds where a running runnel stands (R58), or a MEDIA operation there in a
service runnel; else the overrun. -/
def beatCause (n : Nat) (r : Runnel) (found : Nat) : Nat :=
  match r.st with
  | .faulted c => c.toNat
  | _ =>
    if found = 4 ∨ found = 7 then found
    else if r.st ≠ .running then 0
    else if !bundleLegal (r.instr.get 0 r.pc.toNat) then 1
    else if 32 ≤ n ∧ holdsMedia (r.instr.get 0 r.pc.toNat) then 2
    else 0

/-- Whether a logical runnel failed to give a right beat in this tick. -/
def beatMissing (r : Runnel) (found : Nat) : Bool :=
  match r.st with
  | .faulted _ => true
  | .running => true
  | .idle => decide (found = 7)
  | _ => false

/-- ENGINE_FAULT (R47, R69, R70): `found` 7 says the beat's SPOS differed, 4 that a read found a double-bit error. -/
def execEngineFault (rn : Fin 44) (found : BitVec 4) (s : State) : Host.Outcome State Fault Refusal :=
  run (fun d =>
    let r := runnelOf d rn.val
    if beatMissing r found.toNat ∧ d.glb.base ≠ .withdrawn then engineFault rn.val (beatCause rn.val r found.toNat) d else d) s

/-- The bits of a list of engines. -/
def engineBits (es : List Nat) : Nat := es.foldl (fun a e => a ||| 2 ^ e) 0

/-- Show the retired engines. -/
def showRetired (d : Dev) : Dev :=
  let v := engineBits d.grt.engines
  setF F.SCH_RETIRED_LO_ENG v (setF F.SCH_RETIRED_HI_ENG (v / 2 ^ 32) d)

/-- What was in flight for a channel runnel that restarts cold is treated as missed (R72): its windows whose read is under way, its
queued transfers and submitted XFERs; what runs on its dies' arrays no longer counts as work. -/
def coldMissed (n : Nat) (d : Dev) : Dev :=
  if 32 ≤ n then onRunnel n (fun r => { r with core := { r.core with xfers := [] } }) d
  else
    let lost := d.sch.windows.filter fun w => w.own && w.issued && decide (w.ch / 2 = n)
    let d := onRunnel n (fun r => { r with core := { r.core with xfers := [] } }) d
    let d := (List.range 2).foldl (fun d b => onChan (2 * n + b) (fun c => { c with queue := [] }) d) d
    let d := { d with med := { d.med with dies := d.med.dies.map fun (e : Nat × Die) =>
      if e.1 / 64 = n then (e.1, { e.2 with work := if e.2.work = [] then [] else [.other], split := false }) else e } }
    lost.foldl (fun d w => readMissed w 3 d) d

/-- The spare takes a role (R70-R73): at T+3 the engine is retired and the map updated, event 33; the copy's failure gives the
role's initial data and its cold routine, event 38. The Grotto's record of the retired set has no stated layout. -/
def spareSubstituted (dataLost : Bool) (d : Dev) : Dev :=
  match d.sch.substs.find? (fun s => !s.done) with
  | none => d
  | some s =>
    if d.glb.tick < s.tick + 3 ∨ d.glb.base = .withdrawn then d
    else
      let n := s.logical
      let sect := sectOf d n
      let d := onGrt (fun g => { g with engines := insertNew s.phys g.engines }) d
      let f := drawFree d
      let d := grtSubmit { addr := 0x80800, bytes := bytesLE 8 f.1.toNat } f.2
      let d := count 0xF000 (raiseFree 33 (showRetired (setF (F.SCH_MAP_PHYS n) s.spare d)))
      let d := onSch (fun x => { x with substs := x.substs.map fun y => if y = s then { y with done := true } else y }) d
      let d := onRunnel n (fun r => { r with
        restart := some (if dataLost then sect.cold else sect.restart)
        instr := bundlesOf sect
        core := if dataLost then { r.core with data := sect.data.foldl (fun m e => m.put 0 e.1 e.2) [] } else r.core }) d
      if !dataLost then d
      else
        let shown := flag d F.SCH_FLT_INFO_VALID && decide (getF d F.SCH_FLT_INFO_LOGICAL = n)
        coldMissed n (raiseFree 38 (if shown then setB F.SCH_FLT_INFO_COLD true d else d))

/-- At tick T+4 the spare runs (R70): SUBST_BUSY covers ticks T to T+3. -/
def substTick (d : Dev) : Dev :=
  let ended (s : Subst) : Bool := s.done && decide (s.tick + 4 ≤ d.glb.tick)
  if !d.sch.substs.any ended then d
  else
    let d' := (d.sch.substs.filter ended).foldl (fun (d : Dev) s => onRunnel s.logical (fun r => { r with st := .idle }) d) d
    let d' := onSch (fun x => { x with substs := x.substs.filter fun s => !ended s }) d'
    setB F.SCH_WARDEN_SUBST_BUSY (!d'.sch.substs.isEmpty) d'

/-- SPARE_SUBSTITUTED (R70-R73). -/
def execSpareSubstituted (dataLost : Bool) (s : State) : Host.Outcome State Fault Refusal := run (spareSubstituted dataLost) s

/-- Fault records are kept for 1,048,576 tk (R47). -/
def recordsExpire (d : Dev) : Dev :=
  onSch (fun s => { s with records := s.records.filter fun r => d.glb.tick < r.tick + 2 ^ 20 }) d

/-- WARDEN_RECORD_EXPIRE (R47). -/
def execWardenRecordExpire (s : State) : Host.Outcome State Fault Refusal := runQ recordsExpire s

/-- The warden's checkers disagree (R74, R76, R420): a Ledger record of event 46 with SCH_SPOS, SCH_WARDEN and SCH_FLT_INFO, and
nothing else of the event; Withdrawn; no substitution goes on. -/
def wardenDisagrees (d : Dev) : Dev :=
  let d := setB F.SCH_WARDEN_LOCKSTEP_OK false (setB F.SCH_WARDEN_SUBST_BUSY false d)
  let d := onSch (fun s => { s with substs := [] }) d
  let v := drawFree (clearAllResv d)
  let detail := [0x300000, 0x300020, 0x30001C].flatMap fun a => bytesLE 4 (viewReg v.2 0 a).toNat
  withdraw true (ledFlood true { evnum := 46, kind := 3, arg := v.1.truncate 32, detail := detail } v.2).1

/-- WARDEN_DISAGREEMENT (R74). -/
def execWardenDisagreement (s : State) : Host.Outcome State Fault Refusal := run wardenDisagrees s

/-- Writing CLR sets every SCH_CYC_n.MAX to 0 (R75). -/
def schCycClear (d : Dev) : Dev := (List.range 44).foldl (fun d n => setF (F.SCH_CYC_MAX n) 0 d) d

/-- SCH_CYC_CLR (R75). -/
def execSchCycClr (p : SPort) (s : State) : Host.Outcome State Fault Refusal := runQ (viaPort p.val schCycClear) s

end Sys2Proof.Machine
end

