-- ==== Sys2Proof/Machine/Power.lean ====
section
/-!
DEFINITION. Rails and hold-up (R347-R368): qualification, supervision and faults of the rails, the rail log, input loss,
the hold-up bank and the dirty cap, Spillway with its pause, and OFF.
-/
namespace Sys2Proof.Machine

/-! ## Readings -/

/-- A rail's reading in mV. -/
def railMv (d : Dev) (r : Nat) : Nat := getF d (F.PWR_RAIL_STS_MV r)
/-- A rail's state. -/
def railState (d : Dev) (r : Nat) : Nat := getF d (F.PWR_RAIL_STS_STATE r)
/-- A rail reads below 10 % of its nominal voltage (R352). -/
def discharged (d : Dev) (r : Nat) : Bool := decide (railMv d r * 10 < railNominal.getD r 0)
/-- A rail reads inside its fault window (R348). -/
def insideFault (d : Dev) (r : Nat) : Bool :=
  decide (getF d (F.PWR_RAIL_FAULT_LO r) ≤ railMv d r) && decide (railMv d r ≤ getF d (F.PWR_RAIL_FAULT_HI r))

/-- Which of warning low, warning high, fault low and fault high a reading lies beyond. -/
def beyondNow (d : Dev) (r : Nat) : BitVec 4 :=
  let v := railMv d r
  BitVec.ofNat 4 ((if v < getF d (F.PWR_RAIL_WARN_LO r) then 1 else 0) + (if getF d (F.PWR_RAIL_WARN_HI r) < v then 2 else 0)
    + (if v < getF d (F.PWR_RAIL_FAULT_LO r) then 4 else 0) + (if getF d (F.PWR_RAIL_FAULT_HI r) < v then 8 else 0))

/-! ## The rail log (R355) -/

/-- The used bytes of a rail log entry. -/
def railLogBytes (cause rail : Nat) (d : Dev) : List (BitVec 8) :=
  bytesLE 8 d.glb.tick ++ [BitVec.ofNat 8 cause, BitVec.ofNat 8 rail, BitVec.ofNat 8 (stateByte d), 0, 0, 0, 0, 0]
    ++ ((List.range 16).flatMap fun r => bytesLE 2 (railMv d r))
    ++ bytesLE 2 (getF d F.PWR_VIN_NOW) ++ bytesLE 2 (getF d F.PWR_HU_V_NOW / 10)
    ++ (List.range 16).map fun r => BitVec.ofNat 8 (railState d r)

/-- Write a rail log entry: a page of the ring of 64, the oldest overwritten first. -/
def railLog (cause rail : Nat) (d : Dev) : Dev :=
  let bs := railLogBytes cause rail d
  let d := grtSubmit { addr := 0x100000 + d.grt.logNext % 64 * 256, bytes := bs ++ List.replicate (256 - bs.length) 0 } d
  onGrt (fun g => { g with logNext := (g.logNext + 1) % 64 }) d

/-- Ring writes that have not started when the input fails are abandoned: event 443 with the entry's rail. -/
def abandonLog (d : Dev) : Dev :=
  let isLog (w : GWrite) : Bool := w.ctr.isNone && decide (w.addr / 0x10000 = 16)
  let lost := d.grt.wait.filter isLog
  let d := onGrt (fun g => { g with wait := g.wait.filter fun w => !isLog w }) d
  lost.foldl (fun d w => raiseN 443 (w.bytes.getD 9 0).toNat (setB F.PWR_ERR_LOG_ABANDON true d)) d

/-- Raise an event that reaches the Ledger only (R368: event 437). -/
def raiseLedger (n arg : Nat) (d : Dev) : Dev :=
  let d := pendEvent n d
  let snap := eventBit d 0xE00400 n
  let (d, _, dropped) := ledFlood false { evnum := n, kind := if snap then 2 else 1, arg := BitVec.ofNat 32 arg, detail := if snap then snapshot d else [] } d
  if dropped then raiseOnce 485 485 (getF d F.OBS_LED_DROP_COUNT % 65536) d else d

/-! ## Bringing rails up (R348, R352) -/

/-- Enable a rail once it is discharged; one that still reads above 10 % waits for that first (R352). -/
def enableRail (r : Nat) (d : Dev) : Dev :=
  if discharged d r then
    let first := decide (getF d (F.PWR_RAIL_STS_TRIES r) = 0) && (decide (d.glb.base = .sequencing) || decide (d.glb.base = .recovering))
    setF (F.PWR_RAIL_STS_STATE r) (if first then 1 else 5) (onRail r (fun x => { x with
      en := true, since := d.glb.tick, goodSince := none, retry := false, beyond := 0, crossed := 0, due := [] }) d)
  else setF (F.PWR_RAIL_STS_STATE r) 6 (onRail r (fun x => { x with en := false, since := d.glb.tick, retry := true }) d)

/-- Step 1 ends: GLB_TICK becomes 0 and step 2 begins (R334, R335). -/
def step1End (d : Dev) : Dev :=
  let d := onPwr (fun p => { p with pfHighSince := 0, vinGoodSince := 0 }) d
  beginStep2 (onGlb (fun g => { g with tick := 0, startTick := 0 }) d)

/-- The rails a start brings up: the boot rails in step 1, the others in step 6, in up order. -/
def startRails (d : Dev) : List Nat :=
  match d.glb.base with
  | .sequencing => upOrder.take 6
  | .recovering => upOrder.drop 6
  | _ => []

/-- The next rail of a start, once the one before it has qualified; after the boot rails step 1 ends, a device that
tripped reading its sensors first (R389). -/
def bringUp (d : Dev) : Dev :=
  let rs := startRails d
  if rs.any fun r => (railOf d r).failed then d
  else match rs.find? fun r => decide (railState d r ≠ 2 ∧ railState d r ≠ 3) with
    | some r => if railState d r = 0 then enableRail r d else d
    | none => if d.glb.base = .sequencing ∧ !d.thm.tripped then step1End d else d

/-- SYS_RESET (R351): HB and pulses stop in the same tick; Degraded flushes; the rails go down, and a cold start follows. -/
def sysReset (d : Dev) : Dev :=
  match d.glb.base with
  | .off | .shutdown => d
  | .withdrawn => railsDown upOrder d
  | _ => shutdownAs (serves d && alone d) 5 (onTwn (fun t => { t with hbStop := true }) d)

/-- A rail has not qualified: disabled, discharged and tried again up to two more times (R348, R351). -/
def qualifyFails (r : Nat) (d : Dev) : Dev :=
  let d := raiseN (416 + r) (7 + railMv d r * 16) (railOff r d)
  if getF d (F.PWR_RAIL_STS_TRIES r) < 2 then
    onRail r (fun x => { x with retry := true })
      (setF (F.PWR_RAIL_STS_TRIES r) (getF d (F.PWR_RAIL_STS_TRIES r) + 1) d)
  else
    let d := onRail r (fun x => { x with failed := true, retry := false }) d
    match d.glb.base with
    | .sequencing => railsDown (upOrder.take 6) d
    | .recovering => onPwr (fun p => { p with group := [] }) (stepWithdraws 6 1 d)
    | .serving => sysReset d
    | _ => d

/-- A rail's discharge is over: tried again, or done, and the next rail of the order is disabled (R352). -/
def dischargeEnds (r : Nat) (d : Dev) : Dev :=
  let x := railOf d r
  if x.retry && decide (d.glb.base ≠ .shutdown) && decide (d.glb.base ≠ .withdrawn) then
    bringUp (enableRail r d)
  else
    let d := setF (F.PWR_RAIL_STS_STATE r) (if x.failed then 4 else 0) (onRail r (fun x => { x with retry := false }) d)
    match d.pwr.down with
    | [] => bringUp (settleOff d)
    | n :: rest => railOff n (onPwr (fun p => { p with down := rest }) d)

/-- A rail qualifies (R348): its GOOD has been high for QUAL_TK ticks and its reading is inside the fault window. A rail
retried in service raises cause 8, and the ports retrain (R351). -/
def railQualified (r : Nat) (d : Dev) : Dev :=
  match (railOf d r).goodSince with
  | none => d
  | some t =>
    if (railState d r = 1 ∨ railState d r = 5) ∧ t + getF d F.PWR_QUAL_QUAL_TK ≤ d.glb.tick ∧ insideFault d r then
      let d := setF (F.PWR_RAIL_STS_STATE r) 2 (onRail r (fun x => { x with retry := false, beyond := 0, crossed := 0 }) d)
      if serves d || decide (d.glb.base = .withdrawn) then
        let d := raiseN (416 + r) (8 + railMv d r * 16) d
        if serves d then forEach (List.range 17) (fun l d => if mayTrain d l && decide (ltOf d l = 8) then setLt l 1 0 d else d) d else d
      else bringUp d
    else d

/-- RAIL_QUALIFIED (R348). -/
def execRailQualified (r : Fin 16) (s : State) : Host.Outcome State Fault Refusal := run (railQualified r.val) s

/-- RAIL_QUALIFY_TIMEOUT (R348): PG_TMO has passed. -/
def execRailQualifyTimeout (r : Fin 16) (s : State) : Host.Outcome State Fault Refusal :=
  run (fun d =>
    if (railState d r.val = 1 ∨ railState d r.val = 5) ∧ (railOf d r.val).since + getF d (F.PWR_RAIL_CTL_PG_TMO r.val) ≤ d.glb.tick
    then qualifyFails r.val d else d) s

/-- RAIL_DISCHARGED (R352). -/
def execRailDischarged (r : Fin 16) (s : State) : Host.Outcome State Fault Refusal :=
  run (fun d => if railState d r.val = 6 ∧ discharged d r.val then dischargeEnds r.val d else d) s

/-- DIS_TMO ends with the rail above 10 %: event 442 and the rail log; a rail that was to be enabled counts as not
qualified (R352). -/
def dischargeTimeout (r : Nat) (d : Dev) : Dev :=
  if railState d r ≠ 6 ∨ d.glb.tick < (railOf d r).since + getF d (F.PWR_RAIL_CTL_DIS_TMO r) ∨ discharged d r then d
  else
    let d := railLog 3 r (raiseN 442 r (setB F.PWR_ERR_DIS_TMO true d))
    if (railOf d r).retry && decide (d.glb.base ≠ .shutdown) && decide (d.glb.base ≠ .withdrawn) then qualifyFails r d
    else dischargeEnds r d

/-- DISCHARGE_TIMEOUT (R352). -/
def execDischargeTimeout (r : Fin 16) (s : State) : Host.Outcome State Fault Refusal := run (dischargeTimeout r.val) s

/-! ## Supervision (R349-R351) -/

/-- The supervision of a rail by one conversion (R349): two in a row beyond a level cross it. A warning raises its event;
a fault waits for its reaction. -/
def superviseRail (r : Nat) (d : Dev) : Dev :=
  let st := railState d r
  if st ≠ 2 ∧ st ≠ 3 ∧ st ≠ 4 then d
  else
    let x := railOf d r
    let now := beyondNow d r
    let crossed := now &&& x.beyond
    let new := crossed &&& ~~~x.crossed
    let faults := (if new.getLsbD 2 then [3] else []) ++ (if new.getLsbD 3 then [4] else [])
    let d := onRail r (fun x => { x with beyond := now, crossed := crossed, due := faults.foldl (fun l c => insertNew c l) x.due }) d
    let warn (k cause : Nat) (d : Dev) : Dev := if new.getLsbD k then
      raiseN (416 + r) (cause + railMv d r * 16) (count (0xB010 + r) (setB F.PWR_ERR_RAIL_WARN true d)) else d
    let d := warn 1 2 (warn 0 1 d)
    if st = 4 then d else setF (F.PWR_RAIL_STS_STATE r) (if crossed = 0 then 2 else 3) d

/-- The conversion of a rail and its GOOD input at a tick. -/
def railTick (inp : TickIn) (r : Nat) (d : Dev) : Dev :=
  let d := setF (F.PWR_RAIL_STS_MV r) (inp.rails.getD r 0).toNat d
  let d := if (railOf d r).en then onRail r (fun x => { x with
    goodSince := if inp.good.getLsbD r then some (x.goodSince.getD d.glb.tick) else none }) d else d
  superviseRail r d

/-- The conversions of a tick (R349, R353, R354). -/
def adcTick (inp : TickIn) (d : Dev) : Dev :=
  let d := setF F.PWR_VIN_NOW inp.vin.toNat (setF F.PWR_HU_V_NOW inp.hu.toNat d)
  let d := forEach (List.range 16) (railTick inp) d
  let d := if inp.vin.toNat < getF d F.PWR_VIN_PF then onPwr (fun p => { p with vinLow := p.vinLow + 1 }) d
    else onPwr (fun p => { p with vinLow := 0 }) d
  let d := if inp.hu.toNat < getF d F.PWR_HU_V_PF then onPwr (fun p => { p with huLow := p.huLow + 1 }) d
    else onPwr (fun p => { p with huLow := 0 }) d
  let d := if getF d F.PWR_VIN_PF + 200 ≤ inp.vin.toNat ∧ !flag d F.PWR_STS_VIN_OK then
      setB F.PWR_STS_VIN_OK true (onPwr (fun p => { p with vinGoodSince := d.glb.tick }) d)
    else d
  let was := flag d F.PWR_STS_PF_IN
  let d := setB F.PWR_STS_PF_IN inp.pfaultLow d
  let d := if was && !inp.pfaultLow then onPwr (fun p => { p with pfHighSince := d.glb.tick }) d else d
  if inp.pfaultLow && !flag d F.PWR_STS_PF_DRV then onPwr (fun p => { p with pfLow := p.pfLow + 1 }) d
  else onPwr (fun p => { p with pfLow := 0 }) d

/-- The reaction to a rail's fault, by the device state and REACT (R351). -/
def railReact (r : Nat) (d : Dev) : Dev :=
  match d.glb.base with
  | .off | .shutdown => d
  | .sequencing | .loading | .recovering | .pairing => shutdownAs false 5 d
  | .serving | .withdrawn =>
    match getF d (F.PWR_RAIL_CTL_REACT r) with
    | 0 => setF (F.PWR_RAIL_STS_STATE r) 4 d
    | 1 =>
      let d := forEach (List.range 17) (fun l d => if ltOf d l = 0 then d else enterDown l d) d
      let d := setF (F.PWR_RAIL_STS_TRIES r) 0 (if ltOf d 16 = 8 then setF F.TWN_STS_LINK 4 d else d)
      onRail r (fun x => { x with retry := true }) (railOff r d)
    | 2 =>
      let g := if 13 ≤ r then [13, 14, 15] else [8, 9, 10, 11, 12]
      if d.glb.base = .withdrawn then railsDown g d
      else withdraw false (onPwr (fun p => { p with group := g }) d)
    | _ => sysReset d

/-- A fault of a rail that is due (R351): event, log, counter, and the rail's reaction. -/
def railFault (r cause : Nat) (d : Dev) : Dev :=
  if cause ∉ (railOf d r).due then d
  else
    let d := onRail r (fun x => { x with due := x.due.filter fun c => c ≠ cause }) d
    let d := setB F.PWR_ERR_RAIL_FAULT true (if cause = 6 then setB F.PWR_ERR_CHATTER true d else d)
    railReact r (raiseN (416 + r) (cause + railMv d r * 16) (railLog 1 r (count (0xB000 + r) d)))

/-- RAIL_FAULT (R351). -/
def execRailFault (r : Fin 16) (cause : BitVec 4) (s : State) : Host.Outcome State Fault Refusal :=
  run (railFault r.val cause.toNat) s

/-- A low pulse on GOOD (R350), given by its length: below 200 ns ignored; LOW_TK ticks a fault; between, two transitions,
and CHAT_N of them in a superframe are a fault. Before qualification it restarts the count of R348. -/
def goodLow (r ns : Nat) (d : Dev) : Dev :=
  let st := railState d r
  if st = 1 ∨ st = 5 then onRail r (fun x => { x with goodSince := none }) d
  else if (st ≠ 2 ∧ st ≠ 3 ∧ st ≠ 4) ∨ ns < 200 then d
  else if getF d F.PWR_QUAL_LOW_TK * 1000 ≤ ns then onRail r (fun x => { x with due := insertNew 5 x.due }) d
  else
    let d := countN (0xB020 + r) 2 (addSat (F.PWR_RAIL_STS_TRANS r) 2 d)
    let d := onRail r (fun x => { x with trans := x.trans + 2 }) d
    if getF d F.PWR_QUAL_CHAT_N ≤ (railOf d r).trans then onRail r (fun x => { x with due := insertNew 6 x.due }) d else d

/-- GOOD_LOW (R350). -/
def execGoodLow (r : Fin 16) (ns : Nat) (s : State) : Host.Outcome State Fault Refusal := runQ (goodLow r.val ns) s

/-! ## The hold-up bank and the dirty cap (R356-R359) -/

/-- The parameters of the dirty cap (R358). -/
def dcap (d : Dev) : DirtyCap := (img d).dcap

/-- The bank's usable energy as a fraction of J, from C (µF as a fraction) and V0 in mV: numerator and denominator. -/
def eUse (d : Dev) (v0 : Nat) : Nat × Nat :=
  let p := dcap d
  (d.pwr.capNum * (v0 * v0 - p.vMin * p.vMin), d.pwr.capDen * 2 * 10 ^ 12)

/-- The ticks that the bank's energy gives the flush (R358), E_USE / (MARGIN × P_FLUSH) − T_FIXED, as a fraction; 0 when
negative. -/
def energyTicks (d : Dev) (v0 : Nat) : Nat × Nat :=
  let p := dcap d
  let (n, q) := eUse d v0
  let den := q * p.margin * p.pFlush
  (n * 256 * 10 ^ 6 - p.tFixed * den, den)

/-- What limits the cap: the cap in GiB for a time given as a fraction of ticks (1 GB/s is 1,000 bytes a tick). -/
def capOf (d : Dev) (t : Nat × Nat) : Nat :=
  let p := dcap d
  (p.rate * 1000 * t.1 - p.meta_ * 2 ^ 30 * t.2) / (2 ^ 30 * t.2)

/-- Derive CAP with LIMIT, E_USE and ENEED from C and V0 (R358); event 441 when CAP is below CAP_MIN. -/
def deriveCap (v0 : Nat) (d : Dev) : Dev :=
  let p := dcap d
  let e := energyTicks d v0
  let budget := decide (p.tBudget * e.2 ≤ e.1)
  let raw := if e.2 = 0 then 0 else capOf d (if budget then (p.tBudget, 1) else e)
  let cap := min p.capMax raw
  let limit := if p.capMax ≤ raw then 0 else if budget then 1 else 2
  let (n, q) := eUse d v0
  let d := setF F.PWR_HU_E_EUSE (if q = 0 then 0 else min 65535 (n / q)) d
  let need := ceilDiv (p.pFlush * p.margin * (p.tFixed * p.rate * 1000 + (cap + p.meta_) * 2 ^ 30)) (256 * 10 ^ 6 * p.rate * 1000)
  let d := setF F.PWR_HU_E_ENEED (min 65535 need) (setF F.PWR_DCAP_CAP cap (setF F.PWR_DCAP_LIMIT limit d))
  let short := decide (cap < p.capMin)
  let was := flag d F.PWR_STS_CAP_SHORT
  let d := setB F.PWR_STS_CAP_SHORT short d
  if short && !was then raiseN 441 cap d else d

/-- A lower CAP than before: event 440 (R359). -/
def capLowered (before : Nat) (d : Dev) : Dev :=
  let now := getF d F.PWR_DCAP_CAP
  if now < before then raiseN 440 now (setB F.PWR_ERR_CAP_LOWERED true d) else d

/-- The recomputation at an epoch boundary, with V0 as HU_SENSE now (R359). -/
def capEpoch (d : Dev) : Dev :=
  if d.pwr.capNum = 0 then d else capLowered (getF d F.PWR_DCAP_CAP) (deriveCap (getF d F.PWR_HU_V_NOW) d)

/-- A measurement of the bank begins: V0 sampled, the load connected (R356). -/
def bankStart (d : Dev) : Dev :=
  if d.pwr.meas ≠ 0 then d
  else count 0xB032 (setB F.PWR_STS_HU_TEST true
    (onPwr (fun p => { p with meas := 1, measStart := d.glb.tick, measV0 := getF d F.PWR_HU_V_NOW }) d))

/-- A measurement fails: event 444, E_USE 0 and the CAP that follows from it (R356, R358). -/
def bankFails (d : Dev) : Dev :=
  let d := setB F.PWR_STS_HU_TEST false (onPwr (fun p => { p with meas := 0, capNum := 0, capDen := 1 }) d)
  capLowered (getF d F.PWR_DCAP_CAP) (deriveCap 0 (raiseN 444 0 (setB F.PWR_ERR_HU_FAIL true d)))

/-- MEAS ticks after the start: V1 sampled, the load released (R356). -/
def bankSample (d : Dev) : Dev :=
  if d.pwr.meas ≠ 1 ∨ d.glb.tick < d.pwr.measStart + (dcap d).meas then d
  else
    let v1 := getF d F.PWR_HU_V_NOW
    let d := setB F.PWR_STS_HU_TEST false d
    if d.pwr.measV0 < v1 + 50 then bankFails d
    else onPwr (fun p => { p with
      meas := 2, measStart := d.glb.tick, newNum := (dcap d).iTest * (dcap d).meas, newDen := p.measV0 - v1 }) d

/-- The bank has recharged to V0: C, E_USE and CAP take effect, event 439; or it has not within 10 × MEAS (R356). -/
def bankEnd (d : Dev) : Dev :=
  if d.pwr.meas ≠ 2 then d
  else if d.pwr.measV0 ≤ getF d F.PWR_HU_V_NOW then
    let before := getF d F.PWR_DCAP_CAP
    let d := onPwr (fun p => { p with meas := 0, capNum := p.newNum, capDen := p.newDen }) d
    let d := setF F.PWR_HU_CAP_CAP (min 65535 (d.pwr.capNum / d.pwr.capDen / 10)) (setF F.PWR_HU_CAP_V0 (d.pwr.measV0 / 10) d)
    let d := capLowered before (deriveCap d.pwr.measV0 d)
    raiseN 439 (getF d F.PWR_DCAP_CAP) d
  else if d.pwr.measStart + 10 * (dcap d).meas ≤ d.glb.tick then bankFails d
  else d

/-- HU_MEAS repeats the measurement while the device serves (R356), for the port that holds SVC_LOCK (R367). -/
def huMeas (p : Nat) (d : Dev) : Dev := if holdsLock d p && serves d then bankStart d else d

/-- HU_MEAS (R356). -/
def execHuMeas (p : SPort) (s : State) : Host.Outcome State Fault Refusal := runQ (viaPort p.val (huMeas p.val)) s

/-- BANK_MEASUREMENT_SAMPLE (R356). -/
def execBankMeasurementSample (s : State) : Host.Outcome State Fault Refusal := runQ bankSample s

/-- BANK_MEASUREMENT_END (R356). -/
def execBankMeasurementEnd (s : State) : Host.Outcome State Fault Refusal := runQ bankEnd s

/-! ## Input loss (R353, R354) -/

/-- The input failure's own part: PFAULT_N driven low, ring writes abandoned, event 432 with its detail record. -/
def inputLost (bank : Bool) (d : Dev) : Dev :=
  let n := if bank then 1 else 0
  let d := raiseN 432 n (abandonLog (if d.glb.base = .sequencing then d else setB F.PWR_STS_PF_DRV true d))
  ledDetail 432 (BitVec.ofNat 32 n) (railLogBytes 2 0xFF d) d

/-- What an input failure does by the device state (R353, R360, R365). -/
def inputActs (bank : Bool) (d : Dev) : Dev :=
  let why := if bank then 8 else 1
  match d.glb.base with
  | .off | .withdrawn => d
  | .shutdown =>
    if flag d F.PWR_STS_PAUSED then setB F.PWR_STS_PAUSED false (setB F.PWR_STS_PF_DRV true d)
    else if d.pwr.offStep ≠ 0 ∧ d.pwr.offStep < 5 then shutdownAs true why (inputLost bank d)
    else if d.pwr.vinBack ∨ getF d F.PWR_STS_SPW = 0 ∨ getF d F.PWR_STS_SPW = 7 then setB F.PWR_STS_PF_DRV true d
    else onPwr (fun p => { p with why := why }) (inputLost bank d)
  | _ => enterShutdown why (inputLost bank d)

/-- The input has failed (R353): two conversions of VIN, or of the bank while VIN is good, below their PF level. -/
def inputFailure (bank : Bool) (d : Dev) : Dev :=
  if !flag d F.PWR_STS_VIN_OK || decide ((if bank then d.pwr.huLow else d.pwr.vinLow) < 2) then d
  else inputActs bank (setB F.PWR_STS_VIN_OK false d)

/-- INPUT_FAILURE (R353). -/
def execInputFailure (bank : Bool) (s : State) : Host.Outcome State Fault Refusal := run (inputFailure bank) s

/-- PFAULT_N is found low for two ticks without this device driving it (R354): Shutdown, as for an input failure. In a
pause it goes on (R365). -/
def pfaultFollow (d : Dev) : Dev :=
  if !flag d F.PWR_CTL_PF_FOLLOW || decide (d.pwr.pfLow < 2) || flag d F.PWR_STS_PF_DRV then d
  else match d.glb.base with
    | .off | .withdrawn => d
    | .shutdown =>
      if flag d F.PWR_STS_PAUSED then setB F.PWR_STS_PAUSED false d
      else if d.pwr.offStep ≠ 0 ∧ d.pwr.offStep < 5 then shutdownAs true 2 (raiseN 433 0 d)
      else d
    | _ => enterShutdown 2 (raiseN 433 0 d)

/-- PFAULT_FOLLOW (R354). -/
def execPfaultFollow (s : State) : Host.Outcome State Fault Refusal := run pfaultFollow s

/-! ## Spillway (R360-R365) -/

/-- The quiesce ends: every state update sent has its ACK, or a takeover was declared. The merge buffer is drained as
phase 2 begins (R360, R361). -/
def quiesceEnd (d : Dev) : Dev :=
  if d.glb.base ≠ .shutdown ∨ getF d F.PWR_STS_SPW ≠ 1 ∨ flag d F.PWR_STS_PAUSED
      ∨ (!alone d ∧ (d.bsn.txns.any fun e => e.2.phase == .sent)) then d
  else
    let d := d.ntr.merge.foldl (fun d m => mergeDrain m.laddr.toNat d) d
    setF F.PWR_STS_SPW 2 d

/-- QUIESCE_END (R360). -/
def execQuiesceEnd (s : State) : Host.Outcome State Fault Refusal := run quiesceEnd s

/-- The open USE 2 stripe of a die. -/
def flushStripe (d : Dev) (x : Nat) : Option (Nat × Stripe) :=
  (stripesIn d x fun s => decide (s.st = 3) && decide (s.use = 2)).head?

/-- Mark the USE 2 stripes of every data die written. -/
def markFlushed (d : Dev) : Dev :=
  (dataDies d).foldl (fun d x => match flushStripe d x with
    | none => d
    | some s => onStripe x s.1 (fun e => { e with nwl := max 1 e.nwl }) d) d

/-- The USE 2 stripes written, by die. -/
def flushedStripes (d : Dev) : List (Nat × Nat) :=
  d.pwr.flushed ++ (dataDies d).flatMap fun x => (stripesIn d x fun s =>
    decide (s.use = 2) && decide (s.st = 3) && decide (s.nwl ≠ 0)).map fun s => (x, s.1)

/-- The top-image slot's bound part (R362). -/
def topImage (d : Dev) (tag : Nat) : TopImg :=
  { root := tag, age := getF d F.XLT_AGE_NOW_AGE, epoch := getF d F.TWN_PEPOCH_EPOCH, stripes := flushedStripes d
    rekey := if flag d F.SLU_REKEY_BUSY then
      some ((regGet d F.SLU_REKEY_BUSY.addr).toNat, cursor d, getF d F.SLU_REKEY_PEND_COUNT) else none }

/-- The dirty leaves, filled, as their flush images (R227). -/
def takeImages (d : Dev) : Dev :=
  let ls := (dirtyLeafList d).reverse
  let d := ls.foldl (fun d l => fillLeaf l d) d
  onXlt (fun x => { x with
    images := ls.map fun l => (l, (List.range 64).map fun i => lineOf d (l * 64 + i))
    flush := x.journals.flatMap fun j => j.2.buf.map fun r => (j.1, r.1, r.2) }) d

/-- Sector places of the open USE 2 stripes of some dies, enough word lines of each for `n`. -/
def flushPlaces (d : Dev) (xs : List Nat) (n : Nat) : List Nat :=
  xs.flatMap fun x => match flushStripe d x with
    | none => []
    | some s => (List.range (min 1024 (n / 16 + 1))).flatMap fun w => places1 x (1023 - w) (List.zip (List.range 4) s.2.blk)

/-- The dirty counter lines and nodes go into node pages in two copies, on dies of two channels (R273, R361). Which places of the USE 2
stripes they take is the model's choice (log entry 53). -/
def flushNodes (d : Dev) : Dev :=
  let d := wcWriteOut d
  let keys := d.slu.shadows.map fun e => e.1
  let pages := (parts 56 keys.length keys).map (mkNodePage d)
  let n := pages.length
  if n = 0 then d
  else
    let xs := dataDies d
    let c := (xs.headD 0) / 32
    let ps := List.zip pages (List.zip (flushPlaces d (xs.filter fun x => decide (x / 32 = c)) n) (flushPlaces d (xs.filter fun x => decide (x / 32 ≠ c)) n))
    ps.foldl (fun d e => onSlu (fun s => { s with
      nodePages := (s.nodePages.insert e.2.1 e.1).insert e.2.2 e.1
      nodeDir := e.1.keys.foldl (fun m k => m.insert k e.2) s.nodeDir
      nodeHalf := s.nodeHalf.filter fun h => !(h.2.keys.any fun k => decide (k ∈ e.1.keys))
      shadows := s.shadows.filter fun z => decide (z.1 ∉ e.1.keys) }) d) d

/-- The new top image and its bound part go into the slot that does not hold the current one; the ROOTCTR increment that
follows commits them (R276, R362). -/
def writeTop (d : Dev) : Dev :=
  let d := wcWriteOut d
  let tag := ctrComing d 0 + 1
  let d := onGrt (fun g => { g with slots := g.slots.insert (tag % 2) (some (topImage d tag)), flushTag := some tag }) d
  grtInc 0 d

/-- The history part of the snapshot (R340, R362): the offset table and GLB_TADPOLE. -/
def saveOffsets (d : Dev) : Dev :=
  onGrt (fun g => { g with
    offsets := d.med.dies.flatMap fun e => e.2.offsets.map fun o => (e.1 * 8 + o.1, o.2)
    offsetsValid := !d.glb.tadpole, tadpole := getF d F.GLB_TADPOLE_EPOCHS }) d

/-- Ticks since Shutdown was entered. -/
def inShutdown (d : Dev) : Nat := d.glb.tick - d.pwr.entry

/-- Report a flush in PWR_SPW_LAST; the Grotto keeps it (R362, R367). -/
def spwReport (end_ : Nat) (d : Dev) : Dev :=
  let d := setF F.PWR_SPW_LAST_TICKS (min (2 ^ 20 - 1) (inShutdown d)) (setF F.PWR_SPW_LAST_END end_ d)
  onGrt (fun g => { g with spwLast := regGet d F.PWR_SPW_LAST_TICKS.addr }) d

/-- What follows a flush: the warm reset, Withdrawn, or phase 7 (R361, R343, R308). -/
def afterFlush (d : Dev) : Dev :=
  match d.pwr.why with
  | 3 => warmReset 1 true d
  | 4 => warmReset 2 true d
  | 6 => toWithdrawn d
  | _ => railsDown upOrder (setF F.PWR_STS_SPW 7 d)

/-- Phase 6 has ended: event 435. -/
def flushEnds (d : Dev) : Dev :=
  let d := (ledgerWrite d).1
  let d := spwReport (if d.pwr.vinBack then 3 else 1) (saveOffsets d)
  afterFlush (raiseN 435 (inShutdown d) d)

/-- A phase of Spillway ends and the next begins (R361). The phase of the commit point ends when ROOTCTR has counted. -/
def spillwayPhase (d : Dev) : Dev :=
  if d.glb.base ≠ .shutdown ∨ flag d F.PWR_STS_PAUSED then d
  else match getF d F.PWR_STS_SPW with
    | 2 => setF F.PWR_STS_SPW 3 (markFlushed (takeImages d))
    | 3 => setF F.PWR_STS_SPW 4 d
    | 4 => setF F.PWR_STS_SPW 5 (writeTop (flushNodes d))
    | 5 => if some (ctrNow d 0) = d.grt.flushTag then raiseN 434 (inShutdown d) (setF F.PWR_STS_SPW 6 d) else d
    | 6 => flushEnds d
    | _ => d

/-- SPILLWAY_PHASE (R361). -/
def execSpillwayPhase (s : State) : Host.Outcome State Fault Refusal := run spillwayPhase s

/-- The lowest FREE stripe of a die with the fewest erases (R218). -/
def freeStripe (d : Dev) (x : Nat) : Option (Nat × Stripe) :=
  (stripesIn d x fun s => decide (s.st = 0)).foldl (fun (b : Option (Nat × Stripe)) s => match b with
    | none => some s
    | some y => if s.2.erases < y.2.erases then some s else some y) none

/-- Pause (R365): nothing more is written, PFAULT_N is released, and each data die whose USE 2 stripe was written erases a
FREE stripe for the next flush. -/
def pause (d : Dev) : Dev :=
  let d := setB F.PWR_STS_PAUSED true (setB F.PWR_STS_PF_DRV false d)
  let used := (flushedStripes d).filter fun e => e ∉ d.pwr.flushed
  let hit := used.filter fun e => (dieOf d e.1).erase.isNone
  let d := used.foldl (fun d e => stripeTo e.1 e.2 5 2 0 d) d
  let d := hit.foldl (fun d e => match freeStripe d e.1 with
    | none => d
    | some s =>
      let bs := List.zip (List.range 4) s.2.blk
      let d := stripeTo e.1 s.1 1 2 0 d
      onDie e.1 (fun y => { y with op := .erase true, busySince := d.glb.tick, erase := some { native := false, blocks := bs } }) d) d
  onPwr (fun p => { p with paused := hit.map (fun e => e.1), flushed := p.flushed ++ used }) d

/-- VIN is good again (R365): before the commit point Spillway pauses; after it the flush completes and a cold start
follows, event 437. While the ROOTCTR increment is being written nothing changes. -/
def vinReturn (d : Dev) : Dev :=
  if d.glb.base ≠ .shutdown ∨ (d.pwr.why ≠ 1 ∧ d.pwr.why ≠ 8) ∨ !flag d F.PWR_STS_VIN_OK ∨ flag d F.PWR_STS_PAUSED ∨ d.pwr.vinBack then d
  else
    let spw := getF d F.PWR_STS_SPW
    if 1 ≤ spw ∧ spw ≤ 4 then pause d
    else if 6 ≤ spw then raiseLedger 437 0 (onPwr (fun p => { p with vinBack := true }) d)
    else d

/-- VIN_RETURN (R365). -/
def execVinReturn (s : State) : Host.Outcome State Fault Refusal := run vinReturn s

/-- PFAULT_N, followed with this device's own VIN good, is released before the commit point (R354, R365). -/
def pfaultReleased (d : Dev) : Dev :=
  let spw := getF d F.PWR_STS_SPW
  if d.glb.base ≠ .shutdown ∨ d.pwr.why ≠ 2 ∨ !flag d F.PWR_STS_VIN_OK ∨ flag d F.PWR_STS_PF_IN ∨ flag d F.PWR_STS_PAUSED
      ∨ spw = 0 ∨ 4 < spw then d
  else pause d

/-- PFAULT_N_RELEASED (R365). -/
def execPfaultNReleased (s : State) : Host.Outcome State Fault Refusal := run pfaultReleased s

/-- The erases begun in the pause have all passed their blank checks. -/
def pauseErased (d : Dev) : Bool :=
  d.pwr.paused.all fun x => match flushStripe d x with
    | none => false
    | some s => decide (s.2.nwl = 0)

/-- The device resumes before the commit point (R365), at a superframe boundary: event 436; the written USE 2 stripes are
released, a lost partner is taken over from (R363), and kept transactions go on. -/
def spillwayResume (d : Dev) : Dev :=
  if d.glb.base ≠ .shutdown ∨ !flag d F.PWR_STS_PAUSED ∨ sfTick d ≠ 0 ∨ !flag d F.PWR_STS_VIN_OK ∨ flag d F.PWR_STS_PF_IN
      ∨ d.glb.tick < d.pwr.vinGoodSince + 2000 ∨ d.glb.tick < d.pwr.pfHighSince + 2000 ∨ !pauseErased d then d
  else
    let t := inShutdown d
    let d := spwReport 2 d
    let d := onGlb (fun g => { g with base := .serving }) (setB F.PWR_STS_PAUSED false (setF F.PWR_STS_SPW 0 d))
    let d := count 0xB031 (onGrt (fun g => { g with flushTag := none }) (onPwr (fun p => { p with why := 0, paused := [] }) d))
    let d := d.pwr.flushed.foldl (fun d s => stripeTo s.1 s.2 0 0 0 d) d
    let d := onPwr (fun p => { p with flushed := [] }) d
    let d := raiseN 436 t d
    let d := if !alone d && decide (d.twn.hbHist = 0 ∧ d.twn.pulseHist = 0) then takeover 1 d else d
    (htags d).foldl (fun d h => advance h d) d

/-- SPILLWAY_RESUME (R365). -/
def execSpillwayResume (s : State) : Host.Outcome State Fault Refusal := run spillwayResume s

/-! ## OFF (R366) -/

/-- OFF from the port that holds SVC_LOCK: event 445; a serving device admits no further request and goes through its
steps; a starting one stops. -/
def off (p : Nat) (d : Dev) : Dev :=
  if !holdsLock d p then d
  else match d.glb.base with
    | .off | .withdrawn | .shutdown => d
    | .serving =>
      let d := railLog 4 0xFF (raiseN 445 0 d)
      let d := onGlb (fun g => { g with base := .shutdown }) (endService d)
      onPwr (fun p => { p with why := 7, entry := d.glb.tick, vinBack := false, paused := [], offStep := 1 }) d
    | _ => shutdownAs false 7 (railLog 4 0xFF (raiseN 445 0 d))

/-- OFF (R366). -/
def execOff (p : SPort) (s : State) : Host.Outcome State Fault Refusal := run (viaPort p.val (off p.val)) s

/-- What OFF still waits for at a tick: transactions, then dirty leaves, then journals and tree, then the commit (R366). -/
def offTick (d : Dev) : Dev :=
  if d.glb.base ≠ .shutdown then d
  else match d.pwr.offStep with
    | 1 => if d.bsn.txns.isEmpty && d.bsn.reqs.isEmpty then onPwr (fun p => { p with offStep := 2 }) d else d
    | 2 =>
      let d := d.ntr.merge.foldl (fun d m => mergeDrain m.laddr.toNat d) d
      if (dirtyLeafList d).isEmpty then onPwr (fun p => { p with offStep := 3 }) (wcWriteOut d) else d
    | 3 =>
      if d.xlt.todo.isEmpty && d.xlt.dirtyMaps.isEmpty && d.slu.shadows.isEmpty
          && (d.xlt.journals.all fun j => j.2.buf.isEmpty && decide (j.2.sweepLeft = 0)) then
        onPwr (fun p => { p with offStep := 4 }) (saveOffsets (writeTop (onXlt (fun x => { x with images := [], flush := [] }) d)))
      else d
    | 4 =>
      if some (ctrNow d 0) = d.grt.flushTag ∧ d.grt.cur.isNone ∧ d.grt.wait.isEmpty then
        railsDown upOrder (suspendErases (onPwr (fun p => { p with offStep := 5 }) (ledgerWrite d).1))
      else d
    | _ => d

end Sys2Proof.Machine
end

