-- ==== Sys2Proof/Machine/Encoding.lean ====
section
/-!
DEFINITION. Encodings the device refuses: reserved field values of the register maps (R10), the cross-field checks of a
commit (R405), and the content checks of a sill image copy (R45, R46, R322, R323 step 8).
-/
namespace Sys2Proof.Machine

/-! ## Registers -/

/-- Whether a rail may have a reaction (R351): RETRY_RAIL in the Link group, GROUP_DOWN in Near and Media. -/
def reactOk (r react : Nat) : Bool :=
  match react with
  | 1 => decide (r = 6) || decide (r = 7)
  | 2 => decide (8 ≤ r)
  | _ => true

/-- Whether a value of a RW or RWL register holds a reserved encoding of one field (R10). -/
def reservedEnc (a v : Nat) : Bool :=
  if 0x1000 ≤ a ∧ a < 0x1800 then decide (a % 0x20 = 0) && decide (2 ≤ bitsOf v 3 2)
  else if 0xB00100 ≤ a ∧ a < 0xB00200 then
    decide (a % 16 = 0xC) && (decide (bitsOf v 15 2 = 0) || !reactOk ((a - 0xB00100) / 16) (bitsOf v 1 0))
  else match a with
  | 0x100008 => decide (bitsOf v 23 0 = 0)
  | 0x500000 => decide (bitsOf v 15 0 = 0) || decide (bitsOf v 31 16 = 0)
  | 0x500004 => decide (bitsOf v 4 0 = 0) || decide (17 ≤ bitsOf v 4 0)
  | 0x600014 => decide (bitsOf v 7 0 = 0)
  | 0x700004 => decide (bitsOf v 15 0 = 0)
  | 0x800004 => decide (bitsOf v 13 0 = 0) || decide (bitsOf v 27 14 ≤ bitsOf v 13 0)
  | 0xA0001C => decide (bitsOf v 15 0 = 0) || decide (bitsOf v 31 16 = 0)
  | 0xA00020 => decide (bitsOf v 7 0 = 0) || decide (180 < bitsOf v 7 0)
  | 0xB00028 => decide (bitsOf v 9 0 = 0) || decide (bitsOf v 13 10 = 0) || decide (bitsOf v 21 14 = 0)
  | 0xC00004 => decide (0x360 < bitsOf v 23 12)
  | 0xC0000C => decide (bitsOf v 4 0 = 0)
  | 0xD00008 => decide (bitsOf v 7 0 = 0) || decide (3 ≤ bitsOf v 11 8)
  | 0xD0000C => decide (bitsOf v 23 0 = 0)
  | 0xE00100 => (decide (1 ≤ bitsOf v 4 0) && decide (bitsOf v 4 0 ≤ 3)) || decide (25 ≤ bitsOf v 4 0)
  | 0xE00200 => decide (bitsOf v 7 0 = 0)
  | 0xE00800 => decide (8 ≤ bitsOf v 7 4) || decide (bitsOf v 9 8 = 3)
  | 0xF00004 => decide (bitsOf v 9 0 = 0) || decide (bitsOf v 25 16 ≤ bitsOf v 9 0)
  | _ => false

/-- The addresses of XLT_AGEB_1 to XLT_AGEB_7. -/
def agebAddrs : List Nat := (List.range 7).map fun k => 0x800014 + 4 * k

/-- A rail's levels stand in the order of R349. -/
def railOrder (warn fault : Nat) : Bool :=
  decide (bitsOf fault 15 0 < bitsOf warn 15 0) && decide (bitsOf warn 15 0 < bitsOf warn 31 16)
    && decide (bitsOf warn 31 16 < bitsOf fault 31 16)

/-- The cross-field checks that fail over the values registers would hold, each as the addresses it names: the order of
XLT_AGEB (R240), the level orders of the rails (R349) and of THM_LVL (R390). -/
def crossFails (v : Nat → Nat) : List (List Nat) :=
  (if (List.range 6).all fun k => decide (v (0x800014 + 4 * k) < v (0x800018 + 4 * k)) then [] else [agebAddrs])
    ++ (if bitsOf (v 0xC00004) 11 0 < bitsOf (v 0xC00004) 23 12 then [] else [[0xC00004]])
    ++ ((List.range 16).filterMap fun r =>
      if railOrder (v (0xB00104 + 16 * r)) (v (0xB00108 + 16 * r)) then none
      else some [0xB00104 + 16 * r, 0xB00108 + 16 * r])

/-! ## The schedule (R27-R36, R43-R46, R244) -/

/-- Ticks in an image's program window; a phase cycle is two of them (R27). -/
def imgWindow (i : Image) : Nat := 2 ^ i.phaseSf.toNat * 2048

/-- Two entries of one die overlap within the phase cycle. -/
def entriesMeet (pc : Nat) (a b : SlotEntry) : Bool :=
  let hit (k : Nat) := overlaps (a.start.toNat + k) a.length.toNat (b.start.toNat + pc) b.length.toNat
  decide (a.die = b.die) && decide (a.kind ≠ 0x0A) && decide (b.kind ≠ 0x0A) && (hit 0 || hit pc || hit (2 * pc))

/-- No two entries of a list overlap. -/
def noneMeet (pc : Nat) : List SlotEntry → Bool
  | [] => true
  | e :: rest => (rest.all fun x => !entriesMeet pc e x) && noneMeet pc rest

/-- A kind that program windows alone may hold (R29). -/
def programOnly (k : Nat) : Bool := k ∈ [1, 2, 3, 4, 7]

/-- The encodings of a slot entry, and its place in its die's program window (R28, R29, R34). An entry whose START is at or beyond the phase
cycle rejects the copy: the spec does not state that outcome (log entry 66). -/
def entryOk (i : Image) (roleB : Bool) (e : SlotEntry) : Bool :=
  let w := imgWindow i
  let s := e.start.toNat
  let n := e.length.toNat
  decide (n ≠ 0) && decide (s < 2 * w) && decide (e.kind.toNat ≤ 0xA) && decide (e.home ≠ 3) && decide (e.resv = 0)
    && (decide (e.kind ≠ 0x0A) || (decide (e.die = 0) && decide (e.home = 0)))
    && (!programOnly e.kind.toNat || (decide ((s + n - 1) / w = s / w)
      && (decide (s / w % 2 = 1) == (decide (e.die.toNat ∈ i.phaseMap) != roleB))))

/-- The runs of ticks that sorted entries cover, as start and end; `cur` is the run being grown. -/
def runsOf : List (Nat × Nat) → Nat × Nat → List (Nat × Nat)
  | [], cur => [cur]
  | (s, t) :: rest, cur => if s ≤ cur.2 then runsOf rest (cur.1, max cur.2 t) else cur :: runsOf rest (s, t)

/-- Every run but the last is at most D long and is followed by enough free ticks. -/
def runsOk (dTk free : Nat) : List (Nat × Nat) → Bool
  | [] => true
  | [_] => true
  | a :: b :: rest => decide (a.2 - a.1 ≤ dTk) && decide (a.2 + free ≤ b.1) && runsOk dTk free (b :: rest)

/-- The ticks in which a die is not free for a window at a level, over three phase cycles (R38, R245). -/
def takenTicks (i : Image) (die level : Nat) : List (Nat × Nat) :=
  let es := sortKey (fun e => e.1) ((i.slots.filter fun e =>
    decide (e.die.toNat = die) && decide (level ≤ e.lmax.toNat) && decide (e.kind.toNat ∉ [3, 4, 0xA])).map fun e =>
      (e.start.toNat, e.start.toNat + e.length.toNat))
  let shift (k : Nat) := es.map fun e => (e.1 + k, e.2 + k)
  es ++ shift (2 * imgWindow i) ++ shift (4 * imgWindow i)

/-- The load check of D for one die and level (R244). -/
def dieRunsOk (i : Image) (die level : Nat) : Bool :=
  match takenTicks i die level with
  | [] => true
  | e :: rest =>
    let g := 2 * imgPeriod i (die / 32) * (i.divs[level]?).getD 1
    runsOk i.dTk (max (2 * g + 22) (3 * g + 2 * imgReadTk i (die / 32) + 14)) (runsOf rest e)

/-- The dies a table names. -/
def tableDies (i : Image) : List Nat := i.slots.foldl (fun l e => if e.kind = 0x0A then l else insertNew e.die.toNat l) []

/-- A list of numbers does not decrease. -/
def rising : List Nat → Bool
  | a :: b :: rest => decide (a ≤ b) && rising (b :: rest)
  | _ => true

/-- Reserve dies of a channel with a number of data positions: one for every 16 dies populated (R22). -/
def reservesFor (pd : Nat) : Nat := ceilDiv pd 15

/-- The populated and reserve die indices of an image's geometry (R22, R211): the data positions of each channel, then its reserves. -/
def populatedIndices (i : Image) : List Nat :=
  (List.range i.nch).flatMap fun c => (List.range (i.pd + reservesFor i.pd)).map fun q => c * 32 + q

/-- The die-slot tables section and the level table (R46 obligations 1 to 4, R244). -/
def scheduleOk (i : Image) (roleB : Bool) : Bool :=
  decide (1 ≤ i.phaseSf.toNat) && decide (i.phaseSf.toNat ≤ 4) && decide (i.demand.length = i.nch) && (i.demand.all fun p => decide (p.1 ∈ [4, 8, 16, 32]))
    && decide (i.divs.length = 16) && (i.divs.all fun v => decide (v ∈ [1, 2, 4, 8])) && decide (i.divs.headD 0 = 1)
    && (populatedIndices i).all (fun x => decide (x < i.phaseDies)) && (i.phaseMap.all fun x => decide (x < i.phaseDies))
    && rising i.divs && (i.slots.all (entryOk i roleB)) && noneMeet (2 * imgWindow i) i.slots
    && (tableDies i).all fun x => (List.range 16).all fun l => dieRunsOk i x l

/-! ## The other sections -/

/-- A region's segments, as first and one past the last. -/
def regionSpan (r : RegionRec) : Nat × Nat := (r.first.toNat, r.first.toNat + r.nseg.toNat)

/-- No two spans of a list overlap. -/
def spansApart : List (Nat × Nat) → Bool
  | [] => true
  | a :: rest => (rest.all fun b => decide (a.2 ≤ b.1) || decide (b.2 ≤ a.1)) && spansApart rest

/-- The region table section (R322, R211, R256, R23). A reference die holds 2.0625 TiB, 1,081,344 segments. -/
def regionsOk (i : Image) : Bool :=
  let rs := i.regions.filter fun r => r.valid
  let total := (rs.map fun r => r.nseg.toNat).sum
  let dies := i.nch * i.pd
  decide (i.regions.length = 64)
    && (rs.all fun r => decide (r.nseg ≠ 0) && decide (r.keyid ≠ 0)) && (i.regions.all fun r => decide (r.ack.toNat ≤ 1))
    && spansApart (rs.map regionSpan ++ (match i.macSeg with | none => [] | some s => [(s.toNat, s.toNat + 1)]))
    && decide (total ≤ dies * 1081344 * (100 - i.op) / 100)
    && decide (dies ≠ 0) && decide (ceilDiv total dies ≤ i.segPerDie)

/-- The geometry section (R183, R190, R194, R204, R235). -/
def geometryOk (i : Image) : Bool :=
  let o := i.dieOps
  decide (1 ≤ i.nch) && decide (i.nch ≤ 64) && decide (1 ≤ i.pd) && decide (i.pd + reservesFor i.pd ≤ 32)
    && decide (1 ≤ i.cist) && decide (i.cist ≤ 6) && i.unlimitedSuspend && i.ofsNoBusy
    && decide (i.rates.length = i.nch) && (i.rates.all fun r => decide (1 ≤ r.toNat) && decide (r.toNat ≤ 4))
    && (decide (i.pfMode = 1) || decide (i.pfMode = 2)) && decide (2 ≤ o.suspBit.toNat) && decide (o.suspBit.toNat ≤ 4)
    && decide ([o.slcPfx, o.suspend, o.resume, o.flagRead].Nodup)

/-- What a register of the thresholds and rail sections would hold. -/
def imgWord (i : Image) (a : Nat) : Nat := match i.thresholds.find? fun e => e.1 = a with
  | some e => e.2.toNat
  | none => (resetOf a).toNat

/-- The thresholds section: each word names a RWL register outside the region table, has no bit outside its RWL fields
and no reserved encoding, and together they pass the checks of R405. -/
def thresholdsOk (i : Image) : Bool :=
  (i.thresholds.all fun e => match regRow e.1 with
    | none => false
    | some row => decide (row.rwl ≠ 0) && decide (e.2 &&& ~~~row.rwl = 0) && decide (0x1800 ≤ e.1)
        && !(decide (0x201000 ≤ e.1) && decide (e.1 < 0x203000)) && !reservedEnc e.1 e.2.toNat)
    && decide (crossFails (imgWord i) = [])

/-- The rail table: the boot rails' levels lie inside the fused levels (R348). -/
def railTableOk (i : Image) (d : Dev) : Bool :=
  i.railTableOk && decide (i.railPg.length = 16) && (List.range 6).all fun r =>
    decide (getF d (F.PWR_RAIL_FAULT_LO r) ≤ bitsOf (imgWord i (0xB00108 + 16 * r)) 15 0)
      && decide (bitsOf (imgWord i (0xB00108 + 16 * r)) 31 16 ≤ getF d (F.PWR_RAIL_FAULT_HI r))
      && decide (getF d (F.PWR_RAIL_WARN_LO r) ≤ bitsOf (imgWord i (0xB00104 + 16 * r)) 15 0)
      && decide (bitsOf (imgWord i (0xB00104 + 16 * r)) 31 16 ≤ getF d (F.PWR_RAIL_WARN_HI r))

/-- The dirty-cap parameters (R358). -/
def dcapOk (p : DirtyCap) : Bool :=
  decide (p.capMin ≤ p.capMax) && decide (p.tBudget ≤ 250000)
    && ([p.pFlush, p.tFixed, p.tBudget, p.rate, p.meta_, p.capMax, p.capMin, p.margin, p.vMin, p.iTest, p.meas].all fun v =>
      decide (v ≠ 0))

/-- Event routing (R408): reserved bits of the routes are 0. -/
def routesOk (i : Image) : Bool :=
  decide (i.routes.length = 512) && decide (i.asets.length = 15) && i.routes.all fun w => decide (w.toNat < 256)

/-- The runnel sections: 44, roles by number (R52), each passing the load check (R68). -/
def runnelsOk (i : Image) : Bool :=
  decide (i.runnels.length = 44) && (List.zip (List.range 44) i.runnels).all fun (e : Nat × RunnelSect) =>
    runnelOk i e.1 e.2 && (if e.1 < 32 then decide (e.2.role = 0) else decide (1 ≤ e.2.role.toNat) && decide (e.2.role.toNat ≤ 9))

/-- The near-tier section (R159, R160, R164): its population as found, one of the five rates and three densities, five regions. -/
def nearTierOk (i : Image) : Bool :=
  i.ntPopOk && decide (i.ntRate.toNat ≤ 4) && decide (i.ntDens.toNat ≤ 2) && decide (i.ntRegions.length = 5)

/-- Step 8 of the verification: every section's content is valid (R323). -/
def contentOk (i : Image) (d : Dev) : Bool :=
  scheduleOk i d.glb.roleB && runnelsOk i && regionsOk i && geometryOk i && nearTierOk i && thresholdsOk i
    && decide (i.calEpochs ≤ 8) && dcapOk i.dcap && routesOk i && railTableOk i d

/-! ## A copy (R323) -/

/-- The length of a record and the number of records a section type has, where the spec gives them (R321, R322). -/
def sectShape (e : SectEntry) : Bool :=
  match e.typ.toNat with
  | 0x03 => decide (e.nrec = 65) && decide (e.reclen = 32)
  | 0x0A => decide (e.nrec = 1) && decide (e.reclen = 16)
  | _ => true

/-- A section entry (R320) and the header of its section (R321) in a copy of `len` bytes. -/
def sectOk (len : Nat) (e : SectEntry) : Bool :=
  decide (1 ≤ e.typ.toNat) && decide (e.typ.toNat ≤ 0x0B) && decide (if e.typ = 1 then e.inst.toNat < 44 else e.inst = 0) && decide (e.resv = 0)
    && decide (e.offset.toNat % 4096 = 0) && decide (0x1000 ≤ e.offset.toNat) && decide (16 ≤ e.length.toNat)
    && decide (e.offset.toNat + e.length.toNat ≤ len) && decide (e.hdrTyp = e.typ) && decide (e.hdrInst = e.inst)
    && decide (e.hdrFormat = 1) && decide (e.hdrResv = 0) && decide (e.length.toNat = 16 + e.nrec.toNat * e.reclen.toNat) && sectShape e

/-- The section table of a copy (R319-R321): 54 entries that meet their checks, each type and instance once, no two sections overlapping,
the entries after them 0. -/
def tableOk (c : FlashCopy) : Bool :=
  let t := c.table.take 54
  decide (c.table.length = 60) && ((c.table.drop 54).all fun e => decide (e = {})) && t.all (sectOk c.imgLen.toNat)
    && decide (t.map fun e => (e.typ, e.inst)).Nodup && spansApart (t.map fun e => (e.offset.toNat, e.offset.toNat + e.length.toNat))

/-- The checks of a copy in their order, and the reason of the first that fails. -/
def copyReason (c : FlashCopy) (d : Dev) : Option Nat :=
  let i := c.img
  let slot := d.glb.fuses.getD i.keySlot.toNat {}
  let left := (List.zip (List.range 4) d.glb.fuses).any fun (e : Nat × FuseSlot) =>
    e.2.programmed && !e.2.revoked && !i.revoke.getLsbD e.1
  if !c.readOk then some 0xC
  else if c.magic ≠ 0x49534B4C ∨ c.format ≠ 1 ∨ c.imgLen.toNat < 0x1000 ∨ 0x2000000 < c.imgLen.toNat ∨ c.nsect ≠ 54
      ∨ 2 < c.spiClk.toNat then some 3
  else if 4 ≤ i.keySlot.toNat ∨ !slot.programmed ∨ slot.revoked then some 4
  else if c.pubkeyHash ≠ slot.hash then some 5
  else if !c.sigOk then some 6
  else if i.version.toNat < ctrNow d 1 ∨ i.version.toNat < i.floor.toNat then some 7
  else if !tableOk c ∨ 16 ≤ i.revoke.toNat ∨ i.revoke.getLsbD i.keySlot.toNat ∨ !left then some 8
  else if !((c.table.take 54).all fun e => decide (e.found = e.hash)) then some 9
  else if !contentOk i d then some 0xA
  else if decide (i.roleB = 1) != d.glb.roleB ∨ 2 ≤ i.roleB.toNat then some 0xB
  else none

end Sys2Proof.Machine
end

