-- ==== Sys2Proof/Machine/Sparing.lean ====
section
/-!
DEFINITION. Axolotl's gauges and end of life (R428-R440): the ten gauges with their low water, block headroom, wear, and
arming for Dry and leaving it.
-/
namespace Sys2Proof.Machine

/-- The formed stripes of a die (R217). -/
def formedStripes (d : Dev) (x : Nat) : List (Nat × Stripe) := stripesIn d x fun _ => true

/-- HEAD of a data die, in stripes (R431). -/
def headOf (d : Dev) (x : Nat) : Int :=
  let fs := formedStripes d x
  let n := fs.length
  let meta_ := (fs.filter fun s => decide (s.2.use = 1)).length
  (n : Int) - (ceilDiv (getF d F.XLT_CFG_CIST * n) 100 : Int) - (meta_ : Int) - 1 - (ceilDiv (dieOf d x).nLeaves.length 49152 : Int)

/-- The remaining life of a data die in percent (R434): the mean ERASES of its formed stripes against the rated number. -/
def lifeOf (d : Dev) (x : Nat) : Nat :=
  let fs := formedStripes d x
  100 - 100 * (fs.map fun s => s.2.erases).sum / (fs.length * (img d).peRated)

/-- The smallest of a list of numbers, none when it is empty. -/
def least : List Nat → Option Nat
  | [] => none
  | a :: rest => some (rest.foldl min a)

/-- The data dies whose stripe tables exist. -/
def gaugedDies (d : Dev) : List Nat := (dataDies d).filter fun x => !(formedStripes d x).isEmpty

/-- The element with the smallest key, the first of equals. -/
def leastBy (key : Nat → Int) : List Nat → Option Nat
  | [] => none
  | a :: rest => some (rest.foldl (fun m x => if key x < key m then x else m) a)

/-- The receive spares of the mirror link that are unused: those of groups no lane of which has failed (R293). -/
def mirrorSpares (d : Dev) : Nat :=
  ([0, 8].filter fun lane => (groupLanes 16 lane ++ [spareOf 16 lane]).all fun x => decide (x ∉ (linkOf d 16).failed)).length

/-- A gauge's value (R429); none while the device has none of the kind. -/
def gauge (d : Dev) (k : Nat) : Option Nat :=
  match k with
  | 0 => some (getF d F.SCH_SPARE_FREE)
  | 1 => least (((List.range (getF d F.XLT_CFG_NCH)).filter fun c => decide (getF d (F.MED_DIE_POP_POP c) ≠ 0)).map fun c =>
      (bitList 32 (getF d (F.MED_DIE_RSV_RSV c))).length)
  | 2 => least ((gaugedDies d).map fun x => (headOf d x).toNat)
  | 3 => least ((gaugedDies d).map (lifeOf d))
  | 4 => least (d.ntr.data_.map fun c => (32 - (d.ntr.weir.get {} c).remap.length) + (16 - d.grt.ppr.get 0 c))
  | 5 => some (if getF d F.NTR_SPARE_ACTIVE = 0 then 1 else 0)
  | 6 => some (if (List.range 16).all fun p => !flag d (F.FAB_CTL_ENABLE p) || !flag d (F.FAB_STS_SPARE_USED p) then 1 else 0)
  | 7 => some (mirrorSpares d)
  | 8 => some (getF d F.BSN_SF_SPARE_FREE)
  | _ => some (getF d F.GRT_SPARE_FREE)

/-- The event of a gauge's low water (R430, R440). -/
def gaugeEvent (k : Nat) : Nat := if k = 9 then 475 else 496 + k

/-- Update one gauge: its value, its LOW bit, and its event when it falls below LOW (R429, R430). -/
def gaugeUpdate (k : Nat) (d : Dev) : Dev :=
  match gauge d k with
  | none => d
  | some v =>
    let d := setF (F.SPR_GAUGE_VALUE k) v d
    let low := decide (v < getF d (F.SPR_LOW_LOW k))
    let bit : Fld := ⟨F.SPR_STS_LOW.addr, F.SPR_STS_LOW.lo + k, F.SPR_STS_LOW.lo + k⟩
    let was := flag d bit
    let d := setB bit low d
    if low && !was then raiseN (gaugeEvent k) v d else d

/-- Update every gauge. -/
def gaugesUpdate (d : Dev) : Dev := forEach (List.range 10) gaugeUpdate d

/-- Show the most worn data die; the first die that reaches the end of its rated life raises event 511 once (R434). -/
def wearUpdate (d : Dev) : Dev :=
  match leastBy (fun x => (lifeOf d x : Int)) (gaugedDies d) with
  | none => d
  | some x =>
    let v := lifeOf d x
    let d := setF F.SPR_WEAR_REMAIN v (setF F.SPR_WEAR_DIE x d)
    if v = 0 ∧ !d.spr.wornRaised then raiseN 511 x { d with spr := { d.spr with wornRaised := true } } else d

/-- Arm the data dies whose HEAD is below ENTER (R435): event 507 for each newly armed. -/
def dryArm (d : Dev) : Dev :=
  let arm := (gaugedDies d).filter fun x => decide (headOf d x < (getF d F.SPR_DRY_ENTER : Int))
  let new := arm.filter fun x => decide (x ∉ d.spr.armed)
  let d := setB F.SPR_STS_ARMED (decide (arm ≠ [])) { d with spr := { d.spr with armed := arm } }
  let d := setF F.SPR_STS_DIE ((leastBy (headOf d) (gaugedDies d)).getD 0) d
  forEach new (fun x d => raiseN 507 (x + (headOf d x).toNat * 65536) d) d

/-- Leave Dry (R438): every data die has HEAD at or above EXIT, and the partner shows no Dry of its own; event 509. -/
def dryExit (d : Dev) : Dev :=
  let high := (gaugedDies d).all fun x => decide ((getF d F.SPR_DRY_EXIT : Int) ≤ headOf d x)
  if d.glb.dry && high && (alone d || decide (getF d F.TWN_STS_PSTATE ≠ 9)) then
    raiseN 509 0 (setB F.SPR_STS_DRY false (onGlb (fun g => { g with dry := false }) d))
  else d

/-- Axolotl's part of a superframe boundary. -/
def sparingTick (d : Dev) : Dev :=
  let d := dryArm (wearUpdate (gaugesUpdate d))
  let d := if d.glb.dry then count 0xF00B d else d
  dryExit d

end Sys2Proof.Machine
end

