-- ==== Sys2Proof/Machine/Thermal.lean ====
section
/-!
DEFINITION. Thermal management (R384-R391): sensors and their failures, the warning level, the choice of the duty level (R386)
with the windows that lapse (R461), the trip (R388) and the start that is held (R389); and the reference clock's failure (R451).
-/
namespace Sys2Proof.Machine

/-- Change the thermal state. -/
def onThm (f : Thm → Thm) (d : Dev) : Dev := { d with thm := f d.thm }

/-- Whether a sensor has failed. -/
def sensorFailed (d : Dev) (k : Nat) : Bool := (getF d F.THM_FAIL_SENS).testBit k

/-! ## Sensors (R384, R385) -/

/-- Twice the median of 24 readings: the sum of the two in the middle. -/
def median2 (xs : List Int) : Int :=
  let s := sortKey (fun x : Int => (x + 4096).toNat) xs
  s.getD 11 0 + s.getD 12 0

/-- A reading as a signed number of 0.125 °C. -/
def readingOf (inp : TickIn) (k : Nat) : Int := (inp.sensors.getD k 0).toInt

/-- One sensor's conversion: its register and the checks of R385. -/
def sensorTick (inp : TickIn) (med2 : Int) (k : Nat) (d : Dev) : Dev :=
  let x := readingOf inp k
  let far := decide (640 < 2 * x - med2) || decide (2 * x - med2 < -640)
  let row := if far then d.thm.devRow.get 0 k + 1 else 0
  let d := setF (F.THM_SENS_TEMP k) (inp.sensors.getD k 0).toNat (onThm (fun t => { t with devRow := t.devRow.put 0 k row }) d)
  let bad := !inp.bistOk.getLsbD k || decide (x < -440) || decide (1200 < x) || decide (16 ≤ row)
  if bad && !sensorFailed d k then onThm (fun t => { t with due := insertNew k t.due }) d else d

/-- A reading below -40 °C raises event 455 as it is entered. -/
def coldTick (inp : TickIn) (k : Nat) (d : Dev) : Dev :=
  if readingOf inp k < -320 then
    (if k ∈ d.thm.coldSeen then d else raiseN 455 k (onThm (fun t => { t with coldSeen := k :: t.coldSeen }) d))
  else onThm (fun t => { t with coldSeen := t.coldSeen.filter fun i => i ≠ k }) d

/-- The hottest of the sensors that have not failed, the lowest number first (R384). -/
def hottest (d : Dev) (inp : TickIn) : Option Nat :=
  ((List.range 24).filter fun k => !sensorFailed d k && decide (k ∉ d.thm.due)).foldl (fun (b : Option Nat) k => match b with
    | none => some k
    | some m => if readingOf inp m < readingOf inp k then some k else some m) none

/-- A signed 12-bit value. -/
def bits12 (x : Int) : Nat := (BitVec.ofInt 12 x).toNat

/-- A threshold register's signed value. -/
def level12 (d : Dev) (f : Fld) : Int := (BitVec.ofNat 12 (getF d f)).toInt

/-- The warning level is entered and left (R390): event 448. -/
def warnTick (mx : Int) (d : Dev) : Dev :=
  let w := level12 d F.THM_LVL_WARN
  let held := flag d F.THM_STS_WARN
  if !held ∧ w ≤ mx then count 0xC010 (raiseN 448 (1 + bits12 mx * 2) (setB F.THM_STS_WARN true d))
  else if held ∧ mx < w - 24 then raiseN 448 (bits12 mx * 2) (setB F.THM_STS_WARN false d)
  else d

/-- The maximum of a tick takes effect (R384, R386, R388, R390). -/
def maxTick (k : Nat) (mx : Int) (d : Dev) : Dev :=
  let d := setF F.THM_STS_MAX (bits12 mx) (setF F.THM_STS_HOT k d)
  let d := if level12 d F.THM_PEAK_PEAK < mx then setF F.THM_PEAK_PEAK (bits12 mx) d else d
  let sf := sfTick d
  let d := onThm (fun t => { t with
    maxT := mx, hotRow := if level12 d F.THM_SHUT_SHUT ≤ mx then t.hotRow + 1 else 0
    sfMax := if 2031 < sf then t.sfMax else if sf = 0 then mx else max t.sfMax mx }) d
  warnTick mx d

/-- The sensor conversions of a tick. -/
def thermTick (inp : TickIn) (d : Dev) : Dev :=
  let med2 := median2 ((List.range 24).map (readingOf inp))
  let d := forEach (List.range 24) (fun k d => coldTick inp k (sensorTick inp med2 k d)) d
  match hottest d inp with
  | none => d
  | some k => maxTick k (readingOf inp k) d

/-- A sensor has failed (R385): excluded, event 452; the eighth forces level 15, event 453. -/
def sensorFails (k : Nat) (d : Dev) : Dev :=
  if k ∉ d.thm.due ∨ sensorFailed d k then d
  else
    let d := onThm (fun t => { t with due := t.due.filter fun i => i ≠ k }) d
    let d := raiseN 452 k (count 0xC011 (setF F.THM_FAIL_SENS (getF d F.THM_FAIL_SENS + 2 ^ k) d))
    let n := (bitList 24 (getF d F.THM_FAIL_SENS)).length
    if n = 8 then raiseN 453 n (setB F.THM_STS_FORCED true d) else d

/-- SENSOR_FAILURE (R385). -/
def execSensorFailure (k : Fin 24) (s : State) : Host.Outcome State Fault Refusal := runQ (sensorFails k.val) s

/-- THM_PEAK.CLR: PEAK takes the current maximum (R390). -/
def peakClear (d : Dev) : Dev := setF F.THM_PEAK_PEAK (bits12 d.thm.maxT) d

/-- THM_PEAK_CLR (R390). -/
def execThmPeakClr (p : SPort) (s : State) : Host.Outcome State Fault Refusal := runQ (viaPort p.val peakClear) s

/-! ## The duty level (R386, R387, R461) -/

/-- f of R386. -/
def levelFor (d : Dev) (x : Int) : Nat :=
  let th := level12 d F.THM_LVL_THROT
  if x < th then 0 else min 15 (1 + (x - th).toNat / getF d F.THM_CFG_STEP)

/-- The level of the next superframe (R385, R386). -/
def nextLevel (d : Dev) : Nat :=
  if flag d F.THM_STS_FORCED then 15
  else
    let t := d.thm.sfMax
    max (levelFor d t) (min (dutyLevel d) (levelFor d (t + 24)))

/-- Windows of the next superframe that do not exist at its level lapse and are bound again (R461). -/
def windowsLapse (l : Nat) (d : Dev) : Dev :=
  let next := (spos d / 2048 + 1) % 512
  let gone := d.sch.windows.filter fun w =>
    w.own && !w.issued && decide (sposAt d w.issue / 2048 = next) && decide (w.n / 2 % divOf d l ≠ 0)
  forEach gone (fun w d => readMissed w 2 d) d

/-- At tick 2,032 the next superframe's level is fixed (R44, R386). -/
def dutyLevelFix (d : Dev) : Dev :=
  if sfTick d ≠ 2032 ∨ !(serves d || decide (d.glb.base = .pairing)) then d
  else
    let l := nextLevel d
    windowsLapse l (setF F.SCH_SPOS_NEXT_LEVEL l d)

/-- DUTY_LEVEL_FIX (R386). -/
def execDutyLevelFix (s : State) : Host.Outcome State Fault Refusal := runQ dutyLevelFix s

/-- The fixed level takes effect (R44, R387): event 39, and 449 or 450 when it leaves or returns to 0. -/
def levelApplies (d : Dev) : Dev :=
  let old := dutyLevel d
  let new := getF d F.SCH_SPOS_NEXT_LEVEL
  let d := onSch (fun s => { s with lastLevel := old }) d
  if old = new then d
  else
    let d := setB F.THM_STS_THROT (decide (new ≠ 0)) (setF F.SCH_SPOS_LEVEL new d)
    let d := raiseN 39 (old + new * 16) d
    if old = 0 then raiseN 449 new d else if new = 0 then raiseN 450 0 d else d

/-! ## Trip and clock (R388, R389, R451) -/

/-- What a trip does by the device state (R388). -/
def tripActs (d : Dev) : Dev :=
  match d.glb.base with
  | .off | .shutdown => d
  | .withdrawn => railsDown upOrder d
  | .serving =>
    if alone d then shutdownAs true 5 d
    else shutdownAs false 5 { d with twn := { d.twn with hbStop := true } }
  | _ => shutdownAs false 5 d

/-- The detail record of a trip (R420): THM_STS and the 24 sensor readings, 12 bits each, packed from the lowest sensor up. -/
def tripDetail (d : Dev) : List (BitVec 8) :=
  bytesLE 4 (regGet d F.THM_STS_MAX.addr).toNat
    ++ bytesLE 36 ((List.range 24).foldl (fun a k => a + getF d (F.THM_SENS_TEMP k) * 2 ^ (12 * k)) 0)

/-- Two consecutive maxima at or above SHUT trip the device (R388); in the tick of an input failure the trip is only recorded. Of a twin in
a healthy pair the event reaches software through the Ledger alone (R391). -/
def thermalTrip (d : Dev) : Dev :=
  if d.thm.hotRow < 2 ∨ flag d F.THM_STS_TRIP ∨ d.glb.base = .off then d
  else
    let d := setB F.THM_STS_TRIP true d
    let arg := getF d F.THM_STS_HOT + bits12 d.thm.maxT * 32
    let d := if serves d && !alone d then raiseLedger 451 arg d else raiseN 451 arg d
    let d := ledDetail 451 (BitVec.ofNat 32 arg) (tripDetail d) d
    let inputTick := decide (d.glb.base = .shutdown) && decide (d.pwr.entry = d.glb.tick) && (decide (d.pwr.why = 1) || decide (d.pwr.why = 8))
    tripActs (if inputTick then d else onThm (fun t => { t with tripped := true }) d)

/-- THERMAL_TRIP (R388). -/
def execThermalTrip (s : State) : Host.Outcome State Fault Refusal := run thermalTrip s

/-- After a trip, step 1 reads sensors 22 and 23 once the boot rails qualify (R389): at 109 °C (872 units) or above the device
stays in Sequencing and reads again every 1,000 tk, event 454 once; else step 1 ends. -/
def startHold (t22 t23 : Int) (d : Dev) : Dev :=
  let boot := (upOrder.take 6).all fun r => decide (railState d r = 2) || decide (railState d r = 3)
  let due := match d.thm.heldAt with | none => true | some t => decide (t + 1000 ≤ d.glb.tick)
  if d.glb.base ≠ .sequencing ∨ !boot ∨ !d.thm.tripped ∨ !due then d
  else if 872 ≤ t22 ∨ 872 ≤ t23 then
    let raised := d.thm.heldRaised
    let d := onThm (fun t => { t with heldAt := some d.glb.tick, heldRaised := true }) d
    if raised then d else raiseN 454 (bits12 (max t22 t23)) d
  else step1End (onThm (fun t => { t with tripped := false, heldAt := none, heldRaised := false }) d)

/-- THERMAL_START_HOLD (R389). -/
def execThermalStartHold (t22 t23 : BitVec 12) (s : State) : Host.Outcome State Fault Refusal :=
  run (startHold t22.toInt t23.toInt) s

/-- REFCLK is absent or off frequency (R451): a serving device withdraws, a start stops. -/
def refclkFails (d : Dev) : Dev :=
  match d.glb.base with
  | .serving => withdraw false d
  | .sequencing | .loading | .recovering | .pairing => shutdownAs false 5 d
  | _ => d

/-- REFCLK_FAILURE (R451). -/
def execRefclkFailure (s : State) : Host.Outcome State Fault Refusal := run refclkFails s

end Sys2Proof.Machine
end

