-- ==== Sys2Proof/Machine/Startup.lean ====
section
/-!
DEFINITION. The start of a device (R334-R346): power, RESET_N, the ten steps, and Tadpole's end; with the Grotto's recovery
(R381), the keys (R255, R256), the image load (R316-R326), runnel load (R51), training and scanning of the media (R184, R201),
media recovery (R207) and the map rebuild (R232, R233).
-/
namespace Sys2Proof.Machine

/-- The step in progress. -/
def bootStep (d : Dev) : Nat := getF d F.GLB_BOOT_STS_STEP

/-- Whether a start stands at a step of Loading. -/
def loadingAt (d : Dev) (step : Nat) : Bool := decide (d.glb.base = .loading) && decide (bootStep d = step)

/-- Go on to a step. -/
def toStep (n : Nat) (d : Dev) : Dev := setF F.GLB_BOOT_STS_STEP n (onGlb (fun g => { g with stepStart := g.tick }) d)

/-! ## Power and reset (R334, R337, R343) -/

/-- Supply is applied from Off: a cold start begins in Sequencing (R334). After OFF or a trip the device stays Off (R366, R389). -/
def coldStart (vstbyOk : Bool) (d : Dev) : Dev :=
  if d.glb.base = .off ∧ !d.glb.standbyOnly ∧ vstbyOk ∧ flag d F.PWR_STS_VIN_OK ∧ !d.glb.resetLow then resetDev true d else d

/-- COLD_START (R334). -/
def execColdStart (vstbyOk : Bool) (s : State) : Host.Outcome State Fault Refusal := run (coldStart vstbyOk) s

/-- RESET_N is held low for a time; less than a tick is ignored (R334). A device in Withdrawn whose boot rails are down
starts from step 1 (R389). -/
def resetNLow (ticks : Nat) (d : Dev) : Dev :=
  if ticks = 0 then d
  else
    let d := onGlb (fun g => { g with resetLow := true }) d
    if d.glb.base = .off ∨ (d.glb.base = .withdrawn ∧ (List.range 6).any fun r => !(railOf d r).en) then onGlb (fun g => { g with base := .off, standbyOnly := false }) d
    else askWarmReset 1 d

/-- RESET_N (R343). -/
def execResetN (ticks : Nat) (s : State) : Host.Outcome State Fault Refusal := run (resetNLow ticks) s

/-- RESET_N is high again: a reset that was held begins step 2 (R343). -/
def resetNHigh (d : Dev) : Dev :=
  let d := onGlb (fun g => { g with resetLow := false }) d
  if d.glb.resetHold then beginStep2 d else d

/-- RESET_N_RELEASE (R343). -/
def execResetNRelease (s : State) : Host.Outcome State Fault Refusal := run resetNHigh s

/-- GLB_BOOT_CTL.RST from the port that holds SVC_LOCK (R334, R345). -/
def rst (p : Nat) (d : Dev) : Dev := if holdsLock d p ∧ d.glb.base ≠ .withdrawn then askWarmReset 2 d else d

/-- RST (R334). -/
def execRst (p : SPort) (s : State) : Host.Outcome State Fault Refusal := run (viaPort p.val (rst p.val)) s

/-- The supply is removed: everything volatile is lost and the device is Off (R337). -/
def powerRemoved (d : Dev) : Dev := onGlb (fun g => { g with base := .off, standbyOnly := false }) (resetDev true d)

/-- POWER_REMOVED (R337). -/
def execPowerRemoved (s : State) : Host.Outcome State Fault Refusal := run powerRemoved s

/-! ## Step 1 (R335, R347, R348) -/

/-- Give a boot rail its fused registers (R348). -/
def fuseRail (r : Nat) (f : RailFuse) (d : Dev) : Dev :=
  regSet (0xB00104 + 16 * r) f.warn (regSet (0xB00108 + 16 * r) f.fault (regSet (0xB0010C + 16 * r) f.ctl d))

/-- The first rail of a start is enabled once VIN is good and RESET_N high; TWIN_ROLE is sampled (R10, R335). -/
def sequencing (roleB : Bool) (fuses : List RailFuse) (d : Dev) : Dev :=
  if d.glb.base ≠ .sequencing ∨ !flag d F.PWR_STS_VIN_OK ∨ d.glb.resetLow
      ∨ ((List.range 16).any fun r => decide (railState d r ≠ 0)) then d
  else
    let d := setB F.TWN_STS_ROLE roleB (onGlb (fun g => { g with roleB := roleB }) d)
    bringUp (forEach (List.zip (List.range 6) fuses) (fun (e : Nat × RailFuse) d => fuseRail e.1 e.2 d) d)

/-- SEQUENCING (R335). -/
def execSequencing (roleB : Bool) (fuses : List RailFuse) (s : State) : Host.Outcome State Fault Refusal :=
  run (sequencing roleB fuses) s

/-! ## Step 2 (R335, R381) -/

/-- The top-image slot that ROOTCTR selects (R276). -/
def topSlot (d : Dev) : Option TopImg :=
  [0, 1].findSome? fun k => match d.grt.slots.get none k with
    | some t => if t.root = ctrNow d 0 then some t else none
    | none => none

/-- A retired way is taken out again at a start (R130). -/
def restoreWay (e : Nat × Nat) (d : Dev) : Dev :=
  let s := sfGet d true e.1
  let d := sfPut true e.1 { s with ways := s.ways.put {} e.2 { retired := true } } d
  if s.spareUsed then
    (if s.short then d else addSat F.BSN_SF_SPARE_SHORT 1 (sfPut true e.1 { sfGet d true e.1 with short := true } d))
  else setF F.BSN_SF_SPARE_FREE (getF d F.BSN_SF_SPARE_FREE - 1) (sfPut true e.1 { sfGet d true e.1 with spareUsed := true } d)

/-- A recorded near-tier row is repaired at a cold start while its channel has repair rows left (R172). -/
def repairRow (e : Nat × Nat) (d : Dev) : Dev :=
  if getF d F.GLB_BOOT_STS_LAST_START = 0 ∧ d.grt.ppr.get 0 e.1 < 16 then
    onGrt (fun g => { g with ppr := g.ppr.put 0 e.1 (g.ppr.get 0 e.1 + 1), rows := g.rows.filter fun x => x ≠ e }) d
  else d

/-- What the Grotto gives the registers and the Ledger at a start (R130, R172, R234, R311, R340, R362, R420). -/
def grottoGives (d : Dev) : Dev :=
  let d := match topSlot d with | none => d | some t => setF F.XLT_AGE_NOW_AGE t.age d
  let d := regSet F.PWR_SPW_LAST_TICKS.addr d.grt.spwLast (setF F.GLB_TADPOLE_EPOCHS d.grt.tadpole d)
  let d := keepPartner d.grt.partner d
  let d := forEach d.grt.rows repairRow (forEach d.grt.sfWays restoreWay d)
  { d with obs := { d.obs with nextSeq := ((d.obs.area ++ d.obs.buf).map fun r => r.seq).foldl max 0 + 1 } }

/-- Step 2 (R335, R381): an interrupted Grotto operation is finished, the boot counter rises. Lost counters, a bad sector map
or a Grotto protected at level 3 stop the start (R378). What the scan finds is a free value (log entry 79). -/
def grottoStep (d : Dev) : Dev :=
  let scan : GrtScan := let s := Config.grottoScan d.free; { mapOk := s.1, weak := s.2.1, bad := s.2.2 }
  if !loadingAt d 2 then d
  else
    let d := { d with free := d.free + 1 }
    if !grottoOk (grottoScan scan d) || grtRefuses d 0 then stepWithdraws 2 2 (grottoScan scan d)
    else
      let d := grottoRecover scan (grottoScan scan d)
      let d := grtInc (if getF d F.GLB_BOOT_STS_LAST_START = 0 then 3 else 4) d
      toStep 3 (grottoGives d)

/-- GROTTO_RECOVERY (R381). -/
def execGrottoRecovery (s : State) : Host.Outcome State Fault Refusal := run grottoStep s

/-! ## Step 3 (R255, R256, R335) -/

/-- The fuse slots as read, a fuse blown earlier reading as blown (R325). -/
def readFuses (fuses : List FuseSlot) (d : Dev) : List FuseSlot :=
  (List.zip (List.range 4) fuses).map fun (e : Nat × FuseSlot) =>
    { e.2 with revoked := e.2.revoked || ((d.glb.fuses.getD e.1 {}).revoked && !d.glb.unblown.getLsbD e.1) }

/-- The bits of a flag of each slot. -/
def slotBits (f : FuseSlot → Bool) (l : List FuseSlot) : Nat :=
  (List.zip (List.range 4) l).foldl (fun a (e : Nat × FuseSlot) => if f e.2 then a + 2 ^ e.1 else a) 0

/-- Show the fuse slots. -/
def showFuses (d : Dev) : Dev :=
  setF F.GLB_FUSE_KEYS_PROG (slotBits (fun x => x.programmed) d.glb.fuses)
    (setF F.GLB_FUSE_KEYS_REVOKED (slotBits (fun x => x.revoked) d.glb.fuses) d)

/-- The identity hash's low 64 bits (R328). -/
def idHash64 : Word64 := (Config.sha384 Config.identityKey).truncate 64

/-- Step 3 (R335): fuses read, keys unwrapped; while the entropy source fails, Loading waits (R256). -/
def keyUnwrap (fuses : List FuseSlot) (ok entropyOk : Bool) (d : Dev) : Dev :=
  if !loadingAt d 3 then d
  else if !ok ∨ d.grt.keyLost then stepWithdraws 3 3 d
  else
    let d := showFuses (onGlb (fun g => { g with fuses := readFuses fuses d, unblown := 0, idHash := idHash64 }) d)
    let d := setPair F.GLB_IDHASH_LO_ID F.GLB_IDHASH_HI_ID idHash64.toNat d
    if !entropyOk then toStep 3 (if flag d F.SLU_ENT_FAIL ∧ !flag d F.SLU_ENT_HEALTH_OK then d else entropyFails d)
    else
      let d := setB F.SLU_ENT_HEALTH_OK true d
      toStep 4 (if d.slu.keyState.get .free 0 = .free then drawKey 0 d else d)

/-- KEY_UNWRAP (R335). -/
def execKeyUnwrap (fuses : List FuseSlot) (ok : Bool) (entropyOk : Bool) (s : State) : Host.Outcome State Fault Refusal :=
  run (keyUnwrap fuses ok entropyOk) s

/-! ## Step 4 (R316-R326, R335) -/

/-- A copy's reason field. -/
def rsnFld (copyB : Bool) : Fld := if copyB then F.GLB_IMG_STS_B_RSN else F.GLB_IMG_STS_A_RSN

/-- A copy is rejected: its reason, event 8. -/
def rejectCopy (copyB : Bool) (rsn : Nat) (d : Dev) : Dev :=
  raiseN 8 (rsn + if copyB then 16 else 0) (setF (rsnFld copyB) rsn d)

/-- A region's registers from its record (R322, R326). -/
def loadRegion (r : Nat) (x : RegionRec) (d : Dev) : Dev :=
  let d := setB (F.GLB_RGN_CTL_VALID r) x.valid (setB (F.GLB_RGN_CTL_WP r) x.wp d)
  let d := setF (F.GLB_RGN_CTL_ACK r) x.ack.toNat (setF (F.GLB_RGN_CTL_KEYID r) x.keyid.toNat d)
  let d := setF (F.GLB_RGN_FIRST_SEG r) x.first.toNat (setF (F.GLB_RGN_NSEG_SEG r) x.nseg.toNat d)
  setPair (F.GLB_RGN_ACC_LO_ACC r) (F.GLB_RGN_ACC_HI_ACC r) x.access.toNat d

/-- A word of the thresholds section: the RWL fields of its register (R326). -/
def loadThreshold (e : Nat × Word) (d : Dev) : Dev :=
  match regRow e.1 with
  | none => d
  | some row => regSet e.1 ((regGet d e.1 &&& ~~~row.rwl) ||| (e.2 &&& row.rwl)) d

/-- Registers that the geometry, near-tier, rail and die-slot sections set. -/
def loadSections (copyB : Bool) (i : Image) (d : Dev) : Dev :=
  let d := setF F.SCH_IMG_PHASE_SF i.phaseSf.toNat (setB F.SCH_IMG_COPY copyB d)
  let d := forEach (List.zip (List.range 44) i.runnels) (fun (e : Nat × RunnelSect) d => setF (F.SCH_WC_WC e.1) ((runnelWc i e.1 e.2).getD 0) d) d
  let d := setF F.XLT_CFG_NCH i.nch (setF F.XLT_CFG_PD i.pd (setF F.XLT_CFG_CIST i.cist (setF F.XLT_CFG_OP i.op d)))
  let d := setF F.MED_CFG_PFMODE i.pfMode.toNat d
  let d := setF F.NTR_CFG_RATE i.ntRate.toNat (setF F.NTR_CFG_DENS i.ntDens.toNat (setB F.NTR_CFG_G2 i.ntG2 d))
  let d := forEach (List.zip (List.range 5) i.ntRegions) (fun (e : Nat × Nat × Nat) d =>
    setF (F.NTR_RGN_BASE e.1) e.2.1 (setF (F.NTR_RGNSZ_SIZE e.1) e.2.2 d)) d
  let d := setF F.NTR_LEAF_NSETS i.nsets (setF F.NTR_POOL_NPOOL i.npool d)
  forEach (List.zip (List.range 16) i.railPg) (fun (e : Nat × BitVec 14) d => setF (F.PWR_RAIL_CTL_PG_TMO e.1) e.2.toNat d) d

/-- Routing and bounds (R253, R412). -/
def loadRouting (i : Image) (d : Dev) : Dev :=
  let d := forEach (List.zip (List.range 512) i.routes) (fun (e : Nat × Word) d => regSet (0x201000 + 4 * e.1) e.2 d) d
  let d := forEach (List.zip (List.range 15) i.asets) (fun (e : Nat × Word64) d =>
    setPair (F.EVT_ASET_LO_AGENTS e.1) (F.EVT_ASET_HI_AGENTS e.1) e.2.toNat d) d
  { d with obs := { d.obs with bounds := i.bounds.foldl (fun m e => m.put 0 e.1 e.2) [] } }

/-- The sections of a copy that passed every check are copied to their stores; the keys its regions name are generated (R256,
R323, R326, R378). -/
def loadImage (copyB : Bool) (f : Flash) (i : Image) (d : Dev) : Dev :=
  let d := setF (rsnFld copyB) 1 (setF F.GLB_IMG_STS_LOADED (if copyB then 2 else 1) (setF F.GLB_IMG_STS_RDMODE f.rdMode.toNat d))
  let d := setF F.GLB_IMG_VER_VERSION i.version.toNat (setF F.GLB_IMG_ID_PAIRVER i.pairver.toNat (setF F.GLB_IMG_ID_SLOT i.keySlot.toNat d))
  let d := setPair F.GLB_IMG_BUILD_LO_BUILD F.GLB_IMG_BUILD_HI_BUILD i.build.toNat (onGlb (fun g => { g with image := some i }) d)
  let d := loadSections copyB i (forEach i.thresholds loadThreshold d)
  let d := loadRouting i (forEach (List.zip (List.range 64) i.regions) (fun (e : Nat × RegionRec) d => loadRegion e.1 e.2 d) d)
  let d := if i.grtBp.toNat < d.grt.protect then showProtect (onGrt (fun g => { g with protect := i.grtBp.toNat }) d) else d
  let d := forEach (regionKeys d) (fun k d => if d.slu.keyState.get .free k = .free then drawKey k d else d) d
  toStep 5 d

/-- Whether an image names a key ID that is FREE. -/
def namesFreeKey (i : Image) (d : Dev) : Bool :=
  i.regions.any fun r => r.valid && decide (d.slu.keyState.get .free r.keyid.toNat = .free)

/-- Try one copy: load it, wait for the entropy source (R256), or reject it with its reason (R323). -/
def tryCopy (copyB : Bool) (f : Flash) (d : Dev) : Dev :=
  let c := if copyB then f.copyB else f.copyA
  match copyReason c d with
  | some rsn => rejectCopy copyB rsn d
  | none => if namesFreeKey c.img d && !flag d F.SLU_ENT_HEALTH_OK then d else loadImage copyB f c.img d

/-- Both copies rejected: Withdrawn (R323, R335). -/
def bothRejected (d : Dev) : Dev :=
  if 2 ≤ getF d F.GLB_IMG_STS_A_RSN ∧ 2 ≤ getF d F.GLB_IMG_STS_B_RSN then stepWithdraws 4 4 d else d

/-- Step 4 (R317, R323): copy A, then copy B when A is rejected. -/
def imageVerify (f : Flash) (d : Dev) : Dev :=
  if !loadingAt d 4 then d
  else if !f.sfdpOk ∨ f.mib < 64 ∨ f.rdMode = 3 then bothRejected (rejectCopy true 2 (rejectCopy false 2 d))
  else
    let d := if getF d F.GLB_IMG_STS_A_RSN = 0 then tryCopy false f d else d
    let d := if 2 ≤ getF d F.GLB_IMG_STS_A_RSN ∧ getF d F.GLB_IMG_STS_B_RSN = 0 then tryCopy true f d else d
    bothRejected d

/-- IMAGE_VERIFY (R323). -/
def execImageVerify (flash : Flash) (s : State) : Host.Outcome State Fault Refusal := run (imageVerify flash) s

/-- A read command of the flash does not complete: the copy being read is rejected with reason 0xC (R317). -/
def flashTimeout (copyB : Bool) (d : Dev) : Dev :=
  if !loadingAt d 4 ∨ getF d (rsnFld copyB) ≠ 0 ∨ (copyB ∧ getF d F.GLB_IMG_STS_A_RSN < 2) then d
  else bothRejected (rejectCopy copyB 0xC d)

/-- FLASH_READ_TIMEOUT (R317). -/
def execFlashReadTimeout (copyB : Bool) (s : State) : Host.Outcome State Fault Refusal := run (flashTimeout copyB) s

/-! ## Step 5 (R51, R63, R335) -/

/-- Loading ends: events held since the start are routed with their own ticks (R323, R335, R408), and gauges already low raise
their events (R430). -/
def routingLoads (d : Dev) : Dev :=
  let held := d.glb.held
  let d := onGlb (fun g => { g with routingLoaded := true, held := [] }) d
  gaugesUpdate (forEach held (fun e d => (routeEvt e.evnum e.tick e.arg d).1) d)

/-- The engines that carry the logical runnels: the lowest that are not retired (R51). -/
def loadEngines (d : Dev) : List Nat := (List.range 48).filter fun e => decide (e ∉ d.grt.engines)

/-- A logical runnel is loaded onto an engine (R51-R53, R63). -/
def loadRunnel (n phys : Nat) (d : Dev) : Dev :=
  let s := sectOf d n
  let d := setF (F.SCH_MAP_PHYS n) phys (setF (F.SCH_MAP_ROLE n) s.role.toNat (setB (F.SCH_MAP_VALID n) true d))
  onRunnel n (fun _ => { st := .idle, pc := s.recovery, instr := bundlesOf s, core := { data := s.data.foldl (fun m e => m.put 0 e.1 e.2) [] } }) d

/-- Step 5 (R51, R335): runnels are mapped and loaded, event 32; Loading ends and step 6 begins. -/
def runnelLoad (d : Dev) : Dev :=
  if !loadingAt d 5 then d
  else
    let es := loadEngines d
    if es.length < 44 then stepWithdraws 5 5 d
    else
      let d := forEach (List.zip (List.range 44) es) (fun (e : Nat × Nat) d => loadRunnel e.1 e.2 d) d
      let d := setB F.SCH_WARDEN_LOCKSTEP_OK true (showRetired (setF F.SCH_SPARE_FREE (es.length - 44) d))
      let d := routingLoads (raiseFree 32 d)
      bankStart (bringUp (toStep 6 (onGlb (fun g => { g with base := .recovering }) d)))

/-- RUNNEL_LOAD (R51). -/
def execRunnelLoad (s : State) : Host.Outcome State Fault Refusal := run runnelLoad s

/-! ## Step 6: media and near tier (R160, R172, R184, R201, R207, R335) -/

/-- A start in step 6. -/
def recoveringAt6 (d : Dev) : Bool := decide (d.glb.base = .recovering) && decide (bootStep d = 6)

/-- Every rail of step 6 is in regulation. -/
def mediaRailsUp (d : Dev) : Bool := (upOrder.drop 6).all fun r => decide (railState d r = 2) || decide (railState d r = 3)

/-- The populated positions of a channel: its data positions and its reserves above them (R22, R212). -/
def populated (d : Dev) : Nat := getF d F.XLT_CFG_PD + reservesFor (getF d F.XLT_CFG_PD)

/-- A channel is trained: its rate, its dies, the reserves not yet brought in (R184, R212). -/
def chanTrained (c : Nat) (d : Dev) : Dev :=
  let ch := chanOf d c
  let used (p : Nat) : Bool := ch.failed.getLsbD p || (ch.subst.any fun e => decide (e.2 = p) && decide (e.1 ≠ p))
  let rsv := ((List.range (populated d)).filter fun p => decide (getF d F.XLT_CFG_PD ≤ p) && !used p).foldl (fun a p => a + 2 ^ p) 0
  let d := setF (F.MED_CH_STS_STATE c) 2 (setF (F.MED_CH_STS_RATE c) ((img d).rates.getD c 0).toNat d)
  setF (F.MED_DIE_POP_POP c) (2 ^ populated d - 1) (setF (F.MED_DIE_FAIL_FAIL c) ch.failed.toNat (setF (F.MED_DIE_RSV_RSV c) rsv d))

/-- The dies of a channel that are trained: the populated positions that have not failed. -/
def trainedDies (c : Nat) (d : Dev) : List Nat := (List.range (populated d)).filter fun p => !(chanOf d c).failed.getLsbD p

/-- The commands of one training (R182, R189): Reset, Read ID, Read Parameter Page and Set Features to each die in SDR mode, the query of
the extension where the rate needs it, and ZQ calibration. The die leaves SDR mode with Set Features. A repeated training starts
from Reset (log entry 78). -/
def trainCommands (c : Nat) (ext : Bool) (d : Dev) : Dev :=
  let ps := trainedDies c d
  let n := ps.length
  let k (i : Nat) := 0x7000 + 18 * c + i
  let d := countN (k 4) n (countN (k 3) (if ext then 2 * n else n) (countN (k 2) (2 * n) (countN (k 0) n d)))
  onChan c (fun x => { x with ddr := ps.foldl (fun m p => m ||| (1 <<< p)) 0, lastVol := [] }) d

/-- Whether a training passed (R184): within 50,000 tk, every ONFI step, and for code 0x4 the extension's four. -/
def trainPassed (ext : Bool) (r : TrainRun) (x : TrainExt) : Bool :=
  decide (r.ticks ≤ 50000) && decide (r.steps = 15)
    && (!ext || (decide (x.deskew = 3) && x.duty && decide (x.eyeIn = 0) && decide (x.eyeOut = 0)))

/-- The training of a channel ends (R182, R184): tried again twice; a third failure, or a die that does not return EXT_VAL at EXT_FEAT
where code 4 needs the extension, fails the channel, cause 0x7. -/
def channelTraining (c : Nat) (r : TrainRun) (x : TrainExt) (d : Dev) : Dev :=
  if !recoveringAt6 d ∨ !mediaRailsUp d ∨ getF d F.XLT_CFG_NCH ≤ c ∨ 2 ≤ getF d (F.MED_CH_STS_STATE c) then d
  else
    let ext := decide ((img d).rates.getD c 0 = 4)
    let lacks := ext && (trainedDies c d).any fun p => decide (x.ext.getD p 0 ≠ (img d).dieOps.extVal)
    let d := trainCommands c ext d
    if trainPassed ext r x && !lacks then chanTrained c d
    else
      let d := onChan c (fun x => { x with tries := x.tries + 1 }) (setF (F.MED_CH_STS_STATE c) 1 d)
      if lacks ∨ 3 ≤ (chanOf d c).tries then
        stepWithdraws 6 6 (medEvent c 7 0 0 0 (setB (F.MED_ERR_TRAIN_FAIL c) true (setF (F.MED_CH_STS_STATE c) 3 d)))
      else d

/-- CHANNEL_TRAINING (R184). -/
def execChannelTraining (ch : Fin 64) (r : TrainRun) (x : TrainExt) (s : State) : Host.Outcome State Fault Refusal :=
  run (channelTraining ch.val r x) s

/-- Blocks of a plane, as many as a die's stripe table has entries (R217). -/
def blocksPerPlane : Nat := 11264

/-- The die that a physical position of a channel stands for: the index it was brought in at, else its own position. -/
def dieAt (d : Dev) (c p : Nat) : Nat :=
  match (chanOf d c).subst.find? fun e => decide (e.2 = p) with
  | some e => c * 32 + e.1
  | none => c * 32 + p

/-- Every populated die of the channels has a defect record (R201). -/
def allScanned (d : Dev) : Bool :=
  (List.range (getF d F.XLT_CFG_NCH)).all fun c => (List.range (populated d)).all fun p =>
    (chanOf d c).failed.getLsbD p || (dieOf d (dieAt d c p)).hasRecord

/-- A die without a record is scanned (R201, R217): factory-bad blocks, stripes formed from the k-th good blocks, the left-over
ones spare. More than 281 bad blocks in a plane fail the die (R200). -/
def factoryScan (c p : Nat) (bad : List (BitVec 2 × BitVec 14)) (d : Dev) : Dev :=
  let x := dieAt d c p
  if !recoveringAt6 d ∨ getF d (F.MED_CH_STS_STATE c) ≠ 2 ∨ populated d ≤ p ∨ (dieOf d x).hasRecord then d
  else
    let bs : List (Nat × Nat) := bad.map fun b => (b.1.toNat, b.2.toNat)
    let good (pl : Nat) := (List.range blocksPerPlane).filter fun b => decide ((pl, b) ∉ bs)
    let gs := (List.range 4).map good
    let n := (gs.map List.length).foldl min blocksPerPlane
    let stripes : SMap Stripe := (List.range n).map fun k => (k, { blk := gs.map fun g => g.getD k 0 })
    let spares := (List.zip (List.range 4) gs).flatMap fun (e : Nat × List Nat) => (e.2.drop n).map fun b => (e.1, b)
    let d := onDie x (fun y => { y with bad := bs, hasRecord := true, stripes := stripes, spares := spares }) d
    let d := countN (0x7000 + 18 * c + 6) (8 * blocksPerPlane) (countN (0x7000 + 18 * c + 7) (8 * blocksPerPlane) d)
    let worst := ((List.range 4).map fun pl => (bs.filter fun b => decide (b.1 = pl)).length).foldl max 0
    let d := if 281 < worst then dieFails x 0 0 d else d
    setB F.MED_CFG_SCAN_DONE (allScanned d) d

/-- FACTORY_SCAN (R201). -/
def execFactoryScan (ch : Fin 64) (die : BitVec 5) (bad : List (BitVec 2 × BitVec 14)) (s : State) :
    Host.Outcome State Fault Refusal := run (factoryScan ch.val die.toNat bad) s

/-- The near-tier channels of the populated groups (R160). -/
def ntChannels (d : Dev) : List Nat := List.range (if flag d F.NTR_CFG_G2 then 48 else 32)

/-- The near tier after its training (R160, R173, R181): data and spare channels; a channel that did not train raises cause 0x4 and
fails. -/
def nearTierUp (trained : BitVec 48) (d : Dev) : Dev :=
  let spare := (ntChannels d).filter fun c => decide (c % 16 = 15)
  let data := (ntChannels d).filter fun c => decide (c % 16 ≠ 15)
  let d := onNtr (fun n => { n with data_ := data, spare := spare }) d
  let d := forEach data (fun c d => setF (F.NTR_CH_STATE c) 1 d) (forEach spare (fun c d => setF (F.NTR_CH_STATE c) 2 d) d)
  forEach ((ntChannels d).filter fun c => !trained.getLsbD c) (fun c d => if d.glb.base = .withdrawn then d else channelFail c (raiseN (192 + c) 4 d)) d

/-- A near-tier row recorded in the Grotto and not repaired is redirected again (R172). -/
def restoreRow (e : Nat × Nat) (d : Dev) : Dev :=
  match borrowRow d e.1 with
  | none => channelFail e.1 d
  | some r => enterRemap e.1 e.2 r (framesOut (framesOfRow d e.1 (r % 16) (r / 16)) d)

/-- The top image (R276, R362, R364): a flush that stopped before its commit point is reported and its images dropped; without
a slot that verifies under ROOTCTR the device holds no usable copy (R233). -/
def topImageLoad (topOk : Bool) (d : Dev) : Dev :=
  let torn : Bool := match d.grt.flushTag with | none => false | some t => decide (ctrNow d 0 ≠ t)
  let slot := topSlot d
  let held := slot.isSome || (decide (ctrNow d 0 = 0) && decide (d.grt.slots = []))
  let d := onGrt (fun g => { g with flushTag := none }) d
  let d := if torn then
      let f := drawFree d
      let d := raiseN 438 0 (setB F.PWR_ERR_FLUSH_TORN true f.2)
      let d := setF F.PWR_SPW_LAST_END 4 (setF F.PWR_SPW_LAST_TICKS (f.1.toNat % 2 ^ 20) d)
      onGrt (fun g => { g with spwLast := regGet d F.PWR_SPW_LAST_TICKS.addr }) (onXlt (fun x => { x with images := [], flush := [] }) d)
    else d
  let d := match slot with
    | some { rekey := some (w, cur, pend), .. } =>
      setF F.SLU_REKEY_PEND_COUNT pend (setCursor cur (regSet F.SLU_REKEY_BUSY.addr (BitVec.ofNat 32 w) d))
    | _ => d
  if torn ∨ !topOk ∨ !held then onTwn (fun t => { t with rebuilt := false }) d else d

/-- One block's recovery (R200, R207). -/
def recoverBlock (s : DieScan) (d : Dev) : Dev :=
  let x := s.die.toNat
  let pl := s.plane.toNat
  let b := s.block.toNat
  let p := physPos d x
  let drop (y : Die) : Die := { y with open_ := y.open_.filter fun o => !(decide (o.plane = pl) && decide (o.block = b)) }
  let d := whenD (!pairedMode d || !s.eraseUnfinished) (count (0x7000 + 18 * (x / 32) + 6)) d
  if !s.idOk then dieFails x pl b d
  else if s.eraseUnfinished then
    let d := onDie x (fun y => { drop y with notErased := insertNew (pl, b) y.notErased }) d
    if pairedMode d then d else medEvent (x / 32) 8 p pl b d
  else
    let d := onDie x drop d
    let erased := reportsErased d s.nextZeros
    let d := if pairedMode d then whenD erased (count (0x7000 + 18 * (x / 32) + 16)) d else d
    let open_ := if pairedMode d then erased else decide (s.complete ≤ s.nwl)
    if open_ then onDie x (fun y => { y with open_ := y.open_ ++ [⟨pl, b, s.native, s.nwl⟩] }) d
    else
      let d := medEvent (x / 32) 9 p pl b d
      match stripeAt (dieOf d x) pl b with
      | none => d
      | some e => if pairedMode d then onStripe x e.1 (fun y => { y with verified := min y.verified (s.nwl - 1) }) d else d

/-- The rest of step 6 (R160, R172, R207, R276): near tier, rows, top image, media recovery die by die. -/
def mediaRecovery (trained : BitVec 48) (topOk : Bool) (dies : List DieScan) (d : Dev) : Dev :=
  if !recoveringAt6 d ∨ !mediaRailsUp d ∨ !allScanned d
      ∨ !((List.range (getF d F.XLT_CFG_NCH)).all fun c => decide (getF d (F.MED_CH_STS_STATE c) = 2)) then d
  else
    let d := forEach d.grt.rows restoreRow (nearTierUp trained (setB F.MED_CFG_SCAN_DONE true d))
    if d.glb.base = .withdrawn then stepFails 6 7 d
    else
      let d := forEach dies recoverBlock (topImageLoad topOk d)
      let grown := (d.med.dies.map fun e => e.2.grown.length).sum
      let d := setPair F.MED_GDT_LO_COUNT F.MED_GDT_HI_COUNT grown { d with med := { d.med with recovered := true } }
      if d.glb.base = .recovering then toStep 7 d else d

/-- MEDIA_RECOVERY (R207). -/
def execMediaRecovery (trained : BitVec 48) (topOk : Bool) (dies : List DieScan) (s : State) :
    Host.Outcome State Fault Refusal := run (mediaRecovery trained topOk dies) s

/-! ## Step 7 (R227, R232, R233, R335) -/

/-- The anchor's checkpoint and the map pages in media become the tables (R215, R232 step 1). -/
def loadCheckpoint (c : Nat) (d : Dev) : Dev :=
  let j := journalOf d c
  let d := onXlt (fun x => { x with segs := j.ckSegs.foldl (fun m e => m.put {} e.1 e.2) x.segs }) d
  let d := forEach j.ckStripes (fun e d => onDie (e.1 / 16384) (fun y => { y with
    stripes := y.stripes.put {} (e.1 % 16384) e.2 }) d) d
  let ps := (d.xlt.pages.filter fun e => decide (dieOfOrdinal d e.1 / 32 = c) && (d.xlt.segs.get {} e.1).mvalid)
  onXlt (fun x => { x with map := ps.foldl (fun m e => e.2.ents.foldl (fun m v => m.put sentinel v.1 v.2) m) x.map }) d

/-- One record of the replay (R232 step 3): a LEAF record older than its map page moves VALID only. -/
def replayRecord (c : Nat) (r : Nat × JRec) (d : Dev) : Dev :=
  match r.2 with
  | .leaf l pa =>
    let page := match ordinalOf d l with | none => 0 | some e => (d.xlt.pages.get {} e).jseq
    if page < r.1 then applyRecord c r.1 r.2 d
    else match paStripe d pa with
      | none => d
      | some s => moveValid r.1 (paDie pa) s true d
  | _ => applyRecord c r.1 r.2 d

/-- A channel's rebuild (R232, R233): event 321 when it fails, 322 when a partly written page ends its replay. Without an anchor
there is nothing to rebuild from; a device that has never been in a pair holds nothing. -/
def rebuildChannel (failed torn : List Nat) (c : Nat) (d : Dev) : Dev :=
  let j := journalOf d c
  if c ∈ failed ∨ ((j.anchor.isNone ∨ d.grt.structLost) ∧ 0 < getF d F.TWN_PEPOCH_EPOCH) then
    raiseN 321 c (setB F.XLT_ERR_REPLAY_FAIL true (onTwn (fun t => { t with rebuilt := false }) d))
  else
    let recs := (j.media.filter fun r => decide (j.anchor.getD 0 ≤ r.1))
      ++ (d.xlt.flush.filter fun r => decide (r.1 = c)).map fun r => r.2
    let d := forEach recs (replayRecord c) (loadCheckpoint c d)
    let d := onJournal c (fun j => { j with seq := (recs.map fun r => r.1).foldl max (j.anchor.getD 0) + 1 }) d
    if c ∈ torn then raiseN 322 c (setB F.XLT_ERR_REPLAY_TORN true d) else d

/-- The flushed leaves come back as dirty lines (R227). -/
def reload (e : Nat × List LineRec) (d : Dev) : Dev :=
  let d := (allocFrame e.1 d).getD d
  let d := forEach (List.zip (List.range 64) e.2) (fun (z : Nat × LineRec) d =>
    putLine (e.1 * 64 + z.1) { z.2 with valid := true, minor := max 1 z.2.minor } d) d
  onXlt (fun x => { x with reloaded := insertNew e.1 x.reloaded }) d

/-- The counter lines and nodes whose node pages lie in the flush's stripes are read into the near tier again, to be written to USE 1
stripes before the flush's are released (R227, R273). -/
def reloadNodes (d : Dev) : Dev :=
  let used : List (Nat × Nat) := match topSlot d with | none => [] | some t => t.stripes
  let here (pa : Nat) : Bool := match paStripe d pa with | none => false | some s => decide ((paDie pa, s) ∈ used)
  forEach (d.slu.nodeDir.filter fun e => here e.2.1 || here e.2.2) (fun e d =>
    match (let p := d.slu.nodePages.get {} e.2.1; (List.zip p.keys p.vals).find? fun z => decide (z.1 = e.1)) with
    | none => d
    | some z => onSlu (fun s => { s with near := s.near.insert z.1 z.2, shadows := s.shadows.insert z.1 z.2 }) d) d

/-- The USE 2 stripes the committed flush wrote are held until their leaves are destaged (R338). -/
def holdFlushed (d : Dev) : Dev :=
  match topSlot d with
  | none => d
  | some t => forEach t.stripes (fun e d => onStripe e.1 e.2 (fun s => { s with st := 5, use := 2, nwl := max 1 s.nwl }) d) d

/-- A data die without an open USE 2 stripe opens one (R218, R227): its erase takes place within the step. -/
def openFlush (x : Nat) (d : Dev) : Dev :=
  if (flushStripe d x).isSome then d
  else match freeStripe d x with
    | none => d
    | some s =>
      let blocks := (List.zip (List.range 4) s.2.blk).map fun (b : Nat × Nat) => ({ plane := b.1, block := b.2, native := false } : OpenBlk)
      let d := onDie x (fun y => { y with open_ := y.open_ ++ blocks }) (stripeTo x s.1 3 2 0 d)
      onStripe x s.1 (fun y => { y with erases := min 65535 (y.erases + 1) }) d

/-- A stripe the journal shows open whose blocks recovery closed is closed (R207). -/
def closeTorn (x : Nat) (d : Dev) : Dev :=
  forEach (stripesIn d x fun s => (decide (s.st = 2) || decide (s.st = 3)) && decide (s.use ≠ 2)) (fun s d =>
    let open_ := (List.zip (List.range 4) s.2.blk).all fun (b : Nat × Nat) =>
      (dieOf d x).open_.any fun o => decide (o.plane = b.1) && decide (o.block = b.2)
    if open_ then d else stripeTo x s.1 (if s.2.st = 2 then 4 else 5) s.2.use 9 d) d

/-- The counted leaves of every index (R431). -/
def countLeaves (d : Dev) : Dev :=
  forEach (d.xlt.map.map (fun e => e.1) ++ d.xlt.reloaded) (fun l d => onDie (dieOfLeaf d l) (fun y => { y with nLeaves := insertNew l y.nLeaves }) d) d

/-- Step 7 (R227, R232, R233, R335): every channel rebuilt, event 320, flushed leaves reloaded; the device enters Pairing and
trains its links. Without a usable copy it pairs as a target. -/
def mapRebuild (failed torn : List Nat) (d : Dev) : Dev :=
  if d.glb.base ≠ .recovering ∨ bootStep d ≠ 7 then d
  else
    let d := forEach (List.range (getF d F.XLT_CFG_NCH)) (rebuildChannel failed torn) d
    let d := if d.twn.rebuilt then
        let d := raiseN 320 0 (countLeaves (forEach d.xlt.images reload (reloadNodes (holdFlushed d))))
        forEach (dataDies d) (fun x d => openFlush x (closeTorn x d)) d
      else d
    let d := dryArm (onXlt (fun x => { x with flush := [] }) d)
    hsBegin (trainAll (toStep 8 (onGlb (fun g => { g with base := .pairing }) d)))

/-- MAP_REBUILD (R232). -/
def execMapRebuild (failed torn : List (BitVec 6)) (s : State) : Host.Outcome State Fault Refusal :=
  run (mapRebuild (failed.map BitVec.toNat) (torn.map BitVec.toNat)) s

/-! ## Steps 8 to 10 (R26, R87, R336, R340, R342) -/

/-- SOLO (R336): from the port that holds SVC_LOCK, in Pairing with the map rebuilt and no handshake running, a device that has
been in a pair takes over; at another time the write is discarded with event 3. -/
def solo (p : Nat) (d : Dev) : Dev :=
  if !holdsLock d p then d
  else if d.glb.base = .pairing ∧ d.twn.rebuilt ∧ !d.twn.hsOn ∧ !flag d F.TWN_STS_RSLV ∧ !d.glb.handshakeDone ∧ !d.glb.soloTaken
      ∧ 0 < getF d F.TWN_PEPOCH_EPOCH then
    takeover 1 (onGlb (fun g => { g with soloTaken := true }) d)
  else raiseN 3 0x210 d

/-- SOLO (R336). -/
def execSolo (p : SPort) (s : State) : Host.Outcome State Fault Refusal := run (viaPort p.val (solo p.val)) s

/-- Pairing can end (R87): the handshake is done, or SOLO taken, and every enabled port is Active or has trained for 100,000 tk. -/
def pairingComplete (d : Dev) : Dev :=
  let ready (p : Nat) : Bool := !flag d (F.FAB_CTL_ENABLE p) || decide (ltOf d p = 6)
    || decide ((linkOf d p).trainSince + 100000 ≤ d.glb.tick)
  if d.glb.base = .pairing ∧ (d.glb.handshakeDone ∨ d.glb.soloTaken) ∧ d.glb.joinAt = none ∧ (List.range 16).all ready then
    onGlb (fun g => { g with joinAt := some g.tick }) d
  else d

/-- PAIRING_COMPLETE (R87). -/
def execPairingComplete (s : State) : Host.Outcome State Fault Refusal := runQ pairingComplete s

/-- The epoch schedule starts at a superframe boundary once the schedule position is settled (R26, R63). -/
def epochScheduleStart (d : Dev) : Dev :=
  if sfTick d = 0 ∧ (d.glb.handshakeDone ∨ d.glb.soloTaken ∨ flag d F.TWN_STS_TARGET) then setB F.SCH_SPOS_EPOCH_PROG true d else d

/-- EPOCH_SCHEDULE_START (R26). -/
def execEpochScheduleStart (s : State) : Host.Outcome State Fault Refusal := runQ epochScheduleStart s

/-- The saved calibration comes back (R235, R340). -/
def restoreOffsets (d : Dev) : Dev :=
  forEach d.grt.offsets (fun e d => onDie (e.1 / 8) (fun y => { y with offsets := y.offsets.put [] (e.1 % 8) e.2 }) d) d

/-- At first use every class of every die has the geometry section's offsets (R235). -/
def defaultOffsets (d : Dev) : Dev := { d with med := { d.med with dies := d.med.dies.map fun e => (e.1, { e.2 with offsets := [] }) } }

/-- Step 10 (R340): at the superframe boundary the device serves, in Tadpole without a valid offset table; event 13. -/
def servingStart (d : Dev) : Dev :=
  let due := match d.glb.joinAt with | none => false | some t => decide (t < d.glb.tick)
  if d.glb.base ≠ .pairing ∨ !due ∨ sfTick d ≠ 0 then d
  else
    let tad := !d.grt.offsetsValid
    let d := if tad then setF F.GLB_TADPOLE_EPOCHS 0 (defaultOffsets d) else restoreOffsets d
    let time := min (2 ^ 32 - 1) (d.glb.tick - d.glb.startTick)
    let d := onGlb (fun g => { g with
      base := .serving, tadpole := tad, sweeping := true, sweepEnded := false, tadpoleLate := false, tadpoleSince := g.tick }) d
    let d := levelApplies (setF F.GLB_BOOT_STS_STEP 10 (setB F.GLB_BOOT_STS_TADPOLE tad (setF F.GLB_BOOT_TIME_TICKS time d)))
    raiseN 13 ((if tad then 1 else 0) + time / 1000 * 2) (setB F.SCH_SPOS_EPOCH_PROG true d)

/-- SERVING_START (R340). -/
def execServingStart (s : State) : Host.Outcome State Fault Refusal := run servingStart s

/-- Tadpole ends at the first superframe boundary after the sweep (R342): event 14. -/
def tadpoleEnd (d : Dev) : Dev :=
  if d.glb.tadpole ∧ d.glb.sweepEnded ∧ sfTick d = 0 ∧ serves d then
    raiseN 14 (getF d F.GLB_TADPOLE_EPOCHS) (onGlb (fun g => { g with tadpole := false, sweepEnded := false }) d)
  else d

/-- TADPOLE_END (R342). -/
def execTadpoleEnd (s : State) : Host.Outcome State Fault Refusal := run tadpoleEnd s

/-- Tadpole has lasted 8 epochs (R342): event 15, once. -/
def tadpoleTimeout (d : Dev) : Dev :=
  if d.glb.tadpole ∧ serves d ∧ 8 ≤ getF d F.GLB_TADPOLE_EPOCHS ∧ !d.glb.tadpoleLate then
    raiseN 15 0 (onGlb (fun g => { g with tadpoleLate := true }) d)
  else d

/-- TADPOLE_TIMEOUT (R342). -/
def execTadpoleTimeout (s : State) : Host.Outcome State Fault Refusal := run tadpoleTimeout s

/-- The limit of a step with its failure reason (R335). -/
def stepLimit (step : Nat) : Option (Nat × Nat) :=
  match step with
  | 2 => some (50000, 2)
  | 3 => some (5000, 3)
  | 5 => some (10000, 5)
  | _ => none

/-- A step of Loading reaches its limit (R335). -/
def stepTimeout (d : Dev) : Dev :=
  match stepLimit (bootStep d) with
  | none => d
  | some (n, rsn) =>
    if d.glb.base = .loading ∧ d.glb.stepStart + n ≤ d.glb.tick ∧ !d.glb.resetHold then stepWithdraws (bootStep d) rsn d else d

/-- STARTUP_STEP_TIMEOUT (R335). -/
def execStartupStepTimeout (s : State) : Host.Outcome State Fault Refusal := run stepTimeout s

end Sys2Proof.Machine
end

