-- ==== Sys2Proof/Machine/Time.lean ====
section
/-!
DEFINITION. What time alone does: at a tick boundary (R24), at a superframe boundary (R44) and at an epoch boundary (R234).
-/
namespace Sys2Proof.Machine

/-! ## A tick -/

/-- The ports whose agents' timers stand still: those in Realign or Down (R131 row 14). -/
def stoppedPort (d : Dev) (p : Nat) : Bool := let l := getF d (F.FAB_STS_LTSTATE p); decide (l = 7) || decide (l = 8)

/-- Whether an agent's timers run. -/
def timersRun (d : Dev) (a : Nat) : Bool := !(portsOfAgent d a).any (stoppedPort d)

/-- Whether a tick of a transaction does not count against its bound (R251). -/
def excludedTick (d : Dev) (t : Txn) : Bool :=
  t.phase == .queued || (t.phase == .acted && (decide (t.snps ≠ []) || t.pull.isSome)) || t.wait == .dirty
    || (t.phase == .sent && !t.acked && t.seq.isNone) || stoppedPort d t.port || flag d (F.FAB_STS_HALF t.port)
    || decide (d.glb.base = .shutdown)

/-- A tick of one transaction: its timers (R132) and its uncounted time (R251). -/
def txnTick (d : Dev) (t : Txn) : Txn :=
  { t with
    snps := t.snps.map fun w => if timersRun d w.agent then { w with waited := w.waited + 1 } else w
    pullWait := if t.pull.isSome && timersRun d t.r.agent.toNat then t.pullWait + 1 else t.pullWait
    excluded := if excludedTick d t then t.excluded + 1 else t.excluded }

/-- A promotion that waited for dirty room takes place once there is room (R278). -/
def promoteNow (leaf : Nat) (d : Dev) : Dev :=
  if !roomFor d leaf then d
  else
    let d := treeWrite 64 0 leaf (forEach (List.range 64) (fun i d =>
      let l := lineOf d (leaf * 64 + i)
      if l.valid && decide (l.minor = 0) then putLine (leaf * 64 + i) { l with minor := 1 } d else d) d)
    onNtr (fun n => { n with
      repair := n.repair.filter fun e => decide (e ≠ (BitVec.ofNat 46 (leaf * 64), 9)), pins := n.pins.put 0 leaf 0 }) d

/-- The promotions that wait. -/
def promotions (d : Dev) : Dev :=
  forEach (d.ntr.repair.filter fun e => decide (e.2 = 9)) (fun e d => promoteNow (e.1.toNat / 64) d) d

/-- GLB_TADPOLE counts the whole epochs spent in Tadpole (R342). -/
def tadpoleTick (d : Dev) : Dev :=
  let n := d.glb.tick - d.glb.tadpoleSince
  if d.glb.tadpole && decide (0 < n) && decide (n % 2 ^ 20 = 0) then addSat F.GLB_TADPOLE_EPOCHS 1 d else d

/-- The frames a link in Active sends in a tick (R81, R82). -/
def frameTick (l : Nat) (d : Dev) : Dev :=
  if !linkActive d l then d
  else
    let r := frameRate d l
    onLink l (fun x => { x with txAcc := x.txAcc + r, txFrame := BitVec.ofNat 8 ((x.txAcc + r) / 16) }) d

/-- What a tick does while the device is powered. -/
def poweredTick (inp : TickIn) (d : Dev) : Dev :=
  let d := forEach (List.range 17) frameTick (onSch (fun s => { s with freed := [] }) d)
  let d := onBsn (fun b => { b with txns := b.txns.map fun e => (e.1, txnTick d e.2) }) (substTick d)
  let d := if withinCap d then onBsn (fun b => { b with undur := [] }) d else d
  let d := setB F.GRT_STS_STORE_OK inp.storeOk (thermTick inp (adcTick inp (twinTick d)))
  offTick (promotions (tadpoleTick (repopPace d)))

/-- A tick boundary (R24): GLB_TICK rises, and every unit that acts once a tick acts. In Off only the standby domain's
converter runs. -/
def tickStep (inp : TickIn) (d : Dev) : Dev :=
  let d := if d.glb.base = .off then d else busTick d
  let d := onGlb (fun g => { g with tick := g.tick + 1 }) d
  if d.glb.base = .off then adcTick inp d else poweredTick inp d

/-- TICK (R24). -/
def execTick (inp : TickIn) (s : State) : Host.Outcome State Fault Refusal := run (tickStep inp) s

/-! ## A superframe boundary -/

/-- Blow the REVOKED fuse of a slot (R325): event 10, with bit 7 when it does not read back. -/
def blowFuse (unblown : BitVec 4) (k : Nat) (d : Dev) : Dev :=
  if (d.glb.fuses.getD k {}).revoked then d
  else
    let bad := unblown.getLsbD k
    let fs := (List.zip (List.range d.glb.fuses.length) d.glb.fuses).map fun (e : Nat × FuseSlot) =>
      if e.1 = k then { e.2 with revoked := true } else e.2
    let d := onGlb (fun g => { g with fuses := fs, unblown := if bad then g.unblown ||| BitVec.ofNat 4 (2 ^ k) else g.unblown }) d
    raiseN 10 (k + if bad then 0x80 else 0) (showFuses d)

/-- The anti-rollback update at the first boundary in Tadpole or Serving after a Loading (R325). -/
def antiRollback (unblown : BitVec 4) (d : Dev) : Dev :=
  if d.glb.antiRollbackDone ∨ (stateCode d ≠ 5 ∧ stateCode d ≠ 6) then d
  else
    let i := img d
    let raised := decide (ctrComing d 1 < i.floor.toNat) && !grtRefuses d 0
    let d := if ctrComing d 1 < i.floor.toNat then grtSetCtr 1 i.floor.toNat d else d
    let d := if raised then raiseN 9 i.floor.toNat d else d
    let d := forEach ((List.range 4).filter fun k => i.revoke.getLsbD k) (blowFuse unblown) d
    onGlb (fun g => { g with antiRollbackDone := true }) d

/-- The counts that restart with a superframe (R350, R400, R408): rail transitions, and the once-per-superframe marks. -/
def restartCounts (d : Dev) : Dev :=
  let d := forEach (List.range 16) (fun r d => setF (F.PWR_RAIL_STS_TRANS r) 0 (onRail r (fun x => { x with trans := 0 }) d)) d
  onGlb (fun g => { g with sfEvents := [] }) d

/-- A superframe boundary (R44): the flood summaries of the superframe that ended, the new level, the reseed, the gauges, and
what moves on at a boundary. -/
def superframe (entropyOk : Bool) (unblown : BitVec 4) (d : Dev) : Dev :=
  if sfTick d ≠ 0 ∨ d.glb.base = .off ∨ d.glb.base = .sequencing then d
  else
    let d := restartCounts (floodSummary (count (0xC000 + dutyLevel d) d))
    let d := if serves d then levelApplies d else d
    let d := sparingTick (swapDies (reseed entropyOk d))
    antiRollback unblown d

/-- SUPERFRAME_BOUNDARY (R44). -/
def execSuperframeBoundary (entropyOk : Bool) (unblown : BitVec 4) (s : State) : Host.Outcome State Fault Refusal :=
  run (superframe entropyOk unblown) s

/-! ## An epoch boundary -/

/-- AGE_NOW advances in the serving states (R234); the saved offsets and the calibration sweeps follow it (R236, R340, R342). -/
def ageTick (d : Dev) : Dev :=
  if !serves d then d
  else
    let d := setF F.XLT_AGE_NOW_AGE (getF d F.XLT_AGE_NOW_AGE + 1) d
    let age := getF d F.XLT_AGE_NOW_AGE
    let d := if age % 64 = 0 then saveOffsets d else d
    if age % max 1 (img d).calEpochs = 0 then onGlb (fun g => { g with sweeping := true }) d else d

/-- An epoch boundary: AGE_NOW, the ages of the checkpoints, the near-tier error counts of R173, and the dirty cap (R359). -/
def epochStep (d : Dev) : Dev :=
  if spos d ≠ 0 ∨ d.glb.base = .off ∨ d.glb.base = .sequencing then d
  else
    let d := forEach (List.range 64) (fun c d => addSat (F.XLT_CKPT_AGE c) 1 d) (ageTick d)
    let d := onNtr (fun n => { n with
      weir := (n.weir.map fun e => (e.1, { e.2 with ueEpoch := 0 })).filter fun (e : Nat × WeirCh) => decide (e.2 ≠ {}) }) d
    capEpoch d

/-- EPOCH_BOUNDARY (R234). -/
def execEpochBoundary (s : State) : Host.Outcome State Fault Refusal := run epochStep s

end Sys2Proof.Machine
end

