-- ==== Sys2Proof/Machine/Control.lean ====
section
/-!
DEFINITION. The control space (R6-R11): reads and writes with their side effects, the command fields (R2), Rills (R398-R400), the
semaphore (R401, R402) and configuration transactions (R403-R406).
-/
namespace Sys2Proof.Machine

/-! ## Rills (R399, R400) -/

/-- A read of EVT_RILL_LO pops the head and captures its ARG; an empty Rill gives the value of the last read and sets UNDERRUN
(R398, R400). -/
def rillPop (p : Nat) (d : Dev) : Dev :=
  onPort p (fun q => match q.ev with
    | [] => { q with underrun := true, capt := q.capt.put none 0x200004 (some q.lastHi) }
    | e :: rest => { q with
        ev := rest, lastLo := rillWord e, lastHi := e.arg, capt := q.capt.put none 0x200004 (some e.arg) }) d

/-- EVT_RILL_LO (R400). -/
def execEvtRillLo (p : SPort) (s : State) : Host.Outcome State Fault Refusal := runQ (viaPort p.val (rillPop p.val)) s

/-- The event Rill is emptied and LOST cleared (R399, R412). -/
def flushEv (p : Nat) (d : Dev) : Dev := onPort p (fun q => { q with ev := [], lost := 0, lostMark := false, armEv := false }) d

/-- The message an entry belongs to and what it is: its SEQ, its CMD, and whether it ends the message. -/
def entryInfo : CmdEnt → BitVec 8 × BitVec 8 × BitVec 8 × Bool
  | .rd s _ l => (s, 1, 1, l)
  | .wr s _ _ l => (s, 1, 2, l)
  | .led s .info => (s, 3, 1, true)
  | .led s (.read _ _) => (s, 3, 2, true)
  | .led s .nonce => (s, 3, 3, true)
  | .led s (.clear _ _ _ _) => (s, 3, 4, true)
  | .led s .flush => (s, 3, 5, true)

/-- The payload a message has earned so far: the words read, or the number written (R395). -/
def soFar (q : SvcPort) (mclass cmd : BitVec 8) : List (BitVec 8) :=
  if mclass = 1 ∧ cmd = 1 then q.words.flatMap fun w => bytesLE 4 w.toNat
  else if mclass = 1 ∧ cmd = 2 then [BitVec.ofNat 8 q.doneWords] else []

/-- A message ends: its response, and the next one starts with nothing done. -/
def endMessage (p : Nat) (mclass cmd seq status : BitVec 8) (d : Dev) : Dev :=
  onPort p (fun q => { q with words := [], doneWords := 0 }) (answer p mclass cmd seq status (soFar (portOf d p) mclass cmd) d)

/-- The command Rill is emptied: every message in it ends with STATUS 0x07 (R395, R399). -/
def flushCmdRill (p : Nat) (d : Dev) : Dev :=
  let gone := (portOf d p).cmd
  let d := onPort p (fun q => { q with cmd := [], armCmd := false }) d
  forEach (gone.filter fun e => (entryInfo e).2.2.2) (fun e d =>
    let (seq, mclass, cmd, _) := entryInfo e
    endMessage p mclass cmd seq 7 d) d

/-- An armed flush happens at its port's packet boundary (R399). -/
def rillFlush (p : Nat) (command : Bool) (d : Dev) : Dev :=
  if command then (if (portOf d p).armCmd then flushCmdRill p d else d)
  else if (portOf d p).armEv then flushEv p d else d

/-- RILL_FLUSH (R399). -/
def execRillFlush (p : SPort) (command : Bool) (s : State) : Host.Outcome State Fault Refusal :=
  runQ (rillFlush p.val command) s

/-- FLUSH is written: the flush is armed, and on an idle port it is immediate (R399). -/
def armFlush (p : Nat) (command mid : Bool) (d : Dev) : Dev :=
  let d := onPort p (fun q => if command then { q with armCmd := true } else { q with armEv := true }) d
  if mid then d else rillFlush p command d

/-- FLUSH (R399). -/
def execFlush (p : SPort) (mid : BitVec 2) (s : State) : Host.Outcome State Fault Refusal :=
  runQ (viaPort p.val (armFlush p.val false (mid.getLsbD p.val))) s

/-- FLUSH_CMD (R399). -/
def execFlushCmd (p target : SPort) (mid : BitVec 2) (s : State) : Host.Outcome State Fault Refusal :=
  runQ (viaPort p.val (armFlush target.val true (mid.getLsbD target.val))) s

/-! ## Reading -/

/-- The registers whose writes can be staged, as the owner of an open transaction may. -/
def stages (d : Dev) (p : Nat) : Bool := holdsLock d p && decide (getF d F.SVC_TXN_STATE = 1)

/-- What a read shows: the view, or with SHADOW_RD the staged word of a register (R404). -/
def readView (d : Dev) (p a : Nat) : Word :=
  match d.svc.shadow.get none a, regRow a with
  | some w, some row =>
    if stages d p && flag d F.SVC_TXN_SHADOW_RD then (viewReg d p a &&& ~~~row.rwl) ||| (w &&& row.rwl) else viewReg d p a
  | _, _ => viewReg d p a

/-- The MAC page window an address lies in: the page's port (R286). -/
def macWindowOf (a : Nat) : Option Nat :=
  if 0x901000 ≤ a ∧ a < 0x902000 then some 0 else if 0x902000 ≤ a ∧ a < 0x903000 then some 1 else none

/-- An access to an address that no register occupies (R7). -/
def unmapped (a : Nat) (d : Dev) : Dev := raiseN 4 a d

/-- Whether an address is mapped. -/
def mapped (a : Nat) : Bool := (regRow a).isSome || (macWindowOf a).isSome

/-- GRT_RD_DATA: the word at ADDR, and ADDR moves on; an uncorrectable page gives no stated value (R380, R382). -/
def grtRead (bad : Bool) (d : Dev) : Word × Dev :=
  let a := getF d F.GRT_RD_ADDR_ADDR
  let w := viewReg d 0 0xD00018
  let (w, d) : Word × Dev := if bad then (let f := drawFree d; (f.1.truncate 32, pageUncorr (a / 256) f.2)) else (w, d)
  (w, setF F.GRT_RD_ADDR_ADDR (a + 4) d)

/-- GRT_RD_DATA (R382). -/
def execGrtRdData (p : SPort) (bad : Bool) (s : State) : Host.Outcome State Fault Refusal :=
  runQ (viaPort p.val fun d => (grtRead bad d).2) s

/-- Capture the high halves of a low half that is read (R11). -/
def capture (p a : Nat) (d : Dev) : Dev :=
  let highs := (capturesOf a).map fun h => (h, readView d p h)
  onPort p (fun q => { q with capt := highs.foldl (fun m e => m.put none e.1 (some e.2)) q.capt }) d

/-- One control-space read by a port, with what it changes (R7, R8, R11, R286, R400). -/
def ctlRead (p a : Nat) (d : Dev) : Word × Dev :=
  match macWindowOf a with
  | some q => if q = p then (viewReg d p a, d) else (0, pageIsolated p d)
  | none =>
    if (regRow a).isNone then (0, unmapped a d)
    else if a = 0x200000 then (viewReg d p a, rillPop p d)
    else if a = 0xD00018 then grtRead false d
    else match (portOf d p).capt.get none a with
      | some w => (w, d)
      | none => (readView d p a, capture p a d)

/-- LOW_HALF_READ (R11): the read of a low half by a port. -/
def execLowHalfRead (p : SPort) (addr : Word) (s : State) : Host.Outcome State Fault Refusal :=
  runQ (viaPort p.val fun d => if capturesOf addr.toNat = [] then d else (ctlRead p.val addr.toNat d).2) s

/-- UNMAPPED_CONTROL_ACCESS (R7): a read gives 0 and a write is discarded, so both only raise event 4. -/
def execUnmappedControlAccess (p : SPort) (addr : Word) (_write : Bool) (_v : Word) (s : State) :
    Host.Outcome State Fault Refusal :=
  runQ (viaPort p.val fun d => if mapped addr.toNat then d else unmapped addr.toNat d) s

/-! ## The semaphore (R401, R402) -/

/-- ACQUIRE (R401): the writing port becomes the owner of a free lock, event 1; a held lock refuses. -/
def acquire (p : Nat) (d : Dev) : Dev :=
  if getF d F.SVC_LOCK_OWNER ≠ 0 then setB F.SVC_ERR_LOCK_REFUSED true d
  else
    let d := onSvc (fun v => { v with lastOwnerB := decide (p = 1), idleSince := d.glb.tick }) (setF F.SVC_LOCK_OWNER (p + 1) d)
    raiseN 1 p d

/-- ACQUIRE (R401). -/
def execAcquire (p : SPort) (s : State) : Host.Outcome State Fault Refusal := runQ (viaPort p.val (acquire p.val)) s

/-- RELEASE (R402) by the owner; by another port, or of a free lock, it is refused (R401). -/
def release (p : Nat) (d : Dev) : Dev := if holdsLock d p then loseLock 1 d else setB F.SVC_ERR_LOCK_REFUSED true d

/-- RELEASE (R402). -/
def execRelease (p : SPort) (s : State) : Host.Outcome State Fault Refusal := runQ (viaPort p.val (release p.val)) s

/-- The owner has been idle for LOCK_TMO ticks (R402); the timer stands still while a COMMIT waits. -/
def lockTimeout (d : Dev) : Dev :=
  if getF d F.SVC_TXN_STATE ≠ 2 ∧ d.svc.idleSince + getF d F.SVC_TMO_LOCK_TMO ≤ d.glb.tick then loseLock 3 d else d

/-- LOCK_TIMEOUT (R402). -/
def execLockTimeout (s : State) : Host.Outcome State Fault Refusal := runQ lockTimeout s

/-! ## Transactions (R403-R406) -/

/-- BEGIN is accepted in Pairing or later, but not in Shutdown or Withdrawn (R403). -/
def beginOk (d : Dev) (p : Nat) : Bool :=
  holdsLock d p && decide (getF d F.SVC_TXN_STATE = 0) && (decide (d.glb.base = .pairing) || serves d)

/-- The boundary at which a COMMIT takes effect: the next, or from tick 2,040 the one after it (R405). -/
def commitTick (d : Dev) : Nat := d.glb.tick - sfTick d + (if sfTick d < 2040 then 2048 else 4096)

/-- SVC_TXN.OP (R403). -/
def txnOp (p op : Nat) (d : Dev) : Dev :=
  if op = 0 then d
  else if op = 1 ∧ beginOk d p then
    setF F.SVC_TXN_STATE 1 (setF F.SVC_TXN_STAGED 0 (setB F.SVC_TXN_OVF false (onSvc (fun v => { v with shadow := [] }) d)))
  else if op = 2 ∧ stages d p then
    if flag d F.SVC_TXN_OVF then rollBack 6 d
    else setF F.SVC_TXN_STATE 2 (onSvc (fun v => { v with commitAt := commitTick d, commitPortB := decide (p = 1) }) d)
  else if op = 3 ∧ stages d p then rollBack 2 d
  else setB F.SVC_ERR_TXN_REFUSED true d

/-- A write of SVC_TXN: SHADOW_RD is written with every one (R411). -/
def txnWrite (p op : Nat) (shadowRd : Bool) (d : Dev) : Dev := txnOp p op (setB F.SVC_TXN_SHADOW_RD shadowRd d)

/-- BEGIN (R403). -/
def execBeginTxn (p : SPort) (shadowRd : Bool) (s : State) : Host.Outcome State Fault Refusal :=
  runQ (viaPort p.val (txnWrite p.val 1 shadowRd)) s

/-- COMMIT (R405). -/
def execCommit (p : SPort) (shadowRd : Bool) (s : State) : Host.Outcome State Fault Refusal :=
  runQ (viaPort p.val (txnWrite p.val 2 shadowRd)) s

/-- ROLLBACK (R403). -/
def execRollback (p : SPort) (shadowRd : Bool) (s : State) : Host.Outcome State Fault Refusal :=
  runQ (viaPort p.val (txnWrite p.val 3 shadowRd)) s

/-- Stage a word (R403): it replaces an earlier one; a 513th register sets OVF. -/
def stage (a : Nat) (w : Word) (d : Dev) : Dev :=
  if (d.svc.shadow.get none a).isNone ∧ 512 ≤ d.svc.shadow.length then
    setB F.SVC_ERR_STAGE_OVF true (setB F.SVC_TXN_OVF true d)
  else
    let d := onSvc (fun v => { v with shadow := v.shadow.put none a (some w) }) d
    setF F.SVC_TXN_STAGED d.svc.shadow.length d

/-- Drop a staged word. -/
def unstage (a : Nat) (d : Dev) : Dev :=
  let d := onSvc (fun v => { v with shadow := v.shadow.put none a none }) d
  setF F.SVC_TXN_STAGED d.svc.shadow.length d

/-- The value a register would hold after the commit. -/
def afterCommit (d : Dev) (a : Nat) : Nat :=
  match d.svc.shadow.get none a, regRow a with
  | some w, some row => ((regGet d a &&& ~~~row.rwl) ||| (w &&& row.rwl)).toNat
  | _, _ => (regGet d a).toNat

/-- The regions whose KEYID the transaction changes (R281). -/
def keyChanges (d : Dev) : List Nat := (List.range 64).filter fun r =>
  decide (bitsOf (afterCommit d (0x1000 + 0x20 * r)) 15 4 ≠ getF d (F.GLB_RGN_CTL_KEYID r))

/-- The staged words that fail a check of R405 step 1: R240, R349, R390, then R281 — of several regions re-keyed at once only the
first, since one walk runs at a time — then R275. -/
def failedWords (d : Dev) : List Nat :=
  let cross := (crossFails (afterCommit d)).flatten
  let keys := keyChanges d
  let keyBad := (keys.filter fun r => keyidRefused (bitsOf (afterCommit d (0x1000 + 0x20 * r)) 15 4) d)
  let others := ((keys.filter fun r => decide (r ∉ keyBad)).drop 1)
  let wc := if decide ((afterCommit d 0x900000) % 2 = 1) && !wcOn d && decide (d.slu.wc ≠ []) then [0x900000] else []
  (cross ++ (keyBad ++ others).map (fun r => 0x1000 + 0x20 * r) ++ wc).filter fun a => (d.svc.shadow.get none a).isSome

/-- The checks of a commit: each staged word that fails is discarded with event 3; EN = 1 of the walk cache with event 365 as
well (R275, R405). -/
def checkStaged (d : Dev) : Dev :=
  forEach ((failedWords d).eraseDups) (fun a d =>
    raiseN 3 a (unstage a (if a = 0x900000 then commitWcEn true d else d))) d

/-- COMMIT_CHECK (R405): in the 8 ticks before the boundary. -/
def execCommitCheck (s : State) : Host.Outcome State Fault Refusal :=
  runQ (fun d => if getF d F.SVC_TXN_STATE = 2 ∧ d.svc.commitAt ≤ d.glb.tick + 8 then checkStaged d else d) s

/-- A staged word takes effect (R326): a port whose ENABLE becomes 0 stops, and the walk cache follows EN. -/
def applyWord (e : Nat × Option Word) (d : Dev) : Dev :=
  match e.2, regRow e.1 with
  | some w, some row =>
    if e.1 = 0x900000 then commitWcEn (w.getLsbD 0) d
    else
      let d := regSet e.1 ((regGet d e.1 &&& ~~~row.rwl) ||| (w &&& row.rwl)) d
      let l := (e.1 - 0x400000) / 0x100
      if row.base = 0x400000 ∧ !w.getLsbD 0 ∧ ltOf d l ≠ 0 then setLt l 0 0 d else d
  | _, _ => d

/-- A port that waits for a COMMIT has its write carried out: the response follows (R156, R405). -/
def finishWait (p : Nat) (d : Dev) : Dev :=
  match (portOf d p).waitCommit with
  | none => d
  | some (seq, last) =>
    let d := onPort p (fun q => { q with waitCommit := none, doneWords := q.doneWords + 1 }) d
    if last then endMessage p 1 2 seq 0 d else d

/-- The boundary of a commit (R405): the remaining words take effect together, KEYID changes start their walk (R281), and the
COMMIT response follows. -/
def commitNow (d : Dev) : Dev :=
  let d := checkStaged d
  let ws := d.svc.shadow
  let old := (List.range 64).map fun r => getF d (F.GLB_RGN_CTL_KEYID r)
  let keys := keyChanges d
  let d := onSvc (fun v => { v with shadow := [], idleSince := d.glb.tick }) (forEach ws applyWord d)
  let d := forEach keys (fun r d => rekeyStart r (old.getD r 0) (getF d (F.GLB_RGN_CTL_KEYID r)) d) d
  let d := setF F.SVC_TXN_STATE 0 (setF F.SVC_TXN_RESULT 1 (setF F.SVC_TXN_STAGED 0 (setF F.SVC_COMMIT_TICK d.glb.tick d)))
  finishWait 1 (finishWait 0 (raiseN 5 ws.length d))

/-- COMMIT_BOUNDARY (R405). -/
def execCommitBoundary (s : State) : Host.Outcome State Fault Refusal :=
  runQ (fun d => if getF d F.SVC_TXN_STATE = 2 ∧ sfTick d = 0 ∧ d.svc.commitAt ≤ d.glb.tick then commitNow d else d) s

/-! ## Writing -/

/-- A reserved OP of a command field: discarded, event 3. -/
def badOp (a : Nat) (d : Dev) : Dev := raiseN 3 a d

/-- PROTECT from the port that holds SVC_LOCK (R378). -/
def protectCmd (p level : Nat) (d : Dev) : Dev := if holdsLock d p then protect level d else d

/-- PROTECT (R378). -/
def execProtect (p : SPort) (level : BitVec 2) (s : State) : Host.Outcome State Fault Refusal :=
  runQ (viaPort p.val (protectCmd p.val level.toNat)) s

/-- What the WO fields of a written word start (R2). `mid` says which ports are within a packet (R399). -/
def wordCmd (p a : Nat) (mid : BitVec 2) (v : Word) (d : Dev) : Dev :=
  let op (hi lo : Nat) : Nat := bitsOf v.toNat hi lo
  if 0x400000 ≤ a ∧ a < 0x401000 ∧ a % 0x100 = 0x2C then whenD (v.getLsbD 0) (enterRealign ((a - 0x400000) / 0x100) 1) d
  else if a = 0x100104 ∨ a = 0x100124 then
    let q := (a - 0x100104) / 0x20
    whenD (v.getLsbD 9) (armFlush q true (mid.getLsbD q)) d
  else match a with
  | 0x210 => whenD (v.getLsbD 1) (solo p) (whenD (v.getLsbD 0) (rst p) d)
  | 0x100000 => (match op 5 4 with | 1 => acquire p d | 2 => release p d | 3 => badOp a d | _ => d)
  | 0x100004 => txnOp p (op 1 0) d
  | 0x200008 => whenD (v.getLsbD 8) (armFlush p false (mid.getLsbD p)) d
  | 0x300024 => whenD (v.getLsbD 0) schCycClear d
  | 0x50001C => (match op 9 8 with | 1 => declareCmd p (op 5 0) d | 2 => clearCmd p (op 5 0) d | 3 => badOp a d | _ => d)
  | 0x600038 => whenD (v.getLsbD 0) scrubGo d
  | 0x80003C => whenD (v.getLsbD 31) probe d
  | 0x900000 => whenD (v.getLsbD 1) wcInvalidate d
  | 0xA00008 => (match op 1 0 with | 0 => d | 1 => detachCmd p d | _ => badOp a d)
  | 0xB00008 => (match op 1 0 with | 1 => off p d | 2 => huMeas p d | 3 => badOp a d | _ => d)
  | 0xC00014 => whenD (v.getLsbD 31) peakClear d
  | 0xD00010 => (match op 1 0 with | 0 => d | 1 => protectCmd p (op 3 2) d | _ => badOp a d)
  | 0xE00018 => (match op 1 0 with | 1 => ctrClrWrap d | 2 => ctrZero d | 3 => badOp a d | _ => d)
  | 0xE00100 => whenD (v.getLsbD 8) gkPop d
  | _ => d

/-- The RW fields of a register (R8); FREEZE acts when written (R416). -/
def writeRw (a : Nat) (row : RegRow) (v : Word) (d : Dev) : Dev :=
  if row.rw = 0 then d
  else if a = 0xE00000 then setFreeze (v.getLsbD 0) d
  else regSet a ((regGet d a &&& ~~~row.rw) ||| (v &&& row.rw)) d

/-- The W1C fields of a register (R8); UNDERRUN is the writing port's own. -/
def writeW1c (p a : Nat) (row : RegRow) (v : Word) (d : Dev) : Dev :=
  if a = 0x200008 then (if v.getLsbD 7 then onPort p (fun q => { q with underrun := false }) d else d)
  else if row.w1c &&& v = 0 then d
  else regSet a (regGet d a &&& ~~~(row.w1c &&& v)) d

/-- One control-space write by a port (R7, R8, R10, R286). -/
def ctlWrite (p a : Nat) (mid : BitVec 2) (v : Word) (d : Dev) : Dev :=
  match macWindowOf a with
  | some q => if q = p then macPortWrite p (a % 0x1000) v d else pageIsolated p d
  | none =>
    match regRow a with
    | none => unmapped a d
    | some row =>
      if reservedEnc a v.toNat then raiseN 3 a d
      else
        let d := if row.rwl ≠ 0 ∧ stages d p then stage a (v &&& row.rwl) d else d
        wordCmd p a mid v (writeW1c p a row v (writeRw a row v d))

/-- REGISTER_WRITE (R8). -/
def execRegisterWrite (p : SPort) (addr v : Word) (s : State) : Host.Outcome State Fault Refusal :=
  run (viaPort p.val (ctlWrite p.val addr.toNat 0 v)) s

end Sys2Proof.Machine
end

