-- ==== Sys2Proof/Machine/Service.lean ====
section
/-!
DEFINITION. The service ports: the I3C targets and their CCCs (R392, R394), the MCTP endpoints (R393), control-space messages and
the executor (R395-R397), attestation (R328-R331), and the Ledger's commands (R424).
-/
namespace Sys2Proof.Machine

/-! ## I3C (R392, R394) -/

/-- In Off and in step 1 a port does not respond; the CCCs work in every other state (R397). -/
def awake (d : Dev) : Bool := decide (d.glb.base ≠ .off) && decide (d.glb.base ≠ .sequencing)

/-- A CCC every target hears. -/
def broadcastCcc (f : Dev → Dev) (d : Dev) : Dev := if awake d then f d else d

/-- A CCC sent to the port's dynamic address. -/
def directCcc (p : Nat) (f : Dev → Dev) (d : Dev) : Dev :=
  if awake d && decide (getF d (F.SVC_PORT_STS_DA p) ≠ 0) then f d else d

/-- The port answers a GET CCC. -/
def cccSays (p : Nat) (bs : List (BitVec 8)) (d : Dev) : Dev := portSay p (.ccc bs) d

/-- A byte the spec leaves open. -/
def drawByte (d : Dev) : BitVec 8 × Dev := (Config.freeByte d.free, { d with free := d.free + 1 })

/-- A port reset (R394): partial message, command Rill, captures, MAC page, nonce and lock. -/
def portReset (p : Nat) (d : Dev) : Dev :=
  let d := onPort p (fun q => { q with
    asm := none, cmd := [], words := [], doneWords := 0, waitCommit := none, armCmd := false, capt := [] }) d
  let d := nonceDrop (zeroMac (64 + p) d)
  let d := if holdsLock d p then loseLock 2 d else d
  raiseN 17 p (addSat (F.SVC_PORT_RST_COUNT p) 1 (setB (F.SVC_PORT_ERR_RESET p) true d))

/-- ENTDAA gives a port without a dynamic address one. -/
def entdaa (p da : Nat) (d : Dev) : Dev := if getF d (F.SVC_PORT_STS_DA p) = 0 then setF (F.SVC_PORT_STS_DA p) da d else d

/-- ENTDAA (R392). -/
def execEntdaa (p : SPort) (da : BitVec 7) (s : State) : Host.Outcome State Fault Refusal :=
  runQ (broadcastCcc (entdaa p.val da.toNat)) s

/-- SETDASA (R392): from static address 0x2C (port A) or 0x2D (port B). -/
def execSetdasa (p : SPort) (static da : BitVec 7) (s : State) : Host.Outcome State Fault Refusal :=
  runQ (broadcastCcc fun d => if static.toNat = 0x2C + p.val then entdaa p.val da.toNat d else d) s

/-- RSTDAA (R394): the address is given up; a port reset. -/
def execRstdaa (p : SPort) (s : State) : Host.Outcome State Fault Refusal :=
  runQ (broadcastCcc fun d => portReset p.val (setF (F.SVC_PORT_STS_DA p.val) 0 d)) s

/-- ENEC (R392): in-band interrupts enabled. -/
def execEnec (p : SPort) (s : State) : Host.Outcome State Fault Refusal :=
  runQ (broadcastCcc (setB (F.SVC_PORT_STS_IBI_EN p.val) true)) s

/-- DISEC (R392): in-band interrupts disabled. -/
def execDisec (p : SPort) (s : State) : Host.Outcome State Fault Refusal :=
  runQ (broadcastCcc (setB (F.SVC_PORT_STS_IBI_EN p.val) false)) s

/-- The provisional ID (R392). -/
def pidOf (p : Nat) : Nat := 0x3A5 * 2 ^ 33 + p

/-- GETPID (R392). -/
def execGetpid (p : SPort) (s : State) : Host.Outcome State Fault Refusal :=
  runQ (directCcc p.val (cccSays p.val (bytesLE 6 (pidOf p.val)).reverse)) s

/-- GETBCR (R392): IBI capable with payload, no speed limitation. -/
def execGetbcr (p : SPort) (s : State) : Host.Outcome State Fault Refusal := runQ (directCcc p.val (cccSays p.val [0x06])) s

/-- GETDCR (R392). -/
def execGetdcr (p : SPort) (s : State) : Host.Outcome State Fault Refusal := runQ (directCcc p.val (cccSays p.val [0xCC])) s

/-- GETSTATUS (R392): two bytes whose value the spec does not give. -/
def execGetstatus (p : SPort) (s : State) : Host.Outcome State Fault Refusal :=
  runQ (directCcc p.val fun d =>
    let (a, d) := drawByte d
    let (b, d) := drawByte d
    cccSays p.val [a, b] d) s

/-- GETMWL (R392). -/
def execGetmwl (p : SPort) (s : State) : Host.Outcome State Fault Refusal :=
  runQ (directCcc p.val fun d => cccSays p.val (bytesLE 2 (portOf d p.val).mwl).reverse d) s

/-- GETMRL (R392), with the length of an IBI's payload, which the spec does not give. -/
def execGetmrl (p : SPort) (s : State) : Host.Outcome State Fault Refusal :=
  runQ (directCcc p.val fun d =>
    let (a, d) := drawByte d
    cccSays p.val ((bytesLE 2 (portOf d p.val).mrl).reverse ++ [a]) d) s

/-- A packet payload limit, 64 to 256 bytes (R393). -/
def limit (n : Nat) : Nat := min 256 (max 64 n)

/-- SETMWL (R393). -/
def execSetmwl (p : SPort) (n : BitVec 16) (s : State) : Host.Outcome State Fault Refusal :=
  runQ (broadcastCcc (onPort p.val fun q => { q with mwl := limit n.toNat })) s

/-- SETMRL (R393). -/
def execSetmrl (p : SPort) (n : BitVec 16) (s : State) : Host.Outcome State Fault Refusal :=
  runQ (broadcastCcc (onPort p.val fun q => { q with mrl := limit n.toNat })) s

/-- RSTACT (R394): the action of the next reset pattern. -/
def execRstact (p : SPort) (action : BitVec 8) (s : State) : Host.Outcome State Fault Refusal :=
  runQ (broadcastCcc (onPort p.val fun q => { q with rstact := action })) s

/-- The target reset pattern (R394): a port reset, unless RSTACT announced none. -/
def targetReset (p : Nat) (d : Dev) : Dev :=
  let none_ := decide ((portOf d p).rstact = 0)
  let d := onPort p (fun q => { q with rstact := 1 }) d
  if none_ then d else portReset p d

/-- TARGET_RESET (R394). -/
def execTargetReset (p : SPort) (s : State) : Host.Outcome State Fault Refusal := runQ (broadcastCcc (targetReset p.val)) s

/-! ## MCTP control messages (R393) -/

/-- A port takes MCTP messages from the end of step 1; in Withdrawn it answers identity reads only (R397). -/
def takesMsg (d : Dev) : Bool := awake d && decide (d.glb.base ≠ .withdrawn)

/-- An MCTP control response: command code, completion code, data. -/
def ctrlSays (p : Nat) (bs : List (BitVec 8)) (d : Dev) : Dev := portSay p (.ctrl bs) d

/-- Set Endpoint ID (R393): the null and broadcast IDs are refused. -/
def setEid (p : Nat) (eid : BitVec 8) (d : Dev) : Dev :=
  if !takesMsg d then d
  else if eid = 0 ∨ eid = 0xFF then ctrlSays p [0x01, 0x02] d
  else ctrlSays p [0x01, 0x00, 0x00, eid, 0x00] (setF (F.SVC_PORT_STS_EID p) eid.toNat d)

/-- SET_ENDPOINT_ID (R393). -/
def execSetEndpointId (p : SPort) (eid : BitVec 8) (s : State) : Host.Outcome State Fault Refusal := runQ (setEid p.val eid) s

/-- Get Endpoint ID (R393). -/
def getEid (p : Nat) (d : Dev) : Dev :=
  if takesMsg d then ctrlSays p [0x02, 0x00, BitVec.ofNat 8 (getF d (F.SVC_PORT_STS_EID p)), 0x00, 0x00] d else d

/-- GET_ENDPOINT_ID (R393). -/
def execGetEndpointId (p : SPort) (s : State) : Host.Outcome State Fault Refusal := runQ (getEid p.val) s

/-- Several bytes the spec leaves open. -/
def drawBytes : Nat → Dev → List (BitVec 8) × Dev
  | 0, d => ([], d)
  | n + 1, d =>
    let (b, d) := drawByte d
    let (bs, d) := drawBytes n d
    (b :: bs, d)

/-- Get MCTP Version Support (R393): one version entry, whose value the spec does not give. -/
def getVersions (p : Nat) (d : Dev) : Dev :=
  if !takesMsg d then d
  else
    let (bs, d) := drawBytes 4 d
    ctrlSays p ([0x04, 0x00, 0x01] ++ bs) d

/-- GET_MCTP_VERSION_SUPPORT (R393). -/
def execGetMctpVersionSupport (p : SPort) (s : State) : Host.Outcome State Fault Refusal := runQ (getVersions p.val) s

/-- Get Message Type Support (R393): the vendor-defined type of R329. -/
def getTypes (p : Nat) (d : Dev) : Dev := if takesMsg d then ctrlSays p [0x05, 0x00, 0x01, 0x7F] d else d

/-- GET_MESSAGE_TYPE_SUPPORT (R393). -/
def execGetMessageTypeSupport (p : SPort) (s : State) : Host.Outcome State Fault Refusal := runQ (getTypes p.val) s

/-- Get Vendor Defined Message Support (R393): the enterprise number of R329; the command set version is not given. -/
def getVendor (p : Nat) (d : Dev) : Dev :=
  if !takesMsg d then d
  else
    let (bs, d) := drawBytes 2 d
    ctrlSays p ([0x06, 0x00, 0xFF, 0x01, 0x00, 0x01, 0xC4, 0xA9] ++ bs) d

/-- GET_VENDOR_DEFINED_MESSAGE_SUPPORT (R393). -/
def execGetVendorDefinedMessageSupport (p : SPort) (s : State) : Host.Outcome State Fault Refusal := runQ (getVendor p.val) s

/-! ## Command Rills and the executor (R395-R397) -/

/-- The command Rill has no room: the last packet is NACKed, event 19 once a superframe (R396). -/
def nackPacket (p : Nat) (d : Dev) : Dev :=
  raiseOnce (19000 + p) 19 p (portSay p .nack (setB (F.SVC_PORT_ERR_NACK p) true d))

/-- Enter a message's accesses in the command Rill, or NACK. The flag says they were taken. -/
def enqueue (p : Nat) (es : List CmdEnt) (d : Dev) : Dev × Bool :=
  if 32 < (portOf d p).cmd.length + es.length then (nackPacket p d, false)
  else (onPort p (fun q => { q with cmd := q.cmd ++ es }) d, true)

/-- The STATUS of a READ or WRITE before any access (R395): the count, the length, then the range. -/
def accessStatus (addr : Word) (count : Nat) (lenOk : Bool) : Nat :=
  if count = 0 ∨ 32 < count then 6
  else if !lenOk then 2
  else if addr.toNat % 4 ≠ 0 ∨ 2 ^ 32 < addr.toNat + 4 * count then 6
  else 0

/-- The addresses of an access. -/
def accessAddrs (addr : Word) (count : Nat) : List Word := (List.range count).map fun i => addr + BitVec.ofNat 32 (4 * i)

/-- A READ message (R395). In Withdrawn only one of identity registers is answered (R397). -/
def readMsg (p : Nat) (seq : BitVec 8) (addr : Word) (count : Nat) (lenOk : Bool) (d : Dev) : Dev × Bool :=
  let st := accessStatus addr count lenOk
  let as := accessAddrs addr count
  if !awake d || (decide (d.glb.base = .withdrawn) && !(decide (st = 0) && as.all fun a => isIdentity a.toNat)) then (d, true)
  else if st ≠ 0 then (answer p 1 1 seq (BitVec.ofNat 8 st) [] d, true)
  else enqueue p ((List.zip (List.range count) as).map fun (e : Nat × Word) => CmdEnt.rd seq e.2 (decide (e.1 + 1 = count))) d

/-- READ (R395). -/
def execRead (p : SPort) (seq : BitVec 8) (addr : Word) (count : BitVec 8) (lenOk : Bool) (s : State) :
    Host.Outcome State Fault Refusal := runQ (fun d => (readMsg p.val seq addr count.toNat lenOk d).1) s

/-- A WRITE message (R395). -/
def writeMsg (p : Nat) (seq : BitVec 8) (addr : Word) (count : Nat) (words : List Word) (d : Dev) : Dev × Bool :=
  let st := accessStatus addr count (decide (words.length = count))
  if !takesMsg d then (d, true)
  else if st ≠ 0 then (answer p 1 2 seq (BitVec.ofNat 8 st) [0] d, true)
  else enqueue p ((List.zip (List.range count) (List.zip (accessAddrs addr count) words)).map fun (e : Nat × Word × Word) =>
    CmdEnt.wr seq e.2.1 e.2.2 (decide (e.1 + 1 = count))) d

/-- WRITE (R395). -/
def execWrite (p : SPort) (seq : BitVec 8) (addr : Word) (count : BitVec 8) (words : List Word) (s : State) :
    Host.Outcome State Fault Refusal := runQ (fun d => (writeMsg p.val seq addr count.toNat words d).1) s

/-- A command or class the port does not have: STATUS 0x01 (R395, R330, R424). -/
def unsupported (p : Nat) (mclass cmd seq : BitVec 8) (d : Dev) : Dev :=
  if !takesMsg d then d
  else
    let d := answer p mclass cmd seq 1 [] d
    if mclass = 2 then raiseN 11 (1 + p * 256) d else d

/-- Whether a class has a command. -/
def supports (mclass cmd : Nat) : Bool :=
  match mclass with
  | 1 => decide (1 ≤ cmd) && decide (cmd ≤ 2)
  | 2 => decide (1 ≤ cmd) && decide (cmd ≤ 4)
  | 3 => decide (1 ≤ cmd) && decide (cmd ≤ 5)
  | _ => false

/-- UNSUPPORTED_COMMAND (R395). -/
def execUnsupportedCommand (p : SPort) (mclass cmd seq : BitVec 8) (s : State) : Host.Outcome State Fault Refusal :=
  runQ (fun d => if supports mclass.toNat (cmd.toNat % 128) then d else unsupported p.val mclass (cmd &&& 0x7F) seq d) s

/-- Whether a port's next entry may be carried out now: a COMMIT's wait is over, or its head is a write, or a read with no
armed flush before it (R157, R396, R399). -/
def portReady (d : Dev) (p : Nat) : Bool :=
  let q := portOf d p
  match q.waitCommit with
  | some _ => decide (getF d F.SVC_TXN_STATE ≠ 2)
  | none => match q.cmd with
    | [] => false
    | .wr _ _ _ _ :: _ => true
    | _ => !q.armCmd && !q.armEv

/-- The entries of the message at the head of a Rill, and the rest. -/
def splitMsg : List CmdEnt → List CmdEnt × List CmdEnt
  | [] => ([], [])
  | e :: rest => if (entryInfo e).2.2.2 then ([e], rest) else let r := splitMsg rest; (e :: r.1, r.2)

/-- Whether the head message reads identity registers only, the words already read included (R397). -/
def headIsIdentity (q : SvcPort) : Bool :=
  match q.cmd with
  | .rd _ a _ :: _ =>
    ((splitMsg q.cmd).1.all fun e => match e with | .rd _ x _ => isIdentity x.toNat | _ => false)
      && (List.range q.words.length).all fun i => isIdentity (a.toNat - 4 * (i + 1))
  | _ => false

/-- Carry out the head entry of a port's command Rill (R396). A write of COMMIT that is accepted holds the port (R156). -/
def carryEntry (p : Nat) (mid : BitVec 2) (e : CmdEnt) (d : Dev) : Dev :=
  match e with
  | .rd seq a last =>
    let (w, d) := ctlRead p a.toNat d
    let d := onPort p (fun q => { q with words := q.words ++ [w] }) d
    if last then endMessage p 1 1 seq 0 d else d
  | .wr seq a v last =>
    let pending := decide (getF d F.SVC_TXN_STATE = 2)
    let done (d : Dev) : Dev :=
      let d := onPort p (fun q => { q with doneWords := q.doneWords + 1 }) d
      if last then endMessage p 1 2 seq 0 d else d
    if a.toNat = 0x100104 + 0x20 * p ∧ v.getLsbD 9 then
      -- A port's own FLUSH of its command Rill is carried out, and answered, before the flush (R399).
      ctlWrite p a.toNat mid v (done d)
    else
      let d := ctlWrite p a.toNat mid v d
      if a.toNat = 0x100004 ∧ !pending ∧ getF d F.SVC_TXN_STATE = 2 then
        onPort p (fun q => { q with waitCommit := some (seq, last) }) d
      else done d
  | .led seq c => ledCarry p seq c d

/-- One access of a port: what waited for its boundary, or the head entry. In Withdrawn a message that is no identity read is
dropped (R397). -/
def portAccess (p : Nat) (mid : BitVec 2) (d : Dev) : Dev :=
  let q := portOf d p
  if q.waitCommit.isSome then finishWait p d
  else if d.glb.base = .withdrawn ∧ !headIsIdentity q then
    onPort p (fun q => { q with cmd := (splitMsg q.cmd).2, words := [], doneWords := 0 }) d
  else match q.cmd with
    | [] => d
    | e :: rest => carryEntry p mid e (touch p (onPort p (fun q => { q with cmd := rest }) d))

/-- Whether a port's head entry is an ACQUIRE. -/
def headAcquires (d : Dev) (p : Nat) : Bool :=
  match (portOf d p).cmd with
  | .wr _ a v _ :: _ => decide (a = 0x100000) && decide (bitsOf v.toNat 5 4 = 1)
  | _ => false

/-- The executor carries out one access, the ports taking turns (R396); of two ACQUIREs the less recent owner's goes first
(R401). -/
def executor (mid : BitVec 2) (d : Dev) : Dev :=
  if !awake d then d
  else
    let race := getF d F.SVC_LOCK_OWNER = 0 ∧ headAcquires d 0 ∧ headAcquires d 1
    let first := if race then (if d.svc.lastOwnerB then 0 else 1) else (if d.svc.turnB then 0 else 1)
    match [first, 1 - first].find? (portReady d) with
    | none => d
    | some p => portAccess p mid (onSvc (fun v => { v with turnB := decide (p = 1) }) d)

/-- EXECUTOR_ACCESS (R396). -/
def execExecutorAccess (mid : BitVec 2) (s : State) : Host.Outcome State Fault Refusal := run (executor mid) s

/-! ## The Ledger's commands (R424) -/

/-- A Ledger command: it takes one entry of the command Rill, carried out at once when the Rill is empty (R396). -/
def ledgerMsg (p : Nat) (seq : BitVec 8) (c : LedCmd) (d : Dev) : Dev × Bool :=
  let q := portOf d p
  if !takesMsg d then (d, true)
  else if q.cmd = [] ∧ q.waitCommit = none ∧ !q.armCmd ∧ !q.armEv then (ledCarry p seq c (touch p d), true)
  else enqueue p [.led seq c] d

/-- GET_INFO (R424). -/
def execGetInfo (p : SPort) (seq : BitVec 8) (s : State) : Host.Outcome State Fault Refusal :=
  runQ (fun d => (ledgerMsg p.val seq .info d).1) s

/-- LEDGER_READ (R424). -/
def execLedgerRead (p : SPort) (seq : BitVec 8) (from_ : Word) (count : BitVec 8) (s : State) :
    Host.Outcome State Fault Refusal := runQ (fun d => (ledgerMsg p.val seq (.read from_ count) d).1) s

/-- GET_NONCE (R425). -/
def execGetNonce (p : SPort) (seq : BitVec 8) (s : State) : Host.Outcome State Fault Refusal :=
  runQ (fun d => (ledgerMsg p.val seq .nonce d).1) s

/-- LEDGER_CLEAR (R425). -/
def execLedgerClear (p : SPort) (seq : BitVec 8) (upto : Word) (slot : BitVec 8) (pubkeyHash : BitVec 384) (sig : BitVec 768)
    (s : State) : Host.Outcome State Fault Refusal :=
  runQ (fun d => (ledgerMsg p.val seq (.clear upto slot pubkeyHash sig) d).1) s

/-- LEDGER_FLUSH (R423). -/
def execLedgerFlush (p : SPort) (seq : BitVec 8) (s : State) : Host.Outcome State Fault Refusal :=
  runQ (fun d => (ledgerMsg p.val seq .flush d).1) s

/-! ## Attestation (R328-R331) -/

/-- Answer an attestation request; a response other than OK raises event 11 (R330). -/
def attest (p : Nat) (cmd seq : BitVec 8) (status : Nat) (payload : List (BitVec 8)) (d : Dev) : Dev :=
  let d := answer p 2 cmd seq (BitVec.ofNat 8 status) payload d
  if status = 0 then d else raiseN 11 (status + p * 256) d

/-- Attestation is answered in Pairing and later, but not in Withdrawn; before that with STATUS 0x05 (R330). -/
def attestIn (p : Nat) (cmd seq : BitVec 8) (f : Dev → Dev) (d : Dev) : Dev :=
  match d.glb.base with
  | .off | .sequencing | .withdrawn => d
  | .loading | .recovering => attest p cmd seq 5 [] d
  | _ => f d

/-- GET_VERSION (R330). -/
def getVersion (p : Nat) (seq : BitVec 8) (d : Dev) : Dev := attestIn p 1 seq (attest p 1 seq 0 [0x01, 0x0F]) d

/-- GET_VERSION (R330). -/
def execGetVersion (p : SPort) (seq : BitVec 8) (s : State) : Host.Outcome State Fault Refusal := runQ (getVersion p.val seq) s

/-- GET_IDENTITY (R328, R330): the public key and its SHA-384. -/
def getIdentity (p : Nat) (seq : BitVec 8) (d : Dev) : Dev :=
  attestIn p 2 seq (attest p 2 seq 0 (Config.identityKey ++ (bytesLE 48 (Config.sha384 Config.identityKey).toNat).reverse)) d

/-- GET_IDENTITY (R330). -/
def execGetIdentity (p : SPort) (seq : BitVec 8) (s : State) : Host.Outcome State Fault Refusal := runQ (getIdentity p.val seq) s

/-- GET_CERT (R330): up to 960 bytes of the chain. -/
def getCert (p : Nat) (seq : BitVec 8) (off : Nat) (d : Dev) : Dev :=
  let n := Config.certChain.length
  attestIn p 3 seq (fun d => if n ≤ off then attest p 3 seq 4 [] d
    else attest p 3 seq 0 (bytesLE 2 n ++ (Config.certChain.drop off).take 960) d) d

/-- GET_CERT (R330). -/
def execGetCert (p : SPort) (seq : BitVec 8) (offset : BitVec 16) (s : State) : Host.Outcome State Fault Refusal :=
  runQ (getCert p.val seq offset.toNat) s

/-- GET_REPORT (R331): signing starts; one report at a time for a port. -/
def getReport (p : Nat) (seq : BitVec 8) (nonce : BitVec 256) (mask : BitVec 8) (d : Dev) : Dev :=
  attestIn p 4 seq (fun d =>
    if (portOf d p).report.isSome then attest p 4 seq 3 [] d
    else onPort p (fun q => { q with report := some (seq, nonce, mask) }) d) d

/-- GET_REPORT (R331). -/
def execGetReport (p : SPort) (seq : BitVec 8) (nonce : BitVec 256) (mask : BitVec 8) (s : State) :
    Host.Outcome State Fault Refusal := runQ (getReport p.val seq nonce mask) s

/-- The addresses of the registers with RWL fields, ascending. -/
def rwlAddrs : List Nat :=
  sortKey (fun a => a) ((List.range 16).flatMap fun b => (regTable b).flatMap fun r =>
    if r.rwl = 0 then [] else (List.range r.count).map fun i => r.base + r.stride * i)

/-- A hash as its bytes, the first byte the most significant. -/
def hashBytes (h : BitVec 384) : List (BitVec 8) := (bytesLE 48 h.toNat).reverse

/-- A measurement of a report (R331). -/
def measurement (d : Dev) (k : Nat) : List (BitVec 8) :=
  match k with
  | 0 => hashBytes (Config.sha384 (d.glb.fuses.flatMap fun f =>
      hashBytes f.hash ++ [BitVec.ofNat 8 ((if f.programmed then 1 else 0) + if f.revoked then 2 else 0)]))
  | 1 => hashBytes (img d).headerHash
  | 2 => hashBytes (img d).sectHash
  | 3 => hashBytes (Config.sha384 (rwlAddrs.flatMap fun a =>
      bytesLE 4 a ++ bytesLE 4 (match regRow a with | none => 0 | some r => (regGet d a &&& r.rwl).toNat)))
  | _ =>
    let bs := bytesLE 4 (img d).version.toNat ++ bytesLE 4 (ctrNow d 1) ++ bytesLE 2 (img d).pairver.toNat
      ++ [BitVec.ofNat 8 (getF d F.GLB_IMG_STS_LOADED)] ++ bytesLE 4 (ctrNow d 2) ++ bytesLE 8 d.grt.partner.toNat
    bs ++ List.replicate (48 - bs.length) 0

/-- A report, before its signature (R331). -/
def reportBody (d : Dev) (nonce : BitVec 256) (mask : BitVec 8) : List (BitVec 8) :=
  bytesLE 2 1 ++ [mask, BitVec.ofNat 8 (stateByte d)] ++ bytesLE 8 d.glb.tick ++ bytesLE 32 nonce.toNat
    ++ ((List.range 5).filter fun k => mask.getLsbD k).flatMap (measurement d)

/-- A report is signed and sent (R331). -/
def reportSigned (p : Nat) (d : Dev) : Dev :=
  match (portOf d p).report with
  | none => d
  | some (seq, nonce, mask) =>
    let d := onPort p (fun q => { q with report := none }) d
    if !takesMsg d then d
    else
      let body := reportBody d nonce mask
      let sig := Config.ecdsaSign d.free (Config.sha384 body)
      attest p 4 seq 0 (body ++ (bytesLE 96 sig.toNat).reverse) { d with free := d.free + 1 }

/-- REPORT_SIGNED (R331). -/
def execReportSigned (p : SPort) (s : State) : Host.Outcome State Fault Refusal := runQ (reportSigned p.val) s

/-! ## MCTP packets (R393) -/

/-- A vendor-defined message (R329), by its class and command; the flag is false when its last packet is NACKed. -/
def vendorMsg (p : Nat) (b : List (BitVec 8)) (d : Dev) : Dev × Bool :=
  let mclass := b.getD 5 0
  let cmd := b.getD 6 0 &&& 0x7F
  let seq := b.getD 7 0
  let len := ofBytesLE ((b.drop 8).take 2)
  let pay := b.drop 10
  let n := pay.length
  let num (i k : Nat) : Nat := ofBytesLE ((pay.drop i).take k)
  let lenIs (k : Nat) : Bool := decide (n = k) && decide (len = n)
  let bad : Dev × Bool := if takesMsg d then (if mclass = 2 then attestIn p cmd seq (attest p cmd seq 2 []) d
    else answer p mclass cmd seq 2 [] d, true) else (d, true)
  match mclass.toNat, cmd.toNat with
  | 1, 1 => if n < 5 then bad else readMsg p seq (BitVec.ofNat 32 (num 0 4)) (num 4 1) (lenIs 5) d
  | 1, 2 =>
    if n < 5 then (if takesMsg d then answer p 1 2 seq 2 [0] d else d, true)
    else
      let ok := decide (n % 4 = 1) && decide (len = n)
      writeMsg p seq (BitVec.ofNat 32 (num 0 4)) (num 4 1)
        (if ok then (List.range ((n - 5) / 4)).map fun i => BitVec.ofNat 32 (num (5 + 4 * i) 4) else []) d
  | 2, 1 => if lenIs 0 then (getVersion p seq d, true) else bad
  | 2, 2 => if lenIs 0 then (getIdentity p seq d, true) else bad
  | 2, 3 => if lenIs 2 then (getCert p seq (num 0 2) d, true) else bad
  | 2, 4 => if lenIs 33 then (getReport p seq (BitVec.ofNat 256 (num 0 32)) (BitVec.ofNat 8 (num 32 1)) d, true) else bad
  | 3, 1 => if lenIs 0 then ledgerMsg p seq .info d else bad
  | 3, 2 => if lenIs 5 then ledgerMsg p seq (.read (BitVec.ofNat 32 (num 0 4)) (BitVec.ofNat 8 (num 4 1))) d else bad
  | 3, 3 => if lenIs 0 then ledgerMsg p seq .nonce d else bad
  | 3, 4 =>
    if lenIs 198 then
      ledgerMsg p seq (.clear (BitVec.ofNat 32 (num 0 4)) (BitVec.ofNat 8 (num 4 1)) (Config.sha384 ((pay.drop 5).take 97))
        (BitVec.ofNat 768 (ofBytesLE ((pay.drop 102).take 96).reverse))) d
    else bad
  | 3, 5 => if lenIs 0 then ledgerMsg p seq .flush d else bad
  | _, _ => (unsupported p mclass cmd seq d, true)

/-- A complete message body: vendor defined (R329), or an MCTP control request (R393). Others are not for this endpoint. -/
def messageBody (p : Nat) (b : List (BitVec 8)) (d : Dev) : Dev × Bool :=
  if b.getD 0 0 = 0x7F ∧ (b.drop 1).take 4 = [0x00, 0x01, 0xC4, 0xA9] ∧ 10 ≤ b.length then vendorMsg p b d
  else if b.getD 0 0 = 0x00 then
    match (b.getD 2 0).toNat with
    | 1 => (setEid p (b.getD 4 0) d, true)
    | 2 => (getEid p d, true)
    | 4 => (getVersions p d, true)
    | 5 => (getTypes p d, true)
    | 6 => (getVendor p d, true)
    | _ => (d, true)
  else (d, true)

/-- A packet or message is discarded: the bit of SVC_PORT_p_ERR and event 18 (R393, R413). -/
def discardMsg (p : Nat) (err : Fld) (bit : Nat) (d : Dev) : Dev := raiseN 18 (bit + p * 256) (setB err true d)

/-- A packet whose PEC and header hold is added to the message being assembled; a complete message is taken, and one whose last
packet is NACKed waits for its retry (R393, R396). -/
def assemble (p : Nat) (pkt : Packet) (d : Dev) : Dev :=
  let q := portOf d p
  let d := if pkt.som && q.asm.isSome then discardMsg p (F.SVC_PORT_ERR_PARTIAL p) 3 d else d
  match (if pkt.som then some [] else q.asm) with
  | none => d
  | some have_ =>
    let body := have_ ++ pkt.payload
    if 1024 < body.length then discardMsg p (F.SVC_PORT_ERR_OVERSIZE p) 2 (onPort p (fun q => { q with asm := none }) d)
    else if !pkt.eom then onPort p (fun q => { q with asm := some body }) d
    else
      let (d', taken) := messageBody p body (onPort p (fun q => { q with asm := none }) d)
      if taken then d' else onPort p (fun q => { q with asm := if pkt.som then none else some have_ }) d'

/-- An MCTP packet (R393): its PEC, its header and payload length, then its place in a message. -/
def packetIn (p : Nat) (pkt : Packet) (d : Dev) : Dev :=
  let n := pkt.payload.length
  let sized := decide (1 ≤ n) && decide (n ≤ (portOf d p).mwl) && (pkt.eom || decide (64 ≤ n))
  if !awake d then d
  else if !pkt.pecOk then discardMsg p (F.SVC_PORT_ERR_PEC p) 0 (onPort p (fun q => { q with asm := none }) d)
  else if !pkt.hdrOk || !sized then discardMsg p (F.SVC_PORT_ERR_HDR p) 1 (onPort p (fun q => { q with asm := none }) d)
  else assemble p pkt d

/-- MCTP_PACKET (R393). -/
def execMctpPacket (p : SPort) (pkt : Packet) (s : State) : Host.Outcome State Fault Refusal := runQ (packetIn p.val pkt) s

end Sys2Proof.Machine
end

