-- ==== Sys2Proof/Machine/Dispatch.lean ====
section
/-!
DEFINITION. The meaning of every command, one arm per constructor.
-/
namespace Sys2Proof.Machine

/-- What a command does, the queue apart. -/
def exec (i : Instr) (s : State) : Host.Outcome State Fault Refusal :=
  match i with
  | .registerWrite p addr v => Sys2Proof.Machine.execRegisterWrite p addr v s
  | .unmappedControlAccess p addr write v => Sys2Proof.Machine.execUnmappedControlAccess p addr write v s
  | .lowHalfRead p addr => Sys2Proof.Machine.execLowHalfRead p addr s
  | .tick inp => Sys2Proof.Machine.execTick inp s
  | .dutyLevelFix => Sys2Proof.Machine.execDutyLevelFix s
  | .superframeBoundary entropyOk unblown => Sys2Proof.Machine.execSuperframeBoundary entropyOk unblown s
  | .epochBoundary => Sys2Proof.Machine.execEpochBoundary s
  | .epochScheduleStart => Sys2Proof.Machine.execEpochScheduleStart s
  | .runnelTick cal scrub corrected => Sys2Proof.Machine.execRunnelTick cal scrub corrected s
  | .nop h => Sys2Proof.Machine.execNop h s
  | .add h d a b => Sys2Proof.Machine.execAdd h d a b s
  | .sub h d a b => Sys2Proof.Machine.execSub h d a b s
  | .andOp h d a b => Sys2Proof.Machine.execAndOp h d a b s
  | .orOp h d a b => Sys2Proof.Machine.execOrOp h d a b s
  | .xorOp h d a b => Sys2Proof.Machine.execXorOp h d a b s
  | .andn h d a b => Sys2Proof.Machine.execAndn h d a b s
  | .shl h d a b f => Sys2Proof.Machine.execShl h d a b f s
  | .shr h d a b f => Sys2Proof.Machine.execShr h d a b f s
  | .sar h d a b f => Sys2Proof.Machine.execSar h d a b f s
  | .addi h d a imm => Sys2Proof.Machine.execAddi h d a imm s
  | .ldi h d imm => Sys2Proof.Machine.execLdi h d imm s
  | .extr h d a imm => Sys2Proof.Machine.execExtr h d a imm s
  | .ins h d a imm => Sys2Proof.Machine.execIns h d a imm s
  | .mul h d a b => Sys2Proof.Machine.execMul h d a b s
  | .mulh h d a b => Sys2Proof.Machine.execMulh h d a b s
  | .cmpeq h a b f => Sys2Proof.Machine.execCmpeq h a b f s
  | .cmpne h a b f => Sys2Proof.Machine.execCmpne h a b f s
  | .cmpltu h a b f => Sys2Proof.Machine.execCmpltu h a b f s
  | .cmplts h a b f => Sys2Proof.Machine.execCmplts h a b f s
  | .cmpeqi h d a imm => Sys2Proof.Machine.execCmpeqi h d a imm s
  | .plog h d a b f => Sys2Proof.Machine.execPlog h d a b f s
  | .sel h d a b f => Sys2Proof.Machine.execSel h d a b f s
  | .popc h d a => Sys2Proof.Machine.execPopc h d a s
  | .clz h d a => Sys2Proof.Machine.execClz h d a s
  | .br h target => Sys2Proof.Machine.execBr h target s
  | .call h target => Sys2Proof.Machine.execCall h target s
  | .callx h a => Sys2Proof.Machine.execCallx h a s
  | .ret h => Sys2Proof.Machine.execRet h s
  | .loopOp h count target => Sys2Proof.Machine.execLoopOp h count target s
  | .texit h => Sys2Proof.Machine.execTexit h s
  | .ld8 h d a imm => Sys2Proof.Machine.execLd8 h d a imm s
  | .ld16 h d a imm => Sys2Proof.Machine.execLd16 h d a imm s
  | .ld32 h d a imm => Sys2Proof.Machine.execLd32 h d a imm s
  | .ld64 h d a imm => Sys2Proof.Machine.execLd64 h d a imm s
  | .st8 h d a imm => Sys2Proof.Machine.execSt8 h d a imm s
  | .st16 h d a imm => Sys2Proof.Machine.execSt16 h d a imm s
  | .st32 h d a imm => Sys2Proof.Machine.execSt32 h d a imm s
  | .st64 h d a imm => Sys2Proof.Machine.execSt64 h d a imm s
  | .ldp h d a imm => Sys2Proof.Machine.execLdp h d a imm s
  | .stp h d a imm => Sys2Proof.Machine.execStp h d a imm s
  | .slotpop h d f => Sys2Proof.Machine.execSlotpop h d f s
  | .mpost h d a f => Sys2Proof.Machine.execMpost h d a f s
  | .mpop h d f => Sys2Proof.Machine.execMpop h d f s
  | .rdtk h d => Sys2Proof.Machine.execRdtk h d s
  | .cnt h imm => Sys2Proof.Machine.execCnt h imm s
  | .mcmd h d a b => Sys2Proof.Machine.execMcmd h d a b s
  | .mrb h a b f => Sys2Proof.Machine.execMrb h a b f s
  | .mstat h d a b => Sys2Proof.Machine.execMstat h d a b s
  | .mdin h d a b => Sys2Proof.Machine.execMdin h d a b s
  | .mdout h d a b f => Sys2Proof.Machine.execMdout h d a b f s
  | .mlog h d b f => Sys2Proof.Machine.execMlog h d b f s
  | .xmov h a f => Sys2Proof.Machine.execXmov h a f s
  | .xpoll h d a => Sys2Proof.Machine.execXpoll h d a s
  | .xferComplete rn desc status htag leaf => Sys2Proof.Machine.execXferComplete rn desc status htag leaf s
  | .engineFault rn found => Sys2Proof.Machine.execEngineFault rn found s
  | .spareSubstituted dataLost => Sys2Proof.Machine.execSpareSubstituted dataLost s
  | .wardenRecordExpire => Sys2Proof.Machine.execWardenRecordExpire s
  | .wardenDisagreement => Sys2Proof.Machine.execWardenDisagreement s
  | .schCycClr p => Sys2Proof.Machine.execSchCycClr p s
  | .dieOperationComplete ch die status => Sys2Proof.Machine.execDieOperationComplete ch die status s
  | .eraseSuspend ch die status => Sys2Proof.Machine.execEraseSuspend ch die status s
  | .blankCheck ch die zeros => Sys2Proof.Machine.execBlankCheck ch die zeros s
  | .busyTimeout ch die => Sys2Proof.Machine.execBusyTimeout ch die s
  | .reqReceived port r draw => Sys2Proof.Machine.execReqReceived port r draw s
  | .readShared htag => Sys2Proof.Machine.execReadShared htag s
  | .readOwn htag => Sys2Proof.Machine.execReadOwn htag s
  | .upgrade htag => Sys2Proof.Machine.execUpgrade htag s
  | .writeLine htag => Sys2Proof.Machine.execWriteLine htag s
  | .writePartial htag => Sys2Proof.Machine.execWritePartial htag s
  | .writeBack htag => Sys2Proof.Machine.execWriteBack htag s
  | .evictClean htag => Sys2Proof.Machine.execEvictClean htag s
  | .reserveRead htag => Sys2Proof.Machine.execReserveRead htag s
  | .condWrite htag => Sys2Proof.Machine.execCondWrite htag s
  | .barrier htag => Sys2Proof.Machine.execBarrier htag s
  | .reservedRequest port r => Sys2Proof.Machine.execReservedRequest port r s
  | .reissuedRequest port agent tag => Sys2Proof.Machine.execReissuedRequest port agent tag s
  | .admission port agent tag => Sys2Proof.Machine.execAdmission port agent tag s
  | .windowResolution htag => Sys2Proof.Machine.execWindowResolution htag s
  | .activation laddr tagOk ecc => Sys2Proof.Machine.execActivation laddr tagOk ecc s
  | .rebind htag => Sys2Proof.Machine.execRebind htag s
  | .wayAllocation read => Sys2Proof.Machine.execWayAllocation read s
  | .snpRspI port agent htag home => Sys2Proof.Machine.execSnpRspI port agent htag home s
  | .snpRspFwdS port agent htag home => Sys2Proof.Machine.execSnpRspFwdS port agent htag home s
  | .snpRspFwdI port agent htag home => Sys2Proof.Machine.execSnpRspFwdI port agent htag home s
  | .snpRspIData port agent htag home => Sys2Proof.Machine.execSnpRspIData port agent htag home s
  | .dataWr port agent htag bmask data tagOk => Sys2Proof.Machine.execDataWr port agent htag bmask data tagOk s
  | .dataSnp port agent htag poison data => Sys2Proof.Machine.execDataSnp port agent htag poison data s
  | .depart port agent => Sys2Proof.Machine.execDepart port agent s
  | .down port agent target => Sys2Proof.Machine.execDown port agent target s
  | .reservedAgentEvt port agent op => Sys2Proof.Machine.execReservedAgentEvt port agent op s
  | .snoopTimeout htag agent => Sys2Proof.Machine.execSnoopTimeout htag agent s
  | .pullTimeout htag => Sys2Proof.Machine.execPullTimeout htag s
  | .skinkWalkStep ecc => Sys2Proof.Machine.execSkinkWalkStep ecc s
  | .lineLossMark laddr => Sys2Proof.Machine.execLineLossMark laddr s
  | .htagQuarantineEnd htag => Sys2Proof.Machine.execHtagQuarantineEnd htag s
  | .declare p agent => Sys2Proof.Machine.execDeclare p agent s
  | .clear p agent => Sys2Proof.Machine.execClear p agent s
  | .barrierCompletion htag => Sys2Proof.Machine.execBarrierCompletion htag s
  | .dirtyRoomWaitEnd htag => Sys2Proof.Machine.execDirtyRoomWaitEnd htag s
  | .flitReceived link f => Sys2Proof.Machine.execFlitReceived link f s
  | .holdFlit link f => Sys2Proof.Machine.execHoldFlit link f s
  | .nakRetryTimer link => Sys2Proof.Machine.execNakRetryTimer link s
  | .swapReq link lane => Sys2Proof.Machine.execSwapReq link lane s
  | .swapRdy link lane => Sys2Proof.Machine.execSwapRdy link lane s
  | .swapCommit link frame => Sys2Proof.Machine.execSwapCommit link frame s
  | .halfReq link map => Sys2Proof.Machine.execHalfReq link map s
  | .halfCommit link frame => Sys2Proof.Machine.execHalfCommit link frame s
  | .realign link => Sys2Proof.Machine.execRealign link s
  | .laneSwitchFrame link => Sys2Proof.Machine.execLaneSwitchFrame link s
  | .laneFailure link lane errors lockLost => Sys2Proof.Machine.execLaneFailure link lane errors lockLost s
  | .swapTimeout link => Sys2Proof.Machine.execSwapTimeout link s
  | .trainingFramesReceived link tstate => Sys2Proof.Machine.execTrainingFramesReceived link tstate s
  | .trainingStateExit link lanes found => Sys2Proof.Machine.execTrainingStateExit link lanes found s
  | .param link w0 w1 w2 => Sys2Proof.Machine.execParam link w0 w1 w2 s
  | .trainingTimeout link => Sys2Proof.Machine.execTrainingTimeout link s
  | .downTimeout port => Sys2Proof.Machine.execDownTimeout port s
  | .fabCmdRealign p port => Sys2Proof.Machine.execFabCmdRealign p port s
  | .tenureEnd ch acc => Sys2Proof.Machine.execTenureEnd ch acc s
  | .refreshPreempt cut => Sys2Proof.Machine.execRefreshPreempt cut s
  | .jtagPreempt cut => Sys2Proof.Machine.execJtagPreempt cut s
  | .frameAllocation htag => Sys2Proof.Machine.execFrameAllocation htag s
  | .mergeWindowExpiry laddr tagOk => Sys2Proof.Machine.execMergeWindowExpiry laddr tagOk s
  | .scrubGo p => Sys2Proof.Machine.execScrubGo p s
  | .probeGo p v => Sys2Proof.Machine.execProbeGo p v s
  | .rekeyWalkStep => Sys2Proof.Machine.execRekeyWalkStep s
  | .entropyHealthFailure => Sys2Proof.Machine.execEntropyHealthFailure s
  | .inv p => Sys2Proof.Machine.execInv p s
  | .key page idx v mask => Sys2Proof.Machine.execKey page idx v mask s
  | .first page len last => Sys2Proof.Machine.execFirst page len last s
  | .macContinue page len => Sys2Proof.Machine.execMacContinue page len s
  | .last page len first => Sys2Proof.Machine.execLast page len first s
  | .keyclr page => Sys2Proof.Machine.execKeyclr page s
  | .macWindowRequest port r bmask data => Sys2Proof.Machine.execMacWindowRequest port r bmask data s
  | .upd recs => Sys2Proof.Machine.execUpd recs s
  | .wmir leaf lines => Sys2Proof.Machine.execWmir leaf lines s
  | .mirrorAck seq => Sys2Proof.Machine.execMirrorAck seq s
  | .claim c => Sys2Proof.Machine.execClaim c s
  | .void channel window release => Sys2Proof.Machine.execVoid channel window release s
  | .leaf leaf use poison lines verified => Sys2Proof.Machine.execLeaf leaf use poison lines verified s
  | .lreq kind leaf line set way => Sys2Proof.Machine.execLreq kind leaf line set way s
  | .hb spos level state wok gtick => Sys2Proof.Machine.execHb spos level state wok gtick s
  | .decl agent cause what => Sys2Proof.Machine.execDecl agent cause what s
  | .hs step data => Sys2Proof.Machine.execHs step data s
  | .ctlDetach => Sys2Proof.Machine.execCtlDetach s
  | .handover => Sys2Proof.Machine.execHandover s
  | .restoreSent => Sys2Proof.Machine.execRestoreSent s
  | .retire cidx => Sys2Proof.Machine.execRetire cidx s
  | .sfway set way entry => Sys2Proof.Machine.execSfway set way entry s
  | .reservedMcls mcls => Sys2Proof.Machine.execReservedMcls mcls s
  | .ticksyncPulse diff => Sys2Proof.Machine.execTicksyncPulse diff s
  | .partnerLost => Sys2Proof.Machine.execPartnerLost s
  | .ticksyncLost => Sys2Proof.Machine.execTicksyncLost s
  | .linkLossTimeout => Sys2Proof.Machine.execLinkLossTimeout s
  | .takeoverAnnounce => Sys2Proof.Machine.execTakeoverAnnounce s
  | .reissuePhaseEnd => Sys2Proof.Machine.execReissuePhaseEnd s
  | .detach p => Sys2Proof.Machine.execDetach p s
  | .detachDrainEnd => Sys2Proof.Machine.execDetachDrainEnd s
  | .handshakeTimeout => Sys2Proof.Machine.execHandshakeTimeout s
  | .handshakeRetry => Sys2Proof.Machine.execHandshakeRetry s
  | .resilverCopyComplete => Sys2Proof.Machine.execResilverCopyComplete s
  | .cidxWaitEnd htag => Sys2Proof.Machine.execCidxWaitEnd htag s
  | .coldStart vstbyOk => Sys2Proof.Machine.execColdStart vstbyOk s
  | .resetN ticks => Sys2Proof.Machine.execResetN ticks s
  | .rst p => Sys2Proof.Machine.execRst p s
  | .solo p => Sys2Proof.Machine.execSolo p s
  | .sequencing roleB fuses => Sys2Proof.Machine.execSequencing roleB fuses s
  | .grottoRecovery => Sys2Proof.Machine.execGrottoRecovery s
  | .keyUnwrap fuses ok entropyOk => Sys2Proof.Machine.execKeyUnwrap fuses ok entropyOk s
  | .imageVerify flash => Sys2Proof.Machine.execImageVerify flash s
  | .flashReadTimeout copyB => Sys2Proof.Machine.execFlashReadTimeout copyB s
  | .runnelLoad => Sys2Proof.Machine.execRunnelLoad s
  | .mediaRecovery trained topOk dies => Sys2Proof.Machine.execMediaRecovery trained topOk dies s
  | .channelTraining ch run ext => Sys2Proof.Machine.execChannelTraining ch run ext s
  | .factoryScan ch die bad => Sys2Proof.Machine.execFactoryScan ch die bad s
  | .mapRebuild failed torn => Sys2Proof.Machine.execMapRebuild failed torn s
  | .pairingComplete => Sys2Proof.Machine.execPairingComplete s
  | .startupStepTimeout => Sys2Proof.Machine.execStartupStepTimeout s
  | .servingStart => Sys2Proof.Machine.execServingStart s
  | .tadpoleEnd => Sys2Proof.Machine.execTadpoleEnd s
  | .tadpoleTimeout => Sys2Proof.Machine.execTadpoleTimeout s
  | .railQualified r => Sys2Proof.Machine.execRailQualified r s
  | .railQualifyTimeout r => Sys2Proof.Machine.execRailQualifyTimeout r s
  | .railDischarged r => Sys2Proof.Machine.execRailDischarged r s
  | .dischargeTimeout r => Sys2Proof.Machine.execDischargeTimeout r s
  | .railFault r cause => Sys2Proof.Machine.execRailFault r cause s
  | .goodLow r ns => Sys2Proof.Machine.execGoodLow r ns s
  | .inputFailure bank => Sys2Proof.Machine.execInputFailure bank s
  | .pfaultFollow => Sys2Proof.Machine.execPfaultFollow s
  | .quiesceEnd => Sys2Proof.Machine.execQuiesceEnd s
  | .spillwayPhase => Sys2Proof.Machine.execSpillwayPhase s
  | .vinReturn => Sys2Proof.Machine.execVinReturn s
  | .spillwayResume => Sys2Proof.Machine.execSpillwayResume s
  | .off p => Sys2Proof.Machine.execOff p s
  | .huMeas p => Sys2Proof.Machine.execHuMeas p s
  | .bankMeasurementSample => Sys2Proof.Machine.execBankMeasurementSample s
  | .bankMeasurementEnd => Sys2Proof.Machine.execBankMeasurementEnd s
  | .pageWrite addr bytes => Sys2Proof.Machine.execPageWrite addr bytes s
  | .pageWriteStart => Sys2Proof.Machine.execPageWriteStart s
  | .physicalProgramDone ok => Sys2Proof.Machine.execPhysicalProgramDone ok s
  | .sectorMove sector => Sys2Proof.Machine.execSectorMove sector s
  | .marginRead weak bad => Sys2Proof.Machine.execMarginRead weak bad s
  | .protect p level => Sys2Proof.Machine.execProtect p level s
  | .grtRdData p bad => Sys2Proof.Machine.execGrtRdData p bad s
  | .sensorFailure k => Sys2Proof.Machine.execSensorFailure k s
  | .thermalTrip => Sys2Proof.Machine.execThermalTrip s
  | .thermalStartHold t22 t23 => Sys2Proof.Machine.execThermalStartHold t22 t23 s
  | .thmPeakClr p => Sys2Proof.Machine.execThmPeakClr p s
  | .refclkFailure => Sys2Proof.Machine.execRefclkFailure s
  | .entdaa p da => Sys2Proof.Machine.execEntdaa p da s
  | .setdasa p static da => Sys2Proof.Machine.execSetdasa p static da s
  | .rstdaa p => Sys2Proof.Machine.execRstdaa p s
  | .enec p => Sys2Proof.Machine.execEnec p s
  | .disec p => Sys2Proof.Machine.execDisec p s
  | .getpid p => Sys2Proof.Machine.execGetpid p s
  | .getbcr p => Sys2Proof.Machine.execGetbcr p s
  | .getdcr p => Sys2Proof.Machine.execGetdcr p s
  | .getstatus p => Sys2Proof.Machine.execGetstatus p s
  | .getmwl p => Sys2Proof.Machine.execGetmwl p s
  | .setmwl p n => Sys2Proof.Machine.execSetmwl p n s
  | .getmrl p => Sys2Proof.Machine.execGetmrl p s
  | .setmrl p n => Sys2Proof.Machine.execSetmrl p n s
  | .rstact p action => Sys2Proof.Machine.execRstact p action s
  | .targetReset p => Sys2Proof.Machine.execTargetReset p s
  | .mctpPacket p pkt => Sys2Proof.Machine.execMctpPacket p pkt s
  | .setEndpointId p eid => Sys2Proof.Machine.execSetEndpointId p eid s
  | .getEndpointId p => Sys2Proof.Machine.execGetEndpointId p s
  | .getMctpVersionSupport p => Sys2Proof.Machine.execGetMctpVersionSupport p s
  | .getMessageTypeSupport p => Sys2Proof.Machine.execGetMessageTypeSupport p s
  | .getVendorDefinedMessageSupport p => Sys2Proof.Machine.execGetVendorDefinedMessageSupport p s
  | .read p seq addr count lenOk => Sys2Proof.Machine.execRead p seq addr count lenOk s
  | .write p seq addr count words => Sys2Proof.Machine.execWrite p seq addr count words s
  | .unsupportedCommand p mclass cmd seq => Sys2Proof.Machine.execUnsupportedCommand p mclass cmd seq s
  | .executorAccess mid => Sys2Proof.Machine.execExecutorAccess mid s
  | .evtRillLo p => Sys2Proof.Machine.execEvtRillLo p s
  | .flush p mid => Sys2Proof.Machine.execFlush p mid s
  | .flushCmd p target mid => Sys2Proof.Machine.execFlushCmd p target mid s
  | .rillFlush p command => Sys2Proof.Machine.execRillFlush p command s
  | .acquire p => Sys2Proof.Machine.execAcquire p s
  | .release p => Sys2Proof.Machine.execRelease p s
  | .lockTimeout => Sys2Proof.Machine.execLockTimeout s
  | .beginTxn p shadowRd => Sys2Proof.Machine.execBeginTxn p shadowRd s
  | .commit p shadowRd => Sys2Proof.Machine.execCommit p shadowRd s
  | .rollback p shadowRd => Sys2Proof.Machine.execRollback p shadowRd s
  | .commitCheck => Sys2Proof.Machine.execCommitCheck s
  | .commitBoundary => Sys2Proof.Machine.execCommitBoundary s
  | .getVersion p seq => Sys2Proof.Machine.execGetVersion p seq s
  | .getIdentity p seq => Sys2Proof.Machine.execGetIdentity p seq s
  | .getCert p seq offset => Sys2Proof.Machine.execGetCert p seq offset s
  | .getReport p seq nonce mask => Sys2Proof.Machine.execGetReport p seq nonce mask s
  | .reportSigned p => Sys2Proof.Machine.execReportSigned p s
  | .clrwrap p => Sys2Proof.Machine.execClrwrap p s
  | .zero p => Sys2Proof.Machine.execZero p s
  | .counterSweep => Sys2Proof.Machine.execCounterSweep s
  | .freeze p on => Sys2Proof.Machine.execFreeze p on s
  | .pop p => Sys2Proof.Machine.execPop p s
  | .ledgerGrottoWrite => Sys2Proof.Machine.execLedgerGrottoWrite s
  | .getInfo p seq => Sys2Proof.Machine.execGetInfo p seq s
  | .ledgerRead p seq from_ count => Sys2Proof.Machine.execLedgerRead p seq from_ count s
  | .getNonce p seq => Sys2Proof.Machine.execGetNonce p seq s
  | .ledgerClear p seq upto slot pubkeyHash sig => Sys2Proof.Machine.execLedgerClear p seq upto slot pubkeyHash sig s
  | .ledgerFlush p seq => Sys2Proof.Machine.execLedgerFlush p seq s
  | .nonceLapse => Sys2Proof.Machine.execNonceLapse s
  | .repopulationFetch die leaf poison lines => Sys2Proof.Machine.execRepopulationFetch die leaf poison lines s
  | .reservedResponseOp port agent dat op => Sys2Proof.Machine.execReservedResponseOp port agent dat op s
  | .pfaultNReleased => Sys2Proof.Machine.execPfaultNReleased s
  | .resetNRelease => Sys2Proof.Machine.execResetNRelease s
  | .powerRemoved => Sys2Proof.Machine.execPowerRemoved s
  | .energyStoreFault => Sys2Proof.Machine.execEnergyStoreFault s

end Sys2Proof.Machine
end

