-- ==== Sys2Proof/WellFormed.lean ====
section
/-!
DEFINITION. Well-formed commands: operands that some interface of the device can carry. A command that
fails a check is refused by `step` before any meaning runs (log entry 1).
-/
namespace Sys2Proof

/-- The request codes R108 defines; 0 and every other code are reserved (R108). -/
def reqOps : List Nat := [1, 2, 3, 4, 5, 6, 7, 8, 9, 10]

/-- A LEAF carries the 64 lines of its leaf (R295). -/
def wfLeaf (lines : List Line) : Bool := lines.length = 64

/-- An UPD carries 1 to 128 records (R295). -/
def wfUpd (recs : List UpdRec) : Bool := decide (1 ≤ recs.length) && decide (recs.length ≤ 128)

/-- A WMIR carries 1 to 64 lines of one leaf (R295). -/
def wfWmir (ls : List WmirLine) : Bool := decide (1 ≤ ls.length) && decide (ls.length ≤ 64)

/-- A tick samples 16 rails and 24 sensors (R349, R384). -/
def wfTick (i : TickIn) : Bool := decide (i.rails.length = 16) && decide (i.sensors.length = 24)

/-- A page write carries the 256 bytes of a logical page (R373), at a page boundary. -/
def wfPage (addr : BitVec 22) (bytes : List (BitVec 8)) : Bool :=
  decide (bytes.length = 256) && decide (addr.toNat % 256 = 0)

/-- Well-formedness. -/
def wellFormed : Instr → Bool
  | .tick i => wfTick i
  | .reqReceived _ r _ => decide (r.op.toNat ∈ reqOps)
  | .reservedRequest _ r => decide (r.op.toNat ∉ reqOps)
  | .leaf _ _ _ ls _ => wfLeaf ls
  | .repopulationFetch _ _ _ ls => wfLeaf ls
  | .upd rs => wfUpd rs
  | .wmir _ ls => wfWmir ls
  | .pageWrite a bs => wfPage a bs
  | .retire cs => decide (1 ≤ cs.length)
  | .sequencing _ fs => decide (fs.length = 6)
  | .keyUnwrap fs _ _ => decide (fs.length = 4)
  | .registerWrite _ a _ => decide (a.toNat % 4 = 0)
  | .unmappedControlAccess _ a _ _ => decide (a.toNat % 4 = 0)
  | .lowHalfRead _ a => decide (a.toNat % 4 = 0)
  | _ => true

end Sys2Proof
end

