-- ==== Sys2Proof/Safety.lean ====
section
/-!
DEFINITION. The terms the statements use: a safe run, and what a command leaves unchanged.
-/
namespace Sys2Proof
open Sys2Proof.Machine

/-- Every waiting command is one that an interface can carry. -/
def Safety.wellFormedQueue (s : State) : Bool := s.pending.all wellFormed

/-- The machine answers a next state. -/
def Safety.runs (s : State) : Prop := ∃ t, step s = .next t

/-- The registers stand in the one form that each content has: keys rising, none at its reset value. -/
def Safety.regsWf (d : Dev) : Prop := SMap.wfBy resetOf 0 d.regs = true

/-- The registers that raising events changes: EVT_PEND (R408), and the counts of what was dropped, suppressed or overwritten
(R408, R419, R422). -/
def Safety.eventReg (a : Nat) : Bool :=
  (decide (0x200100 ≤ a) && decide (a < 0x200140)) || decide (a ∈ [F.EVT_DROP_COUNT.addr, F.OBS_LED_DROP_COUNT.addr,
    F.OBS_LED_SUPP_COUNT.addr, F.OBS_GK_STS_OVW.addr])

/-- An event stands in EVT_PEND (R408). -/
def Safety.pending (d : Dev) (n : Nat) : Bool := flag d ⟨0x200100 + 4 * (n / 32), n % 32, n % 32⟩

/-- What a command can leave alone: each component of `Dev`; of `regs` the registers that raising events
does not change; of `glb` the base device state of R3 and GLB_TICK; and two facts that hold on once they hold: a device in
Withdrawn stays there (R5), and the registers keep their one form. -/
inductive Safety.Part where
  | regs | glb | svc | sch | fab | bsn | ntr | med | xlt | slu | twn | pwr | grt | thm | obs | spr | free
  | plain | base | tick | stay | form
  deriving DecidableEq, Repr

/-- A part is the same in both devices, or its fact holds on. -/
def Safety.Part.same : Safety.Part → Dev → Dev → Prop
  | .regs, d, e => e.regs = d.regs
  | .glb, d, e => e.glb = d.glb
  | .svc, d, e => e.svc = d.svc
  | .sch, d, e => e.sch = d.sch
  | .fab, d, e => e.fab = d.fab
  | .bsn, d, e => e.bsn = d.bsn
  | .ntr, d, e => e.ntr = d.ntr
  | .med, d, e => e.med = d.med
  | .xlt, d, e => e.xlt = d.xlt
  | .slu, d, e => e.slu = d.slu
  | .twn, d, e => e.twn = d.twn
  | .pwr, d, e => e.pwr = d.pwr
  | .grt, d, e => e.grt = d.grt
  | .thm, d, e => e.thm = d.thm
  | .obs, d, e => e.obs = d.obs
  | .spr, d, e => e.spr = d.spr
  | .free, d, e => e.free = d.free
  | .plain, d, e => ∀ a, Safety.eventReg a = false → regGet e a = regGet d a
  | .base, d, e => e.glb.base = d.glb.base
  | .tick, d, e => e.glb.tick = d.glb.tick
  | .stay, d, e => d.glb.base = .withdrawn → e.glb.base = .withdrawn
  | .form, d, e => Safety.regsWf d → Safety.regsWf e

/-- Every part outside `M` is the same. -/
def Safety.Keeps (M : List Safety.Part) (d e : Dev) : Prop := ∀ p, p ∉ M → p.same d e

/-! ## Runnel operations (R53-R58) -/

/-- The core as the bundle of an operation issued: as it stands when the operation is the bundle's first (R57). -/
def Safety.issueOf (r : Runnel) : Core := if r.core.slots = 0 then r.core else r.issue

/-- An operation issues with its guard true (R56-R58): its runnel runs and has cycles left, the bundle stays legal with it, and
an operation that ends its bundle ends one that only falls through and asks nothing of other units. -/
def Safety.Issues (h : OpHdr) (o : OpShape) (d : Dev) : Prop :=
  let r := runnelOf d h.rn.val
  r.st = .running ∧ r.cyc < 2000 ∧ bundleBad r o = false ∧ (o.slot = .media → h.rn.val < 32) ∧
    guardOn (Safety.issueOf r) h.guard = true ∧
    (h.last = true → r.core.ctl = .none ∧ r.core.reqs = [] ∧ r.core.counts = [])

/-- The general register an operation names. -/
def Safety.src (h : OpHdr) (d : Dev) (i : BitVec 5) : Word64 := (Safety.issueOf (runnelOf d h.rn.val)).reg i.toNat

/-- Only the core of the operation's runnel and the count of free values change. -/
def Safety.OnlyCore (h : OpHdr) (d e : Dev) : Prop :=
  Safety.Keeps [.sch, .free] d e ∧ (∀ m, m ≠ h.rn.val → runnelOf e m = runnelOf d m) ∧ e.sch.windows = d.sch.windows ∧
    e.sch.records = d.sch.records

/-- The result of an operation that writes the general registers `D` by `v`: nothing else of the core that programs see changes. -/
def Safety.RegResult (h : OpHdr) (D : List Nat) (v : Nat → Word64) (d e : Dev) : Prop :=
  let x := (runnelOf d h.rn.val).core
  let y := (runnelOf e h.rn.val).core
  (∀ i, y.reg i = if i ∈ D then v i else x.reg i) ∧ y.p = x.p ∧ y.data = x.data ∧ y.ret = x.ret ∧ y.outbox = x.outbox ∧
    Safety.OnlyCore h d e

/-- The result of an operation that writes one predicate: p0 stays (R53), and nothing else of the core that programs see changes. -/
def Safety.PredResult (h : OpHdr) (p : Nat) (b : Bool) (d e : Dev) : Prop :=
  let x := (runnelOf d h.rn.val).core
  let y := (runnelOf e h.rn.val).core
  (∀ i, i < 8 → y.pred i = if i = p ∧ p ≠ 0 then b else x.pred i) ∧ y.g = x.g ∧ y.data = x.data ∧ y.ret = x.ret ∧
    y.outbox = x.outbox ∧ Safety.OnlyCore h d e

/-- An operation issues with its guard true as the last of a bundle that asks nothing of other units: the bundle's control is
the operation's own to decide. -/
def Safety.IssuesLast (h : OpHdr) (o : OpShape) (d : Dev) : Prop :=
  let r := runnelOf d h.rn.val
  r.st = .running ∧ r.cyc < 2000 ∧ bundleBad r o = false ∧ (o.slot = .media → h.rn.val < 32) ∧
    guardOn (Safety.issueOf r) h.guard = true ∧ h.last = true ∧ r.core.reqs = [] ∧ r.core.counts = []

/-- The result of a bundle that ends with an operation of `cycles` (R57): control at `pc` with the return stack `ret`, the bundle's
cost and `extra` spent; registers, predicates and data SRAM unchanged. -/
def Safety.CtlResult (h : OpHdr) (cycles extra : Nat) (pc : BitVec 12) (ret : List (BitVec 12)) (d e : Dev) : Prop :=
  let x := runnelOf d h.rn.val
  let y := runnelOf e h.rn.val
  y.st = .running ∧ y.pc = pc ∧ y.core.ret = ret ∧ y.cyc = x.cyc + max x.cost cycles + extra ∧ y.cost = 0 ∧ y.core.slots = 0 ∧
    y.core.g = x.core.g ∧ y.core.p = x.core.p ∧ y.core.data = x.core.data ∧ y.core.outbox = x.core.outbox ∧ Safety.OnlyCore h d e

/-- A runnel fault (R69): the runnel stops with the cause, and the bundle's operations have no effect. -/
def Safety.FaultResult (h : OpHdr) (cause : Nat) (d e : Dev) : Prop :=
  let x := runnelOf d h.rn.val
  let y := runnelOf e h.rn.val
  y.st = .faulted (BitVec.ofNat 4 cause) ∧ y.core = Safety.issueOf x ∧ y.pc = x.pc ∧ Safety.OnlyCore h d e

/-- What a command may change; everything else it leaves alone, whatever the state. -/
def Safety.touches (c : Instr) : List Safety.Part :=
  match c with
  | .registerWrite .. | .executorAccess .. =>
    [.regs, .glb, .svc, .sch, .fab, .bsn, .ntr, .med, .xlt, .slu, .twn, .pwr, .grt, .thm, .obs, .spr, .free, .plain, .base]
  | .unmappedControlAccess .. | .tadpoleEnd .. | .tadpoleTimeout .. | .unsupportedCommand .. | .getVersion ..
  | .getIdentity .. | .getCert .. | .getReport .. =>
    [.regs, .glb, .svc, .fab, .obs]
  | .lowHalfRead .. | .grtRdData .. =>
    [.regs, .glb, .svc, .fab, .grt, .obs, .free, .plain]
  | .tick .. =>
    [.regs, .glb, .svc, .sch, .fab, .bsn, .ntr, .med, .xlt, .slu, .twn, .pwr, .grt, .thm, .obs, .plain, .base, .tick]
  | .dutyLevelFix .. | .reissuedRequest .. | .admission .. | .mirrorAck .. =>
    [.regs, .glb, .svc, .sch, .fab, .bsn, .twn, .obs, .plain]
  | .superframeBoundary .. =>
    [.regs, .glb, .svc, .sch, .fab, .med, .xlt, .pwr, .grt, .obs, .spr, .plain]
  | .epochBoundary .. =>
    [.regs, .glb, .svc, .fab, .ntr, .grt, .obs, .plain]
  | .epochScheduleStart .. | .entdaa .. | .setdasa .. | .enec .. | .disec .. =>
    [.regs, .plain]
  | .runnelTick .. | .xferComplete .. =>
    [.regs, .glb, .svc, .sch, .fab, .bsn, .ntr, .med, .xlt, .slu, .twn, .obs, .free, .plain]
  | .nop .. | .add .. | .sub .. | .andOp .. | .orOp .. | .xorOp .. | .andn .. | .shl .. | .shr .. | .sar .. | .addi ..
  | .ldi .. | .extr .. | .ins .. | .mul .. | .mulh .. | .cmpeq .. | .cmpne .. | .cmpltu .. | .cmplts .. | .cmpeqi ..
  | .plog .. | .sel .. | .popc .. | .clz .. | .br .. | .call .. | .callx .. | .ret .. | .loopOp .. | .texit .. | .ld8 ..
  | .ld16 .. | .ld32 .. | .ld64 .. | .st8 .. | .st16 .. | .st32 .. | .st64 .. | .ldp .. | .stp .. | .slotpop .. | .mpost ..
  | .mpop .. | .rdtk .. | .cnt .. | .mcmd .. | .mrb .. | .mstat .. | .mdin .. | .mdout .. | .mlog .. | .xmov .. | .xpoll .. =>
    [.regs, .glb, .svc, .sch, .fab, .ntr, .med, .xlt, .slu, .obs, .free, .plain]
  | .engineFault .. | .wardenDisagreement .. =>
    [.regs, .glb, .svc, .sch, .fab, .bsn, .ntr, .med, .twn, .pwr, .grt, .obs, .free, .plain, .base]
  | .spareSubstituted .. =>
    [.regs, .glb, .svc, .sch, .fab, .bsn, .med, .twn, .grt, .obs, .free, .plain]
  | .wardenRecordExpire .. =>
    [.sch]
  | .schCycClr .. | .probeGo .. | .thmPeakClr .. | .setEndpointId .. | .freeze .. =>
    [.regs, .svc, .plain]
  | .dieOperationComplete .. | .mediaRecovery .. =>
    [.regs, .glb, .svc, .fab, .bsn, .ntr, .med, .xlt, .slu, .twn, .pwr, .grt, .obs, .free, .plain, .base]
  | .eraseSuspend .. | .blankCheck .. | .busyTimeout .. | .tenureEnd .. | .hs .. | .factoryScan .. =>
    [.regs, .glb, .svc, .fab, .bsn, .ntr, .med, .xlt, .slu, .twn, .pwr, .grt, .obs, .plain, .base]
  | .reqReceived .. | .reservedRequest .. =>
    [.regs, .glb, .svc, .fab, .bsn, .obs, .plain]
  | .readShared .. | .readOwn .. | .upgrade .. | .writeLine .. | .writePartial .. | .writeBack .. | .evictClean ..
  | .reserveRead .. | .condWrite .. | .windowResolution .. | .rebind .. | .snpRspI .. | .snpRspFwdS ..
  | .snpRspFwdI .. | .snpRspIData .. | .dataWr .. | .dataSnp .. | .down .. | .snoopTimeout .. | .pullTimeout ..
  | .lineLossMark .. | .declare .. | .dirtyRoomWaitEnd .. | .param .. | .downTimeout .. | .frameAllocation .. | .leaf ..
  | .decl .. | .sfway .. | .cidxWaitEnd .. =>
    [.regs, .glb, .svc, .sch, .fab, .bsn, .ntr, .med, .slu, .twn, .obs, .plain]
  | .barrier .. | .barrierCompletion .. =>
    [.regs, .glb, .svc, .fab, .bsn, .obs]
  | .activation .. | .wayAllocation .. | .ctlDetach .. | .partnerLost .. | .solo .. =>
    [.regs, .glb, .svc, .sch, .fab, .bsn, .ntr, .med, .slu, .twn, .grt, .obs, .plain]
  | .depart .. =>
    [.regs, .glb, .svc, .fab, .bsn, .slu, .obs, .plain]
  | .reservedAgentEvt .. | .nakRetryTimer .. | .realign .. | .laneSwitchFrame .. | .laneFailure ..
  | .trainingFramesReceived .. | .trainingTimeout .. | .fabCmdRealign .. | .entropyHealthFailure .. | .reservedMcls ..
  | .read .. | .write .. | .acquire .. | .release .. | .lockTimeout .. | .beginTxn .. | .commit .. | .rollback ..
  | .ledgerGrottoWrite .. | .reservedResponseOp .. =>
    [.regs, .glb, .svc, .fab, .obs, .plain]
  | .skinkWalkStep .. =>
    [.regs, .glb, .svc, .sch, .fab, .bsn, .ntr, .med, .slu, .twn, .grt, .obs, .plain]
  | .htagQuarantineEnd .. =>
    [.bsn]
  | .clear .. | .holdFlit .. | .trainingStateExit .. =>
    [.regs, .glb, .svc, .fab, .bsn, .twn, .obs, .plain]
  | .flitReceived .. =>
    [.regs, .glb, .svc, .sch, .fab, .bsn, .ntr, .med, .slu, .twn, .obs, .free, .plain]
  | .swapReq .. | .swapRdy .. | .swapCommit .. | .halfReq .. | .halfCommit .. | .swapTimeout .. =>
    [.fab]
  | .refreshPreempt .. =>
    [.regs, .glb, .svc, .fab, .ntr, .obs]
  | .jtagPreempt .. =>
    [.regs, .glb, .svc, .fab, .bsn, .ntr, .obs]
  | .mergeWindowExpiry .. =>
    [.regs, .glb, .svc, .fab, .bsn, .ntr, .slu, .twn, .obs, .plain]
  | .scrubGo .. =>
    [.regs, .svc, .ntr, .plain]
  | .rekeyWalkStep .. | .quiesceEnd .. =>
    [.regs, .glb, .svc, .fab, .ntr, .slu, .obs, .plain]
  | .inv .. | .key .. | .keyclr .. =>
    [.regs, .glb, .svc, .fab, .slu, .obs]
  | .first .. | .macContinue .. | .last .. =>
    [.regs, .glb, .svc, .fab, .slu, .obs, .free]
  | .macWindowRequest .. =>
    [.regs, .glb, .svc, .fab, .bsn, .slu, .obs, .free, .plain]
  | .upd .. | .wmir .. | .lreq .. | .retire .. =>
    [.regs, .glb, .svc, .fab, .bsn, .ntr, .med, .slu, .twn, .obs, .plain]
  | .claim .. | .void .. =>
    [.regs, .glb, .svc, .sch, .fab, .bsn, .twn, .obs]
  | .hb .. | .linkLossTimeout .. | .flashReadTimeout .. | .channelTraining .. | .startupStepTimeout ..
  | .railQualifyTimeout .. | .railFault .. | .refclkFailure .. =>
    [.regs, .glb, .svc, .fab, .ntr, .med, .twn, .pwr, .grt, .obs, .plain, .base]
  | .handover .. =>
    [.regs, .glb, .svc, .fab, .twn, .grt, .obs, .plain, .base]
  | .restoreSent .. =>
    [.regs, .glb, .svc, .fab, .twn, .obs]
  | .ticksyncPulse .. | .ticksyncLost .. | .takeoverAnnounce .. | .reissuePhaseEnd .. | .detach .. =>
    [.regs, .glb, .svc, .fab, .twn, .obs, .plain]
  | .detachDrainEnd .. =>
    [.regs, .glb, .svc, .fab, .bsn, .ntr, .med, .twn, .pwr, .grt, .obs, .plain, .base]
  | .grottoRecovery .. =>
    [.regs, .glb, .svc, .fab, .bsn, .ntr, .med, .twn, .pwr, .grt, .obs, .free, .plain, .base]
  | .handshakeTimeout .. | .handshakeRetry .. =>
    [.regs, .glb, .svc, .fab, .bsn, .twn, .obs]
  | .resilverCopyComplete .. =>
    [.regs, .glb, .svc, .fab, .bsn, .twn, .grt, .obs, .plain]
  | .coldStart .. | .rst .. | .spillwayPhase .. =>
    [.regs, .glb, .svc, .sch, .fab, .bsn, .ntr, .med, .xlt, .slu, .twn, .pwr, .grt, .thm, .obs, .spr, .plain, .base]
  | .resetN .. | .powerRemoved .. =>
    [.regs, .glb, .svc, .sch, .fab, .bsn, .ntr, .med, .xlt, .slu, .twn, .pwr, .grt, .thm, .obs, .spr, .plain, .base, .stay]
  | .sequencing .. | .railQualified .. | .railDischarged .. =>
    [.regs, .glb, .svc, .fab, .pwr, .obs, .plain, .base, .tick]
  | .keyUnwrap .. | .imageVerify .. =>
    [.regs, .glb, .svc, .fab, .ntr, .med, .slu, .twn, .pwr, .grt, .obs, .plain, .base]
  | .runnelLoad .. =>
    [.regs, .glb, .svc, .sch, .fab, .ntr, .med, .twn, .pwr, .grt, .obs, .free, .plain, .base, .tick]
  | .mapRebuild .. =>
    [.regs, .glb, .svc, .fab, .bsn, .ntr, .med, .xlt, .slu, .twn, .obs, .spr, .plain, .base]
  | .pairingComplete .. =>
    [.glb]
  | .servingStart .. =>
    [.regs, .glb, .svc, .sch, .fab, .med, .obs, .plain, .base]
  | .dischargeTimeout .. =>
    [.regs, .glb, .svc, .fab, .ntr, .med, .twn, .pwr, .grt, .obs, .plain, .base, .tick]
  | .goodLow .. | .huMeas .. | .bankMeasurementSample .. | .bankMeasurementEnd .. =>
    [.regs, .glb, .svc, .fab, .pwr, .obs, .plain]
  | .inputFailure .. | .pfaultFollow .. | .off .. =>
    [.regs, .glb, .svc, .fab, .med, .pwr, .grt, .obs, .plain, .base]
  | .vinReturn .. | .pfaultNReleased .. =>
    [.regs, .glb, .svc, .fab, .ntr, .med, .xlt, .slu, .pwr, .obs, .plain]
  | .spillwayResume .. =>
    [.regs, .glb, .svc, .sch, .fab, .bsn, .ntr, .med, .xlt, .slu, .twn, .pwr, .grt, .obs, .plain, .base]
  | .pageWrite .. | .physicalProgramDone .. | .sectorMove .. | .marginRead .. | .protect .. =>
    [.regs, .glb, .svc, .fab, .grt, .obs, .plain]
  | .pageWriteStart .. | .energyStoreFault .. =>
    [.regs, .grt, .plain]
  | .sensorFailure .. =>
    [.regs, .glb, .svc, .fab, .thm, .obs, .plain]
  | .thermalTrip .. =>
    [.regs, .glb, .svc, .fab, .med, .twn, .pwr, .grt, .thm, .obs, .plain, .base]
  | .thermalStartHold .. =>
    [.regs, .glb, .svc, .fab, .pwr, .thm, .obs, .plain, .base, .tick]
  | .rstdaa .. | .targetReset .. | .commitCheck .. | .commitBoundary .. =>
    [.regs, .glb, .svc, .fab, .slu, .obs, .plain]
  | .getpid .. | .getbcr .. | .getdcr .. | .getmwl .. | .setmwl .. | .setmrl .. | .rstact .. | .getEndpointId ..
  | .getMessageTypeSupport .. | .evtRillLo .. | .flush .. | .flushCmd .. | .rillFlush .. =>
    [.svc]
  | .getstatus .. | .getmrl .. | .getMctpVersionSupport .. | .getVendorDefinedMessageSupport .. =>
    [.svc, .free]
  | .mctpPacket .. | .getInfo .. | .ledgerRead .. | .getNonce .. | .ledgerClear .. | .ledgerFlush .. =>
    [.regs, .glb, .svc, .fab, .obs, .free, .plain]
  | .reportSigned .. =>
    [.regs, .glb, .svc, .fab, .obs, .free]
  | .clrwrap .. | .zero .. | .pop .. =>
    [.svc, .obs]
  | .counterSweep .. =>
    [.regs, .obs, .plain]
  | .nonceLapse .. =>
    [.obs]
  | .repopulationFetch .. =>
    [.regs, .glb, .svc, .fab, .ntr, .xlt, .slu, .obs]
  | .resetNRelease .. =>
    [.regs, .glb, .svc, .fab, .obs, .plain, .base, .stay]

end Sys2Proof
end

