-- ==== Sys2Proof/Certificates/Slice0/Obligations.lean ====
section
/-!
DEFINITION. The statements for the provers.
-/

/-- A step carries out the command at the front of the queue with the queue's rest. -/
def Obligations.StepRunsFront : Prop :=
  ∀ (s : Sys2Proof.Machine.State) (c : Sys2Proof.Instr), Sys2Proof.wellFormed c = true →
    Sys2Proof.Machine.step { s with pending := c :: s.pending } = Sys2Proof.Machine.exec c s

/-- An empty queue is an idle step (log entry 2), and a command whose operands no interface can carry is refused by name (log
entry 1); from a queue of well-formed commands every step answers a next state. -/
def Obligations.IdleRefusedAnswered : Prop :=
  (∀ s : Sys2Proof.Machine.State, s.pending = [] → Sys2Proof.Machine.step s = .next s) ∧
  (∀ (s : Sys2Proof.Machine.State) (c : Sys2Proof.Instr), Sys2Proof.wellFormed c = false →
    Sys2Proof.Machine.step { s with pending := c :: s.pending } = .refused .illFormed) ∧
  (∀ s : Sys2Proof.Machine.State, Sys2Proof.Safety.wellFormedQueue s = true →
    ∃ t, Sys2Proof.Machine.step s = .next t ∧ t.pending = s.pending.tail ∧ Sys2Proof.Safety.wellFormedQueue t = true)

/-- Every command in every state answers a next state, leaves the queue alone, and leaves every part of the device outside the
list that `Safety.touches` gives it as it stood: the frame of all 278 commands, refused and ignored forms included. -/
def Obligations.EveryCommandKeepsItsFrame : Prop :=
  ∀ (c : Sys2Proof.Instr) (s : Sys2Proof.Machine.State), ∃ t, Sys2Proof.Machine.exec c s = .next t ∧ t.pending = s.pending ∧
    Sys2Proof.Safety.Keeps (Sys2Proof.Safety.touches c) s.dev t.dev

/-- R5: a device in Withdrawn stays there on every step until RESET_N or the removal of power. -/
def Obligations.WithdrawnStays : Prop :=
  ∀ s t : Sys2Proof.Machine.State, Sys2Proof.Machine.step s = .next t → s.dev.glb.base = .withdrawn →
    (∀ n, s.pending.head? ≠ some (.resetN n)) → s.pending.head? ≠ some .resetNRelease → s.pending.head? ≠ some .powerRemoved →
    t.dev.glb.base = .withdrawn

/-- The registers keep their one form on every step: keys rising, none at its reset value, so that equal contents are equal data. -/
def Obligations.RegistersKeepTheirForm : Prop :=
  ∀ s t : Sys2Proof.Machine.State, Sys2Proof.Safety.regsWf s.dev → Sys2Proof.Machine.step s = .next t → Sys2Proof.Safety.regsWf t.dev

/-- Right after reset: the queue is empty, every register reads its reset value and the registers have their one form; the device
is in Sequencing (R3, R334) with GLB_TICK 0 (R24). -/
def Obligations.ResetState : Prop :=
  let r := Sys2Proof.Machine.State.reset
  r.pending = [] ∧ Sys2Proof.Safety.regsWf r.dev ∧ (∀ a, Sys2Proof.Machine.regGet r.dev a = Sys2Proof.Machine.resetOf a) ∧
    r.dev.glb.base = .sequencing ∧ r.dev.glb.tick = 0

/-- R24: GLB_TICK rises by one at a tick boundary whatever the device's state; no command but those that can end step 1 (where
cold-start reset ends and GLB_TICK becomes 0) changes it otherwise: a warm reset keeps it. -/
def Obligations.TickCounts : Prop :=
  (∀ (i : Sys2Proof.TickIn) (s : Sys2Proof.Machine.State), ∃ t, Sys2Proof.Machine.exec (.tick i) s = .next t ∧
    t.dev.glb.tick = s.dev.glb.tick + 1) ∧
  (∀ (c : Sys2Proof.Instr) (s t : Sys2Proof.Machine.State), Sys2Proof.Machine.exec c s = .next t →
    (∀ i, c ≠ .tick i) → (∀ b f, c ≠ .sequencing b f) → c ≠ .runnelLoad → (∀ r, c ≠ .railQualified r) → (∀ r, c ≠ .railDischarged r) →
    (∀ r, c ≠ .dischargeTimeout r) → (∀ a b, c ≠ .thermalStartHold a b) → t.dev.glb.tick = s.dev.glb.tick)

/-- R7: a read of an address that no register occupies returns 0 and a write to it is discarded; either raises event 4; addresses from
0x0100_0000 upward are unmapped. (The MAC pages of R286 are windows of their own, not registers.) -/
def Obligations.UnmappedAddresses : Prop :=
  (∀ a, 0x01000000 ≤ a → Sys2Proof.Machine.regRow a = none ∧ Sys2Proof.Machine.macWindowOf a = none) ∧
  ∀ (p : Sys2Proof.SPort) (a v : Sys2Proof.Word) (w : Bool) (s : Sys2Proof.Machine.State),
    s.dev.glb.base ∉ [.off, .sequencing, .withdrawn] → Sys2Proof.Machine.macWindowOf a.toNat = none →
    Sys2Proof.Machine.regRow a.toNat = none →
    (∀ c ∈ [Sys2Proof.Instr.registerWrite p a v, .unmappedControlAccess p a w v], ∃ t, Sys2Proof.Machine.exec c s = .next t ∧
      t.pending = s.pending ∧ Sys2Proof.Safety.pending t.dev 4 = true ∧
      Sys2Proof.Safety.Keeps [.regs, .glb, .svc, .fab, .obs] s.dev t.dev) ∧
    (let r := Sys2Proof.Machine.ctlRead p.val a.toNat s.dev
    r.1 = 0 ∧ Sys2Proof.Safety.pending r.2 4 = true ∧ Sys2Proof.Safety.Keeps [.regs, .glb, .svc, .fab, .obs] s.dev r.2)

/-- R8 and R10 of a write that reaches a register: a reserved encoding is discarded as a whole with event 3; else each RW bit is set,
each W1C bit written 1 is cleared, RO bits and the RWL bits outside a transaction stay, and no other register changes. (Registers
with a command field, and FREEZE, which acts when written, have statements of their own.) -/
def Obligations.RegisterWrites : Prop :=
  ∀ (p : Sys2Proof.SPort) (a v : Sys2Proof.Word) (row : Sys2Proof.Machine.RegRow) (s : Sys2Proof.Machine.State),
    s.dev.glb.base ∉ [.off, .sequencing, .withdrawn] → Sys2Proof.Machine.macWindowOf a.toNat = none →
    Sys2Proof.Machine.regRow a.toNat = some row →
    (Sys2Proof.Machine.reservedEnc a.toNat v.toNat = true → ∃ t, Sys2Proof.Machine.exec (.registerWrite p a v) s = .next t ∧
      t.pending = s.pending ∧ Sys2Proof.Safety.pending t.dev 3 = true ∧
      Sys2Proof.Safety.Keeps [.regs, .glb, .svc, .fab, .obs] s.dev t.dev) ∧
    (Sys2Proof.Machine.reservedEnc a.toNat v.toNat = false → row.wo = 0 → a ≠ 0xE00000 →
      (row.rwl = 0 ∨ Sys2Proof.Machine.getF s.dev Sys2Proof.Machine.F.SVC_TXN_STATE ≠ 1) →
      ∃ t, Sys2Proof.Machine.exec (.registerWrite p a v) s = .next t ∧ t.pending = s.pending ∧
        Sys2Proof.Machine.regGet t.dev a.toNat =
          ((Sys2Proof.Machine.regGet s.dev a.toNat &&& ~~~row.rw) ||| (v &&& row.rw)) &&& ~~~(row.w1c &&& v) ∧
        (∀ b, b ≠ a.toNat → Sys2Proof.Machine.regGet t.dev b = Sys2Proof.Machine.regGet s.dev b) ∧
        Sys2Proof.Safety.Keeps [.regs, .svc, .plain] s.dev t.dev)

/-- An ALU operation on two registers (R57): d becomes a op b, MUL and MULH the two halves of the unsigned product; nothing else of
the core that programs see changes, and no other unit is touched. -/
def Obligations.AluPairResults : Prop :=
  ∀ (h : Sys2Proof.OpHdr) (d a b : BitVec 5) (s : Sys2Proof.Machine.State),
    let x := Sys2Proof.Safety.src h s.dev a
    let y := Sys2Proof.Safety.src h s.dev b
    let writes (c : Sys2Proof.Instr) (v : Sys2Proof.Word64) : Prop := ∃ t, Sys2Proof.Machine.exec c s = .next t ∧ t.pending = s.pending ∧
      Sys2Proof.Safety.RegResult h [d.toNat] (fun _ => v) s.dev t.dev
    (Sys2Proof.Safety.Issues h { writesG := [d.toNat] } s.dev →
      writes (.add h d a b) (x + y) ∧ writes (.sub h d a b) (x - y) ∧ writes (.andOp h d a b) (x &&& y) ∧
      writes (.orOp h d a b) (x ||| y) ∧ writes (.xorOp h d a b) (x ^^^ y) ∧ writes (.andn h d a b) (x &&& ~~~y)) ∧
    (Sys2Proof.Safety.Issues h { cycles := 4, writesG := [d.toNat] } s.dev →
      writes (.mul h d a b) (BitVec.ofNat 64 (x.toNat * y.toNat)) ∧
      writes (.mulh h d a b) (BitVec.ofNat 64 (x.toNat * y.toNat / 2 ^ 64)))

/-- The ALU operations on one register and an immediate, and SEL (R57): ADDI sign-extends its immediate, LDI zero-extends it, and
SEL takes a where the named predicate is 1, else b. -/
def Obligations.AluImmediateResults : Prop :=
  ∀ (h : Sys2Proof.OpHdr) (d a b : BitVec 5) (f : BitVec 7) (i12 : BitVec 12) (i17 : BitVec 17) (s : Sys2Proof.Machine.State),
    let x := Sys2Proof.Safety.src h s.dev a
    let y := Sys2Proof.Safety.src h s.dev b
    let writes (c : Sys2Proof.Instr) (v : Sys2Proof.Word64) : Prop := ∃ t, Sys2Proof.Machine.exec c s = .next t ∧ t.pending = s.pending ∧
      Sys2Proof.Safety.RegResult h [d.toNat] (fun _ => v) s.dev t.dev
    Sys2Proof.Safety.Issues h { writesG := [d.toNat] } s.dev →
      writes (.addi h d a i12) (x + BitVec.ofInt 64 i12.toInt) ∧ writes (.ldi h d i17) (BitVec.ofNat 64 i17.toNat) ∧
      writes (.sel h d a b f) (if f.toNat % 8 = 0 ∨ (Sys2Proof.Safety.issueOf (Sys2Proof.Machine.runnelOf s.dev h.rn.val)).p.getLsbD (f.toNat % 8)
        then x else y)

/-- The shifts (R57): by the low six bits of b, or by f where b is g0 and f is not 0; zeros come in, and the sign for SAR. -/
def Obligations.AluShiftResults : Prop :=
  ∀ (h : Sys2Proof.OpHdr) (d a b : BitVec 5) (f : BitVec 7) (s : Sys2Proof.Machine.State),
    let x := Sys2Proof.Safety.src h s.dev a
    let n := if b = 0 ∧ f ≠ 0 then f.toNat % 64 else (Sys2Proof.Safety.src h s.dev b).toNat % 64
    let writes (c : Sys2Proof.Instr) (bit : Nat → Bool) : Prop := ∃ t v, Sys2Proof.Machine.exec c s = .next t ∧ t.pending = s.pending ∧
      Sys2Proof.Safety.RegResult h [d.toNat] (fun _ => v) s.dev t.dev ∧ ∀ i, i < 64 → v.getLsbD i = bit i
    Sys2Proof.Safety.Issues h { writesG := [d.toNat] } s.dev →
      writes (.shl h d a b f) (fun i => decide (n ≤ i) && x.getLsbD (i - n)) ∧
      writes (.shr h d a b f) (fun i => x.getLsbD (i + n)) ∧
      writes (.sar h d a b f) (fun i => if i + n < 64 then x.getLsbD (i + n) else x.getLsbD 63)

/-- EXTR and INS (R57), bit by bit: EXTR takes the bits of a from the position at the width and zeros above; INS puts the low bits
of a there and keeps every other bit of d. What EXTR reads beyond bit 63 is free, and what INS would put there is lost: R57 does not
say (log entry 5). -/
def Obligations.AluFieldResults : Prop :=
  ∀ (h : Sys2Proof.OpHdr) (d a : BitVec 5) (imm : BitVec 12) (s : Sys2Proof.Machine.State),
    let x := Sys2Proof.Safety.src h s.dev a
    let old := Sys2Proof.Safety.src h s.dev d
    let pos := imm.toNat / 64
    let w := if imm.toNat % 64 = 0 then 64 else imm.toNat % 64
    let writes (c : Sys2Proof.Instr) (free : Nat → Prop) (bit : Nat → Bool) : Prop := ∃ t v, Sys2Proof.Machine.exec c s = .next t ∧
      t.pending = s.pending ∧ Sys2Proof.Safety.RegResult h [d.toNat] (fun _ => v) s.dev t.dev ∧
      ∀ i, i < 64 → ¬ free i → v.getLsbD i = bit i
    Sys2Proof.Safety.Issues h { writesG := [d.toNat] } s.dev →
      writes (.extr h d a imm) (fun i => i < w ∧ 64 ≤ pos + i) (fun i => decide (i < w) && x.getLsbD (pos + i)) ∧
      writes (.ins h d a imm) (fun _ => False) (fun i => if pos ≤ i ∧ i < pos + w then x.getLsbD (i - pos) else old.getLsbD i)

/-- POPC and CLZ (R57): how many bits of a are set, and how many leading zeros it has, 64 for 0. -/
def Obligations.AluCountResults : Prop :=
  ∀ (h : Sys2Proof.OpHdr) (d a : BitVec 5) (s : Sys2Proof.Machine.State),
    let x := Sys2Proof.Safety.src h s.dev a
    let writes (c : Sys2Proof.Instr) (p : Nat → Prop) : Prop := ∃ t v, Sys2Proof.Machine.exec c s = .next t ∧ t.pending = s.pending ∧
      Sys2Proof.Safety.RegResult h [d.toNat] (fun _ => v) s.dev t.dev ∧ p v.toNat
    Sys2Proof.Safety.Issues h { cycles := 2, writesG := [d.toNat] } s.dev →
      writes (.popc h d a) (fun n => n = ((Finset.range 64).filter fun i => x.getLsbD i = true).card) ∧
      writes (.clz h d a) (fun n => if x = 0 then n = 64 else n < 64 ∧ 2 ^ (63 - n) ≤ x.toNat ∧ x.toNat < 2 ^ (64 - n))

/-- The predicate operations (R53, R57): the comparison of a with b, or of a with the sign-extended immediate, or PLOG's operation on
two predicates; p0 stays 1 whatever is written. -/
def Obligations.AluPredicateResults : Prop :=
  ∀ (h : Sys2Proof.OpHdr) (d a b : BitVec 5) (f : BitVec 7) (imm : BitVec 12) (s : Sys2Proof.Machine.State),
    let x := Sys2Proof.Safety.src h s.dev a
    let y := Sys2Proof.Safety.src h s.dev b
    let pred (i : Nat) : Bool := decide (i % 8 = 0) || (Sys2Proof.Safety.issueOf (Sys2Proof.Machine.runnelOf s.dev h.rn.val)).p.getLsbD (i % 8)
    let writes (c : Sys2Proof.Instr) (p : Nat) (v : Bool) : Prop := ∃ t, Sys2Proof.Machine.exec c s = .next t ∧ t.pending = s.pending ∧
      Sys2Proof.Safety.PredResult h p v s.dev t.dev
    (Sys2Proof.Safety.Issues h { writesP := [f.toNat % 8] } s.dev →
      writes (.cmpeq h a b f) (f.toNat % 8) (decide (x = y)) ∧ writes (.cmpne h a b f) (f.toNat % 8) (decide (x ≠ y)) ∧
      writes (.cmpltu h a b f) (f.toNat % 8) (decide (x.toNat < y.toNat)) ∧
      writes (.cmplts h a b f) (f.toNat % 8) (decide (x.toInt < y.toInt))) ∧
    (Sys2Proof.Safety.Issues h { writesP := [d.toNat % 8] } s.dev →
      writes (.cmpeqi h d a imm) (d.toNat % 8) (decide (x = BitVec.ofInt 64 imm.toInt)) ∧
      (f.toNat % 4 = 0 → writes (.plog h d a b f) (d.toNat % 8) (pred a.toNat && pred b.toNat)) ∧
      (f.toNat % 4 = 1 → writes (.plog h d a b f) (d.toNat % 8) (pred a.toNat || pred b.toNat)) ∧
      (f.toNat % 4 = 2 → writes (.plog h d a b f) (d.toNat % 8) (pred a.toNat && !pred b.toNat)))

/-- BR, CALL, CALLX and RET as the last operation of a bundle (R57, R58): where control goes, what the return stack holds, two
cycles; a full or empty return stack, and a CALLX to an index the image does not list, stop the runnel with cause 5. -/
def Obligations.BranchCallReturn : Prop :=
  ∀ (h : Sys2Proof.OpHdr) (t : BitVec 12) (a : BitVec 5) (s : Sys2Proof.Machine.State),
    let r := Sys2Proof.Machine.runnelOf s.dev h.rn.val
    let x := (Sys2Proof.Safety.src h s.dev a).setWidth 12
    let goes (c : Sys2Proof.Instr) (pc : BitVec 12) (ret : List (BitVec 12)) : Prop := ∃ u, Sys2Proof.Machine.exec c s = .next u ∧
      u.pending = s.pending ∧ Sys2Proof.Safety.CtlResult h 2 0 pc ret s.dev u.dev
    let stops (c : Sys2Proof.Instr) : Prop := ∃ u, Sys2Proof.Machine.exec c s = .next u ∧ u.pending = s.pending ∧
      Sys2Proof.Safety.FaultResult h 5 s.dev u.dev
    Sys2Proof.Safety.IssuesLast h { cycles := 2 } s.dev →
      goes (.br h t) t r.core.ret ∧
      (if r.core.ret.length < 8 then goes (.call h t) t ((r.pc + 1) :: r.core.ret) else stops (.call h t)) ∧
      (if x ∈ Sys2Proof.Machine.routinesOf s.dev h.rn.val ∧ r.core.ret.length < 8 then goes (.callx h a) x ((r.pc + 1) :: r.core.ret)
        else stops (.callx h a)) ∧
      (r.core.ret = [] → stops (.ret h)) ∧
      (∀ v rest, r.core.ret = v :: rest →
        (∀ l, r.core.loops.head? = some l → ¬ (l.depth = rest.length ∧ v.toNat = l.last.toNat + 1)) → goes (.ret h) v rest)

/-- A bundle that falls through, and LOOP (R57, R66): LOOP pushes its body, count and depth, at most two deep, and a count of 0 is an
illegal bundle; where control reaches the bundle after a body at the body's depth, a count above 1 goes back to the first bundle
at one more cycle, and a spent one ends the loop. -/
def Obligations.LoopsRunTheirBodies : Prop :=
  ∀ (h : Sys2Proof.OpHdr) (n : BitVec 8) (last : BitVec 12) (s : Sys2Proof.Machine.State),
    let r := Sys2Proof.Machine.runnelOf s.dev h.rn.val
    let goes (c : Sys2Proof.Instr) (extra : Nat) (pc : BitVec 12) (loops : List Sys2Proof.Machine.LoopEnt) : Prop :=
      ∃ u, Sys2Proof.Machine.exec c s = .next u ∧ u.pending = s.pending ∧
        Sys2Proof.Safety.CtlResult h 1 extra pc r.core.ret s.dev u.dev ∧
        (Sys2Proof.Machine.runnelOf u.dev h.rn.val).core.loops = loops
    let stops (cause : Nat) : Prop := ∃ u, Sys2Proof.Machine.exec (.loopOp h n last) s = .next u ∧ u.pending = s.pending ∧
      Sys2Proof.Safety.FaultResult h cause s.dev u.dev
    Sys2Proof.Safety.IssuesLast h {} s.dev →
      (if n = 0 then stops 1
        else if r.core.loops.length < 2 then goes (.loopOp h n last) 0 (r.pc + 1) (⟨r.pc + 1, last, n.toNat, r.core.ret.length⟩ :: r.core.loops)
        else stops 5) ∧
      (r.core.ctl = .none → r.core.loops = [] → goes (.nop h) 0 (r.pc + 1) []) ∧
      (∀ l rest, r.core.ctl = .none → r.core.loops = l :: rest →
        if l.depth = r.core.ret.length ∧ (r.pc + 1).toNat = l.last.toNat + 1 then
          if 1 < l.count then goes (.nop h) 1 l.first ({ l with count := l.count - 1 } :: rest)
          else (∀ m, rest.head? = some m → ¬ (m.depth = r.core.ret.length ∧ (r.pc + 1).toNat = m.last.toNat + 1)) →
            goes (.nop h) 0 (r.pc + 1) rest
        else goes (.nop h) 0 (r.pc + 1) (l :: rest))

/-- Guards (R56): bits 2:0 name a predicate, bit 3 negates it, 0 means always and 8 never; an operation whose guard is false leaves
its core as it was, but for the bundle's marks, and costs its cycles; one whose guard is true has its effect. -/
def Obligations.GuardedOperations : Prop :=
  (∀ (c : Sys2Proof.Machine.Core) (g : BitVec 4),
    Sys2Proof.Machine.guardOn c g = ((decide (g.toNat % 8 = 0) || c.p.getLsbD (g.toNat % 8)) != g.getLsbD 3)) ∧
  (∀ c : Sys2Proof.Machine.Core, Sys2Proof.Machine.guardOn c 0 = true ∧ Sys2Proof.Machine.guardOn c 8 = false) ∧
  ∀ (h : Sys2Proof.OpHdr) (o : Sys2Proof.Machine.OpShape) (f : Sys2Proof.Machine.Core → Sys2Proof.Machine.Core → Sys2Proof.Machine.OpResult)
    (d : Sys2Proof.Machine.Dev),
    let r := Sys2Proof.Machine.runnelOf d h.rn.val
    let e := Sys2Proof.Machine.runOp h o (fun _ => f) d
    let y := Sys2Proof.Machine.runnelOf e h.rn.val
    let marked (c : Sys2Proof.Machine.Core) : Sys2Proof.Machine.Core := { c with wrG := c.wrG ++ o.writesG, wrP := c.wrP ++ o.writesP, slots := c.slots ||| BitVec.ofNat 4 (2 ^ o.slot.bit), free := 0 }
    r.st = .running → r.cyc < 2000 → Sys2Proof.Machine.bundleBad r o = false → (o.slot = .media → h.rn.val < 32) → h.last = false →
      (Sys2Proof.Machine.guardOn (Sys2Proof.Safety.issueOf r) h.guard = false →
        y.core = marked r.core ∧ y.cost = max r.cost o.cycles ∧ y.st = .running ∧ Sys2Proof.Safety.OnlyCore h d e) ∧
      (Sys2Proof.Machine.guardOn (Sys2Proof.Safety.issueOf r) h.guard = true → ∀ c, f (Sys2Proof.Safety.issueOf r) r.core = .ok c →
        y.core = marked c ∧ y.cost = max r.cost o.cycles ∧ y.st = .running ∧ Sys2Proof.Safety.OnlyCore h d e)

/-- What stops a runnel in every operation (R57, R58, R69, R47): an illegal bundle with cause 1, a MEDIA operation in a service
runnel with cause 2, an operation reached with 2,000 cycles spent with cause 0; the bundle's operations have no effect. A runnel
that is not running runs nothing. -/
def Obligations.RunnelFaultsStopTheBundle : Prop :=
  ∀ (h : Sys2Proof.OpHdr) (o : Sys2Proof.Machine.OpShape)
    (f : Sys2Proof.Machine.Dev → Sys2Proof.Machine.Core → Sys2Proof.Machine.Core → Sys2Proof.Machine.OpResult) (d : Sys2Proof.Machine.Dev),
    let r := Sys2Proof.Machine.runnelOf d h.rn.val
    let e := Sys2Proof.Machine.runOp h o f d
    (r.st ≠ .running → e = d) ∧
    (r.st = .running → 2000 ≤ r.cyc → Sys2Proof.Safety.FaultResult h 0 d e) ∧
    (r.st = .running → r.cyc < 2000 →
      (o.illegal = true ∨ r.core.slots.getLsbD o.slot.bit = true ∨ (∃ i ∈ o.writesG, i ∈ r.core.wrG) ∨ (∃ i ∈ o.writesP, i ∈ r.core.wrP)) →
      Sys2Proof.Safety.FaultResult h 1 d e) ∧
    (r.st = .running → r.cyc < 2000 → Sys2Proof.Machine.bundleBad r o = false → o.slot = .media → 32 ≤ h.rn.val →
      Sys2Proof.Safety.FaultResult h 2 d e)

/-- TEXIT as the last operation of a bundle (R57, R66): with empty stacks and at most 2,000 cycles spent the runnel gives its beat and
is idle: shadow copies of registers and predicates, SCH_CYC, an empty outbox whose posts are on their way to their inboxes, an
empty undo buffer. Otherwise it stops. -/
def Obligations.TickExitGivesTheBeat : Prop :=
  ∀ (h : Sys2Proof.OpHdr) (s : Sys2Proof.Machine.State),
    let n := h.rn.val
    let r := Sys2Proof.Machine.runnelOf s.dev n
    let cyc := r.cyc + max r.cost 1
    let stops (cause : Nat) : Prop := ∃ u, Sys2Proof.Machine.exec (.texit h) s = .next u ∧ u.pending = s.pending ∧
      Sys2Proof.Safety.FaultResult h cause s.dev u.dev
    Sys2Proof.Safety.IssuesLast h {} s.dev →
      if r.core.ret ≠ [] ∨ r.core.loops ≠ [] then stops 5
      else if 2000 < cyc then stops 0
      else ∃ u, Sys2Proof.Machine.exec (.texit h) s = .next u ∧ u.pending = s.pending ∧
        (let y := Sys2Proof.Machine.runnelOf u.dev n
        y.st = .idle ∧ y.shadowG = r.core.g ∧ y.shadowP = r.core.p ∧ y.core.g = r.core.g ∧ y.core.p = r.core.p ∧
        y.core.data = r.core.data ∧ y.core.outbox = [] ∧ y.core.undo = []) ∧
        Sys2Proof.Machine.getF u.dev (Sys2Proof.Machine.F.SCH_CYC_LAST n) = cyc ∧
        Sys2Proof.Machine.getF u.dev (Sys2Proof.Machine.F.SCH_CYC_MAX n) = max (Sys2Proof.Machine.getF s.dev (Sys2Proof.Machine.F.SCH_CYC_MAX n)) cyc ∧
        (∀ m, m < 44 → (Sys2Proof.Machine.runnelOf u.dev m).core.inbox = (Sys2Proof.Machine.runnelOf s.dev m).core.inbox ∧
          (Sys2Proof.Machine.runnelOf u.dev m).arrived =
            (Sys2Proof.Machine.runnelOf s.dev m).arrived ++ r.core.outbox.filter (fun p => decide (p.target = m))) ∧
        Sys2Proof.Safety.Keeps [.regs, .glb, .svc, .sch, .fab, .obs, .free, .plain] s.dev u.dev ∧
        ∀ a, Sys2Proof.Safety.eventReg a = false → a ≠ (Sys2Proof.Machine.F.SCH_CYC_LAST n).addr →
          Sys2Proof.Machine.regGet u.dev a = Sys2Proof.Machine.regGet s.dev a

/-- Loads (R54, R57): the bytes from a + imm12 on, lowest address least significant, zero-extended; a misaligned or unmapped address
stops the runnel with cause 3. Data SRAM and the slot table read as they stood at the bundle's issue; what the local status area
reads as is a free value (log entry 9). -/
def Obligations.LoadsReadDataSpace : Prop :=
  ∀ (h : Sys2Proof.OpHdr) (d a : BitVec 5) (imm : BitVec 12) (s : Sys2Proof.Machine.State),
    let n := h.rn.val
    let i := Sys2Proof.Safety.issueOf (Sys2Proof.Machine.runnelOf s.dev n)
    let addr := (Sys2Proof.Safety.src h s.dev a + BitVec.ofNat 64 imm.toNat).toNat
    let stops (c : Sys2Proof.Instr) : Prop := ∃ t, Sys2Proof.Machine.exec c s = .next t ∧ t.pending = s.pending ∧
      Sys2Proof.Safety.FaultResult h 3 s.dev t.dev
    let loads (c : Sys2Proof.Instr) (D : List Nat) (v : Nat → Sys2Proof.Word64) : Prop := ∃ t, Sys2Proof.Machine.exec c s = .next t ∧
      t.pending = s.pending ∧ Sys2Proof.Safety.RegResult h D v s.dev t.dev
    let bytes (k len : Nat) : Sys2Proof.Word64 :=
      BitVec.ofNat 64 (Sys2Proof.Machine.ofBytesLE (Sys2Proof.Machine.dataBytes s.dev n i (addr + k) len))
    (∀ len c, (len, c) ∈ [(1, Sys2Proof.Instr.ld8 h d a imm), (2, .ld16 h d a imm), (4, .ld32 h d a imm), (8, .ld64 h d a imm)] →
      Sys2Proof.Safety.Issues h { slot := .mem, cycles := 3, writesG := [d.toNat] } s.dev →
      if addr % len ≠ 0 ∨ 0x40100 < addr + len then stops c
      else if addr < 0x40000 then loads c [d.toNat] (fun _ => bytes 0 len)
      else ∃ v, loads c [d.toNat] v) ∧
    (d.toNat % 2 = 0 → Sys2Proof.Safety.Issues h { slot := .mem, cycles := 4, writesG := [d.toNat, d.toNat + 1] } s.dev →
      if addr % 16 ≠ 0 ∨ 0x40100 < addr + 16 then stops (.ldp h d a imm)
      else if addr < 0x40000 then
        loads (.ldp h d a imm) [d.toNat, d.toNat + 1] (fun r => if r = d.toNat then bytes 0 8 else bytes 8 8)
      else ∃ v, loads (.ldp h d a imm) [d.toNat, d.toNat + 1] v)

/-- Stores (R54, R57, R67): the low bytes of d, and of d + 1, at a + imm12, least significant lowest; the first write to a 64-byte
block saves its contents in the undo buffer. A misaligned address or one outside the writable areas stops the runnel with cause 3,
and the 65th block with cause 6. -/
def Obligations.StoresWriteDataSpace : Prop :=
  ∀ (h : Sys2Proof.OpHdr) (d a : BitVec 5) (imm : BitVec 12) (s : Sys2Proof.Machine.State),
    let n := h.rn.val
    let r := Sys2Proof.Machine.runnelOf s.dev n
    let addr := (Sys2Proof.Safety.src h s.dev a + BitVec.ofNat 64 imm.toNat).toNat
    let lo := (Sys2Proof.Safety.src h s.dev d).toNat
    let hi := ((Sys2Proof.Safety.issueOf r).reg (d.toNat + 1)).toNat
    let stops (c : Sys2Proof.Instr) (cause : Nat) : Prop := ∃ t, Sys2Proof.Machine.exec c s = .next t ∧ t.pending = s.pending ∧
      Sys2Proof.Safety.FaultResult h cause s.dev t.dev
    let stores (c : Sys2Proof.Instr) (len v : Nat) : Prop :=
      if addr % len ≠ 0 ∨ addr < 0x10000 ∨ 0x40000 < addr + len then stops c 3
      else if (∀ e ∈ r.core.undo, e.1 ≠ addr / 64) ∧ 64 ≤ r.core.undo.length then stops c 6
      else ∃ t, Sys2Proof.Machine.exec c s = .next t ∧ t.pending = s.pending ∧
        (let y := (Sys2Proof.Machine.runnelOf t.dev n).core
        (∀ x, y.data.get 0 x = if addr ≤ x ∧ x < addr + len then BitVec.ofNat 8 (v / 256 ^ (x - addr)) else r.core.data.get 0 x) ∧
        (if ∃ e ∈ r.core.undo, e.1 = addr / 64 then y.undo = r.core.undo
          else y.undo.get none (addr / 64) = some (Sys2Proof.Machine.blockBytes r.core (addr / 64)) ∧
            ∀ b, b ≠ addr / 64 → y.undo.get none b = r.core.undo.get none b) ∧
        y.g = r.core.g ∧ y.p = r.core.p ∧ y.ret = r.core.ret ∧ y.outbox = r.core.outbox) ∧ Sys2Proof.Safety.OnlyCore h s.dev t.dev
    (∀ len c, (len, c) ∈ [(1, Sys2Proof.Instr.st8 h d a imm), (2, .st16 h d a imm), (4, .st32 h d a imm), (8, .st64 h d a imm)] →
      Sys2Proof.Safety.Issues h { slot := .mem, cycles := 2 } s.dev → stores c len lo) ∧
    (d.toNat % 2 = 0 → Sys2Proof.Safety.Issues h { slot := .mem, cycles := 3 } s.dev → stores (.stp h d a imm) 16 (lo + 2 ^ 64 * hi))

/-- SLOTPOP and MPOP (R57, R59, R65): the oldest launcher event, or the inbox head, leaves its queue for d and d + 1, and the named
predicate says whether there was one; from an empty queue nothing moves. -/
def Obligations.QueuePops : Prop :=
  ∀ (h : Sys2Proof.OpHdr) (d : BitVec 5) (f : BitVec 7) (s : Sys2Proof.Machine.State),
    let x := Sys2Proof.Machine.runnelOf s.dev h.rn.val
    let i := Sys2Proof.Safety.issueOf x
    let pops (c : Sys2Proof.Instr) (words : Option (Sys2Proof.Word64 × Sys2Proof.Word64))
        (rest : Sys2Proof.Machine.Core → Prop) : Prop :=
      ∃ t, Sys2Proof.Machine.exec c s = .next t ∧ t.pending = s.pending ∧
        (let y := (Sys2Proof.Machine.runnelOf t.dev h.rn.val).core
        (∀ j, y.reg j = match words with
          | none => x.core.reg j
          | some w => if j = d.toNat then w.1 else if j = d.toNat + 1 then w.2 else x.core.reg j) ∧
        (∀ j, j < 8 → y.pred j = if j = f.toNat % 8 ∧ j ≠ 0 then words.isSome else x.core.pred j) ∧
        rest y ∧ y.data = x.core.data ∧ y.ret = x.core.ret ∧ y.outbox = x.core.outbox) ∧ Sys2Proof.Safety.OnlyCore h s.dev t.dev
    d.toNat % 2 = 0 →
      (Sys2Proof.Safety.Issues h { slot := .mem, cycles := 3, writesG := [d.toNat, d.toNat + 1], writesP := [f.toNat % 8] } s.dev →
        (i.fifo = [] → pops (.slotpop h d f) none (fun y => y.fifo = x.core.fifo ∧ y.inbox = x.core.inbox)) ∧
        (∀ e rest, i.fifo = e :: rest → pops (.slotpop h d f) (some (e.w0, e.w1)) (fun y => y.fifo = rest ∧ y.inbox = x.core.inbox))) ∧
      (Sys2Proof.Safety.Issues h { slot := .mem, cycles := 4, writesG := [d.toNat, d.toNat + 1], writesP := [f.toNat % 8] } s.dev →
        (i.inbox = [] → pops (.mpop h d f) none (fun y => y.fifo = x.core.fifo ∧ y.inbox = x.core.inbox)) ∧
        (∀ p rest, i.inbox = p :: rest → pops (.mpop h d f) (some (p.lo, p.hi)) (fun y => y.fifo = x.core.fifo ∧ y.inbox = rest)))

/-- MPOST (R59): a post of a and a + 1 joins the outbox and the predicate says accepted; it does not when the outbox holds 16 or the
target's inbox of 64 could not take it beside the posts on their way and queued to it (log entry 40 of target 63); a reserved target
stops the runnel with cause 3. -/
def Obligations.PostsWaitInTheOutbox : Prop :=
  ∀ (h : Sys2Proof.OpHdr) (d a : BitVec 5) (f : BitVec 7) (s : Sys2Proof.Machine.State),
    let x := Sys2Proof.Machine.runnelOf s.dev h.rn.val
    let i := Sys2Proof.Safety.issueOf x
    let t := f.toNat % 64
    let waiting := ((List.range 44).map fun n =>
      ((Sys2Proof.Machine.runnelOf s.dev n).core.outbox.filter fun p => decide (p.target = t)).length).sum
    let held := (if t = 63 then s.dev.sch.basinPosts.length
      else (Sys2Proof.Machine.runnelOf s.dev t).core.inbox.length + (Sys2Proof.Machine.runnelOf s.dev t).arrived.length) + waiting
    let posts (b : Bool) (out : List Sys2Proof.Machine.Post) : Prop :=
      ∃ u, Sys2Proof.Machine.exec (.mpost h d a f) s = .next u ∧ u.pending = s.pending ∧
        (let y := (Sys2Proof.Machine.runnelOf u.dev h.rn.val).core
        (∀ j, j < 8 → y.pred j = if j = d.toNat % 8 ∧ j ≠ 0 then b else x.core.pred j) ∧ y.outbox = out ∧
        y.g = x.core.g ∧ y.data = x.core.data ∧ y.ret = x.core.ret ∧ y.inbox = x.core.inbox) ∧ Sys2Proof.Safety.OnlyCore h s.dev u.dev
    a.toNat % 2 = 0 → Sys2Proof.Safety.Issues h { slot := .mem, cycles := 4, writesP := [d.toNat % 8] } s.dev →
      if 44 ≤ t ∧ t ≠ 63 then
        ∃ u, Sys2Proof.Machine.exec (.mpost h d a f) s = .next u ∧ u.pending = s.pending ∧ Sys2Proof.Safety.FaultResult h 3 s.dev u.dev
      else if 16 ≤ i.outbox.length ∨ 64 ≤ held then
        posts false x.core.outbox
      else posts true (x.core.outbox ++ [({ target := t, lo := i.reg a.toNat, hi := i.reg (a.toNat + 1) } : Sys2Proof.Machine.Post)])

/-- RDTK, CNT, MRB, MSTAT and MLOG (R57, R59, R61): SCH_SPOS under the high word of GLB_TICK; one more on a local counter when the
bundle ends, which the model's count of R415 carries; whether a die was ready as last sampled; its last status byte; and an entry
of its channel's issue log, whose word's layout the spec leaves open (a free function of the log, log entry 9). -/
def Obligations.StatusReads : Prop :=
  ∀ (h : Sys2Proof.OpHdr) (d a b : BitVec 5) (f : BitVec 7) (imm : BitVec 12) (s : Sys2Proof.Machine.State),
    let n := h.rn.val
    let ch := 2 * n + (Sys2Proof.Safety.src h s.dev b).toNat % 2
    let die := ch * 32 + (Sys2Proof.Safety.src h s.dev a).toNat % 32
    let writes (c : Sys2Proof.Instr) (v : Sys2Proof.Word64) : Prop := ∃ t, Sys2Proof.Machine.exec c s = .next t ∧ t.pending = s.pending ∧
      Sys2Proof.Safety.RegResult h [d.toNat] (fun _ => v) s.dev t.dev
    (Sys2Proof.Safety.Issues h { slot := .mem, writesG := [d.toNat] } s.dev →
      writes (.rdtk h d) (BitVec.ofNat 64 ((Sys2Proof.Machine.viewReg s.dev 0 0x300000).toNat + s.dev.glb.tick / 2 ^ 32 * 2 ^ 32))) ∧
    (Sys2Proof.Safety.Issues h { slot := .media, cycles := 2, writesP := [f.toNat % 8] } s.dev →
      ∃ t, Sys2Proof.Machine.exec (.mrb h a b f) s = .next t ∧ t.pending = s.pending ∧
        Sys2Proof.Safety.PredResult h (f.toNat % 8) (Sys2Proof.Machine.dieOf s.dev die).ready s.dev t.dev) ∧
    (Sys2Proof.Safety.Issues h { slot := .media, cycles := 3, writesG := [d.toNat] } s.dev →
      writes (.mstat h d a b) (BitVec.ofNat 64 (Sys2Proof.Machine.dieOf s.dev die).status.toNat) ∧
      writes (.mlog h d b f) (Sys2Proof.Config.logWord
        ((Sys2Proof.Machine.chanOf s.dev ch).log.map fun e => (e.tick % 2 ^ 20, e.die, e.refused)) (f.toNat % 16))) ∧
    (Sys2Proof.Safety.IssuesLast h { slot := .mem } s.dev → (Sys2Proof.Machine.runnelOf s.dev n).core.ctl = .none →
      let k := 0x3000 + 66 * n + 2 + imm.toNat % 64
      let was := s.dev.obs.ctrs.get {} k
      was.sat = false → was.val + 2 < 2 ^ 48 →
      ∃ t, Sys2Proof.Machine.exec (.cnt h imm) s = .next t ∧ t.pending = s.pending ∧
        t.dev.obs.ctrs.get {} k = { was with val := was.val + 1 } ∧
        (∀ j, j ≠ k → t.dev.obs.ctrs.get {} j = s.dev.obs.ctrs.get {} j) ∧ Sys2Proof.Safety.Keeps [.sch, .free, .obs] s.dev t.dev)

/-- What the other MEDIA and the XFER operations ask of their units (R59, R60, R62): the request waits in the bundle, for the die
that a[4:0] and b[0] name; a template beyond data SRAM stops the runnel with cause 3, a descriptor outside its area (log entry 70), of
length 0 or with reserved fields with cause 8; XMOV sets STATUS to pending, through the undo buffer (R67), and accepts at most 16
outstanding descriptors; XPOLL reads STATUS. -/
def Obligations.UnitRequests : Prop :=
  ∀ (h : Sys2Proof.OpHdr) (d a b : BitVec 5) (f : BitVec 7) (s : Sys2Proof.Machine.State),
    let n := h.rn.val
    let x := Sys2Proof.Machine.runnelOf s.dev n
    let i := Sys2Proof.Safety.issueOf x
    let ch := 2 * n + (i.reg b.toNat).toNat % 2
    let die := (i.reg a.toNat).toNat % 32
    let bytes (at_ len : Nat) := Sys2Proof.Machine.dataBytes s.dev n i at_ len
    let len64 (at_ : Nat) : Nat := Sys2Proof.Machine.ofBytesLE ((bytes at_ 32).drop 16 |>.take 4) % 4096
    let ctl (at_ : Nat) : Nat := Sys2Proof.Machine.ofBytesLE ((bytes at_ 32).drop 20 |>.take 4)
    let num (at_ o k : Nat) : Nat := Sys2Proof.Machine.ofBytesLE ((bytes at_ 32).drop o |>.take k)
    let mem (at_ : Nat) : Nat := if ctl at_ % 4 = 2 then num at_ 0 8 else num at_ 8 8
    let bad (at_ : Nat) : Prop := at_ < 0x10000 ∨ 0x18000 < at_ + 32 ∨ len64 at_ = 0
    let stops (c : Sys2Proof.Instr) (cause : Nat) : Prop := ∃ u, Sys2Proof.Machine.exec c s = .next u ∧ u.pending = s.pending ∧
      Sys2Proof.Safety.FaultResult h cause s.dev u.dev
    let asks (c : Sys2Proof.Instr) (q : Sys2Proof.Machine.UnitReq) : Prop := ∃ u, Sys2Proof.Machine.exec c s = .next u ∧
      u.pending = s.pending ∧ (Sys2Proof.Machine.runnelOf u.dev n).core.reqs = x.core.reqs ++ [q] ∧
      Sys2Proof.Safety.RegResult h [] (fun _ => 0) s.dev u.dev
    h.last = false →
    (Sys2Proof.Safety.Issues h { slot := .media, cycles := 2 } s.dev →
      (let t := (i.reg d.toNat).toNat
      (if 0x40000 < t + 32 then stops (.mcmd h d a b) 3 else asks (.mcmd h d a b) (.mcmd ch die (bytes t 32))) ∧
      (bad t → stops (.mdin h d a b) 8 ∧ stops (.mdout h d a b f) 8) ∧
      (¬ bad t → asks (.mdin h d a b) (.mdin ch die t (len64 t * 64) (mem t) (num t 24 2)) ∧
        asks (.mdout h d a b f) (.mdout ch die t (len64 t * 64) (mem t) (num t 24 2) (f.getLsbD 0))))) ∧
    (Sys2Proof.Safety.Issues h { slot := .xfer, cycles := 2, writesP := [f.toNat % 8] } s.dev →
      (let t := (i.reg a.toNat).toNat
      let xmovs (took : Bool) (c : Sys2Proof.Machine.Core) : Prop :=
        ∃ u, Sys2Proof.Machine.exec (.xmov h a f) s = .next u ∧ u.pending = s.pending ∧ Sys2Proof.Safety.OnlyCore h s.dev u.dev ∧
        (let y := (Sys2Proof.Machine.runnelOf u.dev n).core
        (∀ j, j < 8 → y.pred j = if j = f.toNat % 8 ∧ j ≠ 0 then took else x.core.pred j) ∧
        y.reqs = x.core.reqs ++ (if took then [.xmov t (bytes t 32)] else []) ∧ y.undo = c.undo ∧
        (∀ b, y.data.get 0 b = if took = true ∧ t + 28 ≤ b ∧ b < t + 32 then 0 else x.core.data.get 0 b) ∧ y.g = x.core.g)
      if bad t ∨ (ctl t % 4 = 3 ∧ ctl t / 4 % 4 = 3) ∨ ctl t / 16 % 8 = 7 then stops (.xmov h a f) 8
      else if 16 ≤ i.xfers.length then xmovs false x.core
      else match Sys2Proof.Machine.undoSaveAll (t + 28) 4 x.core with
        | none => stops (.xmov h a f) 6
        | some c => xmovs true c)) ∧
    (Sys2Proof.Safety.Issues h { slot := .xfer, cycles := 2, writesG := [d.toNat] } s.dev →
      (let t := (i.reg a.toNat).toNat
      if t < 0x10000 ∨ 0x18000 < t + 32 then stops (.xpoll h d a) 8
      else ∃ u, Sys2Proof.Machine.exec (.xpoll h d a) s = .next u ∧ u.pending = s.pending ∧
        Sys2Proof.Safety.RegResult h [d.toNat] (fun _ => BitVec.ofNat 64 (Sys2Proof.Machine.ofBytesLE (bytes (t + 28) 4))) s.dev u.dev))

/-- A bundle that falls through hands its requests to the units when it ends (R57, R59, R60, R62): a command template is driven on its
die, a transfer joins its channel's queue, a DEMAND one due READ_TK ticks later (R36), and a descriptor joins the runnel's
outstanding ones. -/
def Obligations.RequestsGoOutAtTheBundlesEnd : Prop :=
  ∀ (h : Sys2Proof.OpHdr) (q : Sys2Proof.Machine.UnitReq) (s : Sys2Proof.Machine.State),
    let n := h.rn.val
    let x := Sys2Proof.Machine.runnelOf s.dev n
    x.st = .running → x.cyc < 2000 → Sys2Proof.Machine.bundleBad x {} = false →
    Sys2Proof.Machine.guardOn (Sys2Proof.Safety.issueOf x) h.guard = true → h.last = true → x.core.ctl = .none → x.core.counts = [] →
    x.core.reqs = [q] →
    ∃ t, Sys2Proof.Machine.exec (.nop h) s = .next t ∧ t.pending = s.pending ∧
      (Sys2Proof.Machine.runnelOf t.dev n).core.reqs = [] ∧
      match q with
      | .mcmd c die tmpl => ∃ e, Sys2Proof.Safety.Keeps [.sch, .free] s.dev e ∧ t.dev.med = (Sys2Proof.Machine.driveTmpl (c * 32 + die) tmpl e).med
      | .mdin c die desc len mem tag => (Sys2Proof.Machine.chanOf t.dev c).queue = (Sys2Proof.Machine.chanOf s.dev c).queue ++
          [{ rn := n, die := die, desc := desc, dataIn := true, left := len, len := len, mem := mem, ctag := tag }]
      | .mdout c die desc len mem tag dem => (Sys2Proof.Machine.chanOf t.dev c).queue = (Sys2Proof.Machine.chanOf s.dev c).queue ++
          [{ rn := n, die := die, desc := desc, dataIn := false, demand := dem, left := len, len := len, mem := mem, ctag := tag,
             due := if dem then s.dev.glb.tick + Sys2Proof.Machine.readTkOf s.dev c else 0 }]
      | .xmov desc tmpl => (Sys2Proof.Machine.runnelOf t.dev n).core.xfers = x.core.xfers ++ [⟨desc, tmpl⟩]

/-- Reads that change the reader's state: a read of a low half captures each high half for that port (R11); a read of EVT_RILL_LO pops
the head entry and captures its EVT_RILL_HI, and on an empty Rill sets UNDERRUN and moves nothing (R398, R400); a read of
GRT_RD_DATA moves GRT_RD_ADDR on by 4, also where the page is uncorrectable (R382). -/
def Obligations.ReadsThatAct : Prop :=
  ∀ (p : Sys2Proof.SPort) (a : Sys2Proof.Word) (bad : Bool) (s : Sys2Proof.Machine.State),
    s.dev.glb.base ∉ [.off, .sequencing, .withdrawn] →
    let q := Sys2Proof.Machine.portOf s.dev p.val
    let runs (c : Sys2Proof.Instr) (E : Sys2Proof.Machine.Dev → Prop) : Prop :=
      ∃ t, Sys2Proof.Machine.exec c s = .next t ∧ t.pending = s.pending ∧ E t.dev
    (∀ hi, hi ∈ Sys2Proof.Machine.capturesOf a.toNat → Sys2Proof.Machine.macWindowOf a.toNat = none →
      (Sys2Proof.Machine.regRow a.toNat).isSome → q.capt.get none a.toNat = none → a ≠ 0x200000 → a ≠ 0xD00018 →
      runs (.lowHalfRead p a) (fun e => (Sys2Proof.Machine.portOf e p.val).capt.get none hi =
        some (Sys2Proof.Machine.readView s.dev p.val hi) ∧ Sys2Proof.Safety.Keeps [.svc] s.dev e)) ∧
    (q.ev = [] → runs (.evtRillLo p) (fun e => let r := Sys2Proof.Machine.portOf e p.val
      r.underrun = true ∧ r.ev = [] ∧ r.lastLo = q.lastLo ∧ r.lastHi = q.lastHi ∧ Sys2Proof.Safety.Keeps [.svc] s.dev e)) ∧
    (∀ x rest, q.ev = x :: rest → runs (.evtRillLo p) (fun e => let r := Sys2Proof.Machine.portOf e p.val
      r.ev = rest ∧ r.lastLo = Sys2Proof.Machine.rillWord x ∧ r.lastHi = x.arg ∧ r.capt.get none 0x200004 = some x.arg ∧
      r.underrun = q.underrun ∧ Sys2Proof.Safety.Keeps [.svc] s.dev e)) ∧
    runs (.grtRdData p bad) (fun e => Sys2Proof.Machine.getF e Sys2Proof.Machine.F.GRT_RD_ADDR_ADDR =
      (Sys2Proof.Machine.getF s.dev Sys2Proof.Machine.F.GRT_RD_ADDR_ADDR + 4) % 2 ^ 22)

/-- Flushes (R399): FLUSH arms the flush of the port's event Rill, and FLUSH_CMD that of a port's command Rill; on an idle port the
flush is immediate, else it happens at the port's packet boundary (RILL_FLUSH). A flushed Rill is empty, with LOST 0. -/
def Obligations.RillFlushes : Prop :=
  ∀ (p target : Sys2Proof.SPort) (mid : BitVec 2) (s : Sys2Proof.Machine.State),
    let runs (c : Sys2Proof.Instr) (E : Sys2Proof.Machine.Dev → Prop) : Prop :=
      ∃ t, Sys2Proof.Machine.exec c s = .next t ∧ t.pending = s.pending ∧ E t.dev
    let port (e : Sys2Proof.Machine.Dev) (n : Sys2Proof.SPort) := Sys2Proof.Machine.portOf e n.val
    (s.dev.glb.base ∉ [.off, .sequencing, .withdrawn] →
      (mid.getLsbD p.val = false → runs (.flush p mid) (fun e => (port e p).ev = [] ∧ (port e p).lost = 0 ∧ (port e p).armEv = false ∧
        (port e p).cmd = (port s.dev p).cmd)) ∧
      (mid.getLsbD p.val = true → runs (.flush p mid) (fun e => (port e p).ev = (port s.dev p).ev ∧ (port e p).armEv = true)) ∧
      (mid.getLsbD target.val = false → runs (.flushCmd p target mid) (fun e => (port e target).cmd = [] ∧ (port e target).armCmd = false ∧
        (port e target).ev = (port s.dev target).ev)) ∧
      (mid.getLsbD target.val = true → runs (.flushCmd p target mid) (fun e =>
        (port e target).cmd = (port s.dev target).cmd ∧ (port e target).armCmd = true))) ∧
    ((port s.dev p).armEv = true → runs (.rillFlush p false) (fun e => (port e p).ev = [] ∧ (port e p).lost = 0 ∧ (port e p).armEv = false)) ∧
    ((port s.dev p).armCmd = true → runs (.rillFlush p true) (fun e => (port e p).cmd = [] ∧ (port e p).armCmd = false))

/-- The semaphore (R401, R402): ACQUIRE gives a free lock to the writing port with event 1 and is refused while the lock is held;
RELEASE by the owner frees it with LOSS 1, and by any other port is refused; LOCK_TIMEOUT frees a lock whose owner has been idle for
LOCK_TMO ticks, with LOSS 3 and event 2, but while a COMMIT waits. A transaction that is open when the lock is lost is rolled back. -/
def Obligations.Semaphore : Prop :=
  ∀ (p : Sys2Proof.SPort) (s : Sys2Proof.Machine.State),
    let owner (e : Sys2Proof.Machine.Dev) := Sys2Proof.Machine.getF e Sys2Proof.Machine.F.SVC_LOCK_OWNER
    let txn (e : Sys2Proof.Machine.Dev) := Sys2Proof.Machine.getF e Sys2Proof.Machine.F.SVC_TXN_STATE
    let loss (e : Sys2Proof.Machine.Dev) := Sys2Proof.Machine.getF e Sys2Proof.Machine.F.SVC_LOCK_LOSS
    let refused (e : Sys2Proof.Machine.Dev) := Sys2Proof.Machine.flag e Sys2Proof.Machine.F.SVC_ERR_LOCK_REFUSED
    let runs (c : Sys2Proof.Instr) (E : Sys2Proof.Machine.Dev → Prop) : Prop :=
      ∃ t, Sys2Proof.Machine.exec c s = .next t ∧ t.pending = s.pending ∧ E t.dev
    let rolled (e : Sys2Proof.Machine.Dev) (result : Nat) : Prop := txn s.dev = 1 →
      txn e = 0 ∧ Sys2Proof.Machine.getF e Sys2Proof.Machine.F.SVC_TXN_RESULT = result ∧ e.svc.shadow = [] ∧
        Sys2Proof.Safety.pending e 6 = true
    (s.dev.glb.base ∉ [.off, .sequencing, .withdrawn] →
      (owner s.dev = 0 → runs (.acquire p) (fun e => owner e = p.val + 1 ∧ Sys2Proof.Safety.pending e 1 = true)) ∧
      (owner s.dev ≠ 0 → runs (.acquire p) (fun e => owner e = owner s.dev ∧ refused e = true)) ∧
      (owner s.dev = p.val + 1 → runs (.release p) (fun e => owner e = 0 ∧ loss e = 1 ∧ rolled e 3)) ∧
      (owner s.dev ≠ p.val + 1 → runs (.release p) (fun e => owner e = owner s.dev ∧ refused e = true))) ∧
    (owner s.dev ≠ 0 → txn s.dev ≠ 2 →
      s.dev.svc.idleSince + Sys2Proof.Machine.getF s.dev Sys2Proof.Machine.F.SVC_TMO_LOCK_TMO ≤ s.dev.glb.tick →
      runs .lockTimeout (fun e => owner e = 0 ∧ loss e = 3 ∧ Sys2Proof.Safety.pending e 2 = true ∧ rolled e 5))

/-- Configuration transactions (R403, R405): BEGIN opens an empty shadow bank for the owner from Pairing on; COMMIT makes it pending
for its boundary, or rolls back with RESULT 6 after an overflow; ROLLBACK discards it with RESULT 2; an OP not accepted sets
TXN_REFUSED. While it is open the owner's write of a RWL register is staged. The check in the 8 ticks before the boundary changes
nothing where no word fails and raises event 3 where one does; the boundary ends the transaction with RESULT 1 and event 5, and a
staged word takes effect there. -/
def Obligations.Transactions : Prop :=
  ∀ (p : Sys2Proof.SPort) (rd : Bool) (s : Sys2Proof.Machine.State),
    let d := s.dev
    let owns : Prop := Sys2Proof.Machine.getF d Sys2Proof.Machine.F.SVC_LOCK_OWNER = p.val + 1
    let txn (e : Sys2Proof.Machine.Dev) := Sys2Proof.Machine.getF e Sys2Proof.Machine.F.SVC_TXN_STATE
    let result (e : Sys2Proof.Machine.Dev) := Sys2Proof.Machine.getF e Sys2Proof.Machine.F.SVC_TXN_RESULT
    let ovf : Bool := Sys2Proof.Machine.flag d Sys2Proof.Machine.F.SVC_TXN_OVF
    let runs (c : Sys2Proof.Instr) (E : Sys2Proof.Machine.Dev → Prop) : Prop :=
      ∃ t, Sys2Proof.Machine.exec c s = .next t ∧ t.pending = s.pending ∧ E t.dev
    let refused (c : Sys2Proof.Instr) : Prop := runs c (fun e => Sys2Proof.Machine.flag e Sys2Proof.Machine.F.SVC_ERR_TXN_REFUSED = true ∧
      txn e = txn d ∧ e.svc.shadow = d.svc.shadow)
    (d.glb.base ∉ [.off, .sequencing, .withdrawn] →
      (owns → txn d = 0 → (d.glb.base = .pairing ∨ d.glb.base = .serving) →
        runs (.beginTxn p rd) (fun e => txn e = 1 ∧ e.svc.shadow = [] ∧ Sys2Proof.Machine.getF e Sys2Proof.Machine.F.SVC_TXN_STAGED = 0)) ∧
      (¬ owns ∨ txn d ≠ 0 ∨ (d.glb.base ≠ .pairing ∧ d.glb.base ≠ .serving) → refused (.beginTxn p rd)) ∧
      (owns → txn d = 1 → ovf = false → runs (.commit p rd) (fun e => txn e = 2 ∧ e.svc.shadow = d.svc.shadow ∧
        e.svc.commitAt = d.glb.tick - Sys2Proof.Machine.sfTick d + (if Sys2Proof.Machine.sfTick d < 2040 then 2048 else 4096))) ∧
      (owns → txn d = 1 → ovf = true → runs (.commit p rd) (fun e => txn e = 0 ∧ result e = 6 ∧ e.svc.shadow = [])) ∧
      (owns → txn d = 1 → runs (.rollback p rd) (fun e => txn e = 0 ∧ result e = 2 ∧ e.svc.shadow = [])) ∧
      (¬ owns ∨ txn d ≠ 1 → refused (.commit p rd) ∧ refused (.rollback p rd)) ∧
      (∀ (a v : Sys2Proof.Word) row, owns → txn d = 1 → Sys2Proof.Machine.macWindowOf a.toNat = none →
        Sys2Proof.Machine.regRow a.toNat = some row → row.rwl ≠ 0 → row.wo = 0 → row.rw = 0 → row.w1c = 0 →
        Sys2Proof.Machine.reservedEnc a.toNat v.toNat = false → d.svc.shadow.length < 512 →
        runs (.registerWrite p a v) (fun e => e.svc.shadow.get none a.toNat = some (v &&& row.rwl) ∧
          (∀ b, b ≠ a.toNat → e.svc.shadow.get none b = d.svc.shadow.get none b) ∧
          (∀ b, b ≠ 0x100004 → Sys2Proof.Machine.regGet e b = Sys2Proof.Machine.regGet d b)))) ∧
    (txn d = 2 → d.svc.commitAt ≤ d.glb.tick + 8 → Sys2Proof.Machine.failedWords d = [] → Sys2Proof.Machine.exec .commitCheck s = .next s) ∧
    (txn d = 2 → d.svc.commitAt ≤ d.glb.tick + 8 → Sys2Proof.Machine.failedWords d ≠ [] →
      runs .commitCheck (fun e => Sys2Proof.Safety.pending e 3 = true)) ∧
    (txn d = 2 → Sys2Proof.Machine.sfTick d = 0 → d.svc.commitAt ≤ d.glb.tick →
      runs .commitBoundary (fun e => txn e = 0 ∧ result e = 1 ∧ Sys2Proof.Safety.pending e 5 = true)) ∧
    (∀ a w row, txn d = 2 → Sys2Proof.Machine.sfTick d = 0 → d.svc.commitAt ≤ d.glb.tick →
      Sys2Proof.Machine.failedWords d = [] → Sys2Proof.Machine.keyChanges d = [] → d.svc.shadow = [(a, some w)] →
      Sys2Proof.Machine.regRow a = some row → row.base ≠ 0x400000 → a ≠ 0x900000 → a ≠ 0x100004 → a ≠ 0x10000C →
      Sys2Proof.Safety.eventReg a = false →
      runs .commitBoundary (fun e => Sys2Proof.Machine.regGet e a =
        (Sys2Proof.Machine.regGet d a &&& ~~~row.rwl) ||| (w &&& row.rwl)))

/-- The I3C target (R392, R393): ENTDAA gives a port without a dynamic address one, as SETDASA does from 0x2C (port A) or 0x2D (port
B); ENEC and DISEC set and clear IBI_EN; SETMWL, SETMRL (64 to 256 bytes) and RSTACT are kept; a port with a dynamic address answers
GETPID (0x3A5 in bits 47:33, the port in bit 0), GETBCR, GETDCR, GETMWL and GETMRL, and with free bytes what the spec does not give
(log entry 58: the BCR's bits, GETSTATUS, the IBI length of GETMRL, the byte order of the ID). -/
def Obligations.I3cCommands : Prop :=
  ∀ (p : Sys2Proof.SPort) (st : BitVec 7) (da : BitVec 7) (n : BitVec 16) (act : BitVec 8) (s : Sys2Proof.Machine.State),
    s.dev.glb.base ∉ [.off, .sequencing] →
    let port (e : Sys2Proof.Machine.Dev) := Sys2Proof.Machine.portOf e p.val
    let addr (e : Sys2Proof.Machine.Dev) := Sys2Proof.Machine.getF e (Sys2Proof.Machine.F.SVC_PORT_STS_DA p.val)
    let runs (c : Sys2Proof.Instr) (E : Sys2Proof.Machine.Dev → Prop) : Prop :=
      ∃ t, Sys2Proof.Machine.exec c s = .next t ∧ t.pending = s.pending ∧ E t.dev
    let kept (P : List Sys2Proof.Safety.Part) (e : Sys2Proof.Machine.Dev) : Prop := Sys2Proof.Safety.Keeps P s.dev e
    let tells (c : Sys2Proof.Instr) (b : List (BitVec 8)) : Prop :=
      runs c (fun e => (port e).out = (port s.dev).out ++ [.ccc b] ∧ kept [.svc, .free] e)
    (addr s.dev = 0 → runs (.entdaa p da) (fun e => addr e = da.toNat) ∧
      (st.toNat = 0x2C + p.val → runs (.setdasa p st da) (fun e => addr e = da.toNat))) ∧
    (addr s.dev ≠ 0 → Sys2Proof.Machine.exec (.entdaa p da) s = .next s ∧ Sys2Proof.Machine.exec (.setdasa p st da) s = .next s) ∧
    (st.toNat ≠ 0x2C + p.val → Sys2Proof.Machine.exec (.setdasa p st da) s = .next s) ∧
    runs (.enec p) (fun e => Sys2Proof.Machine.flag e (Sys2Proof.Machine.F.SVC_PORT_STS_IBI_EN p.val) = true ∧ addr e = addr s.dev) ∧
    runs (.disec p) (fun e => Sys2Proof.Machine.flag e (Sys2Proof.Machine.F.SVC_PORT_STS_IBI_EN p.val) = false ∧ addr e = addr s.dev) ∧
    runs (.setmwl p n) (fun e => (port e).mwl = min 256 (max 64 n.toNat) ∧ (port e).mrl = (port s.dev).mrl ∧ kept [.svc] e) ∧
    runs (.setmrl p n) (fun e => (port e).mrl = min 256 (max 64 n.toNat) ∧ (port e).mwl = (port s.dev).mwl ∧ kept [.svc] e) ∧
    runs (.rstact p act) (fun e => (port e).rstact = act ∧ kept [.svc] e) ∧
    (addr s.dev ≠ 0 →
      tells (.getpid p) [0x07, 0x4A, 0, 0, 0, if p = 0 then 0 else 1] ∧ tells (.getbcr p) [0x06] ∧ tells (.getdcr p) [0xCC] ∧
      (∃ a b, tells (.getstatus p) [a, b]) ∧
      (∃ a b, a.toNat * 256 + b.toNat = (port s.dev).mwl % 65536 ∧ tells (.getmwl p) [a, b]) ∧
      ∃ a b c, a.toNat * 256 + b.toNat = (port s.dev).mrl % 65536 ∧ tells (.getmrl p) [a, b, c])

/-- A port reset (R394), by RSTDAA (which also gives up the dynamic address) or by the target reset pattern, unless RSTACT announced
no action: the partial message, the command Rill and the captures are discarded, the port's MAC page is zeroised, a lock the port
holds is lost with LOSS 2, and event 17 is raised. -/
def Obligations.PortResets : Prop :=
  ∀ (p : Sys2Proof.SPort) (s : Sys2Proof.Machine.State), s.dev.glb.base ∉ [.off, .sequencing] →
    let port (e : Sys2Proof.Machine.Dev) := Sys2Proof.Machine.portOf e p.val
    let owner (e : Sys2Proof.Machine.Dev) := Sys2Proof.Machine.getF e Sys2Proof.Machine.F.SVC_LOCK_OWNER
    let runs (c : Sys2Proof.Instr) (E : Sys2Proof.Machine.Dev → Prop) : Prop :=
      ∃ t, Sys2Proof.Machine.exec c s = .next t ∧ t.pending = s.pending ∧ E t.dev
    let wasReset (e : Sys2Proof.Machine.Dev) : Prop := (port e).asm = none ∧ (port e).cmd = [] ∧ (port e).capt = [] ∧
      (∀ x, e.slu.pages.get x (64 + p.val) = x) ∧ Sys2Proof.Safety.pending e 17 = true ∧
      Sys2Proof.Machine.flag e (Sys2Proof.Machine.F.SVC_PORT_ERR_RESET p.val) = true ∧
      (owner s.dev = p.val + 1 → owner e = 0 ∧ Sys2Proof.Machine.getF e Sys2Proof.Machine.F.SVC_LOCK_LOSS = 2) ∧ (owner s.dev ≠ p.val + 1 → owner e = owner s.dev)
    runs (.rstdaa p) (fun e => Sys2Proof.Machine.getF e (Sys2Proof.Machine.F.SVC_PORT_STS_DA p.val) = 0 ∧ wasReset e) ∧
    ((port s.dev).rstact ≠ 0 → runs (.targetReset p) (fun e => (port e).rstact = 1 ∧ wasReset e)) ∧
    ((port s.dev).rstact = 0 → runs (.targetReset p) (fun e => port e = { port s.dev with rstact := 1 } ∧ Sys2Proof.Safety.Keeps [.svc] s.dev e))

/-- MCTP control messages (R393, R397): Set Endpoint ID sets the port's EID but for the null and broadcast IDs (log entry 58), and the
five messages are answered, with free bytes where the spec gives no value; in Withdrawn the port answers none of them. -/
def Obligations.MctpControl : Prop :=
  ∀ (p : Sys2Proof.SPort) (eid : BitVec 8) (s : Sys2Proof.Machine.State),
    let eidOf (e : Sys2Proof.Machine.Dev) := Sys2Proof.Machine.getF e (Sys2Proof.Machine.F.SVC_PORT_STS_EID p.val)
    let runs (c : Sys2Proof.Instr) (E : Sys2Proof.Machine.Dev → Prop) : Prop :=
      ∃ t, Sys2Proof.Machine.exec c s = .next t ∧ t.pending = s.pending ∧ E t.dev
    let replies (c : Sys2Proof.Instr) (b : List (BitVec 8)) (E : Sys2Proof.Machine.Dev → Prop) : Prop :=
      runs c (fun e => (Sys2Proof.Machine.portOf e p.val).out = (Sys2Proof.Machine.portOf s.dev p.val).out ++ [.ctrl b] ∧ E e)
    let same (e : Sys2Proof.Machine.Dev) : Prop := Sys2Proof.Safety.Keeps [.svc, .free] s.dev e
    (s.dev.glb.base ∉ [.off, .sequencing, .withdrawn] →
      (eid ≠ 0 → eid ≠ 0xFF → replies (.setEndpointId p eid) [0x01, 0x00, 0x00, eid, 0x00] (fun e => eidOf e = eid.toNat)) ∧
      (eid = 0 ∨ eid = 0xFF → replies (.setEndpointId p eid) [0x01, 0x02] same) ∧
      (∃ b, b.toNat = eidOf s.dev % 256 ∧ replies (.getEndpointId p) [0x02, 0x00, b, 0x00, 0x00] same) ∧
      (∃ v w x y, replies (.getMctpVersionSupport p) [0x04, 0x00, 0x01, v, w, x, y] same) ∧
      replies (.getMessageTypeSupport p) [0x05, 0x00, 0x01, 0x7F] same ∧
      ∃ v w, replies (.getVendorDefinedMessageSupport p) [0x06, 0x00, 0xFF, 0x01, 0x00, 0x01, 0xC4, 0xA9, v, w] same) ∧
    (s.dev.glb.base = .withdrawn → ∀ c, c ∈ [Sys2Proof.Instr.setEndpointId p eid, .getEndpointId p, .getMctpVersionSupport p,
      .getMessageTypeSupport p, .getVendorDefinedMessageSupport p] → Sys2Proof.Machine.exec c s = .next s)

/-- Control-space messages (R393, R395, R396): a READ or WRITE of 1 to 32 aligned words enters one command-Rill entry for each word in
ascending order, is NACKed where the Rill lacks room, and a bad one is answered with STATUS 0x06 or 0x02 and performs no access; a
class without commands is answered with STATUS 0x01; the executor takes a port's head read, and idles when both Rills are empty. -/
def Obligations.ServiceMessages : Prop :=
  ∀ (p : Sys2Proof.SPort) (seq : BitVec 8) (addr : Sys2Proof.Word) (count : BitVec 8) (ok : Bool) (ws : List Sys2Proof.Word) (cls cmd : BitVec 8) (mid : BitVec 2)
    (s : Sys2Proof.Machine.State), s.dev.glb.base ∉ [.off, .sequencing, .withdrawn] →
    let port (e : Sys2Proof.Machine.Dev) := Sys2Proof.Machine.portOf e p.val
    let q := port s.dev
    let n := count.toNat
    let runs (c : Sys2Proof.Instr) (E : Sys2Proof.Machine.Dev → Prop) : Prop :=
      ∃ t, Sys2Proof.Machine.exec c s = .next t ∧ t.pending = s.pending ∧ E t.dev
    let replies (c : Sys2Proof.Instr) (b : List (BitVec 8)) : Prop :=
      runs c (fun e => (port e).out = q.out ++ [.body b] ∧ Sys2Proof.Safety.Keeps [.svc] s.dev e)
    let sized : Prop := 1 ≤ n ∧ n ≤ 32
    let placed : Prop := addr.toNat % 4 = 0 ∧ addr.toNat + 4 * n ≤ 2 ^ 32
    let nacked (c : Sys2Proof.Instr) : Prop := runs c (fun e => Sys2Proof.Machine.flag e (Sys2Proof.Machine.F.SVC_PORT_ERR_NACK p.val) = true ∧ (port e).cmd = q.cmd)
    (sized → placed → q.cmd.length + n ≤ 32 →
      runs (.read p seq addr count true) (fun e => Sys2Proof.Safety.Keeps [.svc] s.dev e ∧
        (port e).cmd = q.cmd ++ (List.range n).map (fun i => .rd seq (addr + BitVec.ofNat 32 (4 * i)) (decide (i + 1 = n)))) ∧
      (ws.length = n → runs (.write p seq addr count ws) (fun e => Sys2Proof.Safety.Keeps [.svc] s.dev e ∧
        (port e).cmd = q.cmd ++ (List.range n).map (fun i => .wr seq (addr + BitVec.ofNat 32 (4 * i)) (ws.getD i 0) (decide (i + 1 = n)))))) ∧
    (sized → placed → 32 < q.cmd.length + n →
      nacked (.read p seq addr count true) ∧ (ws.length = n → nacked (.write p seq addr count ws))) ∧
    (¬ sized → replies (.read p seq addr count ok) (Sys2Proof.Machine.response 1 1 seq 6 []) ∧ replies (.write p seq addr count ws) (Sys2Proof.Machine.response 1 2 seq 6 [0])) ∧
    (sized → replies (.read p seq addr count false) (Sys2Proof.Machine.response 1 1 seq 2 []) ∧
      (ws.length ≠ n → replies (.write p seq addr count ws) (Sys2Proof.Machine.response 1 2 seq 2 [0]))) ∧
    (sized → ¬ placed → replies (.read p seq addr count true) (Sys2Proof.Machine.response 1 1 seq 6 []) ∧
      (ws.length = n → replies (.write p seq addr count ws) (Sys2Proof.Machine.response 1 2 seq 6 [0]))) ∧
    (cls = 0 ∨ 3 < cls.toNat → replies (.unsupportedCommand p cls cmd seq) (Sys2Proof.Machine.response cls (cmd &&& 0x7F) seq 1 [])) ∧
    ((∀ r, (Sys2Proof.Machine.portOf s.dev r).cmd = [] ∧ (Sys2Proof.Machine.portOf s.dev r).waitCommit = none) → Sys2Proof.Machine.exec (.executorAccess mid) s = .next s) ∧
    (∀ a rest, q.cmd = .rd seq a false :: rest → q.waitCommit = none → q.armCmd = false → q.armEv = false →
      (Sys2Proof.Machine.portOf s.dev (1 - p.val)).cmd = [] → (Sys2Proof.Machine.portOf s.dev (1 - p.val)).waitCommit = none →
      runs (.executorAccess mid) (fun e => (port e).cmd = rest ∧
        ∃ d, Sys2Proof.Safety.Keeps [.svc] s.dev d ∧ (port e).words = q.words ++ [(Sys2Proof.Machine.ctlRead p.val a.toNat d).1]))

/-- MCTP packets (R393): a failed PEC or a malformed header discards the packet and the partial message, sets its bit of SVC_PORT_p_ERR
and raises event 18; a packet with a start of message begins one, a later one joins it, and one that takes it past 1,024 bytes is
discarded as oversize; a start of message discards a partial one; a complete control message is answered. -/
def Obligations.MctpPackets : Prop :=
  ∀ (p : Sys2Proof.SPort) (k : Sys2Proof.Packet) (s : Sys2Proof.Machine.State), s.dev.glb.base ∉ [.off, .sequencing, .withdrawn] →
    let port (e : Sys2Proof.Machine.Dev) := Sys2Proof.Machine.portOf e p.val
    let q := port s.dev
    let runs (c : Sys2Proof.Instr) (E : Sys2Proof.Machine.Dev → Prop) : Prop :=
      ∃ t, Sys2Proof.Machine.exec c s = .next t ∧ t.pending = s.pending ∧ E t.dev
    let bad (f : Sys2Proof.Machine.Fld) (e : Sys2Proof.Machine.Dev) : Prop := (port e).asm = none ∧ Sys2Proof.Machine.flag e f = true ∧ Sys2Proof.Safety.pending e 18 = true
    let sized : Prop := 1 ≤ k.payload.length ∧ k.payload.length ≤ q.mwl ∧ (k.eom = true ∨ 64 ≤ k.payload.length)
    (k.pecOk = false → runs (.mctpPacket p k) (bad (Sys2Proof.Machine.F.SVC_PORT_ERR_PEC p.val))) ∧
    (k.pecOk = true → (k.hdrOk = false ∨ ¬ sized) → runs (.mctpPacket p k) (bad (Sys2Proof.Machine.F.SVC_PORT_ERR_HDR p.val))) ∧
    (k.pecOk = true → k.hdrOk = true → sized → k.eom = false →
      (k.som = true → k.payload.length ≤ 1024 → runs (.mctpPacket p k) (fun e => (port e).asm = some k.payload ∧
        (q.asm.isSome → Sys2Proof.Machine.flag e (Sys2Proof.Machine.F.SVC_PORT_ERR_PARTIAL p.val) = true ∧ Sys2Proof.Safety.pending e 18 = true))) ∧
      (∀ have_, k.som = false → q.asm = some have_ →
        (have_.length + k.payload.length ≤ 1024 → runs (.mctpPacket p k) (fun e => (port e).asm = some (have_ ++ k.payload))) ∧
        (1024 < have_.length + k.payload.length → runs (.mctpPacket p k) (bad (Sys2Proof.Machine.F.SVC_PORT_ERR_OVERSIZE p.val))))) ∧
    (k.pecOk = true → k.hdrOk = true → sized → k.som = true → k.eom = true → q.asm = none → k.payload = [0x00, 0x80, 0x05] →
      runs (.mctpPacket p k) (fun e => (port e).out = q.out ++ [.ctrl [0x05, 0x00, 0x01, 0x7F]] ∧ (port e).asm = none))

/-- Attestation (R328, R330, R331) in Pairing and later: GET_VERSION, GET_IDENTITY and GET_CERT are answered with STATUS 0 and their
payloads, a certificate offset at or beyond the chain with event 11; GET_REPORT keeps what it asks until the report is signed, and a
second one before that gives event 11; the signed report goes out with its 96-byte signature. Before Pairing every request gives
event 11. -/
def Obligations.Attestation : Prop :=
  ∀ (p : Sys2Proof.SPort) (seq : BitVec 8) (off : BitVec 16) (nonce : BitVec 256) (mask : BitVec 8) (s : Sys2Proof.Machine.State),
    let port (e : Sys2Proof.Machine.Dev) := Sys2Proof.Machine.portOf e p.val
    let q := port s.dev
    let runs (c : Sys2Proof.Instr) (E : Sys2Proof.Machine.Dev → Prop) : Prop :=
      ∃ t, Sys2Proof.Machine.exec c s = .next t ∧ t.pending = s.pending ∧ E t.dev
    let tells (c : Sys2Proof.Instr) (cmd : BitVec 8) (b : List (BitVec 8)) : Prop :=
      runs c (fun e => (port e).out = q.out ++ [.body (Sys2Proof.Machine.response 2 cmd seq 0 b)] ∧ Sys2Proof.Safety.Keeps [.svc] s.dev e)
    let asks : List Sys2Proof.Instr := [.getVersion p seq, .getIdentity p seq, .getCert p seq off, .getReport p seq nonce mask]
    let chain := Sys2Proof.Config.certChain
    (s.dev.glb.base ∉ [.off, .sequencing, .withdrawn, .loading, .recovering] →
      tells (.getVersion p seq) 1 [0x01, 0x0F] ∧
      tells (.getIdentity p seq) 2 (Sys2Proof.Config.identityKey ++
        (Sys2Proof.Machine.bytesLE 48 (Sys2Proof.Config.sha384 Sys2Proof.Config.identityKey).toNat).reverse) ∧
      (off.toNat < chain.length → tells (.getCert p seq off) 3 (Sys2Proof.Machine.bytesLE 2 chain.length ++ (chain.drop off.toNat).take 960)) ∧
      (chain.length ≤ off.toNat → runs (.getCert p seq off) (fun e => Sys2Proof.Safety.pending e 11 = true)) ∧
      (q.report = none → runs (.getReport p seq nonce mask) (fun e => (port e).report = some (seq, nonce, mask) ∧ (port e).out = q.out)) ∧
      (q.report.isSome → runs (.getReport p seq nonce mask) (fun e => (port e).report = q.report ∧ Sys2Proof.Safety.pending e 11 = true))) ∧
    (s.dev.glb.base ∉ [.off, .sequencing, .withdrawn] → q.report = some (seq, nonce, mask) →
      ∃ sig : BitVec 768, runs (.reportSigned p) (fun e => (port e).report = none ∧ (port e).out = q.out ++
        [.body (Sys2Proof.Machine.response 2 4 seq 0 (Sys2Proof.Machine.reportBody s.dev nonce mask ++ (Sys2Proof.Machine.bytesLE 96 sig.toNat).reverse))])) ∧
    (s.dev.glb.base ∈ [.loading, .recovering] → ∀ c ∈ asks, runs c (fun e => Sys2Proof.Safety.pending e 11 = true ∧ (port e).report = q.report))

/-- The counters and Gecko records (R415, R416, R419): CLRWRAP and ZERO act on the selected counter alone, POP passes to the next
record, FREEZE keeps the store as it is from the end of a sweep, and a sweep copies every counter at once. -/
def Obligations.CountersAndRecords : Prop :=
  ∀ (p : Sys2Proof.SPort) (on : Bool) (s : Sys2Proof.Machine.State),
    let o (e : Sys2Proof.Machine.Dev) := e.obs
    let d := s.dev
    let sel := Sys2Proof.Machine.getF d Sys2Proof.Machine.F.OBS_CNT_SEL_INDEX
    let frozen (e : Sys2Proof.Machine.Dev) := Sys2Proof.Machine.flag e Sys2Proof.Machine.F.OBS_CTL_FROZEN
    let runs (c : Sys2Proof.Instr) (E : Sys2Proof.Machine.Dev → Prop) : Prop :=
      ∃ t, Sys2Proof.Machine.exec c s = .next t ∧ t.pending = s.pending ∧ E t.dev
    (d.glb.base ∉ [.off, .sequencing, .withdrawn] →
      runs (.clrwrap p) (fun e => (∀ i, (o e).ctrs.get {} i = if i = sel then { (o d).ctrs.get {} i with wrap := false, sat := false }
        else (o d).ctrs.get {} i) ∧ Sys2Proof.Safety.Keeps [.svc, .obs] d e) ∧
      runs (.zero p) (fun e => (∀ i, (o e).ctrs.get {} i = if i = sel then {} else (o d).ctrs.get {} i) ∧ Sys2Proof.Safety.Keeps [.svc, .obs] d e) ∧
      runs (.pop p) (fun e => (o e).ring = (o d).ring.drop 1 ∧ (o e).ctrs = (o d).ctrs ∧ Sys2Proof.Safety.Keeps [.svc, .obs] d e) ∧
      runs (.freeze p on) (fun e => Sys2Proof.Machine.flag e Sys2Proof.Machine.F.OBS_CTL_FREEZE = on ∧ (o e) = o d ∧ frozen e = (on && frozen d))) ∧
    (frozen d = false → runs .counterSweep (fun e => (o e).store = (o d).ctrs ∧ (o e).ctrs = (o d).ctrs ∧
      Sys2Proof.Machine.getF e Sys2Proof.Machine.F.OBS_CNT_NUM_SWEEPS = (Sys2Proof.Machine.getF d Sys2Proof.Machine.F.OBS_CNT_NUM_SWEEPS + 1) % 65536 ∧ frozen e = Sys2Proof.Machine.flag d Sys2Proof.Machine.F.OBS_CTL_FREEZE)) ∧
    (frozen d = true → Sys2Proof.Machine.exec .counterSweep s = .next s)

/-- The Ledger's commands (R423-R425) on a port whose command Rill is empty: GET_INFO and READ answer from the records held, GET_NONCE
gives a fresh nonce, a CLEAR that carries a good signature removes the records up to UPTO and leaves a record of itself with event
482, FLUSH and a write that is due put the buffer's records in the Grotto area in order, and a nonce lapses an epoch after it was
given. -/
def Obligations.LedgerCommands : Prop :=
  ∀ (p : Sys2Proof.SPort) (seq : BitVec 8) (first upto : Sys2Proof.Word) (count slot : BitVec 8) (pk : BitVec 384) (sig : BitVec 768) (s : Sys2Proof.Machine.State),
    let d := s.dev
    let port (e : Sys2Proof.Machine.Dev) := Sys2Proof.Machine.portOf e p.val
    let q := port d
    let runs (c : Sys2Proof.Instr) (E : Sys2Proof.Machine.Dev → Prop) : Prop :=
      ∃ t, Sys2Proof.Machine.exec c s = .next t ∧ t.pending = s.pending ∧ E t.dev
    let told (e : Sys2Proof.Machine.Dev) (cmd status : BitVec 8) (b : List (BitVec 8)) : Prop := ∃ l, (port e).out = l ++ [.body (Sys2Proof.Machine.response 3 cmd seq status b)]
    let room : Prop := Sys2Proof.Machine.grtRefuses d 24 = false ∧ d.obs.area.length + d.obs.buf.length ≤ 12288
    (d.glb.base ∉ [.off, .sequencing, .withdrawn] → q.cmd = [] → q.waitCommit = none → q.armCmd = false → q.armEv = false →
      (∃ old : Nat, (∀ r rest, d.obs.area ++ d.obs.buf = r :: rest → old = r.seq) ∧
        runs (.getInfo p seq) (fun e => told e 1 0 (Sys2Proof.Machine.bytesLE 4 old ++ Sys2Proof.Machine.bytesLE 4 d.obs.nextSeq ++ Sys2Proof.Machine.bytesLE 2 d.obs.buf.length ++
          Sys2Proof.Machine.bytesLE 2 d.obs.area.length ++ Sys2Proof.Machine.bytesLE 4 (Sys2Proof.Machine.getF d Sys2Proof.Machine.F.OBS_LED_DROP_COUNT) ++ Sys2Proof.Machine.bytesLE 4 (Sys2Proof.Machine.getF d Sys2Proof.Machine.F.OBS_LED_SUPP_COUNT)))) ∧
      (1 ≤ count.toNat → count.toNat ≤ 15 → runs (.ledgerRead p seq first count) (fun e => told e 2 0
        ((List.range count.toNat).flatMap fun i => match (d.obs.area ++ d.obs.buf).find? fun r => r.seq = first.toNat + i with
          | some r => (List.range 64).map (Sys2Proof.Machine.ledByte r)
          | none => List.replicate 64 0))) ∧
      (∃ n : BitVec 256, runs (.getNonce p seq) (fun e => told e 3 0 (Sys2Proof.Machine.bytesLE 32 n.toNat) ∧ e.obs.nonce = some (n, d.glb.tick))) ∧
      (∀ n f, Sys2Proof.Machine.getF d Sys2Proof.Machine.F.SVC_LOCK_OWNER = p.val + 1 → d.obs.nonce = some n → d.glb.fuses[slot.toNat]? = some f →
        f.programmed = true → f.revoked = false → f.hash = pk → Sys2Proof.Config.ecdsaVerify pk (Sys2Proof.Machine.clearDigest n.1 upto) sig = true →
        Sys2Proof.Machine.grtRefuses d 24 = false → d.obs.area.length < 12288 →
        runs (.ledgerClear p seq upto slot pk sig) (fun e => told e 4 0 [] ∧ Sys2Proof.Safety.pending e 482 = true ∧ e.obs.nonce = none ∧
          ∃ r, r.seq = d.obs.nextSeq ∧ r.evnum = 482 ∧ e.obs.area = (d.obs.area.filter fun x => upto.toNat < x.seq) ++ [r])) ∧
      (room → runs (.ledgerFlush p seq) (fun e => told e 5 0 [] ∧ e.obs.area = d.obs.area ++ d.obs.buf))) ∧
    (d.obs.flushDue = true → room → runs .ledgerGrottoWrite (fun e => e.obs.area = d.obs.area ++ d.obs.buf)) ∧
    (∀ n, d.obs.nonce = some n → n.2 + 2 ^ 20 ≤ d.glb.tick → runs .nonceLapse (fun e => e.obs.nonce = none))

/-- Lane swaps and half width (R98, R99) on a link in Active: a lane over its threshold, or without lock, asks for its spare; the
transmitter answers SWAP_RDY with SWAP_COMMIT 128 frames on and HALF_REQ with HALF_COMMIT; the receiver takes the frame of a commit and
switches when it is reached, with the lane recorded as failed; a swap whose spare is not locked in 400 ticks is abandoned. Nothing else
of the link changes. -/
def Obligations.LaneSwaps : Prop :=
  ∀ (link : Sys2Proof.Link) (lane frame map : BitVec 8) (n : Fin 18) (errors : Nat) (lost : Bool) (s : Sys2Proof.Machine.State), Sys2Proof.Machine.ltOf s.dev link.val = 6 →
    let l := link.val
    let x := Sys2Proof.Machine.linkOf s.dev l
    let runs (c : Sys2Proof.Instr) (E : Sys2Proof.Machine.Dev → Prop) : Prop :=
      ∃ t, Sys2Proof.Machine.exec c s = .next t ∧ t.pending = s.pending ∧ E t.dev
    let becomes (c : Sys2Proof.Instr) (y : Sys2Proof.Machine.LinkSt) : Prop := runs c (fun e => Sys2Proof.Machine.linkOf e l = y ∧ Sys2Proof.Safety.Keeps [.fab] s.dev e)
    let last (code arg : Nat) : BitVec 16 := BitVec.ofNat 16 (code + arg * 256)
    becomes (.swapReq link lane) { x with lastLctl := last 1 lane.toNat, txSwap := some lane.toNat } ∧
    (x.txSwap = some lane.toNat → x.switchTx = none → becomes (.swapRdy link lane) { x with
      lastLctl := last 2 lane.toNat, lctlOut := some (3, x.txFrame + 128), switchTx := some (x.txFrame + 128), switchAcc := x.txAcc + 2048 }) ∧
    (x.swapLane.isSome → becomes (.swapCommit link frame) { x with
      lastLctl := last 3 frame.toNat, switchAt := some frame, rxFrame := none, lctlOut := none }) ∧
    (x.switchTx = none → becomes (.halfReq link map) { x with
      lastLctl := last 4 map.toNat, txHalf := some map, lctlOut := some (5, x.txFrame + 128), switchTx := some (x.txFrame + 128), switchAcc := x.txAcc + 2048 }) ∧
    (x.halfMap.isSome → becomes (.halfCommit link frame) { x with
      lastLctl := last 5 frame.toNat, switchAt := some frame, rxFrame := none, lctlOut := none }) ∧
    (x.swapLane.isSome → x.switchAt = none → x.swapSince + 400 ≤ s.dev.glb.tick →
      becomes (.swapTimeout link) { x with swapLane := none, lctlOut := none }) ∧
    (l < 16 → n.val < 8 → x.failed = [] → x.swapLane = none → Sys2Proof.Machine.flag s.dev (Sys2Proof.Machine.F.FAB_CTL_SWAP_EN l) = true →
      (lost = true ∨ Sys2Proof.Machine.getF s.dev (Sys2Proof.Machine.F.FAB_LTHR_THR l) < errors) → runs (.laneFailure link n errors lost) (fun e =>
        (Sys2Proof.Machine.linkOf e l).swapLane = some n.val ∧ (Sys2Proof.Machine.linkOf e l).lctlOut = some (1, BitVec.ofNat 8 n.val) ∧
        (Sys2Proof.Machine.linkOf e l).swapSince = s.dev.glb.tick)) ∧
    (∀ k, x.swapLane = some k → x.switchAt.isSome → Sys2Proof.Machine.rxReached x = true → runs (.laneSwitchFrame link) (fun e =>
      (Sys2Proof.Machine.linkOf e l).swapLane = none ∧ (Sys2Proof.Machine.linkOf e l).switchAt = none ∧ k ∈ (Sys2Proof.Machine.linkOf e l).failed ∧
      Sys2Proof.Safety.pending e (if l < 16 then 96 + 4 * l + 1 else 388) = true ∧ (l < 16 → Sys2Proof.Machine.flag e (Sys2Proof.Machine.F.FAB_STS_SPARE_USED l) = true)))

/-- Training of a fabric port (R84-R86, R100): training frames in Active take it to Down with its link state kept; the exit condition of
Detect, of each state up to Param, of Param with Param accepted and of Realign leads on; Param binds the agents it claims and starts
both directions anew, or is refused with event 3; a state over its limit leads to Detect again, or from Realign to Down; a port Down
for FAB_DOWN_TMO gives its link state up, and then its agents are declared dead. -/
def Obligations.Training : Prop :=
  ∀ (port : Fin 16) (t : BitVec 8) (lanes : BitVec 9) (found : Sys2Proof.LanesFound) (w0 w1 w2 : Sys2Proof.Word64) (s : Sys2Proof.Machine.State),
    let l := port.val
    let link : Sys2Proof.Link := ⟨l, by have := port.isLt; omega⟩
    let x := Sys2Proof.Machine.linkOf s.dev l
    let lt := Sys2Proof.Machine.ltOf s.dev l
    let runs (c : Sys2Proof.Instr) (E : Sys2Proof.Machine.Dev → Prop) : Prop :=
      ∃ t, Sys2Proof.Machine.exec c s = .next t ∧ t.pending = s.pending ∧ E t.dev
    let exits (b : Nat) : Prop := runs (.trainingStateExit link lanes found) (fun e => Sys2Proof.Machine.ltOf e l = b)
    (lt = 6 → runs (.trainingFramesReceived link t) (fun e => Sys2Proof.Machine.ltOf e l = 8 ∧ (Sys2Proof.Machine.linkOf e l).keep = true ∧ Sys2Proof.Safety.pending e (96 + 4 * l) = true)) ∧
    (8 ≤ (Sys2Proof.Machine.bitList 9 lanes.toNat).length → (lt = 1 → exits 2) ∧ (lt = 2 → exits 3)) ∧
    (lt = 3 → exits 4) ∧ (lt = 4 → exits 5) ∧ (lt = 5 → x.paramOk = true → exits 6) ∧ (lt = 7 → exits 6) ∧
    (lt = 8 → x.paramOk = true → exits 6) ∧
    (lt = 5 → x.keep = false → Sys2Proof.Machine.paramRefused s.dev l w0 w1 w2 = false → runs (.param link w0 w1 w2) (fun e =>
      Sys2Proof.Machine.getPair (Sys2Proof.Machine.F.FAB_AGT_LO_BOUND l) (Sys2Proof.Machine.F.FAB_AGT_HI_BOUND l) e = w1.toNat ∧ (Sys2Proof.Machine.linkOf e l).paramOk = true ∧
      (Sys2Proof.Machine.linkOf e l).txSeq = 0 ∧ (Sys2Proof.Machine.linkOf e l).rxSeq = 4095 ∧ (Sys2Proof.Machine.linkOf e l).retry = [])) ∧
    (lt = 5 → x.keep = false → Sys2Proof.Machine.paramRefused s.dev l w0 w1 w2 = true → runs (.param link w0 w1 w2) (fun e =>
      Sys2Proof.Machine.ltOf e l = 1 ∧ Sys2Proof.Machine.flag e (Sys2Proof.Machine.F.FAB_ERR_PARAM_MISMATCH l) = true ∧ Sys2Proof.Safety.pending e (96 + 4 * l + 3) = true)) ∧
    (∀ n, Sys2Proof.Machine.trainLimit lt = some n → x.stateSince + n ≤ s.dev.glb.tick → runs (.trainingTimeout link) (fun e =>
      Sys2Proof.Machine.ltOf e l = (if lt = 7 then 8 else 1) ∧ Sys2Proof.Machine.flag e (Sys2Proof.Machine.F.FAB_ERR_TRAIN_TMO l) = true)) ∧
    (∀ b, x.downSince = some b → lt ≠ 6 → b + Sys2Proof.Machine.getF s.dev Sys2Proof.Machine.F.FAB_DOWN_TMO_TMO ≤ s.dev.glb.tick → runs (.downTimeout port) (fun e =>
      ∃ g, e = Sys2Proof.Machine.sweepRetires ((Sys2Proof.Machine.agentsOfPort s.dev l).foldl (fun d a => Sys2Proof.Machine.declareDead a 1 d) g) ∧ Sys2Proof.Machine.ltOf g l = 1 ∧
        (Sys2Proof.Machine.linkOf g l).keep = false ∧ (Sys2Proof.Machine.linkOf g l).retry = [] ∧ Sys2Proof.Machine.flag g (Sys2Proof.Machine.F.FAB_ERR_TRAIN_TMO l) = true))

/-- Flits (R91-R94) on a link in Active: an idle flit in sequence is accepted, one that fails is discarded and makes the receiver ask for
a replay, a hold flit brings its ACK alone, a NAK is set again when no replay comes, REALIGN from the other end and from FAB_CMD lead
to Realign with event 2 of the port, and a mirror message of a reserved class is discarded with event 385. -/
def Obligations.Flits : Prop :=
  ∀ (link : Sys2Proof.Link) (f : Sys2Proof.Flit) (cls : BitVec 4) (p : Sys2Proof.SPort) (port : Fin 16) (s : Sys2Proof.Machine.State),
    let l := link.val
    let x := Sys2Proof.Machine.linkOf s.dev l
    let runs (c : Sys2Proof.Instr) (E : Sys2Proof.Machine.Dev → Prop) : Prop :=
      ∃ t, Sys2Proof.Machine.exec c s = .next t ∧ t.pending = s.pending ∧ E t.dev
    let plain : Prop := f.fixed = 0 ∧ f.fcw.sync = 0xB5 ∧ f.fcw.lctl = 0 ∧ f.nak = false ∧ f.cntA = 0 ∧ f.cntB = 0
    (Sys2Proof.Machine.ltOf s.dev l = 6 →
      (plain → f.ftype = 1 → f.fecOk = true → Sys2Proof.Machine.crcGood f = true → f.tagOk = true → f.seq.toNat = (x.rxSeq + 1) % 4096 →
        x.dropping = false → x.replayDue = false → runs (.flitReceived link f) (fun e => (Sys2Proof.Machine.linkOf e l).rxSeq = f.seq.toNat ∧
          (Sys2Proof.Machine.linkOf e l).acked = f.ack.toNat ∧ (Sys2Proof.Machine.linkOf e l).dropping = false)) ∧
      (plain → f.ftype ≠ 2 → (f.fecOk = false ∨ Sys2Proof.Machine.crcGood f = false) → x.dropping = false → runs (.flitReceived link f) (fun e =>
        (Sys2Proof.Machine.linkOf e l).rxSeq = x.rxSeq ∧ (Sys2Proof.Machine.linkOf e l).acked = x.acked ∧ (Sys2Proof.Machine.linkOf e l).dropping = true ∧
        (Sys2Proof.Machine.linkOf e l).nakAck = x.rxSeq)) ∧
      (f.nak = false → f.fecOk = true → Sys2Proof.Machine.crcGood f = true → x.replayDue = false → runs (.holdFlit link f) (fun e =>
        (Sys2Proof.Machine.linkOf e l).rxSeq = x.rxSeq ∧ (Sys2Proof.Machine.linkOf e l).acked = f.ack.toNat)) ∧
      (x.dropping = true → x.nakSince + 2 ≤ s.dev.glb.tick → runs (.nakRetryTimer link) (fun e =>
        (Sys2Proof.Machine.linkOf e l).nakSince = s.dev.glb.tick ∧ (Sys2Proof.Machine.linkOf e l).nakAck = x.rxSeq ∧ (Sys2Proof.Machine.linkOf e l).dropping = true)) ∧
      runs (.realign link) (fun e => Sys2Proof.Machine.ltOf e l = 7 ∧ (Sys2Proof.Machine.linkOf e l).swapLane = none ∧ (Sys2Proof.Machine.linkOf e l).swapAgain =
        (if x.swapLane.isSome then x.swapLane else x.swapAgain) ∧ (l < 16 → Sys2Proof.Safety.pending e (96 + 4 * l + 2) = true))) ∧
    (Sys2Proof.Machine.ltOf s.dev port.val = 6 → s.dev.glb.base ∉ [.off, .sequencing, .withdrawn] → runs (.fabCmdRealign p port) (fun e =>
      Sys2Proof.Machine.ltOf e port.val = 7 ∧ (Sys2Proof.Machine.linkOf e port.val).lctlOut = some (6, 0) ∧ Sys2Proof.Safety.pending e (96 + 4 * port.val + 2) = true)) ∧
    (Sys2Proof.Machine.mirUp s.dev = true → runs (.reservedMcls cls) (fun e => Sys2Proof.Machine.getF e Sys2Proof.Machine.F.TWN_HS_INFO_REASON = 7 ∧ Sys2Proof.Safety.pending e 385 = true))

/-- What the schedule's times bring (R24, R43, R44, R234, R253): at the fixing tick the next level is fixed and the windows it leaves
without a slot lapse; at a superframe boundary the fixed level applies and the anti-rollback update is made once; at an epoch boundary
AGE_NOW rises by 1, the near-tier error counts start anew and the dirty cap is derived again; the epoch schedule starts at a superframe
boundary; a tick's programs start at cycle 0 with the posts that arrived. -/
def Obligations.ScheduleTimes : Prop :=
  ∀ (ok : Bool) (un : BitVec 4) (cal : List Sys2Proof.CalSample) (scrub : List Sys2Proof.ScrubRead) (corrected : List (Fin 44)) (s : Sys2Proof.Machine.State),
    let d := s.dev
    let runs (c : Sys2Proof.Instr) (E : Sys2Proof.Machine.Dev → Prop) : Prop :=
      ∃ t g, Sys2Proof.Machine.exec c s = .next t ∧ t.pending = s.pending ∧
        (t.dev = g ∨ t.dev = Sys2Proof.Machine.finish (Sys2Proof.Machine.stateByte s.dev) g) ∧ E g
    (Sys2Proof.Machine.sfTick d = 2032 → Sys2Proof.Machine.serves d = true ∨ d.glb.base = .pairing → runs .dutyLevelFix (fun e => ∃ x, e = Sys2Proof.Machine.windowsLapse (Sys2Proof.Machine.nextLevel d) x ∧
      Sys2Proof.Machine.getF x Sys2Proof.Machine.F.SCH_SPOS_NEXT_LEVEL = Sys2Proof.Machine.nextLevel d ∧ Sys2Proof.Safety.Keeps [.regs, .plain] d x)) ∧
    (Sys2Proof.Machine.sfTick d = 0 → d.glb.base ≠ .off → d.glb.base ≠ .sequencing → runs (.superframeBoundary ok un) (fun e => ∃ x y,
      y = Sys2Proof.Machine.sparingTick (Sys2Proof.Machine.swapDies (Sys2Proof.Machine.reseed ok x)) ∧ e = Sys2Proof.Machine.antiRollback un y ∧
      (Sys2Proof.Machine.serves d = true → Sys2Proof.Machine.getF x Sys2Proof.Machine.F.SCH_SPOS_LEVEL = Sys2Proof.Machine.getF d Sys2Proof.Machine.F.SCH_SPOS_NEXT_LEVEL) ∧
      (Sys2Proof.Machine.stateCode y = 5 ∨ Sys2Proof.Machine.stateCode y = 6 → e.glb.antiRollbackDone = true))) ∧
    (Sys2Proof.Machine.spos d = 0 → d.glb.base ≠ .off → d.glb.base ≠ .sequencing → runs .epochBoundary (fun e => ∃ x, e = Sys2Proof.Machine.capEpoch x ∧
      (Sys2Proof.Machine.serves d = true → Sys2Proof.Machine.getF x Sys2Proof.Machine.F.XLT_AGE_NOW_AGE = (Sys2Proof.Machine.getF d Sys2Proof.Machine.F.XLT_AGE_NOW_AGE + 1) % 2 ^ 32) ∧
      ∀ w ∈ x.ntr.weir, w.2.ueEpoch = 0)) ∧
    (Sys2Proof.Machine.sfTick d = 0 → d.glb.handshakeDone = true ∨ d.glb.soloTaken = true ∨ Sys2Proof.Machine.flag d Sys2Proof.Machine.F.TWN_STS_TARGET = true →
      runs .epochScheduleStart (fun e => Sys2Proof.Machine.flag e Sys2Proof.Machine.F.SCH_SPOS_EPOCH_PROG = true ∧ Sys2Proof.Safety.Keeps [.regs, .plain] d e)) ∧
    runs (.runnelTick cal scrub corrected) (fun e => ∃ x,
      e = (let y := corrected.foldl (fun y n => Sys2Proof.Machine.sramCorrected n.val y) x
        if Sys2Proof.Machine.getF y Sys2Proof.Machine.F.SCH_SPOS_EPOCH_PROG ≠ 1 then Sys2Proof.Machine.runChanges y
        else Sys2Proof.Machine.resilverTick (Sys2Proof.Machine.planTick (scrub.foldl (fun y r => Sys2Proof.Machine.scrubbed r y) (Sys2Proof.Machine.sweepCheck (cal.foldl (fun y c => Sys2Proof.Machine.calibrate c y) (Sys2Proof.Machine.launchAll y)))))) ∧
      ∀ n : Fin 44, (Sys2Proof.Machine.runnelOf d n.val).st = .idle ∨ (Sys2Proof.Machine.runnelOf d n.val).st = .running →
        (Sys2Proof.Machine.runnelOf x n.val).st = .running ∧ (Sys2Proof.Machine.runnelOf x n.val).cyc = 0 ∧ (Sys2Proof.Machine.runnelOf x n.val).core.outbox = [] ∧
        (Sys2Proof.Machine.runnelOf x n.val).core.inbox = (Sys2Proof.Machine.runnelOf d n.val).core.inbox ++ (Sys2Proof.Machine.runnelOf d n.val).arrived)

/-- Engines and their spares (R62, R69-R75): a transfer that ended leaves its engine's list and brings what it carried; a tick whose
beat is missing is a fault of the engine, shown in SCH_FLT_INFO, with events 36 and 48 + e, and begins a substitution, or takes a repeat
to Withdrawn; a substitution that ends maps the runnel to its spare and restarts it, cold where its data SRAM is lost; the fault records
expire after an epoch; a warden disagreement takes the device to Withdrawn; CYC_CLR clears the cycle maxima. -/
def Obligations.EnginesAndSpares : Prop :=
  ∀ (rn : Fin 44) (desc : BitVec 18) (status : BitVec 3) (tag : Sys2Proof.Tag) (xl : Sys2Proof.XferLeaf) (found : BitVec 4) (lost : Bool) (p : Sys2Proof.SPort) (s : Sys2Proof.Machine.State),
    let d := s.dev
    let n := rn.val
    let r := Sys2Proof.Machine.runnelOf d n
    let runs (c : Sys2Proof.Instr) (E : Sys2Proof.Machine.Dev → Prop) : Prop :=
      ∃ t g, Sys2Proof.Machine.exec c s = .next t ∧ t.pending = s.pending ∧
        (t.dev = g ∨ t.dev = Sys2Proof.Machine.finish (Sys2Proof.Machine.stateByte s.dev) g) ∧ E g
    (∀ x, r.core.xfers.find? (fun x => x.desc = desc.toNat) = some x → status ≠ 0 → status.toNat ≤ 4 → Sys2Proof.Machine.xferStarted d n x.tmpl = true →
      runs (.xferComplete rn desc status tag xl) (fun e => ∃ y, e = Sys2Proof.Machine.xferBrings n status.toNat tag.toNat (xl.leaf.map BitVec.toNat) xl.md
        (Sys2Proof.Machine.engineWrite n (desc.toNat + 28) [BitVec.ofNat 8 status.toNat, 0, 0, 0] y) ∧
        ∀ z ∈ (Sys2Proof.Machine.runnelOf y n).core.xfers, z.desc ≠ desc.toNat)) ∧
    (Sys2Proof.Machine.beatMissing r found.toNat = true → d.glb.base ≠ .withdrawn → runs (.engineFault rn found) (fun e => ∃ y,
      e = (if d.sch.records.any (fun q => decide (q.pos = Sys2Proof.Machine.spos d % Sys2Proof.Machine.phaseCycle d) && decide (q.level = Sys2Proof.Machine.dutyLevel d) &&
          decide (d.glb.tick < q.tick + 2 ^ 20))
        then Sys2Proof.Machine.withdraw false (Sys2Proof.Machine.raiseBy true 41 (BitVec.ofNat 32 (Sys2Proof.Machine.spos y + Sys2Proof.Machine.dutyLevel y * 2 ^ 20)) y) else Sys2Proof.Machine.beginSubst n y) ∧
      Sys2Proof.Machine.flag y Sys2Proof.Machine.F.SCH_FLT_INFO_VALID = true ∧ Sys2Proof.Machine.getF y Sys2Proof.Machine.F.SCH_FLT_INFO_LOGICAL = n ∧
      Sys2Proof.Machine.getF y Sys2Proof.Machine.F.SCH_FLT_INFO_CAUSE = Sys2Proof.Machine.beatCause n r found.toNat % 16 ∧ Sys2Proof.Safety.pending y 36 = true ∧
      Sys2Proof.Safety.pending y (48 + Sys2Proof.Machine.getF d (Sys2Proof.Machine.F.SCH_MAP_PHYS n)) = true)) ∧
    (∀ q, d.sch.substs.find? (fun q => !q.done) = some q → q.tick + 3 ≤ d.glb.tick → d.glb.base ≠ .withdrawn →
      runs (.spareSubstituted lost) (fun e => ∃ y, e = (if lost then Sys2Proof.Machine.coldMissed q.logical y else y) ∧
        (Sys2Proof.Machine.runnelOf y q.logical).restart = some (if lost then (Sys2Proof.Machine.sectOf d q.logical).cold else (Sys2Proof.Machine.sectOf d q.logical).restart) ∧
        Sys2Proof.Safety.pending y 33 = true ∧ (lost = true → Sys2Proof.Safety.pending y 38 = true))) ∧
    runs .wardenRecordExpire (fun e => e.sch.records = d.sch.records.filter (fun q => d.glb.tick < q.tick + 2 ^ 20) ∧ Sys2Proof.Safety.Keeps [.sch] d e) ∧
    runs .wardenDisagreement (fun e => ∃ y, e = Sys2Proof.Machine.withdraw true y ∧ Sys2Proof.Machine.flag y Sys2Proof.Machine.F.SCH_WARDEN_LOCKSTEP_OK = false ∧
      Sys2Proof.Machine.flag y Sys2Proof.Machine.F.SCH_WARDEN_SUBST_BUSY = false ∧ y.sch.substs = [] ∧ y.glb.base = d.glb.base) ∧
    (d.glb.base ∉ [.off, .sequencing, .withdrawn] → runs (.schCycClr p) (fun e => ∀ k : Fin 44, Sys2Proof.Machine.getF e (Sys2Proof.Machine.F.SCH_CYC_MAX k.val) = 0))

/-- Dies (R36, R182-R188, R279): an operation that ends leaves the status read; a read has its page, a program that failed retires
its blocks and one that passed advances them, an erase that passed is checked for blankness and one that failed retires its blocks; a
suspended erase frees its die; a busy die past MED_TMO is reset; a die without a record is scanned for factory bad blocks; a channel
that trains shows state 2 and its rate, one that does not is tried again; recovery ends with what the dies held. -/
def Obligations.Dies : Prop :=
  ∀ (ch : Fin 64) (die : BitVec 5) (status : BitVec 8) (zeros : List Nat) (bad : List (BitVec 2 × BitVec 14)) (r : Sys2Proof.TrainRun)
      (xt : Sys2Proof.TrainExt) (trained : BitVec 48) (top : Bool) (scans : List Sys2Proof.DieScan) (s : Sys2Proof.Machine.State),
    let d := s.dev
    let c := ch.val
    let x := c * 32 + die.toNat
    let y := Sys2Proof.Machine.dieOf d x
    let runs (c : Sys2Proof.Instr) (E : Sys2Proof.Machine.Dev → Prop) : Prop :=
      ∃ t g, Sys2Proof.Machine.exec c s = .next t ∧ t.pending = s.pending ∧
        (t.dev = g ∨ t.dev = Sys2Proof.Machine.finish (Sys2Proof.Machine.stateByte s.dev) g) ∧ E g
    (y.op ≠ .none → Sys2Proof.Machine.dataInDue d x = false →
      (status.getLsbD 7 = false → runs (.dieOperationComplete ch die status) (fun e => ∃ g, e = Sys2Proof.Machine.dieFails x 0 0 g ∧ (Sys2Proof.Machine.dieOf g x).status = status)) ∧
      (status.getLsbD 7 = true → status.getLsbD 6 = false → runs (.dieOperationComplete ch die status) (fun e =>
        Sys2Proof.Machine.dieOf e x = { y with status := status })) ∧
      (status.getLsbD 7 = true → status.getLsbD 6 = true →
        (y.op = .read → runs (.dieOperationComplete ch die status) (fun e =>
          (Sys2Proof.Machine.dieOf e x).op = .none ∧ (Sys2Proof.Machine.dieOf e x).array = some d.free ∧ e.free = d.free + 9216)) ∧
        (∀ b, y.op = .prog b → runs (.dieOperationComplete ch die status) (fun e => ∃ g, (Sys2Proof.Machine.dieOf g x).op = .none ∧ (Sys2Proof.Machine.dieOf g x).work = [] ∧
          e = (if status.getLsbD 0 then Sys2Proof.Machine.programFails x y.progBlocks y.work g
            else y.work.foldl (fun d w => Sys2Proof.Machine.workDone x w d) (Sys2Proof.Machine.advanceNwl x y.progBlocks y.progWl g)))) ∧
        (∀ b er, y.op = .erase b → y.erase = some er → status.getLsbD 0 = false → er.resumed = false →
          runs (.dieOperationComplete ch die status) (fun e =>
            (Sys2Proof.Machine.dieOf e x).op = .none ∧ (Sys2Proof.Machine.dieOf e x).erase = none ∧ (Sys2Proof.Machine.dieOf e x).blank = some er)))) ∧
    (∀ er t, y.erase = some er → er.suspAt = some t → status.getLsbD 7 = true → Sys2Proof.Machine.suspBit d status = true →
      runs (.eraseSuspend ch die status) (fun e => (Sys2Proof.Machine.dieOf e x).op = .none ∧ (Sys2Proof.Machine.dieOf e x).erase =
        some { er with suspended := true, suspAt := none, resumed := false, credited := er.credited + (t - y.busySince - 1) })) ∧
    (∀ er, y.blank = some er → runs (.blankCheck ch die zeros) (fun e => ∃ g, Sys2Proof.Machine.dieOf g x = { y with blank := none } ∧
      e = (if ((List.range (2 * er.blocks.length)).filter (fun k => Sys2Proof.Machine.reportsErased d (zeros.getD k 0))).length = 2 * er.blocks.length
        then Sys2Proof.Machine.blankPasses x er g else Sys2Proof.Machine.blankFailsNow x er g))) ∧
    (y.op ≠ .none → y.op ≠ .reset → Sys2Proof.Machine.getF d Sys2Proof.Machine.F.MED_TMO_TMO ≤ d.glb.tick - y.busySince → (∀ b, y.op ≠ .prog b) →
      runs (.busyTimeout ch die) (fun e => (Sys2Proof.Machine.dieOf e x).op = .reset ∧ (Sys2Proof.Machine.dieOf e x).busySince = d.glb.tick ∧ (Sys2Proof.Machine.dieOf e x).erase = none ∧
        Sys2Proof.Machine.flag e (Sys2Proof.Machine.F.MED_ERR_BUSY_TMO c) = true ∧ Sys2Proof.Safety.pending e (256 + c) = true)) ∧
    (Sys2Proof.Machine.recoveringAt6 d = true → Sys2Proof.Machine.getF d (Sys2Proof.Machine.F.MED_CH_STS_STATE c) = 2 → die.toNat < Sys2Proof.Machine.populated d →
      (Sys2Proof.Machine.dieOf d (Sys2Proof.Machine.dieAt d c die.toNat)).hasRecord = false → runs (.factoryScan ch die bad) (fun e => ∃ g h,
        e = Sys2Proof.Machine.setB Sys2Proof.Machine.F.MED_CFG_SCAN_DONE (Sys2Proof.Machine.allScanned h) h ∧ (h = g ∨ h = Sys2Proof.Machine.dieFails (Sys2Proof.Machine.dieAt d c die.toNat) 0 0 g) ∧
        (Sys2Proof.Machine.dieOf g (Sys2Proof.Machine.dieAt d c die.toNat)).hasRecord = true ∧
        (Sys2Proof.Machine.dieOf g (Sys2Proof.Machine.dieAt d c die.toNat)).bad = bad.map (fun b => (b.1.toNat, b.2.toNat)))) ∧
    (Sys2Proof.Machine.recoveringAt6 d = true → Sys2Proof.Machine.mediaRailsUp d = true → c < Sys2Proof.Machine.getF d Sys2Proof.Machine.F.XLT_CFG_NCH → Sys2Proof.Machine.getF d (Sys2Proof.Machine.F.MED_CH_STS_STATE c) < 2 →
      let ext := decide ((Sys2Proof.Machine.img d).rates.getD c 0 = 4)
      let lacks := ext && (Sys2Proof.Machine.trainedDies c d).any (fun p => decide (xt.ext.getD p 0 ≠ (Sys2Proof.Machine.img d).dieOps.extVal))
      ((Sys2Proof.Machine.trainPassed ext r xt && !lacks) = true → runs (.channelTraining ch r xt) (fun e =>
        Sys2Proof.Machine.getF e (Sys2Proof.Machine.F.MED_CH_STS_STATE c) = 2 ∧ Sys2Proof.Machine.getF e (Sys2Proof.Machine.F.MED_CH_STS_RATE c) = ((Sys2Proof.Machine.img d).rates.getD c 0).toNat % 8)) ∧
      ((Sys2Proof.Machine.trainPassed ext r xt && !lacks) = false → lacks = false → (Sys2Proof.Machine.chanOf d c).tries < 2 → runs (.channelTraining ch r xt) (fun e =>
        Sys2Proof.Machine.getF e (Sys2Proof.Machine.F.MED_CH_STS_STATE c) = 1 ∧ (Sys2Proof.Machine.chanOf e c).tries = (Sys2Proof.Machine.chanOf d c).tries + 1)) ∧
      ((Sys2Proof.Machine.trainPassed ext r xt && !lacks) = false → lacks = true ∨ 2 ≤ (Sys2Proof.Machine.chanOf d c).tries → runs (.channelTraining ch r xt) (fun e => ∃ g,
        e = Sys2Proof.Machine.stepWithdraws 6 6 g ∧ Sys2Proof.Machine.getF g (Sys2Proof.Machine.F.MED_CH_STS_STATE c) = 3 ∧ Sys2Proof.Machine.flag g (Sys2Proof.Machine.F.MED_ERR_TRAIN_FAIL c) = true ∧
        Sys2Proof.Safety.pending g (256 + c) = true))) ∧
    (Sys2Proof.Machine.recoveringAt6 d = true → Sys2Proof.Machine.mediaRailsUp d = true → Sys2Proof.Machine.allScanned d = true →
      (∀ k, k < Sys2Proof.Machine.getF d Sys2Proof.Machine.F.XLT_CFG_NCH → Sys2Proof.Machine.getF d (Sys2Proof.Machine.F.MED_CH_STS_STATE k) = 2) → runs (.mediaRecovery trained top scans) (fun e => ∃ h,
        h = Sys2Proof.Machine.forEach d.grt.rows Sys2Proof.Machine.restoreRow (Sys2Proof.Machine.nearTierUp trained (Sys2Proof.Machine.setB Sys2Proof.Machine.F.MED_CFG_SCAN_DONE true d)) ∧
        (h.glb.base = .withdrawn → e = Sys2Proof.Machine.stepFails 6 7 h) ∧
        (h.glb.base ≠ .withdrawn → ∃ g, g.med.recovered = true ∧ e = (if g.glb.base = .recovering then Sys2Proof.Machine.toStep 7 g else g))))

/-- Reception and admission (R39, R41, R106, R113, R121, R305, R306): a request of a bound agent that has a credit waits
in the REQ buffer of its port, behind those received before it; without a credit or from an agent that is not bound it sets
CREDIT_OVF or BAD_AGENT with event 3 of its port. At admission a request that nothing holds takes the lowest free HTAG; a Barrier is
then active; without a free HTAG it waits, with event 172; a reissued request is answered from its completion entry. -/
def Obligations.Reception : Prop :=
  ∀ (port : Fin 16) (r : Sys2Proof.Req) (draw : BitVec 24) (agent : Sys2Proof.Agent) (tag : Sys2Proof.Tag) (s : Sys2Proof.Machine.State),
    let d := s.dev
    let p := port.val
    let runs (c : Sys2Proof.Instr) (E : Sys2Proof.Machine.Dev → Prop) : Prop :=
      ∃ t g, Sys2Proof.Machine.exec c s = .next t ∧ t.pending = s.pending ∧
        (t.dev = g ∨ t.dev = Sys2Proof.Machine.finish (Sys2Proof.Machine.stateByte s.dev) g) ∧ E g
    let free := (Sys2Proof.Machine.linkOf d p).rxFree.get 0 0
    let takes (c : Sys2Proof.Instr) : Prop := runs c (fun e => (∃ q, e.bsn.reqs = d.bsn.reqs ++ [q] ∧ q.port = p ∧ q.r = r ∧ q.order = d.bsn.order) ∧
      e.bsn.order = d.bsn.order + 1)
    let errs (c : Sys2Proof.Instr) (f : Nat → Sys2Proof.Machine.Fld) : Prop := runs c (fun e => Sys2Proof.Machine.flag e (f p) = true ∧ Sys2Proof.Safety.pending e (96 + 4 * p + 3) = true ∧
      e.bsn.reqs = d.bsn.reqs)
    (Sys2Proof.Machine.getF d (Sys2Proof.Machine.F.FAB_STS_LTSTATE p) = 6 →
      (free ≠ 0 → r.agent.toNat ∈ Sys2Proof.Machine.agentsOfPort d p → takes (.reqReceived port r draw) ∧ takes (.reservedRequest port r)) ∧
      (free = 0 → errs (.reqReceived port r draw) Sys2Proof.Machine.F.FAB_ERR_CREDIT_OVF ∧ errs (.reservedRequest port r) Sys2Proof.Machine.F.FAB_ERR_CREDIT_OVF) ∧
      (free ≠ 0 → r.agent.toNat ∉ Sys2Proof.Machine.agentsOfPort d p →
        errs (.reqReceived port r draw) Sys2Proof.Machine.F.FAB_ERR_BAD_AGENT ∧ errs (.reservedRequest port r) Sys2Proof.Machine.F.FAB_ERR_BAD_AGENT)) ∧
    (∀ q, Sys2Proof.Machine.reqOf d p agent tag = some q → Sys2Proof.Machine.serves d = true → d.twn.draining = false → Sys2Proof.Machine.streamHolds d q = false →
      Sys2Proof.Machine.barrierHolds d q.order q.r.agent.toNat = false → q.r.op = 10 ∨ Sys2Proof.Machine.malformed q.r = true ∨ Sys2Proof.Machine.inMacWindow d q.r = false →
      (Sys2Proof.Machine.freeTag d = none → runs (.admission port agent tag) (fun e => e = Sys2Proof.Machine.waitsTag q d ∧ e.bsn.txns = d.bsn.txns)) ∧
      (∀ h, Sys2Proof.Machine.freeTag d = some h →
        runs (.admission port agent tag) (fun e => e = Sys2Proof.Machine.admitWith h q d) ∧
        (q.r.reissue = true → runs (.reissuedRequest port agent tag) (fun e => e = Sys2Proof.Machine.admitWith h q d)) ∧
        (q.r.reissue = true → Sys2Proof.Machine.flag d Sys2Proof.Machine.F.TWN_STS_REISSUE = true → ∀ c, Sys2Proof.Machine.ctabFind d q.r.agent q.r.tag = some c → Sys2Proof.Machine.answeredBy d q.r c = true →
          runs (.reissuedRequest port agent tag) (fun e => e = Sys2Proof.Machine.answerEntry h q c d)) ∧
        (q.r.reissue = false → q.r.op = 10 → Sys2Proof.Machine.malformed q.r = false → q.r.agent.toNat ∉ d.bsn.departed →
          runs (.admission port agent tag) (fun e => (Sys2Proof.Machine.getT e h).phase = .active ∧ (Sys2Proof.Machine.getT e h).r = q.r ∧ (Sys2Proof.Machine.getT e h).covered = q.covered))))

/-- Requests active on their line act by the home transition table (R119, R149): on a line that another agent owns a ReadShared sends
SnpShare, a ReadOwn or an Upgrade SnpOwn and a write SnpInv with WrPull; a ReserveRead sends SnpShare; the owner's own EvictClean sends
SnpInv to it and its WriteBack WrPull; on a line in I a write sends WrPull alone. A Barrier whose covered requests have reached their
point completes. The oldest queued request of a line becomes active and acts. -/
def Obligations.RequestsAct : Prop :=
  ∀ (tag : Sys2Proof.Tag) (laddr : Sys2Proof.LAddr) (tagOk : Bool) (ecc : List Sys2Proof.EccErr) (s : Sys2Proof.Machine.State),
    let d := s.dev
    let h := tag.toNat
    let t := Sys2Proof.Machine.getT d h
    let la := Sys2Proof.Machine.txnLine t
    let x := Sys2Proof.Machine.stateOf d la
    let o := x.own.toNat
    let runs (c : Sys2Proof.Instr) (E : Sys2Proof.Machine.Dev → Prop) : Prop :=
      ∃ t g, Sys2Proof.Machine.exec c s = .next t ∧ t.pending = s.pending ∧
        (t.dev = g ∨ t.dev = Sys2Proof.Machine.finish (Sys2Proof.Machine.stateByte s.dev) g) ∧ E g
    (Sys2Proof.Machine.hasT d h = true → t.kind = .request → t.phase = .active → t.lostBy = none → Sys2Proof.Machine.frozen d = false → Sys2Proof.Machine.lostPending d la = false →
        (Sys2Proof.Machine.sfGet d (Sys2Proof.Machine.ownSide d la) (Sys2Proof.Machine.sfSet la)).pinned = false →
      let asks (c : Sys2Proof.Instr) (op : BitVec 5) (pull : Bool) : Prop := runs c (fun e => (Sys2Proof.Machine.getT e h).phase = .acted ∧
        (Sys2Proof.Machine.getT e h).snps = t.snps ++ [{ agent := o, op := op }] ∧ (Sys2Proof.Machine.getT e h).pull = (if pull then some d.glb.tick else t.pull))
      let pulls (c : Sys2Proof.Instr) : Prop := runs c (fun e => (Sys2Proof.Machine.getT e h).phase = .acted ∧ (Sys2Proof.Machine.getT e h).snps = t.snps ∧
        (Sys2Proof.Machine.getT e h).pull = some d.glb.tick)
      (x.st = 2 → Sys2Proof.Machine.isDead d o = false → Sys2Proof.Machine.portsOfAgent d o ≠ [] →
        (t.r.op = 1 → o ≠ t.r.agent.toNat → asks (.readShared tag) 1 false) ∧
        (t.r.op = 2 → o ≠ t.r.agent.toNat → asks (.readOwn tag) 2 false) ∧
        (t.r.op = 3 → o ≠ t.r.agent.toNat → asks (.upgrade tag) 2 false) ∧
        (t.r.op = 4 → asks (.writeLine tag) 3 true) ∧
        (t.r.op = 5 → asks (.writePartial tag) 3 true) ∧
        (t.r.op = 9 → (if t.posted then t.condOk else Sys2Proof.Machine.reserves d t.r.agent.toNat la) = true → asks (.condWrite tag) 3 true) ∧
        (t.r.op = 6 → o = t.r.agent.toNat → pulls (.writeBack tag)) ∧
        (t.r.op = 7 → o = t.r.agent.toNat → asks (.evictClean tag) 3 false) ∧
        (t.r.op = 8 → asks (.reserveRead tag) 1 false)) ∧
      (x.st = 0 → Sys2Proof.Machine.lineValid d la = true → (Sys2Proof.Machine.lineOf d la).poison = false →
          (Sys2Proof.Machine.sfGet d (Sys2Proof.Machine.ownSide d la) (Sys2Proof.Machine.sfSet la)).uncertain = false →
        (t.r.op = 4 → pulls (.writeLine tag)) ∧ (t.r.op = 5 → pulls (.writePartial tag)))) ∧
    (Sys2Proof.Machine.hasT d h = true → Sys2Proof.Machine.isBarrier t = true → Sys2Proof.Machine.barrierMet d t = true →
      (d.twn.handoverWait = false ∨ t.r.scope ≠ 0 → ∀ c ∈ [Sys2Proof.Instr.barrier tag, Sys2Proof.Instr.barrierCompletion tag],
        runs c (fun e => e = Sys2Proof.Machine.sendCmp t.port t.r.agent t.r.tag 0 0 false (Sys2Proof.Machine.endT h d))) ∧
      (d.twn.handoverWait = true → t.r.scope = 0 → ∀ c ∈ [Sys2Proof.Instr.barrier tag, Sys2Proof.Instr.barrierCompletion tag],
        runs c (fun e => t.r.agent.toNat ∈ e.bsn.barrierRsp ∧ Sys2Proof.Safety.Keeps [.bsn] d e))) ∧
    (∀ k, let z := Sys2Proof.Machine.readSet (Sys2Proof.Machine.sfSet laddr.toNat) ecc d
      Sys2Proof.Machine.nextQueued z laddr.toNat = some k → runs (.activation laddr tagOk ecc) (fun e =>
        e = Sys2Proof.Machine.activate laddr.toNat (Sys2Proof.Machine.onT k (fun t => { t with tagBad := !tagOk }) z)))

/-- Answers to snoops and pulls (R110-R112, R120, R133, R464): from a bound agent with a credit, an answer that fits a snoop waits for
the owner's line or the line for the answer, and with both the transaction goes on; a DataWr that a WrPull asked for goes to its
transaction; DOWN of an agent of the same port declares it dead; an answer that fits nothing, and a reserved OP, is a protocol error
with event 161. -/
def Obligations.SnoopAnswers : Prop :=
  ∀ (port : Fin 16) (agent target : Sys2Proof.Agent) (tag : Sys2Proof.Tag) (home dat poison tagOk : Bool) (op : BitVec 5) (line : Sys2Proof.Line) (mask : Sys2Proof.Word64)
      (s : Sys2Proof.Machine.State),
    let d := s.dev
    let p := port.val
    let a := agent.toNat
    let h := tag.toNat
    let t := Sys2Proof.Machine.getT d h
    let runs (c : Sys2Proof.Instr) (E : Sys2Proof.Machine.Dev → Prop) : Prop :=
      ∃ t g, Sys2Proof.Machine.exec c s = .next t ∧ t.pending = s.pending ∧
        (t.dev = g ∨ t.dev = Sys2Proof.Machine.finish (Sys2Proof.Machine.stateByte s.dev) g) ∧ E g
    let open_ (cls : Nat) : Prop := Sys2Proof.Machine.getF d (Sys2Proof.Machine.F.FAB_STS_LTSTATE p) = 6 ∧ (Sys2Proof.Machine.linkOf d p).rxFree.get 0 cls ≠ 0 ∧ a ∈ Sys2Proof.Machine.agentsOfPort d p
    let proto (c : Sys2Proof.Instr) (cls reason : Nat) : Prop := open_ cls → runs c (fun e => Sys2Proof.Machine.flag e Sys2Proof.Machine.F.BSN_ERR_PROTO = true ∧
      Sys2Proof.Machine.getF e Sys2Proof.Machine.F.BSN_PERR_INFO_REASON = reason ∧ Sys2Proof.Machine.getF e Sys2Proof.Machine.F.BSN_PERR_INFO_CLASS = cls ∧ Sys2Proof.Safety.pending e 161 = true ∧ e.bsn = d.bsn)
    let goesOn (c : Sys2Proof.Instr) (cls : Nat) : Prop := runs c (fun e => ∃ z, e = Sys2Proof.Machine.giveCredit p cls (Sys2Proof.Machine.advance h (Sys2Proof.Machine.snoopDone h a z)) ∧
      Sys2Proof.Safety.Keeps [.fab, .obs, .bsn] d z)
    (∀ w, open_ 2 → Sys2Proof.Machine.hasT d h = true → t.phase ≠ .done → home = Sys2Proof.Machine.roleB d → t.snps.find? (fun w => decide (w.agent = a)) = some w → w.rsp = none →
      (Sys2Proof.Machine.answersSnoop w.op 8 = true → ¬ (t.st = 2 ∧ t.own = a ∧ t.stage ≠ 1) → goesOn (.snpRspI port agent tag home) 2) ∧
      (Sys2Proof.Machine.answersSnoop w.op 0x0A = true → w.data = true → goesOn (.snpRspFwdS port agent tag home) 2) ∧
      (Sys2Proof.Machine.answersSnoop w.op 0x0A = true → w.data = false → runs (.snpRspFwdS port agent tag home) (fun e => (Sys2Proof.Machine.getT e h).snps =
        t.snps.map (fun w => if w.agent = a then { w with rsp := some 0x0A } else w))) ∧
      (Sys2Proof.Machine.answersSnoop w.op 0x0B = true → t.gone = false → goesOn (.snpRspFwdI port agent tag home) 2) ∧
      (Sys2Proof.Machine.answersSnoop w.op 0x0C = true → w.data = true → goesOn (.snpRspIData port agent tag home) 2) ∧
      (Sys2Proof.Machine.answersSnoop w.op 0x0C = true → w.data = false → runs (.snpRspIData port agent tag home) (fun e => (Sys2Proof.Machine.getT e h).snps =
        t.snps.map (fun w => if w.agent = a then { w with rsp := some 0x0C } else w)))) ∧
    (Sys2Proof.Machine.hasT d h = false → proto (.snpRspI port agent tag home) 2 2 ∧ proto (.snpRspFwdS port agent tag home) 2 2 ∧
      proto (.snpRspFwdI port agent tag home) 2 2 ∧ proto (.snpRspIData port agent tag home) 2 2 ∧
      proto (.dataSnp port agent tag poison line) 3 2 ∧ proto (.dataWr port agent tag mask line tagOk) 3 2) ∧
    (∀ w, open_ 3 → Sys2Proof.Machine.hasT d h = true → t.phase ≠ .done → t.snps.find? (fun w => decide (w.agent = a)) = some w → w.data = false → w.op ≠ 2 →
      (w.rsp = none → runs (.dataSnp port agent tag false line) (fun e => (Sys2Proof.Machine.getT e h).ownerData = some line ∧ (Sys2Proof.Machine.getT e h).snps =
        t.snps.map (fun w => if w.agent = a then { w with data := true } else w))) ∧
      (w.rsp ≠ none → goesOn (.dataSnp port agent tag false line) 3)) ∧
    (open_ 3 → Sys2Proof.Machine.hasT d h = true → t.phase ≠ .done → t.pull.isSome → t.r.agent = agent → runs (.dataWr port agent tag mask line tagOk) (fun e => ∃ z,
      e = Sys2Proof.Machine.giveCredit p 3 (Sys2Proof.Machine.advance h z) ∧ (Sys2Proof.Machine.getT z h).wr = some (mask, line) ∧ (Sys2Proof.Machine.getT z h).pull = none)) ∧
    (open_ 4 → target.toNat ∈ Sys2Proof.Machine.agentsOfPort d p → runs (.down port agent target) (fun e => ∃ z,
      e = Sys2Proof.Machine.giveCredit p 4 (Sys2Proof.Machine.declareDead target.toNat 4 z) ∧ Sys2Proof.Safety.Keeps [.fab] d z)) ∧
    (target.toNat ∉ Sys2Proof.Machine.agentsOfPort d p → proto (.down port agent target) 4 7) ∧
    proto (.reservedResponseOp port agent dat op) (if dat then 3 else 2) 1 ∧
    proto (.reservedAgentEvt port agent op) 4 5

/-- Waits that end (R18, R40, R128, R129, R137, R138, R166, R298): at the window resolution a read whose line is valid, or that still waits,
gives its windows back, and one that needs no map page any more reads its page in the one window left; a read that lost its window is bound
again as soon as a window is free; a transaction that waits for a way takes one, or waits on; one that waits for a frame, for room under the
dirty cap or for a compressed index goes on, with the fill it held if it held one; an HTAG out of use is free again after SNP_TMO ticks; a line
that waits to be marked lost is marked, and the transactions of the line go on. -/
def Obligations.Waits : Prop :=
  ∀ (tag : Sys2Proof.Tag) (laddr : Sys2Proof.LAddr) (x : Sys2Proof.WayRead) (s : Sys2Proof.Machine.State),
    let d := s.dev
    let h := tag.toNat
    let t := Sys2Proof.Machine.getT d h
    let la := Sys2Proof.Machine.txnLine t
    let runs (c : Sys2Proof.Instr) (E : Sys2Proof.Machine.Dev → Prop) : Prop :=
      ∃ t g, Sys2Proof.Machine.exec c s = .next t ∧ t.pending = s.pending ∧
        (t.dev = g ∨ t.dev = Sys2Proof.Machine.finish (Sys2Proof.Machine.stateByte s.dev) g) ∧ E g
    (∀ w ws, Sys2Proof.Machine.windowsOf d h = w :: ws →
      let needed : Prop := t.phase ≠ .queued ∧ Sys2Proof.Machine.lineValid d la = false ∧ (Sys2Proof.Machine.stateOf d la).st ≠ 2
      (t.phase = .queued ∨ Sys2Proof.Machine.lineValid d la = true ∨ (Sys2Proof.Machine.stateOf d la).st = 2 → runs (.windowResolution tag) (fun e =>
        Sys2Proof.Machine.windowsOf e h = [] ∧ (∀ k, k ≠ h → Sys2Proof.Machine.windowsOf e k = Sys2Proof.Machine.windowsOf d k) ∧ Sys2Proof.Safety.Keeps [.sch] d e)) ∧
      (needed → w.own = true → Sys2Proof.Machine.neverWritten d (la / 64) = true → runs (.windowResolution tag) (fun e =>
        e = Sys2Proof.Machine.fillArrives h (la / 64) {} (Sys2Proof.Machine.releaseWindows h d))) ∧
      (needed → ws = [] → w.own = true → w.issued = false → Sys2Proof.Machine.neverWritten d (la / 64) = false → runs (.windowResolution tag) (fun e =>
        e.sch.windows = d.sch.windows.filter (fun v => !(!v.claimed && decide (v.htag = h))) ++
          [{ w with mapRead := false, paddr := (Sys2Proof.Machine.resolveLeaf d w.leaf).1, agecls := (Sys2Proof.Machine.resolveLeaf d w.leaf).2 }] ∧ Sys2Proof.Safety.Keeps [.sch] d e)) ∧
      (needed → w.own = false → runs (.windowResolution tag) (fun e => e = d))) ∧
    (Sys2Proof.Machine.hasT d h = true →
      (t.rebind = true → t.rbOwn = false → ∀ ws, Sys2Proof.Machine.bindLoose d h (la / 64) false t.rbMap false = some ws → runs (.rebind tag) (fun e =>
        e = Sys2Proof.Machine.bindWindows ws (Sys2Proof.Machine.onT h (fun t => { t with rebind := false }) d))) ∧
      (t.rebind = false → t.needWin = true →
        (Sys2Proof.Machine.lineValid d la = true → runs (.rebind tag) (fun e => e = Sys2Proof.Machine.progress h (Sys2Proof.Machine.onT h (fun t => { t with needWin := false }) d))) ∧
        (Sys2Proof.Machine.lineValid d la = false → runs (.rebind tag) (fun e => e = Sys2Proof.Machine.bindRead h d))) ∧
      (∀ c w, (c, w) ∈ [(Sys2Proof.Instr.frameAllocation tag, Sys2Proof.Machine.WaitFor.frame), (.cidxWaitEnd tag, .cidx), (.dirtyRoomWaitEnd tag, .dirty)] →
          t.wait = w → t.phase ≠ .sent →
        (t.fill = none → runs c (fun e => e = Sys2Proof.Machine.advance h d)) ∧
        (∀ f, t.fill = some f → runs c (fun e => e = Sys2Proof.Machine.fillArrives h (la / 64) f d))) ∧
      (t.phase = .done → t.heldFrom + Sys2Proof.Machine.getF d Sys2Proof.Machine.F.BSN_TMO_SNP_TMO ≤ d.glb.tick → runs (.htagQuarantineEnd tag) (fun e => Sys2Proof.Machine.hasT e h = false))) ∧
    (t.phase = .sent → runs (.dirtyRoomWaitEnd tag) (fun e => e = Sys2Proof.Machine.commitSweep d)) ∧
    (let k := x.htag.toNat
      let y := (Sys2Proof.Machine.readSet (Sys2Proof.Machine.sfSet (Sys2Proof.Machine.txnLine (Sys2Proof.Machine.getT d k))) x.ecc d)
      let z := y.bsn.biQueue.foldl (fun d e => Sys2Proof.Machine.startBi e.1 e.2 d) y
      (Sys2Proof.Machine.getT z k).wait = .way → (Sys2Proof.Machine.sfGet z (Sys2Proof.Machine.ownSide z (Sys2Proof.Machine.txnLine (Sys2Proof.Machine.getT z k))) (Sys2Proof.Machine.sfSet (Sys2Proof.Machine.txnLine (Sys2Proof.Machine.getT z k)))).pinned = false →
        runs (.wayAllocation x) (fun e => if (Sys2Proof.Machine.getT (Sys2Proof.Machine.takeWay k z) k).wait = .way then e = Sys2Proof.Machine.takeWay k z else
          e = Sys2Proof.Machine.progress k (Sys2Proof.Machine.takeWay k z))) ∧
    (∀ w, d.bsn.lostWait.find? (fun e => decide (e.1.toNat = laddr.toNat)) = some w → let y := Sys2Proof.Machine.markLost laddr.toNat w.2 d
      runs (.lineLossMark laddr) (fun e => if Sys2Proof.Machine.lostPending y laddr.toNat then e = y else
        e = ((Sys2Proof.Machine.htags y).filter fun h => Sys2Proof.Machine.running (Sys2Proof.Machine.getT y h) && decide (Sys2Proof.Machine.txnLine (Sys2Proof.Machine.getT y h) = laddr.toNat)).foldl (fun d h => Sys2Proof.Machine.advance h d) y))

/-- Departed and dead agents (R133, R135, R136, R138-R140): DEPART starts the agent's walk; an agent that leaves a snoop or a pull
unanswered for its limit of ticks is declared dead with event 170 or 171; DECLARE, of the lock holder alone, declares an agent dead; CLEAR ends
the mark once the agent's walk has ended at both twins and is refused before; a DECL of the partner is taken while the mirror link is up; a
walk step reads its sets and walks. -/
def Obligations.DeadAgents : Prop :=
  ∀ (port : Fin 16) (agent : Sys2Proof.Agent) (tag : Sys2Proof.Tag) (p : Sys2Proof.SPort) (cause : BitVec 4) (what : BitVec 2) (ecc : List Sys2Proof.EccErr) (s : Sys2Proof.Machine.State),
    let d := s.dev
    let a := agent.toNat
    let t := Sys2Proof.Machine.getT d tag.toNat
    let awake : Prop := d.glb.base ∉ [Sys2Proof.Machine.Base.off, .sequencing, .withdrawn]
    let n := Sys2Proof.Machine.touch p.val d
    let runs (c : Sys2Proof.Instr) (E : Sys2Proof.Machine.Dev → Prop) : Prop :=
      ∃ t g, Sys2Proof.Machine.exec c s = .next t ∧ t.pending = s.pending ∧
        (t.dev = g ∨ t.dev = Sys2Proof.Machine.finish (Sys2Proof.Machine.stateByte s.dev) g) ∧ E g
    (Sys2Proof.Machine.getF d (Sys2Proof.Machine.F.FAB_STS_LTSTATE port.val) = 6 → (Sys2Proof.Machine.linkOf d port.val).rxFree.get 0 4 ≠ 0 → a ∈ Sys2Proof.Machine.agentsOfPort d port.val → a ∉ d.bsn.departed →
      runs (.depart port agent) (fun e => ∃ y z, e = Sys2Proof.Machine.giveCredit port.val 4 (Sys2Proof.Machine.startWalk { agent := a, depart := true } z) ∧
        z = Sys2Proof.Machine.zeroMac a (Sys2Proof.Machine.clearSlot a y) ∧ y.bsn.departed = d.bsn.departed ++ [a] ∧ Sys2Proof.Safety.Keeps [.fab, .bsn] d y)) ∧
    (∀ w, t.snps.find? (fun w => decide (w.agent = a)) = some w → Sys2Proof.Machine.getF d Sys2Proof.Machine.F.BSN_TMO_SNP_TMO ≤ w.waited → runs (.snoopTimeout tag agent) (fun e =>
      ∃ z, e = Sys2Proof.Machine.declareDead a 2 z ∧ Sys2Proof.Machine.flag z Sys2Proof.Machine.F.BSN_ERR_SNP_TMO = true ∧ Sys2Proof.Safety.pending z 170 = true ∧ z.bsn = d.bsn)) ∧
    (t.pull.isSome → Sys2Proof.Machine.getF d Sys2Proof.Machine.F.BSN_TMO_PULL_TMO ≤ t.pullWait → runs (.pullTimeout tag) (fun e =>
      ∃ z, e = Sys2Proof.Machine.declareDead t.r.agent.toNat 3 z ∧ Sys2Proof.Machine.flag z Sys2Proof.Machine.F.BSN_ERR_PULL_TMO = true ∧ Sys2Proof.Safety.pending z 171 = true ∧ z.bsn = d.bsn)) ∧
    (awake →
      (Sys2Proof.Machine.holdsLock d p.val = true → Sys2Proof.Machine.isDead d a = false → runs (.declare p agent) (fun e => e = Sys2Proof.Machine.declareDead a 5 n)) ∧
      (Sys2Proof.Machine.holdsLock d p.val = true → Sys2Proof.Machine.isDead d a = true → Sys2Proof.Machine.walkEnded d a = true → Sys2Proof.Machine.alone d = true ∨ a ∈ d.bsn.partnerWalk → Sys2Proof.Machine.mirrors d = false →
        runs (.clear p agent) (fun e => Sys2Proof.Machine.isDead e a = false ∧ a ∉ e.bsn.partnerWalk)) ∧
      (Sys2Proof.Machine.holdsLock d p.val = true → Sys2Proof.Machine.isDead d a = true → Sys2Proof.Machine.walkEnded d a = false ∨ (Sys2Proof.Machine.alone d = false ∧ a ∉ d.bsn.partnerWalk) →
        runs (.clear p agent) (fun e => Sys2Proof.Machine.flag e Sys2Proof.Machine.F.BSN_ERR_CMD_REFUSED = true ∧ Sys2Proof.Machine.isDead e a = true ∧ e.bsn = d.bsn))) ∧
    (Sys2Proof.Machine.mirUp d = true → runs (.decl agent cause what) (fun e => ∃ z, e = Sys2Proof.Machine.declIn a cause.toNat what.toNat z ∧ z.twn.rxSeq = d.twn.rxSeq + 1 ∧
      z.bsn = d.bsn)) ∧
    (let y := Sys2Proof.Machine.sfErrors ecc d
      let z := (y.bsn.walks.filter fun w => !w.ended).foldl (fun d w =>
        Sys2Proof.Machine.forEach ((List.range 8).map fun i => w.set + i) (fun set d => Sys2Proof.Machine.readSet set [] d) d) y
      runs (.skinkWalkStep ecc) (fun e => e = (z.bsn.walks.filter fun w => !w.ended).foldl (fun d w => Sys2Proof.Machine.walkTick w d) z))

/-- The near tier (R62, R169, R172, R174-R179, R237, R240, R280, R432, R457): when the tenure of the requester that holds a channel ends its
work is done and the next one is granted; a channel that no one holds grants the lowest enabled class at once; refresh, and the JTAG port of an
unlocked part, take the channel and leave the pre-empted requester's remaining units requested; a merge window that has run out is drained, or
its line recovered; GO starts the scrubber at FIRST or is refused; a fetch of an index being repopulated installs its leaf dirty; a probe answers
from the cached map. -/
def Obligations.NearTierWork : Prop :=
  ∀ (ch : Fin 48) (acc : Sys2Proof.NtAccess) (x : Sys2Proof.Preemption) (laddr : Sys2Proof.LAddr) (tagOk : Bool) (p : Sys2Proof.SPort) (die : BitVec 11) (leaf : BitVec 40)
      (poison : Sys2Proof.Word64) (lines : List Sys2Proof.Line) (v : Sys2Proof.Word) (s : Sys2Proof.Machine.State),
    let d := s.dev
    let c := ch.val
    let w := Sys2Proof.Machine.weirOf d c
    let awake : Prop := d.glb.base ∉ [Sys2Proof.Machine.Base.off, .sequencing, .withdrawn]
    let n := Sys2Proof.Machine.touch p.val d
    let u := Sys2Proof.Machine.weirOf d x.ch.val
    let holds (taken : List Bool) (e : Sys2Proof.Machine.Dev) : Prop := (Sys2Proof.Machine.weirOf e x.ch.val).granted = none ∧ (Sys2Proof.Machine.weirOf e x.ch.val).taken = taken ∧
      ∀ r, u.granted = some r → x.moved.val < u.left.get (Sys2Proof.Machine.tenureUnits r) r → (Sys2Proof.Machine.weirOf e x.ch.val).raised = u.raised ||| BitVec.ofNat 10 (2 ^ r) ∧
        (Sys2Proof.Machine.weirOf e x.ch.val).left.get 0 r = u.left.get (Sys2Proof.Machine.tenureUnits r) r - x.moved.val
    let runs (c : Sys2Proof.Instr) (E : Sys2Proof.Machine.Dev → Prop) : Prop :=
      ∃ t g, Sys2Proof.Machine.exec c s = .next t ∧ t.pending = s.pending ∧
        (t.dev = g ∨ t.dev = Sys2Proof.Machine.finish (Sys2Proof.Machine.stateByte s.dev) g) ∧ E g
    (Sys2Proof.Machine.chUp d c = true →
      (w.granted = none → w.taken.drop 1 = [] → let y := Sys2Proof.Machine.onWeir c (fun w => { w with taken := w.taken.drop 1 }) d
        (∀ k r, Sys2Proof.Machine.weirNext y c (Sys2Proof.Machine.weirOf y c) (w.raised ||| acc.raised) acc.subWindow.val = some (k, r) → runs (.tenureEnd ch acc) (fun e =>
          (Sys2Proof.Machine.weirOf e c).granted = some r ∧ (Sys2Proof.Machine.weirOf e c).raised = (w.raised ||| acc.raised) &&& ~~~(BitVec.ofNat 10 (2 ^ r)) ∧
            (Sys2Proof.Machine.weirOf e c).taken = [] ∧ Sys2Proof.Safety.Keeps [.regs, .glb, .svc, .fab, .ntr, .obs] d e)) ∧
        (Sys2Proof.Machine.weirNext y c (Sys2Proof.Machine.weirOf y c) (w.raised ||| acc.raised) acc.subWindow.val = none → runs (.tenureEnd ch acc) (fun e =>
          (Sys2Proof.Machine.weirOf e c).granted = none ∧ (Sys2Proof.Machine.weirOf e c).raised = w.raised ||| acc.raised ∧ Sys2Proof.Safety.Keeps [.ntr] d e))) ∧
      (∀ r, w.granted = some r → let y := Sys2Proof.Machine.tenureWork c r acc d
        Sys2Proof.Machine.chUp y c = true → (Sys2Proof.Machine.weirOf y c).taken = [] → runs (.tenureEnd ch acc) (fun e =>
          e = Sys2Proof.Machine.weirGrant c ((Sys2Proof.Machine.weirOf y c).raised ||| acc.raised) acc.subWindow.val y))) ∧
    (Sys2Proof.Machine.chUp d x.ch.val = true →
      runs (.refreshPreempt x) (fun e => holds (false :: u.taken.filter fun b => b) e) ∧
      (d.glb.debugUnlocked = true → runs (.jtagPreempt x) (fun e => ∃ y, e = Sys2Proof.Machine.noteLine (fun d la => decide (Sys2Proof.Machine.lineChannel d la = some x.ch.val)) y ∧
        holds (u.taken.filter (fun b => !b) ++ [true]) y ∧ Sys2Proof.Safety.pending y 248 = true))) ∧
    (∀ m, Sys2Proof.Machine.mergeOf d laddr.toNat = some m → m.tick + Sys2Proof.Machine.getF d Sys2Proof.Machine.F.NTR_MERGE_WIN ≤ d.glb.tick → Sys2Proof.Machine.lostPending d laddr.toNat = false →
      (tagOk = true → runs (.mergeWindowExpiry laddr tagOk) (fun e => e = Sys2Proof.Machine.mergeDrain laddr.toNat d)) ∧
      (tagOk = false → runs (.mergeWindowExpiry laddr tagOk) (fun e => ∃ y, e = Sys2Proof.Machine.recoverDirty laddr.toNat 2 y ∧ Sys2Proof.Machine.flag y Sys2Proof.Machine.F.SLU_ERR_LINE_TAG = true ∧
        y.ntr = d.ntr))) ∧
    (awake →
      (Sys2Proof.Machine.flag n Sys2Proof.Machine.F.NTR_SCRUB_CTL_BUSY = false → Sys2Proof.Machine.getF n Sys2Proof.Machine.F.NTR_SCRUB_FIRST_BLOCK ≤ Sys2Proof.Machine.getF n Sys2Proof.Machine.F.NTR_SCRUB_LAST_BLOCK → runs (.scrubGo p) (fun e =>
        Sys2Proof.Machine.flag e Sys2Proof.Machine.F.NTR_SCRUB_CTL_BUSY = true ∧ e.ntr.scrubNext = Sys2Proof.Machine.getF n Sys2Proof.Machine.F.NTR_SCRUB_FIRST_BLOCK ∧ e.ntr.scrubCe = 0 ∧ e.ntr.scrubUe = 0 ∧
        (Sys2Proof.Machine.weirOf e (Sys2Proof.Machine.blockPlace e e.ntr.scrubNext).1).raised.getLsbD 7 = true)) ∧
      (Sys2Proof.Machine.flag n Sys2Proof.Machine.F.NTR_SCRUB_CTL_BUSY = true ∨ Sys2Proof.Machine.getF n Sys2Proof.Machine.F.NTR_SCRUB_LAST_BLOCK < Sys2Proof.Machine.getF n Sys2Proof.Machine.F.NTR_SCRUB_FIRST_BLOCK → runs (.scrubGo p) (fun e =>
        Sys2Proof.Machine.flag e Sys2Proof.Machine.F.NTR_SCRUB_CTL_ERR = true ∧ e.ntr = d.ntr)) ∧
      runs (.probeGo p v) (fun e =>
        let y := Sys2Proof.Machine.setF Sys2Proof.Machine.F.XLT_PROBE_LEAF_HI_LEAF v.toNat n
        let l := Sys2Proof.Machine.getPair Sys2Proof.Machine.F.XLT_PROBE_LEAF_LO_LEAF Sys2Proof.Machine.F.XLT_PROBE_LEAF_HI_LEAF y
        Sys2Proof.Machine.flag e Sys2Proof.Machine.F.XLT_PROBE_PA_HI_DONE = true ∧ Sys2Proof.Machine.flag e Sys2Proof.Machine.F.XLT_PROBE_PA_HI_MISS = (!Sys2Proof.Machine.mapCached d l && !Sys2Proof.Machine.neverWritten d l) ∧
        Sys2Proof.Machine.flag e Sys2Proof.Machine.F.XLT_PROBE_PA_HI_ZERO = Sys2Proof.Machine.neverWritten d l ∧ Sys2Proof.Machine.flag e Sys2Proof.Machine.F.XLT_PROBE_PA_HI_REBUILD = (Sys2Proof.Machine.segOf d l).rebuild ∧
        Sys2Proof.Machine.getF e Sys2Proof.Machine.F.XLT_PROBE_PA_LO_PADDR = (d.xlt.map.get Sys2Proof.Machine.sentinel l).toNat % 2 ^ 32 ∧ Sys2Proof.Safety.Keeps [.regs, .svc, .plain] d e)) ∧
    (∀ y, d.xlt.repop = some die.toNat → Sys2Proof.Machine.getF d Sys2Proof.Machine.F.SPR_REPOP_GBPS ≠ 0 → 4096 ≤ d.xlt.repopRoom → 2 * (Sys2Proof.Machine.dirtyLeafList d).length < Sys2Proof.Machine.capLeaves d →
        Sys2Proof.Machine.dieOfLeaf d leaf.toNat = die.toNat → (Sys2Proof.Machine.segOf d leaf.toNat).rebuild = true → Sys2Proof.Machine.allocFrame leaf.toNat d = some y →
      runs (.repopulationFetch die leaf poison lines) (fun e =>
        e = Sys2Proof.Machine.installLines leaf.toNat poison lines true (Sys2Proof.Machine.onXlt (fun x => { x with repopRoom := x.repopRoom - 4096 }) y)))

/-- The Sluice (R275, R281-R283, R285-R291, R348): a step of the walk moves the cursor, and a walk at its end releases the old key or says that
it was blocked; a failed health test; INV empties the tree-walk cache; a page's key; the steps of a message, whose RESULT under a key that stayed
is the CMAC of all its bytes, and their failures; KEYCLR; a request in the MAC window; and the end of the quiesce. -/
def Obligations.SluiceWork : Prop :=
  ∀ (p : Sys2Proof.SPort) (page : Fin 66) (idx : BitVec 3) (key : BitVec 256) (mask : Sys2Proof.Word64) (len : BitVec 12) (first : Bool) (port : Fin 16) (r : Sys2Proof.Req)
      (data : Sys2Proof.Line) (s : Sys2Proof.Machine.State),
    let d := s.dev
    let g := page.val
    let m := Sys2Proof.Machine.macPage d g
    let reach : Prop := if g < 64 then Sys2Proof.Machine.serves d = true else d.glb.base ∉ [Sys2Proof.Machine.Base.off, .sequencing, .withdrawn]
    let old := Sys2Proof.Machine.getF d Sys2Proof.Machine.F.SLU_REKEY_OLD
    let part := (List.range len.toNat).map fun i => m.msg.get 0 i
    let runs (c : Sys2Proof.Instr) (E : Sys2Proof.Machine.Dev → Prop) : Prop :=
      ∃ t g, Sys2Proof.Machine.exec c s = .next t ∧ t.pending = s.pending ∧
        (t.dev = g ∨ t.dev = Sys2Proof.Machine.finish (Sys2Proof.Machine.stateByte s.dev) g) ∧ E g
    (Sys2Proof.Machine.flag d Sys2Proof.Machine.F.SLU_REKEY_BUSY = true →
      runs .rekeyWalkStep (fun e => e = Sys2Proof.Machine.rekeyEnd (Sys2Proof.Machine.rekeyMove (Sys2Proof.Machine.getF d Sys2Proof.Machine.F.SLU_REKEY_RATE_LEAVES) d)) ∧
      (Sys2Proof.Machine.regionEnd d (Sys2Proof.Machine.getF d Sys2Proof.Machine.F.SLU_REKEY_REGION) ≤ Sys2Proof.Machine.cursor d → Sys2Proof.Machine.getF d Sys2Proof.Machine.F.SLU_REKEY_PEND_COUNT = 0 →
        (Sys2Proof.Machine.flag d Sys2Proof.Machine.F.SLU_REKEY_BLOCKED = false → Sys2Proof.Machine.keyNamed d old = false → runs .rekeyWalkStep (fun e => Sys2Proof.Machine.flag e Sys2Proof.Machine.F.SLU_REKEY_BUSY = false ∧
          e.slu.keys.get none old = none ∧ e.slu.keyState.get .free old = .free ∧ Sys2Proof.Safety.pending e 360 = true)) ∧
        (Sys2Proof.Machine.flag d Sys2Proof.Machine.F.SLU_REKEY_BLOCKED = true → runs .rekeyWalkStep (fun e => Sys2Proof.Machine.flag e Sys2Proof.Machine.F.SLU_REKEY_BUSY = false ∧
          Sys2Proof.Machine.flag e Sys2Proof.Machine.F.SLU_ERR_REKEY_BLOCKED = true ∧ e.slu = d.slu ∧ Sys2Proof.Safety.pending e 361 = true)))) ∧
    runs .entropyHealthFailure (fun e => Sys2Proof.Machine.flag e Sys2Proof.Machine.F.SLU_ENT_HEALTH_OK = false ∧ Sys2Proof.Machine.flag e Sys2Proof.Machine.F.SLU_ENT_FAIL = true ∧ Sys2Proof.Safety.pending e 363 = true) ∧
    (d.glb.base ∉ [Sys2Proof.Machine.Base.off, .sequencing, .withdrawn] → runs (.inv p) (fun e => e.slu.wc = [])) ∧
    (reach →
      (g < 64 → mask = 0xFFFFFFFF → runs (.key page idx key mask) (fun e => (Sys2Proof.Machine.macPage e g).key = key ∧ (Sys2Proof.Machine.macPage e g).keyValid = true ∧
        (∀ k, k ≠ g → Sys2Proof.Machine.macPage e k = Sys2Proof.Machine.macPage d k))) ∧
      (g < 64 → mask ≠ 0xFFFFFFFF → runs (.key page idx key mask) (fun e => (Sys2Proof.Machine.macPage e g).key = 0 ∧ (Sys2Proof.Machine.macPage e g).keyValid = false ∧
        (Sys2Proof.Machine.macPage e g).err = 7 ∧ (Sys2Proof.Machine.macPage e g).done = true)) ∧
      (64 ≤ g → runs (.key page idx key mask) (fun e => (Sys2Proof.Machine.macPage e g).words = (if idx.toNat = 0 then 0 else m.words) ||| BitVec.ofNat 8 (2 ^ idx.toNat) ∧
        (∀ k, k ≠ g → Sys2Proof.Machine.macPage e k = Sys2Proof.Machine.macPage d k))) ∧
      (Sys2Proof.Machine.macCauses m len.toNat true false = [] → runs (.first page len false) (fun e => (Sys2Proof.Machine.macPage e g).isOpen = true ∧ (Sys2Proof.Machine.macPage e g).acc = part ∧
        (Sys2Proof.Machine.macPage e g).done = false ∧ (Sys2Proof.Machine.macPage e g).err = 0)) ∧
      (Sys2Proof.Machine.macCauses m len.toNat false false = [] → runs (.macContinue page len) (fun e => (Sys2Proof.Machine.macPage e g).isOpen = true ∧
        (Sys2Proof.Machine.macPage e g).acc = m.acc ++ part ∧ (Sys2Proof.Machine.macPage e g).done = false ∧ (Sys2Proof.Machine.macPage e g).err = 0)) ∧
      (Sys2Proof.Machine.macCauses m len.toNat first true = [] → (first = false → m.rekeyed = false) → ∀ c ∈ (if first then [Sys2Proof.Instr.first page len true, .last page len first]
          else [Sys2Proof.Instr.last page len first]), runs c (fun e =>
        (Sys2Proof.Machine.macPage e g).isOpen = false ∧ (Sys2Proof.Machine.macPage e g).done = true ∧ (Sys2Proof.Machine.macPage e g).err = 0 ∧
        (Sys2Proof.Machine.macPage e g).result = Sys2Proof.Machine.cmac m.key ((if first then [] else m.acc) ++ part))) ∧
      (∀ k last, Sys2Proof.Machine.macCauses m len.toNat first last = [k] → ∀ c ∈ (if last then [Sys2Proof.Instr.last page len first] else if first then [Sys2Proof.Instr.first page len last]
          else [Sys2Proof.Instr.macContinue page len]), runs c (fun e => (Sys2Proof.Machine.macPage e g).isOpen = false ∧ (Sys2Proof.Machine.macPage e g).done = true ∧
        (Sys2Proof.Machine.macPage e g).err = BitVec.ofNat 4 k ∧ (Sys2Proof.Machine.macPage e g).result = 0)) ∧
      runs (.keyclr page) (fun e => (Sys2Proof.Machine.macPage e g).key = 0 ∧ (Sys2Proof.Machine.macPage e g).keyValid = false ∧ (Sys2Proof.Machine.macPage e g).isOpen = false ∧
        (∀ k, k ≠ g → Sys2Proof.Machine.macPage e k = Sys2Proof.Machine.macPage d k))) ∧
    (∀ q, Sys2Proof.Machine.reqOf d port.val r.agent r.tag = some q → Sys2Proof.Machine.inMacWindow d q.r = true → q.r.op ≠ 10 → Sys2Proof.Machine.serves d = true → d.twn.draining = false →
        Sys2Proof.Machine.streamHolds d q = false → Sys2Proof.Machine.barrierHolds d q.order r.agent.toNat = false → r.agent.toNat ∉ d.bsn.departed → q.r.reissue = false →
      runs (.macWindowRequest port r mask data) (fun e => e = Sys2Proof.Machine.macRequest q mask data d)) ∧
    (d.glb.base = .shutdown → Sys2Proof.Machine.getF d Sys2Proof.Machine.F.PWR_STS_SPW = 1 → Sys2Proof.Machine.flag d Sys2Proof.Machine.F.PWR_STS_PAUSED = false →
        Sys2Proof.Machine.alone d = true ∨ (d.bsn.txns.any fun e => e.2.phase == .sent) = false → runs .quiesceEnd (fun e => Sys2Proof.Machine.getF e Sys2Proof.Machine.F.PWR_STS_SPW = 2))

/-- Messages of the mirror link while it is up (R16, R40, R42, R115, R130, R222, R295-R299, R312): each passes its SEQ; records, RETIRE and LREQ join
the stream; an ACK covers the transactions whose record it names, which then commit; a claim of a window that does not come is void, with event
44; a VOID gives its window back and a read that is not released is bound again; a leaf goes to whoever asked for it; an entry goes into its way;
RESTORE_SENT changes nothing more. -/
def Obligations.MirrorMessages : Prop :=
  ∀ (recs : List Sys2Proof.UpdRec) (leaf : BitVec 40) (wl : List Sys2Proof.WmirLine) (seq : BitVec 48) (cl : Sys2Proof.Claim) (channel : BitVec 6) (window : BitVec 18)
      (release : Bool) (use kind : BitVec 2) (poison : Sys2Proof.Word64) (lines : List Sys2Proof.Line) (ok : Bool) (line : BitVec 6) (set : BitVec 16) (way : BitVec 5)
      (entry : BitVec 228) (cidx : List (BitVec 15)) (s : Sys2Proof.Machine.State),
    let d := s.dev
    let n := d.twn.rxSeq
    let got (z : Sys2Proof.Machine.Dev) : Prop := z.twn.rxSeq = n + 1 ∧ z.twn.lreqs = d.twn.lreqs ∧ z.twn.held = d.twn.held ∧ Sys2Proof.Safety.Keeps [.regs, .glb, .svc, .fab, .twn, .obs] d z
    let runs (c : Sys2Proof.Instr) (E : Sys2Proof.Machine.Dev → Prop) : Prop :=
      ∃ t g, Sys2Proof.Machine.exec c s = .next t ∧ t.pending = s.pending ∧
        (t.dev = g ∨ t.dev = Sys2Proof.Machine.finish (Sys2Proof.Machine.stateByte s.dev) g) ∧ E g
    let does (c : Sys2Proof.Instr) (f : Sys2Proof.Machine.Dev → Sys2Proof.Machine.Dev) : Prop := runs c (fun e => ∃ z, got z ∧ e = f z)
    Sys2Proof.Machine.mirUp d = true →
      does (.upd recs) (Sys2Proof.Machine.stream (.upd recs) n) ∧ does (.wmir leaf wl) (Sys2Proof.Machine.stream (.wmir leaf wl) n) ∧ does (.retire cidx) (Sys2Proof.Machine.stream (.retire cidx) n) ∧
      does (.lreq kind leaf line set way) (Sys2Proof.Machine.stream (.lreq kind leaf line set way) n) ∧ does .restoreSent id ∧
      runs (.mirrorAck seq) (fun e => ∃ y, e = Sys2Proof.Machine.commitSweep y ∧ y.bsn.txns = d.bsn.txns.map fun x => (x.1,
        if x.2.seq.any fun k => decide (k ≤ seq.toNat) then { x.2 with acked := x.2.phase == .sent, lossOut := false } else x.2)) ∧
      does (.claim cl) (Sys2Proof.Machine.claim cl) ∧
      (Sys2Proof.Machine.claimTick d cl.channel.toNat cl.window.toNat = none → runs (.claim cl) (fun e => Sys2Proof.Safety.pending e 44 = true ∧ e.sch = d.sch)) ∧
      (∀ w, d.sch.windows.find? (fun w => !w.own && decide (w.ch = channel.toNat) && decide (w.n = window.toNat)) = some w →
        (release = true → runs (.void channel window release) (fun e => e.sch.windows = d.sch.windows.filter (fun v => decide (v ≠ w)) ∧
          e.sch.freed = d.sch.freed ++ [(w.own, w.ch, w.issue)])) ∧
        (release = false → runs (.void channel window release) (fun e => ∃ y two, e = Sys2Proof.Machine.rebindRead w.htag false two w.second y))) ∧
      (use = 2 → Sys2Proof.Machine.flag d Sys2Proof.Machine.F.TWN_STS_TARGET = true → ok = true → does (.leaf leaf use poison lines ok) (Sys2Proof.Machine.stream (.leaf leaf 2 poison lines) n)) ∧
      (use = 1 → does (.leaf leaf use poison lines ok) (Sys2Proof.Machine.copySource leaf.toNat poison lines ok)) ∧
      (use = 0 → does (.leaf leaf use poison lines ok) (Sys2Proof.Machine.leafIn leaf.toNat poison lines ok)) ∧
      (Sys2Proof.Machine.flag d Sys2Proof.Machine.F.TWN_STS_TARGET = false → ∀ q, d.twn.lreqs.find? (fun q => decide (2 ≤ q.kind) && decide (q.set = set.toNat) && decide (q.way = way.toNat)) = some q →
        runs (.sfway set way entry) (fun e => ∃ y, y.twn.lreqs = d.twn.lreqs.filter (fun x => decide (x ≠ q)) ∧
          e = if q.kind = 2 then Sys2Proof.Machine.wayBack set.toNat (Sys2Proof.Machine.wayOfBits entry) y else Sys2Proof.Machine.putWay false set.toNat way.toNat (Sys2Proof.Machine.wayOfBits entry) y)) ∧
      (Sys2Proof.Machine.flag d Sys2Proof.Machine.F.TWN_STS_TARGET = true → does (.sfway set way entry) (fun z => if (Sys2Proof.Machine.wayOfBits entry).v then
        Sys2Proof.Machine.putWay (Sys2Proof.Machine.leafHomeB (Sys2Proof.Machine.sectorOf set.toNat (Sys2Proof.Machine.wayOfBits entry) / 4) == Sys2Proof.Machine.roleB z) set.toNat way.toNat (Sys2Proof.Machine.wayOfBits entry) z else z))

/-- Heartbeat, pulses and loss of the partner (R301-R304): an HB at this twin's position is kept; a follower measures each pulse, and 16 wide
ones in a row raise event 395; eight ticks with neither, or without pulses, and LINK_TMO ticks without an HB, have their effects; a takeover is
announced to every agent, and after REISSUE_TMO ticks its reissue phase ends. -/
def Obligations.PairAlive : Prop :=
  ∀ (sp : BitVec 20) (level state : BitVec 4) (wok : Bool) (gtick : Sys2Proof.Word64) (diff : BitVec 16) (s : Sys2Proof.Machine.State),
    let d := s.dev
    let skew := diff - BitVec.ofNat 16 (Sys2Proof.Machine.getF d Sys2Proof.Machine.F.TWN_TSYNC_DELAY)
    let limit : Int := if d.twn.skewWide then 400 else 40
    let runs (c : Sys2Proof.Instr) (E : Sys2Proof.Machine.Dev → Prop) : Prop :=
      ∃ t g, Sys2Proof.Machine.exec c s = .next t ∧ t.pending = s.pending ∧
        (t.dev = g ∨ t.dev = Sys2Proof.Machine.finish (Sys2Proof.Machine.stateByte s.dev) g) ∧ E g
    (Sys2Proof.Machine.mirUp d = true → sp.toNat = Sys2Proof.Machine.spos d → state ≠ 9 → state ≠ 10 → runs (.hb sp level state wok gtick) (fun e =>
      Sys2Proof.Machine.flag e Sys2Proof.Machine.F.TWN_STS_HB_OK = true ∧ Sys2Proof.Machine.getF e Sys2Proof.Machine.F.TWN_STS_PSTATE = state.toNat ∧ e.twn.plevel = level.toNat ∧ e.twn.mism = 0 ∧
      e.twn.lastHb = d.glb.tick ∧ e.twn.hbHist = d.twn.hbHist ||| 1 ∧ e.glb.base = d.glb.base)) ∧
    (Sys2Proof.Machine.flag d Sys2Proof.Machine.F.TWN_STS_FOLLOWER = false → runs (.ticksyncPulse diff) (fun e => Sys2Proof.Machine.flag e Sys2Proof.Machine.F.TWN_STS_TSYNC_OK = true ∧ e.twn.skewWide = false)) ∧
    (Sys2Proof.Machine.flag d Sys2Proof.Machine.F.TWN_STS_FOLLOWER = true →
      (-limit ≤ skew.toInt → skew.toInt ≤ limit → runs (.ticksyncPulse diff) (fun e => Sys2Proof.Machine.flag e Sys2Proof.Machine.F.TWN_STS_TSYNC_OK = true ∧
        Sys2Proof.Machine.getF e Sys2Proof.Machine.F.TWN_TSYNC_SKEW = skew.toNat ∧ e.twn.skewRow = 0)) ∧
      (limit < skew.toInt ∨ skew.toInt < -limit → d.twn.skewRow = 15 → runs (.ticksyncPulse diff) (fun e =>
        Sys2Proof.Machine.getF e Sys2Proof.Machine.F.TWN_TSYNC_SKEW = skew.toNat ∧ e.twn.skewRow = 16 ∧ Sys2Proof.Machine.flag e Sys2Proof.Machine.F.TWN_ERR_SKEW = true ∧ Sys2Proof.Safety.pending e 395 = true))) ∧
    (d.twn.hbHist = 0 → d.twn.pulseHist = 0 → runs .partnerLost (fun e => e = Sys2Proof.Machine.partnerGone (if Sys2Proof.Machine.getF d Sys2Proof.Machine.F.TWN_STS_LINK = 4 then 2 else 1) d)) ∧
    (d.twn.hbHist ≠ 0 → d.twn.pulseHist = 0 → d.twn.skewWide = false → runs .ticksyncLost (fun e => Sys2Proof.Machine.flag e Sys2Proof.Machine.F.TWN_ERR_TSYNC_LOST = true ∧
      e.twn.skewWide = true ∧ Sys2Proof.Safety.pending e 390 = true)) ∧
    (d.twn.hbHist = 0 → d.twn.pulseHist ≠ 0 → d.twn.lastHb + Sys2Proof.Machine.getF d Sys2Proof.Machine.F.TWN_TMO_LINK_TMO ≤ d.glb.tick → Sys2Proof.Machine.alone d = false → Sys2Proof.Machine.serves d = true →
      (Sys2Proof.Machine.roleB d = false → runs .linkLossTimeout (fun e => Sys2Proof.Machine.getF e Sys2Proof.Machine.F.TWN_STS_LINK = 4 ∧ e.glb.base = .serving)) ∧
      (Sys2Proof.Machine.roleB d = true → runs .linkLossTimeout (fun e => e.glb.base = .withdrawn ∧ Sys2Proof.Safety.pending e 389 = true))) ∧
    (Sys2Proof.Machine.flag d Sys2Proof.Machine.F.TWN_STS_TAKEOVER = true → d.twn.announced = false → d.twn.takeoverAt + 1 ≤ d.glb.tick → Sys2Proof.Machine.serves d = true →
      runs .takeoverAnnounce (fun e => Sys2Proof.Machine.flag e Sys2Proof.Machine.F.TWN_STS_REISSUE = true ∧ e.twn.announced = true)) ∧
    (Sys2Proof.Machine.flag d Sys2Proof.Machine.F.TWN_STS_REISSUE = true → d.twn.takeoverAt + 1 + Sys2Proof.Machine.getF d Sys2Proof.Machine.F.TWN_TMO_REISSUE_TMO ≤ d.glb.tick →
      runs .reissuePhaseEnd (fun e => Sys2Proof.Machine.flag e Sys2Proof.Machine.F.TWN_STS_REISSUE = false ∧ e.twn.ctab = [] ∧ Sys2Proof.Safety.pending e 387 = true))

/-- Leaving and joining the pair (R304, R309-R313, R336): the partner's DETACH, a handshake step, the handover that gives the target its half,
DETACH of the lock holder and the end of its drain, a step or handshake that runs out of time, the retry, the copy's end, and SOLO. -/
def Obligations.Joining : Prop :=
  ∀ (step : BitVec 8) (data : Sys2Proof.HsData) (p : Sys2Proof.SPort) (s : Sys2Proof.Machine.State),
    let d := s.dev
    let n := Sys2Proof.Machine.touch p.val d
    let got (z : Sys2Proof.Machine.Dev) : Prop := z.twn.rxSeq = d.twn.rxSeq + 1 ∧ Sys2Proof.Safety.Keeps [.regs, .glb, .svc, .fab, .twn, .obs] d z
    let ps := Sys2Proof.Machine.getF d Sys2Proof.Machine.F.TWN_STS_PSTATE
    let awake : Prop := d.glb.base ∉ [Sys2Proof.Machine.Base.off, .sequencing, .withdrawn]
    let runs (c : Sys2Proof.Instr) (E : Sys2Proof.Machine.Dev → Prop) : Prop :=
      ∃ t g, Sys2Proof.Machine.exec c s = .next t ∧ t.pending = s.pending ∧
        (t.dev = g ∨ t.dev = Sys2Proof.Machine.finish (Sys2Proof.Machine.stateByte s.dev) g) ∧ E g
    (Sys2Proof.Machine.mirUp d = true →
      runs .ctlDetach (fun e => ∃ z, got z ∧ e = Sys2Proof.Machine.partnerGone 3 z) ∧
      (Sys2Proof.Machine.hsMay d = true → runs (.hs step data) (fun e => ∃ z, got z ∧ e = Sys2Proof.Machine.hsStep step.toNat data z)) ∧
      (Sys2Proof.Machine.flag d Sys2Proof.Machine.F.TWN_STS_TARGET = true → runs .handover (fun e => e.glb.base = .serving ∧ e.glb.tadpole = true ∧ e.glb.degraded = false ∧
        e.twn.rebuilt = true ∧ Sys2Proof.Machine.getF e Sys2Proof.Machine.F.GLB_BOOT_STS_STEP = 10 ∧ Sys2Proof.Safety.pending e 393 = true))) ∧
    (awake → Sys2Proof.Machine.holdsLock d p.val = true →
      (Sys2Proof.Machine.alone d = false → Sys2Proof.Machine.flag d Sys2Proof.Machine.F.TWN_STS_RSLV = false → Sys2Proof.Machine.serves d = true → ps = 5 ∨ ps = 6 ∨ ps = 8 → runs (.detach p) (fun e =>
        e.twn.draining = true ∧ Sys2Proof.Safety.pending e 394 = true)) ∧
      (Sys2Proof.Machine.alone d = true ∨ Sys2Proof.Machine.flag d Sys2Proof.Machine.F.TWN_STS_RSLV = true ∨ Sys2Proof.Machine.serves d = false ∨ (ps ≠ 5 ∧ ps ≠ 6 ∧ ps ≠ 8) → runs (.detach p) (fun e =>
        Sys2Proof.Machine.flag e Sys2Proof.Machine.F.TWN_ERR_CMD_REFUSED = true ∧ e.twn = d.twn)) ∧
      (d.glb.base = .pairing → d.twn.rebuilt = true → d.twn.hsOn = false → Sys2Proof.Machine.flag d Sys2Proof.Machine.F.TWN_STS_RSLV = false → d.glb.handshakeDone = false →
          d.glb.soloTaken = false → 0 < Sys2Proof.Machine.getF d Sys2Proof.Machine.F.TWN_PEPOCH_EPOCH → runs (.solo p) (fun e =>
        e = Sys2Proof.Machine.takeover 1 (Sys2Proof.Machine.onGlb (fun g => { g with soloTaken := true }) n))) ∧
      (d.glb.base ≠ .pairing → runs (.solo p) (fun e => Sys2Proof.Safety.pending e 3 = true ∧ e.twn = d.twn))) ∧
    (d.twn.draining = true → (d.bsn.txns.any fun e => e.2.phase != .done) = false → runs .detachDrainEnd (fun e => ∃ z, e = Sys2Proof.Machine.withdraw false z ∧
      z.twn.draining = false ∧ (d.glb.base = .serving → Sys2Proof.Machine.alone d = false → e.glb.base = .withdrawn))) ∧
    (d.twn.hsOn = true → d.twn.hsStepStart + 10000 ≤ d.glb.tick ∨ d.twn.hsStart + 100000 ≤ d.glb.tick → runs .handshakeTimeout (fun e => e = Sys2Proof.Machine.hsBegin d)) ∧
    (∀ t, d.twn.hsRetryAt = some t → t ≤ d.glb.tick → runs .handshakeRetry (fun e => e = Sys2Proof.Machine.hsBegin d)) ∧
    (Sys2Proof.Machine.flag d Sys2Proof.Machine.F.TWN_STS_RSLV = true → d.twn.source = true → d.twn.rsCopied = true →
      (d.twn.handoverWait = true → runs .resilverCopyComplete (fun e => e = Sys2Proof.Machine.handoverTry d)) ∧
      (d.twn.handoverWait = false → runs .resilverCopyComplete (fun e =>
        e = Sys2Proof.Machine.handoverTry (Sys2Proof.Machine.onTwn (fun t => { t with handoverWait := true }) (Sys2Proof.Machine.tellAgents 391 0 (Sys2Proof.Machine.raiseN 391 0 d))))))

/-- Power, reset and the first steps of a start (R334, R335, R337, R343, R348, R378, R381, R255, R256): a supply from Off starts cold;
RESET_N held low, and RST of the lock holder, ask for a warm reset, which a serving device enters by a shutdown; a release begins step 2; removed
power leaves nothing volatile; Sequencing samples the role and enables rails; step 2 recovers the Grotto and step 3 unwraps the keys, or the
step fails. -/
def Obligations.ResetAndFirstSteps : Prop :=
  ∀ (ok entropyOk roleB : Bool) (ticks : Nat) (p : Sys2Proof.SPort) (rails : List Sys2Proof.RailFuse) (fuses : List Sys2Proof.FuseSlot) (s : Sys2Proof.Machine.State),
    let d := s.dev
    let n := Sys2Proof.Machine.touch p.val d
    let starting : Prop := d.glb.base = .loading ∨ d.glb.base = .recovering ∨ d.glb.base = .pairing
    let runs (c : Sys2Proof.Instr) (E : Sys2Proof.Machine.Dev → Prop) : Prop :=
      ∃ t g, Sys2Proof.Machine.exec c s = .next t ∧ t.pending = s.pending ∧
        (t.dev = g ∨ t.dev = Sys2Proof.Machine.finish (Sys2Proof.Machine.stateByte s.dev) g) ∧ E g
    (d.glb.base = .off → d.glb.standbyOnly = false → Sys2Proof.Machine.flag d Sys2Proof.Machine.F.PWR_STS_VIN_OK = true → d.glb.resetLow = false → ok = true →
      runs (.coldStart ok) (fun e => e.glb.base = .sequencing ∧ e.glb.tick = d.glb.tick ∧ e.sch = {} ∧ e.bsn = {} ∧ e.ntr = {} ∧ e.fab = {} ∧ e.twn = {})) ∧
    (0 < ticks →
      (d.glb.base = .off → runs (.resetN ticks) (fun e => e.glb.base = .off ∧ e.glb.resetLow = true ∧ Sys2Proof.Safety.Keeps [.glb] d e)) ∧
      (starting → runs (.resetN ticks) (fun e => e.glb.resetLow = true ∧ e.glb.resetHold = true ∧
        Sys2Proof.Machine.getF e Sys2Proof.Machine.F.GLB_BOOT_STS_LAST_START = 1 ∧ e.sch = {} ∧ e.bsn = {} ∧ e.ntr = {} ∧ e.fab = {} ∧ e.twn = {})) ∧
      (d.glb.base = .serving → runs (.resetN ticks) (fun e => e.glb.base = .shutdown))) ∧
    (d.glb.resetHold = true → runs .resetNRelease (fun e => e.glb.base = .loading ∧ e.glb.resetLow = false ∧ e.glb.resetHold = false ∧
      Sys2Proof.Machine.bootStep e = 2)) ∧
    (d.glb.resetHold = false → runs .resetNRelease (fun e => e.glb.resetLow = false ∧ e.glb.base = d.glb.base ∧ Sys2Proof.Safety.Keeps [.glb] d e)) ∧
    (Sys2Proof.Machine.holdsLock d p.val = true →
      (starting → d.glb.resetLow = false → runs (.rst p) (fun e => e.glb.base = .loading ∧ Sys2Proof.Machine.bootStep e = 2 ∧
        Sys2Proof.Machine.getF e Sys2Proof.Machine.F.GLB_BOOT_STS_LAST_START = 2 ∧ Sys2Proof.Machine.flag e Sys2Proof.Machine.F.GLB_BOOT_STS_FLUSHED = false ∧ e.sch = {} ∧ e.bsn = {} ∧ e.twn = {})) ∧
      (d.glb.base = .serving → runs (.rst p) (fun e => e.glb.base = .shutdown)) ∧
      (d.glb.base = .shutdown → runs (.rst p) (fun e => e = n))) ∧
    runs .powerRemoved (fun e => e.glb.base = .off ∧ e.sch = {} ∧ e.bsn = {} ∧ e.ntr = {} ∧ e.fab = {} ∧ e.twn = {} ∧ e.grt.wait = [] ∧
      e.xlt.media = d.xlt.media) ∧
    (d.glb.base = .sequencing → Sys2Proof.Machine.flag d Sys2Proof.Machine.F.PWR_STS_VIN_OK = true → d.glb.resetLow = false → (∀ r, r < 16 → Sys2Proof.Machine.railState d r = 0) →
      runs (.sequencing roleB rails) (fun e => ∃ y, e = Sys2Proof.Machine.bringUp y ∧ y.glb.roleB = roleB ∧ y.glb.base = .sequencing)) ∧
    (Sys2Proof.Machine.loadingAt d 2 = true → let y := { d with free := d.free + 1 }
      let o := Sys2Proof.Config.grottoScan d.free
      let scan : Sys2Proof.GrtScan := { mapOk := o.1, weak := o.2.1, bad := o.2.2 }
      let z := Sys2Proof.Machine.grottoScan scan y
      let w := Sys2Proof.Machine.grottoRecover scan z
      (Sys2Proof.Machine.grottoOk z = false ∨ Sys2Proof.Machine.grtRefuses y 0 = true → runs .grottoRecovery (fun e => e = Sys2Proof.Machine.stepWithdraws 2 2 z)) ∧
      (Sys2Proof.Machine.grottoOk z = true → Sys2Proof.Machine.grtRefuses y 0 = false → runs .grottoRecovery (fun e => Sys2Proof.Machine.bootStep e = 3 ∧ e =
        Sys2Proof.Machine.toStep 3 (Sys2Proof.Machine.grottoGives (Sys2Proof.Machine.grtInc (if Sys2Proof.Machine.getF w Sys2Proof.Machine.F.GLB_BOOT_STS_LAST_START = 0 then 3 else 4) w))))) ∧
    (Sys2Proof.Machine.loadingAt d 3 = true →
      (ok = false ∨ d.grt.keyLost = true → runs (.keyUnwrap fuses ok entropyOk) (fun e => e = Sys2Proof.Machine.stepWithdraws 3 3 d)) ∧
      (ok = true → d.grt.keyLost = false → runs (.keyUnwrap fuses ok entropyOk) (fun e => Sys2Proof.Machine.bootStep e = (if entropyOk then 4 else 3))))

/-- From Loading to Serving (R51, R87, R232, R316-R326, R335, R340, R342): step 4 tries copy A, then copy B; a flash that does not answer rejects its
copy with reason 0xC; step 5 loads the runnels on the engines left, or fails; step 7 rebuilds the map and pairs; pairing ends once the handshake is
done or SOLO taken and the ports are ready; at the superframe boundary the device serves; Tadpole ends, or is late; a step past its limit fails. -/
def Obligations.LoadingToServing : Prop :=
  ∀ (flash : Sys2Proof.Flash) (copyB : Bool) (failed torn : List (BitVec 6)) (s : Sys2Proof.Machine.State),
    let d := s.dev
    let runs (c : Sys2Proof.Instr) (E : Sys2Proof.Machine.Dev → Prop) : Prop :=
      ∃ t g, Sys2Proof.Machine.exec c s = .next t ∧ t.pending = s.pending ∧
        (t.dev = g ∨ t.dev = Sys2Proof.Machine.finish (Sys2Proof.Machine.stateByte s.dev) g) ∧ E g
    (Sys2Proof.Machine.loadingAt d 4 = true →
      (flash.sfdpOk = false ∨ flash.mib < 64 ∨ flash.rdMode = 3 → runs (.imageVerify flash) (fun e =>
        e = Sys2Proof.Machine.bothRejected (Sys2Proof.Machine.rejectCopy true 2 (Sys2Proof.Machine.rejectCopy false 2 d)))) ∧
      (flash.sfdpOk = true → 64 ≤ flash.mib → flash.rdMode ≠ 3 → runs (.imageVerify flash) (fun e =>
        ∃ y, y = (if Sys2Proof.Machine.getF d Sys2Proof.Machine.F.GLB_IMG_STS_A_RSN = 0 then Sys2Proof.Machine.tryCopy false flash d else d) ∧ e = Sys2Proof.Machine.bothRejected
          (if 2 ≤ Sys2Proof.Machine.getF y Sys2Proof.Machine.F.GLB_IMG_STS_A_RSN ∧ Sys2Proof.Machine.getF y Sys2Proof.Machine.F.GLB_IMG_STS_B_RSN = 0 then Sys2Proof.Machine.tryCopy true flash y else y))) ∧
      (Sys2Proof.Machine.getF d (Sys2Proof.Machine.rsnFld copyB) = 0 → copyB = false ∨ 2 ≤ Sys2Proof.Machine.getF d Sys2Proof.Machine.F.GLB_IMG_STS_A_RSN → runs (.flashReadTimeout copyB) (fun e =>
        ∃ y, e = Sys2Proof.Machine.bothRejected y ∧ Sys2Proof.Machine.getF y (Sys2Proof.Machine.rsnFld copyB) = 0xC ∧ Sys2Proof.Safety.pending y 8 = true))) ∧
    (Sys2Proof.Machine.loadingAt d 5 = true →
      ((Sys2Proof.Machine.loadEngines d).length < 44 → runs .runnelLoad (fun e => e = Sys2Proof.Machine.stepWithdraws 5 5 d)) ∧
      (44 ≤ (Sys2Proof.Machine.loadEngines d).length → runs .runnelLoad (fun e => ∃ y, e = Sys2Proof.Machine.bankStart (Sys2Proof.Machine.bringUp y) ∧ y.glb.base = .recovering ∧ Sys2Proof.Machine.bootStep y = 6))) ∧
    (d.glb.base = .recovering → Sys2Proof.Machine.bootStep d = 7 → runs (.mapRebuild failed torn) (fun e => ∃ y, e = Sys2Proof.Machine.hsBegin (Sys2Proof.Machine.trainAll y) ∧
      y.glb.base = .pairing ∧ Sys2Proof.Machine.bootStep y = 8)) ∧
    (d.glb.base = .pairing → d.glb.handshakeDone = true ∨ d.glb.soloTaken = true → d.glb.joinAt = none →
        (∀ p, p < 16 → Sys2Proof.Machine.flag d (Sys2Proof.Machine.F.FAB_CTL_ENABLE p) = false ∨ Sys2Proof.Machine.ltOf d p = 6 ∨ (Sys2Proof.Machine.linkOf d p).trainSince + 100000 ≤ d.glb.tick) →
      runs .pairingComplete (fun e => e.glb.joinAt = some d.glb.tick ∧ Sys2Proof.Safety.Keeps [.glb] d e)) ∧
    (∀ n rsn, d.glb.base = .loading → Sys2Proof.Machine.stepLimit (Sys2Proof.Machine.bootStep d) = some (n, rsn) → d.glb.stepStart + n ≤ d.glb.tick → d.glb.resetHold = false →
      runs .startupStepTimeout (fun e => e.glb.base = .withdrawn ∧ e = Sys2Proof.Machine.stepWithdraws (Sys2Proof.Machine.bootStep d) rsn d)) ∧
    (∀ t, d.glb.base = .pairing → d.glb.joinAt = some t → t < d.glb.tick → Sys2Proof.Machine.sfTick d = 0 → runs .servingStart (fun e => e.glb.base = .serving ∧
      e.glb.tadpole = !d.grt.offsetsValid ∧ Sys2Proof.Safety.pending e 13 = true)) ∧
    (d.glb.tadpole = true → Sys2Proof.Machine.serves d = true →
      (d.glb.sweepEnded = true → Sys2Proof.Machine.sfTick d = 0 → runs .tadpoleEnd (fun e => e.glb.tadpole = false ∧ e.glb.sweepEnded = false ∧ Sys2Proof.Safety.pending e 14 = true)) ∧
      (8 ≤ Sys2Proof.Machine.getF d Sys2Proof.Machine.F.GLB_TADPOLE_EPOCHS → d.glb.tadpoleLate = false → runs .tadpoleTimeout (fun e => e.glb.tadpoleLate = true ∧
        e.glb.tadpole = true ∧ Sys2Proof.Safety.pending e 15 = true)))

/-- Rails, their supervision and the hold-up bank (R348-R352, R356-R359, R451): a rail qualifies, or its time runs out and it is tried
again; a discharge ends, or its time runs out with event 442; a fault that is due is reported and has its reaction; low pulses of GOOD; the
measurement of the bank; and a lost reference clock. -/
def Obligations.RailsAndBank : Prop :=
  ∀ (r : Fin 16) (cause : BitVec 4) (ns : Nat) (p : Sys2Proof.SPort) (s : Sys2Proof.Machine.State),
    let d := s.dev
    let k := r.val
    let x := Sys2Proof.Machine.railOf d k
    let st := Sys2Proof.Machine.railState d k
    let now := Sys2Proof.Machine.getF d Sys2Proof.Machine.F.PWR_HU_V_NOW
    let runs (c : Sys2Proof.Instr) (E : Sys2Proof.Machine.Dev → Prop) : Prop :=
      ∃ t g, Sys2Proof.Machine.exec c s = .next t ∧ t.pending = s.pending ∧
        (t.dev = g ∨ t.dev = Sys2Proof.Machine.finish (Sys2Proof.Machine.stateByte s.dev) g) ∧ E g
    (∀ t, x.goodSince = some t → st = 1 ∨ st = 5 → t + Sys2Proof.Machine.getF d Sys2Proof.Machine.F.PWR_QUAL_QUAL_TK ≤ d.glb.tick → Sys2Proof.Machine.insideFault d k = true →
      (Sys2Proof.Machine.serves d = false → d.glb.base ≠ .withdrawn → runs (.railQualified r) (fun e => ∃ y, e = Sys2Proof.Machine.bringUp y ∧ Sys2Proof.Machine.railState y k = 2 ∧ Sys2Proof.Safety.Keeps [.regs, .pwr, .plain] d y)) ∧
      (d.glb.base = .withdrawn → runs (.railQualified r) (fun e => Sys2Proof.Machine.railState e k = 2 ∧ Sys2Proof.Safety.pending e (416 + k) = true))) ∧
    (st = 1 ∨ st = 5 → x.since + Sys2Proof.Machine.getF d (Sys2Proof.Machine.F.PWR_RAIL_CTL_PG_TMO k) ≤ d.glb.tick → runs (.railQualifyTimeout r) (fun e => e = Sys2Proof.Machine.qualifyFails k d)) ∧
    (st = 6 → Sys2Proof.Machine.discharged d k = true → runs (.railDischarged r) (fun e => e = Sys2Proof.Machine.dischargeEnds k d)) ∧
    (st = 6 → Sys2Proof.Machine.discharged d k = false → x.since + Sys2Proof.Machine.getF d (Sys2Proof.Machine.F.PWR_RAIL_CTL_DIS_TMO k) ≤ d.glb.tick → runs (.dischargeTimeout r) (fun e =>
      ∃ y, y = Sys2Proof.Machine.railLog 3 k (Sys2Proof.Machine.raiseN 442 k (Sys2Proof.Machine.setB Sys2Proof.Machine.F.PWR_ERR_DIS_TMO true d)) ∧
        (e = Sys2Proof.Machine.qualifyFails k y ∨ e = Sys2Proof.Machine.dischargeEnds k y))) ∧
    (cause.toNat ∈ x.due → runs (.railFault r cause) (fun e => ∃ y, e = Sys2Proof.Machine.railReact k y ∧ Sys2Proof.Safety.pending y (416 + k) = true ∧ Sys2Proof.Machine.flag y Sys2Proof.Machine.F.PWR_ERR_RAIL_FAULT = true)) ∧
    (st = 1 ∨ st = 5 → runs (.goodLow r ns) (fun e => (Sys2Proof.Machine.railOf e k).goodSince = none)) ∧
    (st = 2 ∨ st = 3 ∨ st = 4 →
      (ns < 200 → runs (.goodLow r ns) (fun e => e = d)) ∧
      (200 ≤ ns → Sys2Proof.Machine.getF d Sys2Proof.Machine.F.PWR_QUAL_LOW_TK * 1000 ≤ ns → runs (.goodLow r ns) (fun e => 5 ∈ (Sys2Proof.Machine.railOf e k).due))) ∧
    (Sys2Proof.Machine.holdsLock d p.val = true → Sys2Proof.Machine.serves d = true → d.pwr.meas = 0 → runs (.huMeas p) (fun e => e.pwr.meas = 1 ∧ e.pwr.measV0 = now ∧
      e.pwr.measStart = d.glb.tick ∧ Sys2Proof.Machine.flag e Sys2Proof.Machine.F.PWR_STS_HU_TEST = true)) ∧
    (d.pwr.meas = 1 → d.pwr.measStart + (Sys2Proof.Machine.dcap d).meas ≤ d.glb.tick →
      (d.pwr.measV0 < now + 50 → runs .bankMeasurementSample (fun e => e = Sys2Proof.Machine.bankFails (Sys2Proof.Machine.setB Sys2Proof.Machine.F.PWR_STS_HU_TEST false d))) ∧
      (now + 50 ≤ d.pwr.measV0 → runs .bankMeasurementSample (fun e => e.pwr.meas = 2 ∧ e.pwr.measStart = d.glb.tick ∧
        e.pwr.newNum = (Sys2Proof.Machine.dcap d).iTest * (Sys2Proof.Machine.dcap d).meas ∧ e.pwr.newDen = d.pwr.measV0 - now ∧ Sys2Proof.Machine.flag e Sys2Proof.Machine.F.PWR_STS_HU_TEST = false))) ∧
    (d.pwr.meas = 2 →
      (d.pwr.measV0 ≤ now → runs .bankMeasurementEnd (fun e => e.pwr.meas = 0 ∧ e.pwr.capNum = d.pwr.newNum ∧ e.pwr.capDen = d.pwr.newDen ∧
        Sys2Proof.Safety.pending e 439 = true)) ∧
      (now < d.pwr.measV0 → d.pwr.measStart + 10 * (Sys2Proof.Machine.dcap d).meas ≤ d.glb.tick → runs .bankMeasurementEnd (fun e => e = Sys2Proof.Machine.bankFails d))) ∧
    (d.glb.base = .serving → d.glb.degraded = false → runs .refclkFailure (fun e => e.glb.base = .withdrawn)) ∧
    (d.glb.base ∈ [Sys2Proof.Machine.Base.sequencing, .loading, .recovering, .pairing] → runs .refclkFailure (fun e => e = Sys2Proof.Machine.shutdownAs false 5 d))

/-- Input loss, Spillway and OFF (R353, R354, R360-R366): a failed input and a followed PFAULT_N shut a serving device down; the phases
follow each other, the commit point with event 434; good input before the commit point pauses, and after it the flush goes on with event 437;
a paused device resumes at a superframe boundary; OFF of the lock holder stops it. -/
def Obligations.SpillwayAndOff : Prop :=
  ∀ (bank : Bool) (p : Sys2Proof.SPort) (s : Sys2Proof.Machine.State),
    let d := s.dev
    let spw := Sys2Proof.Machine.getF d Sys2Proof.Machine.F.PWR_STS_SPW
    let why := if bank then 8 else 1
    let up : Prop := d.glb.base ≠ .off ∧ d.glb.base ≠ .withdrawn ∧ d.glb.base ≠ .shutdown
    let runs (c : Sys2Proof.Instr) (E : Sys2Proof.Machine.Dev → Prop) : Prop :=
      ∃ t g, Sys2Proof.Machine.exec c s = .next t ∧ t.pending = s.pending ∧
        (t.dev = g ∨ t.dev = Sys2Proof.Machine.finish (Sys2Proof.Machine.stateByte s.dev) g) ∧ E g
    (Sys2Proof.Machine.flag d Sys2Proof.Machine.F.PWR_STS_VIN_OK = true → 2 ≤ (if bank then d.pwr.huLow else d.pwr.vinLow) →
      let y := Sys2Proof.Machine.setB Sys2Proof.Machine.F.PWR_STS_VIN_OK false d
      (up → runs (.inputFailure bank) (fun e => e = Sys2Proof.Machine.enterShutdown why (Sys2Proof.Machine.inputLost bank y) ∧ (d.glb.base = .serving → e.glb.base = .shutdown))) ∧
      (d.glb.base = .off ∨ d.glb.base = .withdrawn → runs (.inputFailure bank) (fun e => e = y))) ∧
    (Sys2Proof.Machine.flag d Sys2Proof.Machine.F.PWR_CTL_PF_FOLLOW = true → 2 ≤ d.pwr.pfLow → Sys2Proof.Machine.flag d Sys2Proof.Machine.F.PWR_STS_PF_DRV = false → up → runs .pfaultFollow (fun e =>
      e = Sys2Proof.Machine.enterShutdown 2 (Sys2Proof.Machine.raiseN 433 0 d) ∧ (d.glb.base = .serving → e.glb.base = .shutdown))) ∧
    (d.glb.base = .shutdown → Sys2Proof.Machine.flag d Sys2Proof.Machine.F.PWR_STS_PAUSED = false →
      (spw = 2 → runs .spillwayPhase (fun e => Sys2Proof.Machine.getF e Sys2Proof.Machine.F.PWR_STS_SPW = 3)) ∧
      (spw = 3 → runs .spillwayPhase (fun e => Sys2Proof.Machine.getF e Sys2Proof.Machine.F.PWR_STS_SPW = 4 ∧ Sys2Proof.Safety.Keeps [.regs, .plain] d e)) ∧
      (spw = 4 → runs .spillwayPhase (fun e => Sys2Proof.Machine.getF e Sys2Proof.Machine.F.PWR_STS_SPW = 5)) ∧
      (spw = 5 → some (Sys2Proof.Machine.ctrNow d 0) = d.grt.flushTag → runs .spillwayPhase (fun e => Sys2Proof.Machine.getF e Sys2Proof.Machine.F.PWR_STS_SPW = 6 ∧ Sys2Proof.Safety.pending e 434 = true)) ∧
      (spw = 6 → runs .spillwayPhase (fun e => e = Sys2Proof.Machine.flushEnds d)) ∧
      (d.pwr.why = 1 ∨ d.pwr.why = 8 → Sys2Proof.Machine.flag d Sys2Proof.Machine.F.PWR_STS_VIN_OK = true → d.pwr.vinBack = false →
        (1 ≤ spw → spw ≤ 4 → runs .vinReturn (fun e => e = Sys2Proof.Machine.pause d)) ∧
        (6 ≤ spw → runs .vinReturn (fun e => e.pwr.vinBack = true))) ∧
      (d.pwr.why = 2 → Sys2Proof.Machine.flag d Sys2Proof.Machine.F.PWR_STS_VIN_OK = true → Sys2Proof.Machine.flag d Sys2Proof.Machine.F.PWR_STS_PF_IN = false → 1 ≤ spw → spw ≤ 4 →
        runs .pfaultNReleased (fun e => e = Sys2Proof.Machine.pause d))) ∧
    (d.glb.base = .shutdown → Sys2Proof.Machine.flag d Sys2Proof.Machine.F.PWR_STS_PAUSED = true → Sys2Proof.Machine.sfTick d = 0 → Sys2Proof.Machine.flag d Sys2Proof.Machine.F.PWR_STS_VIN_OK = true →
        Sys2Proof.Machine.flag d Sys2Proof.Machine.F.PWR_STS_PF_IN = false → d.pwr.vinGoodSince + 2000 ≤ d.glb.tick → d.pwr.pfHighSince + 2000 ≤ d.glb.tick → Sys2Proof.Machine.pauseErased d = true →
      runs .spillwayResume (fun e => ∃ y z, z = Sys2Proof.Machine.raiseN 436 (Sys2Proof.Machine.inShutdown d) y ∧ y.pwr.flushed = [] ∧ (let w :=
          (if !Sys2Proof.Machine.alone z && decide (z.twn.hbHist = 0 ∧ z.twn.pulseHist = 0) then Sys2Proof.Machine.takeover 1 z else z)
        e = (Sys2Proof.Machine.htags w).foldl (fun d h => Sys2Proof.Machine.advance h d) w))) ∧
    (Sys2Proof.Machine.holdsLock d p.val = true →
      (d.glb.base = .serving → runs (.off p) (fun e => e.glb.base = .shutdown ∧ e.pwr.why = 7 ∧ e.pwr.offStep = 1)) ∧
      (d.glb.base ∈ [Sys2Proof.Machine.Base.loading, .recovering, .pairing] → runs (.off p) (fun e =>
        e = Sys2Proof.Machine.shutdownAs false 7 (Sys2Proof.Machine.railLog 4 0xFF (Sys2Proof.Machine.raiseN 445 0 (Sys2Proof.Machine.touch p.val d))))))

/-- The Grotto and the sensors (R373-R380, R385, R388-R390): a page write waits behind the others or is refused with event 476; the first one
starts while its rail and the energy store allow it; its programs follow each other, and failed ones are repeated, move the sector or end the
write; a worn sector moves; the margin reader goes on; PROTECT; a fault of the store cuts the running write; a failed sensor, a trip, the hold
after a trip, and the peak. -/
def Obligations.GrottoAndSensors : Prop :=
  ∀ (addr : BitVec 22) (bytes : List (BitVec 8)) (ok : Bool) (sec : Fin 48) (weak bad : List (BitVec 14)) (p : Sys2Proof.SPort) (level : BitVec 2)
      (k : Fin 24) (t22 t23 : BitVec 12) (s : Sys2Proof.Machine.State),
    let d := s.dev
    let g := d.grt
    let awake : Prop := d.glb.base ∉ [Sys2Proof.Machine.Base.off, .sequencing, .withdrawn]
    let ready : Prop := Sys2Proof.Machine.getF d (Sys2Proof.Machine.F.PWR_RAIL_STS_STATE 4) = 2 ∧ Sys2Proof.Machine.flag d Sys2Proof.Machine.F.GRT_STS_STORE_OK = true
    let runs (c : Sys2Proof.Instr) (E : Sys2Proof.Machine.Dev → Prop) : Prop :=
      ∃ t g, Sys2Proof.Machine.exec c s = .next t ∧ t.pending = s.pending ∧
        (t.dev = g ∨ t.dev = Sys2Proof.Machine.finish (Sys2Proof.Machine.stateByte s.dev) g) ∧ E g
    (Sys2Proof.Machine.grtRefuses d (addr.toNat / 0x10000) = false → runs (.pageWrite addr bytes) (fun e => e.grt.wait = g.wait ++ [{ addr := addr.toNat, bytes := bytes }] ∧
      Sys2Proof.Safety.Keeps [.grt] d e)) ∧
    (Sys2Proof.Machine.grtRefuses d (addr.toNat / 0x10000) = true → runs (.pageWrite addr bytes) (fun e => e.grt = g ∧ Sys2Proof.Machine.flag e Sys2Proof.Machine.F.GRT_ERR_PROT = true ∧
      Sys2Proof.Safety.pending e 476 = true)) ∧
    (∀ w rest, g.cur = none → g.wait = w :: rest →
      (ready → runs .pageWriteStart (fun e => e.grt.cur = some w ∧ e.grt.wait = rest ∧ e.grt.program = 1 ∧ Sys2Proof.Machine.flag e Sys2Proof.Machine.F.GRT_STS_BUSY = true ∧
        Sys2Proof.Machine.flag e Sys2Proof.Machine.F.GRT_STS_WAIT = false)) ∧
      (¬ ready → runs .pageWriteStart (fun e => e.grt = g ∧ Sys2Proof.Machine.flag e Sys2Proof.Machine.F.GRT_STS_WAIT = true))) ∧
    (∀ w, g.cur = some w →
      (ok = true → 4 ≤ g.program → runs (.physicalProgramDone ok) (fun e => e.grt.cur = none ∧ Sys2Proof.Machine.flag e Sys2Proof.Machine.F.GRT_STS_BUSY = false)) ∧
      (ok = true → g.program ≠ 2 → g.program < 4 → runs (.physicalProgramDone ok) (fun e => e.grt.program = g.program + 1 ∧ e.grt.cur = g.cur)) ∧
      (ok = false → g.retried = false → runs (.physicalProgramDone ok) (fun e => e.grt.retried = true ∧ e.grt.program = g.program)) ∧
      (ok = false → g.retried = true → Sys2Proof.Machine.bestFree g = none → runs (.physicalProgramDone ok) (fun e => e.grt.cur = none ∧
        Sys2Proof.Machine.flag e Sys2Proof.Machine.F.GRT_STS_BUSY = false ∧ Sys2Proof.Machine.flag e Sys2Proof.Machine.F.GRT_ERR_NOSPARE = true ∧ Sys2Proof.Safety.pending e 477 = true)) ∧
      runs .energyStoreFault (fun e => e.grt.cur = none ∧ e.grt.cut = some (w, decide (3 ≤ g.program)) ∧ Sys2Proof.Machine.flag e Sys2Proof.Machine.F.GRT_STS_STORE_OK = false)) ∧
    (∀ f, Sys2Proof.Machine.getF d Sys2Proof.Machine.F.GRT_ROT_WRITES ≤ g.since.get 0 sec.val → Sys2Proof.Machine.bestFree g = some f → runs (.sectorMove sec) (fun e => e = Sys2Proof.Machine.moveTo sec.val f d)) ∧
    runs (.marginRead weak bad) (fun e => e.grt.marginAt = (g.marginAt + Sys2Proof.Machine.getF d Sys2Proof.Machine.F.GRT_MARGIN_PAGES) % (50 * 256)) ∧
    (awake →
      (Sys2Proof.Machine.holdsLock d p.val = true → runs (.protect p level) (fun e => e = Sys2Proof.Machine.protect level.toNat (Sys2Proof.Machine.touch p.val d))) ∧
      runs (.thmPeakClr p) (fun e => Sys2Proof.Machine.getF e Sys2Proof.Machine.F.THM_PEAK_PEAK = Sys2Proof.Machine.bits12 d.thm.maxT % 2 ^ 12)) ∧
    (k.val ∈ d.thm.due → Sys2Proof.Machine.sensorFailed d k.val = false → runs (.sensorFailure k) (fun e => Sys2Proof.Safety.pending e 452 = true ∧
      e.thm.due = d.thm.due.filter (fun i => decide (i ≠ k.val)))) ∧
    (2 ≤ d.thm.hotRow → Sys2Proof.Machine.flag d Sys2Proof.Machine.F.THM_STS_TRIP = false → d.glb.base ≠ .off → runs .thermalTrip (fun e => ∃ y, e = Sys2Proof.Machine.tripActs y ∧
      Sys2Proof.Machine.flag y Sys2Proof.Machine.F.THM_STS_TRIP = true ∧ y.glb.base = d.glb.base)) ∧
    (d.glb.base = .sequencing → (∀ r ∈ Sys2Proof.Machine.upOrder.take 6, Sys2Proof.Machine.railState d r = 2 ∨ Sys2Proof.Machine.railState d r = 3) → d.thm.tripped = true →
        (∀ t, d.thm.heldAt = some t → t + 1000 ≤ d.glb.tick) →
      (872 ≤ t22.toInt ∨ 872 ≤ t23.toInt → runs (.thermalStartHold t22 t23) (fun e => e.thm.heldAt = some d.glb.tick ∧ e.thm.heldRaised = true ∧
        e.glb.base = .sequencing ∧ (d.thm.heldRaised = false → Sys2Proof.Safety.pending e 454 = true))) ∧
      (t22.toInt < 872 → t23.toInt < 872 → runs (.thermalStartHold t22 t23) (fun e => e.glb.base = .loading ∧ e.glb.tick = 0 ∧
        e.thm.tripped = false ∧ Sys2Proof.Machine.bootStep e = 2)))
end

