-- ==== Sys2Proof/Laws/SMap.lean ====
section
/-!
SUPPORT. Laws of sparse maps: reading after writing, and that writing keeps the canonical form.
-/
namespace Sys2Proof
namespace SMapLaws

variable {α : Type}

theorem get_insert_same (dflt : α) (m : SMap α) (k : Nat) (v : α) : SMap.get dflt (SMap.insert m k v) k = v := by
  induction m with
  | nil => simp [SMap.insert, SMap.get]
  | cons e rest ih =>
    obtain ⟨j, w⟩ := e
    simp only [SMap.insert]
    split
    · simp [SMap.get]
    · split
      · simp [SMap.get]
      · rename_i h; simp [SMap.get, h, ih]

theorem get_insert_ne (dflt : α) (m : SMap α) {k k' : Nat} (h : k' ≠ k) (v : α) :
    SMap.get dflt (SMap.insert m k v) k' = SMap.get dflt m k' := by
  induction m with
  | nil => simp [SMap.insert, SMap.get, Ne.symm h]
  | cons e rest ih =>
    obtain ⟨j, w⟩ := e
    simp only [SMap.insert]
    split
    · simp [SMap.get, Ne.symm h]
    · split
      · rename_i hj; subst hj; simp [SMap.get, Ne.symm h]
      · simp only [SMap.get, ih]

theorem get_erase_ne (dflt : α) (m : SMap α) {k k' : Nat} (h : k' ≠ k) :
    SMap.get dflt (SMap.erase m k) k' = SMap.get dflt m k' := by
  induction m with
  | nil => rfl
  | cons e rest ih =>
    obtain ⟨j, w⟩ := e
    simp only [SMap.erase]
    split
    · rename_i hj; subst hj; simp only [SMap.get, Ne.symm h, if_false, ih]
    · simp only [SMap.get, ih]

theorem get_erase_same (m : SMap α) (k : Nat) (x : α) : SMap.get x (SMap.erase m k) k = x := by
  induction m with
  | nil => rfl
  | cons e rest ih =>
    obtain ⟨j, w⟩ := e
    simp only [SMap.erase]
    split
    · exact ih
    · rename_i hj; simp only [SMap.get, hj, if_false]; exact ih

variable [DecidableEq α]

theorem wfBy_mono {dflt : Nat → α} {lo lo' : Nat} (hl : lo' ≤ lo) {m : SMap α} (h : SMap.wfBy dflt lo m = true) :
    SMap.wfBy dflt lo' m = true := by
  cases m with
  | nil => rfl
  | cons e rest =>
    obtain ⟨j, w⟩ := e
    simp only [SMap.wfBy, Bool.and_eq_true, decide_eq_true_eq] at h ⊢
    exact ⟨⟨by omega, h.1.2⟩, h.2⟩

/-- In canonical form a key below every listed key is unlisted. -/
theorem get_below {dflt : Nat → α} {lo : Nat} {m : SMap α} (h : SMap.wfBy dflt lo m = true) {k : Nat} (hk : k < lo) (x : α) :
    SMap.get x m k = x := by
  induction m generalizing lo with
  | nil => rfl
  | cons e rest ih =>
    obtain ⟨j, w⟩ := e
    simp only [SMap.wfBy, Bool.and_eq_true, decide_eq_true_eq] at h
    have : j ≠ k := by omega
    simp only [SMap.get, this, if_false]
    exact ih h.2 (by omega)

theorem wfBy_erase {dflt : Nat → α} {lo : Nat} {m : SMap α} (h : SMap.wfBy dflt lo m = true) (k : Nat) :
    SMap.wfBy dflt lo (SMap.erase m k) = true := by
  induction m generalizing lo with
  | nil => rfl
  | cons e rest ih =>
    obtain ⟨j, w⟩ := e
    simp only [SMap.wfBy, Bool.and_eq_true, decide_eq_true_eq] at h
    simp only [SMap.erase]
    split
    · exact wfBy_mono (by omega) (ih h.2)
    · simp only [SMap.wfBy, Bool.and_eq_true, decide_eq_true_eq]; exact ⟨h.1, ih h.2⟩

theorem wfBy_insert {dflt : Nat → α} {lo : Nat} {m : SMap α} (h : SMap.wfBy dflt lo m = true) {k : Nat} (hk : lo ≤ k) {v : α}
    (hv : v ≠ dflt k) : SMap.wfBy dflt lo (SMap.insert m k v) = true := by
  induction m generalizing lo with
  | nil => simp [SMap.insert, SMap.wfBy, hk, hv]
  | cons e rest ih =>
    obtain ⟨j, w⟩ := e
    simp only [SMap.wfBy, Bool.and_eq_true, decide_eq_true_eq] at h
    simp only [SMap.insert]
    split
    · rename_i hj; simp only [SMap.wfBy, Bool.and_eq_true, decide_eq_true_eq]
      exact ⟨⟨hk, by simp [hv]⟩, ⟨⟨by omega, h.1.2⟩, h.2⟩⟩
    · split
      · rename_i hj; subst hj
        simp only [SMap.wfBy, Bool.and_eq_true, decide_eq_true_eq]; exact ⟨⟨hk, by simp [hv]⟩, h.2⟩
      · rename_i h1 h2
        simp only [SMap.wfBy, Bool.and_eq_true, decide_eq_true_eq]; exact ⟨h.1, ih h.2 (by omega)⟩

/-- Writing keeps the canonical form. -/
theorem wfBy_put {dflt : Nat → α} {m : SMap α} (h : SMap.wfBy dflt 0 m = true) (k : Nat) (v : α) :
    SMap.wfBy dflt 0 (SMap.put (dflt k) m k v) = true := by
  unfold SMap.put
  split
  · exact wfBy_erase h k
  · exact wfBy_insert h (Nat.zero_le _) ‹_›

/-- A key reads as written. -/
@[simp] theorem get_put_same (dflt : α) (m : SMap α) (k : Nat) (v : α) : SMap.get dflt (SMap.put dflt m k v) k = v := by
  unfold SMap.put
  split
  · rename_i hv; rw [get_erase_same, hv]
  · exact get_insert_same _ _ _ _

@[simp] theorem get_upd_same (dflt : α) (m : SMap α) (k : Nat) (f : α → α) :
    SMap.get dflt (SMap.upd dflt m k f) k = f (SMap.get dflt m k) := get_put_same _ _ _ _

/-- A write leaves every other key. -/
@[simp] theorem get_put_ne (x dflt : α) (m : SMap α) {k k' : Nat} (h : k' ≠ k) (v : α) :
    SMap.get x (SMap.put dflt m k v) k' = SMap.get x m k' := by
  unfold SMap.put
  split
  · exact get_erase_ne x m h
  · exact get_insert_ne x m h v

@[simp] theorem get_upd_ne (x dflt : α) (m : SMap α) {k k' : Nat} (h : k' ≠ k) (f : α → α) :
    SMap.get x (SMap.upd dflt m k f) k' = SMap.get x m k' := get_put_ne _ _ _ h _

theorem wfBy_filter {dflt : Nat → α} {lo : Nat} {m : SMap α} (h : SMap.wfBy dflt lo m = true) (p : Nat × α → Bool) :
    SMap.wfBy dflt lo (m.filter p) = true := by
  induction m generalizing lo with
  | nil => rfl
  | cons e rest ih =>
    obtain ⟨j, w⟩ := e
    simp only [SMap.wfBy, Bool.and_eq_true, decide_eq_true_eq] at h
    simp only [List.filter]
    split
    · simp only [SMap.wfBy, Bool.and_eq_true, decide_eq_true_eq]; exact ⟨h.1, ih h.2⟩
    · exact wfBy_mono (by omega) (ih h.2)

/-- Writing keeps the canonical form of a map with one unlisted value. -/
theorem wf_put {dflt : α} {m : SMap α} (h : SMap.wf dflt m = true) (k : Nat) (v : α) : SMap.wf dflt (SMap.put dflt m k v) = true :=
  wfBy_put (dflt := fun _ => dflt) h k v

end SMapLaws
end Sys2Proof
end

