-- ==== Sys2Proof/Laws/Keeps.lean ====
section
/-!
SUPPORT. The rules of `Safety.Keeps`: reflexivity, transitivity, and one rule for each way a definition puts effects together.
-/
namespace Sys2Proof.Safety.Keeps
open Sys2Proof.Machine Sys2Proof.Safety

variable {M N : List Part} {d d0 e x : Dev}

/-- `A` lists only parts that `B` lists. -/
abbrev sub (A B : List Part) : Bool := A.all fun p => decide (p ∈ B)

theorem refl (M : List Part) (d : Dev) : Keeps M d d := fun p _ => by cases p <;> first | rfl | exact id | exact fun _ _ => rfl

theorem same_trans (p : Part) {a b c : Dev} (h : p.same a b) (k : p.same b c) : p.same a c := by
  cases p <;> first | exact Eq.trans k h | exact fun x => k (h x) | exact fun a ha => (k a ha).trans (h a ha)

theorem trans (h : Keeps M d0 d) (k : Keeps M d e) : Keeps M d0 e := fun p hp => same_trans p (h p hp) (k p hp)

theorem mono (hs : sub N M = true) (h : Keeps N d e) : Keeps M d e := fun p hp =>
  h p fun hn => hp (of_decide_eq_true (List.all_eq_true.mp hs p hn))

/-- One more effect, which changes only parts in `N`. -/
theorem step (hg : Keeps N d e) (hs : sub N M = true) (h : Keeps M d0 d) : Keeps M d0 e := h.trans (hg.mono hs)

theorem upd (h : Keeps M d0 x) (hs : ∀ p, p ∉ M → p.same x e) : Keeps M d0 e := h.trans hs

theorem ite {c : Prop} [Decidable c] {a b : Dev} (ha : Keeps M d0 a) (hb : Keeps M d0 b) :
    Keeps M d0 (if c then a else b) := by split <;> assumption

theorem ite1 {β : Type} {c : Prop} [Decidable c] {a b : Dev × β} (ha : Keeps M d0 a.1) (hb : Keeps M d0 b.1) :
    Keeps M d0 (if c then a else b).1 := by split <;> assumption

theorem ite2 {β : Type} {c : Prop} [Decidable c] {a b : β × Dev} (ha : Keeps M d0 a.2) (hb : Keeps M d0 b.2) :
    Keeps M d0 (if c then a else b).2 := by split <;> assumption

theorem of_fst {β : Type} {q : Dev × β} {a : Dev} {b : β} (he : q = (a, b)) (h : Keeps M d0 q.1) : Keeps M d0 a := by
  subst he; exact h

theorem of_snd {β : Type} {q : β × Dev} {a : β} {b : Dev} (he : q = (a, b)) (h : Keeps M d0 q.2) : Keeps M d0 b := by
  subst he; exact h

theorem fst_mk {β : Type} {a : Dev} {b : β} (h : Keeps M d0 a) : Keeps M d0 (a, b).1 := h

theorem snd_mk {β : Type} {a : β} {b : Dev} (h : Keeps M d0 b) : Keeps M d0 (a, b).2 := h

theorem foldl_snd {α β : Type} {g : β × Dev → α → β × Dev} {l : List α} {q : β × Dev} (h : Keeps M d0 q.2)
    (hg : ∀ x a, Keeps M d0 x.2 → Keeps M d0 (g x a).2) : Keeps M d0 (l.foldl g q).2 := by
  induction l generalizing q with
  | nil => exact h
  | cons a l ih => exact ih (hg q a h)

theorem whenD {b : Bool} {f : Dev → Dev} (h : Keeps M d0 d) (hf : ∀ x, Keeps M d0 x → Keeps M d0 (f x)) :
    Keeps M d0 (Machine.whenD b f d) := by
  unfold Machine.whenD; split
  · exact hf d h
  · exact h

theorem foldl {α : Type} {g : Dev → α → Dev} {l : List α} (h : Keeps M d0 d)
    (hg : ∀ x a, Keeps M d0 x → Keeps M d0 (g x a)) : Keeps M d0 (l.foldl g d) := by
  induction l generalizing d with
  | nil => exact h
  | cons a l ih => exact ih (hg d a h)

theorem forEach {α : Type} {g : α → Dev → Dev} {l : List α} (h : Keeps M d0 d)
    (hg : ∀ a x, Keeps M d0 x → Keeps M d0 (g a x)) : Keeps M d0 (Machine.forEach l g d) :=
  foldl (g := fun s a => g a s) h fun x a hx => hg a x hx

/-- A change of the GLB part that keeps the base state and GLB_TICK. -/
theorem set_glb {g : Glb} (hm : sub [.glb] M = true) (hb : g.base = x.glb.base ∧ g.tick = x.glb.tick) (h : Keeps M d0 x) :
    Keeps M d0 { x with glb := g } :=
  step (N := [.glb]) (fun p hp => by
    cases p <;> first | rfl | exact fun _ _ => rfl | exact hb.1 | exact hb.2 | exact id | exact (hp (by decide)).elim | exact fun k => hb.1.trans k) hm h

theorem set_glbB {g : Glb} (hm : sub [.glb, .base, .stay] M = true) (hb : g.tick = x.glb.tick) (h : Keeps M d0 x) :
    Keeps M d0 { x with glb := g } :=
  step (N := [.glb, .base, .stay]) (fun p hp => by
    cases p <;> first | rfl | exact fun _ _ => rfl | exact hb | exact id | exact (hp (by decide)).elim) hm h

theorem set_glbT {g : Glb} (hm : sub [.glb, .tick] M = true) (hb : g.base = x.glb.base) (h : Keeps M d0 x) :
    Keeps M d0 { x with glb := g } :=
  step (N := [.glb, .tick]) (fun p hp => by
    cases p <;> first | rfl | exact fun _ _ => rfl | exact hb | exact id | exact (hp (by decide)).elim | exact fun k => hb.trans k) hm h

theorem glb {f : Glb → Glb} (hm : sub [.glb] M = true) (hb : ∀ g, (f g).base = g.base ∧ (f g).tick = g.tick)
    (h : Keeps M d0 d) : Keeps M d0 (onGlb f d) := set_glb hm (hb _) h

theorem glbB {f : Glb → Glb} (hm : sub [.glb, .base, .stay] M = true) (hb : ∀ g, (f g).tick = g.tick)
    (h : Keeps M d0 d) : Keeps M d0 (onGlb f d) := set_glbB hm (hb _) h

theorem glbT {f : Glb → Glb} (hm : sub [.glb, .tick] M = true) (hb : ∀ g, (f g).base = g.base)
    (h : Keeps M d0 d) : Keeps M d0 (onGlb f d) := set_glbT hm (hb _) h

/-- What keeps all but perhaps Withdrawn, and keeps Withdrawn. -/
theorem noStay (h : Keeps N d e) (hs : sub N (.stay :: M) = true) (hk : d.glb.base = .withdrawn → e.glb.base = .withdrawn) :
    Keeps M d e := fun p hp => by
  by_cases hp' : p = .stay
  · subst hp'; exact hk
  · exact h p fun hn => by
      have := of_decide_eq_true (List.all_eq_true.mp hs p hn)
      rcases List.mem_cons.mp this with h1 | h1
      · exact hp' h1
      · exact hp h1

theorem set_regs {v : SMap Word} (hm : sub [.regs, .plain] M = true) (hv : regsWf x → SMap.wfBy resetOf 0 v = true)
    (h : Keeps M d0 x) : Keeps M d0 { x with regs := v } :=
  step (N := [.regs, .plain]) (fun p hp => by cases p <;> first | rfl | exact id | exact hv | exact (hp (by decide)).elim) hm h

theorem set_svc {v : Svc} (hm : sub [.svc] M = true) (h : Keeps M d0 x) : Keeps M d0 { x with svc := v } :=
  step (N := [.svc]) (fun p hp => by cases p <;> first | rfl | exact id | exact fun _ _ => rfl | exact (hp (by decide)).elim) hm h

theorem set_sch {v : Sch} (hm : sub [.sch] M = true) (h : Keeps M d0 x) : Keeps M d0 { x with sch := v } :=
  step (N := [.sch]) (fun p hp => by cases p <;> first | rfl | exact id | exact fun _ _ => rfl | exact (hp (by decide)).elim) hm h

theorem set_fab {v : SMap LinkSt} (hm : sub [.fab] M = true) (h : Keeps M d0 x) : Keeps M d0 { x with fab := v } :=
  step (N := [.fab]) (fun p hp => by cases p <;> first | rfl | exact id | exact fun _ _ => rfl | exact (hp (by decide)).elim) hm h

theorem set_bsn {v : Bsn} (hm : sub [.bsn] M = true) (h : Keeps M d0 x) : Keeps M d0 { x with bsn := v } :=
  step (N := [.bsn]) (fun p hp => by cases p <;> first | rfl | exact id | exact fun _ _ => rfl | exact (hp (by decide)).elim) hm h

theorem set_ntr {v : Ntr} (hm : sub [.ntr] M = true) (h : Keeps M d0 x) : Keeps M d0 { x with ntr := v } :=
  step (N := [.ntr]) (fun p hp => by cases p <;> first | rfl | exact id | exact fun _ _ => rfl | exact (hp (by decide)).elim) hm h

theorem set_med {v : Med} (hm : sub [.med] M = true) (h : Keeps M d0 x) : Keeps M d0 { x with med := v } :=
  step (N := [.med]) (fun p hp => by cases p <;> first | rfl | exact id | exact fun _ _ => rfl | exact (hp (by decide)).elim) hm h

theorem set_xlt {v : Xlt} (hm : sub [.xlt] M = true) (h : Keeps M d0 x) : Keeps M d0 { x with xlt := v } :=
  step (N := [.xlt]) (fun p hp => by cases p <;> first | rfl | exact id | exact fun _ _ => rfl | exact (hp (by decide)).elim) hm h

theorem set_slu {v : Slu} (hm : sub [.slu] M = true) (h : Keeps M d0 x) : Keeps M d0 { x with slu := v } :=
  step (N := [.slu]) (fun p hp => by cases p <;> first | rfl | exact id | exact fun _ _ => rfl | exact (hp (by decide)).elim) hm h

theorem set_twn {v : Twn} (hm : sub [.twn] M = true) (h : Keeps M d0 x) : Keeps M d0 { x with twn := v } :=
  step (N := [.twn]) (fun p hp => by cases p <;> first | rfl | exact id | exact fun _ _ => rfl | exact (hp (by decide)).elim) hm h

theorem set_pwr {v : Pwr} (hm : sub [.pwr] M = true) (h : Keeps M d0 x) : Keeps M d0 { x with pwr := v } :=
  step (N := [.pwr]) (fun p hp => by cases p <;> first | rfl | exact id | exact fun _ _ => rfl | exact (hp (by decide)).elim) hm h

theorem set_grt {v : Grt} (hm : sub [.grt] M = true) (h : Keeps M d0 x) : Keeps M d0 { x with grt := v } :=
  step (N := [.grt]) (fun p hp => by cases p <;> first | rfl | exact id | exact fun _ _ => rfl | exact (hp (by decide)).elim) hm h

theorem set_thm {v : Thm} (hm : sub [.thm] M = true) (h : Keeps M d0 x) : Keeps M d0 { x with thm := v } :=
  step (N := [.thm]) (fun p hp => by cases p <;> first | rfl | exact id | exact fun _ _ => rfl | exact (hp (by decide)).elim) hm h

theorem set_obs {v : Obs} (hm : sub [.obs] M = true) (h : Keeps M d0 x) : Keeps M d0 { x with obs := v } :=
  step (N := [.obs]) (fun p hp => by cases p <;> first | rfl | exact id | exact fun _ _ => rfl | exact (hp (by decide)).elim) hm h

theorem set_spr {v : Spr} (hm : sub [.spr] M = true) (h : Keeps M d0 x) : Keeps M d0 { x with spr := v } :=
  step (N := [.spr]) (fun p hp => by cases p <;> first | rfl | exact id | exact fun _ _ => rfl | exact (hp (by decide)).elim) hm h

theorem set_free {v : Nat} (hm : sub [.free] M = true) (h : Keeps M d0 x) : Keeps M d0 { x with free := v } :=
  step (N := [.free]) (fun p hp => by cases p <;> first | rfl | exact id | exact fun _ _ => rfl | exact (hp (by decide)).elim) hm h

/-- A write of a register that only raising events changes. -/
theorem set_event {a : Nat} {v : Word} (he : eventReg a = true) (d : Dev) : Keeps [.regs] d (regSet a v d) := fun p hp => by
  cases p <;> first
    | rfl | exact id | exact (hp (by decide)).elim
    | exact fun b hb => SMapLaws.get_put_ne _ _ _ (by rintro rfl; rw [he] at hb; cases hb) _
    | exact fun h => SMapLaws.wfBy_put h _ _

end Sys2Proof.Safety.Keeps
end

