-- ==== Sys2Proof/Laws/FrameViews.lean ====
section
/-!
SUPPORT. What each definition of Machine/Views.lean leaves alone: one lemma per definition, cited and not unfolded.
-/
namespace Sys2Proof.Machine
open Sys2Proof Sys2Proof.Safety.Keeps

theorem regSet_keeps (a0 a1 d) : Safety.Keeps [.regs, .plain] d (regSet a0 a1 d) :=
  .set_regs rfl (fun h => SMapLaws.wfBy_put h _ _) (.refl _ _)

theorem setF_keeps (a0 a1 d) : Safety.Keeps [.regs, .plain] d (setF a0 a1 d) := by
  unfold setF
  exact (.step (regSet_keeps _ _ _) rfl (.refl _ _))

theorem setB_keeps (a0 a1 d) : Safety.Keeps [.regs, .plain] d (setB a0 a1 d) := by
  unfold setB
  exact (.step (setF_keeps _ _ _) rfl (.refl _ _))

theorem addSat_keeps (a0 a1 d) : Safety.Keeps [.regs, .plain] d (addSat a0 a1 d) := by
  unfold addSat
  exact (.step (setF_keeps _ _ _) rfl (.refl _ _))

theorem onPort_keeps (a0 a1 d) : Safety.Keeps [.svc] d (onPort a0 a1 d) := by
  unfold onPort
  exact (.ite (.set_svc rfl (.refl _ _)) (.set_svc rfl (.refl _ _)))

theorem onLink_keeps (a0 a1 d) : Safety.Keeps [.fab] d (onLink a0 a1 d) := by
  unfold onLink
  exact (.set_fab rfl (.refl _ _))

theorem setPair_keeps (a0 a1 a2 d) : Safety.Keeps [.regs, .plain] d (setPair a0 a1 a2 d) := by
  unfold setPair
  exact (.step (setF_keeps _ _ _) rfl (.step (setF_keeps _ _ _) rfl (.refl _ _)))

theorem onRunnel_keeps (a0 a1 d) : Safety.Keeps [.sch] d (onRunnel a0 a1 d) := by
  unfold onRunnel
  exact (.set_sch rfl (.refl _ _))

end Sys2Proof.Machine
end

