-- ==== Sys2Proof/Laws/FrameOps.lean ====
section
/-!
SUPPORT. What each definition of Machine/Ops.lean leaves alone: one lemma per definition, cited and not unfolded.
-/
namespace Sys2Proof.Machine
open Sys2Proof Sys2Proof.Safety.Keeps

theorem addSat_event {f : Fld} (h : Safety.eventReg f.addr = true) (n d) : Safety.Keeps [.regs] d (addSat f n d) :=
  set_event h d

theorem eventReg_pend (n : Nat) : Safety.eventReg (0x200100 + 4 * (n % 512 / 32)) = true := by
  unfold Safety.eventReg
  rw [Bool.or_eq_true, Bool.and_eq_true, decide_eq_true_eq, decide_eq_true_eq]
  omega

theorem pendEvent_keeps (a0 d) : Safety.Keeps [.regs] d (pendEvent a0 d) := set_event (eventReg_pend a0) d

theorem bump_keeps (a0 d) : Safety.Keeps [.obs] d (bump a0 d) := by
  unfold bump
  exact (.set_obs rfl (.refl _ _))

theorem ledPut_keeps (a0 a1 a2 d) : Safety.Keeps [.regs, .obs] d (ledPut a0 a1 a2 d).1 := by
  unfold ledPut
  extract_lets +onlyGivenNames -underBinder -merge v1
  extract_lets +onlyGivenNames -underBinder -merge v2
  extract_lets +onlyGivenNames -underBinder -merge v3
  refine .ite1 ?_ ?_
  · try dsimp -zeta -iota -proj only [v3]
    exact (.fst_mk (.step (bump_keeps _ _) rfl (.set_obs rfl (.refl _ _))))
  · refine .ite1 ?_ ?_
    · try dsimp -zeta -iota -proj only [v3]
      exact (.fst_mk (.step (bump_keeps _ _) rfl (.set_obs rfl (.refl _ _))))
    · exact (.fst_mk (.step (bump_keeps _ _) rfl (.step (addSat_event rfl _ _) rfl (.refl _ _))))

theorem ledFlood_keeps (a0 a1 d) : Safety.Keeps [.regs, .obs] d (ledFlood a0 a1 d).1 := by
  unfold ledFlood
  extract_lets +onlyGivenNames -underBinder -merge v1
  refine .ite1 ?_ ?_
  · extract_lets +onlyGivenNames -underBinder -merge v2
    extract_lets +onlyGivenNames -underBinder -merge v3
    have h3 : Safety.Keeps [.regs, .obs] d v3 := (.set_obs rfl (.refl _ _))
    extract_lets +onlyGivenNames -underBinder -merge v4
    exact (.fst_mk (.step (ledPut_keeps _ _ _ _) rfl h3))
  · extract_lets +onlyGivenNames -underBinder -merge v5
    exact (.fst_mk (.step (bump_keeps _ _) rfl (.step (addSat_event rfl _ _) rfl (.set_obs rfl (.refl _ _)))))

theorem rillPut_keeps (a0 a1 a2 a3 a4 d) : Safety.Keeps [.svc] d (rillPut a0 a1 a2 a3 a4 d).1 := by
  unfold rillPut
  extract_lets +onlyGivenNames -underBinder -merge v1
  refine .ite1 ?_ ?_
  · exact (.fst_mk (.step (onPort_keeps _ _ _) rfl (.refl _ _)))
  · extract_lets +onlyGivenNames -underBinder -merge v2
    extract_lets +onlyGivenNames -underBinder -merge v3
    exact (.fst_mk (.step (onPort_keeps _ _ _) rfl (.refl _ _)))

theorem stamp_keeps (a0 a1 d) : Safety.Keeps [.obs] d (stamp a0 a1 d) := by
  unfold stamp
  split
  · exact (.refl _ _)
  · exact (.set_obs rfl (.refl _ _))

theorem ringPut_keeps (a0 d) : Safety.Keeps [.regs, .obs] d (ringPut a0 d).1 := by
  unfold ringPut
  split
  · exact (.fst_mk (.refl _ _))
  · extract_lets +onlyGivenNames -underBinder -merge v3
    extract_lets +onlyGivenNames -underBinder -merge v4
    extract_lets +onlyGivenNames -underBinder -merge v5
    extract_lets +onlyGivenNames -underBinder -merge v6
    have h6 : Safety.Keeps [.regs, .obs] d v6 := (.set_obs rfl (.refl _ _))
    exact (.fst_mk (.ite (.step (addSat_event rfl _ _) rfl h6) h6))

theorem leaveHook_keeps (a0 d) : Safety.Keeps [.regs, .obs] d (leaveHook a0 d).1 := by
  unfold leaveHook
  split
  · exact (.ite1 (.fst_mk (.step (stamp_keeps _ _ _) rfl (.refl _ _))) (.fst_mk (.refl _ _)))
  · refine .ite1 ?_ ?_
    · split
      · exact (.fst_mk (.refl _ _))
      · exact (.step (ringPut_keeps _ _) rfl (.step (stamp_keeps _ _ _) rfl (.refl _ _)))
    · exact (.fst_mk (.refl _ _))
  · exact (.fst_mk (.refl _ _))

theorem emit_keeps (a0 a1 d) : Safety.Keeps [.regs, .fab, .obs] d (emit a0 a1 d).1 := by
  unfold emit
  exact (.step (leaveHook_keeps _ _) rfl (.step (onLink_keeps _ _ _) rfl (.refl _ _)))

theorem pumpOne_keeps (a0 d) {r} (h : pumpOne a0 d = some r) : Safety.Keeps [.regs, .svc, .fab, .obs] d r.1 := by
  unfold pumpOne at h
  extract_lets +onlyGivenNames -underBinder -merge v1 at h
  split at h
  · cases h
  · split at h
    · cases h; exact (.step (emit_keeps _ _ _) rfl (.step (onLink_keeps _ _ _) rfl (.refl _ _)))
    · split at h
      · cases h
      · split at h
        · cases h
        · cases h; exact (.step (emit_keeps _ _ _) rfl (.set_svc rfl (.refl _ _)))

theorem pumpN_keeps (a0 a1 d) : Safety.Keeps [.regs, .svc, .fab, .obs] d (pumpN a0 a1 d).1 := by
  induction a0 generalizing d with
  | zero => exact .refl _ _
  | succ n ih =>
    unfold pumpN
    split
    · exact .refl _ _
    · rename_i e o he
      exact (.step (ih e) rfl (.step (pumpOne_keeps _ _ he) rfl (.refl _ _)))

theorem pumpQuiet_keeps (a0 d) : Safety.Keeps [.regs, .svc, .fab, .obs] d (pumpQuiet a0 d).1 := by
  unfold pumpQuiet
  exact (.step (pumpN_keeps _ _ _) rfl (.refl _ _))

theorem evtQueue_keeps (a0 a1 d) : Safety.Keeps [.regs, .svc] d (evtQueue a0 a1 d) := by
  unfold evtQueue
  extract_lets +onlyGivenNames -underBinder -merge v1
  exact (.ite (.set_svc rfl (.refl _ _)) (.step (addSat_event rfl _ _) rfl (.refl _ _)))

theorem routeEvt_keeps (a0 a1 a2 d) : Safety.Keeps [.regs, .svc, .fab, .obs] d (routeEvt a0 a1 a2 d).1 := by
  unfold routeEvt
  extract_lets +onlyGivenNames -underBinder -merge v1
  split
  · rename_i y2 y3 e4
    have h4 : Safety.Keeps [.regs, .svc, .fab, .obs] d y2 := .of_fst e4 ((.ite1 (.step (rillPut_keeps _ _ _ _ _ _) rfl (.refl _ _)) (.fst_mk (.refl _ _))))
    split
    · rename_i y5 y6 e7
      have h7 : Safety.Keeps [.regs, .svc, .fab, .obs] d y5 := .of_fst e7 ((.ite1 (.step (rillPut_keeps _ _ _ _ _ _) rfl h4) (.fst_mk h4)))
      extract_lets +onlyGivenNames -underBinder -merge v8
      extract_lets +onlyGivenNames -underBinder -merge v9
      extract_lets +onlyGivenNames -underBinder -merge v10
      have h10 : Safety.Keeps [.regs, .svc, .fab, .obs] d v10 := (.forEach h7 fun _ x11 h11 => (.forEach h11 fun _ x12 h12 => (.step (pumpQuiet_keeps _ _) rfl (.step (evtQueue_keeps _ _ _) rfl h12))))
      exact (.fst_mk h10)

theorem raiseCore_keeps (a0 a1 a2 d) : Safety.Keeps [.regs, .glb, .svc, .fab, .obs] d (raiseCore a0 a1 a2 d).1 := by
  unfold raiseCore
  extract_lets +onlyGivenNames -underBinder -merge v1
  have h1 : Safety.Keeps [.regs, .glb, .svc, .fab, .obs] d v1 := (.step (pendEvent_keeps _ _) rfl (.refl _ _))
  extract_lets +onlyGivenNames -underBinder -merge v2
  extract_lets +onlyGivenNames -underBinder -merge v3
  split
  · rename_i y4 y5 y6 e7
    have h7 : Safety.Keeps [.regs, .glb, .svc, .fab, .obs] d y4 := .of_fst e7 ((.step (ledFlood_keeps _ _ _) rfl h1))
    extract_lets +onlyGivenNames -underBinder -merge v8
    extract_lets +onlyGivenNames -underBinder -merge v9
    have h9 : Safety.Keeps [.regs, .glb, .svc, .fab, .obs] d v9 := (.ite (.set_obs rfl h7) h7)
    refine .ite1 ?_ ?_
    · exact (.fst_mk h9)
    · refine .ite1 ?_ ?_
      · exact (.fst_mk (.set_glb rfl ⟨rfl, rfl⟩ h9))
      · split
        · rename_i y10 y11 y12 e13
          have h13 : Safety.Keeps [.regs, .glb, .svc, .fab, .obs] d y10 := .of_fst e13 ((.step (routeEvt_keeps _ _ _ _) rfl h9))
          exact (.fst_mk h13)

theorem markSf_keeps (a0 d) : Safety.Keeps [.glb] d (markSf a0 d) := by
  unfold markSf
  exact (.set_glb rfl ⟨rfl, rfl⟩ (.refl _ _))

theorem raiseBy_keeps (a0 a1 a2 d) : Safety.Keeps [.regs, .glb, .svc, .fab, .obs] d (raiseBy a0 a1 a2 d) := by
  unfold raiseBy
  extract_lets +onlyGivenNames -underBinder -merge v1
  split
  · rename_i y2 y3 y4 y5 e6
    have h6 : Safety.Keeps [.regs, .glb, .svc, .fab, .obs] d y2 := .of_fst e6 ((.step (raiseCore_keeps _ _ _ _) rfl (.refl _ _)))
    extract_lets +onlyGivenNames -underBinder -merge v7
    extract_lets +onlyGivenNames -underBinder -merge v8
    have h8 : Safety.Keeps [.regs, .glb, .svc, .fab, .obs] d v8 := by
        dsimp -zeta -iota -proj only [v8]
        try dsimp -zeta -iota -proj only [v7]
        exact (.ite (.step (raiseCore_keeps _ _ _ _) rfl (.step (markSf_keeps _ _) rfl h6)) h6)
    extract_lets +onlyGivenNames -underBinder -merge v9
    have h9 : Safety.Keeps [.regs, .glb, .svc, .fab, .obs] d v9 := by
        dsimp -zeta -iota -proj only [v9]
        try dsimp -zeta -iota -proj only [v7]
        exact (.ite (.step (raiseCore_keeps _ _ _ _) rfl (.step (markSf_keeps _ _) rfl h8)) h8)
    extract_lets +onlyGivenNames -underBinder -merge v10
    have h10 : Safety.Keeps [.regs, .glb, .svc, .fab, .obs] d v10 := by
        dsimp -zeta -iota -proj only [v10]
        try dsimp -zeta -iota -proj only [v7]
        exact (.ite (.step (raiseCore_keeps _ _ _ _) rfl (.step (markSf_keeps _ _) rfl h9)) h9)
    extract_lets +onlyGivenNames -underBinder -merge v11
    try dsimp -zeta -iota -proj only [v7]
    exact (.ite (.step (raiseCore_keeps _ _ _ _) rfl (.step (markSf_keeps _ _) rfl h10)) h10)

theorem raise_keeps (a0 a1 d) : Safety.Keeps [.regs, .glb, .svc, .fab, .obs] d (raise a0 a1 d) := by
  unfold raise
  exact (.step (raiseBy_keeps _ _ _ _) rfl (.refl _ _))

theorem raiseN_keeps (a0 a1 d) : Safety.Keeps [.regs, .glb, .svc, .fab, .obs] d (raiseN a0 a1 d) := by
  unfold raiseN
  exact (.step (raise_keeps _ _ _) rfl (.refl _ _))

theorem flushOne_keeps (a0 d) : Safety.Keeps [.fab] d (flushOne a0 d) := by
  unfold flushOne
  extract_lets +onlyGivenNames -underBinder -merge v1
  exact (.ite (.refl _ _) (.ite (.ite (.step (onLink_keeps _ _ _) rfl (.refl _ _)) (.refl _ _)) (.ite (.step (onLink_keeps _ _ _) rfl (.refl _ _)) (.refl _ _))))

theorem flushLink_keeps (a0 d) : Safety.Keeps [.fab] d (flushLink a0 d) := by
  unfold flushLink
  exact (.step (flushOne_keeps _ _) rfl (.step (flushOne_keeps _ _) rfl (.refl _ _)))

theorem raiseOnce_keeps (a0 a1 a2 d) : Safety.Keeps [.regs, .glb, .svc, .fab, .obs] d (raiseOnce a0 a1 a2 d) := by
  unfold raiseOnce
  exact (.ite (.refl _ _) (.step (raiseN_keeps _ _ _) rfl (.step (markSf_keeps _ _) rfl (.refl _ _))))

theorem pump_keeps (a0 d) : Safety.Keeps [.regs, .glb, .svc, .fab, .obs] d (pump a0 d) := by
  unfold pump
  split
  · rename_i y1 y2 e3
    have h3 : Safety.Keeps [.regs, .glb, .svc, .fab, .obs] d y1 := .of_fst e3 ((.step (pumpQuiet_keeps _ _) rfl (.refl _ _)))
    exact (.ite (.step (raiseOnce_keeps _ _ _ _) rfl h3) h3)

theorem noteSeq_keeps (a0 d) : Safety.Keeps [.bsn, .twn] d (noteSeq a0 d) := by
  unfold noteSeq
  extract_lets +onlyGivenNames -underBinder -merge v1
  extract_lets +onlyGivenNames -underBinder -merge v2
  extract_lets +onlyGivenNames -underBinder -merge v3
  have h3 : Safety.Keeps [.bsn, .twn] d v3 := (.set_twn rfl (.refl _ _))
  exact (.ite h3 (.set_bsn rfl h3))

theorem count_keeps (a0 d) : Safety.Keeps [.regs, .glb, .svc, .fab, .obs] d (count a0 d) := by
  unfold count
  extract_lets +onlyGivenNames -underBinder -merge v1
  extract_lets +onlyGivenNames -underBinder -merge v2
  have h2 : Safety.Keeps [.regs, .glb, .svc, .fab, .obs] d v2 := (.step (bump_keeps _ _) rfl (.refl _ _))
  exact (.ite (.step (raiseOnce_keeps _ _ _ _) rfl h2) h2)

theorem mirPumpN_keeps (a0 d) : Safety.Keeps [.regs, .glb, .svc, .fab, .bsn, .twn, .obs] d (mirPumpN a0 d) := by
  induction a0 generalizing d with
  | zero => exact .refl _ _
  | succ n ih =>
    unfold mirPumpN
    refine .ite (.refl _ _) ?_
    split
    · exact .refl _ _
    · exact (.step (ih _) rfl (.step (noteSeq_keeps _ _) rfl (.whenD (.step (onLink_keeps _ _ _) rfl (.refl _ _)) fun _ h =>
        (.step (count_keeps _ _) rfl h))))

theorem mirPump_keeps (d) : Safety.Keeps [.regs, .glb, .svc, .fab, .bsn, .twn, .obs] d (mirPump d) := by
  unfold mirPump
  exact (.step (mirPumpN_keeps _ _) rfl (.refl _ _))

theorem mirSendFor_keeps (a0 a1 d) : Safety.Keeps [.regs, .glb, .svc, .fab, .bsn, .twn, .obs] d (mirSendFor a0 a1 d) := by
  unfold mirSendFor
  exact (.step (mirPump_keeps _) rfl (.step (onLink_keeps _ _ _) rfl (.refl _ _)))

theorem mirSend_keeps (a0 d) : Safety.Keeps [.regs, .glb, .svc, .fab, .bsn, .twn, .obs] d (mirSend a0 d) := by
  unfold mirSend
  exact (.step (mirSendFor_keeps _ _ _) rfl (.refl _ _))

theorem drawFree_keeps (d) : Safety.Keeps [.free] d (drawFree d).2 := by
  unfold drawFree
  exact (.snd_mk (.set_free rfl (.refl _ _)))

theorem ledDetail_keeps (a0 a1 a2 d) : Safety.Keeps [.regs, .glb, .svc, .fab, .obs] d (ledDetail a0 a1 a2 d) := by
  unfold ledDetail
  split
  · rename_i y1 y2 y3 e4
    have h4 : Safety.Keeps [.regs, .glb, .svc, .fab, .obs] d y1 := .of_fst e4 ((.step (ledFlood_keeps _ _ _) rfl (.refl _ _)))
    split
    · rename_i y5 y6 e7
      have h7 : Safety.Keeps [.regs, .glb, .svc, .fab, .obs] d y5 := .of_fst e7 (by
          refine .ite1 ?_ ?_
          · extract_lets +onlyGivenNames -underBinder -merge v8
            exact (.fst_mk (.step (ledPut_keeps _ _ _ _) rfl h4))
          · exact (.fst_mk h4))
      exact (.ite (.step (raiseOnce_keeps _ _ _ _) rfl h7) h7)

theorem sendLcf_keeps (a0 a1 d) : Safety.Keeps [.regs, .glb, .svc, .fab, .obs] d (sendLcf a0 a1 d) := by
  unfold sendLcf
  exact (.step (pump_keeps _ _) rfl (.step (onLink_keeps _ _ _) rfl (.refl _ _)))

theorem dropTag_keeps (a0 d) : Safety.Keeps [.obs] d (dropTag a0 d) := by
  unfold dropTag
  split
  · exact (.refl _ _)
  · exact (.set_obs rfl (.refl _ _))

theorem evtQueueFirst_keeps (a0 a1 d) : Safety.Keeps [.svc] d (evtQueueFirst a0 a1 d) := by
  unfold evtQueueFirst
  extract_lets +onlyGivenNames -underBinder -merge v1
  extract_lets +onlyGivenNames -underBinder -merge v2
  exact (.set_svc rfl (.refl _ _))

theorem portSay_keeps (a0 a1 d) : Safety.Keeps [.svc] d (portSay a0 a1 d) := by
  unfold portSay
  exact (.step (onPort_keeps _ _ _) rfl (.refl _ _))

theorem answer_keeps (a0 a1 a2 a3 a4 a5 d) : Safety.Keeps [.svc] d (answer a0 a1 a2 a3 a4 a5 d) := by
  unfold answer
  exact (.step (portSay_keeps _ _ _) rfl (.refl _ _))

theorem touch_keeps (a0 d) : Safety.Keeps [.svc] d (touch a0 d) := by
  unfold touch
  exact (.ite (.set_svc rfl (.refl _ _)) (.refl _ _))

theorem raiseFree_keeps (a0 d) : Safety.Keeps [.regs, .glb, .svc, .fab, .obs, .free] d (raiseFree a0 d) := by
  unfold raiseFree
  extract_lets +onlyGivenNames -underBinder -merge v1
  exact (.step (raise_keeps _ _ _) rfl (.step (drawFree_keeps _) rfl (.refl _ _)))

theorem countN_keeps (a0 a1 d) : Safety.Keeps [.regs, .glb, .svc, .fab, .obs] d (countN a0 a1 d) := by
  unfold countN
  extract_lets +onlyGivenNames -underBinder -merge v1
  extract_lets +onlyGivenNames -underBinder -merge v2
  extract_lets +onlyGivenNames -underBinder -merge v3
  have h3 : Safety.Keeps [.regs, .glb, .svc, .fab, .obs] d v3 := (.set_obs rfl (.refl _ _))
  exact (.ite (.step (raiseOnce_keeps _ _ _ _) rfl h3) h3)

theorem finish_keeps (a0 d) : Safety.Keeps [.regs, .glb, .svc, .fab, .obs] d (finish a0 d) := by
  unfold finish
  exact (.ite (.refl _ _) (.step (raiseN_keeps _ _ _) rfl (.refl _ _)))

theorem tellAgents_keeps (a0 a1 d) : Safety.Keeps [.regs, .glb, .svc, .fab, .obs] d (tellAgents a0 a1 d) := by
  unfold tellAgents
  exact (.forEach (.refl _ _) fun _ x1 h1 => (.forEach h1 fun _ x2 h2 => (.step (pump_keeps _ _) rfl (.step (evtQueueFirst_keeps _ _ _) rfl h2))))

end Sys2Proof.Machine
end

