-- ==== Sys2Proof/Laws/Regs.lean ====
section
/-!
SUPPORT. The register file: what a field reads after a write of the same field, of another field, of another register.
-/
namespace Sys2Proof.Machine
open Sys2Proof.SMapLaws

theorem bitsOf_lt (w hi lo : Nat) : bitsOf w hi lo < 2 ^ (hi + 1 - lo) := Nat.mod_lt _ (by positivity)

theorem bitsOf_eq (w hi lo : Nat) : bitsOf w hi lo = w / 2 ^ lo % 2 ^ (hi + 1 - lo) := by
  unfold bitsOf; rw [Nat.shiftRight_eq_div_pow]

theorem split_bits (w hi lo : Nat) (h : lo ≤ hi) :
    w = w / 2 ^ (hi + 1) * 2 ^ (hi + 1) + bitsOf w hi lo * 2 ^ lo + w % 2 ^ lo := by
  rw [bitsOf_eq]
  have hp : 2 ^ (hi + 1) = 2 ^ lo * 2 ^ (hi + 1 - lo) := by rw [← Nat.pow_add]; congr 1; omega
  have h1 : w / 2 ^ (hi + 1) = w / 2 ^ lo / 2 ^ (hi + 1 - lo) := by rw [hp, Nat.div_div_eq_div_mul]
  have h2 := Nat.div_add_mod w (2 ^ lo)
  have h3 := Nat.div_add_mod (w / 2 ^ lo) (2 ^ (hi + 1 - lo))
  rw [h1, hp]
  generalize w / 2 ^ lo / 2 ^ (hi + 1 - lo) = A at *
  generalize w / 2 ^ lo % 2 ^ (hi + 1 - lo) = B at *
  generalize w / 2 ^ lo = D at *
  generalize 2 ^ (hi + 1 - lo) = K at *
  rw [← h3] at h2
  nlinarith [h2]

theorem putBits_toNat (w : Word) (hi lo v : Nat) (h : lo ≤ hi) (h32 : hi < 32) :
    (putBits w hi lo v).toNat
      = w.toNat / 2 ^ (hi + 1) * 2 ^ (hi + 1) + v % 2 ^ (hi + 1 - lo) * 2 ^ lo + w.toNat % 2 ^ lo := by
  have hs := split_bits w.toNat hi lo h
  have hv : v % 2 ^ (hi + 1 - lo) < 2 ^ (hi + 1 - lo) := Nat.mod_lt _ (by positivity)
  have hc : w.toNat % 2 ^ lo < 2 ^ lo := Nat.mod_lt _ (by positivity)
  have hp : 2 ^ (hi + 1) = 2 ^ (hi + 1 - lo) * 2 ^ lo := by rw [← Nat.pow_add]; congr 1; omega
  have hA : w.toNat / 2 ^ (hi + 1) < 2 ^ (32 - (hi + 1)) := by
    rw [Nat.div_lt_iff_lt_mul (by positivity), ← Nat.pow_add]
    have : 32 - (hi + 1) + (hi + 1) = 32 := by omega
    rw [this]; exact w.isLt
  have h3 : 2 ^ 32 = 2 ^ (32 - (hi + 1)) * 2 ^ (hi + 1) := by rw [← Nat.pow_add]; congr 1; omega
  unfold putBits
  rw [BitVec.toNat_ofNat]
  set A := w.toNat / 2 ^ (hi + 1)
  set V := v % 2 ^ (hi + 1 - lo)
  set C := w.toNat % 2 ^ lo
  have e : w.toNat - bitsOf w.toNat hi lo * 2 ^ lo + V * 2 ^ lo = A * 2 ^ (hi + 1) + V * 2 ^ lo + C := by
    generalize bitsOf w.toNat hi lo * 2 ^ lo = Y at *; omega
  rw [e, Nat.mod_eq_of_lt]
  have hVC : V * 2 ^ lo + C < 2 ^ (hi + 1) := by
    rw [hp]
    calc V * 2 ^ lo + C < V * 2 ^ lo + 2 ^ lo := by omega
      _ = (V + 1) * 2 ^ lo := by ring
      _ ≤ _ := Nat.mul_le_mul_right _ hv
  calc A * 2 ^ (hi + 1) + V * 2 ^ lo + C < A * 2 ^ (hi + 1) + 2 ^ (hi + 1) := by omega
    _ = (A + 1) * 2 ^ (hi + 1) := by ring
    _ ≤ 2 ^ (32 - (hi + 1)) * 2 ^ (hi + 1) := Nat.mul_le_mul_right _ hA
    _ = _ := h3.symm

theorem bitsOf_put_same (w : Word) (hi lo v : Nat) (h : lo ≤ hi) (h32 : hi < 32) :
    bitsOf (putBits w hi lo v).toNat hi lo = v % 2 ^ (hi + 1 - lo) := by
  have hc : w.toNat % 2 ^ lo < 2 ^ lo := Nat.mod_lt _ (by positivity)
  have hp : 2 ^ (hi + 1) = 2 ^ (hi + 1 - lo) * 2 ^ lo := by rw [← Nat.pow_add]; congr 1; omega
  rw [bitsOf_eq, putBits_toNat w hi lo v h h32, hp]
  have e : w.toNat / (2 ^ (hi + 1 - lo) * 2 ^ lo) * (2 ^ (hi + 1 - lo) * 2 ^ lo) + v % 2 ^ (hi + 1 - lo) * 2 ^ lo + w.toNat % 2 ^ lo
      = w.toNat % 2 ^ lo + 2 ^ lo * (w.toNat / (2 ^ (hi + 1 - lo) * 2 ^ lo) * 2 ^ (hi + 1 - lo) + v % 2 ^ (hi + 1 - lo)) := by ring
  rw [e, Nat.add_mul_div_left _ _ (by positivity), Nat.div_eq_of_lt hc, Nat.zero_add, Nat.mul_add_mod', Nat.mod_mod]

theorem bitsOf_put_above (w : Word) (hi lo v : Nat) (h : lo ≤ hi) (h32 : hi < 32) (hi' lo' : Nat) (hd : hi < lo') :
    bitsOf (putBits w hi lo v).toNat hi' lo' = bitsOf w.toNat hi' lo' := by
  have hc : w.toNat % 2 ^ lo < 2 ^ lo := Nat.mod_lt _ (by positivity)
  have hv : v % 2 ^ (hi + 1 - lo) < 2 ^ (hi + 1 - lo) := Nat.mod_lt _ (by positivity)
  have hp : 2 ^ (hi + 1) = 2 ^ (hi + 1 - lo) * 2 ^ lo := by rw [← Nat.pow_add]; congr 1; omega
  have hVC : v % 2 ^ (hi + 1 - lo) * 2 ^ lo + w.toNat % 2 ^ lo < 2 ^ (hi + 1) := by
    rw [hp]
    calc v % 2 ^ (hi + 1 - lo) * 2 ^ lo + w.toNat % 2 ^ lo < v % 2 ^ (hi + 1 - lo) * 2 ^ lo + 2 ^ lo := by omega
      _ = (v % 2 ^ (hi + 1 - lo) + 1) * 2 ^ lo := by ring
      _ ≤ _ := Nat.mul_le_mul_right _ hv
  have hq : (putBits w hi lo v).toNat / 2 ^ (hi + 1) = w.toNat / 2 ^ (hi + 1) := by
    rw [putBits_toNat w hi lo v h h32, Nat.add_assoc, Nat.add_comm, Nat.add_mul_div_right _ _ (by positivity),
      Nat.div_eq_of_lt hVC, Nat.zero_add]
  have e : 2 ^ lo' = 2 ^ (hi + 1) * 2 ^ (lo' - (hi + 1)) := by rw [← Nat.pow_add]; congr 1; omega
  rw [bitsOf_eq, bitsOf_eq, e, ← Nat.div_div_eq_div_mul, ← Nat.div_div_eq_div_mul, hq]

theorem bitsOf_put_below (w : Word) (hi lo v : Nat) (h : lo ≤ hi) (h32 : hi < 32) (hi' lo' : Nat) (hd : hi' < lo) :
    bitsOf (putBits w hi lo v).toNat hi' lo' = bitsOf w.toNat hi' lo' := by
  by_cases hl : lo' ≤ hi'
  · have hm : (putBits w hi lo v).toNat % 2 ^ lo = w.toNat % 2 ^ lo := by
      have hp : 2 ^ (hi + 1) = 2 ^ (hi + 1 - lo) * 2 ^ lo := by rw [← Nat.pow_add]; congr 1; omega
      rw [putBits_toNat w hi lo v h h32, hp]
      have e : w.toNat / (2 ^ (hi + 1 - lo) * 2 ^ lo) * (2 ^ (hi + 1 - lo) * 2 ^ lo) + v % 2 ^ (hi + 1 - lo) * 2 ^ lo + w.toNat % 2 ^ lo
          = w.toNat % 2 ^ lo + 2 ^ lo * (w.toNat / (2 ^ (hi + 1 - lo) * 2 ^ lo) * 2 ^ (hi + 1 - lo) + v % 2 ^ (hi + 1 - lo)) := by ring
      rw [e, Nat.add_mul_mod_self_left, Nat.mod_mod]
    have key (x : Nat) : bitsOf x hi' lo' = x % 2 ^ lo % 2 ^ (hi' + 1) / 2 ^ lo' := by
      have e : 2 ^ (hi' + 1) = 2 ^ lo' * 2 ^ (hi' + 1 - lo') := by rw [← Nat.pow_add]; congr 1; omega
      rw [bitsOf_eq, Nat.mod_mod_of_dvd _ (Nat.pow_dvd_pow 2 (by omega)), e, Nat.mod_mul_right_div_self]
    rw [key, key, hm]
  · have : hi' + 1 - lo' = 0 := by omega
    rw [bitsOf_eq, bitsOf_eq, this]; simp [Nat.mod_one]

/-! ## Registers -/

@[simp] theorem regGet_regSet_ne {a b : Nat} (h : b ≠ a) (v : Word) (d : Dev) : regGet (regSet a v d) b = regGet d b :=
  get_put_ne _ _ _ h _

@[simp] theorem regGet_regSet_same (d : Dev) (a : Nat) (v : Word) : regGet (regSet a v d) a = v := get_put_same _ _ a v

@[simp] theorem regGet_setF_ne {f : Fld} {b : Nat} (h : b ≠ f.addr) (v : Nat) (d : Dev) : regGet (setF f v d) b = regGet d b :=
  regGet_regSet_ne h _ _

/-- A field reads as written. -/
theorem getF_setF_same (d : Dev) (f : Fld) (v : Nat) (hf : f.lo ≤ f.hi) (h32 : f.hi < 32) :
    getF (setF f v d) f = v % 2 ^ (f.hi + 1 - f.lo) := by
  unfold getF setF
  rw [regGet_regSet_same, bitsOf_put_same _ _ _ _ hf h32]

/-- A field of another register is unchanged. -/
theorem getF_setF_ne {f g : Fld} (h : g.addr ≠ f.addr) (v : Nat) (d : Dev) : getF (setF f v d) g = getF d g := by
  unfold getF; rw [regGet_setF_ne h]

/-- Another field of the same register is unchanged. -/
theorem getF_setF_other (d : Dev) {f g : Fld} (hd : f.hi < g.lo ∨ g.hi < f.lo) (v : Nat) (hf : f.lo ≤ f.hi)
    (h32 : f.hi < 32) : getF (setF f v d) g = getF d g := by
  by_cases ha : g.addr = f.addr
  · unfold getF setF
    rw [ha, regGet_regSet_same]
    rcases hd with hd | hd
    · exact bitsOf_put_above _ _ _ _ hf h32 _ _ hd
    · exact bitsOf_put_below _ _ _ _ hf h32 _ _ hd
  · exact getF_setF_ne ha v d

theorem flag_setB_same (d : Dev) (f : Fld) (b : Bool) (hf : f.lo ≤ f.hi) (h32 : f.hi < 32) :
    flag (setB f b d) f = b := by
  unfold flag setB
  rw [getF_setF_same d f _ hf h32]
  have h2 : 2 ≤ 2 ^ (f.hi + 1 - f.lo) := by
    calc 2 = 2 ^ 1 := rfl
      _ ≤ _ := Nat.pow_le_pow_right (by omega) (by omega)
  cases b
  · simp
  · rw [if_pos rfl, Nat.mod_eq_of_lt (by omega)]; rfl

/-- A register that raising events does not change, by its address. -/
theorem eventReg_false {a : Nat} (h1 : a < 0x200100 ∨ 0x200140 ≤ a) (h2 : a ≠ 0x20000C) (h3 : a ≠ 0xE0020C) (h4 : a ≠ 0xE00210)
    (h5 : a ≠ 0xE00104) : Safety.eventReg a = false := by
  have h1' : ¬ (0x200100 ≤ a ∧ a < 0x200140) := by omega
  simp only [Safety.eventReg, F.EVT_DROP_COUNT, F.OBS_LED_DROP_COUNT, F.OBS_LED_SUPP_COUNT, F.OBS_GK_STS_OVW, List.mem_cons,
    List.not_mem_nil, or_false, ← Bool.decide_and, ← Bool.decide_or, decide_eq_false_iff_not]
  omega

end Sys2Proof.Machine
end

