-- ==== Sys2Proof/Laws/Events.lean ====
section
/-!
SUPPORT. Raising an event leaves it in EVT_PEND, and takes no event out of it (R408).
-/
namespace Sys2Proof.Machine
open Sys2Proof

/-- The registers of EVT_PEND are unchanged. -/
def Bank (d e : Dev) : Prop := ∀ a, 0x200100 ≤ a → a < 0x200140 → regGet e a = regGet d a

theorem Bank.refl (d : Dev) : Bank d d := fun _ _ _ => rfl
theorem Bank.trans {a b c : Dev} (h : Bank a b) (k : Bank b c) : Bank a c := fun x h1 h2 => (k x h1 h2).trans (h x h1 h2)
theorem Bank.of_regs {d e : Dev} (h : e.regs = d.regs) : Bank d e := fun _ _ _ => by unfold regGet; rw [h]
theorem Bank.setF {f : Fld} (hf : f.addr < 0x200100 ∨ 0x200140 ≤ f.addr) (v : Nat) (d : Dev) : Bank d (setF f v d) := fun _ _ _ =>
  regGet_setF_ne (by omega) _ _
theorem Bank.addSat {f : Fld} (hf : f.addr < 0x200100 ∨ 0x200140 ≤ f.addr) (v : Nat) (d : Dev) : Bank d (addSat f v d) := Bank.setF hf _ _
theorem Bank.of_keeps {M : List Safety.Part} {d e : Dev} (h : Safety.Keeps M d e) (hm : Safety.Part.regs ∉ M) : Bank d e :=
  .of_regs (h .regs hm)

theorem Bank.pending {d e : Dev} (h : Bank d e) {n : Nat} (hn : n < 512) : Safety.pending e n = Safety.pending d n := by
  unfold Safety.pending flag getF
  rw [h _ (by simp) (by simp; omega)]

theorem pending_pendEvent {n : Nat} (hn : n < 512) (d : Dev) : Safety.pending (pendEvent n d) n = true := by
  unfold pendEvent
  rw [Nat.mod_eq_of_lt hn]
  exact flag_setB_same d ⟨0x200100 + 4 * (n / 32), n % 32, n % 32⟩ true (Nat.le_refl _) (Nat.mod_lt _ (by decide))

theorem pendEvent_up (n : Nat) {m : Nat} (hm : m < 512) {d : Dev} (h : Safety.pending d m = true) :
    Safety.pending (pendEvent n d) m = true := by
  by_cases hnm : n % 512 = m
  · have : pendEvent n d = pendEvent m d := by unfold pendEvent; rw [show n % 32 = m % 32 by omega, show n % 512 = m % 512 by omega]
    rw [this]; exact pending_pendEvent hm d
  · unfold Safety.pending flag pendEvent
    by_cases ha : n % 512 / 32 = m / 32
    · rw [getF_setF_other d (by show n % 32 < m % 32 ∨ m % 32 < n % 32; omega) _ (Nat.le_refl _) (Nat.mod_lt _ (by decide))]
      exact h
    · rw [getF_setF_ne (by show 0x200100 + 4 * (m / 32) ≠ 0x200100 + 4 * (n % 512 / 32); omega)]
      exact h

theorem ringPut_bank (id : Nat) (d : Dev) : Bank d (ringPut id d).1 := by
  unfold ringPut
  split
  · exact .refl _
  · dsimp only
    split
    · exact .trans (.of_regs rfl) (.addSat (by simp [F.OBS_GK_STS_OVW]) _ _)
    · exact .of_regs rfl

theorem leaveHook_bank (m : LcfMsg) (d : Dev) : Bank d (leaveHook m d).1 := by
  unfold leaveHook
  split
  · split
    · exact .of_keeps (stamp_keeps _ _ _) (by decide)
    · exact .refl _
  · split
    · split
      · exact .refl _
      · exact .trans (.of_keeps (stamp_keeps _ _ _) (by decide)) (ringPut_bank _ _)
    · exact .refl _
  · exact .refl _

theorem emit_bank (p : Nat) (m : LcfMsg) (d : Dev) : Bank d (emit p m d).1 :=
  .trans (.of_keeps (onLink_keeps _ _ _) (by decide)) (leaveHook_bank _ _)

theorem pumpOne_bank {p : Nat} {d : Dev} {r : Dev × Bool} (h : pumpOne p d = some r) : Bank d r.1 := by
  unfold pumpOne at h
  dsimp only at h
  split at h
  · cases h
  · split at h
    · cases h; exact .trans (.of_keeps (onLink_keeps _ _ _) (by decide)) (emit_bank _ _ _)
    · split at h
      · cases h
      · split at h
        · cases h
        · cases h; exact .trans (.of_regs rfl) (emit_bank _ _ _)

theorem pumpN_bank (n p : Nat) (d : Dev) : Bank d (pumpN n p d).1 := by
  induction n generalizing d with
  | zero => exact .refl _
  | succ n ih =>
    unfold pumpN
    split
    · exact .refl _
    · rename_i h; exact .trans (pumpOne_bank h) (ih _)

theorem forEach_bank {α : Type} (l : List α) (f : α → Dev → Dev) (d : Dev) (h : ∀ a d, Bank d (f a d)) : Bank d (forEach l f d) := by
  unfold forEach
  induction l generalizing d with
  | nil => exact .refl _
  | cons a l ih => exact .trans (h a d) (ih _)

theorem evtQueue_bank (p : Nat) (m : LcfMsg) (d : Dev) : Bank d (evtQueue p m d) := by
  unfold evtQueue
  dsimp only
  split
  · exact .of_regs rfl
  · exact .addSat (by simp [F.EVT_DROP_COUNT]) _ _

theorem rillPut_bank (p n : Nat) (alert : Bool) (tick : Nat) (arg : Word) (d : Dev) : Bank d (rillPut p n alert tick arg d).1 :=
  .of_keeps (rillPut_keeps _ _ _ _ _ _) (by decide)

theorem routeEvt_bank (n tick : Nat) (arg : Word) (d : Dev) : Bank d (routeEvt n tick arg d).1 := by
  unfold routeEvt
  extract_lets r
  split
  rename_i d1 fa h1
  split
  rename_i d2 fb h2
  have b1 : Bank d d1 := by
    split at h1
    · have := congrArg Prod.fst h1; dsimp only at this; rw [← this]; exact rillPut_bank _ _ _ _ _ _
    · cases h1; exact .refl _
  have b2 : Bank d1 d2 := by
    split at h2
    · have := congrArg Prod.fst h2; dsimp only at this; rw [← this]; exact rillPut_bank _ _ _ _ _ _
    · cases h2; exact .refl _
  exact .trans b1 (.trans b2 (forEach_bank _ _ _ fun a d => forEach_bank _ _ _ fun p d =>
    .trans (evtQueue_bank _ _ _) (pumpN_bank _ _ _)))

theorem ledPut_bank (e w : Bool) (r : LedRec) (d : Dev) : Bank d (ledPut e w r d).1 := by
  unfold ledPut
  dsimp only
  split
  · exact .of_regs rfl
  · split
    · exact .of_regs rfl
    · exact .trans (.addSat (by simp [F.OBS_LED_DROP_COUNT]) _ _) (.of_keeps (bump_keeps _ _) (by decide))

theorem ledFlood_bank (w : Bool) (r : LedRec) (d : Dev) : Bank d (ledFlood w r d).1 := by
  unfold ledFlood
  extract_lets f
  split
  · exact .trans (.of_regs rfl) (ledPut_bank _ _ _ _)
  · refine .trans (.of_regs rfl) (.trans (.addSat (f := F.OBS_LED_SUPP_COUNT) (by simp [F.OBS_LED_SUPP_COUNT]) 1 _) (.of_regs ?_))
    exact bump_keeps _ _ .regs (by decide)

/-- What raising an event does to EVT_PEND: its bit is set, and no other bit falls. -/
theorem raiseCore_pend (w : Bool) (n : Nat) (arg : Word) (d : Dev) : Bank (pendEvent n d) (raiseCore w n arg d).1 := by
  unfold raiseCore
  extract_lets +onlyGivenNames -underBinder -merge d1 snap rec0
  split
  rename_i d2 written dropped h
  have b : Bank d1 d2 := by have := congrArg Prod.fst h; dsimp only at this; rw [← this]; exact ledFlood_bank _ _ _
  extract_lets +onlyGivenNames -underBinder -merge o d3
  have b3 : Bank d1 d3 := by
    show Bank d1 (if _ then _ else _)
    split
    · exact .trans b (.of_regs rfl)
    · exact b
  split
  · exact b3
  · split
    · exact .trans b3 (.of_regs rfl)
    · split
      rename_i d4 fa fb h4
      have b4 : Bank d3 d4 := by have := congrArg Prod.fst h4; dsimp only at this; rw [← this]; exact routeEvt_bank _ _ _ _
      exact .trans b3 b4

theorem raiseCore_pending (w : Bool) {n : Nat} (hn : n < 512) (arg : Word) (d : Dev) : Safety.pending (raiseCore w n arg d).1 n = true := by
  rw [(raiseCore_pend w n arg d).pending hn]; exact pending_pendEvent hn d

theorem raiseCore_up (w : Bool) (n : Nat) (arg : Word) {d : Dev} {m : Nat} (hm : m < 512) (h : Safety.pending d m = true) :
    Safety.pending (raiseCore w n arg d).1 m = true := by
  rw [(raiseCore_pend w n arg d).pending hm]; exact pendEvent_up n hm h

/-- Raising an event takes no event out of EVT_PEND, and leaves its own there. -/
theorem raiseBy_pending (w : Bool) (n : Nat) (arg : Word) (d : Dev) {m : Nat} (hm : m < 512) (h : n = m ∨ Safety.pending d m = true) :
    Safety.pending (raiseBy w n arg d) m = true := by
  unfold raiseBy
  extract_lets +onlyGivenNames -underBinder -merge sat0
  split
  rename_i d1 dropped fa fb h1
  have p1 : Safety.pending d1 m = true := by
    have := congrArg Prod.fst h1; dsimp only at this; rw [← this]
    rcases h with h | h
    · subst h; exact raiseCore_pending w hm arg d
    · exact raiseCore_up w n arg hm h
  extract_lets +onlyGivenNames -underBinder -merge follow d2 d3 d4 sat1
  have hf : ∀ key k a c d, Safety.pending d m = true → Safety.pending (follow key k a c d) m = true := by
    intro key k a c d hd
    show Safety.pending (if _ then _ else _) m = true
    split
    · exact raiseCore_up _ _ _ hm (by rw [(Bank.of_keeps (markSf_keeps key d) (by decide)).pending hm]; exact hd)
    · exact hd
  exact hf _ _ _ _ _ (hf _ _ _ _ _ (hf _ _ _ _ _ (hf _ _ _ _ _ p1)))

theorem raiseN_pending (n v : Nat) (d : Dev) {m : Nat} (hm : m < 512) (h : n = m ∨ Safety.pending d m = true) :
    Safety.pending (raiseN n v d) m = true := raiseBy_pending _ _ _ _ hm h

theorem raiseFree_pending (n : Nat) (d : Dev) {m : Nat} (hm : m < 512) (h : n = m ∨ Safety.pending d m = true) :
    Safety.pending (raiseFree n d) m = true := by
  unfold raiseFree
  refine raiseBy_pending _ _ _ _ hm ?_
  rcases h with h | h
  · exact .inl h
  · right; rw [(Bank.of_keeps (drawFree_keeps d) (by decide)).pending hm]; exact h

theorem finish_pending (b : Nat) (d : Dev) {m : Nat} (hm : m < 512) (h : Safety.pending d m = true) :
    Safety.pending (finish b d) m = true := by
  unfold finish
  split
  · exact h
  · exact raiseN_pending _ _ _ hm (.inr h)

theorem count_pending (i : Nat) (d : Dev) {m : Nat} (hm : m < 512) (h : Safety.pending d m = true) : Safety.pending (count i d) m = true := by
  have hb : Safety.pending (bump i d) m = true := by rw [(Bank.of_keeps (bump_keeps i d) (by decide)).pending hm]; exact h
  unfold count
  dsimp only
  split
  · unfold raiseOnce
    split
    · exact hb
    · exact raiseN_pending _ _ _ hm (.inr (by rw [(Bank.of_keeps (markSf_keeps 487 (bump i d)) (by decide)).pending hm]; exact hb))
  · exact hb

end Sys2Proof.Machine
end

