-- ==== Sys2Proof/Laws/FrameGrotto.lean ====
section
/-!
SUPPORT. What each definition of Machine/Grotto.lean leaves alone: one lemma per definition, cited and not unfolded.
-/
namespace Sys2Proof.Machine
open Sys2Proof Sys2Proof.Safety.Keeps

theorem onGrt_keeps (a0 d) : Safety.Keeps [.grt] d (onGrt a0 d) := by
  unfold onGrt
  exact (.set_grt rfl (.refl _ _))

theorem showCounters_keeps (d) : Safety.Keeps [.regs, .plain] d (showCounters d) := by
  unfold showCounters
  extract_lets +onlyGivenNames -underBinder -merge v1
  have h1 : Safety.Keeps [.regs, .plain] d v1 := (.step (setPair_keeps _ _ _ _) rfl (.refl _ _))
  extract_lets +onlyGivenNames -underBinder -merge v2
  have h2 : Safety.Keeps [.regs, .plain] d v2 := (.step (setF_keeps _ _ _) rfl h1)
  extract_lets +onlyGivenNames -underBinder -merge v3
  have h3 : Safety.Keeps [.regs, .plain] d v3 := (.step (setF_keeps _ _ _) rfl h2)
  extract_lets +onlyGivenNames -underBinder -merge v4
  have h4 : Safety.Keeps [.regs, .plain] d v4 := (.step (setF_keeps _ _ _) rfl h3)
  exact (.step (setF_keeps _ _ _) rfl h4)

theorem onCtr_keeps (a0 a1 d) : Safety.Keeps [.grt] d (onCtr a0 a1 d) := by
  unfold onCtr
  exact (.step (onGrt_keeps _ _) rfl (.refl _ _))

theorem grtApply_keeps (a0 d) : Safety.Keeps [.regs, .grt, .plain] d (grtApply a0 d) := by
  unfold grtApply
  split
  · exact (.step (showCounters_keeps _) rfl (.step (onCtr_keeps _ _ _) rfl (.refl _ _)))
  · exact (.step (onGrt_keeps _ _) rfl (.refl _ _))

theorem grtSubmit_keeps (a0 d) : Safety.Keeps [.regs, .glb, .svc, .fab, .grt, .obs, .plain] d (grtSubmit a0 d) := by
  unfold grtSubmit
  exact (.ite (.step (raiseN_keeps _ _ _) rfl (.step (setB_keeps _ _ _) rfl (.refl _ _))) (.step (onGrt_keeps _ _) rfl (.refl _ _)))

theorem grtSetCtr_keeps (a0 a1 d) : Safety.Keeps [.regs, .glb, .svc, .fab, .grt, .obs, .plain] d (grtSetCtr a0 a1 d) := by
  unfold grtSetCtr
  exact (.forEach (.refl _ _) fun _ x1 h1 => (.step (grtSubmit_keeps _ _) rfl h1))

theorem pageForget_keeps (a0 d) : Safety.Keeps [.grt, .obs] d (pageForget a0 d) := by
  unfold pageForget
  extract_lets +onlyGivenNames -underBinder -merge v1
  exact (.ite (.forEach (.refl _ _) fun _ x2 h2 => (.step (onCtr_keeps _ _ _) rfl h2)) (.ite (.step (onCtr_keeps _ _ _) rfl (.refl _ _)) (.ite (.step (onGrt_keeps _ _) rfl (.refl _ _)) (.ite (.step (onGrt_keeps _ _) rfl (.refl _ _)) (.ite (.step (onGrt_keeps _ _) rfl (.refl _ _)) (.ite (.step (onGrt_keeps _ _) rfl (.refl _ _)) (.ite (.step (onGrt_keeps _ _) rfl (.refl _ _)) (.ite (.set_obs rfl (.refl _ _)) (.refl _ _)))))))))

theorem pageUncorr_keeps (a0 d) : Safety.Keeps [.regs, .glb, .svc, .fab, .grt, .obs, .plain] d (pageUncorr a0 d) := by
  unfold pageUncorr
  exact (.step (pageForget_keeps _ _) rfl (.step (raiseN_keeps _ _ _) rfl (.step (setB_keeps _ _ _) rfl (.refl _ _))))

theorem grtInc_keeps (a0 d) : Safety.Keeps [.regs, .glb, .svc, .fab, .grt, .obs, .plain] d (grtInc a0 d) := by
  unfold grtInc
  exact (.step (grtSetCtr_keeps _ _ _) rfl (.refl _ _))

theorem showProtect_keeps (d) : Safety.Keeps [.regs, .plain] d (showProtect d) := by
  unfold showProtect
  exact (.step (setF_keeps _ _ _) rfl (.refl _ _))

theorem protect_keeps (a0 d) : Safety.Keeps [.regs, .glb, .svc, .fab, .grt, .obs, .plain] d (protect a0 d) := by
  unfold protect
  exact (.ite (.step (raiseN_keeps _ _ _) rfl (.refl _ _)) (.step (raiseN_keeps _ _ _) rfl (.step (showProtect_keeps _) rfl (.step (onGrt_keeps _ _) rfl (.refl _ _)))))

theorem energyStoreFault_keeps (d) : Safety.Keeps [.regs, .grt, .plain] d (energyStoreFault d) := by
  unfold energyStoreFault
  extract_lets +onlyGivenNames -underBinder -merge v1
  have h1 : Safety.Keeps [.regs, .grt, .plain] d v1 := (.step (setB_keeps _ _ _) rfl (.refl _ _))
  split
  · exact h1
  · exact (.step (setB_keeps _ _ _) rfl (.step (onGrt_keeps _ _) rfl h1))

theorem resolved_keeps (a0 d) : Safety.Keeps [.regs, .glb, .svc, .fab, .obs, .plain] d (resolved a0 d) := by
  unfold resolved
  exact (.step (raiseN_keeps _ _ _) rfl (.step (setF_keeps _ _ _) rfl (.refl _ _)))

theorem recoverCtr_keeps (a0 d) : Safety.Keeps [.regs, .glb, .svc, .fab, .grt, .obs, .plain] d (recoverCtr a0 d) := by
  unfold recoverCtr
  extract_lets +onlyGivenNames -underBinder -merge v1
  extract_lets +onlyGivenNames -underBinder -merge v2
  split
  · refine .step (resolved_keeps _ _) rfl ?_
    try dsimp -zeta -iota -proj only [v2]
    exact (.step (onCtr_keeps _ _ _) rfl (.refl _ _))
  · refine .ite ?_ ?_
    · exact (.refl _ _)
    · refine .step (resolved_keeps _ _) rfl ?_
      try dsimp -zeta -iota -proj only [v2]
      exact (.step (onCtr_keeps _ _ _) rfl (.refl _ _))
  · refine .step (resolved_keeps _ _) rfl ?_
    try dsimp -zeta -iota -proj only [v2]
    exact (.step (onCtr_keeps _ _ _) rfl (.refl _ _))
  · refine .step (resolved_keeps _ _) rfl ?_
    try dsimp -zeta -iota -proj only [v2]
    exact (.step (onCtr_keeps _ _ _) rfl (.refl _ _))
  · refine .ite ?_ ?_
    · exact (.refl _ _)
    · refine .step (resolved_keeps _ _) rfl ?_
      try dsimp -zeta -iota -proj only [v2]
      exact (.step (onCtr_keeps _ _ _) rfl (.refl _ _))

theorem recoverCut_keeps (d) : Safety.Keeps [.regs, .glb, .svc, .fab, .grt, .obs, .plain] d (recoverCut d) := by
  unfold recoverCut
  split
  · exact (.refl _ _)
  · extract_lets +onlyGivenNames -underBinder -merge v4
    have h4 : Safety.Keeps [.regs, .glb, .svc, .fab, .grt, .obs, .plain] d v4 := (.step (onGrt_keeps _ _) rfl (.refl _ _))
    exact (.ite (.step (resolved_keeps _ _) rfl (.step (grtApply_keeps _ _) rfl h4)) (.step (resolved_keeps _ _) rfl h4))

theorem showSpare_keeps (d) : Safety.Keeps [.regs, .plain] d (showSpare d) := by
  unfold showSpare
  exact (.step (setF_keeps _ _ _) rfl (.step (setF_keeps _ _ _) rfl (.refl _ _)))

theorem refreshPage_keeps (a0 d) : Safety.Keeps [.regs, .glb, .svc, .fab, .grt, .obs, .plain] d (refreshPage a0 d) := by
  unfold refreshPage
  exact (.step (raiseN_keeps _ _ _) rfl (.step (count_keeps _ _) rfl (.ite (.step (grtSubmit_keeps _ _) rfl (.refl _ _)) (.refl _ _))))

theorem grottoRecover_keeps (a0 d) : Safety.Keeps [.regs, .glb, .svc, .fab, .grt, .obs, .plain] d (grottoRecover a0 d) := by
  unfold grottoRecover
  extract_lets +onlyGivenNames -underBinder -merge v1
  have h1 : Safety.Keeps [.regs, .glb, .svc, .fab, .grt, .obs, .plain] d v1 := (.forEach (.step (recoverCut_keeps _) rfl (.refl _ _)) fun _ x2 h2 => (.step (recoverCtr_keeps _ _) rfl h2))
  exact (.step (showProtect_keeps _) rfl (.step (showSpare_keeps _) rfl (.step (showCounters_keeps _) rfl (.forEach h1 fun _ x3 h3 => (.step (refreshPage_keeps _ _) rfl h3)))))

theorem grottoScan_keeps (a0 d) : Safety.Keeps [.regs, .glb, .svc, .fab, .grt, .obs, .plain] d (grottoScan a0 d) := by
  unfold grottoScan
  exact (.forEach (.step (onGrt_keeps _ _) rfl (.refl _ _)) fun _ x1 h1 => (.step (pageUncorr_keeps _ _) rfl h1))

theorem keepPrior_keeps (a0 d) : Safety.Keeps [.grt] d (keepPrior a0 d) := by
  unfold keepPrior
  split
  · exact (.step (onGrt_keeps _ _) rfl (.refl _ _))
  · exact (.step (onGrt_keeps _ _) rfl (.refl _ _))

theorem marginRead_keeps (a0 a1 d) : Safety.Keeps [.regs, .glb, .svc, .fab, .grt, .obs, .plain] d (marginRead a0 a1 d) := by
  unfold marginRead
  extract_lets +onlyGivenNames -underBinder -merge v1
  extract_lets +onlyGivenNames -underBinder -merge v2
  extract_lets +onlyGivenNames -underBinder -merge v3
  extract_lets +onlyGivenNames -underBinder -merge v4
  have h4 : Safety.Keeps [.regs, .glb, .svc, .fab, .grt, .obs, .plain] d v4 := (.forEach (.refl _ _) fun _ x5 h5 => (.step (refreshPage_keeps _ _) rfl h5))
  extract_lets +onlyGivenNames -underBinder -merge v6
  have h6 : Safety.Keeps [.regs, .glb, .svc, .fab, .grt, .obs, .plain] d v6 := (.forEach h4 fun _ x7 h7 => (.step (pageUncorr_keeps _ _) rfl h7))
  exact (.step (onGrt_keeps _ _) rfl h6)

theorem moveTo_keeps (a0 a1 d) : Safety.Keeps [.regs, .glb, .svc, .fab, .grt, .obs, .plain] d (moveTo a0 a1 d) := by
  unfold moveTo
  exact (.step (showSpare_keeps _) rfl (.step (count_keeps _ _) rfl (.step (onGrt_keeps _ _) rfl (.refl _ _))))

theorem pageWrite_keeps (a0 a1 d) : Safety.Keeps [.regs, .glb, .svc, .fab, .grt, .obs, .plain] d (pageWrite a0 a1 d) := by
  unfold pageWrite
  exact (.step (grtSubmit_keeps _ _) rfl (.refl _ _))

theorem pageWriteStart_keeps (d) : Safety.Keeps [.regs, .grt, .plain] d (pageWriteStart d) := by
  unfold pageWriteStart
  split
  · exact (.ite (.step (setB_keeps _ _ _) rfl (.step (setB_keeps _ _ _) rfl (.step (onGrt_keeps _ _) rfl (.refl _ _)))) (.step (setB_keeps _ _ _) rfl (.refl _ _)))
  · exact (.refl _ _)

theorem writeEnds_keeps (a0 d) : Safety.Keeps [.regs, .glb, .svc, .fab, .grt, .obs, .plain] d (writeEnds a0 d) := by
  unfold writeEnds
  extract_lets +onlyGivenNames -underBinder -merge v1
  extract_lets +onlyGivenNames -underBinder -merge v2
  exact (.step (setB_keeps _ _ _) rfl (.step (count_keeps _ _) rfl (.step (onGrt_keeps _ _) rfl (.refl _ _))))

theorem programNext_keeps (a0 d) : Safety.Keeps [.regs, .glb, .svc, .fab, .grt, .obs, .plain] d (programNext a0 d) := by
  unfold programNext
  extract_lets +onlyGivenNames -underBinder -merge v1
  have h1 : Safety.Keeps [.regs, .glb, .svc, .fab, .grt, .obs, .plain] d v1 := (.ite (.step (grtApply_keeps _ _) rfl (.step (keepPrior_keeps _ _) rfl (.refl _ _))) (.refl _ _))
  exact (.ite (.step (writeEnds_keeps _ _) rfl h1) (.step (onGrt_keeps _ _) rfl h1))

theorem putPrior_keeps (a0 d) : Safety.Keeps [.regs, .grt, .plain] d (putPrior a0 d) := by
  unfold putPrior
  split
  · exact (.step (showCounters_keeps _) rfl (.step (onCtr_keeps _ _ _) rfl (.refl _ _)))
  · exact (.step (onGrt_keeps _ _) rfl (.refl _ _))

theorem physicalProgramDone_keeps (a0 d) : Safety.Keeps [.regs, .glb, .svc, .fab, .grt, .obs, .plain] d (physicalProgramDone a0 d) := by
  unfold physicalProgramDone
  split
  · exact (.refl _ _)
  · extract_lets +onlyGivenNames -underBinder -merge v3
    have h3 : Safety.Keeps [.regs, .glb, .svc, .fab, .grt, .obs, .plain] d v3 := (.step (count_keeps _ _) rfl (.refl _ _))
    refine .ite ?_ ?_
    · exact (.step (programNext_keeps _ _) rfl h3)
    · refine .ite ?_ ?_
      · exact (.step (onGrt_keeps _ _) rfl h3)
      · extract_lets +onlyGivenNames -underBinder -merge v4
        extract_lets +onlyGivenNames -underBinder -merge v5
        extract_lets +onlyGivenNames -underBinder -merge v6
        have h6 : Safety.Keeps [.regs, .glb, .svc, .fab, .grt, .obs, .plain] d v6 := (.step (setB_keeps _ _ _) rfl h3)
        split
        · extract_lets +onlyGivenNames -underBinder -merge v8
          have h8 : Safety.Keeps [.regs, .glb, .svc, .fab, .grt, .obs, .plain] d v8 := (.step (raiseN_keeps _ _ _) rfl (.step (setB_keeps _ _ _) rfl (.ite (.step (putPrior_keeps _ _) rfl h6) h6)))
          exact (.step (setB_keeps _ _ _) rfl (.step (onGrt_keeps _ _) rfl h8))
        · extract_lets +onlyGivenNames -underBinder -merge v10
          have h10 : Safety.Keeps [.regs, .glb, .svc, .fab, .grt, .obs, .plain] d v10 := (.step (onGrt_keeps _ _) rfl h6)
          extract_lets +onlyGivenNames -underBinder -merge v11
          have h11 : Safety.Keeps [.regs, .glb, .svc, .fab, .grt, .obs, .plain] d v11 := (.step (count_keeps _ _) rfl (.step (raiseN_keeps _ _ _) rfl (.step (moveTo_keeps _ _ _) rfl h10)))
          exact (.step (programNext_keeps _ _) rfl h11)

theorem sectorMove_keeps (a0 d) : Safety.Keeps [.regs, .glb, .svc, .fab, .grt, .obs, .plain] d (sectorMove a0 d) := by
  unfold sectorMove
  refine .ite ?_ ?_
  · exact (.refl _ _)
  · split
    · exact (.refl _ _)
    · exact (.step (moveTo_keeps _ _ _) rfl (.refl _ _))

end Sys2Proof.Machine
end

