-- ==== Sys2Proof/Laws/FrameLife.lean ====
section
/-!
SUPPORT. What each definition of Machine/Life.lean leaves alone: one lemma per definition, cited and not unfolded.
-/
namespace Sys2Proof.Machine
open Sys2Proof Sys2Proof.Safety.Keeps

theorem onSvc_keeps (a0 d) : Safety.Keeps [.svc] d (onSvc a0 d) := by
  unfold onSvc
  exact (.set_svc rfl (.refl _ _))

theorem rollBack_keeps (a0 d) : Safety.Keeps [.regs, .glb, .svc, .fab, .obs, .plain] d (rollBack a0 d) := by
  unfold rollBack
  extract_lets +onlyGivenNames -underBinder -merge v1
  have h1 : Safety.Keeps [.regs, .glb, .svc, .fab, .obs, .plain] d v1 := (.step (onSvc_keeps _ _) rfl (.refl _ _))
  extract_lets +onlyGivenNames -underBinder -merge v2
  have h2 : Safety.Keeps [.regs, .glb, .svc, .fab, .obs, .plain] d v2 := (.step (setF_keeps _ _ _) rfl (.step (setF_keeps _ _ _) rfl (.step (setF_keeps _ _ _) rfl (.step (setB_keeps _ _ _) rfl h1))))
  exact (.step (raiseN_keeps _ _ _) rfl h2)

theorem abandonCommit_keeps (d) : Safety.Keeps [.regs, .glb, .svc, .fab, .obs, .plain] d (abandonCommit d) := by
  unfold abandonCommit
  exact (.ite (.step (rollBack_keeps _ _) rfl (.refl _ _)) (.refl _ _))

theorem onRail_keeps (a0 a1 d) : Safety.Keeps [.pwr] d (onRail a0 a1 d) := by
  unfold onRail
  exact (.set_pwr rfl (.refl _ _))

theorem onPwr_keeps (a0 d) : Safety.Keeps [.pwr] d (onPwr a0 d) := by
  unfold onPwr
  exact (.set_pwr rfl (.refl _ _))

theorem clearedDev_form (a0 d) (h : Safety.regsWf d) : Safety.regsWf (clearedDev a0 d) := by
  show SMap.wfBy resetOf 0 (if a0 = true then [] else warmRegs d) = true
  split
  · rfl
  · exact SMapLaws.wfBy_filter h _

theorem clearedDev_keeps (a0 d) : Safety.Keeps [.regs, .glb, .svc, .sch, .fab, .bsn, .ntr, .med, .xlt, .slu, .twn, .pwr,
    .grt, .thm, .obs, .spr, .plain, .base, .stay] d (clearedDev a0 d) := fun p hp => by
  cases p <;> first
    | exact (hp (by decide)).elim
    | exact clearedDev_form a0 d
    | rfl

theorem keepReadings_keeps (a0 d) : Safety.Keeps [.regs, .plain] d (keepReadings a0 d) := by
  unfold keepReadings
  exact .step (setB_keeps _ _ _) rfl (.step (setF_keeps _ _ _) rfl (.step (setF_keeps _ _ _) rfl
    (.step (setB_keeps _ _ _) rfl (.step (setB_keeps _ _ _) rfl (.refl _ _)))))

theorem resetDev_keeps (a0 d) : Safety.Keeps [.regs, .glb, .svc, .sch, .fab, .bsn, .ntr, .med, .xlt, .slu, .twn, .pwr,
    .grt, .thm, .obs, .spr, .plain, .base, .stay] d (resetDev a0 d) :=
  .step (setB_keeps _ _ _) rfl (.step (keepReadings_keeps _ _) rfl (clearedDev_keeps _ _))

theorem loseLock_keeps (a0 d) : Safety.Keeps [.regs, .glb, .svc, .fab, .obs, .plain] d (loseLock a0 d) := by
  unfold loseLock
  extract_lets +onlyGivenNames -underBinder -merge v1
  refine .ite ?_ ?_
  · exact (.refl _ _)
  · extract_lets +onlyGivenNames -underBinder -merge v2
    have h2 : Safety.Keeps [.regs, .glb, .svc, .fab, .obs, .plain] d v2 := (.step (setF_keeps _ _ _) rfl (.step (setF_keeps _ _ _) rfl (.refl _ _)))
    extract_lets +onlyGivenNames -underBinder -merge v3
    have h3 : Safety.Keeps [.regs, .glb, .svc, .fab, .obs, .plain] d v3 := (.ite (.step (raiseN_keeps _ _ _) rfl h2) h2)
    exact (.ite (.step (rollBack_keeps _ _) rfl h3) h3)

theorem endService_keeps (d) : Safety.Keeps [.regs, .glb, .svc, .fab, .obs, .plain] d (endService d) := by
  unfold endService
  exact (.step (abandonCommit_keeps _) rfl (.step (loseLock_keeps _ _) rfl (.refl _ _)))

theorem beginStep2_keeps (d) : Safety.Keeps [.regs, .glb, .plain, .base, .stay] d (beginStep2 d) := by
  unfold beginStep2
  exact (.step (setF_keeps _ _ _) rfl (.glbB rfl (fun _ => rfl) (.refl _ _)))

theorem warmReset_keeps (a0 a1 d) : Safety.Keeps [.regs, .glb, .svc, .sch, .fab, .bsn, .ntr, .med, .xlt, .slu, .twn, .pwr, .grt, .thm, .obs, .spr, .plain, .base, .stay] d (warmReset a0 a1 d) := by
  unfold warmReset
  extract_lets +onlyGivenNames -underBinder -merge v1
  have h1 : Safety.Keeps [.regs, .glb, .svc, .sch, .fab, .bsn, .ntr, .med, .xlt, .slu, .twn, .pwr, .grt, .thm, .obs, .spr, .plain, .base, .stay] d v1 := (.ite (.step (raiseN_keeps _ _ _) rfl (.refl _ _)) (.refl _ _))
  extract_lets +onlyGivenNames -underBinder -merge v2
  have h2 : Safety.Keeps [.regs, .glb, .svc, .sch, .fab, .bsn, .ntr, .med, .xlt, .slu, .twn, .pwr, .grt, .thm, .obs, .spr, .plain, .base, .stay] d v2 := (.glb rfl (fun _ => ⟨rfl, rfl⟩) (.step (resetDev_keeps _ _) rfl (.step (endService_keeps _) rfl h1)))
  extract_lets +onlyGivenNames -underBinder -merge v3
  have h3 : Safety.Keeps [.regs, .glb, .svc, .sch, .fab, .bsn, .ntr, .med, .xlt, .slu, .twn, .pwr, .grt, .thm, .obs, .spr, .plain, .base, .stay] d v3 := (.step (setF_keeps _ _ _) rfl (.step (setB_keeps _ _ _) rfl h2))
  exact (.ite (.glb rfl (fun _ => ⟨rfl, rfl⟩) h3) (.step (beginStep2_keeps _) rfl h3))

theorem hushLink_keeps (a0 d) : Safety.Keeps [.regs, .glb, .svc, .fab, .obs, .plain] d (hushLink a0 d) := by
  unfold hushLink
  extract_lets +onlyGivenNames -underBinder -merge v1
  extract_lets +onlyGivenNames -underBinder -merge v2
  have h2 : Safety.Keeps [.regs, .glb, .svc, .fab, .obs, .plain] d v2 := (.step (setF_keeps _ _ _) rfl (.step (onLink_keeps _ _ _) rfl (.refl _ _)))
  exact (.ite (.step (raiseN_keeps _ _ _) rfl h2) h2)

theorem settleOff_keeps0 (d) : Safety.Keeps [.regs, .glb, .plain, .base, .stay] d (settleOff d) := by
  unfold settleOff
  exact (.ite (.step (setB_keeps _ _ _) rfl (.step (setF_keeps _ _ _) rfl (.glbB rfl (fun _ => rfl) (.refl _ _)))) (.refl _ _))

theorem settleOff_keeps (d) : Safety.Keeps [.regs, .glb, .plain, .base] d (settleOff d) :=
  .noStay (settleOff_keeps0 d) rfl (by intro hw; simp [settleOff, hw])

theorem railOff_keeps (a0 d) : Safety.Keeps [.regs, .pwr, .plain] d (railOff a0 d) := by
  unfold railOff
  exact (.step (setF_keeps _ _ _) rfl (.step (onRail_keeps _ _ _) rfl (.refl _ _)))

theorem railsDown_keeps (a0 d) : Safety.Keeps [.regs, .glb, .pwr, .plain, .base] d (railsDown a0 d) := by
  unfold railsDown
  extract_lets +onlyGivenNames -underBinder -merge v1
  refine .ite ?_ ?_
  · exact (.step (onPwr_keeps _ _) rfl (.refl _ _))
  · clear_value v1
    split
    · exact (.ite (.refl _ _) (.step (settleOff_keeps _) rfl (.refl _ _)))
    · exact (.step (railOff_keeps _ _) rfl (.step (onPwr_keeps _ _) rfl (.refl _ _)))

theorem fallSilent_keeps (d) : Safety.Keeps [.regs, .glb, .svc, .fab, .ntr, .twn, .pwr, .obs, .plain, .base] d (fallSilent d) := by
  unfold fallSilent
  extract_lets +onlyGivenNames -underBinder -merge v1
  have h1 : Safety.Keeps [.regs, .glb, .svc, .fab, .ntr, .twn, .pwr, .obs, .plain, .base] d v1 := (.step (onPort_keeps _ _ _) rfl (.step (onPort_keeps _ _ _) rfl (.step (endService_keeps _) rfl (.refl _ _))))
  extract_lets +onlyGivenNames -underBinder -merge v2
  extract_lets +onlyGivenNames -underBinder -merge v3
  extract_lets +onlyGivenNames -underBinder -merge v4
  extract_lets +onlyGivenNames -underBinder -merge v5
  have h5 : Safety.Keeps [.regs, .glb, .svc, .fab, .ntr, .twn, .pwr, .obs, .plain, .base] d v5 := (.upd h1 fun p hp => by cases p <;> first | rfl | exact id | exact fun _ _ => rfl | exact (hp (by decide)).elim)
  extract_lets +onlyGivenNames -underBinder -merge v6
  have h6 : Safety.Keeps [.regs, .glb, .svc, .fab, .ntr, .twn, .pwr, .obs, .plain, .base] d v6 := (.step (setB_keeps _ _ _) rfl (.step (setF_keeps _ _ _) rfl (.step (setB_keeps _ _ _) rfl h5)))
  extract_lets +onlyGivenNames -underBinder -merge v7
  have h7 : Safety.Keeps [.regs, .glb, .svc, .fab, .ntr, .twn, .pwr, .obs, .plain, .base] d v7 := (.forEach h6 fun _ x8 h8 => (.step (hushLink_keeps _ _) rfl h8))
  extract_lets +onlyGivenNames -underBinder -merge v9
  have h9 : Safety.Keeps [.regs, .glb, .svc, .fab, .ntr, .twn, .pwr, .obs, .plain, .base] d v9 := (.step (setF_keeps _ _ _) rfl (.step (onLink_keeps _ _ _) rfl h7))
  extract_lets +onlyGivenNames -underBinder -merge v10
  have h10 : Safety.Keeps [.regs, .glb, .svc, .fab, .ntr, .twn, .pwr, .obs, .plain, .base] d v10 := (.step (railsDown_keeps _ _) rfl h9)
  exact (.step (onPwr_keeps _ _) rfl h10)

theorem toWithdrawn_keeps0 (d) : Safety.Keeps [.regs, .glb, .svc, .fab, .ntr, .twn, .pwr, .obs, .plain, .base, .stay] d (toWithdrawn d) := by
  unfold toWithdrawn
  exact (.step (fallSilent_keeps _) rfl (.glbB rfl (fun _ => rfl) (.refl _ _)))

theorem toWithdrawn_keeps (d) : Safety.Keeps [.regs, .glb, .svc, .fab, .ntr, .twn, .pwr, .obs, .plain, .base] d (toWithdrawn d) :=
  .noStay (toWithdrawn_keeps0 d) rfl (by intro _; exact (fallSilent_keeps _) .stay (by decide) rfl)

theorem suspendErases_keeps (d) : Safety.Keeps [.med] d (suspendErases d) := by
  unfold suspendErases
  exact (.set_med rfl (.refl _ _))

theorem shutdownAs_keeps (a0 a1 d) : Safety.Keeps [.regs, .glb, .svc, .fab, .med, .pwr, .grt, .obs, .plain, .base, .stay] d (shutdownAs a0 a1 d) := by
  unfold shutdownAs
  extract_lets +onlyGivenNames -underBinder -merge v1
  have h1 : Safety.Keeps [.regs, .glb, .svc, .fab, .med, .pwr, .grt, .obs, .plain, .base, .stay] d v1 := (.glbB rfl (fun _ => rfl) (.refl _ _))
  extract_lets +onlyGivenNames -underBinder -merge v2
  have h2 : Safety.Keeps [.regs, .glb, .svc, .fab, .med, .pwr, .grt, .obs, .plain, .base, .stay] d v2 := (.step (endService_keeps _) rfl h1)
  extract_lets +onlyGivenNames -underBinder -merge v3
  have h3 : Safety.Keeps [.regs, .glb, .svc, .fab, .med, .pwr, .grt, .obs, .plain, .base, .stay] d v3 := (.step (suspendErases_keeps _) rfl h2)
  extract_lets +onlyGivenNames -underBinder -merge v4
  have h4 : Safety.Keeps [.regs, .glb, .svc, .fab, .med, .pwr, .grt, .obs, .plain, .base, .stay] d v4 := (.step (onPwr_keeps _ _) rfl h3)
  exact (.ite (.step (count_keeps _ _) rfl (.step (setF_keeps _ _ _) rfl (.step (onGrt_keeps _ _) rfl h4))) (.step (railsDown_keeps _ _) rfl h4))

theorem enterShutdown_keeps (a0 d) : Safety.Keeps [.regs, .glb, .svc, .fab, .med, .pwr, .grt, .obs, .plain, .base, .stay] d (enterShutdown a0 d) := by
  unfold enterShutdown
  exact (.step (shutdownAs_keeps _ _ _) rfl (.refl _ _))

theorem askWarmReset_keeps (a0 d) : Safety.Keeps [.regs, .glb, .svc, .sch, .fab, .bsn, .ntr, .med, .xlt, .slu, .twn, .pwr, .grt, .thm, .obs, .spr, .plain, .base, .stay] d (askWarmReset a0 d) := by
  unfold askWarmReset
  split
  · exact (.refl _ _)
  · exact (.refl _ _)
  · exact (.refl _ _)
  · exact (.step (enterShutdown_keeps _ _) rfl (.set_twn rfl (.refl _ _)))
  · exact (.step (warmReset_keeps _ _ _) rfl (.refl _ _))

theorem withdraw_keeps0 (a0 d) : Safety.Keeps [.regs, .glb, .svc, .fab, .ntr, .med, .twn, .pwr, .grt, .obs, .plain, .base, .stay] d (withdraw a0 d) := by
  unfold withdraw
  split
  · exact (.refl _ _)
  · exact (.refl _ _)
  · exact (.ite (.step (onPwr_keeps _ _) rfl (.refl _ _)) (.step (toWithdrawn_keeps _) rfl (.refl _ _)))
  · exact (.ite (.step (enterShutdown_keeps _ _) rfl (.refl _ _)) (.step (toWithdrawn_keeps _) rfl (.refl _ _)))

theorem withdraw_keeps (a0 d) : Safety.Keeps [.regs, .glb, .svc, .fab, .ntr, .med, .twn, .pwr, .grt, .obs, .plain, .base] d (withdraw a0 d) :=
  .noStay (withdraw_keeps0 a0 d) rfl (by intro hw; simp [withdraw, hw])

theorem stepFails_keeps (a0 a1 d) : Safety.Keeps [.regs, .glb, .svc, .fab, .obs, .plain] d (stepFails a0 a1 d) := by
  unfold stepFails
  exact (.step (raiseBy_keeps _ _ _ _) rfl (.step (setF_keeps _ _ _) rfl (.step (setF_keeps _ _ _) rfl (.refl _ _))))

theorem stepWithdraws_keeps (a0 a1 d) : Safety.Keeps [.regs, .glb, .svc, .fab, .ntr, .med, .twn, .pwr, .grt, .obs, .plain, .base] d (stepWithdraws a0 a1 d) := by
  unfold stepWithdraws
  exact (.step (withdraw_keeps _ _) rfl (.step (stepFails_keeps _ _ _) rfl (.refl _ _)))

end Sys2Proof.Machine
end

