-- ==== Sys2Proof/Laws/FrameObs.lean ====
section
/-!
SUPPORT. What each definition of Machine/Obs.lean leaves alone: one lemma per definition, cited and not unfolded.
-/
namespace Sys2Proof.Machine
open Sys2Proof Sys2Proof.Safety.Keeps

theorem onObs_keeps (a0 d) : Safety.Keeps [.obs] d (onObs a0 d) := by
  unfold onObs
  exact (.set_obs rfl (.refl _ _))

theorem gkTag_keeps (a0 a1 a2 d) : Safety.Keeps [.regs, .glb, .svc, .fab, .obs] d (gkTag a0 a1 a2 d).2 := by
  unfold gkTag
  extract_lets +onlyGivenNames -underBinder -merge v1
  refine .ite2 ?_ ?_
  · exact (.snd_mk (.refl _ _))
  · refine .ite2 ?_ ?_
    · exact (.snd_mk (.step (count_keeps _ _) rfl (.refl _ _)))
    · extract_lets +onlyGivenNames -underBinder -merge v2
      exact (.snd_mk (.step (count_keeps _ _) rfl (.step (onObs_keeps _ _) rfl (.refl _ _))))

theorem ledInfo_keeps (a0 a1 d) : Safety.Keeps [.svc, .free] d (ledInfo a0 a1 d) := by
  unfold ledInfo
  split
  · rename_i y1 y2 e3
    have h3 : Safety.Keeps [.svc, .free] d y2 := .of_snd e3 (by
        split
        · exact (.snd_mk (.refl _ _))
        · extract_lets +onlyGivenNames -underBinder -merge v7
          exact (.snd_mk (.step (drawFree_keeps _) rfl (.refl _ _))))
    exact (.step (answer_keeps _ _ _ _ _ _ _) rfl h3)

theorem ledRead_keeps (a0 a1 a2 a3 d) : Safety.Keeps [.svc] d (ledRead a0 a1 a2 a3 d) := by
  unfold ledRead
  exact (.ite (.step (answer_keeps _ _ _ _ _ _ _) rfl (.refl _ _)) (.step (answer_keeps _ _ _ _ _ _ _) rfl (.refl _ _)))

theorem ledNonce_keeps (a0 a1 d) : Safety.Keeps [.svc, .obs, .free] d (ledNonce a0 a1 d) := by
  unfold ledNonce
  extract_lets +onlyGivenNames -underBinder -merge v1
  extract_lets +onlyGivenNames -underBinder -merge v2
  have h2 : Safety.Keeps [.svc, .obs, .free] d v2 := (.step (onObs_keeps _ _) rfl (.set_free rfl (.refl _ _)))
  exact (.step (answer_keeps _ _ _ _ _ _ _) rfl h2)

theorem ledClear_keeps (a0 a1 a2 a3 a4 a5 d) : Safety.Keeps [.regs, .glb, .svc, .fab, .obs, .plain] d (ledClear a0 a1 a2 a3 a4 a5 d) := by
  unfold ledClear
  extract_lets +onlyGivenNames -underBinder -merge v1
  extract_lets +onlyGivenNames -underBinder -merge v2
  extract_lets +onlyGivenNames -underBinder -merge v3
  have h3 : Safety.Keeps [.regs, .glb, .svc, .fab, .obs, .plain] d v3 := (.ite (.refl _ _) (.step (onObs_keeps _ _) rfl (.refl _ _)))
  extract_lets +onlyGivenNames -underBinder -merge v4
  extract_lets +onlyGivenNames -underBinder -merge v5
  extract_lets +onlyGivenNames -underBinder -merge v6
  have h6 : Safety.Keeps [.regs, .glb, .svc, .fab, .obs, .plain] d v6 := (.step (onObs_keeps _ _) rfl h3)
  extract_lets +onlyGivenNames -underBinder -merge v7
  have h7 : Safety.Keeps [.regs, .glb, .svc, .fab, .obs, .plain] d v7 := by
      dsimp -zeta -iota -proj only [v7]
      refine .ite ?_ ?_
      · exact (.step (raise_keeps _ _ _) rfl (.step (setB_keeps _ _ _) rfl h6))
      · split
        · rename_i y8 y9 e10
          have h10 : Safety.Keeps [.regs, .glb, .svc, .fab, .obs, .plain] d y8 := .of_fst e10 ((.step (ledPut_keeps _ _ _ _) rfl h3))
          extract_lets +onlyGivenNames -underBinder -merge v11
          have h11 : Safety.Keeps [.regs, .glb, .svc, .fab, .obs, .plain] d v11 := (.ite (.step (raiseOnce_keeps _ _ _ _) rfl h10) h10)
          exact (.step (raiseN_keeps _ _ _) rfl h11)
  exact (.step (answer_keeps _ _ _ _ _ _ _) rfl h7)

theorem ledgerWrite_keeps (d) : Safety.Keeps [.regs, .glb, .svc, .fab, .obs, .plain] d (ledgerWrite d).1 := by
  unfold ledgerWrite
  extract_lets +onlyGivenNames -underBinder -merge v1
  extract_lets +onlyGivenNames -underBinder -merge v2
  extract_lets +onlyGivenNames -underBinder -merge v3
  extract_lets +onlyGivenNames -underBinder -merge v4
  have h4 : Safety.Keeps [.regs, .glb, .svc, .fab, .obs, .plain] d v4 := (.step (onObs_keeps _ _) rfl (.refl _ _))
  extract_lets +onlyGivenNames -underBinder -merge v5
  have h5 : Safety.Keeps [.regs, .glb, .svc, .fab, .obs, .plain] d v5 := (.ite (.step (raiseN_keeps _ _ _) rfl (.step (setB_keeps _ _ _) rfl h4)) h4)
  extract_lets +onlyGivenNames -underBinder -merge v6
  have h6 : Safety.Keeps [.regs, .glb, .svc, .fab, .obs, .plain] d v6 := (.ite (.step (setB_keeps _ _ _) rfl h5) (.step (raiseN_keeps _ _ _) rfl (.step (setB_keeps _ _ _) rfl h5)))
  extract_lets +onlyGivenNames -underBinder -merge v7
  have h7 : Safety.Keeps [.regs, .glb, .svc, .fab, .obs, .plain] d v7 := (.ite h6 (.step (raiseN_keeps _ _ _) rfl (.step (count_keeps _ _) rfl h6)))
  exact (.fst_mk h7)

theorem ledFlushCmd_keeps (a0 a1 d) : Safety.Keeps [.regs, .glb, .svc, .fab, .obs, .plain] d (ledFlushCmd a0 a1 d) := by
  unfold ledFlushCmd
  split
  · rename_i y1 y2 e3
    have h3 : Safety.Keeps [.regs, .glb, .svc, .fab, .obs, .plain] d y1 := .of_fst e3 ((.step (ledgerWrite_keeps _) rfl (.refl _ _)))
    exact (.step (answer_keeps _ _ _ _ _ _ _) rfl h3)

theorem ledCarry_keeps (a0 a1 a2 d) : Safety.Keeps [.regs, .glb, .svc, .fab, .obs, .free, .plain] d (ledCarry a0 a1 a2 d) := by
  unfold ledCarry
  split
  · exact (.step (ledInfo_keeps _ _ _) rfl (.refl _ _))
  · exact (.step (ledRead_keeps _ _ _ _ _) rfl (.refl _ _))
  · exact (.step (ledNonce_keeps _ _ _) rfl (.refl _ _))
  · exact (.step (ledClear_keeps _ _ _ _ _ _ _) rfl (.refl _ _))
  · exact (.step (ledFlushCmd_keeps _ _ _) rfl (.refl _ _))

theorem ctrClrWrap_keeps (d) : Safety.Keeps [.obs] d (ctrClrWrap d) := by
  unfold ctrClrWrap
  exact (.step (onObs_keeps _ _) rfl (.refl _ _))

theorem ctrZero_keeps (d) : Safety.Keeps [.obs] d (ctrZero d) := by
  unfold ctrZero
  exact (.step (onObs_keeps _ _) rfl (.refl _ _))

theorem gkPop_keeps (d) : Safety.Keeps [.obs] d (gkPop d) := by
  unfold gkPop
  exact (.step (onObs_keeps _ _) rfl (.refl _ _))

theorem setFreeze_keeps (a0 d) : Safety.Keeps [.regs, .plain] d (setFreeze a0 d) := by
  unfold setFreeze
  extract_lets +onlyGivenNames -underBinder -merge v1
  have h1 : Safety.Keeps [.regs, .plain] d v1 := (.step (setB_keeps _ _ _) rfl (.refl _ _))
  exact (.ite h1 (.step (setB_keeps _ _ _) rfl h1))

theorem counterSweep_keeps (d) : Safety.Keeps [.regs, .obs, .plain] d (counterSweep d) := by
  unfold counterSweep
  refine .ite ?_ ?_
  · exact (.refl _ _)
  · extract_lets +onlyGivenNames -underBinder -merge v1
    have h1 : Safety.Keeps [.regs, .obs, .plain] d v1 := (.step (onObs_keeps _ _) rfl (.refl _ _))
    extract_lets +onlyGivenNames -underBinder -merge v2
    have h2 : Safety.Keeps [.regs, .obs, .plain] d v2 := (.step (setF_keeps _ _ _) rfl h1)
    exact (.whenD h2 fun x3 h3 => (.step (setB_keeps _ _ _) rfl h3))

theorem floodSummary_keeps (d) : Safety.Keeps [.regs, .glb, .svc, .fab, .obs] d (floodSummary d) := by
  unfold floodSummary
  extract_lets +onlyGivenNames -underBinder -merge v1
  have h1 : Safety.Keeps [.regs, .glb, .svc, .fab, .obs] d v1 := by
      dsimp -zeta -iota -proj only [v1]
      refine .foldl ((.refl _ _)) fun x4 z4 h4 => ?_
      refine .ite ?_ ?_
      · exact h4
      · extract_lets +onlyGivenNames -underBinder -merge v5
        split
        · rename_i y6 y7 e8
          have h8 : Safety.Keeps [.regs, .glb, .svc, .fab, .obs] d y6 := .of_fst e8 ((.step (ledPut_keeps _ _ _ _) rfl h4))
          exact (.ite (.step (raiseOnce_keeps _ _ _ _) rfl h8) h8)
  exact (.step (onObs_keeps _ _) rfl h1)

theorem ledgerGrottoWrite_keeps (d) : Safety.Keeps [.regs, .glb, .svc, .fab, .obs, .plain] d (ledgerGrottoWrite d) := by
  unfold ledgerGrottoWrite
  exact (.ite (.step (ledgerWrite_keeps _) rfl (.refl _ _)) (.refl _ _))

theorem nonceDrop_keeps (d) : Safety.Keeps [.obs] d (nonceDrop d) := by
  unfold nonceDrop
  exact (.step (onObs_keeps _ _) rfl (.refl _ _))

theorem nonceLapse_keeps (d) : Safety.Keeps [.obs] d (nonceLapse d) := by
  unfold nonceLapse
  split
  · exact (.refl _ _)
  · exact (.ite (.step (onObs_keeps _ _) rfl (.refl _ _)) (.refl _ _))

end Sys2Proof.Machine
end

