-- ==== Sys2Proof/Laws/FrameLeaf.lean ====
section
/-!
SUPPORT. What each definition of Machine/Leaf.lean leaves alone: one lemma per definition, cited and not unfolded.
-/
namespace Sys2Proof.Machine
open Sys2Proof Sys2Proof.Safety.Keeps

theorem onTwn_keeps (a0 d) : Safety.Keeps [.twn] d (onTwn a0 d) := by
  unfold onTwn
  exact (.set_twn rfl (.refl _ _))

theorem onBsn_keeps (a0 d) : Safety.Keeps [.bsn] d (onBsn a0 d) := by
  unfold onBsn
  exact (.set_bsn rfl (.refl _ _))

theorem onNtr_keeps (a0 d) : Safety.Keeps [.ntr] d (onNtr a0 d) := by
  unfold onNtr
  exact (.set_ntr rfl (.refl _ _))

theorem touchFrame_keeps (a0 a1 d) : Safety.Keeps [.ntr] d (touchFrame a0 a1 d) := by
  unfold touchFrame
  exact (.step (onNtr_keeps _ _) rfl (.refl _ _))

theorem dropLines_keeps (a0 d) : Safety.Keeps [.ntr] d (dropLines a0 d) := by
  unfold dropLines
  exact (.step (onNtr_keeps _ _) rfl (.refl _ _))

theorem toPool_keeps (a0 d) : Safety.Keeps [.ntr] d (toPool a0 d) := by
  unfold toPool
  refine .ite ?_ ?_
  · exact (.step (dropLines_keeps _ _) rfl (.refl _ _))
  · extract_lets +onlyGivenNames -underBinder -merge v1
    extract_lets +onlyGivenNames -underBinder -merge v2
    have h2 : Safety.Keeps [.ntr] d v2 := by
        dsimp -zeta -iota -proj only [v2]
        split
        · exact (.refl _ _)
        · exact (.step (dropLines_keeps _ _) rfl (.refl _ _))
    exact (.step (onNtr_keeps _ _) rfl h2)

theorem allocFrame_keeps (a0 d) {e} (h : allocFrame a0 d = some e) : Safety.Keeps [.ntr] d e := by
  unfold allocFrame at h
  extract_lets +onlyGivenNames -underBinder -merge v1 at h
  split at h
  · cases h; exact (.step (touchFrame_keeps _ _ _) rfl (.refl _ _))
  · split at h
    · cases h
    · cases h
      refine .step (touchFrame_keeps _ _ _) rfl (.step (onNtr_keeps _ _) rfl ?_)
      have h1 : Safety.Keeps [.ntr] d (if inPool d a0 = true then
          onNtr (fun n => { n with pool := n.pool.put {} (poolEntry d a0) {} }) d else d) :=
        .ite (.step (onNtr_keeps _ _) rfl (.refl _ _)) (.refl _ _)
      split
      · exact h1
      · exact .step (toPool_keeps _ _) rfl h1

theorem onSlu_keeps (a0 d) : Safety.Keeps [.slu] d (onSlu a0 d) := by
  unfold onSlu
  exact (.set_slu rfl (.refl _ _))

theorem putNear_keeps (a0 a1 d) : Safety.Keeps [.slu] d (putNear a0 a1 d) := by
  unfold putNear
  extract_lets +onlyGivenNames -underBinder -merge v1
  exact (.step (onSlu_keeps _ _) rfl (.refl _ _))

theorem retag_keeps (a0 a1 d) : Safety.Keeps [.regs, .glb, .svc, .fab, .slu, .obs] d (retag a0 a1 d) := by
  unfold retag
  extract_lets +onlyGivenNames -underBinder -merge v1
  exact (.step (count_keeps _ _) rfl (.step (onSlu_keeps _ _) rfl (.refl _ _)))

theorem parentInc_keeps (a0 a1 a2 d) : Safety.Keeps [.regs, .glb, .svc, .fab, .slu, .obs] d (parentInc a0 a1 a2 d) := by
  unfold parentInc
  extract_lets +onlyGivenNames -underBinder -merge v1
  extract_lets +onlyGivenNames -underBinder -merge v2
  refine .ite ?_ ?_
  · try dsimp -zeta -iota -proj only [v2]
    exact (.step (onSlu_keeps _ _) rfl (.refl _ _))
  · extract_lets +onlyGivenNames -underBinder -merge v3
    have h3 : Safety.Keeps [.regs, .glb, .svc, .fab, .slu, .obs] d v3 := (.foldl (.refl _ _) fun x4 _ h4 => (.step (retag_keeps _ _ _) rfl h4))
    try dsimp -zeta -iota -proj only [v2]
    exact (.step (onSlu_keeps _ _) rfl h3)

theorem wcPut_keeps (a0 a1 a2 d) : Safety.Keeps [.slu] d (wcPut a0 a1 a2 d) := by
  unfold wcPut
  exact (.step (onSlu_keeps _ _) rfl (.refl _ _))

theorem wcEnter_keeps (a0 a1 a2 d) (h : ∀ k i x, Safety.Keeps [.regs, .glb, .svc, .fab, .slu, .obs] x (a0 k i x)) :
    Safety.Keeps [.regs, .glb, .svc, .fab, .slu, .obs] d (wcEnter a0 a1 a2 d) := by
  unfold wcEnter
  split
  · exact .step (wcPut_keeps _ _ _ _) rfl (.refl _ _)
  · split
    · exact .step (wcPut_keeps _ _ _ _) rfl (.refl _ _)
    · split
      · exact .refl _ _
      · exact .ite (.step (h _ _ _) rfl (.step (wcPut_keeps _ _ _ _) rfl (.refl _ _))) (.step (wcPut_keeps _ _ _ _) rfl (.refl _ _))

theorem walkWith_keeps (a0 a1 a2 d) (h : ∀ k i x, Safety.Keeps [.regs, .glb, .svc, .fab, .slu, .obs] x (a0 k i x)) :
    Safety.Keeps [.regs, .glb, .svc, .fab, .slu, .obs] d (walkWith a0 a1 a2 d) := by
  unfold walkWith
  exact .foldl (.step (count_keeps _ _) rfl (.refl _ _)) fun x k hx => .step (wcEnter_keeps _ _ _ _ h) rfl hx

theorem treeWrite_keeps (a0 a1 a2 d) :
    Safety.Keeps [.regs, .glb, .svc, .fab, .slu, .obs] d (treeWrite a0 a1 a2 d) := by
  induction a0 generalizing a1 a2 d with
  | zero => exact .refl _ _
  | succ n ih =>
    unfold treeWrite
    extract_lets +onlyGivenNames -underBinder -merge v1 v2
    have h1 : Safety.Keeps [.regs, .glb, .svc, .fab, .slu, .obs] d v2 := .step (putNear_keeps _ _ _) rfl (.step (parentInc_keeps _ _ _ _) rfl
      (.whenD (.refl _ _) fun x hx => .step (count_keeps _ _) rfl hx))
    refine .ite h1 (.ite (.step (ih _ _ _) rfl h1) ?_)
    extract_lets +onlyGivenNames -underBinder -merge v3
    have h3 : Safety.Keeps [.regs, .glb, .svc, .fab, .slu, .obs] d v3 := .step (walkWith_keeps _ _ _ _ fun _ _ _ => ih _ _ _) rfl h1
    split
    · exact .step (wcPut_keeps _ _ _ _) rfl h3
    · exact .step (ih _ _ _) rfl h3

theorem treeWalk_keeps (a0 d) : Safety.Keeps [.regs, .glb, .svc, .fab, .slu, .obs] d (treeWalk a0 d) := by
  unfold treeWalk
  exact .ite (.step (walkWith_keeps _ _ _ _ fun _ _ _ => treeWrite_keeps _ _ _ _) rfl (.refl _ _)) (.refl _ _)

theorem putLine_keeps (a0 a1 d) : Safety.Keeps [.ntr] d (putLine a0 a1 d) := by
  unfold putLine
  exact (.step (onNtr_keeps _ _) rfl (.refl _ _))

theorem majorInc_keeps (a0 d) : Safety.Keeps [.regs, .glb, .svc, .fab, .slu, .obs, .plain] d (majorInc a0 d) := by
  unfold majorInc
  extract_lets +onlyGivenNames -underBinder -merge v1
  extract_lets +onlyGivenNames -underBinder -merge v2
  have h2 : Safety.Keeps [.regs, .glb, .svc, .fab, .slu, .obs, .plain] d v2 := (.step (onSlu_keeps _ _) rfl (.refl _ _))
  exact (.ite (.step (raiseN_keeps _ _ _) rfl (.step (addSat_keeps _ _ _) rfl (.step (onSlu_keeps _ _) rfl h2))) h2)

theorem installLines_keeps (a0 a1 a2 a3 d) : Safety.Keeps [.regs, .glb, .svc, .fab, .ntr, .slu, .obs] d (installLines a0 a1 a2 a3 d) := by
  unfold installLines
  refine .whenD (by
      refine .foldl ((.refl _ _)) fun x4 z4 h4 => ?_
      extract_lets +onlyGivenNames -underBinder -merge v5
      exact (.ite (.ite (.step (putLine_keeps _ _ _) rfl h4) h4) (.step (putLine_keeps _ _ _) rfl h4))) fun x6 h6 => ?_
  exact (.step (treeWrite_keeps _ _ _ _) rfl h6)

theorem fillLeaf_keeps (a0 d) : Safety.Keeps [.regs, .glb, .svc, .fab, .ntr, .slu, .obs] d (fillLeaf a0 d) := by
  unfold fillLeaf
  extract_lets +onlyGivenNames -underBinder -merge v1
  exact (.step (installLines_keeps _ _ _ _ _) rfl (.refl _ _))

theorem overflowLeaf_keeps (a0 d) : Safety.Keeps [.regs, .glb, .svc, .fab, .ntr, .slu, .obs, .plain] d (overflowLeaf a0 d) := by
  unfold overflowLeaf
  extract_lets +onlyGivenNames -underBinder -merge v1
  have h1 : Safety.Keeps [.regs, .glb, .svc, .fab, .ntr, .slu, .obs, .plain] d v1 := (.step (majorInc_keeps _ _) rfl (.step (fillLeaf_keeps _ _) rfl (.step (count_keeps _ _) rfl (.refl _ _))))
  extract_lets +onlyGivenNames -underBinder -merge v2
  have h2 : Safety.Keeps [.regs, .glb, .svc, .fab, .ntr, .slu, .obs, .plain] d v2 := (.foldl h1 fun x3 _ h3 => (.step (putLine_keeps _ _ _) rfl h3))
  exact (.step (treeWrite_keeps _ _ _ _) rfl h2)

theorem lineWrite_keeps (a0 a1 a2 d) : Safety.Keeps [.regs, .glb, .svc, .fab, .ntr, .slu, .obs, .plain] d (lineWrite a0 a1 a2 d) := by
  unfold lineWrite
  extract_lets +onlyGivenNames -underBinder -merge v1
  extract_lets +onlyGivenNames -underBinder -merge v2
  have h2 : Safety.Keeps [.regs, .glb, .svc, .fab, .ntr, .slu, .obs, .plain] d v2 := (.step (treeWrite_keeps _ _ _ _) rfl (.step (putLine_keeps _ _ _) rfl (.refl _ _)))
  exact (.ite (.step (overflowLeaf_keeps _ _) rfl h2) h2)

theorem mergeDrop_keeps (a0 d) : Safety.Keeps [.ntr] d (mergeDrop a0 d) := by
  unfold mergeDrop
  exact (.step (onNtr_keeps _ _) rfl (.refl _ _))

theorem poisonLine_keeps (a0 d) : Safety.Keeps [.regs, .glb, .svc, .fab, .ntr, .slu, .obs, .plain] d (poisonLine a0 d) := by
  unfold poisonLine
  exact (.step (lineWrite_keeps _ _ _ _) rfl (.step (mergeDrop_keeps _ _) rfl (.refl _ _)))

theorem fullWrite_keeps (a0 a1 d) : Safety.Keeps [.regs, .glb, .svc, .fab, .ntr, .slu, .obs, .plain] d (fullWrite a0 a1 d) := by
  unfold fullWrite
  exact (.step (lineWrite_keeps _ _ _ _) rfl (.step (mergeDrop_keeps _ _) rfl (.refl _ _)))

theorem mergeDrain_keeps (a0 d) : Safety.Keeps [.regs, .glb, .svc, .fab, .ntr, .slu, .obs, .plain] d (mergeDrain a0 d) := by
  unfold mergeDrain
  split
  · exact (.refl _ _)
  · extract_lets +onlyGivenNames -underBinder -merge v3
    exact (.step (lineWrite_keeps _ _ _ _) rfl (.step (mergeDrop_keeps _ _) rfl (.refl _ _)))

theorem mergeWrite_keeps (a0 a1 a2 d) : Safety.Keeps [.regs, .glb, .svc, .fab, .ntr, .slu, .obs, .plain] d (mergeWrite a0 a1 a2 d) := by
  unfold mergeWrite
  refine .ite ?_ ?_
  · exact (.refl _ _)
  · extract_lets +onlyGivenNames -underBinder -merge v1
    have h1 : Safety.Keeps [.regs, .glb, .svc, .fab, .ntr, .slu, .obs, .plain] d v1 := by
        dsimp -zeta -iota -proj only [v1]
        split
        · exact (.step (onNtr_keeps _ _) rfl (.refl _ _))
        · extract_lets +onlyGivenNames -underBinder -merge v4
          have h4 : Safety.Keeps [.regs, .glb, .svc, .fab, .ntr, .slu, .obs, .plain] d v4 := by
              dsimp -zeta -iota -proj only [v4]
              refine .ite ?_ ?_
              · split
                · exact (.refl _ _)
                · exact (.step (mergeDrain_keeps _ _) rfl (.refl _ _))
              · exact (.refl _ _)
          extract_lets +onlyGivenNames -underBinder -merge v8
          have h8 : Safety.Keeps [.regs, .glb, .svc, .fab, .ntr, .slu, .obs, .plain] d v8 := (.step (onNtr_keeps _ _) rfl h4)
          extract_lets +onlyGivenNames -underBinder -merge v9
          exact (.ite (.step (treeWrite_keeps _ _ _ _) rfl (.step (putLine_keeps _ _ _) rfl h8)) h8)
    split
    · exact (.ite (.step (mergeDrain_keeps _ _) rfl h1) h1)
    · exact h1

theorem onXlt_keeps (a0 d) : Safety.Keeps [.xlt] d (onXlt a0 d) := by
  unfold onXlt
  exact (.set_xlt rfl (.refl _ _))

theorem wcWriteLevel_keeps (a0 d) : Safety.Keeps [.regs, .glb, .svc, .fab, .slu, .obs] d (wcWriteLevel a0 d) := by
  unfold wcWriteLevel
  extract_lets +onlyGivenNames -underBinder -merge v1
  extract_lets +onlyGivenNames -underBinder -merge v2
  extract_lets +onlyGivenNames -underBinder -merge v3
  have h3 : Safety.Keeps [.regs, .glb, .svc, .fab, .slu, .obs] d v3 := (.step (onSlu_keeps _ _) rfl (.refl _ _))
  exact (.foldl h3 fun x4 _ h4 => (.step (treeWrite_keeps _ _ _ _) rfl h4))

theorem wcWriteOut_keeps (d) : Safety.Keeps [.regs, .glb, .svc, .fab, .slu, .obs] d (wcWriteOut d) := by
  unfold wcWriteOut
  exact (.foldl (.refl _ _) fun x1 _ h1 => (.step (wcWriteLevel_keeps _ _) rfl h1))

theorem mergeDrainLeaf_keeps (a0 d) : Safety.Keeps [.regs, .glb, .svc, .fab, .ntr, .slu, .obs, .plain] d (mergeDrainLeaf a0 d) := by
  unfold mergeDrainLeaf
  exact (.foldl (.refl _ _) fun x1 _ h1 => (.step (mergeDrain_keeps _ _) rfl h1))

end Sys2Proof.Machine
end

