-- ==== Sys2Proof/Laws/FrameWindow.lean ====
section
/-!
SUPPORT. What each definition of Machine/Window.lean leaves alone: one lemma per definition, cited and not unfolded.
-/
namespace Sys2Proof.Machine
open Sys2Proof Sys2Proof.Safety.Keeps

theorem onSch_keeps (a0 d) : Safety.Keeps [.sch] d (onSch a0 d) := by
  unfold onSch
  exact (.set_sch rfl (.refl _ _))

theorem releaseWindows_keeps (a0 d) : Safety.Keeps [.sch] d (releaseWindows a0 d) := by
  unfold releaseWindows
  extract_lets +onlyGivenNames -underBinder -merge v1
  exact (.step (onSch_keeps _ _) rfl (.refl _ _))

theorem bindWindows_keeps (a0 d) : Safety.Keeps [.regs, .glb, .svc, .sch, .fab, .bsn, .twn, .obs] d (bindWindows a0 d) := by
  unfold bindWindows
  extract_lets +onlyGivenNames -underBinder -merge v1
  have h1 : Safety.Keeps [.regs, .glb, .svc, .sch, .fab, .bsn, .twn, .obs] d v1 := (.step (onSch_keeps _ _) rfl (.refl _ _))
  exact (.foldl h1 fun x2 _ h2 => (.ite h2 (.step (mirSend_keeps _ _) rfl h2)))

theorem resolveOwn_keeps (a0 d) : Safety.Keeps [.sch] d (resolveOwn a0 d) := by
  unfold resolveOwn
  refine .ite ?_ ?_
  · exact (.refl _ _)
  · split
    · exact (.refl _ _)
    · extract_lets +onlyGivenNames -underBinder -merge v4
      refine .ite ?_ ?_
      · extract_lets +onlyGivenNames -underBinder -merge v5
        have h5 : Safety.Keeps [.sch] d v5 := (.step (releaseWindows_keeps _ _) rfl (.refl _ _))
        exact (.step (onSch_keeps _ _) rfl h5)
      · exact (.step (onSch_keeps _ _) rfl (.refl _ _))

end Sys2Proof.Machine
end

