-- ==== Sys2Proof/Laws/FrameFilter.lean ====
section
/-!
SUPPORT. What each definition of Machine/Filter.lean leaves alone: one lemma per definition, cited and not unfolded.
-/
namespace Sys2Proof.Machine
open Sys2Proof Sys2Proof.Safety.Keeps

theorem clearLine_keeps (a0 a1 d) : Safety.Keeps [.bsn] d (clearLine a0 a1 d) := by
  unfold clearLine
  extract_lets +onlyGivenNames -underBinder -merge v1
  exact (.step (onBsn_keeps _ _) rfl (.refl _ _))

theorem sfPut_keeps (a0 a1 a2 d) : Safety.Keeps [.bsn] d (sfPut a0 a1 a2 d) := by
  unfold sfPut
  exact (.step (onBsn_keeps _ _) rfl (.refl _ _))

theorem touchWay_keeps (a0 a1 a2 d) : Safety.Keeps [.bsn] d (touchWay a0 a1 a2 d) := by
  unfold touchWay
  extract_lets +onlyGivenNames -underBinder -merge v1
  exact (.step (sfPut_keeps _ _ _ _) rfl (.refl _ _))

theorem onWay_keeps (a0 a1 a2 a3 d) : Safety.Keeps [.bsn] d (onWay a0 a1 a2 a3 d) := by
  unfold onWay
  extract_lets +onlyGivenNames -underBinder -merge v1
  exact (.step (sfPut_keeps _ _ _ _) rfl (.refl _ _))

theorem recordIn_keeps (a0 a1 a2 a3 a4 a5 d) : Safety.Keeps [.bsn] d (recordIn a0 a1 a2 a3 a4 a5 d) := by
  unfold recordIn
  exact (.step (onWay_keeps _ _ _ _ _) rfl (.refl _ _))

theorem enterRecord_keeps (a0 a1 a2 d) : Safety.Keeps [.bsn] d (enterRecord a0 a1 a2 d) := by
  unfold enterRecord
  split
  · exact (.refl _ _)
  · exact (.step (touchWay_keeps _ _ _ _) rfl (.step (recordIn_keeps _ _ _ _ _ _ _) rfl (.refl _ _)))

theorem clearSlot_keeps (a0 d) : Safety.Keeps [.bsn] d (clearSlot a0 d) := by
  unfold clearSlot
  exact (.step (onBsn_keeps _ _) rfl (.refl _ _))

theorem clearAllResv_keeps (d) : Safety.Keeps [.bsn] d (clearAllResv d) := by
  unfold clearAllResv
  exact (.step (onBsn_keeps _ _) rfl (.refl _ _))

end Sys2Proof.Machine
end

