-- ==== Sys2Proof/Laws/FrameTxn.lean ====
section
/-!
SUPPORT. What each definition of Machine/Txn.lean leaves alone: one lemma per definition, cited and not unfolded.
-/
namespace Sys2Proof.Machine
open Sys2Proof Sys2Proof.Safety.Keeps

theorem retireCidx_keeps (a0 d) : Safety.Keeps [.regs, .glb, .svc, .fab, .bsn, .twn, .obs] d (retireCidx a0 d) := by
  unfold retireCidx
  extract_lets +onlyGivenNames -underBinder -merge v1
  have h1 : Safety.Keeps [.regs, .glb, .svc, .fab, .bsn, .twn, .obs] d v1 := (.step (onTwn_keeps _ _) rfl (.refl _ _))
  exact (.ite (.step (mirSend_keeps _ _) rfl h1) h1)

theorem sweepRetires_keeps (d) : Safety.Keeps [.regs, .glb, .svc, .fab, .bsn, .twn, .obs] d (sweepRetires d) := by
  unfold sweepRetires
  exact (.foldl (.refl _ _) fun x1 _ h1 => (.step (retireCidx_keeps _ _) rfl h1))

theorem protoError_keeps (a0 a1 a2 a3 a4 d) : Safety.Keeps [.regs, .glb, .svc, .fab, .obs, .plain] d (protoError a0 a1 a2 a3 a4 d) := by
  unfold protoError
  extract_lets +onlyGivenNames -underBinder -merge v1
  have h1 : Safety.Keeps [.regs, .glb, .svc, .fab, .obs, .plain] d v1 := (.step (setF_keeps _ _ _) rfl (.step (setF_keeps _ _ _) rfl (.step (setF_keeps _ _ _) rfl (.refl _ _))))
  extract_lets +onlyGivenNames -underBinder -merge v2
  have h2 : Safety.Keeps [.regs, .glb, .svc, .fab, .obs, .plain] d v2 := (.step (setF_keeps _ _ _) rfl (.step (setF_keeps _ _ _) rfl (.step (setB_keeps _ _ _) rfl h1)))
  exact (.step (raiseN_keeps _ _ _) rfl (.step (setB_keeps _ _ _) rfl h2))

theorem putT_keeps (a0 a1 d) : Safety.Keeps [.bsn] d (putT a0 a1 d) := by
  unfold putT
  exact (.step (onBsn_keeps _ _) rfl (.refl _ _))

theorem onT_keeps (a0 a1 d) : Safety.Keeps [.bsn] d (onT a0 a1 d) := by
  unfold onT
  exact (.ite (.step (putT_keeps _ _ _) rfl (.refl _ _)) (.refl _ _))

theorem sendUpd_keeps (a0 a1 d) : Safety.Keeps [.regs, .glb, .svc, .fab, .bsn, .twn, .obs] d (sendUpd a0 a1 d) := by
  unfold sendUpd
  exact (.ite (.step (mirSendFor_keeps _ _ _) rfl (.refl _ _)) (.refl _ _))

theorem walkLost_keeps (a0 d) : Safety.Keeps [.regs, .glb, .svc, .fab, .bsn, .obs] d (walkLost a0 d) := by
  unfold walkLost
  split
  · exact (.refl _ _)
  · extract_lets +onlyGivenNames -underBinder -merge v3
    have h3 : Safety.Keeps [.regs, .glb, .svc, .fab, .bsn, .obs] d v3 := (.step (onBsn_keeps _ _) rfl (.refl _ _))
    exact (.ite (.step (raiseN_keeps _ _ _) rfl h3) h3)

theorem markLost_keeps (a0 a1 d) : Safety.Keeps [.regs, .glb, .svc, .fab, .bsn, .ntr, .slu, .twn, .obs, .plain] d (markLost a0 a1 d) := by
  unfold markLost
  extract_lets +onlyGivenNames -underBinder -merge v1
  refine .ite ?_ ?_
  · try dsimp -zeta -iota -proj only [v1]
    exact (.step (onBsn_keeps _ _) rfl (.refl _ _))
  · split
    · try dsimp -zeta -iota -proj only [v1]
      exact (.step (onBsn_keeps _ _) rfl (.refl _ _))
    · rename_i y3 e4
      have h4 : Safety.Keeps [.regs, .glb, .svc, .fab, .bsn, .ntr, .slu, .twn, .obs, .plain] d y3 := .step (allocFrame_keeps _ _ e4) rfl (.refl _ _)
      extract_lets +onlyGivenNames -underBinder -merge v5
      extract_lets +onlyGivenNames -underBinder -merge v6
      extract_lets +onlyGivenNames -underBinder -merge v7
      have h7 : Safety.Keeps [.regs, .glb, .svc, .fab, .bsn, .ntr, .slu, .twn, .obs, .plain] d v7 := (.step (onBsn_keeps _ _) rfl h4)
      extract_lets +onlyGivenNames -underBinder -merge v8
      have h8 : Safety.Keeps [.regs, .glb, .svc, .fab, .bsn, .ntr, .slu, .twn, .obs, .plain] d v8 := (.step (clearLine_keeps _ _ _) rfl (.step (enterRecord_keeps _ _ _ _) rfl (.step (poisonLine_keeps _ _) rfl h7)))
      extract_lets +onlyGivenNames -underBinder -merge v9
      extract_lets +onlyGivenNames -underBinder -merge v10
      have h10 : Safety.Keeps [.regs, .glb, .svc, .fab, .bsn, .ntr, .slu, .twn, .obs, .plain] d v10 := (.ite h8 (.step (onT_keeps _ _ _) rfl h8))
      extract_lets +onlyGivenNames -underBinder -merge v11
      have h11 : Safety.Keeps [.regs, .glb, .svc, .fab, .bsn, .ntr, .slu, .twn, .obs, .plain] d v11 := (.step (sendUpd_keeps _ _ _) rfl h10)
      extract_lets +onlyGivenNames -underBinder -merge v12
      have h12 : Safety.Keeps [.regs, .glb, .svc, .fab, .bsn, .ntr, .slu, .twn, .obs, .plain] d v12 := (.ite h11 (.step (ledDetail_keeps _ _ _ _) rfl h11))
      exact (.ite (.step (walkLost_keeps _ _) rfl (.step (setPair_keeps _ _ _ _) rfl h12)) h12)

theorem stampFirst_keeps (a0 a1 d) : Safety.Keeps [.obs] d (stampFirst a0 a1 d) := by
  unfold stampFirst
  split
  · exact (.refl _ _)
  · exact (.ite (.refl _ _) (.step (stamp_keeps _ _ _) rfl (.refl _ _)))

theorem snoopAgent_keeps (a0 a1 a2 a3 d) : Safety.Keeps [.regs, .glb, .svc, .fab, .bsn, .obs] d (snoopAgent a0 a1 a2 a3 d) := by
  unfold snoopAgent
  split
  · exact (.refl _ _)
  · extract_lets +onlyGivenNames -underBinder -merge v4
    extract_lets +onlyGivenNames -underBinder -merge v5
    extract_lets +onlyGivenNames -underBinder -merge v6
    have h6 : Safety.Keeps [.regs, .glb, .svc, .fab, .bsn, .obs] d v6 := (.step (stampFirst_keeps _ _ _) rfl (.step (onT_keeps _ _ _) rfl (.refl _ _)))
    exact (.step (sendLcf_keeps _ _ _) rfl (.step (count_keeps _ _) rfl h6))

theorem biAct_keeps (a0 d) : Safety.Keeps [.regs, .glb, .svc, .fab, .bsn, .obs] d (biAct a0 d) := by
  unfold biAct
  extract_lets +onlyGivenNames -underBinder -merge v1
  extract_lets +onlyGivenNames -underBinder -merge v2
  extract_lets +onlyGivenNames -underBinder -merge v3
  extract_lets +onlyGivenNames -underBinder -merge v4
  have h4 : Safety.Keeps [.regs, .glb, .svc, .fab, .bsn, .obs] d v4 := (.step (onT_keeps _ _ _) rfl (.refl _ _))
  extract_lets +onlyGivenNames -underBinder -merge v5
  exact (.foldl h4 fun x6 _ h6 => (.step (snoopAgent_keeps _ _ _ _ _) rfl h6))

theorem countLeaf_keeps (a0 d) : Safety.Keeps [.med] d (countLeaf a0 d) := by
  unfold countLeaf
  exact (.set_med rfl (.refl _ _))

theorem releaseWay_keeps (a0 d) : Safety.Keeps [.bsn] d (releaseWay a0 d) := by
  unfold releaseWay
  split
  · exact (.refl _ _)
  · exact (.step (onWay_keeps _ _ _ _ _) rfl (.refl _ _))

theorem noteCause_keeps (a0 a1 d) : Safety.Keeps [.bsn] d (noteCause a0 a1 d) := by
  unfold noteCause
  exact (.step (onT_keeps _ _ _) rfl (.refl _ _))

theorem readWalk_keeps (a0 a1 d) : Safety.Keeps [.regs, .glb, .svc, .fab, .bsn, .slu, .obs] d (readWalk a0 a1 d) := by
  unfold readWalk
  exact (.ite (.step (treeWalk_keeps _ _) rfl (.refl _ _)) (.step (noteCause_keeps _ _ _) rfl (.refl _ _)))

theorem capWaits_keeps (d) : Safety.Keeps [.bsn] d (capWaits d) := by
  unfold capWaits
  exact (.step (onBsn_keeps _ _) rfl (.refl _ _))

theorem commitResv_keeps (a0 d) : Safety.Keeps [.bsn] d (commitResv a0 d) := by
  unfold commitResv
  extract_lets +onlyGivenNames -underBinder -merge v1
  extract_lets +onlyGivenNames -underBinder -merge v2
  split
  · exact (.ite (.refl _ _) (.step (clearLine_keeps _ _ _) rfl (.refl _ _)))
  · exact (.ite (.refl _ _) (.step (clearLine_keeps _ _ _) rfl (.refl _ _)))
  · exact (.ite (.refl _ _) (.step (clearLine_keeps _ _ _) rfl (.refl _ _)))
  · exact (.ite (.step (clearLine_keeps _ _ _) rfl (.refl _ _)) (.refl _ _))
  · exact (.ite (.step (clearLine_keeps _ _ _) rfl (.refl _ _)) (.refl _ _))
  · exact (.ite (.step (clearLine_keeps _ _ _) rfl (.refl _ _)) (.refl _ _))
  · exact (.ite (.step (onBsn_keeps _ _) rfl (.refl _ _)) (.refl _ _))
  · exact (.refl _ _)

theorem sendFwdRel_keeps (a0 a1 d) : Safety.Keeps [.regs, .glb, .svc, .fab, .obs] d (sendFwdRel a0 a1 d) := by
  unfold sendFwdRel
  split
  · exact (.refl _ _)
  · exact (.step (sendLcf_keeps _ _ _) rfl (.refl _ _))

theorem sendHome_keeps (a0 a1 a2 a3 a4 a5 a6 d) : Safety.Keeps [.regs, .glb, .svc, .fab, .obs] d (sendHome a0 a1 a2 a3 a4 a5 a6 d) := by
  unfold sendHome
  exact (.step (sendLcf_keeps _ _ _) rfl (.refl _ _))

theorem sendCmp_keeps (a0 a1 a2 a3 a4 a5 d) : Safety.Keeps [.regs, .glb, .svc, .fab, .bsn, .obs] d (sendCmp a0 a1 a2 a3 a4 a5 d) := by
  unfold sendCmp
  extract_lets +onlyGivenNames -underBinder -merge v1
  have h1 : Safety.Keeps [.regs, .glb, .svc, .fab, .bsn, .obs] d v1 := (.ite (.refl _ _) (.step (clearSlot_keeps _ _) rfl (.refl _ _)))
  exact (.step (sendLcf_keeps _ _ _) rfl h1)

theorem checkBound_keeps (a0 d) : Safety.Keeps [.regs, .glb, .svc, .fab, .obs, .plain] d (checkBound a0 d) := by
  unfold checkBound
  extract_lets +onlyGivenNames -underBinder -merge v1
  refine .ite ?_ ?_
  · exact (.refl _ _)
  · extract_lets +onlyGivenNames -underBinder -merge v2
    extract_lets +onlyGivenNames -underBinder -merge v3
    have h3 : Safety.Keeps [.regs, .glb, .svc, .fab, .obs, .plain] d v3 := (.step (setPair_keeps _ _ _ _) rfl (.refl _ _))
    extract_lets +onlyGivenNames -underBinder -merge v4
    have h4 : Safety.Keeps [.regs, .glb, .svc, .fab, .obs, .plain] d v4 := (.step (setF_keeps _ _ _) rfl (.step (setF_keeps _ _ _) rfl h3))
    extract_lets +onlyGivenNames -underBinder -merge v5
    have h5 : Safety.Keeps [.regs, .glb, .svc, .fab, .obs, .plain] d v5 := (.step (setF_keeps _ _ _) rfl (.step (setF_keeps _ _ _) rfl h4))
    extract_lets +onlyGivenNames -underBinder -merge v6
    have h6 : Safety.Keeps [.regs, .glb, .svc, .fab, .obs, .plain] d v6 := (.step (setF_keeps _ _ _) rfl (.step (setF_keeps _ _ _) rfl (.step (setB_keeps _ _ _) rfl h5)))
    extract_lets +onlyGivenNames -underBinder -merge v7
    extract_lets +onlyGivenNames -underBinder -merge v8
    have h8 : Safety.Keeps [.regs, .glb, .svc, .fab, .obs, .plain] d v8 := (.step (raiseOnce_keeps _ _ _ _) rfl h6)
    refine .ite ?_ ?_
    · extract_lets +onlyGivenNames -underBinder -merge v9
      have h9 : Safety.Keeps [.regs, .glb, .svc, .fab, .obs, .plain] d v9 := (.step (raiseOnce_keeps _ _ _ _) rfl (.step (addSat_keeps _ _ _) rfl h8))
      exact (.step (ledDetail_keeps _ _ _ _) rfl h9)
    · exact h8

theorem endT_keeps (a0 d) : Safety.Keeps [.bsn] d (endT a0 d) := by
  unfold endT
  exact (.step (onBsn_keeps _ _) rfl (.refl _ _))

theorem biEnds_keeps (a0 d) : Safety.Keeps [.bsn] d (biEnds a0 d) := by
  unfold biEnds
  extract_lets +onlyGivenNames -underBinder -merge v1
  extract_lets +onlyGivenNames -underBinder -merge v2
  extract_lets +onlyGivenNames -underBinder -merge v3
  extract_lets +onlyGivenNames -underBinder -merge v4
  extract_lets +onlyGivenNames -underBinder -merge v5
  extract_lets +onlyGivenNames -underBinder -merge v6
  refine .ite ?_ ?_
  · exact (.refl _ _)
  · split
    · exact (.refl _ _)
    · exact (.step (sfPut_keeps _ _ _ _) rfl (.refl _ _))

theorem commitT_keeps (a0 d) : Safety.Keeps [.regs, .glb, .svc, .sch, .fab, .bsn, .twn, .obs, .plain] d (commitT a0 d) := by
  unfold commitT
  extract_lets +onlyGivenNames -underBinder -merge v1
  extract_lets +onlyGivenNames -underBinder -merge v2
  extract_lets +onlyGivenNames -underBinder -merge v3
  extract_lets +onlyGivenNames -underBinder -merge v4
  have h4 : Safety.Keeps [.regs, .glb, .svc, .sch, .fab, .bsn, .twn, .obs, .plain] d v4 := (.ite (.step (onBsn_keeps _ _) rfl (.refl _ _)) (.refl _ _))
  extract_lets +onlyGivenNames -underBinder -merge v5
  have h5 : Safety.Keeps [.regs, .glb, .svc, .sch, .fab, .bsn, .twn, .obs, .plain] d v5 := (.step (commitResv_keeps _ _) rfl (.step (stamp_keeps _ _ _) rfl h4))
  extract_lets +onlyGivenNames -underBinder -merge v6
  have h6 : Safety.Keeps [.regs, .glb, .svc, .sch, .fab, .bsn, .twn, .obs, .plain] d v6 := (.foldl h5 fun x7 _ h7 => (.step (sendFwdRel_keeps _ _ _) rfl h7))
  extract_lets +onlyGivenNames -underBinder -merge v8
  have h8 : Safety.Keeps [.regs, .glb, .svc, .sch, .fab, .bsn, .twn, .obs, .plain] d v8 := (.ite (.step (sendHome_keeps _ _ _ _ _ _ _ _) rfl h6) h6)
  extract_lets +onlyGivenNames -underBinder -merge v9
  have h9 : Safety.Keeps [.regs, .glb, .svc, .sch, .fab, .bsn, .twn, .obs, .plain] d v9 := (.ite h8 (.step (sendCmp_keeps _ _ _ _ _ _ _) rfl h8))
  extract_lets +onlyGivenNames -underBinder -merge v10
  have h10 : Safety.Keeps [.regs, .glb, .svc, .sch, .fab, .bsn, .twn, .obs, .plain] d v10 := (.ite (.ite (.step (dropTag_keeps _ _) rfl h6) h6) (.step (checkBound_keeps _ _) rfl h9))
  extract_lets +onlyGivenNames -underBinder -merge v11
  have h11 : Safety.Keeps [.regs, .glb, .svc, .sch, .fab, .bsn, .twn, .obs, .plain] d v11 := by
      dsimp -zeta -iota -proj only [v11]
      split
      · exact h10
      · exact (.step (onTwn_keeps _ _) rfl h10)
  extract_lets +onlyGivenNames -underBinder -merge v14
  have h14 : Safety.Keeps [.regs, .glb, .svc, .sch, .fab, .bsn, .twn, .obs, .plain] d v14 := (.step (releaseWindows_keeps _ _) rfl h11)
  extract_lets +onlyGivenNames -underBinder -merge v15
  have h15 : Safety.Keeps [.regs, .glb, .svc, .sch, .fab, .bsn, .twn, .obs, .plain] d v15 := (.ite (.step (raiseN_keeps _ _ _) rfl (.step (onT_keeps _ _ _) rfl h14)) (.step (endT_keeps _ _) rfl h14))
  extract_lets +onlyGivenNames -underBinder -merge v16
  have h16 : Safety.Keeps [.regs, .glb, .svc, .sch, .fab, .bsn, .twn, .obs, .plain] d v16 := (.ite (.step (biEnds_keeps _ _) rfl h15) h15)
  exact (.step (sweepRetires_keeps _) rfl h16)

theorem commitSweepN_keeps (a0 d) :
    Safety.Keeps [.regs, .glb, .svc, .sch, .fab, .bsn, .twn, .obs, .plain] d (commitSweepN a0 d) := by
  induction a0 generalizing d with
  | zero => exact .refl _ _
  | succ n ih =>
    unfold commitSweepN
    split
    · exact .refl _ _
    · exact .step (ih _) rfl (.step (commitT_keeps _ _) rfl (.refl _ _))

theorem commitSweep_keeps (d) : Safety.Keeps [.regs, .glb, .svc, .sch, .fab, .bsn, .twn, .obs, .plain] d (commitSweep d) := by
  unfold commitSweep
  exact (.step (capWaits_keeps _) rfl (.step (commitSweepN_keeps _ _) rfl (.refl _ _)))

theorem finishT_keeps (a0 a1 a2 d) : Safety.Keeps [.regs, .glb, .svc, .sch, .fab, .bsn, .ntr, .med, .slu, .twn, .obs, .plain] d (finishT a0 a1 a2 d) := by
  unfold finishT
  extract_lets +onlyGivenNames -underBinder -merge v1
  extract_lets +onlyGivenNames -underBinder -merge v2
  extract_lets +onlyGivenNames -underBinder -merge v3
  extract_lets +onlyGivenNames -underBinder -merge v4
  extract_lets +onlyGivenNames -underBinder -merge v5
  have h5 : Safety.Keeps [.regs, .glb, .svc, .sch, .fab, .bsn, .ntr, .med, .slu, .twn, .obs, .plain] d v5 := (.ite (.step (countLeaf_keeps _ _) rfl (.refl _ _)) (.refl _ _))
  extract_lets +onlyGivenNames -underBinder -merge v6
  have h6 : Safety.Keeps [.regs, .glb, .svc, .sch, .fab, .bsn, .ntr, .med, .slu, .twn, .obs, .plain] d v6 := by
      dsimp -zeta -iota -proj only [v6]
      split
      · exact h5
      · exact (.step (fullWrite_keeps _ _ _) rfl h5)
  extract_lets +onlyGivenNames -underBinder -merge v9
  have h9 : Safety.Keeps [.regs, .glb, .svc, .sch, .fab, .bsn, .ntr, .med, .slu, .twn, .obs, .plain] d v9 := by
      dsimp -zeta -iota -proj only [v9]
      split
      · exact h6
      · exact (.step (mergeWrite_keeps _ _ _ _) rfl h6)
  extract_lets +onlyGivenNames -underBinder -merge v12
  have h12 : Safety.Keeps [.regs, .glb, .svc, .sch, .fab, .bsn, .ntr, .med, .slu, .twn, .obs, .plain] d v12 := by
      dsimp -zeta -iota -proj only [v12]
      split
      · exact h9
      · exact (.step (enterRecord_keeps _ _ _ _) rfl h9)
  extract_lets +onlyGivenNames -underBinder -merge v15
  have h15 : Safety.Keeps [.regs, .glb, .svc, .sch, .fab, .bsn, .ntr, .med, .slu, .twn, .obs, .plain] d v15 := (.step (releaseWay_keeps _ _) rfl h12)
  extract_lets +onlyGivenNames -underBinder -merge v16
  have h16 : Safety.Keeps [.regs, .glb, .svc, .sch, .fab, .bsn, .ntr, .med, .slu, .twn, .obs, .plain] d v16 := (.ite (.step (readWalk_keeps _ _ _) rfl h15) h15)
  extract_lets +onlyGivenNames -underBinder -merge v17
  have h17 : Safety.Keeps [.regs, .glb, .svc, .sch, .fab, .bsn, .ntr, .med, .slu, .twn, .obs, .plain] d v17 := by
      dsimp -zeta -iota -proj only [v17]
      split
      · exact h16
      · exact (.step (onTwn_keeps _ _) rfl h16)
  extract_lets +onlyGivenNames -underBinder -merge v20
  have h20 : Safety.Keeps [.regs, .glb, .svc, .sch, .fab, .bsn, .ntr, .med, .slu, .twn, .obs, .plain] d v20 := (.step (onT_keeps _ _ _) rfl h17)
  extract_lets +onlyGivenNames -underBinder -merge v21
  have h21 : Safety.Keeps [.regs, .glb, .svc, .sch, .fab, .bsn, .ntr, .med, .slu, .twn, .obs, .plain] d v21 := (.ite (.step (stamp_keeps _ _ _) rfl (.step (sendUpd_keeps _ _ _) rfl h20)) h20)
  exact (.step (commitSweep_keeps _) rfl h21)

theorem biStep_keeps (a0 d) : Safety.Keeps [.regs, .glb, .svc, .sch, .fab, .bsn, .ntr, .med, .slu, .twn, .obs, .plain] d (biStep a0 d) := by
  unfold biStep
  extract_lets +onlyGivenNames -underBinder -merge v1
  extract_lets +onlyGivenNames -underBinder -merge v2
  refine .ite ?_ ?_
  · exact (.refl _ _)
  · extract_lets +onlyGivenNames -underBinder -merge v3
    have h3 : Safety.Keeps [.regs, .glb, .svc, .sch, .fab, .bsn, .ntr, .med, .slu, .twn, .obs, .plain] d v3 := (.ite (.step (markLost_keeps _ _ _) rfl (.refl _ _)) (.refl _ _))
    refine .ite ?_ ?_
    · exact h3
    · extract_lets +onlyGivenNames -underBinder -merge v4
      have h4 : Safety.Keeps [.regs, .glb, .svc, .sch, .fab, .bsn, .ntr, .med, .slu, .twn, .obs, .plain] d v4 := (.step (biAct_keeps _ _) rfl h3)
      exact (.ite (.step (finishT_keeps _ _ _ _) rfl h4) h4)

theorem startBi_keeps (a0 a1 d) : Safety.Keeps [.regs, .glb, .svc, .sch, .fab, .bsn, .ntr, .med, .slu, .twn, .obs, .plain] d (startBi a0 a1 d) := by
  unfold startBi
  split
  · exact (.step (onBsn_keeps _ _) rfl (.refl _ _))
  · extract_lets +onlyGivenNames -underBinder -merge v3
    extract_lets +onlyGivenNames -underBinder -merge v4
    have h4 : Safety.Keeps [.regs, .glb, .svc, .sch, .fab, .bsn, .ntr, .med, .slu, .twn, .obs, .plain] d v4 := (.step (putT_keeps _ _ _) rfl (.step (onBsn_keeps _ _) rfl (.step (count_keeps _ _) rfl (.refl _ _))))
    exact (.ite (.step (biStep_keeps _ _) rfl h4) h4)

theorem takeWay_keeps (a0 d) : Safety.Keeps [.regs, .glb, .svc, .sch, .fab, .bsn, .ntr, .med, .slu, .twn, .obs, .plain] d (takeWay a0 d) := by
  unfold takeWay
  extract_lets +onlyGivenNames -underBinder -merge v1
  extract_lets +onlyGivenNames -underBinder -merge v2
  extract_lets +onlyGivenNames -underBinder -merge v3
  extract_lets +onlyGivenNames -underBinder -merge v4
  extract_lets +onlyGivenNames -underBinder -merge v5
  extract_lets +onlyGivenNames -underBinder -merge v6
  extract_lets +onlyGivenNames -underBinder -merge v7
  extract_lets +onlyGivenNames -underBinder -merge v8
  extract_lets +onlyGivenNames -underBinder -merge v9
  extract_lets +onlyGivenNames -underBinder -merge v10
  split
  · refine .ite ?_ ?_
    · exact (.refl _ _)
    · try dsimp -zeta -iota -proj only [v10]
      extract_lets +onlyGivenNames -underBinder -merge v12
      have h12 : Safety.Keeps [.regs, .glb, .svc, .sch, .fab, .bsn, .ntr, .med, .slu, .twn, .obs, .plain] d v12 := (.step (onWay_keeps _ _ _ _ _) rfl (.refl _ _))
      exact (.step (touchWay_keeps _ _ _ _) rfl (.step (onT_keeps _ _ _) rfl h12))
  · refine .ite ?_ ?_
    · try dsimp -zeta -iota -proj only [v9]
      exact (.ite (.refl _ _) (.step (count_keeps _ _) rfl (.step (onT_keeps _ _ _) rfl (.refl _ _))))
    · split
      · try dsimp -zeta -iota -proj only [v10]
        extract_lets +onlyGivenNames -underBinder -merge v15
        have h15 : Safety.Keeps [.regs, .glb, .svc, .sch, .fab, .bsn, .ntr, .med, .slu, .twn, .obs, .plain] d v15 := (.step (onWay_keeps _ _ _ _ _) rfl (.refl _ _))
        exact (.step (touchWay_keeps _ _ _ _) rfl (.step (onT_keeps _ _ _) rfl h15))
      · refine .ite ?_ ?_
        · try dsimp -zeta -iota -proj only [v9]
          exact (.ite (.refl _ _) (.step (count_keeps _ _) rfl (.step (onT_keeps _ _ _) rfl (.refl _ _))))
        · split
          · try dsimp -zeta -iota -proj only [v9]
            exact (.ite (.refl _ _) (.step (count_keeps _ _) rfl (.step (onT_keeps _ _ _) rfl (.refl _ _))))
          · extract_lets +onlyGivenNames -underBinder -merge v19
            extract_lets +onlyGivenNames -underBinder -merge v20
            have h20 : Safety.Keeps [.regs, .glb, .svc, .sch, .fab, .bsn, .ntr, .med, .slu, .twn, .obs, .plain] d v20 := (.step (onT_keeps _ _ _) rfl (.step (onWay_keeps _ _ _ _ _) rfl (.refl _ _)))
            exact (.foldl h20 fun x21 _ h21 => (.step (startBi_keeps _ _ _) rfl h21))

theorem mergePoisoned_keeps (a0 d) : Safety.Keeps [.regs, .glb, .svc, .fab, .bsn, .ntr, .slu, .twn, .obs, .plain] d (mergePoisoned a0 d) := by
  unfold mergePoisoned
  extract_lets +onlyGivenNames -underBinder -merge v1
  extract_lets +onlyGivenNames -underBinder -merge v2
  extract_lets +onlyGivenNames -underBinder -merge v3
  have h3 : Safety.Keeps [.regs, .glb, .svc, .fab, .bsn, .ntr, .slu, .twn, .obs, .plain] d v3 := (.step (raiseN_keeps _ _ _) rfl (.step (setB_keeps _ _ _) rfl (.step (markLost_keeps _ _ _) rfl (.refl _ _))))
  extract_lets +onlyGivenNames -underBinder -merge v4
  have h4 : Safety.Keeps [.regs, .glb, .svc, .fab, .bsn, .ntr, .slu, .twn, .obs, .plain] d v4 := (.ite (.step (ledDetail_keeps _ _ _ _) rfl h3) h3)
  exact (.step (onT_keeps _ _ _) rfl h4)

theorem askLine_keeps (a0 d) : Safety.Keeps [.regs, .glb, .svc, .fab, .bsn, .twn, .obs] d (askLine a0 d) := by
  unfold askLine
  extract_lets +onlyGivenNames -underBinder -merge v1
  exact (.ite (.refl _ _) (.ite (.step (onTwn_keeps _ _) rfl (.refl _ _)) (.step (mirSend_keeps _ _) rfl (.step (onTwn_keeps _ _) rfl (.refl _ _)))))

theorem waitT_keeps (a0 a1 d) : Safety.Keeps [.regs, .glb, .svc, .fab, .bsn, .obs, .plain] d (waitT a0 a1 d) := by
  unfold waitT
  extract_lets +onlyGivenNames -underBinder -merge v1
  refine .ite ?_ ?_
  · exact (.refl _ _)
  · extract_lets +onlyGivenNames -underBinder -merge v2
    have h2 : Safety.Keeps [.regs, .glb, .svc, .fab, .bsn, .obs, .plain] d v2 := (.step (onT_keeps _ _ _) rfl (.refl _ _))
    split
    · exact (.step (raiseN_keeps _ _ _) rfl (.step (noteCause_keeps _ _ _) rfl h2))
    · exact (.step (raiseN_keeps _ _ _) rfl (.step (setB_keeps _ _ _) rfl h2))
    · exact h2

theorem progress_keeps (a0 d) :
    Safety.Keeps [.regs, .glb, .svc, .sch, .fab, .bsn, .ntr, .med, .slu, .twn, .obs, .plain] d (progress a0 d) := by
  unfold progress
  extract_lets +onlyGivenNames -underBinder -merge v1 v2
  refine .ite (.refl _ _) ?_
  extract_lets +onlyGivenNames -underBinder -merge v3
  refine .ite (.refl _ _) (.ite (.step (takeWay_keeps _ _) rfl (.refl _ _)) (.ite ?_ (.ite ?_ ?_)))
  · have h : Safety.Keeps [.regs, .glb, .svc, .sch, .fab, .bsn, .ntr, .med, .slu, .twn, .obs, .plain] d
        (setB F.SLU_ERR_LINE_TAG true (onT a0 (fun t => { t with stage := 3 }) (count 0x9000 d))) :=
      (.step (setB_keeps _ _ _) rfl (.step (onT_keeps _ _ _) rfl (.step (count_keeps _ _) rfl (.refl _ _))))
    exact .ite (.step (mergePoisoned_keeps _ _) rfl h) (.step (askLine_keeps _ _) rfl h)
  · exact (.step (waitT_keeps _ _ _) rfl (.refl _ _))
  · extract_lets +onlyGivenNames -underBinder -merge v4
    generalize hv : v4 = w
    split
    · exact (.step (waitT_keeps _ _ _) rfl (.refl _ _))
    · rename_i e
      have h : Safety.Keeps [.regs, .glb, .svc, .sch, .fab, .bsn, .ntr, .med, .slu, .twn, .obs, .plain] d e := by
        dsimp -zeta -iota -proj only [v4] at hv
        split at hv
        · exact .step (allocFrame_keeps _ _ hv) rfl (.refl _ _)
        · cases hv; exact .refl _ _
      refine .ite (.step (finishT_keeps _ _ _ _) rfl h) ?_
      split
      · exact .step (waitT_keeps _ _ _) rfl h
      · exact .step (finishT_keeps _ _ _ _) rfl (.step (count_keeps _ _) rfl h)

theorem sendPull_keeps (a0 d) : Safety.Keeps [.regs, .glb, .svc, .fab, .bsn, .obs] d (sendPull a0 d) := by
  unfold sendPull
  extract_lets +onlyGivenNames -underBinder -merge v1
  extract_lets +onlyGivenNames -underBinder -merge v2
  have h2 : Safety.Keeps [.regs, .glb, .svc, .fab, .bsn, .obs] d v2 := (.step (stampFirst_keeps _ _ _) rfl (.step (onT_keeps _ _ _) rfl (.refl _ _)))
  exact (.step (sendLcf_keeps _ _ _) rfl h2)

theorem wakeLeaf_keeps (a0 d) : Safety.Keeps [.regs, .glb, .svc, .sch, .fab, .bsn, .ntr, .med, .slu, .twn, .obs, .plain] d (wakeLeaf a0 d) := by
  unfold wakeLeaf
  exact (.foldl (.refl _ _) fun x1 _ h1 => (.step (progress_keeps _ _) rfl h1))

theorem fillArrives_keeps (a0 a1 a2 d) : Safety.Keeps [.regs, .glb, .svc, .sch, .fab, .bsn, .ntr, .med, .slu, .twn, .obs, .plain] d (fillArrives a0 a1 a2 d) := by
  unfold fillArrives
  split
  · exact (.step (waitT_keeps _ _ _) rfl (.step (onT_keeps _ _ _) rfl (.refl _ _)))
  · rename_i y2 e3
    have h3 : Safety.Keeps [.regs, .glb, .svc, .sch, .fab, .bsn, .ntr, .med, .slu, .twn, .obs, .plain] d y2 := .step (allocFrame_keeps _ _ e3) rfl (.refl _ _)
    extract_lets +onlyGivenNames -underBinder -merge v4
    extract_lets +onlyGivenNames -underBinder -merge v5
    have h5 : Safety.Keeps [.regs, .glb, .svc, .sch, .fab, .bsn, .ntr, .med, .slu, .twn, .obs, .plain] d v5 := (.step (installLines_keeps _ _ _ _ _) rfl (.step (readWalk_keeps _ _ _) rfl h3))
    extract_lets +onlyGivenNames -underBinder -merge v6
    have h6 : Safety.Keeps [.regs, .glb, .svc, .sch, .fab, .bsn, .ntr, .med, .slu, .twn, .obs, .plain] d v6 := (.ite (.step (onNtr_keeps _ _) rfl h5) h5)
    extract_lets +onlyGivenNames -underBinder -merge v7
    have h7 : Safety.Keeps [.regs, .glb, .svc, .sch, .fab, .bsn, .ntr, .med, .slu, .twn, .obs, .plain] d v7 := (.step (stamp_keeps _ _ _) rfl (.step (onT_keeps _ _ _) rfl h6))
    exact (.step (wakeLeaf_keeps _ _) rfl h7)

theorem bindRead_keeps (a0 d) : Safety.Keeps [.regs, .glb, .svc, .sch, .fab, .bsn, .twn, .obs] d (bindRead a0 d) := by
  unfold bindRead
  extract_lets +onlyGivenNames -underBinder -merge v1
  extract_lets +onlyGivenNames -underBinder -merge v2
  extract_lets +onlyGivenNames -underBinder -merge v3
  clear_value v3
  split
  · exact (.step (onT_keeps _ _ _) rfl (.refl _ _))
  · exact (.step (bindWindows_keeps _ _) rfl (.step (onT_keeps _ _ _) rfl (.refl _ _)))

theorem actRow_keeps (a0 d) : Safety.Keeps [.regs, .glb, .svc, .sch, .fab, .bsn, .ntr, .med, .slu, .twn, .obs, .plain] d (actRow a0 d) := by
  unfold actRow
  extract_lets +onlyGivenNames -underBinder -merge v1
  extract_lets +onlyGivenNames -underBinder -merge v2
  extract_lets +onlyGivenNames -underBinder -merge v3
  extract_lets +onlyGivenNames -underBinder -merge v4
  extract_lets +onlyGivenNames -underBinder -merge v5
  extract_lets +onlyGivenNames -underBinder -merge v6
  extract_lets +onlyGivenNames -underBinder -merge v7
  extract_lets +onlyGivenNames -underBinder -merge v8
  extract_lets +onlyGivenNames -underBinder -merge v9
  have h9 : Safety.Keeps [.regs, .glb, .svc, .sch, .fab, .bsn, .ntr, .med, .slu, .twn, .obs, .plain] d v9 := (.ite (.step (clearSlot_keeps _ _) rfl (.refl _ _)) (.refl _ _))
  extract_lets +onlyGivenNames -underBinder -merge v10
  have h10 : Safety.Keeps [.regs, .glb, .svc, .sch, .fab, .bsn, .ntr, .med, .slu, .twn, .obs, .plain] d v10 := (.step (onT_keeps _ _ _) rfl (.step (stampFirst_keeps _ _ _) rfl h9))
  extract_lets +onlyGivenNames -underBinder -merge v11
  have h11 : Safety.Keeps [.regs, .glb, .svc, .sch, .fab, .bsn, .ntr, .med, .slu, .twn, .obs, .plain] d v11 := by
      dsimp -zeta -iota -proj only [v11]
      split
      · exact h10
      · exact (.step (touchWay_keeps _ _ _ _) rfl h10)
  extract_lets +onlyGivenNames -underBinder -merge v14
  extract_lets +onlyGivenNames -underBinder -merge v15
  extract_lets +onlyGivenNames -underBinder -merge v16
  extract_lets +onlyGivenNames -underBinder -merge v17
  have h17 : Safety.Keeps [.regs, .glb, .svc, .sch, .fab, .bsn, .ntr, .med, .slu, .twn, .obs, .plain] d v17 := (.ite (.step (sendPull_keeps _ _) rfl h11) h11)
  extract_lets +onlyGivenNames -underBinder -merge v18
  have h18 : Safety.Keeps [.regs, .glb, .svc, .sch, .fab, .bsn, .ntr, .med, .slu, .twn, .obs, .plain] d v18 := (.foldl h17 fun x19 _ h19 => (.step (snoopAgent_keeps _ _ _ _ _) rfl h19))
  extract_lets +onlyGivenNames -underBinder -merge v20
  have h20 : Safety.Keeps [.regs, .glb, .svc, .sch, .fab, .bsn, .ntr, .med, .slu, .twn, .obs, .plain] d v20 := (.ite (.step (onT_keeps _ _ _) rfl h18) h18)
  extract_lets +onlyGivenNames -underBinder -merge v21
  extract_lets +onlyGivenNames -underBinder -merge v22
  have h22 : Safety.Keeps [.regs, .glb, .svc, .sch, .fab, .bsn, .ntr, .med, .slu, .twn, .obs, .plain] d v22 := (.ite (.step (takeWay_keeps _ _) rfl h20) h20)
  extract_lets +onlyGivenNames -underBinder -merge v23
  extract_lets +onlyGivenNames -underBinder -merge v24
  have h24 : Safety.Keeps [.regs, .glb, .svc, .sch, .fab, .bsn, .ntr, .med, .slu, .twn, .obs, .plain] d v24 := (.ite (.ite (.step (fillArrives_keeps _ _ _ _) rfl h22) (.step (bindRead_keeps _ _) rfl h22)) h22)
  exact (.step (progress_keeps _ _) rfl h24)

theorem broadcast_keeps (a0 d) : Safety.Keeps [.regs, .glb, .svc, .fab, .bsn, .obs] d (broadcast a0 d) := by
  unfold broadcast
  extract_lets +onlyGivenNames -underBinder -merge v1
  have h1 : Safety.Keeps [.regs, .glb, .svc, .fab, .bsn, .obs] d v1 := (.step (onT_keeps _ _ _) rfl (.refl _ _))
  extract_lets +onlyGivenNames -underBinder -merge v2
  exact (.foldl h1 fun x3 _ h3 => (.step (snoopAgent_keeps _ _ _ _ _) rfl h3))

theorem act_keeps (a0 d) : Safety.Keeps [.regs, .glb, .svc, .sch, .fab, .bsn, .ntr, .med, .slu, .twn, .obs, .plain] d (act a0 d) := by
  unfold act
  extract_lets +onlyGivenNames -underBinder -merge v1
  extract_lets +onlyGivenNames -underBinder -merge v2
  extract_lets +onlyGivenNames -underBinder -merge v3
  refine .ite ?_ ?_
  · exact (.refl _ _)
  · extract_lets +onlyGivenNames -underBinder -merge v4
    refine .ite ?_ ?_
    · extract_lets +onlyGivenNames -underBinder -merge v5
      have h5 : Safety.Keeps [.regs, .glb, .svc, .sch, .fab, .bsn, .ntr, .med, .slu, .twn, .obs, .plain] d v5 := (.ite (.step (markLost_keeps _ _ _) rfl (.refl _ _)) (.refl _ _))
      exact (.ite h5 (.step (progress_keeps _ _) rfl (.step (biAct_keeps _ _) rfl h5)))
    · refine .ite ?_ ?_
      · extract_lets +onlyGivenNames -underBinder -merge v6
        have h6 : Safety.Keeps [.regs, .glb, .svc, .sch, .fab, .bsn, .ntr, .med, .slu, .twn, .obs, .plain] d v6 := (.step (markLost_keeps _ _ _) rfl (.refl _ _))
        exact (.ite h6 (.step (actRow_keeps _ _) rfl h6))
      · exact (.ite (.step (broadcast_keeps _ _) rfl (.refl _ _)) (.step (actRow_keeps _ _) rfl (.refl _ _)))

theorem afterBroadcast_keeps (a0 d) : Safety.Keeps [.regs, .glb, .svc, .sch, .fab, .bsn, .ntr, .med, .slu, .twn, .obs, .plain] d (afterBroadcast a0 d) := by
  unfold afterBroadcast
  extract_lets +onlyGivenNames -underBinder -merge v1
  extract_lets +onlyGivenNames -underBinder -merge v2
  refine .ite ?_ ?_
  · exact (.refl _ _)
  · split
    · exact (.step (act_keeps _ _) rfl (.step (onT_keeps _ _ _) rfl (.refl _ _)))
    · refine .ite ?_ ?_
      · exact (.step (waitT_keeps _ _ _) rfl (.refl _ _))
      · split
        · exact (.step (waitT_keeps _ _ _) rfl (.refl _ _))
        · rename_i y6 e7
          have h7 : Safety.Keeps [.regs, .glb, .svc, .sch, .fab, .bsn, .ntr, .med, .slu, .twn, .obs, .plain] d y6 := .step (allocFrame_keeps _ _ e7) rfl (.refl _ _)
          extract_lets +onlyGivenNames -underBinder -merge v8
          have h8 : Safety.Keeps [.regs, .glb, .svc, .sch, .fab, .bsn, .ntr, .med, .slu, .twn, .obs, .plain] d v8 := (.step (sendUpd_keeps _ _ _) rfl (.step (fullWrite_keeps _ _ _) rfl h7))
          exact (.step (act_keeps _ _) rfl (.step (onT_keeps _ _ _) rfl h8))

theorem advance_keeps (a0 d) : Safety.Keeps [.regs, .glb, .svc, .sch, .fab, .bsn, .ntr, .med, .slu, .twn, .obs, .plain] d (advance a0 d) := by
  unfold advance
  exact (.ite (.step (afterBroadcast_keeps _ _) rfl (.refl _ _)) (.ite (.step (act_keeps _ _) rfl (.refl _ _)) (.step (progress_keeps _ _) rfl (.refl _ _))))

theorem activate_keeps (a0 d) : Safety.Keeps [.regs, .glb, .svc, .sch, .fab, .bsn, .ntr, .med, .slu, .twn, .obs, .plain] d (activate a0 d) := by
  unfold activate
  split
  · exact (.refl _ _)
  · extract_lets +onlyGivenNames -underBinder -merge v3
    exact (.step (act_keeps _ _) rfl (.step (onBsn_keeps _ _) rfl (.step (onT_keeps _ _ _) rfl (.refl _ _))))

theorem rebindRead_keeps (a0 a1 a2 a3 d) : Safety.Keeps [.regs, .glb, .svc, .sch, .fab, .bsn, .twn, .obs] d (rebindRead a0 a1 a2 a3 d) := by
  unfold rebindRead
  extract_lets +onlyGivenNames -underBinder -merge v1
  split
  · exact (.step (onT_keeps _ _ _) rfl (.refl _ _))
  · extract_lets +onlyGivenNames -underBinder -merge v4
    have h4 : Safety.Keeps [.regs, .glb, .svc, .sch, .fab, .bsn, .twn, .obs] d v4 := (.step (bindWindows_keeps _ _) rfl (.step (onT_keeps _ _ _) rfl (.refl _ _)))
    exact (.ite (.step (resolveOwn_keeps _ _) rfl h4) h4)

end Sys2Proof.Machine
end

