-- ==== Sys2Proof/Laws/FrameBasin.lean ====
section
/-!
SUPPORT. What each definition of Machine/Basin.lean leaves alone: one lemma per definition, cited and not unfolded.
-/
namespace Sys2Proof.Machine
open Sys2Proof Sys2Proof.Safety.Keeps

theorem portError_keeps (a0 a1 a2 a3 d) : Safety.Keeps [.regs, .glb, .svc, .fab, .obs] d (portError a0 a1 a2 a3 d) := by
  unfold portError
  exact (.step (raiseN_keeps _ _ _) rfl (.refl _ _))

theorem giveCredit_keeps (a0 a1 d) : Safety.Keeps [.fab] d (giveCredit a0 a1 d) := by
  unfold giveCredit
  exact (.step (flushLink_keeps _ _) rfl (.step (onLink_keeps _ _ _) rfl (.refl _ _)))

theorem takeCredit_keeps (a0 a1 d) : Safety.Keeps [.fab] d (takeCredit a0 a1 d) := by
  unfold takeCredit
  exact (.step (onLink_keeps _ _ _) rfl (.refl _ _))

theorem reqReceived_keeps (a0 a1 a2 d) : Safety.Keeps [.regs, .glb, .svc, .fab, .bsn, .obs, .plain] d (reqReceived a0 a1 a2 d) := by
  unfold reqReceived
  unfold received
  beta_reduce
  refine .ite ?_ ?_
  · exact (.refl _ _)
  · refine .ite ?_ ?_
    · exact (.step (portError_keeps _ _ _ _ _) rfl (.step (setB_keeps _ _ _) rfl (.refl _ _)))
    · refine .ite ?_ ?_
      · exact (.step (giveCredit_keeps _ _ _) rfl (.step (takeCredit_keeps _ _ _) rfl (.step (portError_keeps _ _ _ _ _) rfl (.step (setB_keeps _ _ _) rfl (.refl _ _)))))
      · refine .ite ?_ ?_
        · split
          · rename_i y1 y2 e3
            have h3 : Safety.Keeps [.regs, .glb, .svc, .fab, .bsn, .obs, .plain] d y2 := .of_snd e3 ((.step (gkTag_keeps _ _ _ _) rfl (.step (takeCredit_keeps _ _ _) rfl (.refl _ _))))
            exact (.step (onBsn_keeps _ _) rfl h3)
        · refine .step (giveCredit_keeps _ _ _) rfl ?_
          split
          · rename_i y4 y5 e6
            have h6 : Safety.Keeps [.regs, .glb, .svc, .fab, .bsn, .obs, .plain] d y5 := .of_snd e6 ((.step (gkTag_keeps _ _ _ _) rfl (.step (takeCredit_keeps _ _ _) rfl (.step (takeCredit_keeps _ _ _) rfl (.refl _ _)))))
            exact (.step (onBsn_keeps _ _) rfl h6)

theorem reservedReq_keeps (a0 a1 d) : Safety.Keeps [.regs, .glb, .svc, .fab, .bsn, .obs, .plain] d (reservedReq a0 a1 d) := by
  unfold reservedReq
  unfold received
  beta_reduce
  exact (.ite (.refl _ _) (.ite (.step (portError_keeps _ _ _ _ _) rfl (.step (setB_keeps _ _ _) rfl (.refl _ _))) (.ite (.step (giveCredit_keeps _ _ _) rfl (.step (takeCredit_keeps _ _ _) rfl (.step (portError_keeps _ _ _ _ _) rfl (.step (setB_keeps _ _ _) rfl (.refl _ _))))) (.ite (.step (onBsn_keeps _ _) rfl (.step (takeCredit_keeps _ _ _) rfl (.refl _ _))) (.step (giveCredit_keeps _ _ _) rfl (.step (onBsn_keeps _ _) rfl (.step (takeCredit_keeps _ _ _) rfl (.step (takeCredit_keeps _ _ _) rfl (.refl _ _)))))))))

theorem snoopDone_keeps (a0 a1 d) : Safety.Keeps [.bsn] d (snoopDone a0 a1 d) := by
  unfold snoopDone
  exact (.step (onT_keeps _ _ _) rfl (.refl _ _))

theorem ownerGone_keeps (a0 a1 d) : Safety.Keeps [.regs, .glb, .svc, .sch, .fab, .bsn, .ntr, .med, .slu, .twn, .obs, .plain] d (ownerGone a0 a1 d) := by
  unfold ownerGone
  extract_lets +onlyGivenNames -underBinder -merge v1
  exact (.step (advance_keeps _ _) rfl (.step (markLost_keeps _ _ _) rfl (.step (onT_keeps _ _ _) rfl (.step (snoopDone_keeps _ _ _) rfl (.refl _ _)))))

theorem snpRsp_keeps (a0 a1 a2 a3 a4 d) : Safety.Keeps [.regs, .glb, .svc, .sch, .fab, .bsn, .ntr, .med, .slu, .twn, .obs, .plain] d (snpRsp a0 a1 a2 a3 a4 d) := by
  unfold snpRsp
  unfold received
  beta_reduce
  refine .ite ?_ ?_
  · exact (.refl _ _)
  · refine .ite ?_ ?_
    · exact (.step (portError_keeps _ _ _ _ _) rfl (.step (setB_keeps _ _ _) rfl (.refl _ _)))
    · refine .ite ?_ ?_
      · exact (.step (giveCredit_keeps _ _ _) rfl (.step (takeCredit_keeps _ _ _) rfl (.step (portError_keeps _ _ _ _ _) rfl (.step (setB_keeps _ _ _) rfl (.refl _ _)))))
      · refine .ite ?_ ?_
        · extract_lets +onlyGivenNames -underBinder -merge v1
          refine .ite ?_ ?_
          · exact (.step (protoError_keeps _ _ _ _ _ _) rfl (.refl _ _))
          · split
            · exact (.step (protoError_keeps _ _ _ _ _ _) rfl (.refl _ _))
            · refine .ite ?_ ?_
              · exact (.step (protoError_keeps _ _ _ _ _ _) rfl (.refl _ _))
              · extract_lets +onlyGivenNames -underBinder -merge v4
                have h4 : Safety.Keeps [.regs, .glb, .svc, .sch, .fab, .bsn, .ntr, .med, .slu, .twn, .obs, .plain] d v4 := (.step (stamp_keeps _ _ _) rfl (.refl _ _))
                refine .ite ?_ ?_
                · exact (.ite (.step (ownerGone_keeps _ _ _) rfl (.step (protoError_keeps _ _ _ _ _ _) rfl h4)) (.step (advance_keeps _ _) rfl (.step (snoopDone_keeps _ _ _) rfl h4)))
                · refine .ite ?_ ?_
                  · exact (.ite (.step (snoopAgent_keeps _ _ _ _ _) rfl (.step (onT_keeps _ _ _) rfl (.step (snoopDone_keeps _ _ _) rfl h4))) (.step (advance_keeps _ _) rfl (.step (snoopDone_keeps _ _ _) rfl h4)))
                  · extract_lets +onlyGivenNames -underBinder -merge v5
                    have h5 : Safety.Keeps [.regs, .glb, .svc, .sch, .fab, .bsn, .ntr, .med, .slu, .twn, .obs, .plain] d v5 := (.ite (.step (onT_keeps _ _ _) rfl h4) h4)
                    exact (.ite (.step (advance_keeps _ _) rfl (.step (snoopDone_keeps _ _ _) rfl h5)) (.step (onT_keeps _ _ _) rfl h5))
        · refine .step (giveCredit_keeps _ _ _) rfl ?_
          extract_lets +onlyGivenNames -underBinder -merge v6
          refine .ite ?_ ?_
          · exact (.step (protoError_keeps _ _ _ _ _ _) rfl (.step (takeCredit_keeps _ _ _) rfl (.refl _ _)))
          · split
            · exact (.step (protoError_keeps _ _ _ _ _ _) rfl (.step (takeCredit_keeps _ _ _) rfl (.refl _ _)))
            · refine .ite ?_ ?_
              · exact (.step (protoError_keeps _ _ _ _ _ _) rfl (.step (takeCredit_keeps _ _ _) rfl (.refl _ _)))
              · extract_lets +onlyGivenNames -underBinder -merge v9
                have h9 : Safety.Keeps [.regs, .glb, .svc, .sch, .fab, .bsn, .ntr, .med, .slu, .twn, .obs, .plain] d v9 := (.step (stamp_keeps _ _ _) rfl (.step (takeCredit_keeps _ _ _) rfl (.refl _ _)))
                refine .ite ?_ ?_
                · exact (.ite (.step (ownerGone_keeps _ _ _) rfl (.step (protoError_keeps _ _ _ _ _ _) rfl h9)) (.step (advance_keeps _ _) rfl (.step (snoopDone_keeps _ _ _) rfl h9)))
                · refine .ite ?_ ?_
                  · exact (.ite (.step (snoopAgent_keeps _ _ _ _ _) rfl (.step (onT_keeps _ _ _) rfl (.step (snoopDone_keeps _ _ _) rfl h9))) (.step (advance_keeps _ _) rfl (.step (snoopDone_keeps _ _ _) rfl h9)))
                  · extract_lets +onlyGivenNames -underBinder -merge v10
                    have h10 : Safety.Keeps [.regs, .glb, .svc, .sch, .fab, .bsn, .ntr, .med, .slu, .twn, .obs, .plain] d v10 := (.ite (.step (onT_keeps _ _ _) rfl h9) h9)
                    exact (.ite (.step (advance_keeps _ _) rfl (.step (snoopDone_keeps _ _ _) rfl h10)) (.step (onT_keeps _ _ _) rfl h10))

theorem dataWr_keeps (a0 a1 a2 a3 a4 a5 d) : Safety.Keeps [.regs, .glb, .svc, .sch, .fab, .bsn, .ntr, .med, .slu, .twn, .obs, .plain] d (dataWr a0 a1 a2 a3 a4 a5 d) := by
  unfold dataWr
  unfold received
  beta_reduce
  refine .ite ?_ ?_
  · exact (.refl _ _)
  · refine .ite ?_ ?_
    · exact (.step (portError_keeps _ _ _ _ _) rfl (.step (setB_keeps _ _ _) rfl (.refl _ _)))
    · refine .ite ?_ ?_
      · exact (.step (giveCredit_keeps _ _ _) rfl (.step (takeCredit_keeps _ _ _) rfl (.step (portError_keeps _ _ _ _ _) rfl (.step (setB_keeps _ _ _) rfl (.refl _ _)))))
      · refine .ite ?_ ?_
        · extract_lets +onlyGivenNames -underBinder -merge v1
          exact (.ite (.step (protoError_keeps _ _ _ _ _ _) rfl (.refl _ _)) (.ite (.step (protoError_keeps _ _ _ _ _ _) rfl (.refl _ _)) (.step (advance_keeps _ _) rfl (.step (onT_keeps _ _ _) rfl (.step (stamp_keeps _ _ _) rfl (.refl _ _))))))
        · refine .step (giveCredit_keeps _ _ _) rfl ?_
          extract_lets +onlyGivenNames -underBinder -merge v2
          exact (.ite (.step (protoError_keeps _ _ _ _ _ _) rfl (.step (takeCredit_keeps _ _ _) rfl (.refl _ _))) (.ite (.step (protoError_keeps _ _ _ _ _ _) rfl (.step (takeCredit_keeps _ _ _) rfl (.refl _ _))) (.step (advance_keeps _ _) rfl (.step (onT_keeps _ _ _) rfl (.step (stamp_keeps _ _ _) rfl (.step (takeCredit_keeps _ _ _) rfl (.refl _ _)))))))

theorem dataSnp_keeps (a0 a1 a2 a3 a4 d) : Safety.Keeps [.regs, .glb, .svc, .sch, .fab, .bsn, .ntr, .med, .slu, .twn, .obs, .plain] d (dataSnp a0 a1 a2 a3 a4 d) := by
  unfold dataSnp
  unfold received
  beta_reduce
  refine .ite ?_ ?_
  · exact (.refl _ _)
  · refine .ite ?_ ?_
    · exact (.step (portError_keeps _ _ _ _ _) rfl (.step (setB_keeps _ _ _) rfl (.refl _ _)))
    · refine .ite ?_ ?_
      · exact (.step (giveCredit_keeps _ _ _) rfl (.step (takeCredit_keeps _ _ _) rfl (.step (portError_keeps _ _ _ _ _) rfl (.step (setB_keeps _ _ _) rfl (.refl _ _)))))
      · refine .ite ?_ ?_
        · extract_lets +onlyGivenNames -underBinder -merge v1
          refine .ite ?_ ?_
          · exact (.step (protoError_keeps _ _ _ _ _ _) rfl (.refl _ _))
          · split
            · exact (.step (protoError_keeps _ _ _ _ _ _) rfl (.refl _ _))
            · refine .ite ?_ ?_
              · exact (.step (protoError_keeps _ _ _ _ _ _) rfl (.refl _ _))
              · extract_lets +onlyGivenNames -underBinder -merge v4
                have h4 : Safety.Keeps [.regs, .glb, .svc, .sch, .fab, .bsn, .ntr, .med, .slu, .twn, .obs, .plain] d v4 := (.step (stamp_keeps _ _ _) rfl (.refl _ _))
                refine .ite ?_ ?_
                · exact (.step (ownerGone_keeps _ _ _) rfl h4)
                · extract_lets +onlyGivenNames -underBinder -merge v5
                  have h5 : Safety.Keeps [.regs, .glb, .svc, .sch, .fab, .bsn, .ntr, .med, .slu, .twn, .obs, .plain] d v5 := (.step (onT_keeps _ _ _) rfl h4)
                  exact (.ite (.step (advance_keeps _ _) rfl (.step (snoopDone_keeps _ _ _) rfl h5)) (.step (onT_keeps _ _ _) rfl h5))
        · refine .step (giveCredit_keeps _ _ _) rfl ?_
          extract_lets +onlyGivenNames -underBinder -merge v6
          refine .ite ?_ ?_
          · exact (.step (protoError_keeps _ _ _ _ _ _) rfl (.step (takeCredit_keeps _ _ _) rfl (.refl _ _)))
          · split
            · exact (.step (protoError_keeps _ _ _ _ _ _) rfl (.step (takeCredit_keeps _ _ _) rfl (.refl _ _)))
            · refine .ite ?_ ?_
              · exact (.step (protoError_keeps _ _ _ _ _ _) rfl (.step (takeCredit_keeps _ _ _) rfl (.refl _ _)))
              · extract_lets +onlyGivenNames -underBinder -merge v9
                have h9 : Safety.Keeps [.regs, .glb, .svc, .sch, .fab, .bsn, .ntr, .med, .slu, .twn, .obs, .plain] d v9 := (.step (stamp_keeps _ _ _) rfl (.step (takeCredit_keeps _ _ _) rfl (.refl _ _)))
                refine .ite ?_ ?_
                · exact (.step (ownerGone_keeps _ _ _) rfl h9)
                · extract_lets +onlyGivenNames -underBinder -merge v10
                  have h10 : Safety.Keeps [.regs, .glb, .svc, .sch, .fab, .bsn, .ntr, .med, .slu, .twn, .obs, .plain] d v10 := (.step (onT_keeps _ _ _) rfl h9)
                  exact (.ite (.step (advance_keeps _ _) rfl (.step (snoopDone_keeps _ _ _) rfl h10)) (.step (onT_keeps _ _ _) rfl h10))

theorem actOp_keeps (a0 a1 d) : Safety.Keeps [.regs, .glb, .svc, .sch, .fab, .bsn, .ntr, .med, .slu, .twn, .obs, .plain] d (actOp a0 a1 d) := by
  unfold actOp
  extract_lets +onlyGivenNames -underBinder -merge v1
  exact (.ite (.step (act_keeps _ _) rfl (.refl _ _)) (.refl _ _))

theorem leaveReqs_keeps (a0 d) : Safety.Keeps [.fab, .bsn, .obs] d (leaveReqs a0 d) := by
  unfold leaveReqs
  exact (.step (stamp_keeps _ _ _) rfl (.step (giveCredit_keeps _ _ _) rfl (.step (onBsn_keeps _ _) rfl (.refl _ _))))

theorem enter_keeps (a0 a1 d) : Safety.Keeps [.regs, .glb, .svc, .fab, .bsn, .obs, .plain] d (enter a0 a1 d) := by
  unfold enter
  extract_lets +onlyGivenNames -underBinder -merge v1
  extract_lets +onlyGivenNames -underBinder -merge v2
  extract_lets +onlyGivenNames -underBinder -merge v3
  extract_lets +onlyGivenNames -underBinder -merge v4
  have h4 : Safety.Keeps [.regs, .glb, .svc, .fab, .bsn, .obs, .plain] d v4 := (.step (leaveReqs_keeps _ _) rfl (.refl _ _))
  extract_lets +onlyGivenNames -underBinder -merge v5
  have h5 : Safety.Keeps [.regs, .glb, .svc, .fab, .bsn, .obs, .plain] d v5 := (.ite (.step (clearSlot_keeps _ _) rfl h4) h4)
  refine .ite ?_ ?_
  · exact (.step (sendCmp_keeps _ _ _ _ _ _ _) rfl h5)
  · extract_lets +onlyGivenNames -underBinder -merge v6
    extract_lets +onlyGivenNames -underBinder -merge v7
    extract_lets +onlyGivenNames -underBinder -merge v8
    extract_lets +onlyGivenNames -underBinder -merge v9
    have h9 : Safety.Keeps [.regs, .glb, .svc, .fab, .bsn, .obs, .plain] d v9 := (.step (putT_keeps _ _ _) rfl (.step (onBsn_keeps _ _) rfl h5))
    exact (.ite (.step (checkBound_keeps _ _) rfl (.step (sendCmp_keeps _ _ _ _ _ _ _) rfl h9)) h9)

theorem caseOfPartner_keeps (a0 a1 d) : Safety.Keeps [.bsn] d (caseOfPartner a0 a1 d) := by
  unfold caseOfPartner
  exact (.ite (.step (onT_keeps _ _ _) rfl (.refl _ _)) (.refl _ _))

theorem admitBound_keeps (a0 a1 d) : Safety.Keeps [.regs, .glb, .svc, .sch, .fab, .bsn, .twn, .obs, .plain] d (admitBound a0 a1 d) := by
  unfold admitBound
  extract_lets +onlyGivenNames -underBinder -merge v1
  refine .ite ?_ ?_
  · exact (.refl _ _)
  · extract_lets +onlyGivenNames -underBinder -merge v2
    extract_lets +onlyGivenNames -underBinder -merge v3
    extract_lets +onlyGivenNames -underBinder -merge v4
    have h4 : Safety.Keeps [.regs, .glb, .svc, .sch, .fab, .bsn, .twn, .obs, .plain] d v4 := (.step (enter_keeps _ _ _) rfl (.refl _ _))
    exact (.ite (.step (bindWindows_keeps _ _) rfl (.step (caseOfPartner_keeps _ _ _) rfl h4)) (.step (onSch_keeps _ _) rfl h4))

theorem refuse_keeps (a0 a1 d) : Safety.Keeps [.regs, .glb, .svc, .fab, .bsn, .obs] d (refuse a0 a1 d) := by
  unfold refuse
  exact (.step (sendCmp_keeps _ _ _ _ _ _ _) rfl (.step (leaveReqs_keeps _ _) rfl (.refl _ _)))

theorem misrouted_keeps (a0 d) : Safety.Keeps [.regs, .glb, .svc, .fab, .obs, .plain] d (misrouted a0 d) := by
  unfold misrouted
  exact (.step (raiseN_keeps _ _ _) rfl (.step (setB_keeps _ _ _) rfl (.refl _ _)))

theorem dryRefuses_keeps (a0 d) : Safety.Keeps [.regs, .glb, .svc, .fab, .obs, .plain] d (dryRefuses a0 d).2 := by
  unfold dryRefuses
  refine .ite2 ?_ ?_
  · exact (.snd_mk (.refl _ _))
  · extract_lets +onlyGivenNames -underBinder -merge v1
    extract_lets +onlyGivenNames -underBinder -merge v2
    extract_lets +onlyGivenNames -underBinder -merge v3
    have h3 : Safety.Keeps [.regs, .glb, .svc, .fab, .obs, .plain] d v3 := (.ite (.step (raiseN_keeps _ _ _) rfl (.step (setB_keeps _ _ _) rfl (.glb rfl (fun _ => ⟨rfl, rfl⟩) (.refl _ _)))) (.refl _ _))
    exact (.ite2 (.snd_mk (.step (raiseOnce_keeps _ _ _ _) rfl (.step (count_keeps _ _) rfl (.step (addSat_keeps _ _ _) rfl h3)))) (.snd_mk h3))

theorem admitDry_keeps (a0 a1 d) : Safety.Keeps [.regs, .glb, .svc, .sch, .fab, .bsn, .twn, .obs, .plain] d (admitDry a0 a1 d) := by
  unfold admitDry
  extract_lets +onlyGivenNames -underBinder -merge v1
  exact (.ite (.step (refuse_keeps _ _ _) rfl (.step (dryRefuses_keeps _ _) rfl (.refl _ _))) (.step (admitBound_keeps _ _ _) rfl (.step (dryRefuses_keeps _ _) rfl (.refl _ _))))

theorem admitChecked_keeps (a0 a1 a2 d) : Safety.Keeps [.regs, .glb, .svc, .sch, .fab, .bsn, .twn, .obs, .plain] d (admitChecked a0 a1 a2 d) := by
  unfold admitChecked
  extract_lets +onlyGivenNames -underBinder -merge v1
  extract_lets +onlyGivenNames -underBinder -merge v2
  extract_lets +onlyGivenNames -underBinder -merge v3
  exact (.ite (.step (refuse_keeps _ _ _) rfl (.step (misrouted_keeps _ _) rfl (.refl _ _))) (.ite (.step (refuse_keeps _ _ _) rfl (.refl _ _)) (.ite (.step (refuse_keeps _ _ _) rfl (.refl _ _)) (.ite (.step (refuse_keeps _ _ _) rfl (.step (raiseN_keeps _ _ _) rfl (.refl _ _))) (.step (admitDry_keeps _ _ _) rfl (.refl _ _))))))

theorem waitsTag_keeps (a0 d) : Safety.Keeps [.regs, .glb, .svc, .fab, .bsn, .obs] d (waitsTag a0 d) := by
  unfold waitsTag
  extract_lets +onlyGivenNames -underBinder -merge v1
  extract_lets +onlyGivenNames -underBinder -merge v2
  have h2 : Safety.Keeps [.regs, .glb, .svc, .fab, .bsn, .obs] d v2 := (.ite (.refl _ _) (.step (count_keeps _ _) rfl (.step (onBsn_keeps _ _) rfl (.refl _ _))))
  exact (.step (raiseOnce_keeps _ _ _ _) rfl h2)

theorem answerEntry_keeps (a0 a1 a2 d) : Safety.Keeps [.regs, .glb, .svc, .fab, .bsn, .obs] d (answerEntry a0 a1 a2 d) := by
  unfold answerEntry
  extract_lets +onlyGivenNames -underBinder -merge v1
  have h1 : Safety.Keeps [.regs, .glb, .svc, .fab, .bsn, .obs] d v1 := (.step (leaveReqs_keeps _ _) rfl (.refl _ _))
  extract_lets +onlyGivenNames -underBinder -merge v2
  have h2 : Safety.Keeps [.regs, .glb, .svc, .fab, .bsn, .obs] d v2 := (.ite (.step (sendHome_keeps _ _ _ _ _ _ _ _) rfl h1) h1)
  exact (.step (sendCmp_keeps _ _ _ _ _ _ _) rfl h2)

theorem admitTagged_keeps (a0 a1 d) : Safety.Keeps [.regs, .glb, .svc, .sch, .fab, .bsn, .twn, .obs, .plain] d (admitTagged a0 a1 d) := by
  unfold admitTagged
  extract_lets +onlyGivenNames -underBinder -merge v1
  extract_lets +onlyGivenNames -underBinder -merge v2
  exact (.ite (.step (putT_keeps _ _ _) rfl (.step (leaveReqs_keeps _ _) rfl (.refl _ _))) (.ite (.step (refuse_keeps _ _ _) rfl (.ite (.refl _ _) (.step (misrouted_keeps _ _) rfl (.refl _ _)))) (.step (admitChecked_keeps _ _ _ _) rfl (.refl _ _))))

theorem admitWith_keeps (a0 a1 d) : Safety.Keeps [.regs, .glb, .svc, .sch, .fab, .bsn, .twn, .obs, .plain] d (admitWith a0 a1 d) := by
  unfold admitWith
  extract_lets +onlyGivenNames -underBinder -merge v1
  extract_lets +onlyGivenNames -underBinder -merge v2
  refine .ite ?_ ?_
  · try dsimp -zeta -iota -proj only [v2]
    exact (.step (refuse_keeps _ _ _) rfl (.step (protoError_keeps _ _ _ _ _ _) rfl (.refl _ _)))
  · extract_lets +onlyGivenNames -underBinder -merge v3
    clear_value v3
    split
    · exact (.step (answerEntry_keeps _ _ _ _) rfl (.refl _ _))
    · refine .ite ?_ ?_
      · try dsimp -zeta -iota -proj only [v2]
        exact (.step (refuse_keeps _ _ _) rfl (.step (protoError_keeps _ _ _ _ _ _) rfl (.refl _ _)))
      · refine .ite ?_ ?_
        · try dsimp -zeta -iota -proj only [v2]
          exact (.step (refuse_keeps _ _ _) rfl (.step (protoError_keeps _ _ _ _ _ _) rfl (.refl _ _)))
        · exact (.step (admitTagged_keeps _ _ _) rfl (.refl _ _))

theorem admitReq_keeps (a0 d) : Safety.Keeps [.regs, .glb, .svc, .sch, .fab, .bsn, .twn, .obs, .plain] d (admitReq a0 d) := by
  unfold admitReq
  extract_lets +onlyGivenNames -underBinder -merge v1
  refine .ite ?_ ?_
  · exact (.refl _ _)
  · refine .ite ?_ ?_
    · exact (.refl _ _)
    · split
      · exact (.step (waitsTag_keeps _ _) rfl (.refl _ _))
      · exact (.step (admitWith_keeps _ _ _) rfl (.refl _ _))

theorem barrierTry_keeps (a0 d) : Safety.Keeps [.regs, .glb, .svc, .fab, .bsn, .obs] d (barrierTry a0 d) := by
  unfold barrierTry
  extract_lets +onlyGivenNames -underBinder -merge v1
  exact (.ite (.refl _ _) (.ite (.step (onBsn_keeps _ _) rfl (.refl _ _)) (.step (sendCmp_keeps _ _ _ _ _ _ _) rfl (.step (endT_keeps _ _) rfl (.refl _ _)))))

theorem setShort_keeps (a0 a1 d) : Safety.Keeps [.regs, .glb, .svc, .fab, .bsn, .obs, .plain] d (setShort a0 a1 d) := by
  unfold setShort
  extract_lets +onlyGivenNames -underBinder -merge v1
  exact (.step (raiseN_keeps _ _ _) rfl (.ite (.refl _ _) (.step (addSat_keeps _ _ _) rfl (.step (sfPut_keeps _ _ _ _) rfl (.refl _ _)))))

theorem takeSpare_keeps (a0 d) : Safety.Keeps [.regs, .glb, .svc, .fab, .bsn, .obs, .plain] d (takeSpare a0 d) := by
  unfold takeSpare
  extract_lets +onlyGivenNames -underBinder -merge v1
  exact (.ite (.step (setShort_keeps _ _ _) rfl (.refl _ _)) (.step (count_keeps _ _) rfl (.step (setF_keeps _ _ _) rfl (.step (sfPut_keeps _ _ _ _) rfl (.refl _ _)))))

theorem uncertainSet_keeps (a0 d) : Safety.Keeps [.regs, .glb, .svc, .fab, .bsn, .obs, .plain] d (uncertainSet a0 d) := by
  unfold uncertainSet
  extract_lets +onlyGivenNames -underBinder -merge v1
  have h1 : Safety.Keeps [.regs, .glb, .svc, .fab, .bsn, .obs, .plain] d v1 := (.step (takeSpare_keeps _ _) rfl (.refl _ _))
  extract_lets +onlyGivenNames -underBinder -merge v2
  extract_lets +onlyGivenNames -underBinder -merge v3
  have h3 : Safety.Keeps [.regs, .glb, .svc, .fab, .bsn, .obs, .plain] d v3 := (.step (sfPut_keeps _ _ _ _) rfl h1)
  exact (.step (raiseN_keeps _ _ _) rfl (.ite h3 (.step (addSat_keeps _ _ _) rfl h3)))

theorem windowResolution_keeps (a0 d) : Safety.Keeps [.regs, .glb, .svc, .sch, .fab, .bsn, .ntr, .med, .slu, .twn, .obs, .plain] d (windowResolution a0 d) := by
  unfold windowResolution
  extract_lets +onlyGivenNames -underBinder -merge v1
  extract_lets +onlyGivenNames -underBinder -merge v2
  split
  · exact (.refl _ _)
  · exact (.ite (.step (releaseWindows_keeps _ _) rfl (.refl _ _)) (.ite (.step (fillArrives_keeps _ _ _ _) rfl (.step (releaseWindows_keeps _ _) rfl (.refl _ _))) (.ite (.step (resolveOwn_keeps _ _) rfl (.refl _ _)) (.refl _ _))))

theorem lossTry_keeps (a0 d) : Safety.Keeps [.regs, .glb, .svc, .sch, .fab, .bsn, .ntr, .med, .slu, .twn, .obs, .plain] d (lossTry a0 d) := by
  unfold lossTry
  split
  · exact (.refl _ _)
  · extract_lets +onlyGivenNames -underBinder -merge v3
    have h3 : Safety.Keeps [.regs, .glb, .svc, .sch, .fab, .bsn, .ntr, .med, .slu, .twn, .obs, .plain] d v3 := (.step (markLost_keeps _ _ _) rfl (.refl _ _))
    exact (.ite h3 (.foldl h3 fun x4 _ h4 => (.step (advance_keeps _ _) rfl h4)))

theorem quarantineEnd_keeps (a0 d) : Safety.Keeps [.bsn] d (quarantineEnd a0 d) := by
  unfold quarantineEnd
  extract_lets +onlyGivenNames -underBinder -merge v1
  exact (.ite (.step (endT_keeps _ _) rfl (.refl _ _)) (.refl _ _))

theorem sfUncorrectable_keeps (a0 a1 d) : Safety.Keeps [.regs, .glb, .svc, .fab, .bsn, .twn, .grt, .obs, .plain] d (sfUncorrectable a0 a1 d) := by
  unfold sfUncorrectable
  extract_lets +onlyGivenNames -underBinder -merge v1
  have h1 : Safety.Keeps [.regs, .glb, .svc, .fab, .bsn, .twn, .grt, .obs, .plain] d v1 := (.step (raiseN_keeps _ _ _) rfl (.step (setB_keeps _ _ _) rfl (.refl _ _)))
  extract_lets +onlyGivenNames -underBinder -merge v2
  extract_lets +onlyGivenNames -underBinder -merge v3
  extract_lets +onlyGivenNames -underBinder -merge v4
  have h4 : Safety.Keeps [.regs, .glb, .svc, .fab, .bsn, .twn, .grt, .obs, .plain] d v4 := (.step (onGrt_keeps _ _) rfl (.step (sfPut_keeps _ _ _ _) rfl h1))
  refine .ite ?_ ?_
  · exact (.step (uncertainSet_keeps _ _) rfl h4)
  · extract_lets +onlyGivenNames -underBinder -merge v5
    exact (.ite (.step (onTwn_keeps _ _) rfl h4) (.step (mirSend_keeps _ _) rfl (.step (onTwn_keeps _ _) rfl h4)))

theorem sfErrors_keeps (a0 d) : Safety.Keeps [.regs, .glb, .svc, .fab, .bsn, .twn, .grt, .obs, .plain] d (sfErrors a0 d) := by
  unfold sfErrors
  exact (.foldl (.refl _ _) fun x1 _ h1 => (.ite (.step (sfUncorrectable_keeps _ _ _) rfl h1) (.step (raiseN_keeps _ _ _) rfl (.step (count_keeps _ _) rfl h1))))

theorem readSet_keeps (a0 a1 d) : Safety.Keeps [.regs, .glb, .svc, .fab, .bsn, .twn, .grt, .obs, .plain] d (readSet a0 a1 d) := by
  unfold readSet
  extract_lets +onlyGivenNames -underBinder -merge v1
  have h1 : Safety.Keeps [.regs, .glb, .svc, .fab, .bsn, .twn, .grt, .obs, .plain] d v1 := (.step (sfErrors_keeps _ _) rfl (.refl _ _))
  exact (.forEach h1 fun _ x2 h2 => (.step (sfUncorrectable_keeps _ _ _) rfl h2))

theorem rebindTry_keeps (a0 d) : Safety.Keeps [.regs, .glb, .svc, .sch, .fab, .bsn, .ntr, .med, .slu, .twn, .obs, .plain] d (rebindTry a0 d) := by
  unfold rebindTry
  extract_lets +onlyGivenNames -underBinder -merge v1
  exact (.ite (.refl _ _) (.ite (.step (rebindRead_keeps _ _ _ _ _) rfl (.refl _ _)) (.ite (.ite (.step (progress_keeps _ _) rfl (.step (onT_keeps _ _ _) rfl (.refl _ _))) (.step (bindRead_keeps _ _) rfl (.refl _ _))) (.refl _ _))))

theorem waitTry_keeps (a0 a1 d) : Safety.Keeps [.regs, .glb, .svc, .sch, .fab, .bsn, .ntr, .med, .slu, .twn, .obs, .plain] d (waitTry a0 a1 d) := by
  unfold waitTry
  extract_lets +onlyGivenNames -underBinder -merge v1
  refine .ite ?_ ?_
  · exact (.refl _ _)
  · split
    · exact (.step (fillArrives_keeps _ _ _ _) rfl (.refl _ _))
    · exact (.step (advance_keeps _ _) rfl (.refl _ _))

theorem wayTry_keeps (a0 a1 d) : Safety.Keeps [.regs, .glb, .svc, .sch, .fab, .bsn, .ntr, .med, .slu, .twn, .grt, .obs, .plain] d (wayTry a0 a1 d) := by
  unfold wayTry
  extract_lets +onlyGivenNames -underBinder -merge v1
  have h1 : Safety.Keeps [.regs, .glb, .svc, .sch, .fab, .bsn, .ntr, .med, .slu, .twn, .grt, .obs, .plain] d v1 := (.step (readSet_keeps _ _ _) rfl (.refl _ _))
  extract_lets +onlyGivenNames -underBinder -merge v2
  have h2 : Safety.Keeps [.regs, .glb, .svc, .sch, .fab, .bsn, .ntr, .med, .slu, .twn, .grt, .obs, .plain] d v2 := (.foldl h1 fun x3 _ h3 => (.step (startBi_keeps _ _ _) rfl h3))
  refine .ite ?_ ?_
  · extract_lets +onlyGivenNames -underBinder -merge v4
    have h4 : Safety.Keeps [.regs, .glb, .svc, .sch, .fab, .bsn, .ntr, .med, .slu, .twn, .grt, .obs, .plain] d v4 := (.step (takeWay_keeps _ _) rfl h2)
    exact (.ite h4 (.step (progress_keeps _ _) rfl h4))
  · exact h2

end Sys2Proof.Machine
end

