-- ==== Sys2Proof/Laws/FrameSkink.lean ====
section
/-!
SUPPORT. What each definition of Machine/Skink.lean leaves alone: one lemma per definition, cited and not unfolded.
-/
namespace Sys2Proof.Machine
open Sys2Proof Sys2Proof.Safety.Keeps

theorem showWalk_keeps (a0 d) : Safety.Keeps [.regs, .plain] d (showWalk a0 d) := by
  unfold showWalk
  extract_lets +onlyGivenNames -underBinder -merge v1
  have h1 : Safety.Keeps [.regs, .plain] d v1 := (.step (setB_keeps _ _ _) rfl (.refl _ _))
  refine .ite ?_ ?_
  · exact h1
  · extract_lets +onlyGivenNames -underBinder -merge v2
    have h2 : Safety.Keeps [.regs, .plain] d v2 := (.step (setF_keeps _ _ _) rfl (.step (setF_keeps _ _ _) rfl h1))
    exact (.step (setF_keeps _ _ _) rfl (.step (setB_keeps _ _ _) rfl h2))

theorem startWalk_keeps (a0 d) : Safety.Keeps [.regs, .bsn, .plain] d (startWalk a0 d) := by
  unfold startWalk
  exact (.step (showWalk_keeps _ _) rfl (.step (onBsn_keeps _ _) rfl (.refl _ _)))

theorem zeroMac_keeps (a0 d) : Safety.Keeps [.slu] d (zeroMac a0 d) := by
  unfold zeroMac
  exact (.step (onSlu_keeps _ _) rfl (.refl _ _))

theorem departCmd_keeps (a0 a1 d) : Safety.Keeps [.regs, .glb, .svc, .fab, .bsn, .slu, .obs, .plain] d (departCmd a0 a1 d) := by
  unfold departCmd
  unfold received
  beta_reduce
  exact (.ite (.refl _ _) (.ite (.step (portError_keeps _ _ _ _ _) rfl (.step (setB_keeps _ _ _) rfl (.refl _ _))) (.ite (.step (giveCredit_keeps _ _ _) rfl (.step (takeCredit_keeps _ _ _) rfl (.step (portError_keeps _ _ _ _ _) rfl (.step (setB_keeps _ _ _) rfl (.refl _ _))))) (.ite (.ite (.refl _ _) (.step (startWalk_keeps _ _) rfl (.step (zeroMac_keeps _ _) rfl (.step (clearSlot_keeps _ _) rfl (.step (onBsn_keeps _ _) rfl (.refl _ _)))))) (.step (giveCredit_keeps _ _ _) rfl (.ite (.step (takeCredit_keeps _ _ _) rfl (.refl _ _)) (.step (startWalk_keeps _ _) rfl (.step (zeroMac_keeps _ _) rfl (.step (clearSlot_keeps _ _) rfl (.step (onBsn_keeps _ _) rfl (.step (takeCredit_keeps _ _ _) rfl (.refl _ _))))))))))))

theorem markDead_keeps (a0 a1 d) : Safety.Keeps [.regs, .plain] d (markDead a0 a1 d) := by
  unfold markDead
  extract_lets +onlyGivenNames -underBinder -merge v1
  exact (.step (setPair_keeps _ _ _ _) rfl (.refl _ _))

theorem unbindAgent_keeps (a0 d) : Safety.Keeps [.regs, .plain] d (unbindAgent a0 d) := by
  unfold unbindAgent
  refine .foldl ((.refl _ _)) fun x2 z2 h2 => ?_
  extract_lets +onlyGivenNames -underBinder -merge v3
  exact (.step (setPair_keeps _ _ _ _) rfl h2)

theorem cutRequester_keeps (a0 d) : Safety.Keeps [.regs, .glb, .svc, .sch, .fab, .bsn, .ntr, .med, .slu, .twn, .obs, .plain] d (cutRequester a0 d) := by
  unfold cutRequester
  extract_lets +onlyGivenNames -underBinder -merge v1
  extract_lets +onlyGivenNames -underBinder -merge v2
  extract_lets +onlyGivenNames -underBinder -merge v3
  extract_lets +onlyGivenNames -underBinder -merge v4
  split
  · exact (.refl _ _)
  · try dsimp -zeta -iota -proj only [v3]
    exact (.step (dropTag_keeps _ _) rfl (.step (endT_keeps _ _) rfl (.step (releaseWindows_keeps _ _) rfl (.refl _ _))))
  · try dsimp -zeta -iota -proj only [v3]
    exact (.step (dropTag_keeps _ _) rfl (.step (endT_keeps _ _) rfl (.step (releaseWindows_keeps _ _) rfl (.refl _ _))))
  · refine .ite ?_ ?_
    · try dsimp -zeta -iota -proj only [v3]
      exact (.step (dropTag_keeps _ _) rfl (.step (endT_keeps _ _) rfl (.step (releaseWindows_keeps _ _) rfl (.refl _ _))))
    · refine .ite ?_ ?_
      · extract_lets +onlyGivenNames -underBinder -merge v9
        have h9 : Safety.Keeps [.regs, .glb, .svc, .sch, .fab, .bsn, .ntr, .med, .slu, .twn, .obs, .plain] d v9 := (.step (markLost_keeps _ _ _) rfl (.step (onT_keeps _ _ _) rfl (.refl _ _)))
        exact (.step (advance_keeps _ _) rfl h9)
      · refine .ite ?_ ?_
        · exact (.step (advance_keeps _ _) rfl (.step (onT_keeps _ _ _) rfl (.refl _ _)))
        · refine .ite ?_ ?_
          · extract_lets +onlyGivenNames -underBinder -merge v10
            have h10 : Safety.Keeps [.regs, .glb, .svc, .sch, .fab, .bsn, .ntr, .med, .slu, .twn, .obs, .plain] d v10 := (.step (onT_keeps _ _ _) rfl (.refl _ _))
            extract_lets +onlyGivenNames -underBinder -merge v11
            exact (.ite (.ite (.step (ownerGone_keeps _ _ _) rfl h10) (.step (snoopAgent_keeps _ _ _ _ _) rfl (.step (onT_keeps _ _ _) rfl h10))) (.step (advance_keeps _ _) rfl h10))
          · exact (.step (onT_keeps _ _ _) rfl (.refl _ _))
  · extract_lets +onlyGivenNames -underBinder -merge v13
    have h13 : Safety.Keeps [.regs, .glb, .svc, .sch, .fab, .bsn, .ntr, .med, .slu, .twn, .obs, .plain] d v13 := (.step (onT_keeps _ _ _) rfl (.refl _ _))
    refine .ite ?_ ?_
    · refine .ite ?_ ?_
      · extract_lets +onlyGivenNames -underBinder -merge v14
        have h14 : Safety.Keeps [.regs, .glb, .svc, .sch, .fab, .bsn, .ntr, .med, .slu, .twn, .obs, .plain] d v14 := (.step (enterRecord_keeps _ _ _ _) rfl h13)
        extract_lets +onlyGivenNames -underBinder -merge v15
        have h15 : Safety.Keeps [.regs, .glb, .svc, .sch, .fab, .bsn, .ntr, .med, .slu, .twn, .obs, .plain] d v15 := (.step (onT_keeps _ _ _) rfl h14)
        exact (.ite (.step (ownerGone_keeps _ _ _) rfl h15) (.step (snoopAgent_keeps _ _ _ _ _) rfl h15))
      · extract_lets +onlyGivenNames -underBinder -merge v16
        extract_lets +onlyGivenNames -underBinder -merge v17
        have h17 : Safety.Keeps [.regs, .glb, .svc, .sch, .fab, .bsn, .ntr, .med, .slu, .twn, .obs, .plain] d v17 := (.step (enterRecord_keeps _ _ _ _) rfl h13)
        extract_lets +onlyGivenNames -underBinder -merge v18
        exact (.step (mirSendFor_keeps _ _ _) rfl (.step (onT_keeps _ _ _) rfl h17))
    · exact h13

theorem cutSnooped_keeps (a0 a1 d) : Safety.Keeps [.regs, .glb, .svc, .sch, .fab, .bsn, .ntr, .med, .slu, .twn, .obs, .plain] d (cutSnooped a0 a1 d) := by
  unfold cutSnooped
  extract_lets +onlyGivenNames -underBinder -merge v1
  split
  · exact (.refl _ _)
  · refine .ite ?_ ?_
    · extract_lets +onlyGivenNames -underBinder -merge v4
      have h4 : Safety.Keeps [.regs, .glb, .svc, .sch, .fab, .bsn, .ntr, .med, .slu, .twn, .obs, .plain] d v4 := (.step (onT_keeps _ _ _) rfl (.refl _ _))
      exact (.step (ownerGone_keeps _ _ _) rfl h4)
    · exact (.step (advance_keeps _ _) rfl (.step (snoopDone_keeps _ _ _) rfl (.refl _ _)))

theorem declareDead_keeps (a0 a1 d) : Safety.Keeps [.regs, .glb, .svc, .sch, .fab, .bsn, .ntr, .med, .slu, .twn, .obs, .plain] d (declareDead a0 a1 d) := by
  unfold declareDead
  refine .ite ?_ ?_
  · exact (.refl _ _)
  · extract_lets +onlyGivenNames -underBinder -merge v1
    extract_lets +onlyGivenNames -underBinder -merge v2
    have h2 : Safety.Keeps [.regs, .glb, .svc, .sch, .fab, .bsn, .ntr, .med, .slu, .twn, .obs, .plain] d v2 := (.foldl (.refl _ _) fun x3 _ h3 => (.step (onLink_keeps _ _ _) rfl h3))
    extract_lets +onlyGivenNames -underBinder -merge v4
    have h4 : Safety.Keeps [.regs, .glb, .svc, .sch, .fab, .bsn, .ntr, .med, .slu, .twn, .obs, .plain] d v4 := (.foldl h2 fun x5 _ h5 => (.step (dropTag_keeps _ _) rfl (.step (giveCredit_keeps _ _ _) rfl (.step (onBsn_keeps _ _) rfl h5))))
    extract_lets +onlyGivenNames -underBinder -merge v6
    have h6 : Safety.Keeps [.regs, .glb, .svc, .sch, .fab, .bsn, .ntr, .med, .slu, .twn, .obs, .plain] d v6 := (.step (markDead_keeps _ _ _) rfl (.step (unbindAgent_keeps _ _) rfl h4))
    extract_lets +onlyGivenNames -underBinder -merge v7
    have h7 : Safety.Keeps [.regs, .glb, .svc, .sch, .fab, .bsn, .ntr, .med, .slu, .twn, .obs, .plain] d v7 := (.step (zeroMac_keeps _ _) rfl (.step (clearSlot_keeps _ _) rfl h6))
    extract_lets +onlyGivenNames -underBinder -merge v8
    have h8 : Safety.Keeps [.regs, .glb, .svc, .sch, .fab, .bsn, .ntr, .med, .slu, .twn, .obs, .plain] d v8 := (.step (onBsn_keeps _ _) rfl h7)
    extract_lets +onlyGivenNames -underBinder -merge v9
    have h9 : Safety.Keeps [.regs, .glb, .svc, .sch, .fab, .bsn, .ntr, .med, .slu, .twn, .obs, .plain] d v9 := (.ite h8 (.step (mirSend_keeps _ _) rfl h8))
    extract_lets +onlyGivenNames -underBinder -merge v10
    have h10 : Safety.Keeps [.regs, .glb, .svc, .sch, .fab, .bsn, .ntr, .med, .slu, .twn, .obs, .plain] d v10 := (.step (raiseN_keeps _ _ _) rfl h9)
    extract_lets +onlyGivenNames -underBinder -merge v11
    extract_lets +onlyGivenNames -underBinder -merge v12
    have h12 : Safety.Keeps [.regs, .glb, .svc, .sch, .fab, .bsn, .ntr, .med, .slu, .twn, .obs, .plain] d v12 := (.ite (.step (onBsn_keeps _ _) rfl h10) (.step (startWalk_keeps _ _) rfl h10))
    extract_lets +onlyGivenNames -underBinder -merge v13
    have h13 : Safety.Keeps [.regs, .glb, .svc, .sch, .fab, .bsn, .ntr, .med, .slu, .twn, .obs, .plain] d v13 := by
        dsimp -zeta -iota -proj only [v13]
        refine .foldl (h12) fun x16 z16 h16 => ?_
        extract_lets +onlyGivenNames -underBinder -merge v17
        exact (.ite (.step (cutRequester_keeps _ _) rfl h16) h16)
    exact (.foldl h13 fun x18 _ h18 => (.step (cutSnooped_keeps _ _ _) rfl h18))

theorem declareCmd_keeps (a0 a1 d) : Safety.Keeps [.regs, .glb, .svc, .sch, .fab, .bsn, .ntr, .med, .slu, .twn, .obs, .plain] d (declareCmd a0 a1 d) := by
  unfold declareCmd
  exact (.ite (.step (declareDead_keeps _ _ _) rfl (.refl _ _)) (.refl _ _))

theorem clearCmd_keeps (a0 a1 d) : Safety.Keeps [.regs, .glb, .svc, .fab, .bsn, .twn, .obs, .plain] d (clearCmd a0 a1 d) := by
  unfold clearCmd
  refine .ite ?_ ?_
  · exact (.refl _ _)
  · refine .ite ?_ ?_
    · extract_lets +onlyGivenNames -underBinder -merge v1
      have h1 : Safety.Keeps [.regs, .glb, .svc, .fab, .bsn, .twn, .obs, .plain] d v1 := (.step (markDead_keeps _ _ _) rfl (.step (onBsn_keeps _ _) rfl (.refl _ _)))
      exact (.ite (.step (mirSend_keeps _ _) rfl h1) h1)
    · exact (.step (setB_keeps _ _ _) rfl (.refl _ _))

theorem walkEnds_keeps (a0 d) : Safety.Keeps [.regs, .glb, .svc, .fab, .bsn, .twn, .obs, .plain] d (walkEnds a0 d) := by
  unfold walkEnds
  extract_lets +onlyGivenNames -underBinder -merge v1
  refine .ite ?_ ?_
  · extract_lets +onlyGivenNames -underBinder -merge v2
    extract_lets +onlyGivenNames -underBinder -merge v3
    have h3 : Safety.Keeps [.regs, .glb, .svc, .fab, .bsn, .twn, .obs, .plain] d v3 := (.step (pump_keeps _ _) rfl (.step (evtQueueFirst_keeps _ _ _) rfl (.refl _ _)))
    extract_lets +onlyGivenNames -underBinder -merge v4
    have h4 : Safety.Keeps [.regs, .glb, .svc, .fab, .bsn, .twn, .obs, .plain] d v4 := (.step (raiseN_keeps _ _ _) rfl (.step (unbindAgent_keeps _ _) rfl h3))
    refine .step (showWalk_keeps _ _) rfl ?_
    try dsimp -zeta -iota -proj only [v1]
    exact (.step (onBsn_keeps _ _) rfl (.step (onBsn_keeps _ _) rfl h4))
  · extract_lets +onlyGivenNames -underBinder -merge v5
    have h5 : Safety.Keeps [.regs, .glb, .svc, .fab, .bsn, .twn, .obs, .plain] d v5 := by
        dsimp -zeta -iota -proj only [v5]
        refine .step (raiseN_keeps _ _ _) rfl ?_
        try dsimp -zeta -iota -proj only [v1]
        exact (.step (onBsn_keeps _ _) rfl (.refl _ _))
    extract_lets +onlyGivenNames -underBinder -merge v6
    have h6 : Safety.Keeps [.regs, .glb, .svc, .fab, .bsn, .twn, .obs, .plain] d v6 := (.step (showWalk_keeps _ _) rfl h5)
    exact (.ite (.step (mirSend_keeps _ _) rfl h6) h6)

theorem walkWay_keeps (a0 a1 a2 a3 d) : Safety.Keeps [.regs, .glb, .svc, .sch, .fab, .bsn, .ntr, .med, .slu, .twn, .obs, .plain] d (walkWay a0 a1 a2 a3 d) := by
  unfold walkWay
  extract_lets +onlyGivenNames -underBinder -merge v1
  refine .ite ?_ ?_
  · exact (.refl _ _)
  · extract_lets +onlyGivenNames -underBinder -merge v2
    extract_lets +onlyGivenNames -underBinder -merge v3
    extract_lets +onlyGivenNames -underBinder -merge v4
    have h4 : Safety.Keeps [.regs, .glb, .svc, .sch, .fab, .bsn, .ntr, .med, .slu, .twn, .obs, .plain] d v4 := (.step (onWay_keeps _ _ _ _ _) rfl (.refl _ _))
    exact (.foldl h4 fun x5 _ h5 => (.ite (.ite h5 (.step (startBi_keeps _ _ _) rfl h5)) (.ite h5 (.step (markLost_keeps _ _ _) rfl h5))))

theorem walkSet_keeps (a0 a1 a2 d) : Safety.Keeps [.regs, .glb, .svc, .sch, .fab, .bsn, .ntr, .med, .slu, .twn, .obs, .plain] d (walkSet a0 a1 a2 d) := by
  unfold walkSet
  exact (.foldl (.refl _ _) fun x1 _ h1 => (.ite h1 (.step (walkWay_keeps _ _ _ _ _) rfl h1)))

theorem walkSets_keeps (a0 a1 a2 a3 d) :
    Safety.Keeps [.regs, .glb, .svc, .sch, .fab, .bsn, .ntr, .med, .slu, .twn, .obs, .plain] d (walkSets a0 a1 a2 a3 d).2 := by
  induction a0 generalizing a3 d with
  | zero => exact .refl _ _
  | succ n ih =>
    unfold walkSets
    refine .ite2 (.refl _ _) ?_
    extract_lets +onlyGivenNames -underBinder -merge v1 v2
    have h1 : Safety.Keeps [.regs, .glb, .svc, .sch, .fab, .bsn, .ntr, .med, .slu, .twn, .obs, .plain] d v1 := .step (walkSet_keeps _ _ _ _) rfl (.refl _ _)
    have h2 : Safety.Keeps [.regs, .glb, .svc, .sch, .fab, .bsn, .ntr, .med, .slu, .twn, .obs, .plain] d v2 := .ite (.step (walkSet_keeps _ _ _ _) rfl h1) h1
    exact .ite2 h2 (.step (ih _ _) rfl h2)

theorem walkTick_keeps (a0 d) : Safety.Keeps [.regs, .glb, .svc, .sch, .fab, .bsn, .ntr, .med, .slu, .twn, .obs, .plain] d (walkTick a0 d) := by
  unfold walkTick
  split
  · rename_i y1 y2 e3
    have h3 : Safety.Keeps [.regs, .glb, .svc, .sch, .fab, .bsn, .ntr, .med, .slu, .twn, .obs, .plain] d y2 := .of_snd e3 ((.step (walkSets_keeps _ _ _ _ _) rfl (.refl _ _)))
    extract_lets +onlyGivenNames -underBinder -merge v4
    extract_lets +onlyGivenNames -underBinder -merge v5
    extract_lets +onlyGivenNames -underBinder -merge v6
    have h6 : Safety.Keeps [.regs, .glb, .svc, .sch, .fab, .bsn, .ntr, .med, .slu, .twn, .obs, .plain] d v6 := (.step (onBsn_keeps _ _) rfl h3)
    extract_lets +onlyGivenNames -underBinder -merge v7
    have h7 : Safety.Keeps [.regs, .glb, .svc, .sch, .fab, .bsn, .ntr, .med, .slu, .twn, .obs, .plain] d v7 := (.step (showWalk_keeps _ _) rfl h6)
    exact (.ite (.step (walkEnds_keeps _ _) rfl h7) h7)

end Sys2Proof.Machine
end

