-- ==== Sys2Proof/Laws/FramePair.lean ====
section
/-!
SUPPORT. What each definition of Machine/Pair.lean leaves alone: one lemma per definition, cited and not unfolded.
-/
namespace Sys2Proof.Machine
open Sys2Proof Sys2Proof.Safety.Keeps

theorem answerWay_keeps (a0 a1 a2 d) : Safety.Keeps [.regs, .glb, .svc, .fab, .bsn, .twn, .obs] d (answerWay a0 a1 a2 d) := by
  unfold answerWay
  exact (.step (mirSend_keeps _ _) rfl (.refl _ _))

theorem applyData_keeps (a0 d) {e} (h : applyData a0 d = some e) :
    Safety.Keeps [.regs, .glb, .svc, .fab, .ntr, .med, .slu, .obs, .plain] d e := by
  unfold applyData at h
  extract_lets +onlyGivenNames -underBinder -merge v1 at h
  split at h
  · cases h; exact .refl _ _
  · split at h
    · cases h
    · split at h
      · cases h
      · rename_i x hx
        extract_lets +onlyGivenNames -underBinder -merge v2 v3 at h
        have h2 : Safety.Keeps [.regs, .glb, .svc, .fab, .ntr, .med, .slu, .obs, .plain] d v2 :=
          .step (countLeaf_keeps _ _) rfl (.step (allocFrame_keeps _ _ hx) rfl (.refl _ _))
        have h3 : Safety.Keeps [.regs, .glb, .svc, .fab, .ntr, .med, .slu, .obs, .plain] d v3 := by
          dsimp -zeta -iota -proj only [v3]
          split
          · exact h2
          · exact .step (fullWrite_keeps _ _ _) rfl h2
        cases h
        exact .ite (.step (poisonLine_keeps _ _) rfl h3) h3

theorem applyState_keeps (a0 d) : Safety.Keeps [.bsn] d (applyState a0 d) := by
  unfold applyState
  extract_lets +onlyGivenNames -underBinder -merge v1
  extract_lets +onlyGivenNames -underBinder -merge v2
  extract_lets +onlyGivenNames -underBinder -merge v3
  extract_lets +onlyGivenNames -underBinder -merge v4
  extract_lets +onlyGivenNames -underBinder -merge v5
  extract_lets +onlyGivenNames -underBinder -merge v6
  have h6 : Safety.Keeps [.bsn] d v6 := (.ite (.step (onWay_keeps _ _ _ _ _) rfl (.refl _ _)) (.refl _ _))
  exact (.step (enterRecord_keeps _ _ _ _) rfl h6)

theorem ctabTake_keeps (a0 d) : Safety.Keeps [.regs, .glb, .svc, .fab, .twn, .obs] d (ctabTake a0 d) := by
  unfold ctabTake
  split
  · exact (.refl _ _)
  · exact (.step (count_keeps _ _) rfl (.step (onTwn_keeps _ _) rfl (.refl _ _)))

theorem applyRec_keeps (a0 d) {e} (h : applyRec a0 d = some e) :
    Safety.Keeps [.regs, .glb, .svc, .fab, .bsn, .ntr, .med, .slu, .twn, .obs, .plain] d e := by
  unfold applyRec at h
  split at h
  · cases h
  · rename_i x hx
    have h1 : Safety.Keeps [.regs, .glb, .svc, .fab, .bsn, .ntr, .med, .slu, .twn, .obs, .plain] d
        (applyState a0 (if a0.grant = 2 then countLeaf (a0.laddr.toNat / 64) x else x)) :=
      .step (applyState_keeps _ _) rfl (.ite (.step (countLeaf_keeps _ _) rfl (.step (applyData_keeps _ _ hx) rfl (.refl _ _)))
        (.step (applyData_keeps _ _ hx) rfl (.refl _ _)))
    cases h
    exact .ite (.step (ctabTake_keeps _ _) rfl h1) h1

theorem applyRecs_keeps (a0 d) :
    Safety.Keeps [.regs, .glb, .svc, .fab, .bsn, .ntr, .med, .slu, .twn, .obs, .plain] d (applyRecs a0 d).2 := by
  induction a0 generalizing d with
  | nil => exact .refl _ _
  | cons r rest ih =>
    unfold applyRecs
    split
    · exact .refl _ _
    · rename_i x hx
      exact .step (ih x) rfl (.step (applyRec_keeps _ _ hx) rfl (.refl _ _))

theorem walksAfter_keeps (d) : Safety.Keeps [.bsn] d (walksAfter d) := by
  unfold walksAfter
  exact (.step (onBsn_keeps _ _) rfl (.refl _ _))

theorem repairBad_keeps (a0 a1 d) : Safety.Keeps [.regs, .glb, .svc, .fab, .bsn, .ntr, .slu, .twn, .obs, .plain] d (repairBad a0 a1 d) := by
  unfold repairBad
  extract_lets +onlyGivenNames -underBinder -merge v1
  have h1 : Safety.Keeps [.regs, .glb, .svc, .fab, .bsn, .ntr, .slu, .twn, .obs, .plain] d v1 := (.step (onNtr_keeps _ _) rfl (.refl _ _))
  extract_lets +onlyGivenNames -underBinder -merge v2
  have h2 : Safety.Keeps [.regs, .glb, .svc, .fab, .bsn, .ntr, .slu, .twn, .obs, .plain] d v2 := (.step (markLost_keeps _ _ _) rfl (.step (mergeDrop_keeps _ _) rfl h1))
  exact (.ite (.step (raiseN_keeps _ _ _) rfl (.step (setB_keeps _ _ _) rfl h2)) (.step (raiseN_keeps _ _ _) rfl h2))

theorem repairGood_keeps (a0 a1 a2 d) : Safety.Keeps [.regs, .glb, .svc, .fab, .ntr, .slu, .obs, .plain] d (repairGood a0 a1 a2 d) := by
  unfold repairGood
  extract_lets +onlyGivenNames -underBinder -merge v1
  extract_lets +onlyGivenNames -underBinder -merge v2
  have h2 : Safety.Keeps [.regs, .glb, .svc, .fab, .ntr, .slu, .obs, .plain] d v2 := (.step (onNtr_keeps _ _) rfl (.refl _ _))
  refine .ite ?_ ?_
  · extract_lets +onlyGivenNames -underBinder -merge v3
    extract_lets +onlyGivenNames -underBinder -merge v4
    have h4 : Safety.Keeps [.regs, .glb, .svc, .fab, .ntr, .slu, .obs, .plain] d v4 := (.step (raiseN_keeps _ _ _) rfl (.step (lineWrite_keeps _ _ _ _) rfl (.step (mergeDrop_keeps _ _) rfl h2)))
    clear_value v3
    split
    · exact h4
    · exact (.step (lineWrite_keeps _ _ _ _) rfl h4)
  · exact (.step (raiseN_keeps _ _ _) rfl (.step (lineWrite_keeps _ _ _ _) rfl h2))

theorem wakeLine_keeps (a0 d) : Safety.Keeps [.regs, .glb, .svc, .sch, .fab, .bsn, .ntr, .med, .slu, .twn, .obs, .plain] d (wakeLine a0 d) := by
  unfold wakeLine
  exact (.foldl (.refl _ _) fun x1 _ h1 => (.step (advance_keeps _ _) rfl h1))

theorem lineAnswer_keeps (a0 a1 d) : Safety.Keeps [.regs, .glb, .svc, .sch, .fab, .bsn, .ntr, .med, .slu, .twn, .obs, .plain] d (lineAnswer a0 a1 d) := by
  unfold lineAnswer
  extract_lets +onlyGivenNames -underBinder -merge v1
  have h1 : Safety.Keeps [.regs, .glb, .svc, .sch, .fab, .bsn, .ntr, .med, .slu, .twn, .obs, .plain] d v1 := (.step (onTwn_keeps _ _) rfl (.refl _ _))
  extract_lets +onlyGivenNames -underBinder -merge v2
  have h2 : Safety.Keeps [.regs, .glb, .svc, .sch, .fab, .bsn, .ntr, .med, .slu, .twn, .obs, .plain] d v2 := by
      dsimp -zeta -iota -proj only [v2]
      refine .foldl (h1) fun x5 z5 h5 => ?_
      split
      · exact (.step (repairBad_keeps _ _ _) rfl h5)
      · exact (.step (repairGood_keeps _ _ _ _) rfl h5)
  extract_lets +onlyGivenNames -underBinder -merge v8
  have h8 : Safety.Keeps [.regs, .glb, .svc, .sch, .fab, .bsn, .ntr, .med, .slu, .twn, .obs, .plain] d v8 := by
      dsimp -zeta -iota -proj only [v8]
      refine .foldl (h2) fun x11 z11 h11 => ?_
      split
      · exact (.step (mergePoisoned_keeps _ _) rfl h11)
      · exact (.step (raiseN_keeps _ _ _) rfl (.step (onT_keeps _ _ _) rfl (.step (lineWrite_keeps _ _ _ _) rfl h11)))
  exact (.step (wakeLine_keeps _ _) rfl h8)

theorem lreqsEnd_keeps (d) : Safety.Keeps [.regs, .glb, .svc, .sch, .fab, .bsn, .ntr, .med, .slu, .twn, .obs, .plain] d (lreqsEnd d) := by
  unfold lreqsEnd
  extract_lets +onlyGivenNames -underBinder -merge v1
  extract_lets +onlyGivenNames -underBinder -merge v2
  have h2 : Safety.Keeps [.regs, .glb, .svc, .sch, .fab, .bsn, .ntr, .med, .slu, .twn, .obs, .plain] d v2 := (.step (onTwn_keeps _ _) rfl (.refl _ _))
  exact (.foldl h2 fun x3 _ h3 => (.ite (.step (lineAnswer_keeps _ _ _) rfl h3) (.ite (.step (uncertainSet_keeps _ _) rfl h3) h3)))

theorem voidClaims_keeps (d) : Safety.Keeps [.regs, .glb, .svc, .sch, .fab, .bsn, .twn, .obs] d (voidClaims d) := by
  unfold voidClaims
  extract_lets +onlyGivenNames -underBinder -merge v1
  extract_lets +onlyGivenNames -underBinder -merge v2
  have h2 : Safety.Keeps [.regs, .glb, .svc, .sch, .fab, .bsn, .twn, .obs] d v2 := (.step (onSch_keeps _ _) rfl (.refl _ _))
  exact (.foldl h2 fun x3 _ h3 => (.step (rebindRead_keeps _ _ _ _ _) rfl (.step (releaseWindows_keeps _ _) rfl (.step (noteCause_keeps _ _ _) rfl h3))))

theorem takeover_keeps (a0 d) : Safety.Keeps [.regs, .glb, .svc, .sch, .fab, .bsn, .ntr, .med, .slu, .twn, .grt, .obs, .plain] d (takeover a0 d) := by
  unfold takeover
  extract_lets +onlyGivenNames -underBinder -merge v1
  have h1 : Safety.Keeps [.regs, .glb, .svc, .sch, .fab, .bsn, .ntr, .med, .slu, .twn, .grt, .obs, .plain] d v1 := (.glb rfl (fun _ => ⟨rfl, rfl⟩) (.step (setB_keeps _ _ _) rfl (.refl _ _)))
  extract_lets +onlyGivenNames -underBinder -merge v2
  have h2 : Safety.Keeps [.regs, .glb, .svc, .sch, .fab, .bsn, .ntr, .med, .slu, .twn, .grt, .obs, .plain] d v2 := (.step (raiseN_keeps _ _ _) rfl h1)
  extract_lets +onlyGivenNames -underBinder -merge v3
  have h3 : Safety.Keeps [.regs, .glb, .svc, .sch, .fab, .bsn, .ntr, .med, .slu, .twn, .grt, .obs, .plain] d v3 := (.step (clearAllResv_keeps _) rfl h2)
  extract_lets +onlyGivenNames -underBinder -merge v4
  have h4 : Safety.Keeps [.regs, .glb, .svc, .sch, .fab, .bsn, .ntr, .med, .slu, .twn, .grt, .obs, .plain] d v4 := (.step (onTwn_keeps _ _) rfl h3)
  extract_lets +onlyGivenNames -underBinder -merge v5
  have h5 : Safety.Keeps [.regs, .glb, .svc, .sch, .fab, .bsn, .ntr, .med, .slu, .twn, .grt, .obs, .plain] d v5 := (.step (onBsn_keeps _ _) rfl h4)
  extract_lets +onlyGivenNames -underBinder -merge v6
  have h6 : Safety.Keeps [.regs, .glb, .svc, .sch, .fab, .bsn, .ntr, .med, .slu, .twn, .grt, .obs, .plain] d v6 := (.step (walksAfter_keeps _) rfl (.step (lreqsEnd_keeps _) rfl (.step (voidClaims_keeps _) rfl (.step (commitSweep_keeps _) rfl h5))))
  extract_lets +onlyGivenNames -underBinder -merge v7
  have h7 : Safety.Keeps [.regs, .glb, .svc, .sch, .fab, .bsn, .ntr, .med, .slu, .twn, .grt, .obs, .plain] d v7 := (.foldl h6 fun x8 _ h8 => (.step (progress_keeps _ _) rfl h8))
  exact (.step (grtInc_keeps _ _) rfl h7)

theorem sendLeaf_keeps (a0 a1 d) : Safety.Keeps [.regs, .glb, .svc, .fab, .bsn, .twn, .obs] d (sendLeaf a0 a1 d) := by
  unfold sendLeaf
  extract_lets +onlyGivenNames -underBinder -merge v1
  exact (.step (mirSend_keeps _ _) rfl (.refl _ _))

theorem drawKey_keeps (a0 d) : Safety.Keeps [.regs, .glb, .svc, .fab, .slu, .obs] d (drawKey a0 d) := by
  unfold drawKey
  extract_lets +onlyGivenNames -underBinder -merge v1
  exact (.step (raiseN_keeps _ _ _) rfl (.step (onSlu_keeps _ _) rfl (.refl _ _)))

theorem pastLeaf_keeps (d) : Safety.Keeps [.regs, .twn, .plain] d (pastLeaf d) := by
  unfold pastLeaf
  exact (.step (setF_keeps _ _ _) rfl (.step (onTwn_keeps _ _) rfl (.refl _ _)))

theorem copyLeaf_keeps (a0 d) : Safety.Keeps [.regs, .glb, .svc, .fab, .bsn, .twn, .obs, .plain] d (copyLeaf a0 d) := by
  unfold copyLeaf
  exact (.step (sendLeaf_keeps _ _ _) rfl (.step (count_keeps _ _) rfl (.step (pastLeaf_keeps _) rfl (.refl _ _))))

theorem copyLeaves_keeps (a0 a1 d) :
    Safety.Keeps [.regs, .glb, .svc, .fab, .bsn, .twn, .obs, .plain] d (copyLeaves a0 a1 d) := by
  induction a0 generalizing a1 d with
  | zero => exact .refl _ _
  | succ n ih =>
    unfold copyLeaves
    exact .ite (.step (onTwn_keeps _ _) rfl (.refl _ _)) (.ite (.step (ih _ _) rfl (.step (pastLeaf_keeps _) rfl (.refl _ _)))
      (.ite (.refl _ _) (.step (ih _ _) rfl (.step (copyLeaf_keeps _ _) rfl (.refl _ _)))))

theorem lreqSend_keeps (a0 d) : Safety.Keeps [.regs, .glb, .svc, .fab, .bsn, .twn, .obs] d (lreqSend a0 d) := by
  induction a0 generalizing d with
  | zero => exact .refl _ _
  | succ n ih =>
    unfold lreqSend
    refine .ite (.refl _ _) ?_
    split
    · exact .refl _ _
    · exact .step (ih _) rfl (.step (mirSend_keeps _ _) rfl (.step (onTwn_keeps _ _) rfl (.refl _ _)))

theorem shadowMove_keeps (a0 a1 d) : Safety.Keeps [.bsn] d (shadowMove a0 a1 d) := by
  unfold shadowMove
  extract_lets +onlyGivenNames -underBinder -merge v1
  exact (.ite (.refl _ _) (.step (sfPut_keeps _ _ _ _) rfl (.refl _ _)))

theorem streamMsg_keeps (a0 a1 d) : Safety.Keeps [.regs, .glb, .svc, .fab, .bsn, .ntr, .med, .slu, .twn, .obs, .plain] d (streamMsg a0 a1 d).2 := by
  unfold streamMsg
  extract_lets +onlyGivenNames -underBinder -merge v1
  split
  · split
    · rename_i y3 y4 e5
      have h5 : Safety.Keeps [.regs, .glb, .svc, .fab, .bsn, .ntr, .med, .slu, .twn, .obs, .plain] d y4 := .of_snd e5 ((.step (applyRecs_keeps _ _) rfl (.refl _ _)))
      refine .ite2 ?_ ?_
      · refine .snd_mk ?_
        try dsimp -zeta -iota -proj only [v1]
        exact (.step (mirSend_keeps _ _) rfl h5)
      · exact (.snd_mk h5)
  · split
    · rename_i y8 y9 e10
      have h10 : Safety.Keeps [.regs, .glb, .svc, .fab, .bsn, .ntr, .med, .slu, .twn, .obs, .plain] d y9 := .of_snd e10 ((.step (applyRecs_keeps _ _) rfl (.refl _ _)))
      refine .ite2 ?_ ?_
      · refine .snd_mk ?_
        try dsimp -zeta -iota -proj only [v1]
        exact (.step (mirSend_keeps _ _) rfl h10)
      · exact (.snd_mk h10)
  · exact (.snd_mk (.step (onTwn_keeps _ _) rfl (.refl _ _)))
  · exact (.ite2 (.snd_mk (.step (sendLeaf_keeps _ _ _) rfl (.refl _ _))) (.ite2 (.snd_mk (.step (sendLeaf_keeps _ _ _) rfl (.refl _ _))) (.ite2 (.snd_mk (.step (shadowMove_keeps _ _ _) rfl (.step (answerWay_keeps _ _ _ _) rfl (.refl _ _)))) (.snd_mk (.step (answerWay_keeps _ _ _ _) rfl (.refl _ _))))))
  · refine .ite2 ?_ ?_
    · split
      · exact (.snd_mk (.refl _ _))
      · rename_i y22 e23
        have h23 : Safety.Keeps [.regs, .glb, .svc, .fab, .bsn, .ntr, .med, .slu, .twn, .obs, .plain] d y22 := .step (allocFrame_keeps _ _ e23) rfl (.refl _ _)
        exact (.snd_mk (.step (installLines_keeps _ _ _ _ _) rfl h23))
    · exact (.snd_mk (.refl _ _))
  · exact (.snd_mk (.refl _ _))

theorem stream_keeps (a0 a1 d) :
    Safety.Keeps [.regs, .glb, .svc, .fab, .bsn, .ntr, .med, .slu, .twn, .obs, .plain] d (stream a0 a1 d) := by
  unfold stream
  refine .ite (.step (onTwn_keeps _ _) rfl (.refl _ _)) ?_
  split
  · rename_i x he
    exact .of_snd he (.step (streamMsg_keeps _ _ _) rfl (.refl _ _))
  · rename_i m x he
    exact .step (onTwn_keeps _ _) rfl (.of_snd he (.step (streamMsg_keeps _ _ _) rfl (.refl _ _)))

theorem hsSend_keeps (a0 d) : Safety.Keeps [.regs, .glb, .svc, .fab, .bsn, .twn, .obs] d (hsSend a0 d) := by
  unfold hsSend
  exact (.step (mirSend_keeps _ _) rfl (.refl _ _))

theorem hsBegin_keeps (d) : Safety.Keeps [.regs, .glb, .svc, .fab, .bsn, .twn, .obs] d (hsBegin d) := by
  unfold hsBegin
  refine .ite ?_ ?_
  · exact (.refl _ _)
  · extract_lets +onlyGivenNames -underBinder -merge v1
    have h1 : Safety.Keeps [.regs, .glb, .svc, .fab, .bsn, .twn, .obs] d v1 := (.step (onTwn_keeps _ _) rfl (.refl _ _))
    exact (.step (hsSend_keeps _ _) rfl h1)

theorem keepPartner_keeps (a0 d) : Safety.Keeps [.regs, .grt, .plain] d (keepPartner a0 d) := by
  unfold keepPartner
  exact (.step (setPair_keeps _ _ _ _) rfl (.step (onGrt_keeps _ _) rfl (.refl _ _)))

theorem handoverTry_keeps (d) : Safety.Keeps [.regs, .glb, .svc, .fab, .bsn, .twn, .grt, .obs, .plain] d (handoverTry d) := by
  unfold handoverTry
  extract_lets +onlyGivenNames -underBinder -merge v1
  extract_lets +onlyGivenNames -underBinder -merge v2
  refine .ite ?_ ?_
  · exact (.refl _ _)
  · extract_lets +onlyGivenNames -underBinder -merge v3
    have h3 : Safety.Keeps [.regs, .glb, .svc, .fab, .bsn, .twn, .grt, .obs, .plain] d v3 := (.step (setB_keeps _ _ _) rfl (.step (setB_keeps _ _ _) rfl (.step (mirSend_keeps _ _) rfl (.refl _ _))))
    extract_lets +onlyGivenNames -underBinder -merge v4
    have h4 : Safety.Keeps [.regs, .glb, .svc, .fab, .bsn, .twn, .grt, .obs, .plain] d v4 := by
        dsimp -zeta -iota -proj only [v4]
        refine .foldl (h3) fun x7 z7 h7 => ?_
        extract_lets +onlyGivenNames -underBinder -merge v8
        exact (.step (sendCmp_keeps _ _ _ _ _ _ _) rfl (.step (endT_keeps _ _) rfl h7))
    extract_lets +onlyGivenNames -underBinder -merge v9
    have h9 : Safety.Keeps [.regs, .glb, .svc, .fab, .bsn, .twn, .grt, .obs, .plain] d v9 := (.step (onTwn_keeps _ _) rfl (.step (onBsn_keeps _ _) rfl h4))
    extract_lets +onlyGivenNames -underBinder -merge v10
    have h10 : Safety.Keeps [.regs, .glb, .svc, .fab, .bsn, .twn, .grt, .obs, .plain] d v10 := (.glb rfl (fun _ => ⟨rfl, rfl⟩) (.step (keepPartner_keeps _ _) rfl h9))
    extract_lets +onlyGivenNames -underBinder -merge v11
    exact (.step (raiseN_keeps _ _ _) rfl (.step (grtSetCtr_keeps _ _ _) rfl h10))

theorem heldDrain_keeps (a0 d) :
    Safety.Keeps [.regs, .glb, .svc, .fab, .bsn, .ntr, .med, .slu, .twn, .obs, .plain] d (heldDrain a0 d) := by
  induction a0 generalizing d with
  | zero => exact .refl _ _
  | succ n ih =>
    unfold heldDrain
    split
    · exact .refl _ _
    · split
      · rename_i x he
        exact .step (ih _) rfl (.of_snd he (.step (streamMsg_keeps _ _ _) rfl (.step (onTwn_keeps _ _) rfl (.refl _ _))))
      · rename_i m x he
        exact .step (onTwn_keeps _ _) rfl (.of_snd he (.step (streamMsg_keeps _ _ _) rfl
          (.step (onTwn_keeps _ _) rfl (.refl _ _))))

theorem joinAs_keeps (a0 d) : Safety.Keeps [.regs, .plain] d (joinAs a0 d) := by
  unfold joinAs
  extract_lets +onlyGivenNames -underBinder -merge v1
  exact (.step (setF_keeps _ _ _) rfl (.step (setB_keeps _ _ _) rfl (.refl _ _)))

theorem sendDead_keeps (d) : Safety.Keeps [.regs, .glb, .svc, .fab, .bsn, .twn, .obs] d (sendDead d) := by
  unfold sendDead
  refine .foldl ((.refl _ _)) fun x2 z2 h2 => ?_
  extract_lets +onlyGivenNames -underBinder -merge v3
  have h3 : Safety.Keeps [.regs, .glb, .svc, .fab, .bsn, .twn, .obs] d v3 := (.step (mirSend_keeps _ _) rfl h2)
  exact (.ite (.step (mirSend_keeps _ _) rfl h3) h3)

theorem sendFilter_keeps (d) : Safety.Keeps [.regs, .glb, .svc, .fab, .bsn, .twn, .obs] d (sendFilter d) := by
  unfold sendFilter
  extract_lets +onlyGivenNames -underBinder -merge v1
  try dsimp -zeta -iota -proj only [v1]
  refine .foldl (by
      try dsimp -zeta -iota -proj only [v1]
      exact (.foldl (.refl _ _) fun x2 _ h2 => (.foldl h2 fun x3 _ h3 => (.ite (.step (answerWay_keeps _ _ _ _) rfl h3) h3)))) fun x4 z4 h4 => ?_
  exact (.foldl h4 fun x5 _ h5 => (.ite (.step (answerWay_keeps _ _ _ _) rfl h5) h5))

theorem targetStarts_keeps (d) : Safety.Keeps [.regs, .glb, .svc, .fab, .bsn, .ntr, .med, .xlt, .slu, .grt, .obs] d (targetStarts d) := by
  unfold targetStarts
  extract_lets +onlyGivenNames -underBinder -merge v1
  extract_lets +onlyGivenNames -underBinder -merge v2
  extract_lets +onlyGivenNames -underBinder -merge v3
  extract_lets +onlyGivenNames -underBinder -merge v4
  extract_lets +onlyGivenNames -underBinder -merge v5
  have h5 : Safety.Keeps [.regs, .glb, .svc, .fab, .bsn, .ntr, .med, .xlt, .slu, .grt, .obs] d v5 := (.upd (.refl _ _) fun p hp => by cases p <;> first | rfl | exact id | exact fun _ _ => rfl | exact (hp (by decide)).elim)
  exact (.foldl h5 fun x6 _ h6 => (.step (drawKey_keeps _ _) rfl h6))

theorem hsDone_keeps (a0 d) : Safety.Keeps [.regs, .glb, .svc, .fab, .bsn, .ntr, .med, .xlt, .slu, .twn, .pwr, .grt, .obs, .plain, .base] d (hsDone a0 d) := by
  unfold hsDone
  extract_lets +onlyGivenNames -underBinder -merge v1
  extract_lets +onlyGivenNames -underBinder -merge v2
  have h2 : Safety.Keeps [.regs, .glb, .svc, .fab, .bsn, .ntr, .med, .xlt, .slu, .twn, .pwr, .grt, .obs, .plain, .base] d v2 := (.step (onTwn_keeps _ _) rfl (.refl _ _))
  extract_lets +onlyGivenNames -underBinder -merge v3
  refine .ite ?_ ?_
  · extract_lets +onlyGivenNames -underBinder -merge v4
    have h4 : Safety.Keeps [.regs, .glb, .svc, .fab, .bsn, .ntr, .med, .xlt, .slu, .twn, .pwr, .grt, .obs, .plain, .base] d v4 := (.step (keepPartner_keeps _ _) rfl h2)
    extract_lets +onlyGivenNames -underBinder -merge v5
    have h5 : Safety.Keeps [.regs, .glb, .svc, .fab, .bsn, .ntr, .med, .xlt, .slu, .twn, .pwr, .grt, .obs, .plain, .base] d v5 := (.ite (.step (grtSetCtr_keeps _ _ _) rfl h4) h4)
    extract_lets +onlyGivenNames -underBinder -merge v6
    have h6 : Safety.Keeps [.regs, .glb, .svc, .fab, .bsn, .ntr, .med, .xlt, .slu, .twn, .pwr, .grt, .obs, .plain, .base] d v6 := (.ite (.step (joinAs_keeps _ _) rfl h5) (.step (setB_keeps _ _ _) rfl h5))
    exact (.step (raiseN_keeps _ _ _) rfl (.glb rfl (fun _ => ⟨rfl, rfl⟩) h6))
  · refine .ite ?_ ?_
    · extract_lets +onlyGivenNames -underBinder -merge v7
      have h7 : Safety.Keeps [.regs, .glb, .svc, .fab, .bsn, .ntr, .med, .xlt, .slu, .twn, .pwr, .grt, .obs, .plain, .base] d v7 := (.step (raiseN_keeps _ _ _) rfl (.step (setB_keeps _ _ _) rfl (.step (setB_keeps _ _ _) rfl (.step (setB_keeps _ _ _) rfl h2))))
      extract_lets +onlyGivenNames -underBinder -merge v8
      have h8 : Safety.Keeps [.regs, .glb, .svc, .fab, .bsn, .ntr, .med, .xlt, .slu, .twn, .pwr, .grt, .obs, .plain, .base] d v8 := (.step (onTwn_keeps _ _) rfl h7)
      exact (.step (sendDead_keeps _) rfl (.step (sendFilter_keeps _) rfl h8))
    · refine .ite ?_ ?_
      · extract_lets +onlyGivenNames -underBinder -merge v9
        have h9 : Safety.Keeps [.regs, .glb, .svc, .fab, .bsn, .ntr, .med, .xlt, .slu, .twn, .pwr, .grt, .obs, .plain, .base] d v9 := (.step (raiseN_keeps _ _ _) rfl (.step (setB_keeps _ _ _) rfl (.step (setB_keeps _ _ _) rfl (.step (joinAs_keeps _ _) rfl h2))))
        exact (.step (targetStarts_keeps _) rfl h9)
      · exact (.step (withdraw_keeps _ _) rfl h2)

theorem hsRefuse_keeps (a0 a1 d) : Safety.Keeps [.regs, .glb, .svc, .fab, .twn, .obs, .plain] d (hsRefuse a0 a1 d) := by
  unfold hsRefuse
  extract_lets +onlyGivenNames -underBinder -merge v1
  have h1 : Safety.Keeps [.regs, .glb, .svc, .fab, .twn, .obs, .plain] d v1 := (.step (setB_keeps _ _ _) rfl (.step (setF_keeps _ _ _) rfl (.refl _ _)))
  extract_lets +onlyGivenNames -underBinder -merge v2
  have h2 : Safety.Keeps [.regs, .glb, .svc, .fab, .twn, .obs, .plain] d v2 := (.step (ledDetail_keeps _ _ _ _) rfl (.step (raiseN_keeps _ _ _) rfl h1))
  exact (.step (onTwn_keeps _ _) rfl h2)

theorem linkKeys_keeps (d) : Safety.Keeps [.slu, .twn] d (linkKeys d) := by
  unfold linkKeys
  extract_lets +onlyGivenNames -underBinder -merge v1
  exact (.step (onTwn_keeps _ _) rfl (.step (onSlu_keeps _ _) rfl (.refl _ _)))

theorem hsStep_keeps (a0 a1 d) : Safety.Keeps [.regs, .glb, .svc, .fab, .bsn, .ntr, .med, .xlt, .slu, .twn, .pwr, .grt, .obs, .plain, .base] d (hsStep a0 a1 d) := by
  unfold hsStep
  extract_lets +onlyGivenNames -underBinder -merge v1
  have h1 : Safety.Keeps [.regs, .glb, .svc, .fab, .bsn, .ntr, .med, .xlt, .slu, .twn, .pwr, .grt, .obs, .plain, .base] d v1 := (.ite (.step (hsBegin_keeps _) rfl (.refl _ _)) (.refl _ _))
  refine .ite ?_ ?_
  · exact h1
  · extract_lets +onlyGivenNames -underBinder -merge v2
    refine .ite ?_ ?_
    · exact (.step (hsRefuse_keeps _ _ _) rfl h1)
    · extract_lets +onlyGivenNames -underBinder -merge v3
      have h3 : Safety.Keeps [.regs, .glb, .svc, .fab, .bsn, .ntr, .med, .xlt, .slu, .twn, .pwr, .grt, .obs, .plain, .base] d v3 := (.step (setF_keeps _ _ _) rfl (.step (onTwn_keeps _ _) rfl h1))
      extract_lets +onlyGivenNames -underBinder -merge v4
      have h4 : Safety.Keeps [.regs, .glb, .svc, .fab, .bsn, .ntr, .med, .xlt, .slu, .twn, .pwr, .grt, .obs, .plain, .base] d v4 := (.ite (.step (onTwn_keeps _ _) rfl h3) h3)
      extract_lets +onlyGivenNames -underBinder -merge v5
      have h5 : Safety.Keeps [.regs, .glb, .svc, .fab, .bsn, .ntr, .med, .xlt, .slu, .twn, .pwr, .grt, .obs, .plain, .base] d v5 := (.ite (.step (linkKeys_keeps _) rfl h4) h4)
      exact (.ite (.step (hsSend_keeps _ _) rfl h5) (.step (hsDone_keeps _ _) rfl h5))

theorem resilverEnds_keeps (d) : Safety.Keeps [.regs, .bsn, .twn, .plain] d (resilverEnds d) := by
  unfold resilverEnds
  extract_lets +onlyGivenNames -underBinder -merge v1
  have h1 : Safety.Keeps [.regs, .bsn, .twn, .plain] d v1 := (.step (setB_keeps _ _ _) rfl (.step (setB_keeps _ _ _) rfl (.refl _ _)))
  exact (.step (onTwn_keeps _ _) rfl (.step (onBsn_keeps _ _) rfl h1))

theorem partnerGone_keeps (a0 d) : Safety.Keeps [.regs, .glb, .svc, .sch, .fab, .bsn, .ntr, .med, .slu, .twn, .grt, .obs, .plain] d (partnerGone a0 d) := by
  unfold partnerGone
  split
  · exact (.ite (.ite (.step (resilverEnds_keeps _) rfl (.refl _ _)) (.refl _ _)) (.step (takeover_keeps _ _) rfl (.refl _ _)))
  · exact (.ite (.refl _ _) (.step (takeover_keeps _ _) rfl (.refl _ _)))
  · exact (.ite (.step (resilverEnds_keeps _) rfl (.refl _ _)) (.refl _ _))
  · exact (.refl _ _)

theorem twinTick_keeps (d) : Safety.Keeps [.regs, .glb, .svc, .fab, .bsn, .ntr, .med, .slu, .twn, .grt, .obs, .plain] d (twinTick d) := by
  unfold twinTick
  extract_lets +onlyGivenNames -underBinder -merge v1
  extract_lets +onlyGivenNames -underBinder -merge v2
  have h2 : Safety.Keeps [.regs, .glb, .svc, .fab, .bsn, .ntr, .med, .slu, .twn, .grt, .obs, .plain] d v2 := (.step (onTwn_keeps _ _) rfl (.refl _ _))
  extract_lets +onlyGivenNames -underBinder -merge v3
  have h3 : Safety.Keeps [.regs, .glb, .svc, .fab, .bsn, .ntr, .med, .slu, .twn, .grt, .obs, .plain] d v3 := (.step (setB_keeps _ _ _) rfl (.step (setB_keeps _ _ _) rfl h2))
  extract_lets +onlyGivenNames -underBinder -merge v4
  extract_lets +onlyGivenNames -underBinder -merge v5
  have h5 : Safety.Keeps [.regs, .glb, .svc, .fab, .bsn, .ntr, .med, .slu, .twn, .grt, .obs, .plain] d v5 := (.ite (.step (mirSend_keeps _ _) rfl h3) h3)
  exact (.step (handoverTry_keeps _) rfl (.step (lreqSend_keeps _ _) rfl (.step (heldDrain_keeps _ _) rfl h5)))

theorem resilverTick_keeps (d) : Safety.Keeps [.regs, .glb, .svc, .fab, .bsn, .twn, .obs, .plain] d (resilverTick d) := by
  unfold resilverTick
  exact (.ite (.step (copyLeaves_keeps _ _ _) rfl (.refl _ _)) (.refl _ _))

end Sys2Proof.Machine
end

