-- ==== Sys2Proof/Laws/FrameTwin.lean ====
section
/-!
SUPPORT. What each definition of Machine/Twin.lean leaves alone: one lemma per definition, cited and not unfolded.
-/
namespace Sys2Proof.Machine
open Sys2Proof Sys2Proof.Safety.Keeps

theorem ackTo_keeps (a0 d) : Safety.Keeps [.regs, .glb, .svc, .sch, .fab, .bsn, .twn, .obs, .plain] d (ackTo a0 d) := by
  unfold ackTo
  extract_lets +onlyGivenNames -underBinder -merge v1
  extract_lets +onlyGivenNames -underBinder -merge v2
  exact (.step (commitSweep_keeps _) rfl (.step (onBsn_keeps _ _) rfl (.refl _ _)))

theorem announce_keeps (d) : Safety.Keeps [.regs, .glb, .svc, .fab, .twn, .obs, .plain] d (announce d) := by
  unfold announce
  refine .ite ?_ ?_
  · exact (.refl _ _)
  · extract_lets +onlyGivenNames -underBinder -merge v1
    have h1 : Safety.Keeps [.regs, .glb, .svc, .fab, .twn, .obs, .plain] d v1 := (.step (setB_keeps _ _ _) rfl (.step (onTwn_keeps _ _) rfl (.refl _ _)))
    exact (.foldl h1 fun x2 _ h2 => (.foldl h2 fun x3 _ h3 => (.step (pump_keeps _ _) rfl (.step (evtQueueFirst_keeps _ _ _) rfl h3))))

theorem detachCmd_keeps (a0 d) : Safety.Keeps [.regs, .glb, .svc, .fab, .twn, .obs, .plain] d (detachCmd a0 d) := by
  unfold detachCmd
  extract_lets +onlyGivenNames -underBinder -merge v1
  exact (.ite (.refl _ _) (.ite (.step (setB_keeps _ _ _) rfl (.refl _ _)) (.step (raiseN_keeps _ _ _) rfl (.step (onTwn_keeps _ _) rfl (.refl _ _)))))

theorem claimVoid_keeps (a0 d) : Safety.Keeps [.regs, .glb, .svc, .fab, .bsn, .twn, .obs] d (claimVoid a0 d) := by
  unfold claimVoid
  exact (.step (raiseN_keeps _ _ _) rfl (.step (mirSend_keeps _ _) rfl (.refl _ _)))

theorem claimTake_keeps (a0 a1 a2 a3 d) : Safety.Keeps [.sch] d (claimTake a0 a1 a2 a3 d) := by
  unfold claimTake
  exact (.step (onSch_keeps _ _) rfl (.refl _ _))

theorem claim_keeps (a0 d) : Safety.Keeps [.regs, .glb, .svc, .sch, .fab, .bsn, .twn, .obs] d (claim a0 d) := by
  unfold claim
  extract_lets +onlyGivenNames -underBinder -merge v1
  extract_lets +onlyGivenNames -underBinder -merge v2
  refine .ite ?_ ?_
  · exact (.step (claimVoid_keeps _ _) rfl (.refl _ _))
  · refine .ite ?_ ?_
    · exact (.ite (.step (mirSend_keeps _ _) rfl (.refl _ _)) (.step (sendLeaf_keeps _ _ _) rfl (.refl _ _)))
    · refine .ite ?_ ?_
      · exact (.step (mirSend_keeps _ _) rfl (.refl _ _))
      · extract_lets +onlyGivenNames -underBinder -merge v3
        exact (.step (claimTake_keeps _ _ _ _ _) rfl (.refl _ _))

theorem copySource_keeps (a0 a1 a2 a3 d) : Safety.Keeps [.regs, .glb, .svc, .fab, .bsn, .ntr, .med, .slu, .twn, .obs, .plain] d (copySource a0 a1 a2 a3 d) := by
  unfold copySource
  extract_lets +onlyGivenNames -underBinder -merge v1
  have h1 : Safety.Keeps [.regs, .glb, .svc, .fab, .bsn, .ntr, .med, .slu, .twn, .obs, .plain] d v1 := (.step (onTwn_keeps _ _) rfl (.refl _ _))
  exact (.ite (.step (stream_keeps _ _ _) rfl h1) (.step (raiseN_keeps _ _ _) rfl (.foldl h1 fun x2 _ h2 => (.step (markLost_keeps _ _ _) rfl h2))))

theorem declIn_keeps (a0 a1 a2 d) : Safety.Keeps [.regs, .glb, .svc, .sch, .fab, .bsn, .ntr, .med, .slu, .twn, .obs, .plain] d (declIn a0 a1 a2 d) := by
  unfold declIn
  refine .ite ?_ ?_
  · exact (.ite (.step (startWalk_keeps _ _) rfl (.step (markDead_keeps _ _ _) rfl (.refl _ _))) (.step (declareDead_keeps _ _ _) rfl (.refl _ _)))
  · refine .ite ?_ ?_
    · extract_lets +onlyGivenNames -underBinder -merge v1
      have h1 : Safety.Keeps [.regs, .glb, .svc, .sch, .fab, .bsn, .ntr, .med, .slu, .twn, .obs, .plain] d v1 := (.step (onBsn_keeps _ _) rfl (.refl _ _))
      exact (.ite (.step (onBsn_keeps _ _) rfl h1) h1)
    · exact (.ite (.step (markDead_keeps _ _ _) rfl (.step (onBsn_keeps _ _) rfl (.refl _ _))) (.refl _ _))

theorem detachEnd_keeps (d) : Safety.Keeps [.regs, .glb, .svc, .fab, .bsn, .ntr, .med, .twn, .pwr, .grt, .obs, .plain, .base] d (detachEnd d) := by
  unfold detachEnd
  exact (.ite (.refl _ _) (.step (withdraw_keeps _ _) rfl (.step (onTwn_keeps _ _) rfl (.step (mirSend_keeps _ _) rfl (.refl _ _)))))

theorem handover_keeps (d) : Safety.Keeps [.regs, .glb, .svc, .fab, .twn, .grt, .obs, .plain, .base, .stay] d (handover d) := by
  unfold handover
  refine .ite ?_ ?_
  · exact (.refl _ _)
  · extract_lets +onlyGivenNames -underBinder -merge v1
    have h1 : Safety.Keeps [.regs, .glb, .svc, .fab, .twn, .grt, .obs, .plain, .base, .stay] d v1 := (.step (setB_keeps _ _ _) rfl (.step (setB_keeps _ _ _) rfl (.step (setB_keeps _ _ _) rfl (.refl _ _))))
    extract_lets +onlyGivenNames -underBinder -merge v2
    extract_lets +onlyGivenNames -underBinder -merge v3
    have h3 : Safety.Keeps [.regs, .glb, .svc, .fab, .twn, .grt, .obs, .plain, .base, .stay] d v3 := (.step (grtSetCtr_keeps _ _ _) rfl (.step (keepPartner_keeps _ _) rfl h1))
    extract_lets +onlyGivenNames -underBinder -merge v4
    have h4 : Safety.Keeps [.regs, .glb, .svc, .fab, .twn, .grt, .obs, .plain, .base, .stay] d v4 := (.glbB rfl (fun _ => rfl) h3)
    exact (.step (raiseN_keeps _ _ _) rfl (.step (setF_keeps _ _ _) rfl (.step (onTwn_keeps _ _) rfl h4)))

theorem hbIn_keeps (a0 a1 a2 d) : Safety.Keeps [.regs, .glb, .svc, .fab, .ntr, .med, .twn, .pwr, .grt, .obs, .plain, .base] d (hbIn a0 a1 a2 d) := by
  unfold hbIn
  extract_lets +onlyGivenNames -underBinder -merge v1
  extract_lets +onlyGivenNames -underBinder -merge v2
  have h2 : Safety.Keeps [.regs, .glb, .svc, .fab, .ntr, .med, .twn, .pwr, .grt, .obs, .plain, .base] d v2 := (.step (onTwn_keeps _ _) rfl (.refl _ _))
  extract_lets +onlyGivenNames -underBinder -merge v3
  have h3 : Safety.Keeps [.regs, .glb, .svc, .fab, .ntr, .med, .twn, .pwr, .grt, .obs, .plain, .base] d v3 := (.step (setB_keeps _ _ _) rfl (.step (setF_keeps _ _ _) rfl h2))
  extract_lets +onlyGivenNames -underBinder -merge v4
  have h4 : Safety.Keeps [.regs, .glb, .svc, .fab, .ntr, .med, .twn, .pwr, .grt, .obs, .plain, .base] d v4 := (.ite (.step (raiseN_keeps _ _ _) rfl h3) h3)
  extract_lets +onlyGivenNames -underBinder -merge v5
  have h5 : Safety.Keeps [.regs, .glb, .svc, .fab, .ntr, .med, .twn, .pwr, .grt, .obs, .plain, .base] d v5 := (.step (onTwn_keeps _ _) rfl h4)
  extract_lets +onlyGivenNames -underBinder -merge v6
  have h6 : Safety.Keeps [.regs, .glb, .svc, .fab, .ntr, .med, .twn, .pwr, .grt, .obs, .plain, .base] d v6 := (.ite (.step (raiseN_keeps _ _ _) rfl (.step (setB_keeps _ _ _) rfl (.glb rfl (fun _ => ⟨rfl, rfl⟩) h5))) h5)
  exact (.ite (.step (withdraw_keeps _ _) rfl (.step (raiseBy_keeps _ _ _ _) rfl (.step (setB_keeps _ _ _) rfl h6))) h6)

theorem leafLost_keeps (a0 d) : Safety.Keeps [.regs, .glb, .svc, .sch, .fab, .bsn, .ntr, .med, .slu, .twn, .obs, .plain] d (leafLost a0 d) := by
  unfold leafLost
  extract_lets +onlyGivenNames -underBinder -merge v1
  extract_lets +onlyGivenNames -underBinder -merge v2
  extract_lets +onlyGivenNames -underBinder -merge v3
  have h3 : Safety.Keeps [.regs, .glb, .svc, .sch, .fab, .bsn, .ntr, .med, .slu, .twn, .obs, .plain] d v3 := (.step (ledDetail_keeps _ _ _ _) rfl (.refl _ _))
  refine .foldl (h3) fun x5 z5 h5 => ?_
  extract_lets +onlyGivenNames -underBinder -merge v6
  extract_lets +onlyGivenNames -underBinder -merge v7
  have h7 : Safety.Keeps [.regs, .glb, .svc, .sch, .fab, .bsn, .ntr, .med, .slu, .twn, .obs, .plain] d v7 := (.step (onT_keeps _ _ _) rfl (.step (releaseWindows_keeps _ _) rfl h5))
  exact (.step (advance_keeps _ _) rfl (.ite h7 (.step (markLost_keeps _ _ _) rfl h7)))

theorem leafIn_keeps (a0 a1 a2 a3 d) : Safety.Keeps [.regs, .glb, .svc, .sch, .fab, .bsn, .ntr, .med, .slu, .twn, .obs, .plain] d (leafIn a0 a1 a2 a3 d) := by
  unfold leafIn
  extract_lets +onlyGivenNames -underBinder -merge v1
  extract_lets +onlyGivenNames -underBinder -merge v2
  have h2 : Safety.Keeps [.regs, .glb, .svc, .sch, .fab, .bsn, .ntr, .med, .slu, .twn, .obs, .plain] d v2 := (.foldl (.refl _ _) fun x3 _ h3 => (.step (lineAnswer_keeps _ _ _) rfl h3))
  refine .ite ?_ ?_
  · exact (.step (leafLost_keeps _ _) rfl h2)
  · split
    · exact h2
    · extract_lets +onlyGivenNames -underBinder -merge v7
      extract_lets +onlyGivenNames -underBinder -merge v8
      extract_lets +onlyGivenNames -underBinder -merge v9
      have h9 : Safety.Keeps [.regs, .glb, .svc, .sch, .fab, .bsn, .ntr, .med, .slu, .twn, .obs, .plain] d v9 := (.foldl h2 fun x10 _ h10 => (.step (releaseWindows_keeps _ _) rfl h10))
      exact (.step (fillArrives_keeps _ _ _ _) rfl h9)

theorem pulseIn_keeps (a0 d) : Safety.Keeps [.regs, .glb, .svc, .fab, .twn, .obs, .plain] d (pulseIn a0 d) := by
  unfold pulseIn
  extract_lets +onlyGivenNames -underBinder -merge v1
  extract_lets +onlyGivenNames -underBinder -merge v2
  have h2 : Safety.Keeps [.regs, .glb, .svc, .fab, .twn, .obs, .plain] d v2 := (.step (setB_keeps _ _ _) rfl (.step (onTwn_keeps _ _) rfl (.refl _ _)))
  refine .ite ?_ ?_
  · exact (.step (onTwn_keeps _ _) rfl h2)
  · extract_lets +onlyGivenNames -underBinder -merge v3
    extract_lets +onlyGivenNames -underBinder -merge v4
    extract_lets +onlyGivenNames -underBinder -merge v5
    extract_lets +onlyGivenNames -underBinder -merge v6
    have h6 : Safety.Keeps [.regs, .glb, .svc, .fab, .twn, .obs, .plain] d v6 := (.step (setF_keeps _ _ _) rfl (.step (onTwn_keeps _ _) rfl h2))
    exact (.ite (.step (raiseN_keeps _ _ _) rfl (.step (setB_keeps _ _ _) rfl h6)) h6)

theorem putWay_keeps (a0 a1 a2 a3 d) : Safety.Keeps [.bsn] d (putWay a0 a1 a2 a3 d) := by
  unfold putWay
  extract_lets +onlyGivenNames -underBinder -merge v1
  exact (.step (sfPut_keeps _ _ _ _) rfl (.refl _ _))

theorem reissueEnd_keeps (d) : Safety.Keeps [.regs, .glb, .svc, .fab, .twn, .obs, .plain] d (reissueEnd d) := by
  unfold reissueEnd
  refine .ite ?_ ?_
  · exact (.refl _ _)
  · extract_lets +onlyGivenNames -underBinder -merge v1
    extract_lets +onlyGivenNames -underBinder -merge v2
    have h2 : Safety.Keeps [.regs, .glb, .svc, .fab, .twn, .obs, .plain] d v2 := (.step (setB_keeps _ _ _) rfl (.refl _ _))
    extract_lets +onlyGivenNames -underBinder -merge v3
    have h3 : Safety.Keeps [.regs, .glb, .svc, .fab, .twn, .obs, .plain] d v3 := (.foldl h2 fun x4 _ h4 => (.foldl h4 fun x5 _ h5 => (.step (sendLcf_keeps _ _ _) rfl h5)))
    exact (.step (raiseN_keeps _ _ _) rfl (.step (onTwn_keeps _ _) rfl h3))

theorem wakeSet_keeps (a0 d) : Safety.Keeps [.regs, .glb, .svc, .sch, .fab, .bsn, .ntr, .med, .slu, .twn, .obs, .plain] d (wakeSet a0 d) := by
  unfold wakeSet
  exact (.foldl (.refl _ _) fun x1 _ h1 => (.step (advance_keeps _ _) rfl h1))

theorem wayBack_keeps (a0 a1 d) : Safety.Keeps [.regs, .glb, .svc, .sch, .fab, .bsn, .ntr, .med, .slu, .twn, .obs, .plain] d (wayBack a0 a1 d) := by
  unfold wayBack
  extract_lets +onlyGivenNames -underBinder -merge v1
  extract_lets +onlyGivenNames -underBinder -merge v2
  extract_lets +onlyGivenNames -underBinder -merge v3
  have h3 : Safety.Keeps [.regs, .glb, .svc, .sch, .fab, .bsn, .ntr, .med, .slu, .twn, .obs, .plain] d v3 := (.step (sfPut_keeps _ _ _ _) rfl (.refl _ _))
  extract_lets +onlyGivenNames -underBinder -merge v4
  have h4 : Safety.Keeps [.regs, .glb, .svc, .sch, .fab, .bsn, .ntr, .med, .slu, .twn, .obs, .plain] d v4 := (.step (count_keeps _ _) rfl (.step (setF_keeps _ _ _) rfl h3))
  extract_lets +onlyGivenNames -underBinder -merge v5
  extract_lets +onlyGivenNames -underBinder -merge v6
  have h6 : Safety.Keeps [.regs, .glb, .svc, .sch, .fab, .bsn, .ntr, .med, .slu, .twn, .obs, .plain] d v6 := (.step (setShort_keeps _ _ _) rfl h3)
  extract_lets +onlyGivenNames -underBinder -merge v7
  have h7 : Safety.Keeps [.regs, .glb, .svc, .sch, .fab, .bsn, .ntr, .med, .slu, .twn, .obs, .plain] d v7 := (.ite (.step (sfPut_keeps _ _ _ _) rfl h4) (.ite h6 (.foldl (.step (putWay_keeps _ _ _ _ _) rfl h6) fun x8 _ h8 => (.step (startBi_keeps _ _ _) rfl h8))))
  exact (.step (wakeSet_keeps _ _) rfl h7)

theorem sfway_keeps (a0 a1 a2 d) : Safety.Keeps [.regs, .glb, .svc, .sch, .fab, .bsn, .ntr, .med, .slu, .twn, .obs, .plain] d (sfway a0 a1 a2 d) := by
  unfold sfway
  extract_lets +onlyGivenNames -underBinder -merge v1
  refine .ite ?_ ?_
  · exact (.ite (.step (putWay_keeps _ _ _ _ _) rfl (.refl _ _)) (.refl _ _))
  · split
    · exact (.refl _ _)
    · extract_lets +onlyGivenNames -underBinder -merge v4
      have h4 : Safety.Keeps [.regs, .glb, .svc, .sch, .fab, .bsn, .ntr, .med, .slu, .twn, .obs, .plain] d v4 := (.step (onTwn_keeps _ _) rfl (.refl _ _))
      exact (.ite (.step (wayBack_keeps _ _ _) rfl h4) (.step (putWay_keeps _ _ _ _ _) rfl h4))

theorem void_keeps (a0 a1 a2 d) :
    Safety.Keeps [.regs, .glb, .svc, .sch, .fab, .bsn, .twn, .obs] d (void a0 a1 a2 d) := by
  unfold void
  split
  · exact .refl _ _
  · refine .ite (.step (onT_keeps _ _ _) rfl (.step (onSch_keeps _ _) rfl (.refl _ _))) ?_
    refine .step (rebindRead_keeps _ _ _ _ _) rfl ?_
    split
    · exact .step (noteCause_keeps _ _ _) rfl (.step (onSch_keeps _ _) rfl (.refl _ _))
    · exact .step (releaseWindows_keeps _ _) rfl (.step (noteCause_keeps _ _ _) rfl (.step (onSch_keeps _ _) rfl (.refl _ _)))

end Sys2Proof.Machine
end

