-- ==== Sys2Proof/Laws/FrameFabric.lean ====
section
/-!
SUPPORT. What each definition of Machine/Fabric.lean leaves alone: one lemma per definition, cited and not unfolded.
-/
namespace Sys2Proof.Machine
open Sys2Proof Sys2Proof.Safety.Keeps

theorem takeCredits_keeps (a0 a1 a2 d) : Safety.Keeps [.fab] d (takeCredits a0 a1 a2 d) := by
  unfold takeCredits
  exact (.ite (.refl _ _) (.step (onLink_keeps _ _ _) rfl (.refl _ _)))

theorem takeAck_keeps (a0 a1 d) : Safety.Keeps [.regs, .glb, .svc, .fab, .bsn, .twn, .obs] d (takeAck a0 a1 d) := by
  unfold takeAck
  extract_lets +onlyGivenNames -underBinder -merge v1
  have h1 : Safety.Keeps [.regs, .glb, .svc, .fab, .bsn, .twn, .obs] d v1 := (.step (onLink_keeps _ _ _) rfl (.refl _ _))
  exact (.step (flushLink_keeps _ _) rfl (.ite (.step (pump_keeps _ _) rfl (.step (sweepRetires_keeps _) rfl h1)) (.step (mirPump_keeps _) rfl h1)))

theorem replay_keeps (a0 a1 d) : Safety.Keeps [.regs, .glb, .svc, .fab, .obs] d (replay a0 a1 d) := by
  unfold replay
  extract_lets +onlyGivenNames -underBinder -merge v1
  have h1 : Safety.Keeps [.regs, .glb, .svc, .fab, .obs] d v1 := (.ite (.step (count_keeps _ _) rfl (.refl _ _)) (.refl _ _))
  exact (.step (onLink_keeps _ _ _) rfl h1)

theorem setLt_keeps (a0 a1 a2 d) : Safety.Keeps [.regs, .glb, .svc, .fab, .obs, .plain] d (setLt a0 a1 a2 d) := by
  unfold setLt
  extract_lets +onlyGivenNames -underBinder -merge v1
  extract_lets +onlyGivenNames -underBinder -merge v2
  extract_lets +onlyGivenNames -underBinder -merge v3
  have h3 : Safety.Keeps [.regs, .glb, .svc, .fab, .obs, .plain] d v3 := (.step (onLink_keeps _ _ _) rfl (.refl _ _))
  refine .ite ?_ ?_
  · extract_lets +onlyGivenNames -underBinder -merge v4
    have h4 : Safety.Keeps [.regs, .glb, .svc, .fab, .obs, .plain] d v4 := (.step (setF_keeps _ _ _) rfl h3)
    exact (.ite (.step (raiseN_keeps _ _ _) rfl h4) h4)
  · extract_lets +onlyGivenNames -underBinder -merge v5
    exact (.step (setF_keeps _ _ _) rfl (.step (onLink_keeps _ _ _) rfl h3))

theorem enterRealign_keeps (a0 a1 d) : Safety.Keeps [.regs, .glb, .svc, .fab, .obs, .plain] d (enterRealign a0 a1 d) := by
  unfold enterRealign
  refine .ite ?_ ?_
  · exact (.refl _ _)
  · extract_lets +onlyGivenNames -underBinder -merge v1
    have h1 : Safety.Keeps [.regs, .glb, .svc, .fab, .obs, .plain] d v1 := (.step (onLink_keeps _ _ _) rfl (.refl _ _))
    extract_lets +onlyGivenNames -underBinder -merge v2
    have h2 : Safety.Keeps [.regs, .glb, .svc, .fab, .obs, .plain] d v2 := (.step (setLt_keeps _ _ _ _) rfl h1)
    exact (.ite (.step (raiseN_keeps _ _ _) rfl (.step (count_keeps _ _) rfl (.ite (.step (setB_keeps _ _ _) rfl h2) h2))) h2)

theorem takeNak_keeps (a0 a1 d) : Safety.Keeps [.regs, .glb, .svc, .fab, .obs, .plain] d (takeNak a0 a1 d) := by
  unfold takeNak
  extract_lets +onlyGivenNames -underBinder -merge v1
  have h1 : Safety.Keeps [.regs, .glb, .svc, .fab, .obs, .plain] d v1 := (.step (replay_keeps _ _ _) rfl (.step (onLink_keeps _ _ _) rfl (.refl _ _)))
  exact (.ite (.step (enterRealign_keeps _ _ _) rfl h1) h1)

theorem takeAckNak_keeps (a0 a1 d) : Safety.Keeps [.regs, .glb, .svc, .fab, .bsn, .twn, .obs, .plain] d (takeAckNak a0 a1 d) := by
  unfold takeAckNak
  extract_lets +onlyGivenNames -underBinder -merge v1
  have h1 : Safety.Keeps [.regs, .glb, .svc, .fab, .bsn, .twn, .obs, .plain] d v1 := (.step (takeAck_keeps _ _ _) rfl (.refl _ _))
  exact (.ite (.step (takeNak_keeps _ _ _) rfl h1) (.step (onLink_keeps _ _ _) rfl h1))

theorem slotReq_keeps (a0 a1 d) : Safety.Keeps [.regs, .glb, .svc, .fab, .bsn, .obs, .free, .plain] d (slotReq a0 a1 d) := by
  unfold slotReq
  extract_lets +onlyGivenNames -underBinder -merge v1
  refine .ite ?_ ?_
  · split
    · rename_i y2 y3 e4
      have h4 : Safety.Keeps [.regs, .glb, .svc, .fab, .bsn, .obs, .free, .plain] d y3 := .of_snd e4 ((.step (drawFree_keeps _) rfl (.refl _ _)))
      exact (.step (reqReceived_keeps _ _ _ _) rfl h4)
  · exact (.step (reservedReq_keeps _ _ _) rfl (.refl _ _))

theorem slotRsp_keeps (a0 a1 d) : Safety.Keeps [.regs, .glb, .svc, .sch, .fab, .bsn, .ntr, .med, .slu, .twn, .obs, .plain] d (slotRsp a0 a1 d) := by
  unfold slotRsp
  extract_lets +onlyGivenNames -underBinder -merge v1
  extract_lets +onlyGivenNames -underBinder -merge v2
  extract_lets +onlyGivenNames -underBinder -merge v3
  refine .ite ?_ ?_
  · exact (.step (snpRsp_keeps _ _ _ _ _ _) rfl (.refl _ _))
  · unfold received
    exact (.ite (.refl _ _) (.ite (.step (portError_keeps _ _ _ _ _) rfl (.step (setB_keeps _ _ _) rfl (.refl _ _))) (.ite (.step (giveCredit_keeps _ _ _) rfl (.step (takeCredit_keeps _ _ _) rfl (.step (portError_keeps _ _ _ _ _) rfl (.step (setB_keeps _ _ _) rfl (.refl _ _))))) (.ite (.step (protoError_keeps _ _ _ _ _ _) rfl (.refl _ _)) (.step (giveCredit_keeps _ _ _) rfl (.step (protoError_keeps _ _ _ _ _ _) rfl (.step (takeCredit_keeps _ _ _) rfl (.refl _ _))))))))

theorem slotDat_keeps (a0 a1 a2 d) : Safety.Keeps [.regs, .glb, .svc, .sch, .fab, .bsn, .ntr, .med, .slu, .twn, .obs, .plain] d (slotDat a0 a1 a2 d) := by
  unfold slotDat
  extract_lets +onlyGivenNames -underBinder -merge v1
  extract_lets +onlyGivenNames -underBinder -merge v2
  extract_lets +onlyGivenNames -underBinder -merge v3
  refine .ite ?_ ?_
  · exact (.step (dataWr_keeps _ _ _ _ _ _ _) rfl (.refl _ _))
  · refine .ite ?_ ?_
    · exact (.step (dataSnp_keeps _ _ _ _ _ _) rfl (.refl _ _))
    · unfold received
      exact (.ite (.refl _ _) (.ite (.step (portError_keeps _ _ _ _ _) rfl (.step (setB_keeps _ _ _) rfl (.refl _ _))) (.ite (.step (giveCredit_keeps _ _ _) rfl (.step (takeCredit_keeps _ _ _) rfl (.step (portError_keeps _ _ _ _ _) rfl (.step (setB_keeps _ _ _) rfl (.refl _ _))))) (.ite (.step (protoError_keeps _ _ _ _ _ _) rfl (.refl _ _)) (.step (giveCredit_keeps _ _ _) rfl (.step (protoError_keeps _ _ _ _ _ _) rfl (.step (takeCredit_keeps _ _ _) rfl (.refl _ _))))))))

theorem slotEvt_keeps (a0 a1 d) : Safety.Keeps [.regs, .glb, .svc, .sch, .fab, .bsn, .ntr, .med, .slu, .twn, .obs, .plain] d (slotEvt a0 a1 d) := by
  unfold slotEvt
  extract_lets +onlyGivenNames -underBinder -merge v1
  extract_lets +onlyGivenNames -underBinder -merge v2
  refine .ite ?_ ?_
  · exact (.step (departCmd_keeps _ _ _) rfl (.refl _ _))
  · refine .ite ?_ ?_
    · unfold received
      beta_reduce
      exact (.ite (.refl _ _) (.ite (.step (portError_keeps _ _ _ _ _) rfl (.step (setB_keeps _ _ _) rfl (.refl _ _))) (.ite (.step (giveCredit_keeps _ _ _) rfl (.step (takeCredit_keeps _ _ _) rfl (.step (portError_keeps _ _ _ _ _) rfl (.step (setB_keeps _ _ _) rfl (.refl _ _))))) (.ite (.ite (.step (declareDead_keeps _ _ _) rfl (.refl _ _)) (.step (protoError_keeps _ _ _ _ _ _) rfl (.refl _ _))) (.step (giveCredit_keeps _ _ _) rfl (.ite (.step (declareDead_keeps _ _ _) rfl (.step (takeCredit_keeps _ _ _) rfl (.refl _ _))) (.step (protoError_keeps _ _ _ _ _ _) rfl (.step (takeCredit_keeps _ _ _) rfl (.refl _ _)))))))))
    · unfold received
      exact (.ite (.refl _ _) (.ite (.step (portError_keeps _ _ _ _ _) rfl (.step (setB_keeps _ _ _) rfl (.refl _ _))) (.ite (.step (giveCredit_keeps _ _ _) rfl (.step (takeCredit_keeps _ _ _) rfl (.step (portError_keeps _ _ _ _ _) rfl (.step (setB_keeps _ _ _) rfl (.refl _ _))))) (.ite (.step (protoError_keeps _ _ _ _ _ _) rfl (.refl _ _)) (.step (giveCredit_keeps _ _ _) rfl (.step (protoError_keeps _ _ _ _ _ _) rfl (.step (takeCredit_keeps _ _ _) rfl (.refl _ _))))))))

theorem slotMsg_keeps (a0 a1 a2 d) : Safety.Keeps [.regs, .glb, .svc, .sch, .fab, .bsn, .ntr, .med, .slu, .twn, .obs, .free, .plain] d (slotMsg a0 a1 a2 d) := by
  unfold slotMsg
  split
  · exact (.step (slotReq_keeps _ _ _) rfl (.refl _ _))
  · exact (.step (slotRsp_keeps _ _ _) rfl (.refl _ _))
  · exact (.step (slotDat_keeps _ _ _ _) rfl (.refl _ _))
  · exact (.step (slotEvt_keeps _ _ _) rfl (.refl _ _))
  · exact (.step (portError_keeps _ _ _ _ _) rfl (.step (setB_keeps _ _ _) rfl (.refl _ _)))

theorem slotMsgs_keeps (a0 a1 a2 a3 d) :
    Safety.Keeps [.regs, .glb, .svc, .sch, .fab, .bsn, .ntr, .med, .slu, .twn, .obs, .free, .plain] d (slotMsgs a0 a1 a2 a3 d) := by
  induction a3 generalizing a2 d with
  | nil => exact .refl _ _
  | cons w rest ih =>
    unfold slotMsgs
    exact .step (ih _ _) rfl (.ite (.step (slotMsg_keeps _ _ _ _) rfl (.refl _ _)) (.refl _ _))

theorem acceptFlit_keeps (a0 a1 d) : Safety.Keeps [.regs, .glb, .svc, .sch, .fab, .bsn, .ntr, .med, .slu, .twn, .obs, .free, .plain] d (acceptFlit a0 a1 d) := by
  unfold acceptFlit
  extract_lets +onlyGivenNames -underBinder -merge v1
  have h1 : Safety.Keeps [.regs, .glb, .svc, .sch, .fab, .bsn, .ntr, .med, .slu, .twn, .obs, .free, .plain] d v1 := (.step (onLink_keeps _ _ _) rfl (.refl _ _))
  refine .ite ?_ ?_
  · extract_lets +onlyGivenNames -underBinder -merge v2
    have h2 : Safety.Keeps [.regs, .glb, .svc, .sch, .fab, .bsn, .ntr, .med, .slu, .twn, .obs, .free, .plain] d v2 := (.step (takeCredits_keeps _ _ _ _) rfl (.step (takeCredits_keeps _ _ _ _) rfl h1))
    extract_lets +onlyGivenNames -underBinder -merge v3
    have h3 : Safety.Keeps [.regs, .glb, .svc, .sch, .fab, .bsn, .ntr, .med, .slu, .twn, .obs, .free, .plain] d v3 := (.step (takeAckNak_keeps _ _ _) rfl h2)
    exact (.step (flushLink_keeps _ _) rfl (.ite (.step (slotMsgs_keeps _ _ _ _ _) rfl h3) h3))
  · exact (.step (flushLink_keeps _ _) rfl (.step (takeAckNak_keeps _ _ _) rfl h1))

theorem nakSent_keeps (a0 d) : Safety.Keeps [.regs, .glb, .svc, .fab, .obs, .plain] d (nakSent a0 d) := by
  unfold nakSent
  extract_lets +onlyGivenNames -underBinder -merge v1
  extract_lets +onlyGivenNames -underBinder -merge v2
  have h2 : Safety.Keeps [.regs, .glb, .svc, .fab, .obs, .plain] d v2 := (.step (onLink_keeps _ _ _) rfl (.refl _ _))
  extract_lets +onlyGivenNames -underBinder -merge v3
  have h3 : Safety.Keeps [.regs, .glb, .svc, .fab, .obs, .plain] d v3 := (.step (flushLink_keeps _ _) rfl (.step (count_keeps _ _) rfl h2))
  exact (.ite (.step (enterRealign_keeps _ _ _) rfl h3) h3)

theorem discardFlit_keeps (a0 a1 d) : Safety.Keeps [.regs, .glb, .svc, .fab, .obs, .plain] d (discardFlit a0 a1 d) := by
  unfold discardFlit
  extract_lets +onlyGivenNames -underBinder -merge v1
  have h1 : Safety.Keeps [.regs, .glb, .svc, .fab, .obs, .plain] d v1 := (.ite (.ite (.step (count_keeps _ _) rfl (.step (setB_keeps _ _ _) rfl (.refl _ _))) (.ite (.step (count_keeps _ _) rfl (.step (setB_keeps _ _ _) rfl (.refl _ _))) (.refl _ _))) (.ite (.step (raiseN_keeps _ _ _) rfl (.step (setB_keeps _ _ _) rfl (.step (count_keeps _ _) rfl (.step (count_keeps _ _) rfl (.refl _ _))))) (.refl _ _)))
  exact (.ite h1 (.step (nakSent_keeps _ _) rfl (.step (onLink_keeps _ _ _) rfl h1)))

theorem enterDown_keeps (a0 d) : Safety.Keeps [.regs, .glb, .svc, .fab, .obs, .plain] d (enterDown a0 d) := by
  unfold enterDown
  exact (.step (setLt_keeps _ _ _ _) rfl (.step (onLink_keeps _ _ _) rfl (.refl _ _)))

theorem swapReq_keeps (a0 a1 d) : Safety.Keeps [.fab] d (swapReq a0 a1 d) := by
  unfold swapReq
  unfold lctlIn
  refine .ite ?_ ?_
  · exact (.refl _ _)
  · extract_lets +onlyGivenNames -underBinder -merge v1
    exact (.step (onLink_keeps _ _ _) rfl (.step (onLink_keeps _ _ _) rfl (.refl _ _)))

theorem swapRdy_keeps (a0 a1 d) : Safety.Keeps [.fab] d (swapRdy a0 a1 d) := by
  unfold swapRdy
  unfold lctlIn
  refine .ite ?_ ?_
  · exact (.refl _ _)
  · extract_lets +onlyGivenNames -underBinder -merge v1
    exact (.step (onLink_keeps _ _ _) rfl (.step (onLink_keeps _ _ _) rfl (.refl _ _)))

theorem swapCommit_keeps (a0 a1 d) : Safety.Keeps [.fab] d (swapCommit a0 a1 d) := by
  unfold swapCommit
  unfold lctlIn
  refine .ite ?_ ?_
  · exact (.refl _ _)
  · extract_lets +onlyGivenNames -underBinder -merge v1
    exact (.step (onLink_keeps _ _ _) rfl (.step (onLink_keeps _ _ _) rfl (.refl _ _)))

theorem halfReq_keeps (a0 a1 d) : Safety.Keeps [.fab] d (halfReq a0 a1 d) := by
  unfold halfReq
  unfold lctlIn
  refine .ite ?_ ?_
  · exact (.refl _ _)
  · extract_lets +onlyGivenNames -underBinder -merge v1
    exact (.step (onLink_keeps _ _ _) rfl (.step (onLink_keeps _ _ _) rfl (.refl _ _)))

theorem halfCommit_keeps (a0 a1 d) : Safety.Keeps [.fab] d (halfCommit a0 a1 d) := by
  unfold halfCommit
  unfold lctlIn
  refine .ite ?_ ?_
  · exact (.refl _ _)
  · extract_lets +onlyGivenNames -underBinder -merge v1
    exact (.step (onLink_keeps _ _ _) rfl (.step (onLink_keeps _ _ _) rfl (.refl _ _)))

theorem fcwIn_keeps (a0 a1 d) : Safety.Keeps [.regs, .glb, .svc, .fab, .obs, .plain] d (fcwIn a0 a1 d) := by
  unfold fcwIn
  extract_lets +onlyGivenNames -underBinder -merge v1
  extract_lets +onlyGivenNames -underBinder -merge v2
  extract_lets +onlyGivenNames -underBinder -merge v3
  have h3 : Safety.Keeps [.regs, .glb, .svc, .fab, .obs, .plain] d v3 := (.ite (.step (onLink_keeps _ _ _) rfl (.refl _ _)) (.refl _ _))
  refine .ite ?_ ?_
  · exact h3
  · extract_lets +onlyGivenNames -underBinder -merge v4
    have h4 : Safety.Keeps [.regs, .glb, .svc, .fab, .obs, .plain] d v4 := (.step (onLink_keeps _ _ _) rfl h3)
    refine .ite ?_ ?_
    · exact (.step (onLink_keeps _ _ _) rfl h4)
    · refine .ite ?_ ?_
      · exact h4
      · refine .ite ?_ ?_
        · exact (.step (swapReq_keeps _ _ _) rfl h4)
        · refine .ite ?_ ?_
          · exact (.step (swapRdy_keeps _ _ _) rfl h4)
          · refine .ite ?_ ?_
            · exact (.step (swapCommit_keeps _ _ _) rfl h4)
            · refine .ite ?_ ?_
              · exact (.step (halfReq_keeps _ _ _) rfl h4)
              · refine .ite ?_ ?_
                · exact (.step (halfCommit_keeps _ _ _) rfl h4)
                · refine .ite ?_ ?_
                  · exact (.step (enterRealign_keeps _ _ _) rfl (.step (onLink_keeps _ _ _) rfl h4))
                  · refine .ite ?_ ?_
                    · unfold lctlIn
                      refine .ite ?_ ?_
                      · exact h4
                      · extract_lets +onlyGivenNames -underBinder -merge v5
                        exact (.step (raiseN_keeps _ _ _) rfl (.step (onLink_keeps _ _ _) rfl h4))
                    · exact h4

theorem resumeReplay_keeps (a0 a1 d) : Safety.Keeps [.regs, .glb, .svc, .fab, .obs] d (resumeReplay a0 a1 d) := by
  unfold resumeReplay
  exact (.ite (.step (replay_keeps _ _ _) rfl (.refl _ _)) (.refl _ _))

theorem holdFlit_keeps (a0 a1 d) : Safety.Keeps [.regs, .glb, .svc, .fab, .bsn, .twn, .obs, .plain] d (holdFlit a0 a1 d) := by
  unfold holdFlit
  exact (.ite (.refl _ _) (.step (flushLink_keeps _ _) rfl (.step (takeAckNak_keeps _ _ _) rfl (.step (resumeReplay_keeps _ _ _) rfl (.refl _ _)))))

theorem flitIn_keeps (a0 a1 d) : Safety.Keeps [.regs, .glb, .svc, .sch, .fab, .bsn, .ntr, .med, .slu, .twn, .obs, .free, .plain] d (flitIn a0 a1 d) := by
  unfold flitIn
  refine .ite ?_ ?_
  · exact (.refl _ _)
  · extract_lets +onlyGivenNames -underBinder -merge v1
    have h1 : Safety.Keeps [.regs, .glb, .svc, .sch, .fab, .bsn, .ntr, .med, .slu, .twn, .obs, .free, .plain] d v1 := (.step (fcwIn_keeps _ _ _) rfl (.whenD (.refl _ _) fun x2 h2 => (.step (countN_keeps _ _ _) rfl h2)))
    refine .ite ?_ ?_
    · exact h1
    · refine .ite ?_ ?_
      · exact (.step (holdFlit_keeps _ _ _) rfl h1)
      · extract_lets +onlyGivenNames -underBinder -merge v3
        have h3 : Safety.Keeps [.regs, .glb, .svc, .sch, .fab, .bsn, .ntr, .med, .slu, .twn, .obs, .free, .plain] d v3 := (.ite (.step (resumeReplay_keeps _ _ _) rfl h1) h1)
        extract_lets +onlyGivenNames -underBinder -merge v4
        extract_lets +onlyGivenNames -underBinder -merge v5
        exact (.ite (.step (acceptFlit_keeps _ _ _) rfl h3) (.step (discardFlit_keeps _ _ _) rfl h3))

theorem giveUp_keeps (a0 d) : Safety.Keeps [.regs, .glb, .svc, .sch, .fab, .bsn, .ntr, .med, .slu, .twn, .obs, .plain] d (giveUp a0 d) := by
  unfold giveUp
  extract_lets +onlyGivenNames -underBinder -merge v1
  extract_lets +onlyGivenNames -underBinder -merge v2
  have h2 : Safety.Keeps [.regs, .glb, .svc, .sch, .fab, .bsn, .ntr, .med, .slu, .twn, .obs, .plain] d v2 := (.step (setLt_keeps _ _ _ _) rfl (.step (onLink_keeps _ _ _) rfl (.refl _ _)))
  extract_lets +onlyGivenNames -underBinder -merge v3
  have h3 : Safety.Keeps [.regs, .glb, .svc, .sch, .fab, .bsn, .ntr, .med, .slu, .twn, .obs, .plain] d v3 := (.step (onLink_keeps _ _ _) rfl h2)
  extract_lets +onlyGivenNames -underBinder -merge v4
  extract_lets +onlyGivenNames -underBinder -merge v5
  have h5 : Safety.Keeps [.regs, .glb, .svc, .sch, .fab, .bsn, .ntr, .med, .slu, .twn, .obs, .plain] d v5 := (.set_svc rfl h3)
  exact (.step (sweepRetires_keeps _) rfl (.foldl h5 fun x6 _ h6 => (.step (declareDead_keeps _ _ _) rfl h6)))

theorem goActive_keeps (a0 d) : Safety.Keeps [.regs, .glb, .svc, .fab, .bsn, .twn, .obs, .plain] d (goActive a0 d) := by
  unfold goActive
  extract_lets +onlyGivenNames -underBinder -merge v1
  have h1 : Safety.Keeps [.regs, .glb, .svc, .fab, .bsn, .twn, .obs, .plain] d v1 := (.step (onLink_keeps _ _ _) rfl (.refl _ _))
  extract_lets +onlyGivenNames -underBinder -merge v2
  have h2 : Safety.Keeps [.regs, .glb, .svc, .fab, .bsn, .twn, .obs, .plain] d v2 := (.step (setLt_keeps _ _ _ _) rfl h1)
  exact (.ite (.step (flushLink_keeps _ _) rfl (.step (pump_keeps _ _) rfl h2)) (.step (hsBegin_keeps _) rfl (.step (flushLink_keeps _ _) rfl (.step (mirPump_keeps _) rfl h2))))

theorem halfDone_keeps (a0 a1 d) : Safety.Keeps [.regs, .glb, .svc, .fab, .obs, .plain] d (halfDone a0 a1 d) := by
  unfold halfDone
  extract_lets +onlyGivenNames -underBinder -merge v1
  extract_lets +onlyGivenNames -underBinder -merge v2
  have h2 : Safety.Keeps [.regs, .glb, .svc, .fab, .obs, .plain] d v2 := (.step (onLink_keeps _ _ _) rfl (.refl _ _))
  refine .ite ?_ ?_
  · extract_lets +onlyGivenNames -underBinder -merge v3
    extract_lets +onlyGivenNames -underBinder -merge v4
    have h4 : Safety.Keeps [.regs, .glb, .svc, .fab, .obs, .plain] d v4 := (.forEach h2 fun _ x5 h5 => (.step (setF_keeps _ _ _) rfl h5))
    extract_lets +onlyGivenNames -underBinder -merge v6
    have h6 : Safety.Keeps [.regs, .glb, .svc, .fab, .obs, .plain] d v6 := (.ite (.step (setF_keeps _ _ _) rfl h4) (.step (setF_keeps _ _ _) rfl h4))
    exact (.step (raiseN_keeps _ _ _) rfl (.step (setB_keeps _ _ _) rfl h6))
  · exact (.step (raiseN_keeps _ _ _) rfl (.step (setF_keeps _ _ _) rfl h2))

theorem laneGone_keeps (a0 a1 d) : Safety.Keeps [.regs, .glb, .svc, .fab, .obs, .plain] d (laneGone a0 a1 d) := by
  unfold laneGone
  extract_lets +onlyGivenNames -underBinder -merge v1
  have h1 : Safety.Keeps [.regs, .glb, .svc, .fab, .obs, .plain] d v1 := (.step (onLink_keeps _ _ _) rfl (.refl _ _))
  exact (.ite (.step (enterDown_keeps _ _) rfl (.step (raiseN_keeps _ _ _) rfl h1)) (.step (setF_keeps _ _ _) rfl (.step (enterDown_keeps _ _) rfl (.step (raiseN_keeps _ _ _) rfl h1))))

theorem laneFailed_keeps (a0 a1 d) : Safety.Keeps [.regs, .glb, .svc, .fab, .obs, .plain] d (laneFailed a0 a1 d) := by
  unfold laneFailed
  extract_lets +onlyGivenNames -underBinder -merge v1
  extract_lets +onlyGivenNames -underBinder -merge v2
  extract_lets +onlyGivenNames -underBinder -merge v3
  refine .ite ?_ ?_
  · exact (.refl _ _)
  · refine .ite ?_ ?_
    · exact (.refl _ _)
    · refine .ite ?_ ?_
      · exact (.ite (.step (onLink_keeps _ _ _) rfl (.refl _ _)) (.refl _ _))
      · refine .ite ?_ ?_
        · exact (.step (laneGone_keeps _ _ _) rfl (.refl _ _))
        · extract_lets +onlyGivenNames -underBinder -merge v4
          extract_lets +onlyGivenNames -underBinder -merge v5
          refine .ite ?_ ?_
          · refine .ite ?_ ?_
            · extract_lets +onlyGivenNames -underBinder -merge v6
              exact (.step (onLink_keeps _ _ _) rfl (.refl _ _))
            · exact (.step (laneGone_keeps _ _ _) rfl (.refl _ _))
          · extract_lets +onlyGivenNames -underBinder -merge v7
            exact (.ite (.step (onLink_keeps _ _ _) rfl (.refl _ _)) (.step (laneGone_keeps _ _ _) rfl (.refl _ _)))

theorem swapDone_keeps (a0 a1 d) : Safety.Keeps [.regs, .glb, .svc, .fab, .obs, .plain] d (swapDone a0 a1 d) := by
  unfold swapDone
  extract_lets +onlyGivenNames -underBinder -merge v1
  have h1 : Safety.Keeps [.regs, .glb, .svc, .fab, .obs, .plain] d v1 := (.step (onLink_keeps _ _ _) rfl (.refl _ _))
  refine .ite ?_ ?_
  · extract_lets +onlyGivenNames -underBinder -merge v2
    have h2 : Safety.Keeps [.regs, .glb, .svc, .fab, .obs, .plain] d v2 := by
        dsimp -zeta -iota -proj only [v2]
        split
        · exact h1
        · exact (.step (setF_keeps _ _ _) rfl h1)
    extract_lets +onlyGivenNames -underBinder -merge v5
    have h5 : Safety.Keeps [.regs, .glb, .svc, .fab, .obs, .plain] d v5 := (.ite (.step (setF_keeps _ _ _) rfl h2) (.step (setF_keeps _ _ _) rfl h2))
    exact (.step (raiseN_keeps _ _ _) rfl (.step (count_keeps _ _) rfl (.step (count_keeps _ _) rfl (.step (setB_keeps _ _ _) rfl h5))))
  · exact (.step (raiseN_keeps _ _ _) rfl (.step (count_keeps _ _) rfl (.step (count_keeps _ _) rfl h1)))

theorem laneSwitch_keeps (a0 d) : Safety.Keeps [.regs, .glb, .svc, .fab, .obs, .plain] d (laneSwitch a0 d) := by
  unfold laneSwitch
  refine .ite ?_ ?_
  · exact (.refl _ _)
  · extract_lets +onlyGivenNames -underBinder -merge v1
    extract_lets +onlyGivenNames -underBinder -merge v2
    have h2 : Safety.Keeps [.regs, .glb, .svc, .fab, .obs, .plain] d v2 := by
        dsimp -zeta -iota -proj only [v2]
        split
        · exact (.step (swapDone_keeps _ _ _) rfl (.refl _ _))
        · exact (.step (halfDone_keeps _ _ _) rfl (.refl _ _))
        · exact (.refl _ _)
    exact (.ite (.step (onLink_keeps _ _ _) rfl h2) h2)

theorem lanesAgain_keeps (a0 a1 a2 a3 d) : Safety.Keeps [.regs, .plain] d (lanesAgain a0 a1 a2 a3 d) := by
  unfold lanesAgain
  extract_lets +onlyGivenNames -underBinder -merge v1
  have h1 : Safety.Keeps [.regs, .plain] d v1 := (.step (setF_keeps _ _ _) rfl (.refl _ _))
  refine .ite ?_ ?_
  · exact h1
  · extract_lets +onlyGivenNames -underBinder -merge v2
    have h2 : Safety.Keeps [.regs, .plain] d v2 := (.forEach h1 fun _ x3 h3 => (.step (setF_keeps _ _ _) rfl h3))
    exact (.step (setB_keeps _ _ _) rfl h2)

theorem lanesFound_keeps (a0 a1 a2 a3 d) : Safety.Keeps [.regs, .fab, .plain] d (lanesFound a0 a1 a2 a3 d) := by
  unfold lanesFound
  extract_lets +onlyGivenNames -underBinder -merge v1
  have h1 : Safety.Keeps [.regs, .fab, .plain] d v1 := (.step (setF_keeps _ _ _) rfl (.refl _ _))
  extract_lets +onlyGivenNames -underBinder -merge v2
  extract_lets +onlyGivenNames -underBinder -merge v3
  extract_lets +onlyGivenNames -underBinder -merge v4
  have h4 : Safety.Keeps [.regs, .fab, .plain] d v4 := (.forEach h1 fun _ x5 h5 => (.step (setF_keeps _ _ _) rfl h5))
  extract_lets +onlyGivenNames -underBinder -merge v6
  have h6 : Safety.Keeps [.regs, .fab, .plain] d v6 := (.step (setF_keeps _ _ _) rfl (.step (setF_keeps _ _ _) rfl h4))
  extract_lets +onlyGivenNames -underBinder -merge v7
  have h7 : Safety.Keeps [.regs, .fab, .plain] d v7 := (.step (setB_keeps _ _ _) rfl (.step (setB_keeps _ _ _) rfl h6))
  exact (.step (onLink_keeps _ _ _) rfl h7)

theorem trainAll_keeps (d) : Safety.Keeps [.regs, .glb, .svc, .fab, .obs, .plain] d (trainAll d) := by
  unfold trainAll
  exact (.forEach (.refl _ _) fun _ x1 h1 => (.ite (.step (setLt_keeps _ _ _ _) rfl h1) h1))

theorem paramMirror_keeps (a0 d) : Safety.Keeps [.regs, .glb, .svc, .fab, .twn, .obs, .plain] d (paramMirror a0 d) := by
  unfold paramMirror
  refine .ite ?_ ?_
  · exact (.step (setLt_keeps _ _ _ _) rfl (.refl _ _))
  · refine .ite ?_ ?_
    · exact (.step (raiseN_keeps _ _ _) rfl (.step (setF_keeps _ _ _) rfl (.step (setB_keeps _ _ _) rfl (.step (setLt_keeps _ _ _ _) rfl (.refl _ _)))))
    · refine .ite ?_ ?_
      · extract_lets +onlyGivenNames -underBinder -merge v1
        exact (.step (replay_keeps _ _ _) rfl (.step (onLink_keeps _ _ _) rfl (.refl _ _)))
      · exact (.step (onLink_keeps _ _ _) rfl (.step (onTwn_keeps _ _) rfl (.refl _ _)))

theorem paramRefuse_keeps (a0 d) : Safety.Keeps [.regs, .glb, .svc, .fab, .obs, .plain] d (paramRefuse a0 d) := by
  unfold paramRefuse
  exact (.step (raiseN_keeps _ _ _) rfl (.step (setB_keeps _ _ _) rfl (.ite (.step (setLt_keeps _ _ _ _) rfl (.refl _ _)) (.refl _ _))))

theorem paramPort_keeps (a0 a1 a2 a3 d) : Safety.Keeps [.regs, .glb, .svc, .sch, .fab, .bsn, .ntr, .med, .slu, .twn, .obs, .plain] d (paramPort a0 a1 a2 a3 d) := by
  unfold paramPort
  extract_lets +onlyGivenNames -underBinder -merge v1
  extract_lets +onlyGivenNames -underBinder -merge v2
  refine .ite ?_ ?_
  · refine .ite ?_ ?_
    · exact (.step (paramRefuse_keeps _ _) rfl (.refl _ _))
    · extract_lets +onlyGivenNames -underBinder -merge v3
      extract_lets +onlyGivenNames -underBinder -merge v4
      have h4 : Safety.Keeps [.regs, .glb, .svc, .sch, .fab, .bsn, .ntr, .med, .slu, .twn, .obs, .plain] d v4 := (.step (setPair_keeps _ _ _ _) rfl (.refl _ _))
      exact (.step (replay_keeps _ _ _) rfl (.step (onLink_keeps _ _ _) rfl h4))
  · extract_lets +onlyGivenNames -underBinder -merge v5
    have h5 : Safety.Keeps [.regs, .glb, .svc, .sch, .fab, .bsn, .ntr, .med, .slu, .twn, .obs, .plain] d v5 := (.ite (.step (giveUp_keeps _ _) rfl (.refl _ _)) (.refl _ _))
    refine .ite ?_ ?_
    · exact (.step (paramRefuse_keeps _ _) rfl h5)
    · extract_lets +onlyGivenNames -underBinder -merge v6
      extract_lets +onlyGivenNames -underBinder -merge v7
      have h7 : Safety.Keeps [.regs, .glb, .svc, .sch, .fab, .bsn, .ntr, .med, .slu, .twn, .obs, .plain] d v7 := (.step (setPair_keeps _ _ _ _) rfl h5)
      extract_lets +onlyGivenNames -underBinder -merge v8
      have h8 : Safety.Keeps [.regs, .glb, .svc, .sch, .fab, .bsn, .ntr, .med, .slu, .twn, .obs, .plain] d v8 := (.step (setF_keeps _ _ _) rfl h7)
      exact (.step (onLink_keeps _ _ _) rfl h8)

theorem stateExit_keeps (a0 a1 a2 a3 d) : Safety.Keeps [.regs, .glb, .svc, .fab, .bsn, .twn, .obs, .plain] d (stateExit a0 a1 a2 a3 d) := by
  unfold stateExit
  extract_lets +onlyGivenNames -underBinder -merge v1
  split
  · exact (.ite (.step (setLt_keeps _ _ _ _) rfl (.refl _ _)) (.refl _ _))
  · exact (.ite (.step (setLt_keeps _ _ _ _) rfl (.refl _ _)) (.refl _ _))
  · exact (.ite (.step (setLt_keeps _ _ _ _) rfl (.refl _ _)) (.refl _ _))
  · exact (.step (setLt_keeps _ _ _ _) rfl (.refl _ _))
  · exact (.step (setLt_keeps _ _ _ _) rfl (.ite (.step (lanesFound_keeps _ _ _ _ _) rfl (.refl _ _)) (.refl _ _)))
  · exact (.ite (.step (goActive_keeps _ _) rfl (.refl _ _)) (.refl _ _))
  · split
    · exact (.ite (.step (onLink_keeps _ _ _) rfl (.refl _ _)) (.refl _ _))
    · exact (.refl _ _)
  · exact (.step (goActive_keeps _ _) rfl (.step (onLink_keeps _ _ _) rfl (.ite (.step (lanesAgain_keeps _ _ _ _ _) rfl (.refl _ _)) (.refl _ _))))
  · exact (.ite (.step (goActive_keeps _ _) rfl (.ite (.step (lanesFound_keeps _ _ _ _ _) rfl (.refl _ _)) (.refl _ _))) (.refl _ _))
  · exact (.refl _ _)

end Sys2Proof.Machine
end

