-- ==== Sys2Proof/Laws/FrameNearTier.lean ====
section
/-!
SUPPORT. What each definition of Machine/NearTier.lean leaves alone: one lemma per definition, cited and not unfolded.
-/
namespace Sys2Proof.Machine
open Sys2Proof Sys2Proof.Safety.Keeps

theorem onJournal_keeps (a0 a1 d) : Safety.Keeps [.xlt] d (onJournal a0 a1 d) := by
  unfold onJournal
  exact (.step (onXlt_keeps _ _) rfl (.refl _ _))

theorem askWay_keeps (a0 d) : Safety.Keeps [.twn] d (askWay a0 d) := by
  unfold askWay
  exact (.step (onTwn_keeps _ _) rfl (.refl _ _))

theorem onWeir_keeps (a0 a1 d) : Safety.Keeps [.ntr] d (onWeir a0 a1 d) := by
  unfold onWeir
  exact (.step (onNtr_keeps _ _) rfl (.refl _ _))

theorem scrubRaise_keeps (d) : Safety.Keeps [.ntr] d (scrubRaise d) := by
  unfold scrubRaise
  exact (.step (onWeir_keeps _ _ _) rfl (.refl _ _))

theorem scrubGo_keeps (d) : Safety.Keeps [.regs, .ntr, .plain] d (scrubGo d) := by
  unfold scrubGo
  refine .ite ?_ ?_
  · exact (.step (setB_keeps _ _ _) rfl (.refl _ _))
  · extract_lets +onlyGivenNames -underBinder -merge v1
    have h1 : Safety.Keeps [.regs, .ntr, .plain] d v1 := (.step (onNtr_keeps _ _) rfl (.refl _ _))
    exact (.step (scrubRaise_keeps _) rfl (.step (setB_keeps _ _ _) rfl h1))

theorem ceLog_keeps (a0 a1 a2 a3 a4 d) : Safety.Keeps [.regs, .glb, .svc, .fab, .obs, .plain] d (ceLog a0 a1 a2 a3 a4 d) := by
  unfold ceLog
  split
  · exact (.step (addSat_keeps _ _ _) rfl (.refl _ _))
  · split
    · extract_lets +onlyGivenNames -underBinder -merge v4
      have h4 : Safety.Keeps [.regs, .glb, .svc, .fab, .obs, .plain] d v4 := (.step (setF_keeps _ _ _) rfl (.step (setF_keeps _ _ _) rfl (.step (setF_keeps _ _ _) rfl (.refl _ _))))
      extract_lets +onlyGivenNames -underBinder -merge v5
      have h5 : Safety.Keeps [.regs, .glb, .svc, .fab, .obs, .plain] d v5 := (.step (setF_keeps _ _ _) rfl (.step (setB_keeps _ _ _) rfl h4))
      exact (.step (setF_keeps _ _ _) rfl (.step (setF_keeps _ _ _) rfl h5))
    · exact (.ite (.refl _ _) (.step (raiseN_keeps _ _ _) rfl (.step (setB_keeps _ _ _) rfl (.refl _ _))))

theorem recoverDirty_keeps (a0 a1 d) : Safety.Keeps [.regs, .glb, .svc, .fab, .bsn, .ntr, .slu, .twn, .obs, .plain] d (recoverDirty a0 a1 d) := by
  unfold recoverDirty
  exact (.ite (.step (repairBad_keeps _ _ _) rfl (.refl _ _)) (.step (askLine_keeps _ _) rfl (.step (onNtr_keeps _ _) rfl (.refl _ _))))

theorem recoverLeafLine_keeps (a0 a1 d) : Safety.Keeps [.regs, .glb, .svc, .fab, .bsn, .ntr, .slu, .twn, .obs, .plain] d (recoverLeafLine a0 a1 d) := by
  unfold recoverLeafLine
  extract_lets +onlyGivenNames -underBinder -merge v1
  refine .ite ?_ ?_
  · exact (.refl _ _)
  · extract_lets +onlyGivenNames -underBinder -merge v2
    have h2 : Safety.Keeps [.regs, .glb, .svc, .fab, .bsn, .ntr, .slu, .twn, .obs, .plain] d v2 := by
        dsimp -zeta -iota -proj only [v2]
        unfold noteLine
        beta_reduce
        exact (.foldl (.refl _ _) fun x3 _ h3 => (.step (noteCause_keeps _ _ _) rfl h3))
    exact (.ite (.step (putLine_keeps _ _ _) rfl h2) (.ite h2 (.step (recoverDirty_keeps _ _ _) rfl h2)))

theorem rebuildSegs_keeps (a0 a1 d) : Safety.Keeps [.regs, .glb, .svc, .fab, .xlt, .obs] d (rebuildSegs a0 a1 d) := by
  unfold rebuildSegs
  extract_lets +onlyGivenNames -underBinder -merge v1
  exact (.step (raiseN_keeps _ _ _) rfl (.step (onXlt_keeps _ _) rfl (.refl _ _)))

theorem recoverChannel_keeps (a0 a1 a2 d) : Safety.Keeps [.regs, .glb, .svc, .fab, .bsn, .ntr, .xlt, .slu, .twn, .obs, .plain] d (recoverChannel a0 a1 a2 d) := by
  unfold recoverChannel
  extract_lets +onlyGivenNames -underBinder -merge v1
  have h1 : Safety.Keeps [.regs, .glb, .svc, .fab, .bsn, .ntr, .xlt, .slu, .twn, .obs, .plain] d v1 := (.foldl (.refl _ _) fun x2 _ h2 => (.step (recoverLeafLine_keeps _ _ _) rfl h2))
  extract_lets +onlyGivenNames -underBinder -merge v3
  have h3 : Safety.Keeps [.regs, .glb, .svc, .fab, .bsn, .ntr, .xlt, .slu, .twn, .obs, .plain] d v3 := (.foldl h1 fun x4 _ h4 => (.step (rebuildSegs_keeps _ _ _) rfl h4))
  extract_lets +onlyGivenNames -underBinder -merge v5
  have h5 : Safety.Keeps [.regs, .glb, .svc, .fab, .bsn, .ntr, .xlt, .slu, .twn, .obs, .plain] d v5 := (.step (onXlt_keeps _ _) rfl h3)
  exact (.ite h5 (.step (raiseN_keeps _ _ _) rfl h5))

theorem channelFail_keeps (a0 d) : Safety.Keeps [.regs, .glb, .svc, .fab, .bsn, .ntr, .med, .xlt, .slu, .twn, .pwr, .grt, .obs, .plain, .base] d (channelFail a0 d) := by
  unfold channelFail
  extract_lets +onlyGivenNames -underBinder -merge v1
  extract_lets +onlyGivenNames -underBinder -merge v2
  extract_lets +onlyGivenNames -underBinder -merge v3
  have h3 : Safety.Keeps [.regs, .glb, .svc, .fab, .bsn, .ntr, .med, .xlt, .slu, .twn, .pwr, .grt, .obs, .plain, .base] d v3 := (.step (raiseN_keeps _ _ _) rfl (.refl _ _))
  refine .ite ?_ ?_
  · exact (.step (withdraw_keeps _ _) rfl (.step (raiseBy_keeps _ _ _ _) rfl h3))
  · extract_lets +onlyGivenNames -underBinder -merge v4
    extract_lets +onlyGivenNames -underBinder -merge v5
    extract_lets +onlyGivenNames -underBinder -merge v6
    have h6 : Safety.Keeps [.regs, .glb, .svc, .fab, .bsn, .ntr, .med, .xlt, .slu, .twn, .pwr, .grt, .obs, .plain, .base] d v6 := (.foldl h3 fun x7 _ h7 => (.step (dropLines_keeps _ _) rfl h7))
    extract_lets +onlyGivenNames -underBinder -merge v8
    extract_lets +onlyGivenNames -underBinder -merge v9
    extract_lets +onlyGivenNames -underBinder -merge v10
    have h10 : Safety.Keeps [.regs, .glb, .svc, .fab, .bsn, .ntr, .med, .xlt, .slu, .twn, .pwr, .grt, .obs, .plain, .base] d v10 := (.step (onNtr_keeps _ _) rfl h6)
    extract_lets +onlyGivenNames -underBinder -merge v11
    have h11 : Safety.Keeps [.regs, .glb, .svc, .fab, .bsn, .ntr, .med, .xlt, .slu, .twn, .pwr, .grt, .obs, .plain, .base] d v11 := (.step (setF_keeps _ _ _) rfl (.step (setF_keeps _ _ _) rfl h10))
    extract_lets +onlyGivenNames -underBinder -merge v12
    have h12 : Safety.Keeps [.regs, .glb, .svc, .fab, .bsn, .ntr, .med, .xlt, .slu, .twn, .pwr, .grt, .obs, .plain, .base] d v12 := (.step (setF_keeps _ _ _) rfl (.step (setF_keeps _ _ _) rfl (.step (setF_keeps _ _ _) rfl h11)))
    extract_lets +onlyGivenNames -underBinder -merge v13
    have h13 : Safety.Keeps [.regs, .glb, .svc, .fab, .bsn, .ntr, .med, .xlt, .slu, .twn, .pwr, .grt, .obs, .plain, .base] d v13 := (.step (raiseN_keeps _ _ _) rfl (.step (count_keeps _ _) rfl h12))
    exact (.step (recoverChannel_keeps _ _ _ _) rfl h13)

theorem enterRemap_keeps (a0 a1 a2 d) : Safety.Keeps [.regs, .ntr, .grt, .plain] d (enterRemap a0 a1 a2 d) := by
  unfold enterRemap
  extract_lets +onlyGivenNames -underBinder -merge v1
  have h1 : Safety.Keeps [.regs, .ntr, .grt, .plain] d v1 := (.step (onWeir_keeps _ _ _) rfl (.refl _ _))
  extract_lets +onlyGivenNames -underBinder -merge v2
  have h2 : Safety.Keeps [.regs, .ntr, .grt, .plain] d v2 := (.step (onGrt_keeps _ _) rfl h1)
  exact (.step (setF_keeps _ _ _) rfl h2)

theorem copyBlock_keeps (a0 d) : Safety.Keeps [.regs, .glb, .svc, .fab, .ntr, .grt, .obs, .plain] d (copyBlock a0 d) := by
  unfold copyBlock
  split
  · exact (.refl _ _)
  · refine .ite ?_ ?_
    · exact (.step (onWeir_keeps _ _ _) rfl (.refl _ _))
    · extract_lets +onlyGivenNames -underBinder -merge v4
      have h4 : Safety.Keeps [.regs, .glb, .svc, .fab, .ntr, .grt, .obs, .plain] d v4 := (.step (onWeir_keeps _ _ _) rfl (.refl _ _))
      extract_lets +onlyGivenNames -underBinder -merge v5
      have h5 : Safety.Keeps [.regs, .glb, .svc, .fab, .ntr, .grt, .obs, .plain] d v5 := (.foldl h4 fun x6 _ h6 => (.step (setB_keeps _ _ _) rfl h6))
      extract_lets +onlyGivenNames -underBinder -merge v7
      have h7 : Safety.Keeps [.regs, .glb, .svc, .fab, .ntr, .grt, .obs, .plain] d v7 := (.step (enterRemap_keeps _ _ _ _) rfl h5)
      extract_lets +onlyGivenNames -underBinder -merge v8
      have h8 : Safety.Keeps [.regs, .glb, .svc, .fab, .ntr, .grt, .obs, .plain] d v8 := (.ite (.step (onNtr_keeps _ _) rfl h7) h7)
      exact (.step (raiseN_keeps _ _ _) rfl (.step (count_keeps _ _) rfl h8))

theorem framesOut_keeps (a0 d) : Safety.Keeps [.ntr] d (framesOut a0 d) := by
  unfold framesOut
  refine .foldl ((.refl _ _)) fun x2 z2 h2 => ?_
  split
  · exact (.step (onNtr_keeps _ _) rfl h2)
  · exact (.ite (.step (onNtr_keeps _ _) rfl h2) (.step (dropLines_keeps _ _) rfl (.step (onNtr_keeps _ _) rfl h2)))

theorem framesEmptied_keeps (d) : Safety.Keeps [.ntr] d (framesEmptied d) := by
  unfold framesEmptied
  exact (.step (framesOut_keeps _ _) rfl (.refl _ _))

theorem preempt_keeps (a0 a1 d) : Safety.Keeps [.regs, .glb, .svc, .fab, .ntr, .obs] d (preempt a0 a1 d) := by
  unfold preempt
  split
  · exact (.refl _ _)
  · exact (.step (count_keeps _ _) rfl (.step (onWeir_keeps _ _ _) rfl (.refl _ _)))

theorem jtagTakes_keeps (a0 a1 d) : Safety.Keeps [.regs, .glb, .svc, .fab, .bsn, .ntr, .obs] d (jtagTakes a0 a1 d) := by
  unfold jtagTakes
  refine .ite ?_ ?_
  · exact (.refl _ _)
  · extract_lets +onlyGivenNames -underBinder -merge v1
    have h1 : Safety.Keeps [.regs, .glb, .svc, .fab, .bsn, .ntr, .obs] d v1 := (.step (onWeir_keeps _ _ _) rfl (.step (preempt_keeps _ _ _) rfl (.refl _ _)))
    unfold noteLine
    beta_reduce
    exact (.foldl (.step (raiseN_keeps _ _ _) rfl h1) fun x2 _ h2 => (.step (noteCause_keeps _ _ _) rfl h2))

theorem mergeExpire_keeps (a0 a1 d) : Safety.Keeps [.regs, .glb, .svc, .fab, .bsn, .ntr, .slu, .twn, .obs, .plain] d (mergeExpire a0 a1 d) := by
  unfold mergeExpire
  split
  · exact (.refl _ _)
  · exact (.ite (.refl _ _) (.ite (.step (mergeDrain_keeps _ _) rfl (.refl _ _)) (.step (recoverDirty_keeps _ _ _) rfl (.step (setB_keeps _ _ _) rfl (.step (count_keeps _ _) rfl (.refl _ _))))))

theorem poolDrop_keeps (a0 d) : Safety.Keeps [.ntr] d (poolDrop a0 d) := by
  unfold poolDrop
  split
  · exact (.refl _ _)
  · exact (.step (dropLines_keeps _ _) rfl (.step (onNtr_keeps _ _) rfl (.refl _ _)))

theorem recoverMerge_keeps (a0 d) : Safety.Keeps [.regs, .glb, .svc, .fab, .bsn, .ntr, .slu, .twn, .obs, .plain] d (recoverMerge a0 d) := by
  unfold recoverMerge
  extract_lets +onlyGivenNames -underBinder -merge v1
  extract_lets +onlyGivenNames -underBinder -merge v2
  have h2 : Safety.Keeps [.regs, .glb, .svc, .fab, .bsn, .ntr, .slu, .twn, .obs, .plain] d v2 := (.step (raiseN_keeps _ _ _) rfl (.refl _ _))
  exact (.ite h2 (.step (recoverDirty_keeps _ _ _) rfl (.step (mergeDrop_keeps _ _) rfl h2)))

theorem recoverNode_keeps (a0 a1 a2 d) : Safety.Keeps [.regs, .glb, .svc, .fab, .ntr, .med, .slu, .twn, .pwr, .grt, .obs, .plain, .base] d (recoverNode a0 a1 a2 d) := by
  unfold recoverNode
  extract_lets +onlyGivenNames -underBinder -merge v1
  split
  · exact (.step (onSlu_keeps _ _) rfl (.refl _ _))
  · extract_lets +onlyGivenNames -underBinder -merge v4
    have h4 : Safety.Keeps [.regs, .glb, .svc, .fab, .ntr, .med, .slu, .twn, .pwr, .grt, .obs, .plain, .base] d v4 := (.ite (.refl _ _) (.step (setB_keeps _ _ _) rfl (.step (count_keeps _ _) rfl (.refl _ _))))
    refine .ite ?_ ?_
    · exact (.step (withdraw_keeps _ _) rfl (.step (raiseBy_keeps _ _ _ _) rfl h4))
    · extract_lets +onlyGivenNames -underBinder -merge v5
      extract_lets +onlyGivenNames -underBinder -merge v6
      split
      · exact (.step (onSlu_keeps _ _) rfl h4)
      · exact h4

theorem rewriteShadow_keeps (a0 a1 d) : Safety.Keeps [.regs, .glb, .svc, .fab, .slu, .obs] d (rewriteShadow a0 a1 d) := by
  unfold rewriteShadow
  exact (.step (raiseN_keeps _ _ _) rfl (.step (onSlu_keeps _ _) rfl (.refl _ _)))

theorem recoverUnit_keeps (a0 a1 a2 a3 d) : Safety.Keeps [.regs, .glb, .svc, .fab, .bsn, .ntr, .med, .xlt, .slu, .twn, .pwr, .grt, .obs, .plain, .base] d (recoverUnit a0 a1 a2 a3 d) := by
  unfold recoverUnit
  split
  · exact (.refl _ _)
  · exact (.step (rebuildSegs_keeps _ _ _) rfl (.refl _ _))
  · exact (.refl _ _)
  · exact (.step (recoverLeafLine_keeps _ _ _) rfl (.refl _ _))
  · exact (.step (poolDrop_keeps _ _) rfl (.refl _ _))
  · exact (.refl _ _)
  · exact (.ite (.refl _ _) (.step (onXlt_keeps _ _) rfl (.refl _ _)))
  · exact (.step (recoverNode_keeps _ _ _ _) rfl (.refl _ _))
  · exact (.step (rewriteShadow_keeps _ _ _) rfl (.refl _ _))
  · exact (.step (onJournal_keeps _ _ _) rfl (.refl _ _))
  · exact (.step (raiseN_keeps _ _ _) rfl (.step (onJournal_keeps _ _ _) rfl (.refl _ _)))
  · exact (.ite (.refl _ _) (.step (askWay_keeps _ _) rfl (.step (askWay_keeps _ _) rfl (.refl _ _))))
  · exact (.step (recoverMerge_keeps _ _) rfl (.refl _ _))

theorem refreshTakes_keeps (a0 a1 d) : Safety.Keeps [.regs, .glb, .svc, .fab, .ntr, .obs] d (refreshTakes a0 a1 d) := by
  unfold refreshTakes
  exact (.ite (.refl _ _) (.step (onWeir_keeps _ _ _) rfl (.step (count_keeps _ _) rfl (.step (preempt_keeps _ _ _) rfl (.refl _ _)))))

theorem retireRow_keeps (a0 a1 a2 a3 d) : Safety.Keeps [.regs, .glb, .svc, .fab, .bsn, .ntr, .med, .xlt, .slu, .twn, .pwr, .grt, .obs, .plain, .base] d (retireRow a0 a1 a2 a3 d) := by
  unfold retireRow
  extract_lets +onlyGivenNames -underBinder -merge v1
  extract_lets +onlyGivenNames -underBinder -merge v2
  split
  · exact (.refl _ _)
  · refine .ite ?_ ?_
    · exact (.refl _ _)
    · refine .ite ?_ ?_
      · exact (.ite (.step (raiseN_keeps _ _ _) rfl (.step (framesOut_keeps _ _) rfl (.refl _ _))) (.step (channelFail_keeps _ _) rfl (.refl _ _)))
      · split
        · exact (.step (channelFail_keeps _ _) rfl (.refl _ _))
        · exact (.step (onWeir_keeps _ _ _) rfl (.step (framesOut_keeps _ _) rfl (.refl _ _)))

theorem rowCheck_keeps (a0 a1 a2 a3 a4 d) : Safety.Keeps [.regs, .glb, .svc, .fab, .bsn, .ntr, .med, .xlt, .slu, .twn, .pwr, .grt, .obs, .plain, .base] d (rowCheck a0 a1 a2 a3 a4 d) := by
  unfold rowCheck
  extract_lets +onlyGivenNames -underBinder -merge v1
  exact (.ite (.step (retireRow_keeps _ _ _ _ _) rfl (.refl _ _)) (.refl _ _))

theorem scrubBlock_keeps (d) : Safety.Keeps [.regs, .glb, .svc, .fab, .ntr, .obs, .plain] d (scrubBlock d) := by
  unfold scrubBlock
  refine .ite ?_ ?_
  · exact (.refl _ _)
  · refine .ite ?_ ?_
    · exact (.step (scrubRaise_keeps _) rfl (.step (onNtr_keeps _ _) rfl (.refl _ _)))
    · extract_lets +onlyGivenNames -underBinder -merge v1
      have h1 : Safety.Keeps [.regs, .glb, .svc, .fab, .ntr, .obs, .plain] d v1 := (.step (setF_keeps _ _ _) rfl (.step (setF_keeps _ _ _) rfl (.refl _ _)))
      extract_lets +onlyGivenNames -underBinder -merge v2
      have h2 : Safety.Keeps [.regs, .glb, .svc, .fab, .ntr, .obs, .plain] d v2 := (.step (setF_keeps _ _ _) rfl h1)
      exact (.step (raiseN_keeps _ _ _) rfl (.step (setB_keeps _ _ _) rfl (.step (setB_keeps _ _ _) rfl h2)))

theorem unitErrors_keeps (a0 a1 a2 a3 a4 a5 d) : Safety.Keeps [.regs, .glb, .svc, .fab, .bsn, .ntr, .med, .xlt, .slu, .twn, .pwr, .grt, .obs, .plain, .base] d (unitErrors a0 a1 a2 a3 a4 a5 d) := by
  unfold unitErrors
  extract_lets +onlyGivenNames -underBinder -merge v1
  extract_lets +onlyGivenNames -underBinder -merge v2
  extract_lets +onlyGivenNames -underBinder -merge v3
  extract_lets +onlyGivenNames -underBinder -merge v4
  refine .ite ?_ ?_
  · exact (.refl _ _)
  · clear_value v1
    split
    · exact (.ite (.refl _ _) (.step (recoverUnit_keeps _ _ _ _ _) rfl (.refl _ _)))
    · refine .ite ?_ ?_
      · extract_lets +onlyGivenNames -underBinder -merge v7
        have h7 : Safety.Keeps [.regs, .glb, .svc, .fab, .bsn, .ntr, .med, .xlt, .slu, .twn, .pwr, .grt, .obs, .plain, .base] d v7 := (.step (ceLog_keeps _ _ _ _ _ _) rfl (.step (count_keeps _ _) rfl (.refl _ _)))
        exact (.step (rowCheck_keeps _ _ _ _ _ _) rfl (.ite (.step (onNtr_keeps _ _) rfl h7) h7))
      · extract_lets +onlyGivenNames -underBinder -merge v8
        have h8 : Safety.Keeps [.regs, .glb, .svc, .fab, .bsn, .ntr, .med, .xlt, .slu, .twn, .pwr, .grt, .obs, .plain, .base] d v8 := (.ite (.step (count_keeps _ _) rfl (.step (onWeir_keeps _ _ _) rfl (.refl _ _))) (.step (raiseN_keeps _ _ _) rfl (.step (setB_keeps _ _ _) rfl (.step (count_keeps _ _) rfl (.refl _ _)))))
        extract_lets +onlyGivenNames -underBinder -merge v9
        have h9 : Safety.Keeps [.regs, .glb, .svc, .fab, .bsn, .ntr, .med, .xlt, .slu, .twn, .pwr, .grt, .obs, .plain, .base] d v9 := (.ite (.step (onNtr_keeps _ _) rfl h8) h8)
        extract_lets +onlyGivenNames -underBinder -merge v10
        have h10 : Safety.Keeps [.regs, .glb, .svc, .fab, .bsn, .ntr, .med, .xlt, .slu, .twn, .pwr, .grt, .obs, .plain, .base] d v10 := (.step (raiseN_keeps _ _ _) rfl (.step (recoverUnit_keeps _ _ _ _ _) rfl h9))
        exact (.ite (.step (channelFail_keeps _ _) rfl h10) (.ite (.step (rowCheck_keeps _ _ _ _ _ _) rfl h10) h10))

theorem tenureWork_keeps (a0 a1 a2 d) : Safety.Keeps [.regs, .glb, .svc, .fab, .bsn, .ntr, .med, .xlt, .slu, .twn, .pwr, .grt, .obs, .plain, .base] d (tenureWork a0 a1 a2 d) := by
  unfold tenureWork
  extract_lets +onlyGivenNames -underBinder -merge v1
  extract_lets +onlyGivenNames -underBinder -merge v2
  have h2 : Safety.Keeps [.regs, .glb, .svc, .fab, .bsn, .ntr, .med, .xlt, .slu, .twn, .pwr, .grt, .obs, .plain, .base] d v2 := (.foldl (.refl _ _) fun x3 _ h3 => (.step (unitErrors_keeps _ _ _ _ _ _ _) rfl h3))
  extract_lets +onlyGivenNames -underBinder -merge v4
  have h4 : Safety.Keeps [.regs, .glb, .svc, .fab, .bsn, .ntr, .med, .xlt, .slu, .twn, .pwr, .grt, .obs, .plain, .base] d v4 := (.ite (.step (scrubBlock_keeps _) rfl h2) (.ite (.step (copyBlock_keeps _ _) rfl h2) h2))
  exact (.step (onWeir_keeps _ _ _) rfl h4)

theorem weirGrant_keeps (a0 a1 a2 d) : Safety.Keeps [.regs, .glb, .svc, .fab, .ntr, .obs] d (weirGrant a0 a1 a2 d) := by
  unfold weirGrant
  extract_lets +onlyGivenNames -underBinder -merge v1
  split
  · exact (.step (onWeir_keeps _ _ _) rfl (.refl _ _))
  · exact (.step (count_keeps _ _) rfl (.step (onWeir_keeps _ _ _) rfl (.refl _ _)))

theorem tenureEnd_keeps (a0 a1 d) : Safety.Keeps [.regs, .glb, .svc, .fab, .bsn, .ntr, .med, .xlt, .slu, .twn, .pwr, .grt, .obs, .plain, .base] d (tenureEnd a0 a1 d) := by
  unfold tenureEnd
  refine .ite ?_ ?_
  · exact (.refl _ _)
  · extract_lets +onlyGivenNames -underBinder -merge v1
    extract_lets +onlyGivenNames -underBinder -merge v2
    have h2 : Safety.Keeps [.regs, .glb, .svc, .fab, .bsn, .ntr, .med, .xlt, .slu, .twn, .pwr, .grt, .obs, .plain, .base] d v2 := by
        dsimp -zeta -iota -proj only [v2]
        split
        · exact (.step (onWeir_keeps _ _ _) rfl (.refl _ _))
        · exact (.step (tenureWork_keeps _ _ _ _) rfl (.refl _ _))
    extract_lets +onlyGivenNames -underBinder -merge v5
    exact (.ite h2 (.ite (.step (onWeir_keeps _ _ _) rfl h2) (.step (weirGrant_keeps _ _ _ _) rfl h2)))

end Sys2Proof.Machine
end

