-- ==== Sys2Proof/Laws/FrameSluice.lean ====
section
/-!
SUPPORT. What each definition of Machine/Sluice.lean leaves alone: one lemma per definition, cited and not unfolded.
-/
namespace Sys2Proof.Machine
open Sys2Proof Sys2Proof.Safety.Keeps

theorem rekeyDestaged_keeps (a0 d) : Safety.Keeps [.regs, .slu, .plain] d (rekeyDestaged a0 d) := by
  unfold rekeyDestaged
  exact (.ite (.step (setF_keeps _ _ _) rfl (.step (onSlu_keeps _ _) rfl (.refl _ _))) (.refl _ _))

theorem commitWcEn_keeps (a0 d) : Safety.Keeps [.regs, .glb, .svc, .fab, .slu, .obs, .plain] d (commitWcEn a0 d) := by
  unfold commitWcEn
  exact (.ite (.step (raiseN_keeps _ _ _) rfl (.step (setB_keeps _ _ _) rfl (.refl _ _))) (.ite (.step (setB_keeps _ _ _) rfl (.refl _ _)) (.step (setB_keeps _ _ _) rfl (.step (wcWriteOut_keeps _) rfl (.refl _ _)))))

theorem pageIsolated_keeps (a0 d) : Safety.Keeps [.regs, .glb, .svc, .fab, .obs, .plain] d (pageIsolated a0 d) := by
  unfold pageIsolated
  exact (.step (raiseN_keeps _ _ _) rfl (.step (setB_keeps _ _ _) rfl (.refl _ _)))

theorem onPage_keeps (a0 a1 d) : Safety.Keeps [.slu] d (onPage a0 a1 d) := by
  unfold onPage
  exact (.step (onSlu_keeps _ _) rfl (.refl _ _))

theorem macKeyWord_keeps (a0 a1 a2 d) : Safety.Keeps [.slu] d (macKeyWord a0 a1 a2 d) := by
  unfold macKeyWord
  extract_lets +onlyGivenNames -underBinder -merge v1
  extract_lets +onlyGivenNames -underBinder -merge v2
  extract_lets +onlyGivenNames -underBinder -merge v3
  extract_lets +onlyGivenNames -underBinder -merge v4
  exact (.step (onPage_keeps _ _ _) rfl (.refl _ _))

theorem macKeyClr_keeps (a0 d) : Safety.Keeps [.regs, .glb, .svc, .fab, .slu, .obs] d (macKeyClr a0 d) := by
  unfold macKeyClr
  exact (.step (onPage_keeps _ _ _) rfl (.step (count_keeps _ _) rfl (.refl _ _)))

theorem macFail_keeps (a0 a1 d) : Safety.Keeps [.regs, .glb, .svc, .fab, .slu, .obs] d (macFail a0 a1 d) := by
  unfold macFail
  extract_lets +onlyGivenNames -underBinder -merge v1
  have h1 : Safety.Keeps [.regs, .glb, .svc, .fab, .slu, .obs] d v1 := (.step (onPage_keeps _ _ _) rfl (.refl _ _))
  exact (.step (raiseOnce_keeps _ _ _ _) rfl h1)

theorem macStep_keeps (a0 a1 a2 a3 d) : Safety.Keeps [.regs, .glb, .svc, .fab, .slu, .obs, .free] d (macStep a0 a1 a2 a3 d) := by
  unfold macStep
  extract_lets +onlyGivenNames -underBinder -merge v1
  have h1 : Safety.Keeps [.regs, .glb, .svc, .fab, .slu, .obs, .free] d v1 := (.step (count_keeps _ _) rfl (.refl _ _))
  extract_lets +onlyGivenNames -underBinder -merge v2
  extract_lets +onlyGivenNames -underBinder -merge v3
  refine .ite ?_ ?_
  · split
    · rename_i y4 y5 e6
      have h6 : Safety.Keeps [.regs, .glb, .svc, .fab, .slu, .obs, .free] d y5 := .of_snd e6 ((.ite2 (.snd_mk h1) (.step (drawFree_keeps _) rfl h1)))
      exact (.step (macFail_keeps _ _ _) rfl h6)
  · extract_lets +onlyGivenNames -underBinder -merge v7
    extract_lets +onlyGivenNames -underBinder -merge v8
    extract_lets +onlyGivenNames -underBinder -merge v9
    have h9 : Safety.Keeps [.regs, .glb, .svc, .fab, .slu, .obs, .free] d v9 := (.step (onPage_keeps _ _ _) rfl h1)
    refine .ite ?_ ?_
    · exact h9
    · split
      · rename_i y10 y11 e12
        have h12 : Safety.Keeps [.regs, .glb, .svc, .fab, .slu, .obs, .free] d y11 := .of_snd e12 (by
            refine .ite2 ?_ ?_
            · split
              · rename_i y13 y14 e15
                have h15 : Safety.Keeps [.regs, .glb, .svc, .fab, .slu, .obs, .free] d y14 := .of_snd e15 ((.step (drawFree_keeps _) rfl h9))
                split
                · rename_i y16 y17 e18
                  have h18 : Safety.Keeps [.regs, .glb, .svc, .fab, .slu, .obs, .free] d y17 := .of_snd e18 ((.step (drawFree_keeps _) rfl h15))
                  exact (.snd_mk h18)
            · exact (.snd_mk h9))
        exact (.step (onPage_keeps _ _ _) rfl h12)

theorem macCmd_keeps (a0 a1 d) : Safety.Keeps [.regs, .glb, .svc, .fab, .slu, .obs, .free] d (macCmd a0 a1 d) := by
  unfold macCmd
  exact (.ite (.step (macKeyClr_keeps _ _) rfl (.refl _ _)) (.step (macStep_keeps _ _ _ _ _) rfl (.refl _ _)))

theorem macPortWrite_keeps (a0 a1 a2 d) : Safety.Keeps [.regs, .glb, .svc, .fab, .slu, .obs, .free] d (macPortWrite a0 a1 a2 d) := by
  unfold macPortWrite
  extract_lets +onlyGivenNames -underBinder -merge v1
  exact (.ite (.step (macKeyWord_keeps _ _ _ _) rfl (.refl _ _)) (.ite (.step (macCmd_keeps _ _ _) rfl (.refl _ _)) (.ite (.step (onPage_keeps _ _ _) rfl (.refl _ _)) (.refl _ _))))

theorem wcInvalidate_keeps (d) : Safety.Keeps [.regs, .glb, .svc, .fab, .slu, .obs] d (wcInvalidate d) := by
  unfold wcInvalidate
  exact (.step (onSlu_keeps _ _) rfl (.step (wcWriteOut_keeps _) rfl (.refl _ _)))

theorem setCursor_keeps (a0 d) : Safety.Keeps [.regs, .plain] d (setCursor a0 d) := by
  unfold setCursor
  exact (.step (setF_keeps _ _ _) rfl (.step (setF_keeps _ _ _) rfl (.refl _ _)))

theorem rekeyStart_keeps (a0 a1 a2 d) : Safety.Keeps [.regs, .glb, .svc, .fab, .slu, .obs, .plain] d (rekeyStart a0 a1 a2 d) := by
  unfold rekeyStart
  extract_lets +onlyGivenNames -underBinder -merge v1
  have h1 : Safety.Keeps [.regs, .glb, .svc, .fab, .slu, .obs, .plain] d v1 := (.ite (.step (drawKey_keeps _ _) rfl (.refl _ _)) (.refl _ _))
  extract_lets +onlyGivenNames -underBinder -merge v2
  have h2 : Safety.Keeps [.regs, .glb, .svc, .fab, .slu, .obs, .plain] d v2 := (.ite h1 (.step (onSlu_keeps _ _) rfl h1))
  extract_lets +onlyGivenNames -underBinder -merge v3
  have h3 : Safety.Keeps [.regs, .glb, .svc, .fab, .slu, .obs, .plain] d v3 := (.step (setF_keeps _ _ _) rfl (.step (setF_keeps _ _ _) rfl (.step (setF_keeps _ _ _) rfl h2)))
  extract_lets +onlyGivenNames -underBinder -merge v4
  have h4 : Safety.Keeps [.regs, .glb, .svc, .fab, .slu, .obs, .plain] d v4 := (.step (setB_keeps _ _ _) rfl (.step (setB_keeps _ _ _) rfl h3))
  exact (.step (raiseN_keeps _ _ _) rfl (.step (setF_keeps _ _ _) rfl (.step (setCursor_keeps _ _) rfl h4)))

theorem entropyFails_keeps (d) : Safety.Keeps [.regs, .glb, .svc, .fab, .obs, .plain] d (entropyFails d) := by
  unfold entropyFails
  exact (.step (raiseN_keeps _ _ _) rfl (.step (setB_keeps _ _ _) rfl (.step (setB_keeps _ _ _) rfl (.refl _ _))))

theorem macKeyed_keeps (a0 a1 d) : Safety.Keeps [.slu] d (macKeyed a0 a1 d) := by
  unfold macKeyed
  exact (.step (onPage_keeps _ _ _) rfl (.refl _ _))

theorem macKeyAgent_keeps (a0 a1 a2 d) : Safety.Keeps [.regs, .glb, .svc, .fab, .slu, .obs] d (macKeyAgent a0 a1 a2 d) := by
  unfold macKeyAgent
  exact (.ite (.step (macKeyed_keeps _ _ _) rfl (.refl _ _)) (.step (macFail_keeps _ _ _) rfl (.step (onPage_keeps _ _ _) rfl (.refl _ _))))

theorem macWrite_keeps (a0 a1 a2 a3 d) : Safety.Keeps [.regs, .glb, .svc, .fab, .slu, .obs, .free] d (macWrite a0 a1 a2 a3 d) := by
  unfold macWrite
  extract_lets +onlyGivenNames -underBinder -merge v1
  exact (.ite (.ite (.refl _ _) (.step (macKeyAgent_keeps _ _ _ _) rfl (.refl _ _))) (.ite (.ite (.refl _ _) (.step (macCmd_keeps _ _ _) rfl (.refl _ _))) (.ite (.step (onPage_keeps _ _ _) rfl (.refl _ _)) (.refl _ _))))

theorem macRequest_keeps (a0 a1 a2 d) : Safety.Keeps [.regs, .glb, .svc, .fab, .bsn, .slu, .obs, .free, .plain] d (macRequest a0 a1 a2 d) := by
  unfold macRequest
  extract_lets +onlyGivenNames -underBinder -merge v1
  extract_lets +onlyGivenNames -underBinder -merge v2
  extract_lets +onlyGivenNames -underBinder -merge v3
  refine .ite ?_ ?_
  · exact (.step (refuse_keeps _ _ _) rfl (.refl _ _))
  · refine .ite ?_ ?_
    · exact (.step (refuse_keeps _ _ _) rfl (.step (raiseN_keeps _ _ _) rfl (.step (setB_keeps _ _ _) rfl (.refl _ _))))
    · refine .ite ?_ ?_
      · extract_lets +onlyGivenNames -underBinder -merge v4
        have h4 : Safety.Keeps [.regs, .glb, .svc, .fab, .bsn, .slu, .obs, .free, .plain] d v4 := (.step (sendHome_keeps _ _ _ _ _ _ _ _) rfl (.step (leaveReqs_keeps _ _) rfl (.refl _ _)))
        exact (.step (sendCmp_keeps _ _ _ _ _ _ _) rfl h4)
      · refine .ite ?_ ?_
        · extract_lets +onlyGivenNames -underBinder -merge v5
          have h5 : Safety.Keeps [.regs, .glb, .svc, .fab, .bsn, .slu, .obs, .free, .plain] d v5 := (.step (macWrite_keeps _ _ _ _ _) rfl (.step (leaveReqs_keeps _ _) rfl (.refl _ _)))
          exact (.step (sendCmp_keeps _ _ _ _ _ _ _) rfl h5)
        · exact (.step (refuse_keeps _ _ _) rfl (.refl _ _))

theorem macWindowRequest_keeps (a0 a1 a2 a3 d) : Safety.Keeps [.regs, .glb, .svc, .fab, .bsn, .slu, .obs, .free, .plain] d (macWindowRequest a0 a1 a2 a3 d) := by
  unfold macWindowRequest
  split
  · exact (.refl _ _)
  · exact (.ite (.refl _ _) (.ite (.refl _ _) (.ite (.step (refuse_keeps _ _ _) rfl (.step (protoError_keeps _ _ _ _ _ _) rfl (.refl _ _))) (.ite (.step (refuse_keeps _ _ _) rfl (.step (protoError_keeps _ _ _ _ _ _) rfl (.refl _ _))) (.step (macRequest_keeps _ _ _ _) rfl (.refl _ _))))))

theorem rekeyEnd_keeps (d) : Safety.Keeps [.regs, .glb, .svc, .fab, .slu, .obs, .plain] d (rekeyEnd d) := by
  unfold rekeyEnd
  extract_lets +onlyGivenNames -underBinder -merge v1
  refine .ite ?_ ?_
  · exact (.refl _ _)
  · extract_lets +onlyGivenNames -underBinder -merge v2
    have h2 : Safety.Keeps [.regs, .glb, .svc, .fab, .slu, .obs, .plain] d v2 := (.step (setB_keeps _ _ _) rfl (.refl _ _))
    exact (.ite (.step (raiseN_keeps _ _ _) rfl (.step (setB_keeps _ _ _) rfl h2)) (.ite h2 (.step (raiseN_keeps _ _ _) rfl (.step (onSlu_keeps _ _) rfl h2))))

theorem rekeyLeaf_keeps (a0 d) {e} (h : rekeyLeaf a0 d = some e) :
    Safety.Keeps [.regs, .glb, .svc, .fab, .ntr, .slu, .obs, .plain] d e := by
  unfold rekeyLeaf at h
  split at h
  · cases h; exact .refl _ _
  · split at h
    · cases h; exact .step (setB_keeps _ _ _) rfl (.refl _ _)
    · split at h
      · cases h
      · rw [Option.map_eq_some_iff] at h
        obtain ⟨x, hx, rfl⟩ := h
        refine .step (addSat_keeps _ _ _) rfl (.step (onSlu_keeps _ _) rfl (.step (treeWrite_keeps _ _ _ _) rfl
          (.foldl (.step (fillLeaf_keeps _ _) rfl (.step (mergeDrainLeaf_keeps _ _) rfl
            (.step (allocFrame_keeps _ _ hx) rfl (.refl _ _)))) fun x a hx => .ite (.step (putLine_keeps _ _ _) rfl hx) hx)))

theorem rekeyMove_keeps (a0 d) : Safety.Keeps [.regs, .glb, .svc, .fab, .ntr, .slu, .obs, .plain] d (rekeyMove a0 d) := by
  induction a0 generalizing d with
  | zero => exact .refl _ _
  | succ n ih =>
    unfold rekeyMove
    refine .ite (.refl _ _) ?_
    split
    · exact .refl _ _
    · rename_i x hx
      exact .step (ih _) rfl (.step (setCursor_keeps _ _) rfl (.step (rekeyLeaf_keeps _ _ hx) rfl (.refl _ _)))

theorem rekeyWalkStep_keeps (d) : Safety.Keeps [.regs, .glb, .svc, .fab, .ntr, .slu, .obs, .plain] d (rekeyWalkStep d) := by
  unfold rekeyWalkStep
  exact (.ite (.step (rekeyEnd_keeps _) rfl (.step (rekeyMove_keeps _ _) rfl (.refl _ _))) (.refl _ _))

theorem reseed_keeps (a0 d) : Safety.Keeps [.regs, .glb, .svc, .fab, .obs, .plain] d (reseed a0 d) := by
  unfold reseed
  exact (.ite (.step (setB_keeps _ _ _) rfl (.refl _ _)) (.ite (.step (entropyFails_keeps _) rfl (.refl _ _)) (.refl _ _)))

end Sys2Proof.Machine
end

