-- ==== Sys2Proof/Laws/FrameXlt.lean ====
section
/-!
SUPPORT. What each definition of Machine/Xlt.lean leaves alone: one lemma per definition, cited and not unfolded.
-/
namespace Sys2Proof.Machine
open Sys2Proof Sys2Proof.Safety.Keeps

theorem onDie_keeps (a0 a1 d) : Safety.Keeps [.med] d (onDie a0 a1 d) := by
  unfold onDie
  exact (.set_med rfl (.refl _ _))

theorem onStripe_keeps (a0 a1 a2 d) : Safety.Keeps [.med] d (onStripe a0 a1 a2 d) := by
  unfold onStripe
  exact (.step (onDie_keeps _ _ _) rfl (.refl _ _))

theorem moveValid_keeps (a0 a1 a2 a3 d) : Safety.Keeps [.med] d (moveValid a0 a1 a2 a3 d) := by
  unfold moveValid
  exact (.step (onStripe_keeps _ _ _ _) rfl (.refl _ _))

theorem applyLeaf_keeps (a0 a1 a2 d) : Safety.Keeps [.med, .xlt] d (applyLeaf a0 a1 a2 d) := by
  unfold applyLeaf
  extract_lets +onlyGivenNames -underBinder -merge v1
  extract_lets +onlyGivenNames -underBinder -merge v2
  have h2 : Safety.Keeps [.med, .xlt] d v2 := by
      dsimp -zeta -iota -proj only [v2]
      refine .ite ?_ ?_
      · exact (.refl _ _)
      · split
        · exact (.refl _ _)
        · exact (.step (moveValid_keeps _ _ _ _ _) rfl (.refl _ _))
  extract_lets +onlyGivenNames -underBinder -merge v5
  have h5 : Safety.Keeps [.med, .xlt] d v5 := by
      dsimp -zeta -iota -proj only [v5]
      split
      · exact h2
      · exact (.step (moveValid_keeps _ _ _ _ _) rfl h2)
  exact (.step (onXlt_keeps _ _) rfl h5)

theorem applyStripe_keeps (a0 a1 a2 a3 a4 d) : Safety.Keeps [.med] d (applyStripe a0 a1 a2 a3 a4 d) := by
  unfold applyStripe
  exact (.step (onStripe_keeps _ _ _ _) rfl (.refl _ _))

theorem applyRecord_keeps (a0 a1 a2 d) : Safety.Keeps [.med, .xlt] d (applyRecord a0 a1 a2 d) := by
  unfold applyRecord
  split
  · exact (.refl _ _)
  · exact (.step (applyLeaf_keeps _ _ _ _) rfl (.refl _ _))
  · exact (.step (onXlt_keeps _ _) rfl (.refl _ _))
  · exact (.step (applyStripe_keeps _ _ _ _ _ _) rfl (.refl _ _))
  · exact (.step (onStripe_keeps _ _ _ _) rfl (.refl _ _))
  · exact (.step (onStripe_keeps _ _ _ _) rfl (.refl _ _))
  · exact (.step (onJournal_keeps _ _ _) rfl (.refl _ _))
  · exact (.step (onDie_keeps _ _ _) rfl (.refl _ _))

theorem reloadDone_keeps (a0 a1 a2 d) : Safety.Keeps [.xlt] d (reloadDone a0 a1 a2 d) := by
  unfold reloadDone
  exact (.ite (.refl _ _) (.step (onXlt_keeps _ _) rfl (.refl _ _)))

theorem destageCounters_keeps (a0 d) : Safety.Keeps [.regs, .glb, .svc, .fab, .ntr, .slu, .obs, .plain] d (destageCounters a0 d) := by
  unfold destageCounters
  extract_lets +onlyGivenNames -underBinder -merge v1
  extract_lets +onlyGivenNames -underBinder -merge v2
  have h2 : Safety.Keeps [.regs, .glb, .svc, .fab, .ntr, .slu, .obs, .plain] d v2 := (.step (majorInc_keeps _ _) rfl (.refl _ _))
  extract_lets +onlyGivenNames -underBinder -merge v3
  have h3 : Safety.Keeps [.regs, .glb, .svc, .fab, .ntr, .slu, .obs, .plain] d v3 := by
      dsimp -zeta -iota -proj only [v3]
      refine .foldl (h2) fun x6 z6 h6 => ?_
      extract_lets +onlyGivenNames -underBinder -merge v7
      exact (.ite h6 (.step (putLine_keeps _ _ _) rfl h6))
  exact (.step (treeWrite_keeps _ _ _ _) rfl h3)

theorem repopDone_keeps (a0 d) : Safety.Keeps [.regs, .glb, .svc, .fab, .xlt, .obs, .plain] d (repopDone a0 d) := by
  unfold repopDone
  split
  · exact (.refl _ _)
  · refine .ite ?_ ?_
    · exact (.refl _ _)
    · extract_lets +onlyGivenNames -underBinder -merge v3
      have h3 : Safety.Keeps [.regs, .glb, .svc, .fab, .xlt, .obs, .plain] d v3 := (.step (onXlt_keeps _ _) rfl (.refl _ _))
      extract_lets +onlyGivenNames -underBinder -merge v4
      refine .ite ?_ ?_
      · exact h3
      · extract_lets +onlyGivenNames -underBinder -merge v5
        extract_lets +onlyGivenNames -underBinder -merge v6
        have h6 : Safety.Keeps [.regs, .glb, .svc, .fab, .xlt, .obs, .plain] d v6 := (.step (onXlt_keeps _ _) rfl h3)
        extract_lets +onlyGivenNames -underBinder -merge v7
        have h7 : Safety.Keeps [.regs, .glb, .svc, .fab, .xlt, .obs, .plain] d v7 := (.step (addSat_keeps _ _ _) rfl h6)
        exact (.ite (.step (raiseN_keeps _ _ _) rfl (.step (setB_keeps _ _ _) rfl (.step (onXlt_keeps _ _) rfl h7))) h7)

theorem doChange_keeps (a0 d) : Safety.Keeps [.regs, .glb, .svc, .fab, .ntr, .med, .xlt, .slu, .obs, .plain] d (doChange a0 d) := by
  unfold doChange
  extract_lets +onlyGivenNames -underBinder -merge v1
  refine .ite ?_ ?_
  · exact (.step (count_keeps _ _) rfl (.refl _ _))
  · extract_lets +onlyGivenNames -underBinder -merge v2
    extract_lets +onlyGivenNames -underBinder -merge v3
    have h3 : Safety.Keeps [.regs, .glb, .svc, .fab, .ntr, .med, .xlt, .slu, .obs, .plain] d v3 := (.step (onJournal_keeps _ _ _) rfl (.refl _ _))
    extract_lets +onlyGivenNames -underBinder -merge v4
    have h4 : Safety.Keeps [.regs, .glb, .svc, .fab, .ntr, .med, .xlt, .slu, .obs, .plain] d v4 := (.step (applyRecord_keeps _ _ _ _) rfl h3)
    extract_lets +onlyGivenNames -underBinder -merge v5
    have h5 : Safety.Keeps [.regs, .glb, .svc, .fab, .ntr, .med, .xlt, .slu, .obs, .plain] d v5 := by
        dsimp -zeta -iota -proj only [v5]
        split
        · exact h4
        · exact (.step (reloadDone_keeps _ _ _ _) rfl (.step (rekeyDestaged_keeps _ _) rfl (.step (destageCounters_keeps _ _) rfl (.step (count_keeps _ _) rfl h4))))
    split
    · exact (.step (repopDone_keeps _ _) rfl h5)
    · exact h5

theorem changesGo_keeps (a0 a1 d) :
    Safety.Keeps [.regs, .glb, .svc, .fab, .ntr, .med, .xlt, .slu, .obs, .plain] d (changesGo a0 a1 d) := by
  induction a0 generalizing a1 d with
  | nil => exact .refl _ _
  | cons c rest ih =>
    unfold changesGo
    exact .ite (.step (ih _ _) rfl (.step (onXlt_keeps _ _) rfl (.refl _ _)))
      (.step (ih _ _) rfl (.step (doChange_keeps _ _) rfl (.refl _ _)))

theorem runChanges_keeps (d) : Safety.Keeps [.regs, .glb, .svc, .fab, .ntr, .med, .xlt, .slu, .obs, .plain] d (runChanges d) := by
  unfold runChanges
  extract_lets +onlyGivenNames -underBinder -merge v1
  exact (.step (changesGo_keeps _ _ _) rfl (.step (onXlt_keeps _ _) rfl (.refl _ _)))

theorem change_keeps (a0 d) : Safety.Keeps [.regs, .glb, .svc, .fab, .ntr, .med, .xlt, .slu, .obs, .plain] d (change a0 d) := by
  unfold change
  exact (.step (runChanges_keeps _) rfl (.step (onXlt_keeps _ _) rfl (.refl _ _)))

theorem stripeTo_keeps (a0 a1 a2 a3 a4 d) : Safety.Keeps [.regs, .glb, .svc, .fab, .ntr, .med, .xlt, .slu, .obs, .plain] d (stripeTo a0 a1 a2 a3 a4 d) := by
  unfold stripeTo
  exact (.step (change_keeps _ _) rfl (.refl _ _))

theorem medEvent_keeps (a0 a1 a2 a3 a4 d) : Safety.Keeps [.regs, .glb, .svc, .fab, .obs] d (medEvent a0 a1 a2 a3 a4 d) := by
  unfold medEvent
  exact (.step (raiseN_keeps _ _ _) rfl (.refl _ _))

theorem onChan_keeps (a0 a1 d) : Safety.Keeps [.med] d (onChan a0 a1 d) := by
  unfold onChan
  exact (.set_med rfl (.refl _ _))

theorem poisonIndex_keeps (a0 d) : Safety.Keeps [.regs, .glb, .svc, .fab, .bsn, .ntr, .slu, .twn, .obs, .plain] d (poisonIndex a0 d) := by
  unfold poisonIndex
  extract_lets +onlyGivenNames -underBinder -merge v1
  exact (.foldl (.refl _ _) fun x2 _ h2 => (.foldl h2 fun x3 _ h3 => (.step (markLost_keeps _ _ _) rfl h3)))

theorem rebuildIndex_keeps (a0 d) : Safety.Keeps [.regs, .glb, .svc, .fab, .ntr, .med, .xlt, .slu, .obs, .plain] d (rebuildIndex a0 d) := by
  unfold rebuildIndex
  extract_lets +onlyGivenNames -underBinder -merge v1
  extract_lets +onlyGivenNames -underBinder -merge v2
  have h2 : Safety.Keeps [.regs, .glb, .svc, .fab, .ntr, .med, .xlt, .slu, .obs, .plain] d v2 := (.step (onXlt_keeps _ _) rfl (.refl _ _))
  exact (.step (change_keeps _ _) rfl h2)

theorem dieFails_keeps (a0 a1 a2 d) : Safety.Keeps [.regs, .glb, .svc, .fab, .bsn, .ntr, .med, .xlt, .slu, .twn, .pwr, .grt, .obs, .plain, .base] d (dieFails a0 a1 a2 d) := by
  unfold dieFails
  extract_lets +onlyGivenNames -underBinder -merge v1
  extract_lets +onlyGivenNames -underBinder -merge v2
  refine .ite ?_ ?_
  · exact (.refl _ _)
  · extract_lets +onlyGivenNames -underBinder -merge v3
    have h3 : Safety.Keeps [.regs, .glb, .svc, .fab, .bsn, .ntr, .med, .xlt, .slu, .twn, .pwr, .grt, .obs, .plain, .base] d v3 := (.step (setF_keeps _ _ _) rfl (.step (setB_keeps _ _ _) rfl (.refl _ _)))
    extract_lets +onlyGivenNames -underBinder -merge v4
    have h4 : Safety.Keeps [.regs, .glb, .svc, .fab, .bsn, .ntr, .med, .xlt, .slu, .twn, .pwr, .grt, .obs, .plain, .base] d v4 := (.step (medEvent_keeps _ _ _ _ _ _) rfl (.step (onChan_keeps _ _ _) rfl h3))
    extract_lets +onlyGivenNames -underBinder -merge v5
    have h5 : Safety.Keeps [.regs, .glb, .svc, .fab, .bsn, .ntr, .med, .xlt, .slu, .twn, .pwr, .grt, .obs, .plain, .base] d v5 := (.step (onDie_keeps _ _ _) rfl h4)
    extract_lets +onlyGivenNames -underBinder -merge v6
    refine .ite ?_ ?_
    · exact (.step (setF_keeps _ _ _) rfl h5)
    · split
      · exact (.ite (.step (raiseN_keeps _ _ _) rfl (.step (poisonIndex_keeps _ _) rfl h5)) (.step (withdraw_keeps _ _) rfl (.step (raiseBy_keeps _ _ _ _) rfl h5)))
      · extract_lets +onlyGivenNames -underBinder -merge v9
        have h9 : Safety.Keeps [.regs, .glb, .svc, .fab, .bsn, .ntr, .med, .xlt, .slu, .twn, .pwr, .grt, .obs, .plain, .base] d v9 := (.step (setF_keeps _ _ _) rfl h5)
        extract_lets +onlyGivenNames -underBinder -merge v10
        extract_lets +onlyGivenNames -underBinder -merge v11
        have h11 : Safety.Keeps [.regs, .glb, .svc, .fab, .bsn, .ntr, .med, .xlt, .slu, .twn, .pwr, .grt, .obs, .plain, .base] d v11 := (.set_med rfl h9)
        exact (.ite (.step (raiseN_keeps _ _ _) rfl (.step (poisonIndex_keeps _ _) rfl h11)) (.step (rebuildIndex_keeps _ _) rfl h11))

theorem retireBlock_keeps (a0 a1 a2 a3 d) : Safety.Keeps [.regs, .glb, .svc, .fab, .bsn, .ntr, .med, .xlt, .slu, .twn, .pwr, .grt, .obs, .plain, .base] d (retireBlock a0 a1 a2 a3 d) := by
  unfold retireBlock
  extract_lets +onlyGivenNames -underBinder -merge v1
  extract_lets +onlyGivenNames -underBinder -merge v2
  extract_lets +onlyGivenNames -underBinder -merge v3
  have h3 : Safety.Keeps [.regs, .glb, .svc, .fab, .bsn, .ntr, .med, .xlt, .slu, .twn, .pwr, .grt, .obs, .plain, .base] d v3 := (.step (onDie_keeps _ _ _) rfl (.refl _ _))
  extract_lets +onlyGivenNames -underBinder -merge v4
  have h4 : Safety.Keeps [.regs, .glb, .svc, .fab, .bsn, .ntr, .med, .xlt, .slu, .twn, .pwr, .grt, .obs, .plain, .base] d v4 := (.step (setPair_keeps _ _ _ _) rfl h3)
  extract_lets +onlyGivenNames -underBinder -merge v5
  have h5 : Safety.Keeps [.regs, .glb, .svc, .fab, .bsn, .ntr, .med, .xlt, .slu, .twn, .pwr, .grt, .obs, .plain, .base] d v5 := (.step (setF_keeps _ _ _) rfl (.step (setF_keeps _ _ _) rfl (.step (setF_keeps _ _ _) rfl h4)))
  extract_lets +onlyGivenNames -underBinder -merge v6
  have h6 : Safety.Keeps [.regs, .glb, .svc, .fab, .bsn, .ntr, .med, .xlt, .slu, .twn, .pwr, .grt, .obs, .plain, .base] d v6 := (.step (setF_keeps _ _ _) rfl (.step (setB_keeps _ _ _) rfl h5))
  extract_lets +onlyGivenNames -underBinder -merge v7
  have h7 : Safety.Keeps [.regs, .glb, .svc, .fab, .bsn, .ntr, .med, .xlt, .slu, .twn, .pwr, .grt, .obs, .plain, .base] d v7 := (.step (medEvent_keeps _ _ _ _ _ _) rfl h6)
  extract_lets +onlyGivenNames -underBinder -merge v8
  have h8 : Safety.Keeps [.regs, .glb, .svc, .fab, .bsn, .ntr, .med, .xlt, .slu, .twn, .pwr, .grt, .obs, .plain, .base] d v8 := (.step (change_keeps _ _) rfl h7)
  extract_lets +onlyGivenNames -underBinder -merge v9
  have h9 : Safety.Keeps [.regs, .glb, .svc, .fab, .bsn, .ntr, .med, .xlt, .slu, .twn, .pwr, .grt, .obs, .plain, .base] d v9 := by
      dsimp -zeta -iota -proj only [v9]
      split
      · exact h8
      · exact (.step (stripeTo_keeps _ _ _ _ _ _) rfl h8)
  extract_lets +onlyGivenNames -underBinder -merge v12
  exact (.ite (.step (dieFails_keeps _ _ _ _) rfl h9) h9)

theorem takeDestage_keeps (a0 a1 d) : Safety.Keeps [.regs, .glb, .svc, .fab, .ntr, .slu, .obs, .plain] d (takeDestage a0 a1 d).2 := by
  unfold takeDestage
  extract_lets +onlyGivenNames -underBinder -merge v1
  have h1 : Safety.Keeps [.regs, .glb, .svc, .fab, .ntr, .slu, .obs, .plain] d v1 := (.step (treeWalk_keeps _ _) rfl (.step (fillLeaf_keeps _ _) rfl (.step (mergeDrainLeaf_keeps _ _) rfl (.refl _ _))))
  extract_lets +onlyGivenNames -underBinder -merge v2
  exact (.snd_mk h1)

theorem startDestage_keeps (a0 a1 d) :
    Safety.Keeps [.regs, .glb, .svc, .fab, .ntr, .med, .slu, .obs, .plain] d (startDestage a0 a1 d) := by
  unfold startDestage
  exact .step (onDie_keeps _ _ _) rfl (.foldl_snd (.snd_mk (.refl _ _)) fun x a hx => .snd_mk (.step (takeDestage_keeps _ _ _) rfl hx))

theorem startResilver_keeps (a0 a1 a2 a3 d) : Safety.Keeps [.regs, .glb, .svc, .fab, .ntr, .med, .slu, .obs, .plain] d (startResilver a0 a1 a2 a3 d) := by
  unfold startResilver
  exact (.step (onDie_keeps _ _ _) rfl (.step (startDestage_keeps _ _ _) rfl (.refl _ _)))

theorem startCopy_keeps (a0 a1 a2 a3 d) : Safety.Keeps [.med] d (startCopy a0 a1 a2 a3 d) := by
  unfold startCopy
  extract_lets +onlyGivenNames -underBinder -merge v1
  extract_lets +onlyGivenNames -underBinder -merge v2
  extract_lets +onlyGivenNames -underBinder -merge v3
  extract_lets +onlyGivenNames -underBinder -merge v4
  exact (.step (onDie_keeps _ _ _) rfl (.refl _ _))

theorem startWback_keeps (a0 a1 a2 d) : Safety.Keeps [.med, .xlt] d (startWback a0 a1 a2 d) := by
  unfold startWback
  extract_lets +onlyGivenNames -underBinder -merge v1
  extract_lets +onlyGivenNames -underBinder -merge v2
  extract_lets +onlyGivenNames -underBinder -merge v3
  extract_lets +onlyGivenNames -underBinder -merge v4
  extract_lets +onlyGivenNames -underBinder -merge v5
  extract_lets +onlyGivenNames -underBinder -merge v6
  extract_lets +onlyGivenNames -underBinder -merge v7
  extract_lets +onlyGivenNames -underBinder -merge v8
  extract_lets +onlyGivenNames -underBinder -merge v9
  extract_lets +onlyGivenNames -underBinder -merge v10
  exact (.step (onDie_keeps _ _ _) rfl (.step (onJournal_keeps _ _ _) rfl (.refl _ _)))

theorem programFails_keeps (a0 a1 a2 d) : Safety.Keeps [.regs, .glb, .svc, .fab, .bsn, .ntr, .med, .xlt, .slu, .twn, .pwr, .grt, .obs, .plain, .base] d (programFails a0 a1 a2 d) := by
  unfold programFails
  extract_lets +onlyGivenNames -underBinder -merge v1
  extract_lets +onlyGivenNames -underBinder -merge v2
  have h2 : Safety.Keeps [.regs, .glb, .svc, .fab, .bsn, .ntr, .med, .xlt, .slu, .twn, .pwr, .grt, .obs, .plain, .base] d v2 := (.step (setB_keeps _ _ _) rfl (.step (count_keeps _ _) rfl (.refl _ _)))
  extract_lets +onlyGivenNames -underBinder -merge v3
  have h3 : Safety.Keeps [.regs, .glb, .svc, .fab, .bsn, .ntr, .med, .xlt, .slu, .twn, .pwr, .grt, .obs, .plain, .base] d v3 := (.foldl h2 fun x4 _ h4 => (.step (retireBlock_keeps _ _ _ _ _) rfl h4))
  exact (.ite (.step (raiseN_keeps _ _ _) rfl h3) h3)

theorem calibrate_keeps (a0 d) : Safety.Keeps [.regs, .glb, .svc, .fab, .med, .obs] d (calibrate a0 d) := by
  unfold calibrate
  extract_lets +onlyGivenNames -underBinder -merge v1
  extract_lets +onlyGivenNames -underBinder -merge v2
  extract_lets +onlyGivenNames -underBinder -merge v3
  extract_lets +onlyGivenNames -underBinder -merge v4
  extract_lets +onlyGivenNames -underBinder -merge v5
  exact (.step (countN_keeps _ _ _) rfl (.step (onDie_keeps _ _ _) rfl (.refl _ _)))

theorem probe_keeps (d) : Safety.Keeps [.regs, .plain] d (probe d) := by
  unfold probe
  extract_lets +onlyGivenNames -underBinder -merge v1
  extract_lets +onlyGivenNames -underBinder -merge v2
  extract_lets +onlyGivenNames -underBinder -merge v3
  extract_lets +onlyGivenNames -underBinder -merge v4
  have h4 : Safety.Keeps [.regs, .plain] d v4 := (.step (setF_keeps _ _ _) rfl (.step (setF_keeps _ _ _) rfl (.refl _ _)))
  extract_lets +onlyGivenNames -underBinder -merge v5
  have h5 : Safety.Keeps [.regs, .plain] d v5 := (.step (setB_keeps _ _ _) rfl (.step (setB_keeps _ _ _) rfl h4))
  exact (.step (setB_keeps _ _ _) rfl (.step (setB_keeps _ _ _) rfl h5))

theorem mediaPut_keeps (a0 a1 a2 d) : Safety.Keeps [.xlt] d (mediaPut a0 a1 a2 d) := by
  unfold mediaPut
  exact (.step (onXlt_keeps _ _) rfl (.refl _ _))

theorem copyVerified_keeps (a0 a1 a2 a3 a4 d) : Safety.Keeps [.regs, .glb, .svc, .fab, .ntr, .med, .xlt, .slu, .obs, .plain] d (copyVerified a0 a1 a2 a3 a4 d) := by
  unfold copyVerified
  extract_lets +onlyGivenNames -underBinder -merge v1
  extract_lets +onlyGivenNames -underBinder -merge v2
  have h2 : Safety.Keeps [.regs, .glb, .svc, .fab, .ntr, .med, .xlt, .slu, .obs, .plain] d v2 := (.step (countN_keeps _ _ _) rfl (.refl _ _))
  exact (.step (change_keeps _ _) rfl h2)

theorem copyDone_keeps (a0 a1 a2 a3 a4 d) : Safety.Keeps [.regs, .glb, .svc, .fab, .ntr, .med, .xlt, .slu, .obs, .plain] d (copyDone a0 a1 a2 a3 a4 d) := by
  unfold copyDone
  extract_lets +onlyGivenNames -underBinder -merge v1
  have h1 : Safety.Keeps [.regs, .glb, .svc, .fab, .ntr, .med, .xlt, .slu, .obs, .plain] d v1 := by
      dsimp -zeta -iota -proj only [v1]
      refine .foldl ((.refl _ _)) fun x4 z4 h4 => ?_
      split
      · exact h4
      · exact (.step (mediaPut_keeps _ _ _ _) rfl h4)
  refine .ite ?_ ?_
  · exact (.step (copyVerified_keeps _ _ _ _ _ _) rfl h1)
  · extract_lets +onlyGivenNames -underBinder -merge v7
    extract_lets +onlyGivenNames -underBinder -merge v8
    have h8 : Safety.Keeps [.regs, .glb, .svc, .fab, .ntr, .med, .xlt, .slu, .obs, .plain] d v8 := (.step (onDie_keeps _ _ _) rfl h1)
    extract_lets +onlyGivenNames -underBinder -merge v9
    have h9 : Safety.Keeps [.regs, .glb, .svc, .fab, .ntr, .med, .xlt, .slu, .obs, .plain] d v9 := by
        dsimp -zeta -iota -proj only [v9]
        refine .foldl (h8) fun x12 z12 h12 => ?_
        split
        · exact (.step (copyVerified_keeps _ _ _ _ _ _) rfl h12)
        · exact h12
    exact (.ite h9 (.step (copyVerified_keeps _ _ _ _ _ _) rfl (.step (onDie_keeps _ _ _) rfl h9)))

theorem copyDrop_keeps (a0 d) : Safety.Keeps [.med] d (copyDrop a0 d) := by
  unfold copyDrop
  extract_lets +onlyGivenNames -underBinder -merge v1
  exact (.step (onDie_keeps _ _ _) rfl (.refl _ _))

theorem copyReadFails_keeps (a0 a1 d) : Safety.Keeps [.regs, .glb, .svc, .fab, .bsn, .ntr, .med, .slu, .twn, .obs, .plain] d (copyReadFails a0 a1 d) := by
  unfold copyReadFails
  extract_lets +onlyGivenNames -underBinder -merge v1
  refine .ite ?_ ?_
  · exact (.step (copyDrop_keeps _ _) rfl (.refl _ _))
  · refine .ite ?_ ?_
    · exact (.refl _ _)
    · extract_lets +onlyGivenNames -underBinder -merge v2
      have h2 : Safety.Keeps [.regs, .glb, .svc, .fab, .bsn, .ntr, .med, .slu, .twn, .obs, .plain] d v2 := (.step (copyDrop_keeps _ _) rfl (.refl _ _))
      refine .ite ?_ ?_
      · exact (.step (raiseN_keeps _ _ _) rfl (.step (setB_keeps _ _ _) rfl (.foldl h2 fun x4 _ h4 => (.step (markLost_keeps _ _ _) rfl h4))))
      · extract_lets +onlyGivenNames -underBinder -merge v5
        exact (.step (raiseN_keeps _ _ _) rfl (.step (setB_keeps _ _ _) rfl (.step (lreqSend_keeps _ _) rfl (.step (onTwn_keeps _ _) rfl h2))))

theorem destageDone_keeps (a0 a1 d) : Safety.Keeps [.regs, .glb, .svc, .fab, .ntr, .med, .xlt, .slu, .obs, .plain] d (destageDone a0 a1 d) := by
  unfold destageDone
  extract_lets +onlyGivenNames -underBinder -merge v1
  have h1 : Safety.Keeps [.regs, .glb, .svc, .fab, .ntr, .med, .xlt, .slu, .obs, .plain] d v1 := (.foldl (.refl _ _) fun x2 _ h2 => (.step (mediaPut_keeps _ _ _ _) rfl h2))
  exact (.step (change_keeps _ _) rfl h1)

theorem nodePageDone_keeps (d a1) : Safety.Keeps [.slu] d (nodePageDone d a1) := by
  unfold nodePageDone
  extract_lets +onlyGivenNames -underBinder -merge v1
  extract_lets +onlyGivenNames -underBinder -merge v2
  have h2 : Safety.Keeps [.slu] d v2 := (.step (onSlu_keeps _ _) rfl (.refl _ _))
  clear_value v1
  split
  · exact (.step (onSlu_keeps _ _) rfl h2)
  · extract_lets +onlyGivenNames -underBinder -merge v5
    exact (.step (onSlu_keeps _ _) rfl h2)

theorem sweepEnds_keeps (a0 d) :
    Safety.Keeps [.regs, .glb, .svc, .fab, .ntr, .med, .xlt, .slu, .grt, .obs, .free, .plain] d (sweepEnds a0 d) := by
  unfold sweepEnds
  exact .step (raiseN_keeps _ _ _) rfl (.step (setF_keeps _ _ _) rfl (.step (grtSubmit_keeps _ _) rfl
    (.foldl_snd (.snd_mk (.step (onJournal_keeps _ _ _) rfl (.step (change_keeps _ _) rfl (.refl _ _)))) fun x a hx =>
      .snd_mk (.step (drawFree_keeps _) rfl hx))))

theorem wbackDone_keeps (a0 a1 a2 a3 a4 a5 d) : Safety.Keeps [.regs, .glb, .svc, .fab, .ntr, .med, .xlt, .slu, .grt, .obs, .free, .plain] d (wbackDone a0 a1 a2 a3 a4 a5 d) := by
  unfold wbackDone
  extract_lets +onlyGivenNames -underBinder -merge v1
  extract_lets +onlyGivenNames -underBinder -merge v2
  extract_lets +onlyGivenNames -underBinder -merge v3
  have h3 : Safety.Keeps [.regs, .glb, .svc, .fab, .ntr, .med, .xlt, .slu, .grt, .obs, .free, .plain] d v3 := (.whenD (.refl _ _) fun x4 h4 => (.step (count_keeps _ _) rfl h4))
  extract_lets +onlyGivenNames -underBinder -merge v5
  have h5 : Safety.Keeps [.regs, .glb, .svc, .fab, .ntr, .med, .xlt, .slu, .grt, .obs, .free, .plain] d v5 := (.step (onJournal_keeps _ _ _) rfl h3)
  extract_lets +onlyGivenNames -underBinder -merge v6
  have h6 : Safety.Keeps [.regs, .glb, .svc, .fab, .ntr, .med, .xlt, .slu, .grt, .obs, .free, .plain] d v6 := (.step (onXlt_keeps _ _) rfl h5)
  extract_lets +onlyGivenNames -underBinder -merge v7
  have h7 : Safety.Keeps [.regs, .glb, .svc, .fab, .ntr, .med, .xlt, .slu, .grt, .obs, .free, .plain] d v7 := (.step (onStripe_keeps _ _ _ _) rfl h6)
  extract_lets +onlyGivenNames -underBinder -merge v8
  have h8 : Safety.Keeps [.regs, .glb, .svc, .fab, .ntr, .med, .xlt, .slu, .grt, .obs, .free, .plain] d v8 := by
      dsimp -zeta -iota -proj only [v8]
      refine .foldl (h7) fun x11 z11 h11 => ?_
      extract_lets +onlyGivenNames -underBinder -merge v12
      exact (.step (onXlt_keeps _ _) rfl h11)
  extract_lets +onlyGivenNames -underBinder -merge v13
  extract_lets +onlyGivenNames -underBinder -merge v14
  have h14 : Safety.Keeps [.regs, .glb, .svc, .fab, .ntr, .med, .xlt, .slu, .grt, .obs, .free, .plain] d v14 := (.step (change_keeps _ _) rfl h8)
  extract_lets +onlyGivenNames -underBinder -merge v15
  have h15 : Safety.Keeps [.regs, .glb, .svc, .fab, .ntr, .med, .xlt, .slu, .grt, .obs, .free, .plain] d v15 := (.foldl h14 fun x16 _ h16 => (.step (nodePageDone_keeps _ _) rfl h16))
  exact (.ite (.step (sweepEnds_keeps _ _) rfl h15) h15)

theorem workDone_keeps (a0 a1 d) : Safety.Keeps [.regs, .glb, .svc, .fab, .ntr, .med, .xlt, .slu, .grt, .obs, .free, .plain] d (workDone a0 a1 d) := by
  unfold workDone
  split
  · exact (.step (destageDone_keeps _ _ _) rfl (.refl _ _))
  · exact (.step (copyDone_keeps _ _ _ _ _ _) rfl (.refl _ _))
  · exact (.step (wbackDone_keeps _ _ _ _ _ _ _) rfl (.refl _ _))
  · exact (.refl _ _)

theorem mapInconsistent_keeps (a0 d) : Safety.Keeps [.regs, .glb, .svc, .fab, .obs, .plain] d (mapInconsistent a0 d) := by
  unfold mapInconsistent
  exact (.step (raiseN_keeps _ _ _) rfl (.step (setB_keeps _ _ _) rfl (.refl _ _)))

theorem reform_keeps (a0 a1 d) : Safety.Keeps [.regs, .glb, .svc, .fab, .ntr, .med, .xlt, .slu, .obs, .plain] d (reform a0 a1 d) := by
  unfold reform
  extract_lets +onlyGivenNames -underBinder -merge v1
  extract_lets +onlyGivenNames -underBinder -merge v2
  split
  · exact (.step (stripeTo_keeps _ _ _ _ _ _) rfl (.refl _ _))
  · split
    · extract_lets +onlyGivenNames -underBinder -merge v6
      have h6 : Safety.Keeps [.regs, .glb, .svc, .fab, .ntr, .med, .xlt, .slu, .obs, .plain] d v6 := (.step (onDie_keeps _ _ _) rfl (.refl _ _))
      exact (.step (raiseN_keeps _ _ _) rfl (.step (count_keeps _ _) rfl (.step (change_keeps _ _) rfl h6)))
    · extract_lets +onlyGivenNames -underBinder -merge v8
      extract_lets +onlyGivenNames -underBinder -merge v9
      have h9 : Safety.Keeps [.regs, .glb, .svc, .fab, .ntr, .med, .xlt, .slu, .obs, .plain] d v9 := (.step (onDie_keeps _ _ _) rfl (.refl _ _))
      exact (.step (raiseN_keeps _ _ _) rfl (.step (setB_keeps _ _ _) rfl (.step (stripeTo_keeps _ _ _ _ _ _) rfl h9)))

theorem planDie_keeps (a0 d) : Safety.Keeps [.regs, .glb, .svc, .fab, .ntr, .med, .xlt, .slu, .obs, .plain] d (planDie a0 d) := by
  unfold planDie
  extract_lets +onlyGivenNames -underBinder -merge v1
  extract_lets +onlyGivenNames -underBinder -merge v2
  extract_lets +onlyGivenNames -underBinder -merge v3
  extract_lets +onlyGivenNames -underBinder -merge v4
  have h4 : Safety.Keeps [.regs, .glb, .svc, .fab, .ntr, .med, .xlt, .slu, .obs, .plain] d v4 := (.step (onDie_keeps _ _ _) rfl (.refl _ _))
  extract_lets +onlyGivenNames -underBinder -merge v5
  have h5 : Safety.Keeps [.regs, .glb, .svc, .fab, .ntr, .med, .xlt, .slu, .obs, .plain] d v5 := (.ite (.step (raiseN_keeps _ _ _) rfl h4) h4)
  extract_lets +onlyGivenNames -underBinder -merge v6
  have h6 : Safety.Keeps [.regs, .glb, .svc, .fab, .ntr, .med, .xlt, .slu, .obs, .plain] d v6 := (.foldl h5 fun x7 _ h7 => (.ite (.step (stripeTo_keeps _ _ _ _ _ _) rfl h7) h7))
  extract_lets +onlyGivenNames -underBinder -merge v8
  have h8 : Safety.Keeps [.regs, .glb, .svc, .fab, .ntr, .med, .xlt, .slu, .obs, .plain] d v8 := (.foldl h6 fun x9 _ h9 => (.ite (.step (stripeTo_keeps _ _ _ _ _ _) rfl h9) h9))
  exact (.foldl h8 fun x10 _ h10 => (.ite (.step (reform_keeps _ _ _) rfl h10) h10))

theorem showFree_keeps (d) : Safety.Keeps [.regs, .plain] d (showFree d) := by
  unfold showFree
  split
  · exact (.refl _ _)
  · exact (.step (setF_keeps _ _ _) rfl (.step (setF_keeps _ _ _) rfl (.refl _ _)))

theorem planTick_keeps (d) : Safety.Keeps [.regs, .glb, .svc, .fab, .ntr, .med, .xlt, .slu, .obs, .plain] d (planTick d) := by
  unfold planTick
  exact (.step (showFree_keeps _) rfl (.foldl (.step (runChanges_keeps _) rfl (.step (framesEmptied_keeps _) rfl (.refl _ _))) fun x1 _ h1 => (.step (planDie_keeps _ _) rfl h1)))

theorem repopPace_keeps (d) : Safety.Keeps [.xlt] d (repopPace d) := by
  unfold repopPace
  extract_lets +onlyGivenNames -underBinder -merge v1
  exact (.step (onXlt_keeps _ _) rfl (.refl _ _))

theorem repopFetch_keeps (a0 a1 a2 a3 d) : Safety.Keeps [.regs, .glb, .svc, .fab, .ntr, .xlt, .slu, .obs] d (repopFetch a0 a1 a2 a3 d) := by
  unfold repopFetch
  refine .ite ?_ ?_
  · exact (.refl _ _)
  · split
    · exact (.refl _ _)
    · rename_i y2 e3
      have h3 : Safety.Keeps [.regs, .glb, .svc, .fab, .ntr, .xlt, .slu, .obs] d y2 := .step (allocFrame_keeps _ _ e3) rfl (.refl _ _)
      exact (.step (installLines_keeps _ _ _ _ _) rfl (.step (onXlt_keeps _ _) rfl h3))

theorem sweepCheck_keeps (d) : Safety.Keeps [.regs, .glb, .svc, .fab, .med, .obs] d (sweepCheck d) := by
  unfold sweepCheck
  exact (.ite (.step (raiseN_keeps _ _ _) rfl (.glb rfl (fun _ => ⟨rfl, rfl⟩) (.set_med rfl (.refl _ _)))) (.refl _ _))

theorem scrubMark_keeps (a0 a1 d) : Safety.Keeps [.regs, .glb, .svc, .fab, .med, .obs] d (scrubMark a0 a1 d) := by
  unfold scrubMark
  exact (.step (raiseN_keeps _ _ _) rfl (.step (onStripe_keeps _ _ _ _) rfl (.refl _ _)))

theorem scrubbed_keeps (a0 d) : Safety.Keeps [.regs, .glb, .svc, .fab, .med, .obs] d (scrubbed a0 d) := by
  unfold scrubbed
  exact (.ite (.step (scrubMark_keeps _ _ _) rfl (.refl _ _)) (.refl _ _))

theorem swapDie_keeps (a0 a1 d) : Safety.Keeps [.regs, .glb, .svc, .fab, .med, .xlt, .obs, .plain] d (swapDie a0 a1 d) := by
  unfold swapDie
  extract_lets +onlyGivenNames -underBinder -merge v1
  extract_lets +onlyGivenNames -underBinder -merge v2
  extract_lets +onlyGivenNames -underBinder -merge v3
  extract_lets +onlyGivenNames -underBinder -merge v4
  have h4 : Safety.Keeps [.regs, .glb, .svc, .fab, .med, .xlt, .obs, .plain] d v4 := (.set_med rfl (.refl _ _))
  extract_lets +onlyGivenNames -underBinder -merge v5
  have h5 : Safety.Keeps [.regs, .glb, .svc, .fab, .med, .xlt, .obs, .plain] d v5 := (.step (onChan_keeps _ _ _) rfl h4)
  extract_lets +onlyGivenNames -underBinder -merge v6
  have h6 : Safety.Keeps [.regs, .glb, .svc, .fab, .med, .xlt, .obs, .plain] d v6 := (.step (raiseN_keeps _ _ _) rfl (.step (count_keeps _ _) rfl h5))
  refine .ite ?_ ?_
  · exact h6
  · extract_lets +onlyGivenNames -underBinder -merge v7
    have h7 : Safety.Keeps [.regs, .glb, .svc, .fab, .med, .xlt, .obs, .plain] d v7 := (.step (onXlt_keeps _ _) rfl h6)
    exact (.step (raiseN_keeps _ _ _) rfl (.step (setF_keeps _ _ _) rfl (.step (setF_keeps _ _ _) rfl (.step (setB_keeps _ _ _) rfl h7))))

theorem swapDies_keeps (d) : Safety.Keeps [.regs, .glb, .svc, .fab, .med, .xlt, .obs, .plain] d (swapDies d) := by
  unfold swapDies
  exact (.foldl (.refl _ _) fun x1 _ h1 => (.step (swapDie_keeps _ _ _) rfl h1))

end Sys2Proof.Machine
end

