-- ==== Sys2Proof/Laws/FrameMedia.lean ====
section
/-!
SUPPORT. What each definition of Machine/Media.lean leaves alone: one lemma per definition, cited and not unfolded.
-/
namespace Sys2Proof.Machine
open Sys2Proof Sys2Proof.Safety.Keeps

theorem advanceNwl_keeps (a0 a1 a2 d) : Safety.Keeps [.regs, .glb, .svc, .fab, .ntr, .med, .xlt, .slu, .obs, .plain] d (advanceNwl a0 a1 a2 d) := by
  unfold advanceNwl
  extract_lets +onlyGivenNames -underBinder -merge v1
  have h1 : Safety.Keeps [.regs, .glb, .svc, .fab, .ntr, .med, .xlt, .slu, .obs, .plain] d v1 := (.step (onDie_keeps _ _ _) rfl (.refl _ _))
  split
  · exact h1
  · split
    · exact h1
    · extract_lets +onlyGivenNames -underBinder -merge v7
      have h7 : Safety.Keeps [.regs, .glb, .svc, .fab, .ntr, .med, .xlt, .slu, .obs, .plain] d v7 := (.step (onStripe_keeps _ _ _ _) rfl h1)
      exact (.ite h7 (.step (stripeTo_keeps _ _ _ _ _ _) rfl h7))

theorem blankPasses_keeps (a0 a1 d) : Safety.Keeps [.regs, .glb, .svc, .fab, .ntr, .med, .xlt, .slu, .obs, .plain] d (blankPasses a0 a1 d) := by
  unfold blankPasses
  extract_lets +onlyGivenNames -underBinder -merge v1
  extract_lets +onlyGivenNames -underBinder -merge v2
  have h2 : Safety.Keeps [.regs, .glb, .svc, .fab, .ntr, .med, .xlt, .slu, .obs, .plain] d v2 := (.step (onDie_keeps _ _ _) rfl (.refl _ _))
  refine .ite ?_ ?_
  · exact (.step (medEvent_keeps _ _ _ _ _ _) rfl (.step (setB_keeps _ _ _) rfl h2))
  · extract_lets +onlyGivenNames -underBinder -merge v3
    have h3 : Safety.Keeps [.regs, .glb, .svc, .fab, .ntr, .med, .xlt, .slu, .obs, .plain] d v3 := (.step (onDie_keeps _ _ _) rfl h2)
    split
    · exact h3
    · split
      · exact h3
      · extract_lets +onlyGivenNames -underBinder -merge v9
        extract_lets +onlyGivenNames -underBinder -merge v10
        have h10 : Safety.Keeps [.regs, .glb, .svc, .fab, .ntr, .med, .xlt, .slu, .obs, .plain] d v10 := (.step (stripeTo_keeps _ _ _ _ _ _) rfl h3)
        exact (.ite (.step (onStripe_keeps _ _ _ _) rfl h10) h10)

theorem blankFailsNow_keeps (a0 a1 d) : Safety.Keeps [.regs, .glb, .svc, .fab, .bsn, .ntr, .med, .xlt, .slu, .twn, .pwr, .grt, .obs, .plain, .base] d (blankFailsNow a0 a1 d) := by
  unfold blankFailsNow
  extract_lets +onlyGivenNames -underBinder -merge v1
  have h1 : Safety.Keeps [.regs, .glb, .svc, .fab, .bsn, .ntr, .med, .xlt, .slu, .twn, .pwr, .grt, .obs, .plain, .base] d v1 := (.step (setB_keeps _ _ _) rfl (.refl _ _))
  exact (.foldl h1 fun x2 _ h2 => (.ite (.step (retireBlock_keeps _ _ _ _ _) rfl (.step (onDie_keeps _ _ _) rfl h2)) (.step (onDie_keeps _ _ _) rfl h2)))

theorem blankCheck_keeps (a0 a1 d) : Safety.Keeps [.regs, .glb, .svc, .fab, .bsn, .ntr, .med, .xlt, .slu, .twn, .pwr, .grt, .obs, .plain, .base] d (blankCheck a0 a1 d) := by
  unfold blankCheck
  split
  · exact (.refl _ _)
  · extract_lets +onlyGivenNames -underBinder -merge v3
    extract_lets +onlyGivenNames -underBinder -merge v4
    extract_lets +onlyGivenNames -underBinder -merge v5
    have h5 : Safety.Keeps [.regs, .glb, .svc, .fab, .bsn, .ntr, .med, .xlt, .slu, .twn, .pwr, .grt, .obs, .plain, .base] d v5 := (.step (countN_keeps _ _ _) rfl (.step (onDie_keeps _ _ _) rfl (.refl _ _)))
    exact (.ite (.step (blankPasses_keeps _ _ _) rfl h5) (.step (blankFailsNow_keeps _ _ _) rfl h5))

theorem logIssue_keeps (a0 a1 a2 d) : Safety.Keeps [.med] d (logIssue a0 a1 a2 d) := by
  unfold logIssue
  exact (.step (onChan_keeps _ _ _) rfl (.refl _ _))

theorem refuseCmd_keeps (a0 a1 d) : Safety.Keeps [.regs, .glb, .svc, .fab, .med, .obs, .plain] d (refuseCmd a0 a1 d) := by
  unfold refuseCmd
  exact (.step (logIssue_keeps _ _ _ _) rfl (.step (setB_keeps _ _ _) rfl (.step (count_keeps _ _) rfl (.refl _ _))))

theorem refuseTmpl_keeps (a0 d) : Safety.Keeps [.regs, .glb, .svc, .fab, .med, .obs, .plain] d (refuseTmpl a0 d) := by
  unfold refuseTmpl
  exact (.step (medEvent_keeps _ _ _ _ _ _) rfl (.step (refuseCmd_keeps _ _ _) rfl (.refl _ _)))

theorem refusePhase_keeps (a0 d) : Safety.Keeps [.regs, .glb, .svc, .fab, .med, .obs, .plain] d (refusePhase a0 d) := by
  unfold refusePhase
  exact (.step (raiseN_keeps _ _ _) rfl (.step (refuseCmd_keeps _ _ _) rfl (.refl _ _)))

theorem timingViolation_keeps (a0 a1 d) : Safety.Keeps [.regs, .glb, .svc, .fab, .obs] d (timingViolation a0 a1 d) := by
  unfold timingViolation
  exact (.step (raiseN_keeps _ _ _) rfl (.refl _ _))

theorem startProgram_keeps (a0 a1 d) : Safety.Keeps [.regs, .glb, .svc, .fab, .ntr, .med, .xlt, .slu, .obs, .plain] d (startProgram a0 a1 d) := by
  unfold startProgram
  split
  · extract_lets +onlyGivenNames -underBinder -merge v4
    extract_lets +onlyGivenNames -underBinder -merge v5
    extract_lets +onlyGivenNames -underBinder -merge v6
    have h6 : Safety.Keeps [.regs, .glb, .svc, .fab, .ntr, .med, .xlt, .slu, .obs, .plain] d v6 := (.step (onDie_keeps _ _ _) rfl (.refl _ _))
    refine .ite ?_ ?_
    · exact h6
    · extract_lets +onlyGivenNames -underBinder -merge v7
      have h7 : Safety.Keeps [.regs, .glb, .svc, .fab, .ntr, .med, .xlt, .slu, .obs, .plain] d v7 := (.step (onDie_keeps _ _ _) rfl h6)
      extract_lets +onlyGivenNames -underBinder -merge v8
      split
      · exact (.step (onDie_keeps _ _ _) rfl h7)
      · exact (.ite (.step (onDie_keeps _ _ _) rfl h7) (.ite (.ite (.step (startResilver_keeps _ _ _ _ _) rfl h7) (.step (startCopy_keeps _ _ _ _ _) rfl h7)) (.ite (.step (startWback_keeps _ _ _ _) rfl h7) (.step (startDestage_keeps _ _ _) rfl h7))))

theorem eraseStripe_keeps (a0 a1 a2 d) : Safety.Keeps [.regs, .glb, .svc, .fab, .ntr, .med, .xlt, .slu, .obs, .plain] d (eraseStripe a0 a1 a2 d) := by
  unfold eraseStripe
  split
  · exact (.refl _ _)
  · exact (.ite (.refl _ _) (.step (stripeTo_keeps _ _ _ _ _ _) rfl (.refl _ _)))

theorem startErase_keeps (a0 a1 d) : Safety.Keeps [.regs, .glb, .svc, .fab, .ntr, .med, .xlt, .slu, .obs, .plain] d (startErase a0 a1 d) := by
  unfold startErase
  split
  · extract_lets +onlyGivenNames -underBinder -merge v4
    extract_lets +onlyGivenNames -underBinder -merge v5
    have h5 : Safety.Keeps [.regs, .glb, .svc, .fab, .ntr, .med, .xlt, .slu, .obs, .plain] d v5 := (.step (eraseStripe_keeps _ _ _ _) rfl (.refl _ _))
    extract_lets +onlyGivenNames -underBinder -merge v6
    have h6 : Safety.Keeps [.regs, .glb, .svc, .fab, .ntr, .med, .xlt, .slu, .obs, .plain] d v6 := (.step (onXlt_keeps _ _) rfl h5)
    extract_lets +onlyGivenNames -underBinder -merge v7
    have h7 : Safety.Keeps [.regs, .glb, .svc, .fab, .ntr, .med, .xlt, .slu, .obs, .plain] d v7 := (.step (onDie_keeps _ _ _) rfl h6)
    exact (.ite h7 (.step (onDie_keeps _ _ _) rfl h7))

theorem driveOp_keeps (a0 a1 d) : Safety.Keeps [.regs, .glb, .svc, .fab, .ntr, .med, .xlt, .slu, .obs, .plain] d (driveOp a0 a1 d) := by
  unfold driveOp
  extract_lets +onlyGivenNames -underBinder -merge v1
  extract_lets +onlyGivenNames -underBinder -merge v2
  extract_lets +onlyGivenNames -underBinder -merge v3
  have h3 : Safety.Keeps [.regs, .glb, .svc, .fab, .ntr, .med, .xlt, .slu, .obs, .plain] d v3 := by
      dsimp -zeta -iota -proj only [v3]
      split
      · exact (.refl _ _)
      · exact (.step (count_keeps _ _) rfl (.refl _ _))
  extract_lets +onlyGivenNames -underBinder -merge v6
  exact (.ite (.step (startProgram_keeps _ _ _) rfl h3) (.ite (.step (startErase_keeps _ _ _) rfl h3) (.ite (.step (onDie_keeps _ _ _) rfl h3) (.ite (.step (onDie_keeps _ _ _) rfl h3) (.ite (.step (onDie_keeps _ _ _) rfl h3) (.ite (.step (onDie_keeps _ _ _) rfl h3) (.ite (.ite h3 (.step (onDie_keeps _ _ _) rfl h3)) h3)))))))

theorem selectVolume_keeps (a0 d) : Safety.Keeps [.regs, .glb, .svc, .fab, .med, .obs] d (selectVolume a0 d) := by
  unfold selectVolume
  extract_lets +onlyGivenNames -underBinder -merge v1
  extract_lets +onlyGivenNames -underBinder -merge v2
  exact (.ite (.refl _ _) (.step (count_keeps _ _) rfl (.step (onChan_keeps _ _ _) rfl (.refl _ _))))

theorem driveTmpl_keeps (a0 a1 d) : Safety.Keeps [.regs, .glb, .svc, .fab, .ntr, .med, .xlt, .slu, .obs, .plain] d (driveTmpl a0 a1 d) := by
  unfold driveTmpl
  extract_lets +onlyGivenNames -underBinder -merge v1
  extract_lets +onlyGivenNames -underBinder -merge v2
  extract_lets +onlyGivenNames -underBinder -merge v3
  refine .ite ?_ ?_
  · exact (.step (refuseTmpl_keeps _ _) rfl (.refl _ _))
  · split
    · exact (.step (refuseTmpl_keeps _ _) rfl (.refl _ _))
    · exact (.step (refusePhase_keeps _ _) rfl (.refl _ _))
    · exact (.step (medEvent_keeps _ _ _ _ _ _) rfl (.step (refuseCmd_keeps _ _ _) rfl (.refl _ _)))
    · exact (.ite (.refl _ _) (.step (timingViolation_keeps _ _ _) rfl (.refl _ _)))
    · exact (.foldl (.step (logIssue_keeps _ _ _ _) rfl (.step (selectVolume_keeps _ _) rfl (.refl _ _))) fun x10 _ h10 => (.step (driveOp_keeps _ _ _) rfl h10))

theorem busHeld_keeps (a0 d) : Safety.Keeps [.regs, .glb, .svc, .fab, .obs] d (busHeld a0 d) := by
  unfold busHeld
  exact (.step (raiseN_keeps _ _ _) rfl (.refl _ _))

theorem moveData_keeps (a0 a1 d) : Safety.Keeps [.med] d (moveData a0 a1 d) := by
  unfold moveData
  extract_lets +onlyGivenNames -underBinder -merge v1
  refine .ite ?_ ?_
  · extract_lets +onlyGivenNames -underBinder -merge v2
    exact (.step (onDie_keeps _ _ _) rfl (.refl _ _))
  · extract_lets +onlyGivenNames -underBinder -merge v3
    exact (.step (onChan_keeps _ _ _) rfl (.refl _ _))

theorem transferEnds_keeps (a0 a1 d) : Safety.Keeps [.med] d (transferEnds a0 a1 d) := by
  unfold transferEnds
  extract_lets +onlyGivenNames -underBinder -merge v1
  have h1 : Safety.Keeps [.med] d v1 := (.step (moveData_keeps _ _ _) rfl (.refl _ _))
  exact (.ite h1 (.step (onDie_keeps _ _ _) rfl h1))

theorem busPair_keeps (a0 a1 d) : Safety.Keeps [.regs, .glb, .svc, .fab, .bsn, .med, .obs] d (busPair a0 a1 d) := by
  unfold busPair
  extract_lets +onlyGivenNames -underBinder -merge v1
  split
  · exact (.refl _ _)
  · refine .ite ?_ ?_
    · extract_lets +onlyGivenNames -underBinder -merge v4
      exact (.step (busHeld_keeps _ _) rfl (.foldl (.refl _ _) fun x5 _ h5 => (.step (noteCause_keeps _ _ _) rfl h5)))
    · extract_lets +onlyGivenNames -underBinder -merge v6
      extract_lets +onlyGivenNames -underBinder -merge v7
      extract_lets +onlyGivenNames -underBinder -merge v8
      have h8 : Safety.Keeps [.regs, .glb, .svc, .fab, .bsn, .med, .obs] d v8 := (.whenD (.refl _ _) fun x9 h9 => (.step (count_keeps _ _) rfl (.step (selectVolume_keeps _ _) rfl h9)))
      extract_lets +onlyGivenNames -underBinder -merge v10
      extract_lets +onlyGivenNames -underBinder -merge v11
      extract_lets +onlyGivenNames -underBinder -merge v12
      have h12 : Safety.Keeps [.regs, .glb, .svc, .fab, .bsn, .med, .obs] d v12 := (.step (onDie_keeps _ _ _) rfl h8)
      extract_lets +onlyGivenNames -underBinder -merge v13
      have h13 : Safety.Keeps [.regs, .glb, .svc, .fab, .bsn, .med, .obs] d v13 := (.step (onChan_keeps _ _ _) rfl h12)
      exact (.ite (.step (transferEnds_keeps _ _ _) rfl h13) h13)

theorem busTick_keeps (d) : Safety.Keeps [.regs, .glb, .svc, .fab, .bsn, .med, .obs] d (busTick d) := by
  unfold busTick
  extract_lets +onlyGivenNames -underBinder -merge v1
  exact (.ite (.refl _ _) (.foldl (.refl _ _) fun x2 _ h2 => (.step (busPair_keeps _ _ _) rfl h2)))

theorem busyTimeout_keeps (a0 d) : Safety.Keeps [.regs, .glb, .svc, .fab, .bsn, .ntr, .med, .xlt, .slu, .twn, .pwr, .grt, .obs, .plain, .base] d (busyTimeout a0 d) := by
  unfold busyTimeout
  extract_lets +onlyGivenNames -underBinder -merge v1
  extract_lets +onlyGivenNames -underBinder -merge v2
  extract_lets +onlyGivenNames -underBinder -merge v3
  refine .ite ?_ ?_
  · exact (.refl _ _)
  · refine .ite ?_ ?_
    · exact (.ite (.step (dieFails_keeps _ _ _ _) rfl (.refl _ _)) (.refl _ _))
    · refine .ite ?_ ?_
      · exact (.refl _ _)
      · extract_lets +onlyGivenNames -underBinder -merge v4
        have h4 : Safety.Keeps [.regs, .glb, .svc, .fab, .bsn, .ntr, .med, .xlt, .slu, .twn, .pwr, .grt, .obs, .plain, .base] d v4 := (.step (count_keeps _ _) rfl (.step (setB_keeps _ _ _) rfl (.step (selectVolume_keeps _ _) rfl (.refl _ _))))
        extract_lets +onlyGivenNames -underBinder -merge v5
        have h5 : Safety.Keeps [.regs, .glb, .svc, .fab, .bsn, .ntr, .med, .xlt, .slu, .twn, .pwr, .grt, .obs, .plain, .base] d v5 := (.step (onDie_keeps _ _ _) rfl h4)
        extract_lets +onlyGivenNames -underBinder -merge v6
        have h6 : Safety.Keeps [.regs, .glb, .svc, .fab, .bsn, .ntr, .med, .xlt, .slu, .twn, .pwr, .grt, .obs, .plain, .base] d v6 := (.step (medEvent_keeps _ _ _ _ _ _) rfl h5)
        split
        · exact (.step (programFails_keeps _ _ _ _) rfl h6)
        · exact h6

theorem readMissed_keeps (a0 a1 d) : Safety.Keeps [.regs, .glb, .svc, .sch, .fab, .bsn, .twn, .obs] d (readMissed a0 a1 d) := by
  unfold readMissed
  refine .ite ?_ ?_
  · exact (.step (mirSend_keeps _ _) rfl (.step (onSch_keeps _ _) rfl (.refl _ _)))
  · extract_lets +onlyGivenNames -underBinder -merge v1
    have h1 : Safety.Keeps [.regs, .glb, .svc, .sch, .fab, .bsn, .twn, .obs] d v1 := (.step (onSch_keeps _ _) rfl (.step (noteCause_keeps _ _ _) rfl (.refl _ _)))
    extract_lets +onlyGivenNames -underBinder -merge v2
    have h2 : Safety.Keeps [.regs, .glb, .svc, .sch, .fab, .bsn, .twn, .obs] d v2 := (.ite h1 (.step (releaseWindows_keeps _ _) rfl h1))
    exact (.ite (.step (rebindRead_keeps _ _ _ _ _) rfl h2) h2)

theorem programEnds_keeps (a0 a1 d) : Safety.Keeps [.regs, .glb, .svc, .fab, .bsn, .ntr, .med, .xlt, .slu, .twn, .pwr, .grt, .obs, .free, .plain, .base] d (programEnds a0 a1 d) := by
  unfold programEnds
  extract_lets +onlyGivenNames -underBinder -merge v1
  extract_lets +onlyGivenNames -underBinder -merge v2
  have h2 : Safety.Keeps [.regs, .glb, .svc, .fab, .bsn, .ntr, .med, .xlt, .slu, .twn, .pwr, .grt, .obs, .free, .plain, .base] d v2 := (.step (onDie_keeps _ _ _) rfl (.refl _ _))
  refine .ite ?_ ?_
  · exact (.step (programFails_keeps _ _ _ _) rfl h2)
  · extract_lets +onlyGivenNames -underBinder -merge v3
    have h3 : Safety.Keeps [.regs, .glb, .svc, .fab, .bsn, .ntr, .med, .xlt, .slu, .twn, .pwr, .grt, .obs, .free, .plain, .base] d v3 := (.step (advanceNwl_keeps _ _ _ _) rfl h2)
    exact (.foldl h3 fun x4 _ h4 => (.step (workDone_keeps _ _ _) rfl h4))

theorem eraseEnds_keeps (a0 a1 d) : Safety.Keeps [.regs, .glb, .svc, .fab, .bsn, .ntr, .med, .xlt, .slu, .twn, .pwr, .grt, .obs, .plain, .base] d (eraseEnds a0 a1 d) := by
  unfold eraseEnds
  split
  · exact (.step (onDie_keeps _ _ _) rfl (.refl _ _))
  · extract_lets +onlyGivenNames -underBinder -merge v3
    have h3 : Safety.Keeps [.regs, .glb, .svc, .fab, .bsn, .ntr, .med, .xlt, .slu, .twn, .pwr, .grt, .obs, .plain, .base] d v3 := (.step (onDie_keeps _ _ _) rfl (.refl _ _))
    refine .ite ?_ ?_
    · extract_lets +onlyGivenNames -underBinder -merge v4
      have h4 : Safety.Keeps [.regs, .glb, .svc, .fab, .bsn, .ntr, .med, .xlt, .slu, .twn, .pwr, .grt, .obs, .plain, .base] d v4 := (.step (setB_keeps _ _ _) rfl (.step (count_keeps _ _) rfl h3))
      exact (.foldl h4 fun x5 _ h5 => (.step (retireBlock_keeps _ _ _ _ _) rfl h5))
    · exact (.ite (.step (dieFails_keeps _ _ _ _) rfl h3) (.step (onDie_keeps _ _ _) rfl h3))

theorem dieOpComplete_keeps (a0 a1 d) : Safety.Keeps [.regs, .glb, .svc, .fab, .bsn, .ntr, .med, .xlt, .slu, .twn, .pwr, .grt, .obs, .free, .plain, .base] d (dieOpComplete a0 a1 d) := by
  unfold dieOpComplete
  refine .ite ?_ ?_
  · exact (.refl _ _)
  · extract_lets +onlyGivenNames -underBinder -merge v1
    have h1 : Safety.Keeps [.regs, .glb, .svc, .fab, .bsn, .ntr, .med, .xlt, .slu, .twn, .pwr, .grt, .obs, .free, .plain, .base] d v1 := (.step (count_keeps _ _) rfl (.step (onDie_keeps _ _ _) rfl (.refl _ _)))
    refine .ite ?_ ?_
    · exact (.step (dieFails_keeps _ _ _ _) rfl h1)
    · refine .ite ?_ ?_
      · exact h1
      · split
        · exact (.step (programEnds_keeps _ _ _) rfl h1)
        · exact (.step (eraseEnds_keeps _ _ _) rfl h1)
        · extract_lets +onlyGivenNames -underBinder -merge v5
          exact (.step (onDie_keeps _ _ _) rfl (.set_free rfl h1))
        · exact (.step (onDie_keeps _ _ _) rfl h1)

theorem eraseAround_keeps (a0 d) : Safety.Keeps [.regs, .glb, .svc, .fab, .med, .obs] d (eraseAround a0 d) := by
  unfold eraseAround
  extract_lets +onlyGivenNames -underBinder -merge v1
  refine .ite ?_ ?_
  · exact (.refl _ _)
  · refine .ite ?_ ?_
    · split
      · extract_lets +onlyGivenNames -underBinder -merge v4
        have h4 : Safety.Keeps [.regs, .glb, .svc, .fab, .med, .obs] d v4 := (.step (selectVolume_keeps _ _) rfl (.refl _ _))
        exact (.step (count_keeps _ _) rfl (.step (count_keeps _ _) rfl (.step (onDie_keeps _ _ _) rfl h4)))
      · exact (.refl _ _)
    · exact (.refl _ _)

theorem eraseResume_keeps (a0 d) : Safety.Keeps [.regs, .glb, .svc, .fab, .med, .obs] d (eraseResume a0 d) := by
  unfold eraseResume
  split
  · exact (.refl _ _)
  · refine .ite ?_ ?_
    · exact (.refl _ _)
    · extract_lets +onlyGivenNames -underBinder -merge v3
      extract_lets +onlyGivenNames -underBinder -merge v4
      extract_lets +onlyGivenNames -underBinder -merge v5
      have h5 : Safety.Keeps [.regs, .glb, .svc, .fab, .med, .obs] d v5 := (.whenD (.refl _ _) fun x6 h6 => (.step (count_keeps _ _) rfl (.step (selectVolume_keeps _ _) rfl h6)))
      exact (.step (onDie_keeps _ _ _) rfl h5)

theorem eraseSuspend_keeps (a0 a1 d) : Safety.Keeps [.regs, .glb, .svc, .fab, .bsn, .ntr, .med, .xlt, .slu, .twn, .pwr, .grt, .obs, .plain, .base] d (eraseSuspend a0 a1 d) := by
  unfold eraseSuspend
  split
  · exact (.refl _ _)
  · refine .ite ?_ ?_
    · exact (.refl _ _)
    · extract_lets +onlyGivenNames -underBinder -merge v3
      have h3 : Safety.Keeps [.regs, .glb, .svc, .fab, .bsn, .ntr, .med, .xlt, .slu, .twn, .pwr, .grt, .obs, .plain, .base] d v3 := (.step (count_keeps _ _) rfl (.step (onDie_keeps _ _ _) rfl (.refl _ _)))
      refine .ite ?_ ?_
      · exact (.step (dieFails_keeps _ _ _ _) rfl h3)
      · split
        · exact h3
        · exact (.step (onDie_keeps _ _ _) rfl h3)

theorem erasesAround_keeps (d) : Safety.Keeps [.regs, .glb, .svc, .fab, .med, .obs] d (erasesAround d) := by
  unfold erasesAround
  extract_lets +onlyGivenNames -underBinder -merge v1
  have h1 : Safety.Keeps [.regs, .glb, .svc, .fab, .med, .obs] d v1 := (.foldl (.refl _ _) fun x2 _ h2 => (.step (eraseAround_keeps _ _) rfl h2))
  exact (.foldl h1 fun x3 _ h3 => (.step (eraseResume_keeps _ _) rfl h3))

theorem fallbackRead_keeps (a0 a1 d) : Safety.Keeps [.regs, .glb, .svc, .sch, .fab, .bsn, .twn, .obs] d (fallbackRead a0 a1 d) := by
  unfold fallbackRead
  extract_lets +onlyGivenNames -underBinder -merge v1
  extract_lets +onlyGivenNames -underBinder -merge v2
  extract_lets +onlyGivenNames -underBinder -merge v3
  extract_lets +onlyGivenNames -underBinder -merge v4
  extract_lets +onlyGivenNames -underBinder -merge v5
  have h5 : Safety.Keeps [.regs, .glb, .svc, .sch, .fab, .bsn, .twn, .obs] d v5 := (.ite (.step (noteCause_keeps _ _ _) rfl (.refl _ _)) (.refl _ _))
  exact (.step (rebindRead_keeps _ _ _ _ _) rfl (.step (onT_keeps _ _ _) rfl (.step (releaseWindows_keeps _ _) rfl h5)))

theorem readFails_keeps (a0 a1 d) : Safety.Keeps [.regs, .glb, .svc, .sch, .fab, .bsn, .ntr, .med, .slu, .twn, .obs, .plain] d (readFails a0 a1 d) := by
  unfold readFails
  extract_lets +onlyGivenNames -underBinder -merge v1
  exact (.ite (.step (leafLost_keeps _ _) rfl (.refl _ _)) (.step (fallbackRead_keeps _ _ _) rfl (.refl _ _)))

theorem readArrives_keeps (a0 a1 d) : Safety.Keeps [.regs, .glb, .svc, .sch, .fab, .bsn, .ntr, .med, .xlt, .slu, .twn, .obs, .plain] d (readArrives a0 a1 d) := by
  unfold readArrives
  extract_lets +onlyGivenNames -underBinder -merge v1
  extract_lets +onlyGivenNames -underBinder -merge v2
  extract_lets +onlyGivenNames -underBinder -merge v3
  have h3 : Safety.Keeps [.regs, .glb, .svc, .sch, .fab, .bsn, .ntr, .med, .xlt, .slu, .twn, .obs, .plain] d v3 := (.ite (.step (count_keeps _ _) rfl (.refl _ _)) (.refl _ _))
  extract_lets +onlyGivenNames -underBinder -merge v4
  have h4 : Safety.Keeps [.regs, .glb, .svc, .sch, .fab, .bsn, .ntr, .med, .xlt, .slu, .twn, .obs, .plain] d v4 := (.ite (.ite (.step (raiseN_keeps _ _ _) rfl (.step (setB_keeps _ _ _) rfl h3)) (.step (raiseN_keeps _ _ _) rfl (.step (setB_keeps _ _ _) rfl (.step (count_keeps _ _) rfl h3)))) h3)
  refine .ite ?_ ?_
  · exact (.step (readMissed_keeps _ _ _) rfl h4)
  · extract_lets +onlyGivenNames -underBinder -merge v5
    refine .ite ?_ ?_
    · refine .ite ?_ ?_
      · try dsimp -zeta -iota -proj only [v5]
        exact (.step (onSch_keeps _ _) rfl h4)
      · refine .ite ?_ ?_
        · extract_lets +onlyGivenNames -underBinder -merge v6
          have h6 : Safety.Keeps [.regs, .glb, .svc, .sch, .fab, .bsn, .ntr, .med, .xlt, .slu, .twn, .obs, .plain] d v6 := by
              dsimp -zeta -iota -proj only [v6]
              split
              · exact h4
              · exact (.step (onXlt_keeps _ _) rfl h4)
          extract_lets +onlyGivenNames -underBinder -merge v9
          refine .step (onSch_keeps _ _) rfl ?_
          try dsimp -zeta -iota -proj only [v5]
          exact (.step (onSch_keeps _ _) rfl h6)
        · refine .step (sendLeaf_keeps _ _ _) rfl ?_
          try dsimp -zeta -iota -proj only [v5]
          exact (.step (onSch_keeps _ _) rfl h4)
    · refine .ite ?_ ?_
      · refine .step (readFails_keeps _ _ _) rfl ?_
        try dsimp -zeta -iota -proj only [v5]
        exact (.step (onSch_keeps _ _) rfl h4)
      · refine .ite ?_ ?_
        · extract_lets +onlyGivenNames -underBinder -merge v10
          have h10 : Safety.Keeps [.regs, .glb, .svc, .sch, .fab, .bsn, .ntr, .med, .xlt, .slu, .twn, .obs, .plain] d v10 := by
              dsimp -zeta -iota -proj only [v10]
              split
              · exact h4
              · exact (.step (onXlt_keeps _ _) rfl h4)
          extract_lets +onlyGivenNames -underBinder -merge v13
          have h13 : Safety.Keeps [.regs, .glb, .svc, .sch, .fab, .bsn, .ntr, .med, .xlt, .slu, .twn, .obs, .plain] d v13 := by
              dsimp -zeta -iota -proj only [v13]
              try dsimp -zeta -iota -proj only [v5]
              exact (.step (onSch_keeps _ _) rfl h10)
          exact (.ite (.step (fillArrives_keeps _ _ _ _) rfl (.step (releaseWindows_keeps _ _) rfl h13)) (.ite (.step (rebindRead_keeps _ _ _ _ _) rfl h13) (.step (resolveOwn_keeps _ _) rfl h13)))
        · extract_lets +onlyGivenNames -underBinder -merge v14
          refine .step (fillArrives_keeps _ _ _ _) rfl ?_
          refine .step (releaseWindows_keeps _ _) rfl ?_
          try dsimp -zeta -iota -proj only [v5]
          exact (.step (onSch_keeps _ _) rfl h4)

theorem xferBrings_keeps (a0 a1 a2 a3 a4 d) : Safety.Keeps [.regs, .glb, .svc, .sch, .fab, .bsn, .ntr, .med, .xlt, .slu, .twn, .obs, .plain] d (xferBrings a0 a1 a2 a3 a4 d) := by
  unfold xferBrings
  split
  · extract_lets +onlyGivenNames -underBinder -merge v2
    extract_lets +onlyGivenNames -underBinder -merge v3
    have h3 : Safety.Keeps [.regs, .glb, .svc, .sch, .fab, .bsn, .ntr, .med, .xlt, .slu, .twn, .obs, .plain] d v3 := (.whenD (.refl _ _) fun x4 h4 => (.step (mapInconsistent_keeps _ _) rfl h4))
    exact (.ite (.step (copyReadFails_keeps _ _ _) rfl h3) h3)
  · split
    · exact (.refl _ _)
    · extract_lets +onlyGivenNames -underBinder -merge v8
      extract_lets +onlyGivenNames -underBinder -merge v9
      have h9 : Safety.Keeps [.regs, .glb, .svc, .sch, .fab, .bsn, .ntr, .med, .xlt, .slu, .twn, .obs, .plain] d v9 := (.whenD (.refl _ _) fun x10 h10 => (.step (mapInconsistent_keeps _ _) rfl h10))
      exact (.ite h9 (.step (readArrives_keeps _ _ _) rfl h9))

end Sys2Proof.Machine
end

