-- ==== Sys2Proof/Laws/FrameOperands.lean ====
section
/-!
SUPPORT. What each definition of Machine/Operands.lean leaves alone: one lemma per definition, cited and not unfolded.
-/
namespace Sys2Proof.Machine
open Sys2Proof Sys2Proof.Safety.Keeps

theorem deliver_keeps (a0 d) : Safety.Keeps [.sch] d (deliver a0 d) := by
  unfold deliver
  exact (.foldl (.refl _ _) fun x1 _ h1 => (.ite (.step (onSch_keeps _ _) rfl h1) (.step (onRunnel_keeps _ _ _) rfl h1)))

theorem beat_keeps (a0 d) : Safety.Keeps [.regs, .glb, .svc, .sch, .fab, .obs, .plain] d (beat a0 d) := by
  unfold beat
  extract_lets +onlyGivenNames -underBinder -merge v1
  extract_lets +onlyGivenNames -underBinder -merge v2
  extract_lets +onlyGivenNames -underBinder -merge v3
  have h3 : Safety.Keeps [.regs, .glb, .svc, .sch, .fab, .obs, .plain] d v3 := (.step (onRunnel_keeps _ _ _) rfl (.refl _ _))
  extract_lets +onlyGivenNames -underBinder -merge v4
  have h4 : Safety.Keeps [.regs, .glb, .svc, .sch, .fab, .obs, .plain] d v4 := (.step (deliver_keeps _ _) rfl h3)
  extract_lets +onlyGivenNames -underBinder -merge v5
  have h5 : Safety.Keeps [.regs, .glb, .svc, .sch, .fab, .obs, .plain] d v5 := (.step (setF_keeps _ _ _) rfl (.step (setF_keeps _ _ _) rfl h4))
  exact (.ite (.step (raiseN_keeps _ _ _) rfl (.step (count_keeps _ _) rfl h5)) h5)

theorem runnelFault_keeps (a0 a1 d) : Safety.Keeps [.sch] d (runnelFault a0 a1 d) := by
  unfold runnelFault
  exact (.step (onRunnel_keeps _ _ _) rfl (.refl _ _))

theorem unitDo_keeps (a0 a1 d) : Safety.Keeps [.regs, .glb, .svc, .sch, .fab, .ntr, .med, .xlt, .slu, .obs, .plain] d (unitDo a0 a1 d) := by
  unfold unitDo
  split
  · exact (.step (driveTmpl_keeps _ _ _) rfl (.refl _ _))
  · exact (.step (onChan_keeps _ _ _) rfl (.refl _ _))
  · extract_lets +onlyGivenNames -underBinder -merge v17
    exact (.step (onChan_keeps _ _ _) rfl (.refl _ _))
  · exact (.step (onRunnel_keeps _ _ _) rfl (.refl _ _))

theorem bundleEnd_keeps (a0 d) : Safety.Keeps [.regs, .glb, .svc, .sch, .fab, .ntr, .med, .xlt, .slu, .obs, .plain] d (bundleEnd a0 d) := by
  unfold bundleEnd
  extract_lets +onlyGivenNames -underBinder -merge v1
  extract_lets +onlyGivenNames -underBinder -merge v2
  split
  · exact (.step (runnelFault_keeps _ _ _) rfl (.refl _ _))
  · extract_lets +onlyGivenNames -underBinder -merge v7
    extract_lets +onlyGivenNames -underBinder -merge v8
    have h8 : Safety.Keeps [.regs, .glb, .svc, .sch, .fab, .ntr, .med, .xlt, .slu, .obs, .plain] d v8 := (.step (onRunnel_keeps _ _ _) rfl (.refl _ _))
    extract_lets +onlyGivenNames -underBinder -merge v9
    have h9 : Safety.Keeps [.regs, .glb, .svc, .sch, .fab, .ntr, .med, .xlt, .slu, .obs, .plain] d v9 := (.foldl h8 fun x10 _ h10 => (.step (count_keeps _ _) rfl h10))
    extract_lets +onlyGivenNames -underBinder -merge v11
    have h11 : Safety.Keeps [.regs, .glb, .svc, .sch, .fab, .ntr, .med, .xlt, .slu, .obs, .plain] d v11 := (.foldl h9 fun x12 _ h12 => (.step (unitDo_keeps _ _ _) rfl h12))
    exact (.ite h11 (.ite (.step (beat_keeps _ _) rfl h11) (.step (runnelFault_keeps _ _ _) rfl h11)))

end Sys2Proof.Machine
end

