-- ==== Sys2Proof/Laws/FrameRunnel.lean ====
section
/-!
SUPPORT. What each definition of Machine/Runnel.lean leaves alone: one lemma per definition, cited and not unfolded.
-/
namespace Sys2Proof.Machine
open Sys2Proof Sys2Proof.Safety.Keeps

theorem raiseUnrouted_keeps (a0 a1 d) : Safety.Keeps [.regs, .obs] d (raiseUnrouted a0 a1 d) := by
  unfold raiseUnrouted
  exact (.step (ledFlood_keeps _ _ _) rfl (.step (pendEvent_keeps _ _) rfl (.refl _ _)))

theorem beginSubst_keeps (a0 d) : Safety.Keeps [.regs, .glb, .svc, .sch, .fab, .ntr, .med, .twn, .pwr, .grt, .obs, .free, .plain, .base] d (beginSubst a0 d) := by
  unfold beginSubst
  refine .ite ?_ ?_
  · exact (.refl _ _)
  · split
    · extract_lets +onlyGivenNames -underBinder -merge v2
      exact (.step (withdraw_keeps _ _) rfl (.step (raiseUnrouted_keeps _ _ _) rfl (.step (drawFree_keeps _) rfl (.refl _ _))))
    · extract_lets +onlyGivenNames -underBinder -merge v5
      extract_lets +onlyGivenNames -underBinder -merge v6
      have h6 : Safety.Keeps [.regs, .glb, .svc, .sch, .fab, .ntr, .med, .twn, .pwr, .grt, .obs, .free, .plain, .base] d v6 := (.step (onSch_keeps _ _) rfl (.refl _ _))
      extract_lets +onlyGivenNames -underBinder -merge v7
      have h7 : Safety.Keeps [.regs, .glb, .svc, .sch, .fab, .ntr, .med, .twn, .pwr, .grt, .obs, .free, .plain, .base] d v7 := (.step (setF_keeps _ _ _) rfl (.step (setB_keeps _ _ _) rfl h6))
      exact (.ite (.step (raiseFree_keeps _ _) rfl h7) h7)

theorem schCycClear_keeps (d) : Safety.Keeps [.regs, .plain] d (schCycClear d) := by
  unfold schCycClear
  exact (.foldl (.refl _ _) fun x1 _ h1 => (.step (setF_keeps _ _ _) rfl h1))

theorem claimDrops_keeps (a0 d) : Safety.Keeps [.regs, .glb, .svc, .sch, .fab, .bsn, .twn, .obs] d (claimDrops a0 d) := by
  unfold claimDrops
  exact (.step (sendLeaf_keeps _ _ _) rfl (.step (onSch_keeps _ _) rfl (.refl _ _)))

theorem coldMissed_keeps (a0 d) : Safety.Keeps [.regs, .glb, .svc, .sch, .fab, .bsn, .med, .twn, .obs] d (coldMissed a0 d) := by
  unfold coldMissed
  refine .ite ?_ ?_
  · exact (.step (onRunnel_keeps _ _ _) rfl (.refl _ _))
  · extract_lets +onlyGivenNames -underBinder -merge v1
    extract_lets +onlyGivenNames -underBinder -merge v2
    have h2 : Safety.Keeps [.regs, .glb, .svc, .sch, .fab, .bsn, .med, .twn, .obs] d v2 := (.step (onRunnel_keeps _ _ _) rfl (.refl _ _))
    extract_lets +onlyGivenNames -underBinder -merge v3
    have h3 : Safety.Keeps [.regs, .glb, .svc, .sch, .fab, .bsn, .med, .twn, .obs] d v3 := (.foldl h2 fun x4 _ h4 => (.step (onChan_keeps _ _ _) rfl h4))
    extract_lets +onlyGivenNames -underBinder -merge v5
    extract_lets +onlyGivenNames -underBinder -merge v6
    have h6 : Safety.Keeps [.regs, .glb, .svc, .sch, .fab, .bsn, .med, .twn, .obs] d v6 := (.set_med rfl h3)
    exact (.foldl h6 fun x7 _ h7 => (.step (readMissed_keeps _ _ _) rfl h7))

theorem engineWrite_keeps (a0 a1 a2 d) : Safety.Keeps [.sch] d (engineWrite a0 a1 a2 d) := by
  unfold engineWrite
  extract_lets +onlyGivenNames -underBinder -merge v1
  refine .ite ?_ ?_
  · split
    · exact (.step (runnelFault_keeps _ _ _) rfl (.refl _ _))
    · exact (.step (onRunnel_keeps _ _ _) rfl (.refl _ _))
  · exact (.step (onRunnel_keeps _ _ _) rfl (.refl _ _))

theorem xferOff_keeps (a0 a1 a2 d) : Safety.Keeps [.sch] d (xferOff a0 a1 a2 d) := by
  unfold xferOff
  exact (.step (engineWrite_keeps _ _ _ _) rfl (.step (onRunnel_keeps _ _ _) rfl (.refl _ _)))

theorem dropTick_keeps (a0 d) : Safety.Keeps [.regs, .glb, .svc, .sch, .fab, .bsn, .twn, .obs] d (dropTick a0 d) := by
  unfold dropTick
  extract_lets +onlyGivenNames -underBinder -merge v1
  extract_lets +onlyGivenNames -underBinder -merge v2
  extract_lets +onlyGivenNames -underBinder -merge v3
  have h3 : Safety.Keeps [.regs, .glb, .svc, .sch, .fab, .bsn, .twn, .obs] d v3 := (.step (onRunnel_keeps _ _ _) rfl (.refl _ _))
  extract_lets +onlyGivenNames -underBinder -merge v4
  have h4 : Safety.Keeps [.regs, .glb, .svc, .sch, .fab, .bsn, .twn, .obs] d v4 := (.foldl h3 fun x5 _ h5 => (.step (xferOff_keeps _ _ _ _) rfl h5))
  exact (.foldl h4 fun x6 _ h6 => (.step (readMissed_keeps _ _ _) rfl h6))

theorem engineFault_keeps (a0 a1 d) : Safety.Keeps [.regs, .glb, .svc, .sch, .fab, .bsn, .ntr, .med, .twn, .pwr, .grt, .obs, .free, .plain, .base] d (engineFault a0 a1 d) := by
  unfold engineFault
  extract_lets +onlyGivenNames -underBinder -merge v1
  extract_lets +onlyGivenNames -underBinder -merge v2
  extract_lets +onlyGivenNames -underBinder -merge v3
  extract_lets +onlyGivenNames -underBinder -merge v4
  have h4 : Safety.Keeps [.regs, .glb, .svc, .sch, .fab, .bsn, .ntr, .med, .twn, .pwr, .grt, .obs, .free, .plain, .base] d v4 := (.step (setF_keeps _ _ _) rfl (.step (setF_keeps _ _ _) rfl (.refl _ _)))
  extract_lets +onlyGivenNames -underBinder -merge v5
  have h5 : Safety.Keeps [.regs, .glb, .svc, .sch, .fab, .bsn, .ntr, .med, .twn, .pwr, .grt, .obs, .free, .plain, .base] d v5 := (.step (setF_keeps _ _ _) rfl (.step (setF_keeps _ _ _) rfl (.step (setB_keeps _ _ _) rfl h4)))
  extract_lets +onlyGivenNames -underBinder -merge v6
  have h6 : Safety.Keeps [.regs, .glb, .svc, .sch, .fab, .bsn, .ntr, .med, .twn, .pwr, .grt, .obs, .free, .plain, .base] d v6 := (.step (setF_keeps _ _ _) rfl (.step (setF_keeps _ _ _) rfl (.step (setF_keeps _ _ _) rfl h5)))
  extract_lets +onlyGivenNames -underBinder -merge v7
  have h7 : Safety.Keeps [.regs, .glb, .svc, .sch, .fab, .bsn, .ntr, .med, .twn, .pwr, .grt, .obs, .free, .plain, .base] d v7 := (.step (setB_keeps _ _ _) rfl (.step (setB_keeps _ _ _) rfl h6))
  extract_lets +onlyGivenNames -underBinder -merge v8
  have h8 : Safety.Keeps [.regs, .glb, .svc, .sch, .fab, .bsn, .ntr, .med, .twn, .pwr, .grt, .obs, .free, .plain, .base] d v8 := (.step (onSch_keeps _ _) rfl h7)
  extract_lets +onlyGivenNames -underBinder -merge v9
  have h9 : Safety.Keeps [.regs, .glb, .svc, .sch, .fab, .bsn, .ntr, .med, .twn, .pwr, .grt, .obs, .free, .plain, .base] d v9 := (.step (raiseFree_keeps _ _) rfl (.step (raiseFree_keeps _ _) rfl (.step (clearAllResv_keeps _) rfl (.step (dropTick_keeps _ _) rfl h8))))
  exact (.ite (.step (withdraw_keeps _ _) rfl (.step (raiseBy_keeps _ _ _ _) rfl h9)) (.step (beginSubst_keeps _ _) rfl h9))

theorem freeBytes_keeps (a0 d) : Safety.Keeps [.free] d (freeBytes a0 d).2 := by
  unfold freeBytes
  exact (.snd_mk (.set_free rfl (.refl _ _)))

theorem lateWindow_keeps (a0 d) : Safety.Keeps [.regs, .glb, .svc, .sch, .fab, .bsn, .twn, .obs] d (lateWindow a0 d) := by
  unfold lateWindow
  exact (.ite (.step (readMissed_keeps _ _ _) rfl (.refl _ _)) (.step (onSch_keeps _ _) rfl (.refl _ _)))

theorem windowDrops_keeps (a0 d) : Safety.Keeps [.regs, .glb, .svc, .sch, .fab, .bsn, .ntr, .med, .slu, .twn, .obs, .plain] d (windowDrops a0 d) := by
  unfold windowDrops
  extract_lets +onlyGivenNames -underBinder -merge v1
  refine .ite ?_ ?_
  · extract_lets +onlyGivenNames -underBinder -merge v2
    have h2 : Safety.Keeps [.regs, .glb, .svc, .sch, .fab, .bsn, .ntr, .med, .slu, .twn, .obs, .plain] d v2 := (.step (releaseWindows_keeps _ _) rfl (.refl _ _))
    exact (.ite (.step (progress_keeps _ _) rfl h2) h2)
  · exact (.refl _ _)

theorem pushEvent_keeps (a0 a1 d) : Safety.Keeps [.sch] d (pushEvent a0 a1 d) := by
  unfold pushEvent
  exact (.step (onRunnel_keeps _ _ _) rfl (.refl _ _))

theorem launchWindow_keeps (a0 d) : Safety.Keeps [.regs, .glb, .svc, .sch, .fab, .bsn, .ntr, .med, .slu, .twn, .obs, .plain] d (launchWindow a0 d) := by
  unfold launchWindow
  extract_lets +onlyGivenNames -underBinder -merge v1
  refine .ite ?_ ?_
  · exact (.step (readMissed_keeps _ _ _) rfl (.refl _ _))
  · refine .ite ?_ ?_
    · exact (.step (readFails_keeps _ _ _) rfl (.step (mapInconsistent_keeps _ _) rfl (.refl _ _)))
    · extract_lets +onlyGivenNames -underBinder -merge v2
      have h2 : Safety.Keeps [.regs, .glb, .svc, .sch, .fab, .bsn, .ntr, .med, .slu, .twn, .obs, .plain] d v2 := (.step (pushEvent_keeps _ _ _) rfl (.refl _ _))
      exact (.ite (.step (readMissed_keeps _ _ _) rfl (.step (timingViolation_keeps _ _ _) rfl h2)) (.step (onSch_keeps _ _) rfl h2))

theorem launchEnd_keeps (a0 d) : Safety.Keeps [.regs, .glb, .svc, .sch, .fab, .med, .obs] d (launchEnd a0 d) := by
  unfold launchEnd
  extract_lets +onlyGivenNames -underBinder -merge v1
  extract_lets +onlyGivenNames -underBinder -merge v2
  extract_lets +onlyGivenNames -underBinder -merge v3
  extract_lets +onlyGivenNames -underBinder -merge v4
  extract_lets +onlyGivenNames -underBinder -merge v5
  have h5 : Safety.Keeps [.regs, .glb, .svc, .sch, .fab, .med, .obs] d v5 := (.ite (.step (onDie_keeps _ _ _) rfl (.refl _ _)) (.refl _ _))
  extract_lets +onlyGivenNames -underBinder -merge v6
  have h6 : Safety.Keeps [.regs, .glb, .svc, .sch, .fab, .med, .obs] d v6 := (.ite (.step (onDie_keeps _ _ _) rfl (.step (timingViolation_keeps _ _ _) rfl h5)) h5)
  exact (.ite (.step (pushEvent_keeps _ _ _) rfl h6) h6)

theorem launchStart_keeps (a0 d) : Safety.Keeps [.regs, .glb, .svc, .sch, .fab, .med, .obs, .plain] d (launchStart a0 d) := by
  unfold launchStart
  extract_lets +onlyGivenNames -underBinder -merge v1
  extract_lets +onlyGivenNames -underBinder -merge v2
  extract_lets +onlyGivenNames -underBinder -merge v3
  have h3 : Safety.Keeps [.regs, .glb, .svc, .sch, .fab, .med, .obs, .plain] d v3 := (.ite (.step (timingViolation_keeps _ _ _) rfl (.step (onDie_keeps _ _ _) rfl (.refl _ _))) (.ite (.step (onDie_keeps _ _ _) rfl (.step (raiseN_keeps _ _ _) rfl (.step (setB_keeps _ _ _) rfl (.refl _ _)))) (.refl _ _)))
  exact (.ite (.step (pushEvent_keeps _ _ _) rfl h3) h3)

theorem launchAll_keeps (d) : Safety.Keeps [.regs, .glb, .svc, .sch, .fab, .bsn, .ntr, .med, .slu, .twn, .obs, .plain] d (launchAll d) := by
  unfold launchAll
  extract_lets +onlyGivenNames -underBinder -merge v1
  extract_lets +onlyGivenNames -underBinder -merge v2
  extract_lets +onlyGivenNames -underBinder -merge v3
  have h3 : Safety.Keeps [.regs, .glb, .svc, .sch, .fab, .bsn, .ntr, .med, .slu, .twn, .obs, .plain] d v3 := (.foldl (.refl _ _) fun x4 _ h4 => (.step (lateWindow_keeps _ _) rfl h4))
  extract_lets +onlyGivenNames -underBinder -merge v5
  extract_lets +onlyGivenNames -underBinder -merge v6
  have h6 : Safety.Keeps [.regs, .glb, .svc, .sch, .fab, .bsn, .ntr, .med, .slu, .twn, .obs, .plain] d v6 := (.foldl h3 fun x7 _ h7 => (.step (windowResolution_keeps _ _) rfl h7))
  extract_lets +onlyGivenNames -underBinder -merge v8
  extract_lets +onlyGivenNames -underBinder -merge v9
  have h9 : Safety.Keeps [.regs, .glb, .svc, .sch, .fab, .bsn, .ntr, .med, .slu, .twn, .obs, .plain] d v9 := (.foldl h6 fun x10 _ h10 => (.step (windowDrops_keeps _ _) rfl h10))
  extract_lets +onlyGivenNames -underBinder -merge v11
  extract_lets +onlyGivenNames -underBinder -merge v12
  have h12 : Safety.Keeps [.regs, .glb, .svc, .sch, .fab, .bsn, .ntr, .med, .slu, .twn, .obs, .plain] d v12 := (.foldl h9 fun x13 _ h13 => (.step (claimDrops_keeps _ _) rfl h13))
  extract_lets +onlyGivenNames -underBinder -merge v14
  extract_lets +onlyGivenNames -underBinder -merge v15
  have h15 : Safety.Keeps [.regs, .glb, .svc, .sch, .fab, .bsn, .ntr, .med, .slu, .twn, .obs, .plain] d v15 := (.foldl h12 fun x16 _ h16 => (.step (launchWindow_keeps _ _) rfl h16))
  extract_lets +onlyGivenNames -underBinder -merge v17
  extract_lets +onlyGivenNames -underBinder -merge v18
  have h18 : Safety.Keeps [.regs, .glb, .svc, .sch, .fab, .bsn, .ntr, .med, .slu, .twn, .obs, .plain] d v18 := (.foldl h15 fun x19 _ h19 => (.step (launchEnd_keeps _ _) rfl h19))
  extract_lets +onlyGivenNames -underBinder -merge v20
  exact (.foldl h18 fun x21 _ h21 => (.step (launchStart_keeps _ _) rfl h21))

theorem substTick_keeps (d) : Safety.Keeps [.regs, .sch, .plain] d (substTick d) := by
  unfold substTick
  extract_lets +onlyGivenNames -underBinder -merge v1
  refine .ite ?_ ?_
  · exact (.refl _ _)
  · extract_lets +onlyGivenNames -underBinder -merge v2
    have h2 : Safety.Keeps [.regs, .sch, .plain] d v2 := (.foldl (.refl _ _) fun x3 _ h3 => (.step (onRunnel_keeps _ _ _) rfl h3))
    extract_lets +onlyGivenNames -underBinder -merge v4
    have h4 : Safety.Keeps [.regs, .sch, .plain] d v4 := (.step (onSch_keeps _ _) rfl h2)
    exact (.step (setB_keeps _ _ _) rfl h4)

theorem recordsExpire_keeps (d) : Safety.Keeps [.sch] d (recordsExpire d) := by
  unfold recordsExpire
  exact (.step (onSch_keeps _ _) rfl (.refl _ _))

theorem showRetired_keeps (d) : Safety.Keeps [.regs, .plain] d (showRetired d) := by
  unfold showRetired
  extract_lets +onlyGivenNames -underBinder -merge v1
  exact (.step (setF_keeps _ _ _) rfl (.step (setF_keeps _ _ _) rfl (.refl _ _)))

theorem startRunnel_keeps (a0 d) : Safety.Keeps [.sch] d (startRunnel a0 d) := by
  unfold startRunnel
  extract_lets +onlyGivenNames -underBinder -merge v1
  extract_lets +onlyGivenNames -underBinder -merge v2
  exact (.step (onRunnel_keeps _ _ _) rfl (.refl _ _))

theorem sramCorrected_keeps (a0 d) : Safety.Keeps [.regs, .glb, .svc, .fab, .obs, .free] d (sramCorrected a0 d) := by
  unfold sramCorrected
  exact (.step (raiseFree_keeps _ _) rfl (.step (count_keeps _ _) rfl (.refl _ _)))

theorem runnelTick_keeps (a0 a1 a2 d) : Safety.Keeps [.regs, .glb, .svc, .sch, .fab, .bsn, .ntr, .med, .xlt, .slu, .twn, .obs, .free, .plain] d (runnelTick a0 a1 a2 d) := by
  unfold runnelTick
  extract_lets +onlyGivenNames -underBinder -merge v1
  extract_lets +onlyGivenNames -underBinder -merge v2
  have h2 : Safety.Keeps [.regs, .glb, .svc, .sch, .fab, .bsn, .ntr, .med, .xlt, .slu, .twn, .obs, .free, .plain] d v2 := (.set_med rfl (.refl _ _))
  extract_lets +onlyGivenNames -underBinder -merge v3
  have h3 : Safety.Keeps [.regs, .glb, .svc, .sch, .fab, .bsn, .ntr, .med, .xlt, .slu, .twn, .obs, .free, .plain] d v3 := (.step (erasesAround_keeps _) rfl h2)
  extract_lets +onlyGivenNames -underBinder -merge v4
  have h4 : Safety.Keeps [.regs, .glb, .svc, .sch, .fab, .bsn, .ntr, .med, .xlt, .slu, .twn, .obs, .free, .plain] d v4 := (.foldl (.step (onSch_keeps _ _) rfl h3) fun x5 _ h5 => (.step (startRunnel_keeps _ _) rfl h5))
  extract_lets +onlyGivenNames -underBinder -merge v6
  have h6 : Safety.Keeps [.regs, .glb, .svc, .sch, .fab, .bsn, .ntr, .med, .xlt, .slu, .twn, .obs, .free, .plain] d v6 := (.foldl h4 fun x7 _ h7 => (.step (sramCorrected_keeps _ _) rfl h7))
  refine .ite ?_ ?_
  · exact (.step (runChanges_keeps _) rfl h6)
  · extract_lets +onlyGivenNames -underBinder -merge v8
    have h8 : Safety.Keeps [.regs, .glb, .svc, .sch, .fab, .bsn, .ntr, .med, .xlt, .slu, .twn, .obs, .free, .plain] d v8 := (.step (launchAll_keeps _) rfl h6)
    extract_lets +onlyGivenNames -underBinder -merge v9
    have h9 : Safety.Keeps [.regs, .glb, .svc, .sch, .fab, .bsn, .ntr, .med, .xlt, .slu, .twn, .obs, .free, .plain] d v9 := (.step (sweepCheck_keeps _) rfl (.foldl h8 fun x10 _ h10 => (.step (calibrate_keeps _ _) rfl h10)))
    extract_lets +onlyGivenNames -underBinder -merge v11
    have h11 : Safety.Keeps [.regs, .glb, .svc, .sch, .fab, .bsn, .ntr, .med, .xlt, .slu, .twn, .obs, .free, .plain] d v11 := (.foldl h9 fun x12 _ h12 => (.step (scrubbed_keeps _ _) rfl h12))
    exact (.step (resilverTick_keeps _) rfl (.step (planTick_keeps _) rfl h11))

theorem spareSubstituted_keeps (a0 d) : Safety.Keeps [.regs, .glb, .svc, .sch, .fab, .bsn, .med, .twn, .grt, .obs, .free, .plain] d (spareSubstituted a0 d) := by
  unfold spareSubstituted
  split
  · exact (.refl _ _)
  · refine .ite ?_ ?_
    · exact (.refl _ _)
    · extract_lets +onlyGivenNames -underBinder -merge v3
      extract_lets +onlyGivenNames -underBinder -merge v4
      extract_lets +onlyGivenNames -underBinder -merge v5
      have h5 : Safety.Keeps [.regs, .glb, .svc, .sch, .fab, .bsn, .med, .twn, .grt, .obs, .free, .plain] d v5 := (.step (onGrt_keeps _ _) rfl (.refl _ _))
      extract_lets +onlyGivenNames -underBinder -merge v6
      extract_lets +onlyGivenNames -underBinder -merge v7
      have h7 : Safety.Keeps [.regs, .glb, .svc, .sch, .fab, .bsn, .med, .twn, .grt, .obs, .free, .plain] d v7 := (.step (grtSubmit_keeps _ _) rfl (.step (drawFree_keeps _) rfl h5))
      extract_lets +onlyGivenNames -underBinder -merge v8
      have h8 : Safety.Keeps [.regs, .glb, .svc, .sch, .fab, .bsn, .med, .twn, .grt, .obs, .free, .plain] d v8 := (.step (count_keeps _ _) rfl (.step (raiseFree_keeps _ _) rfl (.step (showRetired_keeps _) rfl (.step (setF_keeps _ _ _) rfl h7))))
      extract_lets +onlyGivenNames -underBinder -merge v9
      have h9 : Safety.Keeps [.regs, .glb, .svc, .sch, .fab, .bsn, .med, .twn, .grt, .obs, .free, .plain] d v9 := (.step (onSch_keeps _ _) rfl h8)
      extract_lets +onlyGivenNames -underBinder -merge v10
      have h10 : Safety.Keeps [.regs, .glb, .svc, .sch, .fab, .bsn, .med, .twn, .grt, .obs, .free, .plain] d v10 := (.step (onRunnel_keeps _ _ _) rfl h9)
      refine .ite ?_ ?_
      · exact h10
      · extract_lets +onlyGivenNames -underBinder -merge v11
        exact (.step (coldMissed_keeps _ _) rfl (.step (raiseFree_keeps _ _) rfl (.ite (.step (setB_keeps _ _ _) rfl h10) h10)))

theorem wardenDisagrees_keeps (d) : Safety.Keeps [.regs, .glb, .svc, .sch, .fab, .bsn, .ntr, .med, .twn, .pwr, .grt, .obs, .free, .plain, .base] d (wardenDisagrees d) := by
  unfold wardenDisagrees
  extract_lets +onlyGivenNames -underBinder -merge v1
  have h1 : Safety.Keeps [.regs, .glb, .svc, .sch, .fab, .bsn, .ntr, .med, .twn, .pwr, .grt, .obs, .free, .plain, .base] d v1 := (.step (setB_keeps _ _ _) rfl (.step (setB_keeps _ _ _) rfl (.refl _ _)))
  extract_lets +onlyGivenNames -underBinder -merge v2
  have h2 : Safety.Keeps [.regs, .glb, .svc, .sch, .fab, .bsn, .ntr, .med, .twn, .pwr, .grt, .obs, .free, .plain, .base] d v2 := (.step (onSch_keeps _ _) rfl h1)
  extract_lets +onlyGivenNames -underBinder -merge v3
  extract_lets +onlyGivenNames -underBinder -merge v4
  exact (.step (withdraw_keeps _ _) rfl (.step (ledFlood_keeps _ _ _) rfl (.step (drawFree_keeps _) rfl (.step (clearAllResv_keeps _) rfl h2))))

theorem xferSource_keeps (a0 a1 a2 a3 d) : Safety.Keeps [.free] d (xferSource a0 a1 a2 a3 d).2 := by
  unfold xferSource
  refine .ite2 ?_ ?_
  · exact (.snd_mk (.refl _ _))
  · refine .ite2 ?_ ?_
    · extract_lets +onlyGivenNames -underBinder -merge v1
      exact (.snd_mk (.step (freeBytes_keeps _ _) rfl (.refl _ _)))
    · exact (.ite2 (.snd_mk (.refl _ _)) (.step (freeBytes_keeps _ _) rfl (.refl _ _)))

theorem xferDest_keeps (a0 a1 a2 a3 d) : Safety.Keeps [.sch, .ntr, .med] d (xferDest a0 a1 a2 a3 d) := by
  unfold xferDest
  extract_lets +onlyGivenNames -underBinder -merge v1
  exact (.ite (.ite (.step (engineWrite_keeps _ _ _ _) rfl (.refl _ _)) (.refl _ _)) (.ite (.step (onNtr_keeps _ _) rfl (.refl _ _)) (.ite (.foldl (.refl _ _) fun x2 _ h2 => (.step (onChan_keeps _ _ _) rfl h2)) (.refl _ _))))

theorem xferMove_keeps (a0 a1 d) : Safety.Keeps [.sch, .ntr, .med, .free] d (xferMove a0 a1 d) := by
  unfold xferMove
  extract_lets +onlyGivenNames -underBinder -merge v1
  extract_lets +onlyGivenNames -underBinder -merge v2
  extract_lets +onlyGivenNames -underBinder -merge v3
  extract_lets +onlyGivenNames -underBinder -merge v4
  exact (.step (xferDest_keeps _ _ _ _ _) rfl (.ite2 (.step (xferSource_keeps _ _ _ _ _) rfl (.refl _ _)) (.step (freeBytes_keeps _ _) rfl (.step (xferSource_keeps _ _ _ _ _) rfl (.refl _ _)))))

theorem xferComplete_keeps (a0 a1 a2 a3 a4 a5 d) : Safety.Keeps [.regs, .glb, .svc, .sch, .fab, .bsn, .ntr, .med, .xlt, .slu, .twn, .obs, .free, .plain] d (xferComplete a0 a1 a2 a3 a4 a5 d) := by
  unfold xferComplete
  split
  · exact (.refl _ _)
  · exact (.ite (.refl _ _) (.step (xferBrings_keeps _ _ _ _ _ _) rfl (.step (xferOff_keeps _ _ _ _) rfl (.ite (.step (xferMove_keeps _ _ _) rfl (.refl _ _)) (.refl _ _)))))

end Sys2Proof.Machine
end

