-- ==== Sys2Proof/Laws/FramePower.lean ====
section
/-!
SUPPORT. What each definition of Machine/Power.lean leaves alone: one lemma per definition, cited and not unfolded.
-/
namespace Sys2Proof.Machine
open Sys2Proof Sys2Proof.Safety.Keeps

theorem abandonLog_keeps (d) : Safety.Keeps [.regs, .glb, .svc, .fab, .grt, .obs, .plain] d (abandonLog d) := by
  unfold abandonLog
  extract_lets +onlyGivenNames -underBinder -merge v1
  extract_lets +onlyGivenNames -underBinder -merge v2
  extract_lets +onlyGivenNames -underBinder -merge v3
  have h3 : Safety.Keeps [.regs, .glb, .svc, .fab, .grt, .obs, .plain] d v3 := (.step (onGrt_keeps _ _) rfl (.refl _ _))
  exact (.foldl h3 fun x4 _ h4 => (.step (raiseN_keeps _ _ _) rfl (.step (setB_keeps _ _ _) rfl h4)))

theorem superviseRail_keeps (a0 d) : Safety.Keeps [.regs, .glb, .svc, .fab, .pwr, .obs, .plain] d (superviseRail a0 d) := by
  unfold superviseRail
  extract_lets +onlyGivenNames -underBinder -merge v1
  refine .ite ?_ ?_
  · exact (.refl _ _)
  · extract_lets +onlyGivenNames -underBinder -merge v2
    extract_lets +onlyGivenNames -underBinder -merge v3
    extract_lets +onlyGivenNames -underBinder -merge v4
    extract_lets +onlyGivenNames -underBinder -merge v5
    extract_lets +onlyGivenNames -underBinder -merge v6
    extract_lets +onlyGivenNames -underBinder -merge v7
    have h7 : Safety.Keeps [.regs, .glb, .svc, .fab, .pwr, .obs, .plain] d v7 := (.step (onRail_keeps _ _ _) rfl (.refl _ _))
    extract_lets +onlyGivenNames -underBinder -merge v8
    extract_lets +onlyGivenNames -underBinder -merge v9
    have h9 : Safety.Keeps [.regs, .glb, .svc, .fab, .pwr, .obs, .plain] d v9 := by
        dsimp -zeta -iota -proj only [v9]
        try dsimp -zeta -iota -proj only [v8]
        refine .ite ?_ ?_
        · refine .step (raiseN_keeps _ _ _) rfl ?_
          refine .step (count_keeps _ _) rfl ?_
          refine .step (setB_keeps _ _ _) rfl ?_
          try dsimp -zeta -iota -proj only [v8]
          exact (.ite (.step (raiseN_keeps _ _ _) rfl (.step (count_keeps _ _) rfl (.step (setB_keeps _ _ _) rfl h7))) h7)
        · try dsimp -zeta -iota -proj only [v8]
          exact (.ite (.step (raiseN_keeps _ _ _) rfl (.step (count_keeps _ _) rfl (.step (setB_keeps _ _ _) rfl h7))) h7)
    exact (.ite h9 (.step (setF_keeps _ _ _) rfl h9))

theorem railTick_keeps (a0 a1 d) : Safety.Keeps [.regs, .glb, .svc, .fab, .pwr, .obs, .plain] d (railTick a0 a1 d) := by
  unfold railTick
  extract_lets +onlyGivenNames -underBinder -merge v1
  have h1 : Safety.Keeps [.regs, .glb, .svc, .fab, .pwr, .obs, .plain] d v1 := (.step (setF_keeps _ _ _) rfl (.refl _ _))
  extract_lets +onlyGivenNames -underBinder -merge v2
  have h2 : Safety.Keeps [.regs, .glb, .svc, .fab, .pwr, .obs, .plain] d v2 := (.ite (.step (onRail_keeps _ _ _) rfl h1) h1)
  exact (.step (superviseRail_keeps _ _) rfl h2)

theorem adcTick_keeps (a0 d) : Safety.Keeps [.regs, .glb, .svc, .fab, .pwr, .obs, .plain] d (adcTick a0 d) := by
  unfold adcTick
  extract_lets +onlyGivenNames -underBinder -merge v1
  have h1 : Safety.Keeps [.regs, .glb, .svc, .fab, .pwr, .obs, .plain] d v1 := (.step (setF_keeps _ _ _) rfl (.step (setF_keeps _ _ _) rfl (.refl _ _)))
  extract_lets +onlyGivenNames -underBinder -merge v2
  have h2 : Safety.Keeps [.regs, .glb, .svc, .fab, .pwr, .obs, .plain] d v2 := (.forEach h1 fun _ x3 h3 => (.step (railTick_keeps _ _ _) rfl h3))
  extract_lets +onlyGivenNames -underBinder -merge v4
  have h4 : Safety.Keeps [.regs, .glb, .svc, .fab, .pwr, .obs, .plain] d v4 := (.ite (.step (onPwr_keeps _ _) rfl h2) (.step (onPwr_keeps _ _) rfl h2))
  extract_lets +onlyGivenNames -underBinder -merge v5
  have h5 : Safety.Keeps [.regs, .glb, .svc, .fab, .pwr, .obs, .plain] d v5 := (.ite (.step (onPwr_keeps _ _) rfl h4) (.step (onPwr_keeps _ _) rfl h4))
  extract_lets +onlyGivenNames -underBinder -merge v6
  have h6 : Safety.Keeps [.regs, .glb, .svc, .fab, .pwr, .obs, .plain] d v6 := (.ite (.step (setB_keeps _ _ _) rfl (.step (onPwr_keeps _ _) rfl h5)) h5)
  extract_lets +onlyGivenNames -underBinder -merge v7
  extract_lets +onlyGivenNames -underBinder -merge v8
  have h8 : Safety.Keeps [.regs, .glb, .svc, .fab, .pwr, .obs, .plain] d v8 := (.step (setB_keeps _ _ _) rfl h6)
  extract_lets +onlyGivenNames -underBinder -merge v9
  have h9 : Safety.Keeps [.regs, .glb, .svc, .fab, .pwr, .obs, .plain] d v9 := (.ite (.step (onPwr_keeps _ _) rfl h8) h8)
  exact (.ite (.step (onPwr_keeps _ _) rfl h9) (.step (onPwr_keeps _ _) rfl h9))

theorem afterFlush_keeps (d) : Safety.Keeps [.regs, .glb, .svc, .sch, .fab, .bsn, .ntr, .med, .xlt, .slu, .twn, .pwr, .grt, .thm, .obs, .spr, .plain, .base, .stay] d (afterFlush d) := by
  unfold afterFlush
  split
  · exact (.step (warmReset_keeps _ _ _) rfl (.refl _ _))
  · exact (.step (warmReset_keeps _ _ _) rfl (.refl _ _))
  · exact (.step (toWithdrawn_keeps _) rfl (.refl _ _))
  · exact (.step (railsDown_keeps _ _) rfl (.step (setF_keeps _ _ _) rfl (.refl _ _)))

theorem saveOffsets_keeps (d) : Safety.Keeps [.grt] d (saveOffsets d) := by
  unfold saveOffsets
  exact (.step (onGrt_keeps _ _) rfl (.refl _ _))

theorem capLowered_keeps (a0 d) : Safety.Keeps [.regs, .glb, .svc, .fab, .obs, .plain] d (capLowered a0 d) := by
  unfold capLowered
  extract_lets +onlyGivenNames -underBinder -merge v1
  exact (.ite (.step (raiseN_keeps _ _ _) rfl (.step (setB_keeps _ _ _) rfl (.refl _ _))) (.refl _ _))

theorem deriveCap_keeps (a0 d) : Safety.Keeps [.regs, .glb, .svc, .fab, .obs, .plain] d (deriveCap a0 d) := by
  unfold deriveCap
  extract_lets +onlyGivenNames -underBinder -merge v1
  extract_lets +onlyGivenNames -underBinder -merge v2
  extract_lets +onlyGivenNames -underBinder -merge v3
  extract_lets +onlyGivenNames -underBinder -merge v4
  extract_lets +onlyGivenNames -underBinder -merge v5
  extract_lets +onlyGivenNames -underBinder -merge v6
  split
  · extract_lets +onlyGivenNames -underBinder -merge v9
    have h9 : Safety.Keeps [.regs, .glb, .svc, .fab, .obs, .plain] d v9 := (.step (setF_keeps _ _ _) rfl (.refl _ _))
    extract_lets +onlyGivenNames -underBinder -merge v10
    extract_lets +onlyGivenNames -underBinder -merge v11
    have h11 : Safety.Keeps [.regs, .glb, .svc, .fab, .obs, .plain] d v11 := (.step (setF_keeps _ _ _) rfl (.step (setF_keeps _ _ _) rfl (.step (setF_keeps _ _ _) rfl h9)))
    extract_lets +onlyGivenNames -underBinder -merge v12
    extract_lets +onlyGivenNames -underBinder -merge v13
    extract_lets +onlyGivenNames -underBinder -merge v14
    have h14 : Safety.Keeps [.regs, .glb, .svc, .fab, .obs, .plain] d v14 := (.step (setB_keeps _ _ _) rfl h11)
    exact (.ite (.step (raiseN_keeps _ _ _) rfl h14) h14)

theorem bankFails_keeps (d) : Safety.Keeps [.regs, .glb, .svc, .fab, .pwr, .obs, .plain] d (bankFails d) := by
  unfold bankFails
  extract_lets +onlyGivenNames -underBinder -merge v1
  have h1 : Safety.Keeps [.regs, .glb, .svc, .fab, .pwr, .obs, .plain] d v1 := (.step (setB_keeps _ _ _) rfl (.step (onPwr_keeps _ _) rfl (.refl _ _)))
  exact (.step (capLowered_keeps _ _) rfl (.step (deriveCap_keeps _ _) rfl (.step (raiseN_keeps _ _ _) rfl (.step (setB_keeps _ _ _) rfl h1))))

theorem bankEnd_keeps (d) : Safety.Keeps [.regs, .glb, .svc, .fab, .pwr, .obs, .plain] d (bankEnd d) := by
  unfold bankEnd
  refine .ite ?_ ?_
  · exact (.refl _ _)
  · refine .ite ?_ ?_
    · extract_lets +onlyGivenNames -underBinder -merge v1
      extract_lets +onlyGivenNames -underBinder -merge v2
      have h2 : Safety.Keeps [.regs, .glb, .svc, .fab, .pwr, .obs, .plain] d v2 := (.step (onPwr_keeps _ _) rfl (.refl _ _))
      extract_lets +onlyGivenNames -underBinder -merge v3
      have h3 : Safety.Keeps [.regs, .glb, .svc, .fab, .pwr, .obs, .plain] d v3 := (.step (setF_keeps _ _ _) rfl (.step (setF_keeps _ _ _) rfl h2))
      extract_lets +onlyGivenNames -underBinder -merge v4
      have h4 : Safety.Keeps [.regs, .glb, .svc, .fab, .pwr, .obs, .plain] d v4 := (.step (capLowered_keeps _ _) rfl (.step (deriveCap_keeps _ _) rfl h3))
      exact (.step (raiseN_keeps _ _ _) rfl h4)
    · exact (.ite (.step (bankFails_keeps _) rfl (.refl _ _)) (.refl _ _))

theorem bankSample_keeps (d) : Safety.Keeps [.regs, .glb, .svc, .fab, .pwr, .obs, .plain] d (bankSample d) := by
  unfold bankSample
  refine .ite ?_ ?_
  · exact (.refl _ _)
  · extract_lets +onlyGivenNames -underBinder -merge v1
    extract_lets +onlyGivenNames -underBinder -merge v2
    have h2 : Safety.Keeps [.regs, .glb, .svc, .fab, .pwr, .obs, .plain] d v2 := (.step (setB_keeps _ _ _) rfl (.refl _ _))
    exact (.ite (.step (bankFails_keeps _) rfl h2) (.step (onPwr_keeps _ _) rfl h2))

theorem bankStart_keeps (d) : Safety.Keeps [.regs, .glb, .svc, .fab, .pwr, .obs, .plain] d (bankStart d) := by
  unfold bankStart
  exact (.ite (.refl _ _) (.step (count_keeps _ _) rfl (.step (setB_keeps _ _ _) rfl (.step (onPwr_keeps _ _) rfl (.refl _ _)))))

theorem enableRail_keeps (a0 d) : Safety.Keeps [.regs, .pwr, .plain] d (enableRail a0 d) := by
  unfold enableRail
  refine .ite ?_ ?_
  · extract_lets +onlyGivenNames -underBinder -merge v1
    exact (.step (setF_keeps _ _ _) rfl (.step (onRail_keeps _ _ _) rfl (.refl _ _)))
  · exact (.step (setF_keeps _ _ _) rfl (.step (onRail_keeps _ _ _) rfl (.refl _ _)))

theorem step1End_keeps (d) : Safety.Keeps [.regs, .glb, .pwr, .plain, .base, .tick, .stay] d (step1End d) := by
  unfold step1End
  extract_lets +onlyGivenNames -underBinder -merge v1
  have h1 : Safety.Keeps [.regs, .glb, .pwr, .plain, .base, .tick, .stay] d v1 := (.step (onPwr_keeps _ _) rfl (.refl _ _))
  exact (.step (beginStep2_keeps _) rfl (.glbT rfl (fun _ => rfl) h1))

theorem bringUp_keeps0 (d) : Safety.Keeps [.regs, .glb, .pwr, .plain, .base, .tick, .stay] d (bringUp d) := by
  unfold bringUp
  extract_lets +onlyGivenNames -underBinder -merge v1
  refine .ite ?_ ?_
  · exact (.refl _ _)
  · split
    · exact (.ite (.step (enableRail_keeps _ _) rfl (.refl _ _)) (.refl _ _))
    · exact (.ite (.step (step1End_keeps _) rfl (.refl _ _)) (.refl _ _))

theorem bringUp_keeps (d) : Safety.Keeps [.regs, .glb, .pwr, .plain, .base, .tick] d (bringUp d) :=
  .noStay (bringUp_keeps0 d) rfl (by 
    intro hw; unfold bringUp; extract_lets v1; split
    · exact hw
    · split
      · split
        · exact (enableRail_keeps _ _) .stay (by decide) hw
        · exact hw
      · split
        · rename_i h; rw [hw] at h; exact absurd h.1 (by decide)
        · exact hw)

theorem capEpoch_keeps (d) : Safety.Keeps [.regs, .glb, .svc, .fab, .obs, .plain] d (capEpoch d) := by
  unfold capEpoch
  exact (.ite (.refl _ _) (.step (capLowered_keeps _ _) rfl (.step (deriveCap_keeps _ _) rfl (.refl _ _))))

theorem railLog_keeps (a0 a1 d) : Safety.Keeps [.regs, .glb, .svc, .fab, .grt, .obs, .plain] d (railLog a0 a1 d) := by
  unfold railLog
  extract_lets +onlyGivenNames -underBinder -merge v1
  extract_lets +onlyGivenNames -underBinder -merge v2
  have h2 : Safety.Keeps [.regs, .glb, .svc, .fab, .grt, .obs, .plain] d v2 := (.step (grtSubmit_keeps _ _) rfl (.refl _ _))
  exact (.step (onGrt_keeps _ _) rfl h2)

theorem off_keeps0 (a0 d) : Safety.Keeps [.regs, .glb, .svc, .fab, .med, .pwr, .grt, .obs, .plain, .base, .stay] d (off a0 d) := by
  unfold off
  refine .ite ?_ ?_
  · exact (.refl _ _)
  · split
    · exact (.refl _ _)
    · exact (.refl _ _)
    · exact (.refl _ _)
    · extract_lets +onlyGivenNames -underBinder -merge v5
      have h5 : Safety.Keeps [.regs, .glb, .svc, .fab, .med, .pwr, .grt, .obs, .plain, .base, .stay] d v5 := (.step (railLog_keeps _ _ _) rfl (.step (raiseN_keeps _ _ _) rfl (.refl _ _)))
      extract_lets +onlyGivenNames -underBinder -merge v6
      have h6 : Safety.Keeps [.regs, .glb, .svc, .fab, .med, .pwr, .grt, .obs, .plain, .base, .stay] d v6 := (.glbB rfl (fun _ => rfl) (.step (endService_keeps _) rfl h5))
      exact (.step (onPwr_keeps _ _) rfl h6)
    · exact (.step (shutdownAs_keeps _ _ _) rfl (.step (railLog_keeps _ _ _) rfl (.step (raiseN_keeps _ _ _) rfl (.refl _ _))))

theorem off_keeps (a0 d) : Safety.Keeps [.regs, .glb, .svc, .fab, .med, .pwr, .grt, .obs, .plain, .base] d (off a0 d) :=
  .noStay (off_keeps0 a0 d) rfl (by intro hw; simp [off, hw])

theorem huMeas_keeps (a0 d) : Safety.Keeps [.regs, .glb, .svc, .fab, .pwr, .obs, .plain] d (huMeas a0 d) := by
  unfold huMeas
  exact (.ite (.step (bankStart_keeps _) rfl (.refl _ _)) (.refl _ _))

theorem dischargeEnds_keeps (a0 d) : Safety.Keeps [.regs, .glb, .pwr, .plain, .base, .tick] d (dischargeEnds a0 d) := by
  unfold dischargeEnds
  extract_lets +onlyGivenNames -underBinder -merge v1
  refine .ite ?_ ?_
  · exact (.step (bringUp_keeps _) rfl (.step (enableRail_keeps _ _) rfl (.refl _ _)))
  · extract_lets +onlyGivenNames -underBinder -merge v2
    have h2 : Safety.Keeps [.regs, .glb, .pwr, .plain, .base, .tick] d v2 := (.step (setF_keeps _ _ _) rfl (.step (onRail_keeps _ _ _) rfl (.refl _ _)))
    split
    · exact (.step (bringUp_keeps _) rfl (.step (settleOff_keeps _) rfl h2))
    · exact (.step (railOff_keeps _ _) rfl (.step (onPwr_keeps _ _) rfl h2))

theorem sysReset_keeps0 (d) : Safety.Keeps [.regs, .glb, .svc, .fab, .med, .twn, .pwr, .grt, .obs, .plain, .base, .stay] d (sysReset d) := by
  unfold sysReset
  split
  · exact (.refl _ _)
  · exact (.refl _ _)
  · exact (.step (railsDown_keeps _ _) rfl (.refl _ _))
  · exact (.step (shutdownAs_keeps _ _ _) rfl (.step (onTwn_keeps _ _) rfl (.refl _ _)))

theorem sysReset_keeps (d) : Safety.Keeps [.regs, .glb, .svc, .fab, .med, .twn, .pwr, .grt, .obs, .plain, .base] d (sysReset d) :=
  .noStay (sysReset_keeps0 d) rfl (by intro hw; simp only [sysReset, hw]; exact (railsDown_keeps _ _) .stay (by decide) hw)

theorem qualifyFails_keeps (a0 d) : Safety.Keeps [.regs, .glb, .svc, .fab, .ntr, .med, .twn, .pwr, .grt, .obs, .plain, .base] d (qualifyFails a0 d) := by
  unfold qualifyFails
  extract_lets +onlyGivenNames -underBinder -merge v1
  have h1 : Safety.Keeps [.regs, .glb, .svc, .fab, .ntr, .med, .twn, .pwr, .grt, .obs, .plain, .base] d v1 := (.step (raiseN_keeps _ _ _) rfl (.step (railOff_keeps _ _) rfl (.refl _ _)))
  refine .ite ?_ ?_
  · exact (.step (onRail_keeps _ _ _) rfl (.step (setF_keeps _ _ _) rfl h1))
  · extract_lets +onlyGivenNames -underBinder -merge v2
    have h2 : Safety.Keeps [.regs, .glb, .svc, .fab, .ntr, .med, .twn, .pwr, .grt, .obs, .plain, .base] d v2 := (.step (onRail_keeps _ _ _) rfl h1)
    split
    · exact (.step (railsDown_keeps _ _) rfl h2)
    · exact (.step (onPwr_keeps _ _) rfl (.step (stepWithdraws_keeps _ _ _) rfl h2))
    · exact (.step (sysReset_keeps _) rfl h2)
    · exact h2

theorem dischargeTimeout_keeps (a0 d) : Safety.Keeps [.regs, .glb, .svc, .fab, .ntr, .med, .twn, .pwr, .grt, .obs, .plain, .base, .tick] d (dischargeTimeout a0 d) := by
  unfold dischargeTimeout
  refine .ite ?_ ?_
  · exact (.refl _ _)
  · extract_lets +onlyGivenNames -underBinder -merge v1
    have h1 : Safety.Keeps [.regs, .glb, .svc, .fab, .ntr, .med, .twn, .pwr, .grt, .obs, .plain, .base, .tick] d v1 := (.step (railLog_keeps _ _ _) rfl (.step (raiseN_keeps _ _ _) rfl (.step (setB_keeps _ _ _) rfl (.refl _ _))))
    exact (.ite (.step (qualifyFails_keeps _ _) rfl h1) (.step (dischargeEnds_keeps _ _) rfl h1))

theorem spwReport_keeps (a0 d) : Safety.Keeps [.regs, .grt, .plain] d (spwReport a0 d) := by
  unfold spwReport
  extract_lets +onlyGivenNames -underBinder -merge v1
  have h1 : Safety.Keeps [.regs, .grt, .plain] d v1 := (.step (setF_keeps _ _ _) rfl (.step (setF_keeps _ _ _) rfl (.refl _ _)))
  exact (.step (onGrt_keeps _ _) rfl h1)

theorem flushEnds_keeps (d) : Safety.Keeps [.regs, .glb, .svc, .sch, .fab, .bsn, .ntr, .med, .xlt, .slu, .twn, .pwr, .grt, .thm, .obs, .spr, .plain, .base, .stay] d (flushEnds d) := by
  unfold flushEnds
  extract_lets +onlyGivenNames -underBinder -merge v1
  have h1 : Safety.Keeps [.regs, .glb, .svc, .sch, .fab, .bsn, .ntr, .med, .xlt, .slu, .twn, .pwr, .grt, .thm, .obs, .spr, .plain, .base, .stay] d v1 := (.step (ledgerWrite_keeps _) rfl (.refl _ _))
  extract_lets +onlyGivenNames -underBinder -merge v2
  have h2 : Safety.Keeps [.regs, .glb, .svc, .sch, .fab, .bsn, .ntr, .med, .xlt, .slu, .twn, .pwr, .grt, .thm, .obs, .spr, .plain, .base, .stay] d v2 := (.step (spwReport_keeps _ _) rfl (.step (saveOffsets_keeps _) rfl h1))
  exact (.step (afterFlush_keeps _) rfl (.step (raiseN_keeps _ _ _) rfl h2))

theorem flushNodes_keeps (d) : Safety.Keeps [.regs, .glb, .svc, .fab, .slu, .obs] d (flushNodes d) := by
  unfold flushNodes
  extract_lets +onlyGivenNames -underBinder -merge v1
  have h1 : Safety.Keeps [.regs, .glb, .svc, .fab, .slu, .obs] d v1 := (.step (wcWriteOut_keeps _) rfl (.refl _ _))
  extract_lets +onlyGivenNames -underBinder -merge v2
  extract_lets +onlyGivenNames -underBinder -merge v3
  extract_lets +onlyGivenNames -underBinder -merge v4
  refine .ite ?_ ?_
  · exact h1
  · extract_lets +onlyGivenNames -underBinder -merge v5
    extract_lets +onlyGivenNames -underBinder -merge v6
    extract_lets +onlyGivenNames -underBinder -merge v7
    exact (.foldl h1 fun x8 _ h8 => (.step (onSlu_keeps _ _) rfl h8))

theorem goodLow_keeps (a0 a1 d) : Safety.Keeps [.regs, .glb, .svc, .fab, .pwr, .obs, .plain] d (goodLow a0 a1 d) := by
  unfold goodLow
  extract_lets +onlyGivenNames -underBinder -merge v1
  refine .ite ?_ ?_
  · exact (.step (onRail_keeps _ _ _) rfl (.refl _ _))
  · refine .ite ?_ ?_
    · exact (.refl _ _)
    · refine .ite ?_ ?_
      · exact (.step (onRail_keeps _ _ _) rfl (.refl _ _))
      · extract_lets +onlyGivenNames -underBinder -merge v2
        have h2 : Safety.Keeps [.regs, .glb, .svc, .fab, .pwr, .obs, .plain] d v2 := (.step (countN_keeps _ _ _) rfl (.step (addSat_keeps _ _ _) rfl (.refl _ _)))
        extract_lets +onlyGivenNames -underBinder -merge v3
        have h3 : Safety.Keeps [.regs, .glb, .svc, .fab, .pwr, .obs, .plain] d v3 := (.step (onRail_keeps _ _ _) rfl h2)
        exact (.ite (.step (onRail_keeps _ _ _) rfl h3) h3)

theorem inputLost_keeps (a0 d) : Safety.Keeps [.regs, .glb, .svc, .fab, .grt, .obs, .plain] d (inputLost a0 d) := by
  unfold inputLost
  extract_lets +onlyGivenNames -underBinder -merge v1
  extract_lets +onlyGivenNames -underBinder -merge v2
  have h2 : Safety.Keeps [.regs, .glb, .svc, .fab, .grt, .obs, .plain] d v2 := (.step (raiseN_keeps _ _ _) rfl (.step (abandonLog_keeps _) rfl (.ite (.refl _ _) (.step (setB_keeps _ _ _) rfl (.refl _ _)))))
  exact (.step (ledDetail_keeps _ _ _ _) rfl h2)

theorem inputActs_keeps0 (a0 d) : Safety.Keeps [.regs, .glb, .svc, .fab, .med, .pwr, .grt, .obs, .plain, .base, .stay] d (inputActs a0 d) := by
  unfold inputActs
  extract_lets +onlyGivenNames -underBinder -merge v1
  split
  · exact (.refl _ _)
  · exact (.refl _ _)
  · exact (.ite (.step (setB_keeps _ _ _) rfl (.step (setB_keeps _ _ _) rfl (.refl _ _))) (.ite (.step (shutdownAs_keeps _ _ _) rfl (.step (inputLost_keeps _ _) rfl (.refl _ _))) (.ite (.step (setB_keeps _ _ _) rfl (.refl _ _)) (.step (onPwr_keeps _ _) rfl (.step (inputLost_keeps _ _) rfl (.refl _ _))))))
  · exact (.step (enterShutdown_keeps _ _) rfl (.step (inputLost_keeps _ _) rfl (.refl _ _)))

theorem inputActs_keeps (a0 d) : Safety.Keeps [.regs, .glb, .svc, .fab, .med, .pwr, .grt, .obs, .plain, .base] d (inputActs a0 d) :=
  .noStay (inputActs_keeps0 a0 d) rfl (by intro hw; simp [inputActs, hw])

theorem inputFailure_keeps (a0 d) : Safety.Keeps [.regs, .glb, .svc, .fab, .med, .pwr, .grt, .obs, .plain, .base] d (inputFailure a0 d) := by
  unfold inputFailure
  exact (.ite (.refl _ _) (.step (inputActs_keeps _ _) rfl (.step (setB_keeps _ _ _) rfl (.refl _ _))))

theorem markFlushed_keeps (d) : Safety.Keeps [.med] d (markFlushed d) := by
  unfold markFlushed
  refine .foldl ((.refl _ _)) fun x2 z2 h2 => ?_
  split
  · exact h2
  · exact (.step (onStripe_keeps _ _ _ _) rfl h2)

theorem writeTop_keeps (d) : Safety.Keeps [.regs, .glb, .svc, .fab, .slu, .grt, .obs, .plain] d (writeTop d) := by
  unfold writeTop
  extract_lets +onlyGivenNames -underBinder -merge v1
  have h1 : Safety.Keeps [.regs, .glb, .svc, .fab, .slu, .grt, .obs, .plain] d v1 := (.step (wcWriteOut_keeps _) rfl (.refl _ _))
  extract_lets +onlyGivenNames -underBinder -merge v2
  extract_lets +onlyGivenNames -underBinder -merge v3
  have h3 : Safety.Keeps [.regs, .glb, .svc, .fab, .slu, .grt, .obs, .plain] d v3 := (.step (onGrt_keeps _ _) rfl h1)
  exact (.step (grtInc_keeps _ _) rfl h3)

theorem offTick_keeps (d) : Safety.Keeps [.regs, .glb, .svc, .fab, .ntr, .med, .xlt, .slu, .pwr, .grt, .obs, .plain, .base] d (offTick d) := by
  unfold offTick
  refine .ite ?_ ?_
  · exact (.refl _ _)
  · split
    · exact (.ite (.step (onPwr_keeps _ _) rfl (.refl _ _)) (.refl _ _))
    · extract_lets +onlyGivenNames -underBinder -merge v3
      have h3 : Safety.Keeps [.regs, .glb, .svc, .fab, .ntr, .med, .xlt, .slu, .pwr, .grt, .obs, .plain, .base] d v3 := (.foldl (.refl _ _) fun x4 _ h4 => (.step (mergeDrain_keeps _ _) rfl h4))
      exact (.ite (.step (onPwr_keeps _ _) rfl (.step (wcWriteOut_keeps _) rfl h3)) h3)
    · exact (.ite (.step (onPwr_keeps _ _) rfl (.step (saveOffsets_keeps _) rfl (.step (writeTop_keeps _) rfl (.step (onXlt_keeps _ _) rfl (.refl _ _))))) (.refl _ _))
    · exact (.ite (.step (railsDown_keeps _ _) rfl (.step (suspendErases_keeps _) rfl (.step (onPwr_keeps _ _) rfl (.step (ledgerWrite_keeps _) rfl (.refl _ _))))) (.refl _ _))
    · exact (.refl _ _)

theorem pause_keeps (d) : Safety.Keeps [.regs, .glb, .svc, .fab, .ntr, .med, .xlt, .slu, .pwr, .obs, .plain] d (pause d) := by
  unfold pause
  extract_lets +onlyGivenNames -underBinder -merge v1
  have h1 : Safety.Keeps [.regs, .glb, .svc, .fab, .ntr, .med, .xlt, .slu, .pwr, .obs, .plain] d v1 := (.step (setB_keeps _ _ _) rfl (.step (setB_keeps _ _ _) rfl (.refl _ _)))
  extract_lets +onlyGivenNames -underBinder -merge v2
  extract_lets +onlyGivenNames -underBinder -merge v3
  extract_lets +onlyGivenNames -underBinder -merge v4
  have h4 : Safety.Keeps [.regs, .glb, .svc, .fab, .ntr, .med, .xlt, .slu, .pwr, .obs, .plain] d v4 := (.foldl h1 fun x5 _ h5 => (.step (stripeTo_keeps _ _ _ _ _ _) rfl h5))
  extract_lets +onlyGivenNames -underBinder -merge v6
  have h6 : Safety.Keeps [.regs, .glb, .svc, .fab, .ntr, .med, .xlt, .slu, .pwr, .obs, .plain] d v6 := by
      dsimp -zeta -iota -proj only [v6]
      refine .foldl (h4) fun x9 z9 h9 => ?_
      split
      · exact h9
      · extract_lets +onlyGivenNames -underBinder -merge v12
        extract_lets +onlyGivenNames -underBinder -merge v13
        have h13 : Safety.Keeps [.regs, .glb, .svc, .fab, .ntr, .med, .xlt, .slu, .pwr, .obs, .plain] d v13 := (.step (stripeTo_keeps _ _ _ _ _ _) rfl h9)
        exact (.step (onDie_keeps _ _ _) rfl h13)
  exact (.step (onPwr_keeps _ _) rfl h6)

theorem pfaultFollow_keeps0 (d) : Safety.Keeps [.regs, .glb, .svc, .fab, .med, .pwr, .grt, .obs, .plain, .base, .stay] d (pfaultFollow d) := by
  unfold pfaultFollow
  refine .ite ?_ ?_
  · exact (.refl _ _)
  · split
    · exact (.refl _ _)
    · exact (.refl _ _)
    · exact (.ite (.step (setB_keeps _ _ _) rfl (.refl _ _)) (.ite (.step (shutdownAs_keeps _ _ _) rfl (.step (raiseN_keeps _ _ _) rfl (.refl _ _))) (.refl _ _)))
    · exact (.step (enterShutdown_keeps _ _) rfl (.step (raiseN_keeps _ _ _) rfl (.refl _ _)))

theorem pfaultFollow_keeps (d) : Safety.Keeps [.regs, .glb, .svc, .fab, .med, .pwr, .grt, .obs, .plain, .base] d (pfaultFollow d) :=
  .noStay (pfaultFollow_keeps0 d) rfl (by intro hw; simp [pfaultFollow, hw])

theorem pfaultReleased_keeps (d) : Safety.Keeps [.regs, .glb, .svc, .fab, .ntr, .med, .xlt, .slu, .pwr, .obs, .plain] d (pfaultReleased d) := by
  unfold pfaultReleased
  extract_lets +onlyGivenNames -underBinder -merge v1
  exact (.ite (.refl _ _) (.step (pause_keeps _) rfl (.refl _ _)))

theorem quiesceEnd_keeps (d) : Safety.Keeps [.regs, .glb, .svc, .fab, .ntr, .slu, .obs, .plain] d (quiesceEnd d) := by
  unfold quiesceEnd
  refine .ite ?_ ?_
  · exact (.refl _ _)
  · extract_lets +onlyGivenNames -underBinder -merge v1
    have h1 : Safety.Keeps [.regs, .glb, .svc, .fab, .ntr, .slu, .obs, .plain] d v1 := (.foldl (.refl _ _) fun x2 _ h2 => (.step (mergeDrain_keeps _ _) rfl h2))
    exact (.step (setF_keeps _ _ _) rfl h1)

theorem railReact_keeps0 (a0 d) : Safety.Keeps [.regs, .glb, .svc, .fab, .ntr, .med, .twn, .pwr, .grt, .obs, .plain, .base, .stay] d (railReact a0 d) := by
  unfold railReact
  split
  · exact (.refl _ _)
  · exact (.refl _ _)
  · exact (.step (shutdownAs_keeps _ _ _) rfl (.refl _ _))
  · exact (.step (shutdownAs_keeps _ _ _) rfl (.refl _ _))
  · exact (.step (shutdownAs_keeps _ _ _) rfl (.refl _ _))
  · exact (.step (shutdownAs_keeps _ _ _) rfl (.refl _ _))
  · split
    · exact (.step (setF_keeps _ _ _) rfl (.refl _ _))
    · extract_lets +onlyGivenNames -underBinder -merge v10
      have h10 : Safety.Keeps [.regs, .glb, .svc, .fab, .ntr, .med, .twn, .pwr, .grt, .obs, .plain, .base, .stay] d v10 := (.forEach (.refl _ _) fun _ x11 h11 => (.ite h11 (.step (enterDown_keeps _ _) rfl h11)))
      extract_lets +onlyGivenNames -underBinder -merge v12
      have h12 : Safety.Keeps [.regs, .glb, .svc, .fab, .ntr, .med, .twn, .pwr, .grt, .obs, .plain, .base, .stay] d v12 := (.step (setF_keeps _ _ _) rfl (.ite (.step (setF_keeps _ _ _) rfl h10) h10))
      exact (.step (onRail_keeps _ _ _) rfl (.step (railOff_keeps _ _) rfl h12))
    · extract_lets +onlyGivenNames -underBinder -merge v14
      exact (.ite (.step (railsDown_keeps _ _) rfl (.refl _ _)) (.step (withdraw_keeps _ _) rfl (.step (onPwr_keeps _ _) rfl (.refl _ _))))
    · exact (.step (sysReset_keeps _) rfl (.refl _ _))
  · split
    · exact (.step (setF_keeps _ _ _) rfl (.refl _ _))
    · extract_lets +onlyGivenNames -underBinder -merge v19
      have h19 : Safety.Keeps [.regs, .glb, .svc, .fab, .ntr, .med, .twn, .pwr, .grt, .obs, .plain, .base, .stay] d v19 := (.forEach (.refl _ _) fun _ x20 h20 => (.ite h20 (.step (enterDown_keeps _ _) rfl h20)))
      extract_lets +onlyGivenNames -underBinder -merge v21
      have h21 : Safety.Keeps [.regs, .glb, .svc, .fab, .ntr, .med, .twn, .pwr, .grt, .obs, .plain, .base, .stay] d v21 := (.step (setF_keeps _ _ _) rfl (.ite (.step (setF_keeps _ _ _) rfl h19) h19))
      exact (.step (onRail_keeps _ _ _) rfl (.step (railOff_keeps _ _) rfl h21))
    · extract_lets +onlyGivenNames -underBinder -merge v23
      exact (.ite (.step (railsDown_keeps _ _) rfl (.refl _ _)) (.step (withdraw_keeps _ _) rfl (.step (onPwr_keeps _ _) rfl (.refl _ _))))
    · exact (.step (sysReset_keeps _) rfl (.refl _ _))

theorem railReact_keeps (a0 d) : Safety.Keeps [.regs, .glb, .svc, .fab, .ntr, .med, .twn, .pwr, .grt, .obs, .plain, .base] d (railReact a0 d) :=
  .noStay (railReact_keeps0 a0 d) rfl (by 
    intro hw; simp only [railReact, hw]; split
    · exact (setF_keeps _ _ _) .stay (by decide) hw
    · exact (show Safety.Keeps [.plain, .regs, .glb, .svc, .fab, .bsn, .twn, .pwr, .obs] d _ from
        .step (onRail_keeps _ _ _) rfl (.step (railOff_keeps _ _) rfl (.step (setF_keeps _ _ _) rfl
          (.ite (.step (setF_keeps _ _ _) rfl (.forEach (.refl _ _) fun _ x h => .ite h (.step (enterDown_keeps _ _) rfl h)))
            (.forEach (.refl _ _) fun _ x h => .ite h (.step (enterDown_keeps _ _) rfl h)))))) .stay (by decide) hw
    · simp only [if_true]; exact (railsDown_keeps _ _) .stay (by decide) hw
    · exact (sysReset_keeps _) .stay (by decide) hw)

theorem railFault_keeps (a0 a1 d) : Safety.Keeps [.regs, .glb, .svc, .fab, .ntr, .med, .twn, .pwr, .grt, .obs, .plain, .base] d (railFault a0 a1 d) := by
  unfold railFault
  refine .ite ?_ ?_
  · exact (.refl _ _)
  · extract_lets +onlyGivenNames -underBinder -merge v1
    have h1 : Safety.Keeps [.regs, .glb, .svc, .fab, .ntr, .med, .twn, .pwr, .grt, .obs, .plain, .base] d v1 := (.step (onRail_keeps _ _ _) rfl (.refl _ _))
    extract_lets +onlyGivenNames -underBinder -merge v2
    have h2 : Safety.Keeps [.regs, .glb, .svc, .fab, .ntr, .med, .twn, .pwr, .grt, .obs, .plain, .base] d v2 := (.step (setB_keeps _ _ _) rfl (.ite (.step (setB_keeps _ _ _) rfl h1) h1))
    exact (.step (railReact_keeps _ _) rfl (.step (raiseN_keeps _ _ _) rfl (.step (railLog_keeps _ _ _) rfl (.step (count_keeps _ _) rfl h2))))

theorem railQualified_keeps (a0 d) : Safety.Keeps [.regs, .glb, .svc, .fab, .pwr, .obs, .plain, .base, .tick] d (railQualified a0 d) := by
  unfold railQualified
  split
  · exact (.refl _ _)
  · refine .ite ?_ ?_
    · extract_lets +onlyGivenNames -underBinder -merge v3
      have h3 : Safety.Keeps [.regs, .glb, .svc, .fab, .pwr, .obs, .plain, .base, .tick] d v3 := (.step (setF_keeps _ _ _) rfl (.step (onRail_keeps _ _ _) rfl (.refl _ _)))
      refine .ite ?_ ?_
      · extract_lets +onlyGivenNames -underBinder -merge v4
        have h4 : Safety.Keeps [.regs, .glb, .svc, .fab, .pwr, .obs, .plain, .base, .tick] d v4 := (.step (raiseN_keeps _ _ _) rfl h3)
        exact (.ite (.forEach h4 fun _ x5 h5 => (.ite (.step (setLt_keeps _ _ _ _) rfl h5) h5)) h4)
      · exact (.step (bringUp_keeps _) rfl h3)
    · exact (.refl _ _)

theorem raiseLedger_keeps (a0 a1 d) : Safety.Keeps [.regs, .glb, .svc, .fab, .obs] d (raiseLedger a0 a1 d) := by
  unfold raiseLedger
  extract_lets +onlyGivenNames -underBinder -merge v1
  have h1 : Safety.Keeps [.regs, .glb, .svc, .fab, .obs] d v1 := (.step (pendEvent_keeps _ _) rfl (.refl _ _))
  extract_lets +onlyGivenNames -underBinder -merge v2
  split
  · rename_i y3 y4 y5 e6
    have h6 : Safety.Keeps [.regs, .glb, .svc, .fab, .obs] d y3 := .of_fst e6 ((.step (ledFlood_keeps _ _ _) rfl h1))
    exact (.ite (.step (raiseOnce_keeps _ _ _ _) rfl h6) h6)

theorem takeImages_keeps (d) : Safety.Keeps [.regs, .glb, .svc, .fab, .ntr, .xlt, .slu, .obs] d (takeImages d) := by
  unfold takeImages
  extract_lets +onlyGivenNames -underBinder -merge v1
  extract_lets +onlyGivenNames -underBinder -merge v2
  have h2 : Safety.Keeps [.regs, .glb, .svc, .fab, .ntr, .xlt, .slu, .obs] d v2 := (.foldl (.refl _ _) fun x3 _ h3 => (.step (fillLeaf_keeps _ _) rfl h3))
  exact (.step (onXlt_keeps _ _) rfl h2)

theorem spillwayPhase_keeps0 (d) : Safety.Keeps [.regs, .glb, .svc, .sch, .fab, .bsn, .ntr, .med, .xlt, .slu, .twn, .pwr, .grt, .thm, .obs, .spr, .plain, .base, .stay] d (spillwayPhase d) := by
  unfold spillwayPhase
  refine .ite ?_ ?_
  · exact (.refl _ _)
  · split
    · exact (.step (setF_keeps _ _ _) rfl (.step (markFlushed_keeps _) rfl (.step (takeImages_keeps _) rfl (.refl _ _))))
    · exact (.step (setF_keeps _ _ _) rfl (.refl _ _))
    · exact (.step (setF_keeps _ _ _) rfl (.step (writeTop_keeps _) rfl (.step (flushNodes_keeps _) rfl (.refl _ _))))
    · exact (.ite (.step (raiseN_keeps _ _ _) rfl (.step (setF_keeps _ _ _) rfl (.refl _ _))) (.refl _ _))
    · exact (.step (flushEnds_keeps _) rfl (.refl _ _))
    · exact (.refl _ _)

theorem spillwayPhase_keeps (d) : Safety.Keeps [.regs, .glb, .svc, .sch, .fab, .bsn, .ntr, .med, .xlt, .slu, .twn, .pwr, .grt, .thm, .obs, .spr, .plain, .base] d (spillwayPhase d) :=
  .noStay (spillwayPhase_keeps0 d) rfl (by intro hw; simp [spillwayPhase, hw])

theorem spillwayResume_keeps0 (d) : Safety.Keeps [.regs, .glb, .svc, .sch, .fab, .bsn, .ntr, .med, .xlt, .slu, .twn, .pwr, .grt, .obs, .plain, .base, .stay] d (spillwayResume d) := by
  unfold spillwayResume
  refine .ite ?_ ?_
  · exact (.refl _ _)
  · extract_lets +onlyGivenNames -underBinder -merge v1
    extract_lets +onlyGivenNames -underBinder -merge v2
    have h2 : Safety.Keeps [.regs, .glb, .svc, .sch, .fab, .bsn, .ntr, .med, .xlt, .slu, .twn, .pwr, .grt, .obs, .plain, .base, .stay] d v2 := (.step (spwReport_keeps _ _) rfl (.refl _ _))
    extract_lets +onlyGivenNames -underBinder -merge v3
    have h3 : Safety.Keeps [.regs, .glb, .svc, .sch, .fab, .bsn, .ntr, .med, .xlt, .slu, .twn, .pwr, .grt, .obs, .plain, .base, .stay] d v3 := (.glbB rfl (fun _ => rfl) (.step (setB_keeps _ _ _) rfl (.step (setF_keeps _ _ _) rfl h2)))
    extract_lets +onlyGivenNames -underBinder -merge v4
    have h4 : Safety.Keeps [.regs, .glb, .svc, .sch, .fab, .bsn, .ntr, .med, .xlt, .slu, .twn, .pwr, .grt, .obs, .plain, .base, .stay] d v4 := (.step (count_keeps _ _) rfl (.step (onGrt_keeps _ _) rfl (.step (onPwr_keeps _ _) rfl h3)))
    extract_lets +onlyGivenNames -underBinder -merge v5
    have h5 : Safety.Keeps [.regs, .glb, .svc, .sch, .fab, .bsn, .ntr, .med, .xlt, .slu, .twn, .pwr, .grt, .obs, .plain, .base, .stay] d v5 := (.foldl h4 fun x6 _ h6 => (.step (stripeTo_keeps _ _ _ _ _ _) rfl h6))
    extract_lets +onlyGivenNames -underBinder -merge v7
    have h7 : Safety.Keeps [.regs, .glb, .svc, .sch, .fab, .bsn, .ntr, .med, .xlt, .slu, .twn, .pwr, .grt, .obs, .plain, .base, .stay] d v7 := (.step (onPwr_keeps _ _) rfl h5)
    extract_lets +onlyGivenNames -underBinder -merge v8
    have h8 : Safety.Keeps [.regs, .glb, .svc, .sch, .fab, .bsn, .ntr, .med, .xlt, .slu, .twn, .pwr, .grt, .obs, .plain, .base, .stay] d v8 := (.step (raiseN_keeps _ _ _) rfl h7)
    extract_lets +onlyGivenNames -underBinder -merge v9
    have h9 : Safety.Keeps [.regs, .glb, .svc, .sch, .fab, .bsn, .ntr, .med, .xlt, .slu, .twn, .pwr, .grt, .obs, .plain, .base, .stay] d v9 := (.ite (.step (takeover_keeps _ _) rfl h8) h8)
    exact (.foldl h9 fun x10 _ h10 => (.step (advance_keeps _ _) rfl h10))

theorem spillwayResume_keeps (d) : Safety.Keeps [.regs, .glb, .svc, .sch, .fab, .bsn, .ntr, .med, .xlt, .slu, .twn, .pwr, .grt, .obs, .plain, .base] d (spillwayResume d) :=
  .noStay (spillwayResume_keeps0 d) rfl (by intro hw; simp [spillwayResume, hw])

theorem vinReturn_keeps (d) : Safety.Keeps [.regs, .glb, .svc, .fab, .ntr, .med, .xlt, .slu, .pwr, .obs, .plain] d (vinReturn d) := by
  unfold vinReturn
  refine .ite ?_ ?_
  · exact (.refl _ _)
  · extract_lets +onlyGivenNames -underBinder -merge v1
    exact (.ite (.step (pause_keeps _) rfl (.refl _ _)) (.ite (.step (raiseLedger_keeps _ _ _) rfl (.step (onPwr_keeps _ _) rfl (.refl _ _))) (.refl _ _)))

end Sys2Proof.Machine
end

