-- ==== Sys2Proof/Laws/FrameSparing.lean ====
section
/-!
SUPPORT. What each definition of Machine/Sparing.lean leaves alone: one lemma per definition, cited and not unfolded.
-/
namespace Sys2Proof.Machine
open Sys2Proof Sys2Proof.Safety.Keeps

theorem dryArm_keeps (d) : Safety.Keeps [.regs, .glb, .svc, .fab, .obs, .spr, .plain] d (dryArm d) := by
  unfold dryArm
  extract_lets +onlyGivenNames -underBinder -merge v1
  extract_lets +onlyGivenNames -underBinder -merge v2
  extract_lets +onlyGivenNames -underBinder -merge v3
  extract_lets +onlyGivenNames -underBinder -merge v4
  have h4 : Safety.Keeps [.regs, .glb, .svc, .fab, .obs, .spr, .plain] d v4 := (.step (setB_keeps _ _ _) rfl (.set_spr rfl (.refl _ _)))
  extract_lets +onlyGivenNames -underBinder -merge v5
  have h5 : Safety.Keeps [.regs, .glb, .svc, .fab, .obs, .spr, .plain] d v5 := (.step (setF_keeps _ _ _) rfl h4)
  exact (.forEach h5 fun _ x6 h6 => (.step (raiseN_keeps _ _ _) rfl h6))

theorem dryExit_keeps (d) : Safety.Keeps [.regs, .glb, .svc, .fab, .obs, .plain] d (dryExit d) := by
  unfold dryExit
  extract_lets +onlyGivenNames -underBinder -merge v1
  exact (.ite (.step (raiseN_keeps _ _ _) rfl (.step (setB_keeps _ _ _) rfl (.glb rfl (fun _ => ⟨rfl, rfl⟩) (.refl _ _)))) (.refl _ _))

theorem gaugeUpdate_keeps (a0 d) : Safety.Keeps [.regs, .glb, .svc, .fab, .obs, .plain] d (gaugeUpdate a0 d) := by
  unfold gaugeUpdate
  split
  · exact (.refl _ _)
  · extract_lets +onlyGivenNames -underBinder -merge v3
    have h3 : Safety.Keeps [.regs, .glb, .svc, .fab, .obs, .plain] d v3 := (.step (setF_keeps _ _ _) rfl (.refl _ _))
    extract_lets +onlyGivenNames -underBinder -merge v4
    extract_lets +onlyGivenNames -underBinder -merge v5
    extract_lets +onlyGivenNames -underBinder -merge v6
    extract_lets +onlyGivenNames -underBinder -merge v7
    have h7 : Safety.Keeps [.regs, .glb, .svc, .fab, .obs, .plain] d v7 := (.step (setB_keeps _ _ _) rfl h3)
    exact (.ite (.step (raiseN_keeps _ _ _) rfl h7) h7)

theorem gaugesUpdate_keeps (d) : Safety.Keeps [.regs, .glb, .svc, .fab, .obs, .plain] d (gaugesUpdate d) := by
  unfold gaugesUpdate
  exact (.forEach (.refl _ _) fun _ x1 h1 => (.step (gaugeUpdate_keeps _ _) rfl h1))

theorem wearUpdate_keeps (d) : Safety.Keeps [.regs, .glb, .svc, .fab, .obs, .spr, .plain] d (wearUpdate d) := by
  unfold wearUpdate
  split
  · exact (.refl _ _)
  · extract_lets +onlyGivenNames -underBinder -merge v3
    extract_lets +onlyGivenNames -underBinder -merge v4
    have h4 : Safety.Keeps [.regs, .glb, .svc, .fab, .obs, .spr, .plain] d v4 := (.step (setF_keeps _ _ _) rfl (.step (setF_keeps _ _ _) rfl (.refl _ _)))
    exact (.ite (.step (raiseN_keeps _ _ _) rfl (.set_spr rfl h4)) h4)

theorem sparingTick_keeps (d) : Safety.Keeps [.regs, .glb, .svc, .fab, .obs, .spr, .plain] d (sparingTick d) := by
  unfold sparingTick
  extract_lets +onlyGivenNames -underBinder -merge v1
  have h1 : Safety.Keeps [.regs, .glb, .svc, .fab, .obs, .spr, .plain] d v1 := (.step (dryArm_keeps _) rfl (.step (wearUpdate_keeps _) rfl (.step (gaugesUpdate_keeps _) rfl (.refl _ _))))
  extract_lets +onlyGivenNames -underBinder -merge v2
  have h2 : Safety.Keeps [.regs, .glb, .svc, .fab, .obs, .spr, .plain] d v2 := (.ite (.step (count_keeps _ _) rfl h1) h1)
  exact (.step (dryExit_keeps _) rfl h2)

end Sys2Proof.Machine
end

