-- ==== Sys2Proof/Laws/FrameThermal.lean ====
section
/-!
SUPPORT. What each definition of Machine/Thermal.lean leaves alone: one lemma per definition, cited and not unfolded.
-/
namespace Sys2Proof.Machine
open Sys2Proof Sys2Proof.Safety.Keeps

theorem peakClear_keeps (d) : Safety.Keeps [.regs, .plain] d (peakClear d) := by
  unfold peakClear
  exact (.step (setF_keeps _ _ _) rfl (.refl _ _))

theorem onThm_keeps (a0 d) : Safety.Keeps [.thm] d (onThm a0 d) := by
  unfold onThm
  exact (.set_thm rfl (.refl _ _))

theorem coldTick_keeps (a0 a1 d) : Safety.Keeps [.regs, .glb, .svc, .fab, .thm, .obs] d (coldTick a0 a1 d) := by
  unfold coldTick
  exact (.ite (.ite (.refl _ _) (.step (raiseN_keeps _ _ _) rfl (.step (onThm_keeps _ _) rfl (.refl _ _)))) (.step (onThm_keeps _ _) rfl (.refl _ _)))

theorem windowsLapse_keeps (a0 d) : Safety.Keeps [.regs, .glb, .svc, .sch, .fab, .bsn, .twn, .obs] d (windowsLapse a0 d) := by
  unfold windowsLapse
  extract_lets +onlyGivenNames -underBinder -merge v1
  extract_lets +onlyGivenNames -underBinder -merge v2
  exact (.forEach (.refl _ _) fun _ x3 h3 => (.step (readMissed_keeps _ _ _) rfl h3))

theorem dutyLevelFix_keeps (d) : Safety.Keeps [.regs, .glb, .svc, .sch, .fab, .bsn, .twn, .obs, .plain] d (dutyLevelFix d) := by
  unfold dutyLevelFix
  refine .ite ?_ ?_
  · exact (.refl _ _)
  · extract_lets +onlyGivenNames -underBinder -merge v1
    exact (.step (windowsLapse_keeps _ _) rfl (.step (setF_keeps _ _ _) rfl (.refl _ _)))

theorem levelApplies_keeps (d) : Safety.Keeps [.regs, .glb, .svc, .sch, .fab, .obs, .plain] d (levelApplies d) := by
  unfold levelApplies
  extract_lets +onlyGivenNames -underBinder -merge v1
  extract_lets +onlyGivenNames -underBinder -merge v2
  extract_lets +onlyGivenNames -underBinder -merge v3
  have h3 : Safety.Keeps [.regs, .glb, .svc, .sch, .fab, .obs, .plain] d v3 := (.step (onSch_keeps _ _) rfl (.refl _ _))
  refine .ite ?_ ?_
  · exact h3
  · extract_lets +onlyGivenNames -underBinder -merge v4
    have h4 : Safety.Keeps [.regs, .glb, .svc, .sch, .fab, .obs, .plain] d v4 := (.step (setB_keeps _ _ _) rfl (.step (setF_keeps _ _ _) rfl h3))
    extract_lets +onlyGivenNames -underBinder -merge v5
    have h5 : Safety.Keeps [.regs, .glb, .svc, .sch, .fab, .obs, .plain] d v5 := (.step (raiseN_keeps _ _ _) rfl h4)
    exact (.ite (.step (raiseN_keeps _ _ _) rfl h5) (.ite (.step (raiseN_keeps _ _ _) rfl h5) h5))

theorem warnTick_keeps (a0 d) : Safety.Keeps [.regs, .glb, .svc, .fab, .obs, .plain] d (warnTick a0 d) := by
  unfold warnTick
  extract_lets +onlyGivenNames -underBinder -merge v1
  extract_lets +onlyGivenNames -underBinder -merge v2
  exact (.ite (.step (count_keeps _ _) rfl (.step (raiseN_keeps _ _ _) rfl (.step (setB_keeps _ _ _) rfl (.refl _ _)))) (.ite (.step (raiseN_keeps _ _ _) rfl (.step (setB_keeps _ _ _) rfl (.refl _ _))) (.refl _ _)))

theorem maxTick_keeps (a0 a1 d) : Safety.Keeps [.regs, .glb, .svc, .fab, .thm, .obs, .plain] d (maxTick a0 a1 d) := by
  unfold maxTick
  extract_lets +onlyGivenNames -underBinder -merge v1
  have h1 : Safety.Keeps [.regs, .glb, .svc, .fab, .thm, .obs, .plain] d v1 := (.step (setF_keeps _ _ _) rfl (.step (setF_keeps _ _ _) rfl (.refl _ _)))
  extract_lets +onlyGivenNames -underBinder -merge v2
  have h2 : Safety.Keeps [.regs, .glb, .svc, .fab, .thm, .obs, .plain] d v2 := (.ite (.step (setF_keeps _ _ _) rfl h1) h1)
  extract_lets +onlyGivenNames -underBinder -merge v3
  extract_lets +onlyGivenNames -underBinder -merge v4
  have h4 : Safety.Keeps [.regs, .glb, .svc, .fab, .thm, .obs, .plain] d v4 := (.step (onThm_keeps _ _) rfl h2)
  exact (.step (warnTick_keeps _ _) rfl h4)

theorem sensorTick_keeps (a0 a1 a2 d) : Safety.Keeps [.regs, .thm, .plain] d (sensorTick a0 a1 a2 d) := by
  unfold sensorTick
  extract_lets +onlyGivenNames -underBinder -merge v1
  extract_lets +onlyGivenNames -underBinder -merge v2
  extract_lets +onlyGivenNames -underBinder -merge v3
  extract_lets +onlyGivenNames -underBinder -merge v4
  have h4 : Safety.Keeps [.regs, .thm, .plain] d v4 := (.step (setF_keeps _ _ _) rfl (.step (onThm_keeps _ _) rfl (.refl _ _)))
  extract_lets +onlyGivenNames -underBinder -merge v5
  exact (.ite (.step (onThm_keeps _ _) rfl h4) h4)

theorem thermTick_keeps (a0 d) : Safety.Keeps [.regs, .glb, .svc, .fab, .thm, .obs, .plain] d (thermTick a0 d) := by
  unfold thermTick
  extract_lets +onlyGivenNames -underBinder -merge v1
  extract_lets +onlyGivenNames -underBinder -merge v2
  have h2 : Safety.Keeps [.regs, .glb, .svc, .fab, .thm, .obs, .plain] d v2 := (.forEach (.refl _ _) fun _ x3 h3 => (.step (coldTick_keeps _ _ _) rfl (.step (sensorTick_keeps _ _ _ _) rfl h3)))
  split
  · exact h2
  · exact (.step (maxTick_keeps _ _ _) rfl h2)

theorem refclkFails_keeps0 (d) : Safety.Keeps [.regs, .glb, .svc, .fab, .ntr, .med, .twn, .pwr, .grt, .obs, .plain, .base, .stay] d (refclkFails d) := by
  unfold refclkFails
  split
  · exact (.step (withdraw_keeps _ _) rfl (.refl _ _))
  · exact (.step (shutdownAs_keeps _ _ _) rfl (.refl _ _))
  · exact (.step (shutdownAs_keeps _ _ _) rfl (.refl _ _))
  · exact (.step (shutdownAs_keeps _ _ _) rfl (.refl _ _))
  · exact (.step (shutdownAs_keeps _ _ _) rfl (.refl _ _))
  · exact (.refl _ _)

theorem refclkFails_keeps (d) : Safety.Keeps [.regs, .glb, .svc, .fab, .ntr, .med, .twn, .pwr, .grt, .obs, .plain, .base] d (refclkFails d) :=
  .noStay (refclkFails_keeps0 d) rfl (by intro hw; simp [refclkFails, hw])

theorem sensorFails_keeps (a0 d) : Safety.Keeps [.regs, .glb, .svc, .fab, .thm, .obs, .plain] d (sensorFails a0 d) := by
  unfold sensorFails
  refine .ite ?_ ?_
  · exact (.refl _ _)
  · extract_lets +onlyGivenNames -underBinder -merge v1
    have h1 : Safety.Keeps [.regs, .glb, .svc, .fab, .thm, .obs, .plain] d v1 := (.step (onThm_keeps _ _) rfl (.refl _ _))
    extract_lets +onlyGivenNames -underBinder -merge v2
    have h2 : Safety.Keeps [.regs, .glb, .svc, .fab, .thm, .obs, .plain] d v2 := (.step (raiseN_keeps _ _ _) rfl (.step (count_keeps _ _) rfl (.step (setF_keeps _ _ _) rfl h1)))
    extract_lets +onlyGivenNames -underBinder -merge v3
    exact (.ite (.step (raiseN_keeps _ _ _) rfl (.step (setB_keeps _ _ _) rfl h2)) h2)

theorem startHold_keeps0 (a0 a1 d) : Safety.Keeps [.regs, .glb, .svc, .fab, .pwr, .thm, .obs, .plain, .base, .tick, .stay] d (startHold a0 a1 d) := by
  unfold startHold
  extract_lets +onlyGivenNames -underBinder -merge v1
  extract_lets +onlyGivenNames -underBinder -merge v2
  refine .ite ?_ ?_
  · exact (.refl _ _)
  · refine .ite ?_ ?_
    · extract_lets +onlyGivenNames -underBinder -merge v3
      extract_lets +onlyGivenNames -underBinder -merge v4
      have h4 : Safety.Keeps [.regs, .glb, .svc, .fab, .pwr, .thm, .obs, .plain, .base, .tick, .stay] d v4 := (.step (onThm_keeps _ _) rfl (.refl _ _))
      exact (.ite h4 (.step (raiseN_keeps _ _ _) rfl h4))
    · exact (.step (step1End_keeps _) rfl (.step (onThm_keeps _ _) rfl (.refl _ _)))

theorem startHold_keeps (a0 a1 d) : Safety.Keeps [.regs, .glb, .svc, .fab, .pwr, .thm, .obs, .plain, .base, .tick] d (startHold a0 a1 d) :=
  .noStay (startHold_keeps0 a0 a1 d) rfl (by intro hw; simp [startHold, hw])

theorem tripActs_keeps0 (d) : Safety.Keeps [.regs, .glb, .svc, .fab, .med, .twn, .pwr, .grt, .obs, .plain, .base, .stay] d (tripActs d) := by
  unfold tripActs
  split
  · exact (.refl _ _)
  · exact (.refl _ _)
  · exact (.step (railsDown_keeps _ _) rfl (.refl _ _))
  · exact (.ite (.step (shutdownAs_keeps _ _ _) rfl (.refl _ _)) (.step (shutdownAs_keeps _ _ _) rfl (.set_twn rfl (.refl _ _))))
  · exact (.step (shutdownAs_keeps _ _ _) rfl (.refl _ _))

theorem tripActs_keeps (d) : Safety.Keeps [.regs, .glb, .svc, .fab, .med, .twn, .pwr, .grt, .obs, .plain, .base] d (tripActs d) :=
  .noStay (tripActs_keeps0 d) rfl (by intro hw; simp only [tripActs, hw]; exact (railsDown_keeps _ _) .stay (by decide) hw)

theorem thermalTrip_keeps (d) : Safety.Keeps [.regs, .glb, .svc, .fab, .med, .twn, .pwr, .grt, .thm, .obs, .plain, .base] d (thermalTrip d) := by
  unfold thermalTrip
  refine .ite ?_ ?_
  · exact (.refl _ _)
  · extract_lets +onlyGivenNames -underBinder -merge v1
    have h1 : Safety.Keeps [.regs, .glb, .svc, .fab, .med, .twn, .pwr, .grt, .thm, .obs, .plain, .base] d v1 := (.step (setB_keeps _ _ _) rfl (.refl _ _))
    extract_lets +onlyGivenNames -underBinder -merge v2
    extract_lets +onlyGivenNames -underBinder -merge v3
    have h3 : Safety.Keeps [.regs, .glb, .svc, .fab, .med, .twn, .pwr, .grt, .thm, .obs, .plain, .base] d v3 := (.ite (.step (raiseLedger_keeps _ _ _) rfl h1) (.step (raiseN_keeps _ _ _) rfl h1))
    extract_lets +onlyGivenNames -underBinder -merge v4
    have h4 : Safety.Keeps [.regs, .glb, .svc, .fab, .med, .twn, .pwr, .grt, .thm, .obs, .plain, .base] d v4 := (.step (ledDetail_keeps _ _ _ _) rfl h3)
    extract_lets +onlyGivenNames -underBinder -merge v5
    exact (.step (tripActs_keeps _) rfl (.ite h4 (.step (onThm_keeps _ _) rfl h4)))

end Sys2Proof.Machine
end

