-- ==== Sys2Proof/Laws/FrameStartup.lean ====
section
/-!
SUPPORT. What each definition of Machine/Startup.lean leaves alone: one lemma per definition, cited and not unfolded.
-/
namespace Sys2Proof.Machine
open Sys2Proof Sys2Proof.Safety.Keeps

theorem showFuses_keeps (d) : Safety.Keeps [.regs, .plain] d (showFuses d) := by
  unfold showFuses
  exact (.step (setF_keeps _ _ _) rfl (.step (setF_keeps _ _ _) rfl (.refl _ _)))

theorem bothRejected_keeps (d) : Safety.Keeps [.regs, .glb, .svc, .fab, .ntr, .med, .twn, .pwr, .grt, .obs, .plain, .base] d (bothRejected d) := by
  unfold bothRejected
  exact (.ite (.step (stepWithdraws_keeps _ _ _) rfl (.refl _ _)) (.refl _ _))

theorem solo_keeps (a0 d) : Safety.Keeps [.regs, .glb, .svc, .sch, .fab, .bsn, .ntr, .med, .slu, .twn, .grt, .obs, .plain] d (solo a0 d) := by
  unfold solo
  exact (.ite (.refl _ _) (.ite (.step (takeover_keeps _ _) rfl (.glb rfl (fun _ => ⟨rfl, rfl⟩) (.refl _ _))) (.step (raiseN_keeps _ _ _) rfl (.refl _ _))))

theorem rst_keeps0 (a0 d) : Safety.Keeps [.regs, .glb, .svc, .sch, .fab, .bsn, .ntr, .med, .xlt, .slu, .twn, .pwr, .grt, .thm, .obs, .spr, .plain, .base, .stay] d (rst a0 d) := by
  unfold rst
  exact (.ite (.step (askWarmReset_keeps _ _) rfl (.refl _ _)) (.refl _ _))

theorem rst_keeps (a0 d) : Safety.Keeps [.regs, .glb, .svc, .sch, .fab, .bsn, .ntr, .med, .xlt, .slu, .twn, .pwr, .grt, .thm, .obs, .spr, .plain, .base] d (rst a0 d) :=
  .noStay (rst_keeps0 a0 d) rfl (by intro hw; simp [rst, hw])

theorem chanTrained_keeps (a0 d) : Safety.Keeps [.regs, .plain] d (chanTrained a0 d) := by
  unfold chanTrained
  extract_lets +onlyGivenNames -underBinder -merge v1
  extract_lets +onlyGivenNames -underBinder -merge v2
  extract_lets +onlyGivenNames -underBinder -merge v3
  extract_lets +onlyGivenNames -underBinder -merge v4
  have h4 : Safety.Keeps [.regs, .plain] d v4 := (.step (setF_keeps _ _ _) rfl (.step (setF_keeps _ _ _) rfl (.refl _ _)))
  exact (.step (setF_keeps _ _ _) rfl (.step (setF_keeps _ _ _) rfl (.step (setF_keeps _ _ _) rfl h4)))

theorem trainCommands_keeps (a0 a1 d) : Safety.Keeps [.regs, .glb, .svc, .fab, .med, .obs] d (trainCommands a0 a1 d) := by
  unfold trainCommands
  extract_lets +onlyGivenNames -underBinder -merge v1
  extract_lets +onlyGivenNames -underBinder -merge v2
  extract_lets +onlyGivenNames -underBinder -merge v3
  extract_lets +onlyGivenNames -underBinder -merge v4
  have h4 : Safety.Keeps [.regs, .glb, .svc, .fab, .med, .obs] d v4 := (.step (countN_keeps _ _ _) rfl (.step (countN_keeps _ _ _) rfl (.step (countN_keeps _ _ _) rfl (.step (countN_keeps _ _ _) rfl (.refl _ _)))))
  exact (.step (onChan_keeps _ _ _) rfl h4)

theorem channelTraining_keeps (a0 a1 a2 d) : Safety.Keeps [.regs, .glb, .svc, .fab, .ntr, .med, .twn, .pwr, .grt, .obs, .plain, .base] d (channelTraining a0 a1 a2 d) := by
  unfold channelTraining
  refine .ite ?_ ?_
  · exact (.refl _ _)
  · extract_lets +onlyGivenNames -underBinder -merge v1
    extract_lets +onlyGivenNames -underBinder -merge v2
    extract_lets +onlyGivenNames -underBinder -merge v3
    have h3 : Safety.Keeps [.regs, .glb, .svc, .fab, .ntr, .med, .twn, .pwr, .grt, .obs, .plain, .base] d v3 := (.step (trainCommands_keeps _ _ _) rfl (.refl _ _))
    refine .ite ?_ ?_
    · exact (.step (chanTrained_keeps _ _) rfl h3)
    · extract_lets +onlyGivenNames -underBinder -merge v4
      have h4 : Safety.Keeps [.regs, .glb, .svc, .fab, .ntr, .med, .twn, .pwr, .grt, .obs, .plain, .base] d v4 := (.step (onChan_keeps _ _ _) rfl (.step (setF_keeps _ _ _) rfl h3))
      exact (.ite (.step (stepWithdraws_keeps _ _ _) rfl (.step (medEvent_keeps _ _ _ _ _ _) rfl (.step (setB_keeps _ _ _) rfl (.step (setF_keeps _ _ _) rfl h4)))) h4)

theorem closeTorn_keeps (a0 d) : Safety.Keeps [.regs, .glb, .svc, .fab, .ntr, .med, .xlt, .slu, .obs, .plain] d (closeTorn a0 d) := by
  unfold closeTorn
  refine .forEach ((.refl _ _)) fun z2 x2 h2 => ?_
  extract_lets +onlyGivenNames -underBinder -merge v3
  exact (.ite h2 (.step (stripeTo_keeps _ _ _ _ _ _) rfl h2))

theorem coldStart_keeps0 (a0 d) : Safety.Keeps [.regs, .glb, .svc, .sch, .fab, .bsn, .ntr, .med, .xlt, .slu, .twn, .pwr, .grt, .thm, .obs, .spr, .plain, .base, .stay] d (coldStart a0 d) := by
  unfold coldStart
  exact (.ite (.step (resetDev_keeps _ _) rfl (.refl _ _)) (.refl _ _))

theorem coldStart_keeps (a0 d) : Safety.Keeps [.regs, .glb, .svc, .sch, .fab, .bsn, .ntr, .med, .xlt, .slu, .twn, .pwr, .grt, .thm, .obs, .spr, .plain, .base] d (coldStart a0 d) :=
  .noStay (coldStart_keeps0 a0 d) rfl (by intro hw; simp [coldStart, hw])

theorem countLeaves_keeps (d) : Safety.Keeps [.med] d (countLeaves d) := by
  unfold countLeaves
  exact (.forEach (.refl _ _) fun _ x1 h1 => (.step (onDie_keeps _ _ _) rfl h1))

theorem defaultOffsets_keeps (d) : Safety.Keeps [.med] d (defaultOffsets d) := by
  unfold defaultOffsets
  exact (.set_med rfl (.refl _ _))

theorem epochScheduleStart_keeps (d) : Safety.Keeps [.regs, .plain] d (epochScheduleStart d) := by
  unfold epochScheduleStart
  exact (.ite (.step (setB_keeps _ _ _) rfl (.refl _ _)) (.refl _ _))

theorem factoryScan_keeps (a0 a1 a2 d) : Safety.Keeps [.regs, .glb, .svc, .fab, .bsn, .ntr, .med, .xlt, .slu, .twn, .pwr, .grt, .obs, .plain, .base] d (factoryScan a0 a1 a2 d) := by
  unfold factoryScan
  extract_lets +onlyGivenNames -underBinder -merge v1
  refine .ite ?_ ?_
  · exact (.refl _ _)
  · extract_lets +onlyGivenNames -underBinder -merge v2
    extract_lets +onlyGivenNames -underBinder -merge v3
    extract_lets +onlyGivenNames -underBinder -merge v4
    extract_lets +onlyGivenNames -underBinder -merge v5
    extract_lets +onlyGivenNames -underBinder -merge v6
    extract_lets +onlyGivenNames -underBinder -merge v7
    extract_lets +onlyGivenNames -underBinder -merge v8
    have h8 : Safety.Keeps [.regs, .glb, .svc, .fab, .bsn, .ntr, .med, .xlt, .slu, .twn, .pwr, .grt, .obs, .plain, .base] d v8 := (.step (onDie_keeps _ _ _) rfl (.refl _ _))
    extract_lets +onlyGivenNames -underBinder -merge v9
    have h9 : Safety.Keeps [.regs, .glb, .svc, .fab, .bsn, .ntr, .med, .xlt, .slu, .twn, .pwr, .grt, .obs, .plain, .base] d v9 := (.step (countN_keeps _ _ _) rfl (.step (countN_keeps _ _ _) rfl h8))
    extract_lets +onlyGivenNames -underBinder -merge v10
    extract_lets +onlyGivenNames -underBinder -merge v11
    have h11 : Safety.Keeps [.regs, .glb, .svc, .fab, .bsn, .ntr, .med, .xlt, .slu, .twn, .pwr, .grt, .obs, .plain, .base] d v11 := (.ite (.step (dieFails_keeps _ _ _ _) rfl h9) h9)
    exact (.step (setB_keeps _ _ _) rfl h11)

theorem rejectCopy_keeps (a0 a1 d) : Safety.Keeps [.regs, .glb, .svc, .fab, .obs, .plain] d (rejectCopy a0 a1 d) := by
  unfold rejectCopy
  exact (.step (raiseN_keeps _ _ _) rfl (.step (setF_keeps _ _ _) rfl (.refl _ _)))

theorem flashTimeout_keeps (a0 d) : Safety.Keeps [.regs, .glb, .svc, .fab, .ntr, .med, .twn, .pwr, .grt, .obs, .plain, .base] d (flashTimeout a0 d) := by
  unfold flashTimeout
  exact (.ite (.refl _ _) (.step (bothRejected_keeps _) rfl (.step (rejectCopy_keeps _ _ _) rfl (.refl _ _))))

theorem fuseRail_keeps (a0 a1 d) : Safety.Keeps [.regs, .plain] d (fuseRail a0 a1 d) := by
  unfold fuseRail
  exact (.step (regSet_keeps _ _ _) rfl (.step (regSet_keeps _ _ _) rfl (.step (regSet_keeps _ _ _) rfl (.refl _ _))))

theorem repairRow_keeps (a0 d) : Safety.Keeps [.grt] d (repairRow a0 d) := by
  unfold repairRow
  exact (.ite (.step (onGrt_keeps _ _) rfl (.refl _ _)) (.refl _ _))

theorem restoreWay_keeps (a0 d) : Safety.Keeps [.regs, .bsn, .plain] d (restoreWay a0 d) := by
  unfold restoreWay
  extract_lets +onlyGivenNames -underBinder -merge v1
  extract_lets +onlyGivenNames -underBinder -merge v2
  have h2 : Safety.Keeps [.regs, .bsn, .plain] d v2 := (.step (sfPut_keeps _ _ _ _) rfl (.refl _ _))
  exact (.ite (.ite h2 (.step (addSat_keeps _ _ _) rfl (.step (sfPut_keeps _ _ _ _) rfl h2))) (.step (setF_keeps _ _ _) rfl (.step (sfPut_keeps _ _ _ _) rfl h2)))

theorem grottoGives_keeps (d) : Safety.Keeps [.regs, .bsn, .grt, .obs, .plain] d (grottoGives d) := by
  unfold grottoGives
  extract_lets +onlyGivenNames -underBinder -merge v1
  have h1 : Safety.Keeps [.regs, .bsn, .grt, .obs, .plain] d v1 := by
      dsimp -zeta -iota -proj only [v1]
      split
      · exact (.refl _ _)
      · exact (.step (setF_keeps _ _ _) rfl (.refl _ _))
  extract_lets +onlyGivenNames -underBinder -merge v4
  have h4 : Safety.Keeps [.regs, .bsn, .grt, .obs, .plain] d v4 := (.step (regSet_keeps _ _ _) rfl (.step (setF_keeps _ _ _) rfl h1))
  extract_lets +onlyGivenNames -underBinder -merge v5
  have h5 : Safety.Keeps [.regs, .bsn, .grt, .obs, .plain] d v5 := (.step (keepPartner_keeps _ _) rfl h4)
  extract_lets +onlyGivenNames -underBinder -merge v6
  have h6 : Safety.Keeps [.regs, .bsn, .grt, .obs, .plain] d v6 := (.forEach (.forEach h5 fun _ x7 h7 => (.step (restoreWay_keeps _ _) rfl h7)) fun _ x8 h8 => (.step (repairRow_keeps _ _) rfl h8))
  exact (.set_obs rfl h6)

theorem toStep_keeps (a0 d) : Safety.Keeps [.regs, .glb, .plain] d (toStep a0 d) := by
  unfold toStep
  exact (.step (setF_keeps _ _ _) rfl (.glb rfl (fun _ => ⟨rfl, rfl⟩) (.refl _ _)))

theorem grottoStep_keeps (d) : Safety.Keeps [.regs, .glb, .svc, .fab, .bsn, .ntr, .med, .twn, .pwr, .grt, .obs, .free, .plain, .base] d (grottoStep d) := by
  unfold grottoStep
  extract_lets +onlyGivenNames -underBinder -merge v1
  extract_lets +onlyGivenNames -underBinder -merge v2
  refine .ite ?_ ?_
  · exact (.refl _ _)
  · extract_lets +onlyGivenNames -underBinder -merge v3
    have h3 : Safety.Keeps [.regs, .glb, .svc, .fab, .bsn, .ntr, .med, .twn, .pwr, .grt, .obs, .free, .plain, .base] d v3 := (.set_free rfl (.refl _ _))
    refine .ite ?_ ?_
    · exact (.step (stepWithdraws_keeps _ _ _) rfl (.step (grottoScan_keeps _ _) rfl h3))
    · extract_lets +onlyGivenNames -underBinder -merge v4
      have h4 : Safety.Keeps [.regs, .glb, .svc, .fab, .bsn, .ntr, .med, .twn, .pwr, .grt, .obs, .free, .plain, .base] d v4 := (.step (grottoRecover_keeps _ _) rfl (.step (grottoScan_keeps _ _) rfl h3))
      extract_lets +onlyGivenNames -underBinder -merge v5
      have h5 : Safety.Keeps [.regs, .glb, .svc, .fab, .bsn, .ntr, .med, .twn, .pwr, .grt, .obs, .free, .plain, .base] d v5 := (.step (grtInc_keeps _ _) rfl h4)
      exact (.step (toStep_keeps _ _) rfl (.step (grottoGives_keeps _) rfl h5))

theorem holdFlushed_keeps (d) : Safety.Keeps [.med] d (holdFlushed d) := by
  unfold holdFlushed
  split
  · exact (.refl _ _)
  · exact (.forEach (.refl _ _) fun _ x3 h3 => (.step (onStripe_keeps _ _ _ _) rfl h3))

theorem loadSections_keeps (a0 a1 d) : Safety.Keeps [.regs, .plain] d (loadSections a0 a1 d) := by
  unfold loadSections
  extract_lets +onlyGivenNames -underBinder -merge v1
  have h1 : Safety.Keeps [.regs, .plain] d v1 := (.step (setF_keeps _ _ _) rfl (.step (setB_keeps _ _ _) rfl (.refl _ _)))
  extract_lets +onlyGivenNames -underBinder -merge v2
  have h2 : Safety.Keeps [.regs, .plain] d v2 := (.forEach h1 fun _ x3 h3 => (.step (setF_keeps _ _ _) rfl h3))
  extract_lets +onlyGivenNames -underBinder -merge v4
  have h4 : Safety.Keeps [.regs, .plain] d v4 := (.step (setF_keeps _ _ _) rfl (.step (setF_keeps _ _ _) rfl (.step (setF_keeps _ _ _) rfl (.step (setF_keeps _ _ _) rfl h2))))
  extract_lets +onlyGivenNames -underBinder -merge v5
  have h5 : Safety.Keeps [.regs, .plain] d v5 := (.step (setF_keeps _ _ _) rfl h4)
  extract_lets +onlyGivenNames -underBinder -merge v6
  have h6 : Safety.Keeps [.regs, .plain] d v6 := (.step (setF_keeps _ _ _) rfl (.step (setF_keeps _ _ _) rfl (.step (setB_keeps _ _ _) rfl h5)))
  extract_lets +onlyGivenNames -underBinder -merge v7
  have h7 : Safety.Keeps [.regs, .plain] d v7 := (.forEach h6 fun _ x8 h8 => (.step (setF_keeps _ _ _) rfl (.step (setF_keeps _ _ _) rfl h8)))
  extract_lets +onlyGivenNames -underBinder -merge v9
  have h9 : Safety.Keeps [.regs, .plain] d v9 := (.step (setF_keeps _ _ _) rfl (.step (setF_keeps _ _ _) rfl h7))
  exact (.forEach h9 fun _ x10 h10 => (.step (setF_keeps _ _ _) rfl h10))

theorem loadThreshold_keeps (a0 d) : Safety.Keeps [.regs, .plain] d (loadThreshold a0 d) := by
  unfold loadThreshold
  split
  · exact (.refl _ _)
  · exact (.step (regSet_keeps _ _ _) rfl (.refl _ _))

theorem loadRouting_keeps (a0 d) : Safety.Keeps [.regs, .obs, .plain] d (loadRouting a0 d) := by
  unfold loadRouting
  extract_lets +onlyGivenNames -underBinder -merge v1
  have h1 : Safety.Keeps [.regs, .obs, .plain] d v1 := (.forEach (.refl _ _) fun _ x2 h2 => (.step (regSet_keeps _ _ _) rfl h2))
  extract_lets +onlyGivenNames -underBinder -merge v3
  have h3 : Safety.Keeps [.regs, .obs, .plain] d v3 := (.forEach h1 fun _ x4 h4 => (.step (setPair_keeps _ _ _ _) rfl h4))
  exact (.set_obs rfl h3)

theorem loadRegion_keeps (a0 a1 d) : Safety.Keeps [.regs, .plain] d (loadRegion a0 a1 d) := by
  unfold loadRegion
  extract_lets +onlyGivenNames -underBinder -merge v1
  have h1 : Safety.Keeps [.regs, .plain] d v1 := (.step (setB_keeps _ _ _) rfl (.step (setB_keeps _ _ _) rfl (.refl _ _)))
  extract_lets +onlyGivenNames -underBinder -merge v2
  have h2 : Safety.Keeps [.regs, .plain] d v2 := (.step (setF_keeps _ _ _) rfl (.step (setF_keeps _ _ _) rfl h1))
  extract_lets +onlyGivenNames -underBinder -merge v3
  have h3 : Safety.Keeps [.regs, .plain] d v3 := (.step (setF_keeps _ _ _) rfl (.step (setF_keeps _ _ _) rfl h2))
  exact (.step (setPair_keeps _ _ _ _) rfl h3)

theorem loadImage_keeps (a0 a1 a2 d) : Safety.Keeps [.regs, .glb, .svc, .fab, .slu, .grt, .obs, .plain] d (loadImage a0 a1 a2 d) := by
  unfold loadImage
  extract_lets +onlyGivenNames -underBinder -merge v1
  have h1 : Safety.Keeps [.regs, .glb, .svc, .fab, .slu, .grt, .obs, .plain] d v1 := (.step (setF_keeps _ _ _) rfl (.step (setF_keeps _ _ _) rfl (.step (setF_keeps _ _ _) rfl (.refl _ _))))
  extract_lets +onlyGivenNames -underBinder -merge v2
  have h2 : Safety.Keeps [.regs, .glb, .svc, .fab, .slu, .grt, .obs, .plain] d v2 := (.step (setF_keeps _ _ _) rfl (.step (setF_keeps _ _ _) rfl (.step (setF_keeps _ _ _) rfl h1)))
  extract_lets +onlyGivenNames -underBinder -merge v3
  have h3 : Safety.Keeps [.regs, .glb, .svc, .fab, .slu, .grt, .obs, .plain] d v3 := (.step (setPair_keeps _ _ _ _) rfl (.glb rfl (fun _ => ⟨rfl, rfl⟩) h2))
  extract_lets +onlyGivenNames -underBinder -merge v4
  have h4 : Safety.Keeps [.regs, .glb, .svc, .fab, .slu, .grt, .obs, .plain] d v4 := (.step (loadSections_keeps _ _ _) rfl (.forEach h3 fun _ x5 h5 => (.step (loadThreshold_keeps _ _) rfl h5)))
  extract_lets +onlyGivenNames -underBinder -merge v6
  have h6 : Safety.Keeps [.regs, .glb, .svc, .fab, .slu, .grt, .obs, .plain] d v6 := (.step (loadRouting_keeps _ _) rfl (.forEach h4 fun _ x7 h7 => (.step (loadRegion_keeps _ _ _) rfl h7)))
  extract_lets +onlyGivenNames -underBinder -merge v8
  have h8 : Safety.Keeps [.regs, .glb, .svc, .fab, .slu, .grt, .obs, .plain] d v8 := (.ite (.step (showProtect_keeps _) rfl (.step (onGrt_keeps _ _) rfl h6)) h6)
  extract_lets +onlyGivenNames -underBinder -merge v9
  have h9 : Safety.Keeps [.regs, .glb, .svc, .fab, .slu, .grt, .obs, .plain] d v9 := (.forEach h8 fun _ x10 h10 => (.ite (.step (drawKey_keeps _ _) rfl h10) h10))
  exact (.step (toStep_keeps _ _) rfl h9)

theorem tryCopy_keeps (a0 a1 d) : Safety.Keeps [.regs, .glb, .svc, .fab, .slu, .grt, .obs, .plain] d (tryCopy a0 a1 d) := by
  unfold tryCopy
  extract_lets +onlyGivenNames -underBinder -merge v1
  split
  · exact (.step (rejectCopy_keeps _ _ _) rfl (.refl _ _))
  · exact (.ite (.refl _ _) (.step (loadImage_keeps _ _ _ _) rfl (.refl _ _)))

theorem imageVerify_keeps (a0 d) : Safety.Keeps [.regs, .glb, .svc, .fab, .ntr, .med, .slu, .twn, .pwr, .grt, .obs, .plain, .base] d (imageVerify a0 d) := by
  unfold imageVerify
  refine .ite ?_ ?_
  · exact (.refl _ _)
  · refine .ite ?_ ?_
    · exact (.step (bothRejected_keeps _) rfl (.step (rejectCopy_keeps _ _ _) rfl (.step (rejectCopy_keeps _ _ _) rfl (.refl _ _))))
    · extract_lets +onlyGivenNames -underBinder -merge v1
      have h1 : Safety.Keeps [.regs, .glb, .svc, .fab, .ntr, .med, .slu, .twn, .pwr, .grt, .obs, .plain, .base] d v1 := (.ite (.step (tryCopy_keeps _ _ _) rfl (.refl _ _)) (.refl _ _))
      extract_lets +onlyGivenNames -underBinder -merge v2
      have h2 : Safety.Keeps [.regs, .glb, .svc, .fab, .ntr, .med, .slu, .twn, .pwr, .grt, .obs, .plain, .base] d v2 := (.ite (.step (tryCopy_keeps _ _ _) rfl h1) h1)
      exact (.step (bothRejected_keeps _) rfl h2)

theorem keyUnwrap_keeps (a0 a1 a2 d) : Safety.Keeps [.regs, .glb, .svc, .fab, .ntr, .med, .slu, .twn, .pwr, .grt, .obs, .plain, .base] d (keyUnwrap a0 a1 a2 d) := by
  unfold keyUnwrap
  refine .ite ?_ ?_
  · exact (.refl _ _)
  · refine .ite ?_ ?_
    · exact (.step (stepWithdraws_keeps _ _ _) rfl (.refl _ _))
    · extract_lets +onlyGivenNames -underBinder -merge v1
      have h1 : Safety.Keeps [.regs, .glb, .svc, .fab, .ntr, .med, .slu, .twn, .pwr, .grt, .obs, .plain, .base] d v1 := (.step (showFuses_keeps _) rfl (.glb rfl (fun _ => ⟨rfl, rfl⟩) (.refl _ _)))
      extract_lets +onlyGivenNames -underBinder -merge v2
      have h2 : Safety.Keeps [.regs, .glb, .svc, .fab, .ntr, .med, .slu, .twn, .pwr, .grt, .obs, .plain, .base] d v2 := (.step (setPair_keeps _ _ _ _) rfl h1)
      refine .ite ?_ ?_
      · exact (.step (toStep_keeps _ _) rfl (.ite h2 (.step (entropyFails_keeps _) rfl h2)))
      · extract_lets +onlyGivenNames -underBinder -merge v3
        have h3 : Safety.Keeps [.regs, .glb, .svc, .fab, .ntr, .med, .slu, .twn, .pwr, .grt, .obs, .plain, .base] d v3 := (.step (setB_keeps _ _ _) rfl h2)
        exact (.step (toStep_keeps _ _) rfl (.ite (.step (drawKey_keeps _ _) rfl h3) h3))

theorem loadCheckpoint_keeps (a0 d) : Safety.Keeps [.med, .xlt] d (loadCheckpoint a0 d) := by
  unfold loadCheckpoint
  extract_lets +onlyGivenNames -underBinder -merge v1
  extract_lets +onlyGivenNames -underBinder -merge v2
  have h2 : Safety.Keeps [.med, .xlt] d v2 := (.step (onXlt_keeps _ _) rfl (.refl _ _))
  extract_lets +onlyGivenNames -underBinder -merge v3
  have h3 : Safety.Keeps [.med, .xlt] d v3 := (.forEach h2 fun _ x4 h4 => (.step (onDie_keeps _ _ _) rfl h4))
  extract_lets +onlyGivenNames -underBinder -merge v5
  exact (.step (onXlt_keeps _ _) rfl h3)

theorem loadRunnel_keeps (a0 a1 d) : Safety.Keeps [.regs, .sch, .plain] d (loadRunnel a0 a1 d) := by
  unfold loadRunnel
  extract_lets +onlyGivenNames -underBinder -merge v1
  extract_lets +onlyGivenNames -underBinder -merge v2
  have h2 : Safety.Keeps [.regs, .sch, .plain] d v2 := (.step (setF_keeps _ _ _) rfl (.step (setF_keeps _ _ _) rfl (.step (setB_keeps _ _ _) rfl (.refl _ _))))
  exact (.step (onRunnel_keeps _ _ _) rfl h2)

theorem replayRecord_keeps (a0 a1 d) : Safety.Keeps [.med, .xlt] d (replayRecord a0 a1 d) := by
  unfold replayRecord
  split
  · extract_lets +onlyGivenNames -underBinder -merge v3
    refine .ite ?_ ?_
    · exact (.step (applyRecord_keeps _ _ _ _) rfl (.refl _ _))
    · split
      · exact (.refl _ _)
      · exact (.step (moveValid_keeps _ _ _ _ _) rfl (.refl _ _))
  · exact (.step (applyRecord_keeps _ _ _ _) rfl (.refl _ _))

theorem rebuildChannel_keeps (a0 a1 a2 d) : Safety.Keeps [.regs, .glb, .svc, .fab, .med, .xlt, .twn, .obs, .plain] d (rebuildChannel a0 a1 a2 d) := by
  unfold rebuildChannel
  extract_lets +onlyGivenNames -underBinder -merge v1
  refine .ite ?_ ?_
  · exact (.step (raiseN_keeps _ _ _) rfl (.step (setB_keeps _ _ _) rfl (.step (onTwn_keeps _ _) rfl (.refl _ _))))
  · extract_lets +onlyGivenNames -underBinder -merge v2
    extract_lets +onlyGivenNames -underBinder -merge v3
    have h3 : Safety.Keeps [.regs, .glb, .svc, .fab, .med, .xlt, .twn, .obs, .plain] d v3 := (.forEach (.step (loadCheckpoint_keeps _ _) rfl (.refl _ _)) fun _ x4 h4 => (.step (replayRecord_keeps _ _ _) rfl h4))
    extract_lets +onlyGivenNames -underBinder -merge v5
    have h5 : Safety.Keeps [.regs, .glb, .svc, .fab, .med, .xlt, .twn, .obs, .plain] d v5 := (.step (onJournal_keeps _ _ _) rfl h3)
    exact (.ite (.step (raiseN_keeps _ _ _) rfl (.step (setB_keeps _ _ _) rfl h5)) h5)

theorem reload_keeps (a0 d) : Safety.Keeps [.ntr, .xlt] d (reload a0 d) := by
  have h : Safety.Keeps [.ntr, .xlt] d ((allocFrame a0.1 d).getD d) := by
    cases he : allocFrame a0.1 d with
    | none => exact .refl _ _
    | some x => exact .step (allocFrame_keeps _ _ he) rfl (.refl _ _)
  unfold reload
  exact .step (onXlt_keeps _ _) rfl (.forEach h fun _ x hx => .step (putLine_keeps _ _ _) rfl hx)

theorem reloadNodes_keeps (d) : Safety.Keeps [.slu] d (reloadNodes d) := by
  unfold reloadNodes
  extract_lets +onlyGivenNames -underBinder -merge v1
  extract_lets +onlyGivenNames -underBinder -merge v2
  refine .forEach ((.refl _ _)) fun z4 x4 h4 => ?_
  split
  · exact h4
  · exact (.step (onSlu_keeps _ _) rfl h4)

theorem openFlush_keeps (a0 d) : Safety.Keeps [.regs, .glb, .svc, .fab, .ntr, .med, .xlt, .slu, .obs, .plain] d (openFlush a0 d) := by
  unfold openFlush
  refine .ite ?_ ?_
  · exact (.refl _ _)
  · split
    · exact (.refl _ _)
    · extract_lets +onlyGivenNames -underBinder -merge v3
      extract_lets +onlyGivenNames -underBinder -merge v4
      have h4 : Safety.Keeps [.regs, .glb, .svc, .fab, .ntr, .med, .xlt, .slu, .obs, .plain] d v4 := (.step (onDie_keeps _ _ _) rfl (.step (stripeTo_keeps _ _ _ _ _ _) rfl (.refl _ _)))
      exact (.step (onStripe_keeps _ _ _ _) rfl h4)

theorem mapRebuild_keeps0 (a0 a1 d) : Safety.Keeps [.regs, .glb, .svc, .fab, .bsn, .ntr, .med, .xlt, .slu, .twn, .obs, .spr, .plain, .base, .stay] d (mapRebuild a0 a1 d) := by
  unfold mapRebuild
  refine .ite ?_ ?_
  · exact (.refl _ _)
  · extract_lets +onlyGivenNames -underBinder -merge v1
    have h1 : Safety.Keeps [.regs, .glb, .svc, .fab, .bsn, .ntr, .med, .xlt, .slu, .twn, .obs, .spr, .plain, .base, .stay] d v1 := (.forEach (.refl _ _) fun _ x2 h2 => (.step (rebuildChannel_keeps _ _ _ _) rfl h2))
    extract_lets +onlyGivenNames -underBinder -merge v3
    have h3 : Safety.Keeps [.regs, .glb, .svc, .fab, .bsn, .ntr, .med, .xlt, .slu, .twn, .obs, .spr, .plain, .base, .stay] d v3 := (.step (raiseN_keeps _ _ _) rfl (.step (countLeaves_keeps _) rfl (.forEach (.step (reloadNodes_keeps _) rfl (.step (holdFlushed_keeps _) rfl h1)) fun _ x4 h4 => (.step (reload_keeps _ _) rfl h4))))
    extract_lets +onlyGivenNames -underBinder -merge v5
    have h5 : Safety.Keeps [.regs, .glb, .svc, .fab, .bsn, .ntr, .med, .xlt, .slu, .twn, .obs, .spr, .plain, .base, .stay] d v5 := (.ite (.forEach h3 fun _ x6 h6 => (.step (openFlush_keeps _ _) rfl (.step (closeTorn_keeps _ _) rfl h6))) h1)
    extract_lets +onlyGivenNames -underBinder -merge v7
    have h7 : Safety.Keeps [.regs, .glb, .svc, .fab, .bsn, .ntr, .med, .xlt, .slu, .twn, .obs, .spr, .plain, .base, .stay] d v7 := (.step (dryArm_keeps _) rfl (.step (onXlt_keeps _ _) rfl h5))
    exact (.step (hsBegin_keeps _) rfl (.step (trainAll_keeps _) rfl (.step (toStep_keeps _ _) rfl (.glbB rfl (fun _ => rfl) h7))))

theorem mapRebuild_keeps (a0 a1 d) : Safety.Keeps [.regs, .glb, .svc, .fab, .bsn, .ntr, .med, .xlt, .slu, .twn, .obs, .spr, .plain, .base] d (mapRebuild a0 a1 d) :=
  .noStay (mapRebuild_keeps0 a0 a1 d) rfl (by intro hw; simp [mapRebuild, hw])

theorem restoreRow_keeps (a0 d) : Safety.Keeps [.regs, .glb, .svc, .fab, .bsn, .ntr, .med, .xlt, .slu, .twn, .pwr, .grt, .obs, .plain, .base] d (restoreRow a0 d) := by
  unfold restoreRow
  split
  · exact (.step (channelFail_keeps _ _) rfl (.refl _ _))
  · exact (.step (enterRemap_keeps _ _ _ _) rfl (.step (framesOut_keeps _ _) rfl (.refl _ _)))

theorem nearTierUp_keeps (a0 d) : Safety.Keeps [.regs, .glb, .svc, .fab, .bsn, .ntr, .med, .xlt, .slu, .twn, .pwr, .grt, .obs, .plain, .base] d (nearTierUp a0 d) := by
  unfold nearTierUp
  extract_lets +onlyGivenNames -underBinder -merge v1
  extract_lets +onlyGivenNames -underBinder -merge v2
  extract_lets +onlyGivenNames -underBinder -merge v3
  have h3 : Safety.Keeps [.regs, .glb, .svc, .fab, .bsn, .ntr, .med, .xlt, .slu, .twn, .pwr, .grt, .obs, .plain, .base] d v3 := (.step (onNtr_keeps _ _) rfl (.refl _ _))
  extract_lets +onlyGivenNames -underBinder -merge v4
  have h4 : Safety.Keeps [.regs, .glb, .svc, .fab, .bsn, .ntr, .med, .xlt, .slu, .twn, .pwr, .grt, .obs, .plain, .base] d v4 := (.forEach (.forEach h3 fun _ x5 h5 => (.step (setF_keeps _ _ _) rfl h5)) fun _ x6 h6 => (.step (setF_keeps _ _ _) rfl h6))
  exact (.forEach h4 fun _ x7 h7 => (.ite h7 (.step (channelFail_keeps _ _) rfl (.step (raiseN_keeps _ _ _) rfl h7))))

theorem recoverBlock_keeps (a0 d) : Safety.Keeps [.regs, .glb, .svc, .fab, .bsn, .ntr, .med, .xlt, .slu, .twn, .pwr, .grt, .obs, .plain, .base] d (recoverBlock a0 d) := by
  unfold recoverBlock
  extract_lets +onlyGivenNames -underBinder -merge v1
  extract_lets +onlyGivenNames -underBinder -merge v2
  extract_lets +onlyGivenNames -underBinder -merge v3
  extract_lets +onlyGivenNames -underBinder -merge v4
  extract_lets +onlyGivenNames -underBinder -merge v5
  extract_lets +onlyGivenNames -underBinder -merge v6
  have h6 : Safety.Keeps [.regs, .glb, .svc, .fab, .bsn, .ntr, .med, .xlt, .slu, .twn, .pwr, .grt, .obs, .plain, .base] d v6 := (.whenD (.refl _ _) fun x7 h7 => (.step (count_keeps _ _) rfl h7))
  refine .ite ?_ ?_
  · exact (.step (dieFails_keeps _ _ _ _) rfl h6)
  · refine .ite ?_ ?_
    · extract_lets +onlyGivenNames -underBinder -merge v8
      have h8 : Safety.Keeps [.regs, .glb, .svc, .fab, .bsn, .ntr, .med, .xlt, .slu, .twn, .pwr, .grt, .obs, .plain, .base] d v8 := (.step (onDie_keeps _ _ _) rfl h6)
      exact (.ite h8 (.step (medEvent_keeps _ _ _ _ _ _) rfl h8))
    · extract_lets +onlyGivenNames -underBinder -merge v9
      have h9 : Safety.Keeps [.regs, .glb, .svc, .fab, .bsn, .ntr, .med, .xlt, .slu, .twn, .pwr, .grt, .obs, .plain, .base] d v9 := (.step (onDie_keeps _ _ _) rfl h6)
      extract_lets +onlyGivenNames -underBinder -merge v10
      extract_lets +onlyGivenNames -underBinder -merge v11
      have h11 : Safety.Keeps [.regs, .glb, .svc, .fab, .bsn, .ntr, .med, .xlt, .slu, .twn, .pwr, .grt, .obs, .plain, .base] d v11 := (.ite (.whenD h9 fun x12 h12 => (.step (count_keeps _ _) rfl h12)) h9)
      extract_lets +onlyGivenNames -underBinder -merge v13
      refine .ite ?_ ?_
      · exact (.step (onDie_keeps _ _ _) rfl h11)
      · extract_lets +onlyGivenNames -underBinder -merge v14
        have h14 : Safety.Keeps [.regs, .glb, .svc, .fab, .bsn, .ntr, .med, .xlt, .slu, .twn, .pwr, .grt, .obs, .plain, .base] d v14 := (.step (medEvent_keeps _ _ _ _ _ _) rfl h11)
        split
        · exact h14
        · exact (.ite (.step (onStripe_keeps _ _ _ _) rfl h14) h14)

theorem topImageLoad_keeps (a0 d) : Safety.Keeps [.regs, .glb, .svc, .fab, .xlt, .twn, .grt, .obs, .free, .plain] d (topImageLoad a0 d) := by
  unfold topImageLoad
  extract_lets +onlyGivenNames -underBinder -merge v1
  extract_lets +onlyGivenNames -underBinder -merge v2
  extract_lets +onlyGivenNames -underBinder -merge v3
  extract_lets +onlyGivenNames -underBinder -merge v4
  have h4 : Safety.Keeps [.regs, .glb, .svc, .fab, .xlt, .twn, .grt, .obs, .free, .plain] d v4 := (.step (onGrt_keeps _ _) rfl (.refl _ _))
  extract_lets +onlyGivenNames -underBinder -merge v5
  extract_lets +onlyGivenNames -underBinder -merge v6
  have h6 : Safety.Keeps [.regs, .glb, .svc, .fab, .xlt, .twn, .grt, .obs, .free, .plain] d v6 := (.step (raiseN_keeps _ _ _) rfl (.step (setB_keeps _ _ _) rfl (.step (drawFree_keeps _) rfl h4)))
  extract_lets +onlyGivenNames -underBinder -merge v7
  have h7 : Safety.Keeps [.regs, .glb, .svc, .fab, .xlt, .twn, .grt, .obs, .free, .plain] d v7 := (.step (setF_keeps _ _ _) rfl (.step (setF_keeps _ _ _) rfl h6))
  extract_lets +onlyGivenNames -underBinder -merge v8
  have h8 : Safety.Keeps [.regs, .glb, .svc, .fab, .xlt, .twn, .grt, .obs, .free, .plain] d v8 := (.ite (.step (onGrt_keeps _ _) rfl (.step (onXlt_keeps _ _) rfl h7)) h4)
  extract_lets +onlyGivenNames -underBinder -merge v9
  have h9 : Safety.Keeps [.regs, .glb, .svc, .fab, .xlt, .twn, .grt, .obs, .free, .plain] d v9 := by
      dsimp -zeta -iota -proj only [v9]
      clear_value v2
      split
      · exact (.step (setF_keeps _ _ _) rfl (.step (setCursor_keeps _ _) rfl (.step (regSet_keeps _ _ _) rfl h8)))
      · exact h8
  exact (.ite (.step (onTwn_keeps _ _) rfl h9) h9)

theorem mediaRecovery_keeps (a0 a1 a2 d) : Safety.Keeps [.regs, .glb, .svc, .fab, .bsn, .ntr, .med, .xlt, .slu, .twn, .pwr, .grt, .obs, .free, .plain, .base] d (mediaRecovery a0 a1 a2 d) := by
  unfold mediaRecovery
  refine .ite ?_ ?_
  · exact (.refl _ _)
  · extract_lets +onlyGivenNames -underBinder -merge v1
    have h1 : Safety.Keeps [.regs, .glb, .svc, .fab, .bsn, .ntr, .med, .xlt, .slu, .twn, .pwr, .grt, .obs, .free, .plain, .base] d v1 := (.forEach (.step (nearTierUp_keeps _ _) rfl (.step (setB_keeps _ _ _) rfl (.refl _ _))) fun _ x2 h2 => (.step (restoreRow_keeps _ _) rfl h2))
    refine .ite ?_ ?_
    · exact (.step (stepFails_keeps _ _ _) rfl h1)
    · extract_lets +onlyGivenNames -underBinder -merge v3
      have h3 : Safety.Keeps [.regs, .glb, .svc, .fab, .bsn, .ntr, .med, .xlt, .slu, .twn, .pwr, .grt, .obs, .free, .plain, .base] d v3 := (.forEach (.step (topImageLoad_keeps _ _) rfl h1) fun _ x4 h4 => (.step (recoverBlock_keeps _ _) rfl h4))
      extract_lets +onlyGivenNames -underBinder -merge v5
      extract_lets +onlyGivenNames -underBinder -merge v6
      extract_lets +onlyGivenNames -underBinder -merge v7
      have h7 : Safety.Keeps [.regs, .glb, .svc, .fab, .bsn, .ntr, .med, .xlt, .slu, .twn, .pwr, .grt, .obs, .free, .plain, .base] d v7 := (.step (setPair_keeps _ _ _ _) rfl (.set_med rfl h3))
      exact (.ite (.step (toStep_keeps _ _) rfl h7) h7)

theorem pairingComplete_keeps (d) : Safety.Keeps [.glb] d (pairingComplete d) := by
  unfold pairingComplete
  extract_lets +onlyGivenNames -underBinder -merge v1
  exact (.ite (.glb rfl (fun _ => ⟨rfl, rfl⟩) (.refl _ _)) (.refl _ _))

theorem powerRemoved_keeps (d) : Safety.Keeps [.regs, .glb, .svc, .sch, .fab, .bsn, .ntr, .med, .xlt, .slu, .twn, .pwr, .grt, .thm, .obs, .spr, .plain, .base, .stay] d (powerRemoved d) := by
  unfold powerRemoved
  exact (.glbB rfl (fun _ => rfl) (.step (resetDev_keeps _ _) rfl (.refl _ _)))

theorem resetNHigh_keeps (d) : Safety.Keeps [.regs, .glb, .plain, .base, .stay] d (resetNHigh d) := by
  unfold resetNHigh
  extract_lets +onlyGivenNames -underBinder -merge v1
  have h1 : Safety.Keeps [.regs, .glb, .plain, .base, .stay] d v1 := (.glb rfl (fun _ => ⟨rfl, rfl⟩) (.refl _ _))
  exact (.ite (.step (beginStep2_keeps _) rfl h1) h1)

theorem resetNLow_keeps (a0 d) : Safety.Keeps [.regs, .glb, .svc, .sch, .fab, .bsn, .ntr, .med, .xlt, .slu, .twn, .pwr, .grt, .thm, .obs, .spr, .plain, .base, .stay] d (resetNLow a0 d) := by
  unfold resetNLow
  refine .ite ?_ ?_
  · exact (.refl _ _)
  · extract_lets +onlyGivenNames -underBinder -merge v1
    have h1 : Safety.Keeps [.regs, .glb, .svc, .sch, .fab, .bsn, .ntr, .med, .xlt, .slu, .twn, .pwr, .grt, .thm, .obs, .spr, .plain, .base, .stay] d v1 := (.glb rfl (fun _ => ⟨rfl, rfl⟩) (.refl _ _))
    exact (.ite (.glbB rfl (fun _ => rfl) h1) (.step (askWarmReset_keeps _ _) rfl h1))

theorem restoreOffsets_keeps (d) : Safety.Keeps [.med] d (restoreOffsets d) := by
  unfold restoreOffsets
  exact (.forEach (.refl _ _) fun _ x1 h1 => (.step (onDie_keeps _ _ _) rfl h1))

theorem routingLoads_keeps (d) : Safety.Keeps [.regs, .glb, .svc, .fab, .obs, .plain] d (routingLoads d) := by
  unfold routingLoads
  extract_lets +onlyGivenNames -underBinder -merge v1
  extract_lets +onlyGivenNames -underBinder -merge v2
  have h2 : Safety.Keeps [.regs, .glb, .svc, .fab, .obs, .plain] d v2 := (.glb rfl (fun _ => ⟨rfl, rfl⟩) (.refl _ _))
  exact (.step (gaugesUpdate_keeps _) rfl (.forEach h2 fun _ x3 h3 => (.step (routeEvt_keeps _ _ _ _) rfl h3)))

theorem runnelLoad_keeps0 (d) : Safety.Keeps [.regs, .glb, .svc, .sch, .fab, .ntr, .med, .twn, .pwr, .grt, .obs, .free, .plain, .base, .tick, .stay] d (runnelLoad d) := by
  unfold runnelLoad
  refine .ite ?_ ?_
  · exact (.refl _ _)
  · extract_lets +onlyGivenNames -underBinder -merge v1
    refine .ite ?_ ?_
    · exact (.step (stepWithdraws_keeps _ _ _) rfl (.refl _ _))
    · extract_lets +onlyGivenNames -underBinder -merge v2
      have h2 : Safety.Keeps [.regs, .glb, .svc, .sch, .fab, .ntr, .med, .twn, .pwr, .grt, .obs, .free, .plain, .base, .tick, .stay] d v2 := (.forEach (.refl _ _) fun _ x3 h3 => (.step (loadRunnel_keeps _ _ _) rfl h3))
      extract_lets +onlyGivenNames -underBinder -merge v4
      have h4 : Safety.Keeps [.regs, .glb, .svc, .sch, .fab, .ntr, .med, .twn, .pwr, .grt, .obs, .free, .plain, .base, .tick, .stay] d v4 := (.step (setB_keeps _ _ _) rfl (.step (showRetired_keeps _) rfl (.step (setF_keeps _ _ _) rfl h2)))
      extract_lets +onlyGivenNames -underBinder -merge v5
      have h5 : Safety.Keeps [.regs, .glb, .svc, .sch, .fab, .ntr, .med, .twn, .pwr, .grt, .obs, .free, .plain, .base, .tick, .stay] d v5 := (.step (routingLoads_keeps _) rfl (.step (raiseFree_keeps _ _) rfl h4))
      exact (.step (bankStart_keeps _) rfl (.step (bringUp_keeps _) rfl (.step (toStep_keeps _ _) rfl (.glbB rfl (fun _ => rfl) h5))))

theorem runnelLoad_keeps (d) : Safety.Keeps [.regs, .glb, .svc, .sch, .fab, .ntr, .med, .twn, .pwr, .grt, .obs, .free, .plain, .base, .tick] d (runnelLoad d) :=
  .noStay (runnelLoad_keeps0 d) rfl (by intro hw; simp [runnelLoad, loadingAt, hw])

theorem sequencing_keeps (a0 a1 d) : Safety.Keeps [.regs, .glb, .pwr, .plain, .base, .tick] d (sequencing a0 a1 d) := by
  unfold sequencing
  refine .ite ?_ ?_
  · exact (.refl _ _)
  · extract_lets +onlyGivenNames -underBinder -merge v1
    have h1 : Safety.Keeps [.regs, .glb, .pwr, .plain, .base, .tick] d v1 := (.step (setB_keeps _ _ _) rfl (.glb rfl (fun _ => ⟨rfl, rfl⟩) (.refl _ _)))
    exact (.step (bringUp_keeps _) rfl (.forEach h1 fun _ x2 h2 => (.step (fuseRail_keeps _ _ _) rfl h2)))

theorem servingStart_keeps0 (d) : Safety.Keeps [.regs, .glb, .svc, .sch, .fab, .med, .obs, .plain, .base, .stay] d (servingStart d) := by
  unfold servingStart
  extract_lets +onlyGivenNames -underBinder -merge v1
  refine .ite ?_ ?_
  · exact (.refl _ _)
  · extract_lets +onlyGivenNames -underBinder -merge v2
    extract_lets +onlyGivenNames -underBinder -merge v3
    have h3 : Safety.Keeps [.regs, .glb, .svc, .sch, .fab, .med, .obs, .plain, .base, .stay] d v3 := (.ite (.step (setF_keeps _ _ _) rfl (.step (defaultOffsets_keeps _) rfl (.refl _ _))) (.step (restoreOffsets_keeps _) rfl (.refl _ _)))
    extract_lets +onlyGivenNames -underBinder -merge v4
    extract_lets +onlyGivenNames -underBinder -merge v5
    have h5 : Safety.Keeps [.regs, .glb, .svc, .sch, .fab, .med, .obs, .plain, .base, .stay] d v5 := (.glbB rfl (fun _ => rfl) h3)
    extract_lets +onlyGivenNames -underBinder -merge v6
    have h6 : Safety.Keeps [.regs, .glb, .svc, .sch, .fab, .med, .obs, .plain, .base, .stay] d v6 := (.step (levelApplies_keeps _) rfl (.step (setF_keeps _ _ _) rfl (.step (setB_keeps _ _ _) rfl (.step (setF_keeps _ _ _) rfl h5))))
    exact (.step (raiseN_keeps _ _ _) rfl (.step (setB_keeps _ _ _) rfl h6))

theorem servingStart_keeps (d) : Safety.Keeps [.regs, .glb, .svc, .sch, .fab, .med, .obs, .plain, .base] d (servingStart d) :=
  .noStay (servingStart_keeps0 d) rfl (by intro hw; simp [servingStart, hw])

theorem stepTimeout_keeps (d) : Safety.Keeps [.regs, .glb, .svc, .fab, .ntr, .med, .twn, .pwr, .grt, .obs, .plain, .base] d (stepTimeout d) := by
  unfold stepTimeout
  split
  · exact (.refl _ _)
  · exact (.ite (.step (stepWithdraws_keeps _ _ _) rfl (.refl _ _)) (.refl _ _))

theorem tadpoleEnd_keeps (d) : Safety.Keeps [.regs, .glb, .svc, .fab, .obs] d (tadpoleEnd d) := by
  unfold tadpoleEnd
  exact (.ite (.step (raiseN_keeps _ _ _) rfl (.glb rfl (fun _ => ⟨rfl, rfl⟩) (.refl _ _))) (.refl _ _))

theorem tadpoleTimeout_keeps (d) : Safety.Keeps [.regs, .glb, .svc, .fab, .obs] d (tadpoleTimeout d) := by
  unfold tadpoleTimeout
  exact (.ite (.step (raiseN_keeps _ _ _) rfl (.glb rfl (fun _ => ⟨rfl, rfl⟩) (.refl _ _))) (.refl _ _))

end Sys2Proof.Machine
end

