-- ==== Sys2Proof/Laws/FrameTime.lean ====
section
/-!
SUPPORT. What each definition of Machine/Time.lean leaves alone: one lemma per definition, cited and not unfolded.
-/
namespace Sys2Proof.Machine
open Sys2Proof Sys2Proof.Safety.Keeps

theorem ageTick_keeps (d) : Safety.Keeps [.regs, .glb, .grt, .plain] d (ageTick d) := by
  unfold ageTick
  refine .ite ?_ ?_
  · exact (.refl _ _)
  · extract_lets +onlyGivenNames -underBinder -merge v1
    have h1 : Safety.Keeps [.regs, .glb, .grt, .plain] d v1 := (.step (setF_keeps _ _ _) rfl (.refl _ _))
    extract_lets +onlyGivenNames -underBinder -merge v2
    extract_lets +onlyGivenNames -underBinder -merge v3
    have h3 : Safety.Keeps [.regs, .glb, .grt, .plain] d v3 := (.ite (.step (saveOffsets_keeps _) rfl h1) h1)
    exact (.ite (.glb rfl (fun _ => ⟨rfl, rfl⟩) h3) h3)

theorem blowFuse_keeps (a0 a1 d) : Safety.Keeps [.regs, .glb, .svc, .fab, .obs, .plain] d (blowFuse a0 a1 d) := by
  unfold blowFuse
  refine .ite ?_ ?_
  · exact (.refl _ _)
  · extract_lets +onlyGivenNames -underBinder -merge v1
    extract_lets +onlyGivenNames -underBinder -merge v2
    extract_lets +onlyGivenNames -underBinder -merge v3
    have h3 : Safety.Keeps [.regs, .glb, .svc, .fab, .obs, .plain] d v3 := (.glb rfl (fun _ => ⟨rfl, rfl⟩) (.refl _ _))
    exact (.step (raiseN_keeps _ _ _) rfl (.step (showFuses_keeps _) rfl h3))

theorem antiRollback_keeps (a0 d) : Safety.Keeps [.regs, .glb, .svc, .fab, .grt, .obs, .plain] d (antiRollback a0 d) := by
  unfold antiRollback
  refine .ite ?_ ?_
  · exact (.refl _ _)
  · extract_lets +onlyGivenNames -underBinder -merge v1
    extract_lets +onlyGivenNames -underBinder -merge v2
    extract_lets +onlyGivenNames -underBinder -merge v3
    have h3 : Safety.Keeps [.regs, .glb, .svc, .fab, .grt, .obs, .plain] d v3 := (.ite (.step (grtSetCtr_keeps _ _ _) rfl (.refl _ _)) (.refl _ _))
    extract_lets +onlyGivenNames -underBinder -merge v4
    have h4 : Safety.Keeps [.regs, .glb, .svc, .fab, .grt, .obs, .plain] d v4 := (.ite (.step (raiseN_keeps _ _ _) rfl h3) h3)
    extract_lets +onlyGivenNames -underBinder -merge v5
    have h5 : Safety.Keeps [.regs, .glb, .svc, .fab, .grt, .obs, .plain] d v5 := (.forEach h4 fun _ x6 h6 => (.step (blowFuse_keeps _ _ _) rfl h6))
    exact (.glb rfl (fun _ => ⟨rfl, rfl⟩) h5)

theorem epochStep_keeps (d) : Safety.Keeps [.regs, .glb, .svc, .fab, .ntr, .grt, .obs, .plain] d (epochStep d) := by
  unfold epochStep
  refine .ite ?_ ?_
  · exact (.refl _ _)
  · extract_lets +onlyGivenNames -underBinder -merge v1
    have h1 : Safety.Keeps [.regs, .glb, .svc, .fab, .ntr, .grt, .obs, .plain] d v1 := (.forEach (.step (ageTick_keeps _) rfl (.refl _ _)) fun _ x2 h2 => (.step (addSat_keeps _ _ _) rfl h2))
    extract_lets +onlyGivenNames -underBinder -merge v3
    have h3 : Safety.Keeps [.regs, .glb, .svc, .fab, .ntr, .grt, .obs, .plain] d v3 := (.step (onNtr_keeps _ _) rfl h1)
    exact (.step (capEpoch_keeps _) rfl h3)

theorem frameTick_keeps (a0 d) : Safety.Keeps [.fab] d (frameTick a0 d) := by
  unfold frameTick
  refine .ite ?_ ?_
  · exact (.refl _ _)
  · extract_lets +onlyGivenNames -underBinder -merge v1
    exact (.step (onLink_keeps _ _ _) rfl (.refl _ _))

theorem promoteNow_keeps (a0 d) : Safety.Keeps [.regs, .glb, .svc, .fab, .ntr, .slu, .obs] d (promoteNow a0 d) := by
  unfold promoteNow
  refine .ite ?_ ?_
  · exact (.refl _ _)
  · extract_lets +onlyGivenNames -underBinder -merge v1
    have h1 : Safety.Keeps [.regs, .glb, .svc, .fab, .ntr, .slu, .obs] d v1 := by
        dsimp -zeta -iota -proj only [v1]
        refine .step (treeWrite_keeps _ _ _ _) rfl ?_
        refine .forEach ((.refl _ _)) fun z5 x5 h5 => ?_
        extract_lets +onlyGivenNames -underBinder -merge v6
        exact (.ite (.step (putLine_keeps _ _ _) rfl h5) h5)
    exact (.step (onNtr_keeps _ _) rfl h1)

theorem promotions_keeps (d) : Safety.Keeps [.regs, .glb, .svc, .fab, .ntr, .slu, .obs] d (promotions d) := by
  unfold promotions
  exact (.forEach (.refl _ _) fun _ x1 h1 => (.step (promoteNow_keeps _ _) rfl h1))

theorem tadpoleTick_keeps (d) : Safety.Keeps [.regs, .plain] d (tadpoleTick d) := by
  unfold tadpoleTick
  extract_lets +onlyGivenNames -underBinder -merge v1
  exact (.ite (.step (addSat_keeps _ _ _) rfl (.refl _ _)) (.refl _ _))

theorem poweredTick_keeps (a0 d) : Safety.Keeps [.regs, .glb, .svc, .sch, .fab, .bsn, .ntr, .med, .xlt, .slu, .twn, .pwr, .grt, .thm, .obs, .plain, .base] d (poweredTick a0 d) := by
  unfold poweredTick
  extract_lets +onlyGivenNames -underBinder -merge v1
  have h1 : Safety.Keeps [.regs, .glb, .svc, .sch, .fab, .bsn, .ntr, .med, .xlt, .slu, .twn, .pwr, .grt, .thm, .obs, .plain, .base] d v1 := (.forEach (.step (onSch_keeps _ _) rfl (.refl _ _)) fun _ x2 h2 => (.step (frameTick_keeps _ _) rfl h2))
  extract_lets +onlyGivenNames -underBinder -merge v3
  have h3 : Safety.Keeps [.regs, .glb, .svc, .sch, .fab, .bsn, .ntr, .med, .xlt, .slu, .twn, .pwr, .grt, .thm, .obs, .plain, .base] d v3 := (.step (onBsn_keeps _ _) rfl (.step (substTick_keeps _) rfl h1))
  extract_lets +onlyGivenNames -underBinder -merge v4
  have h4 : Safety.Keeps [.regs, .glb, .svc, .sch, .fab, .bsn, .ntr, .med, .xlt, .slu, .twn, .pwr, .grt, .thm, .obs, .plain, .base] d v4 := (.ite (.step (onBsn_keeps _ _) rfl h3) h3)
  extract_lets +onlyGivenNames -underBinder -merge v5
  have h5 : Safety.Keeps [.regs, .glb, .svc, .sch, .fab, .bsn, .ntr, .med, .xlt, .slu, .twn, .pwr, .grt, .thm, .obs, .plain, .base] d v5 := (.step (setB_keeps _ _ _) rfl (.step (thermTick_keeps _ _) rfl (.step (adcTick_keeps _ _) rfl (.step (twinTick_keeps _) rfl h4))))
  exact (.step (offTick_keeps _) rfl (.step (promotions_keeps _) rfl (.step (tadpoleTick_keeps _) rfl (.step (repopPace_keeps _) rfl h5))))

theorem restartCounts_keeps (d) : Safety.Keeps [.regs, .glb, .pwr, .plain] d (restartCounts d) := by
  unfold restartCounts
  extract_lets +onlyGivenNames -underBinder -merge v1
  have h1 : Safety.Keeps [.regs, .glb, .pwr, .plain] d v1 := (.forEach (.refl _ _) fun _ x2 h2 => (.step (setF_keeps _ _ _) rfl (.step (onRail_keeps _ _ _) rfl h2)))
  exact (.glb rfl (fun _ => ⟨rfl, rfl⟩) h1)

theorem superframe_keeps (a0 a1 d) : Safety.Keeps [.regs, .glb, .svc, .sch, .fab, .med, .xlt, .pwr, .grt, .obs, .spr, .plain] d (superframe a0 a1 d) := by
  unfold superframe
  refine .ite ?_ ?_
  · exact (.refl _ _)
  · extract_lets +onlyGivenNames -underBinder -merge v1
    have h1 : Safety.Keeps [.regs, .glb, .svc, .sch, .fab, .med, .xlt, .pwr, .grt, .obs, .spr, .plain] d v1 := (.step (restartCounts_keeps _) rfl (.step (floodSummary_keeps _) rfl (.step (count_keeps _ _) rfl (.refl _ _))))
    extract_lets +onlyGivenNames -underBinder -merge v2
    have h2 : Safety.Keeps [.regs, .glb, .svc, .sch, .fab, .med, .xlt, .pwr, .grt, .obs, .spr, .plain] d v2 := (.ite (.step (levelApplies_keeps _) rfl h1) h1)
    extract_lets +onlyGivenNames -underBinder -merge v3
    have h3 : Safety.Keeps [.regs, .glb, .svc, .sch, .fab, .med, .xlt, .pwr, .grt, .obs, .spr, .plain] d v3 := (.step (sparingTick_keeps _) rfl (.step (swapDies_keeps _) rfl (.step (reseed_keeps _ _) rfl h2)))
    exact (.step (antiRollback_keeps _ _) rfl h3)

theorem tickStep_keeps (a0 d) : Safety.Keeps [.regs, .glb, .svc, .sch, .fab, .bsn, .ntr, .med, .xlt, .slu, .twn, .pwr, .grt, .thm, .obs, .plain, .base, .tick] d (tickStep a0 d) := by
  unfold tickStep
  extract_lets +onlyGivenNames -underBinder -merge v1
  have h1 : Safety.Keeps [.regs, .glb, .svc, .sch, .fab, .bsn, .ntr, .med, .xlt, .slu, .twn, .pwr, .grt, .thm, .obs, .plain, .base, .tick] d v1 := (.ite (.refl _ _) (.step (busTick_keeps _) rfl (.refl _ _)))
  extract_lets +onlyGivenNames -underBinder -merge v2
  have h2 : Safety.Keeps [.regs, .glb, .svc, .sch, .fab, .bsn, .ntr, .med, .xlt, .slu, .twn, .pwr, .grt, .thm, .obs, .plain, .base, .tick] d v2 := (.glbT rfl (fun _ => rfl) h1)
  exact (.ite (.step (adcTick_keeps _ _) rfl h2) (.step (poweredTick_keeps _ _) rfl h2))

end Sys2Proof.Machine
end

