-- ==== Sys2Proof/Laws/FrameControl.lean ====
section
/-!
SUPPORT. What each definition of Machine/Control.lean leaves alone: one lemma per definition, cited and not unfolded.
-/
namespace Sys2Proof.Machine
open Sys2Proof Sys2Proof.Safety.Keeps

theorem acquire_keeps (a0 d) : Safety.Keeps [.regs, .glb, .svc, .fab, .obs, .plain] d (acquire a0 d) := by
  unfold acquire
  refine .ite ?_ ?_
  · exact (.step (setB_keeps _ _ _) rfl (.refl _ _))
  · extract_lets +onlyGivenNames -underBinder -merge v1
    have h1 : Safety.Keeps [.regs, .glb, .svc, .fab, .obs, .plain] d v1 := (.step (onSvc_keeps _ _) rfl (.step (setF_keeps _ _ _) rfl (.refl _ _)))
    exact (.step (raiseN_keeps _ _ _) rfl h1)

theorem applyWord_keeps (a0 d) : Safety.Keeps [.regs, .glb, .svc, .fab, .slu, .obs, .plain] d (applyWord a0 d) := by
  unfold applyWord
  split
  · refine .ite ?_ ?_
    · exact (.step (commitWcEn_keeps _ _) rfl (.refl _ _))
    · extract_lets +onlyGivenNames -underBinder -merge v3
      have h3 : Safety.Keeps [.regs, .glb, .svc, .fab, .slu, .obs, .plain] d v3 := (.step (regSet_keeps _ _ _) rfl (.refl _ _))
      extract_lets +onlyGivenNames -underBinder -merge v4
      exact (.ite (.step (setLt_keeps _ _ _ _) rfl h3) h3)
  · exact (.refl _ _)

theorem endMessage_keeps (a0 a1 a2 a3 a4 d) : Safety.Keeps [.svc] d (endMessage a0 a1 a2 a3 a4 d) := by
  unfold endMessage
  exact (.step (onPort_keeps _ _ _) rfl (.step (answer_keeps _ _ _ _ _ _ _) rfl (.refl _ _)))

theorem flushCmdRill_keeps (a0 d) : Safety.Keeps [.svc] d (flushCmdRill a0 d) := by
  unfold flushCmdRill
  extract_lets +onlyGivenNames -underBinder -merge v1
  extract_lets +onlyGivenNames -underBinder -merge v2
  have h2 : Safety.Keeps [.svc] d v2 := (.step (onPort_keeps _ _ _) rfl (.refl _ _))
  refine .forEach (h2) fun z4 x4 h4 => ?_
  split
  · exact (.step (endMessage_keeps _ _ _ _ _ _) rfl h4)

theorem flushEv_keeps (a0 d) : Safety.Keeps [.svc] d (flushEv a0 d) := by
  unfold flushEv
  exact (.step (onPort_keeps _ _ _) rfl (.refl _ _))

theorem rillFlush_keeps (a0 a1 d) : Safety.Keeps [.svc] d (rillFlush a0 a1 d) := by
  unfold rillFlush
  exact (.ite (.ite (.step (flushCmdRill_keeps _ _) rfl (.refl _ _)) (.refl _ _)) (.ite (.step (flushEv_keeps _ _) rfl (.refl _ _)) (.refl _ _)))

theorem armFlush_keeps (a0 a1 a2 d) : Safety.Keeps [.svc] d (armFlush a0 a1 a2 d) := by
  unfold armFlush
  extract_lets +onlyGivenNames -underBinder -merge v1
  have h1 : Safety.Keeps [.svc] d v1 := (.step (onPort_keeps _ _ _) rfl (.refl _ _))
  exact (.ite h1 (.step (rillFlush_keeps _ _ _) rfl h1))

theorem badOp_keeps (a0 d) : Safety.Keeps [.regs, .glb, .svc, .fab, .obs] d (badOp a0 d) := by
  unfold badOp
  exact (.step (raiseN_keeps _ _ _) rfl (.refl _ _))

theorem capture_keeps (a0 a1 d) : Safety.Keeps [.svc] d (capture a0 a1 d) := by
  unfold capture
  extract_lets +onlyGivenNames -underBinder -merge v1
  exact (.step (onPort_keeps _ _ _) rfl (.refl _ _))

theorem unmapped_keeps (a0 d) : Safety.Keeps [.regs, .glb, .svc, .fab, .obs] d (unmapped a0 d) := by
  unfold unmapped
  exact (.step (raiseN_keeps _ _ _) rfl (.refl _ _))

theorem rillPop_keeps (a0 d) : Safety.Keeps [.svc] d (rillPop a0 d) := by
  unfold rillPop
  exact (.step (onPort_keeps _ _ _) rfl (.refl _ _))

theorem grtRead_keeps (a0 d) : Safety.Keeps [.regs, .glb, .svc, .fab, .grt, .obs, .free, .plain] d (grtRead a0 d).2 := by
  unfold grtRead
  extract_lets +onlyGivenNames -underBinder -merge v1
  extract_lets +onlyGivenNames -underBinder -merge v2
  split
  · rename_i y3 y4 e5
    have h5 : Safety.Keeps [.regs, .glb, .svc, .fab, .grt, .obs, .free, .plain] d y4 := .of_snd e5 (by
        refine .ite2 ?_ ?_
        · extract_lets +onlyGivenNames -underBinder -merge v6
          exact (.snd_mk (.step (pageUncorr_keeps _ _) rfl (.step (drawFree_keeps _) rfl (.refl _ _))))
        · exact (.snd_mk (.refl _ _)))
    exact (.snd_mk (.step (setF_keeps _ _ _) rfl h5))

theorem ctlRead_keeps (a0 a1 d) : Safety.Keeps [.regs, .glb, .svc, .fab, .grt, .obs, .free, .plain] d (ctlRead a0 a1 d).2 := by
  unfold ctlRead
  split
  · exact (.ite2 (.snd_mk (.refl _ _)) (.snd_mk (.step (pageIsolated_keeps _ _) rfl (.refl _ _))))
  · refine .ite2 ?_ ?_
    · exact (.snd_mk (.step (unmapped_keeps _ _) rfl (.refl _ _)))
    · refine .ite2 ?_ ?_
      · exact (.snd_mk (.step (rillPop_keeps _ _) rfl (.refl _ _)))
      · refine .ite2 ?_ ?_
        · exact (.step (grtRead_keeps _ _) rfl (.refl _ _))
        · split
          · exact (.snd_mk (.refl _ _))
          · exact (.snd_mk (.step (capture_keeps _ _ _) rfl (.refl _ _)))

theorem stage_keeps (a0 a1 d) : Safety.Keeps [.regs, .svc, .plain] d (stage a0 a1 d) := by
  unfold stage
  refine .ite ?_ ?_
  · exact (.step (setB_keeps _ _ _) rfl (.step (setB_keeps _ _ _) rfl (.refl _ _)))
  · extract_lets +onlyGivenNames -underBinder -merge v1
    have h1 : Safety.Keeps [.regs, .svc, .plain] d v1 := (.step (onSvc_keeps _ _) rfl (.refl _ _))
    exact (.step (setF_keeps _ _ _) rfl h1)

theorem release_keeps (a0 d) : Safety.Keeps [.regs, .glb, .svc, .fab, .obs, .plain] d (release a0 d) := by
  unfold release
  exact (.ite (.step (loseLock_keeps _ _) rfl (.refl _ _)) (.step (setB_keeps _ _ _) rfl (.refl _ _)))

theorem txnOp_keeps (a0 a1 d) : Safety.Keeps [.regs, .glb, .svc, .fab, .obs, .plain] d (txnOp a0 a1 d) := by
  unfold txnOp
  exact (.ite (.refl _ _) (.ite (.step (setF_keeps _ _ _) rfl (.step (setF_keeps _ _ _) rfl (.step (setB_keeps _ _ _) rfl (.step (onSvc_keeps _ _) rfl (.refl _ _))))) (.ite (.ite (.step (rollBack_keeps _ _) rfl (.refl _ _)) (.step (setF_keeps _ _ _) rfl (.step (onSvc_keeps _ _) rfl (.refl _ _)))) (.ite (.step (rollBack_keeps _ _) rfl (.refl _ _)) (.step (setB_keeps _ _ _) rfl (.refl _ _))))))

theorem protectCmd_keeps (a0 a1 d) : Safety.Keeps [.regs, .glb, .svc, .fab, .grt, .obs, .plain] d (protectCmd a0 a1 d) := by
  unfold protectCmd
  exact (.ite (.step (protect_keeps _ _) rfl (.refl _ _)) (.refl _ _))

theorem wordCmd_keeps (a0 a1 a2 a3 d) : Safety.Keeps [.regs, .glb, .svc, .sch, .fab, .bsn, .ntr, .med, .xlt, .slu, .twn, .pwr, .grt, .thm, .obs, .spr, .plain, .base] d (wordCmd a0 a1 a2 a3 d) := by
  unfold wordCmd
  extract_lets +onlyGivenNames -underBinder -merge v1
  refine .ite ?_ ?_
  · exact (.whenD (.refl _ _) fun x3 h3 => (.step (enterRealign_keeps _ _ _) rfl h3))
  · refine .ite ?_ ?_
    · extract_lets +onlyGivenNames -underBinder -merge v4
      exact (.whenD (.refl _ _) fun x5 h5 => (.step (armFlush_keeps _ _ _ _) rfl h5))
    · split
      · exact (.whenD (.whenD (.refl _ _) fun x7 h7 => (.step (rst_keeps _ _) rfl h7)) fun x8 h8 => (.step (solo_keeps _ _) rfl h8))
      · split
        · exact (.step (acquire_keeps _ _) rfl (.refl _ _))
        · exact (.step (release_keeps _ _) rfl (.refl _ _))
        · exact (.step (badOp_keeps _ _) rfl (.refl _ _))
        · exact (.refl _ _)
      · exact (.step (txnOp_keeps _ _ _) rfl (.refl _ _))
      · exact (.whenD (.refl _ _) fun x16 h16 => (.step (armFlush_keeps _ _ _ _) rfl h16))
      · exact (.whenD (.refl _ _) fun x18 h18 => (.step (schCycClear_keeps _) rfl h18))
      · split
        · exact (.step (declareCmd_keeps _ _ _) rfl (.refl _ _))
        · exact (.step (clearCmd_keeps _ _ _) rfl (.refl _ _))
        · exact (.step (badOp_keeps _ _) rfl (.refl _ _))
        · exact (.refl _ _)
      · exact (.whenD (.refl _ _) fun x25 h25 => (.step (scrubGo_keeps _) rfl h25))
      · exact (.whenD (.refl _ _) fun x27 h27 => (.step (probe_keeps _) rfl h27))
      · exact (.whenD (.refl _ _) fun x29 h29 => (.step (wcInvalidate_keeps _) rfl h29))
      · split
        · exact (.refl _ _)
        · exact (.step (detachCmd_keeps _ _) rfl (.refl _ _))
        · exact (.step (badOp_keeps _ _) rfl (.refl _ _))
      · split
        · exact (.step (off_keeps _ _) rfl (.refl _ _))
        · exact (.step (huMeas_keeps _ _) rfl (.refl _ _))
        · exact (.step (badOp_keeps _ _) rfl (.refl _ _))
        · exact (.refl _ _)
      · exact (.whenD (.refl _ _) fun x40 h40 => (.step (peakClear_keeps _) rfl h40))
      · split
        · exact (.refl _ _)
        · exact (.step (protectCmd_keeps _ _ _) rfl (.refl _ _))
        · exact (.step (badOp_keeps _ _) rfl (.refl _ _))
      · split
        · exact (.step (ctrClrWrap_keeps _) rfl (.refl _ _))
        · exact (.step (ctrZero_keeps _) rfl (.refl _ _))
        · exact (.step (badOp_keeps _ _) rfl (.refl _ _))
        · exact (.refl _ _)
      · exact (.whenD (.refl _ _) fun x51 h51 => (.step (gkPop_keeps _) rfl h51))
      · exact (.refl _ _)

theorem writeW1c_keeps (a0 a1 a2 a3 d) : Safety.Keeps [.regs, .svc, .plain] d (writeW1c a0 a1 a2 a3 d) := by
  unfold writeW1c
  exact (.ite (.ite (.step (onPort_keeps _ _ _) rfl (.refl _ _)) (.refl _ _)) (.ite (.refl _ _) (.step (regSet_keeps _ _ _) rfl (.refl _ _))))

theorem writeRw_keeps (a0 a1 a2 d) : Safety.Keeps [.regs, .plain] d (writeRw a0 a1 a2 d) := by
  unfold writeRw
  exact (.ite (.refl _ _) (.ite (.step (setFreeze_keeps _ _) rfl (.refl _ _)) (.step (regSet_keeps _ _ _) rfl (.refl _ _))))

theorem ctlWrite_keeps (a0 a1 a2 a3 d) : Safety.Keeps [.regs, .glb, .svc, .sch, .fab, .bsn, .ntr, .med, .xlt, .slu, .twn, .pwr, .grt, .thm, .obs, .spr, .free, .plain, .base] d (ctlWrite a0 a1 a2 a3 d) := by
  unfold ctlWrite
  split
  · exact (.ite (.step (macPortWrite_keeps _ _ _ _) rfl (.refl _ _)) (.step (pageIsolated_keeps _ _) rfl (.refl _ _)))
  · split
    · exact (.step (unmapped_keeps _ _) rfl (.refl _ _))
    · refine .ite ?_ ?_
      · exact (.step (raiseN_keeps _ _ _) rfl (.refl _ _))
      · extract_lets +onlyGivenNames -underBinder -merge v5
        have h5 : Safety.Keeps [.regs, .glb, .svc, .sch, .fab, .bsn, .ntr, .med, .xlt, .slu, .twn, .pwr, .grt, .thm, .obs, .spr, .free, .plain, .base] d v5 := (.ite (.step (stage_keeps _ _ _) rfl (.refl _ _)) (.refl _ _))
        exact (.step (wordCmd_keeps _ _ _ _ _) rfl (.step (writeW1c_keeps _ _ _ _ _) rfl (.step (writeRw_keeps _ _ _ _) rfl h5)))

theorem unstage_keeps (a0 d) : Safety.Keeps [.regs, .svc, .plain] d (unstage a0 d) := by
  unfold unstage
  extract_lets +onlyGivenNames -underBinder -merge v1
  have h1 : Safety.Keeps [.regs, .svc, .plain] d v1 := (.step (onSvc_keeps _ _) rfl (.refl _ _))
  exact (.step (setF_keeps _ _ _) rfl h1)

theorem checkStaged_keeps (d) : Safety.Keeps [.regs, .glb, .svc, .fab, .slu, .obs, .plain] d (checkStaged d) := by
  unfold checkStaged
  exact (.forEach (.refl _ _) fun _ x1 h1 => (.step (raiseN_keeps _ _ _) rfl (.step (unstage_keeps _ _) rfl (.ite (.step (commitWcEn_keeps _ _) rfl h1) h1))))

theorem finishWait_keeps (a0 d) : Safety.Keeps [.svc] d (finishWait a0 d) := by
  unfold finishWait
  split
  · exact (.refl _ _)
  · extract_lets +onlyGivenNames -underBinder -merge v4
    have h4 : Safety.Keeps [.svc] d v4 := (.step (onPort_keeps _ _ _) rfl (.refl _ _))
    exact (.ite (.step (endMessage_keeps _ _ _ _ _ _) rfl h4) h4)

theorem commitNow_keeps (d) : Safety.Keeps [.regs, .glb, .svc, .fab, .slu, .obs, .plain] d (commitNow d) := by
  unfold commitNow
  extract_lets +onlyGivenNames -underBinder -merge v1
  have h1 : Safety.Keeps [.regs, .glb, .svc, .fab, .slu, .obs, .plain] d v1 := (.step (checkStaged_keeps _) rfl (.refl _ _))
  extract_lets +onlyGivenNames -underBinder -merge v2
  extract_lets +onlyGivenNames -underBinder -merge v3
  extract_lets +onlyGivenNames -underBinder -merge v4
  extract_lets +onlyGivenNames -underBinder -merge v5
  have h5 : Safety.Keeps [.regs, .glb, .svc, .fab, .slu, .obs, .plain] d v5 := (.step (onSvc_keeps _ _) rfl (.forEach h1 fun _ x6 h6 => (.step (applyWord_keeps _ _) rfl h6)))
  extract_lets +onlyGivenNames -underBinder -merge v7
  have h7 : Safety.Keeps [.regs, .glb, .svc, .fab, .slu, .obs, .plain] d v7 := (.forEach h5 fun _ x8 h8 => (.step (rekeyStart_keeps _ _ _ _) rfl h8))
  extract_lets +onlyGivenNames -underBinder -merge v9
  have h9 : Safety.Keeps [.regs, .glb, .svc, .fab, .slu, .obs, .plain] d v9 := (.step (setF_keeps _ _ _) rfl (.step (setF_keeps _ _ _) rfl (.step (setF_keeps _ _ _) rfl (.step (setF_keeps _ _ _) rfl h7))))
  exact (.step (finishWait_keeps _ _) rfl (.step (finishWait_keeps _ _) rfl (.step (raiseN_keeps _ _ _) rfl h9)))

theorem lockTimeout_keeps (d) : Safety.Keeps [.regs, .glb, .svc, .fab, .obs, .plain] d (lockTimeout d) := by
  unfold lockTimeout
  exact (.ite (.step (loseLock_keeps _ _) rfl (.refl _ _)) (.refl _ _))

theorem txnWrite_keeps (a0 a1 a2 d) : Safety.Keeps [.regs, .glb, .svc, .fab, .obs, .plain] d (txnWrite a0 a1 a2 d) := by
  unfold txnWrite
  exact (.step (txnOp_keeps _ _ _) rfl (.step (setB_keeps _ _ _) rfl (.refl _ _)))

end Sys2Proof.Machine
end

