-- ==== Sys2Proof/Laws/FrameService.lean ====
section
/-!
SUPPORT. What each definition of Machine/Service.lean leaves alone: one lemma per definition, cited and not unfolded.
-/
namespace Sys2Proof.Machine
open Sys2Proof Sys2Proof.Safety.Keeps

theorem discardMsg_keeps (a0 a1 a2 d) : Safety.Keeps [.regs, .glb, .svc, .fab, .obs, .plain] d (discardMsg a0 a1 a2 d) := by
  unfold discardMsg
  exact (.step (raiseN_keeps _ _ _) rfl (.step (setB_keeps _ _ _) rfl (.refl _ _)))

theorem attest_keeps (a0 a1 a2 a3 a4 d) : Safety.Keeps [.regs, .glb, .svc, .fab, .obs] d (attest a0 a1 a2 a3 a4 d) := by
  unfold attest
  extract_lets +onlyGivenNames -underBinder -merge v1
  have h1 : Safety.Keeps [.regs, .glb, .svc, .fab, .obs] d v1 := (.step (answer_keeps _ _ _ _ _ _ _) rfl (.refl _ _))
  exact (.ite h1 (.step (raiseN_keeps _ _ _) rfl h1))

theorem nackPacket_keeps (a0 d) : Safety.Keeps [.regs, .glb, .svc, .fab, .obs, .plain] d (nackPacket a0 d) := by
  unfold nackPacket
  exact (.step (raiseOnce_keeps _ _ _ _) rfl (.step (portSay_keeps _ _ _) rfl (.step (setB_keeps _ _ _) rfl (.refl _ _))))

theorem enqueue_keeps (a0 a1 d) : Safety.Keeps [.regs, .glb, .svc, .fab, .obs, .plain] d (enqueue a0 a1 d).1 := by
  unfold enqueue
  exact (.ite1 (.fst_mk (.step (nackPacket_keeps _ _) rfl (.refl _ _))) (.fst_mk (.step (onPort_keeps _ _ _) rfl (.refl _ _))))

theorem readMsg_keeps (a0 a1 a2 a3 a4 d) : Safety.Keeps [.regs, .glb, .svc, .fab, .obs, .plain] d (readMsg a0 a1 a2 a3 a4 d).1 := by
  unfold readMsg
  extract_lets +onlyGivenNames -underBinder -merge v1
  extract_lets +onlyGivenNames -underBinder -merge v2
  exact (.ite1 (.fst_mk (.refl _ _)) (.ite1 (.fst_mk (.step (answer_keeps _ _ _ _ _ _ _) rfl (.refl _ _))) (.step (enqueue_keeps _ _ _) rfl (.refl _ _))))

theorem writeMsg_keeps (a0 a1 a2 a3 a4 d) : Safety.Keeps [.regs, .glb, .svc, .fab, .obs, .plain] d (writeMsg a0 a1 a2 a3 a4 d).1 := by
  unfold writeMsg
  extract_lets +onlyGivenNames -underBinder -merge v1
  exact (.ite1 (.fst_mk (.refl _ _)) (.ite1 (.fst_mk (.step (answer_keeps _ _ _ _ _ _ _) rfl (.refl _ _))) (.step (enqueue_keeps _ _ _) rfl (.refl _ _))))

theorem getVersion_keeps (a0 a1 d) : Safety.Keeps [.regs, .glb, .svc, .fab, .obs] d (getVersion a0 a1 d) := by
  unfold getVersion
  unfold attestIn
  split
  · exact (.refl _ _)
  · exact (.refl _ _)
  · exact (.refl _ _)
  · exact (.step (attest_keeps _ _ _ _ _ _) rfl (.refl _ _))
  · exact (.step (attest_keeps _ _ _ _ _ _) rfl (.refl _ _))
  · exact (.step (attest_keeps _ _ _ _ _ _) rfl (.refl _ _))

theorem getIdentity_keeps (a0 a1 d) : Safety.Keeps [.regs, .glb, .svc, .fab, .obs] d (getIdentity a0 a1 d) := by
  unfold getIdentity
  unfold attestIn
  split
  · exact (.refl _ _)
  · exact (.refl _ _)
  · exact (.refl _ _)
  · exact (.step (attest_keeps _ _ _ _ _ _) rfl (.refl _ _))
  · exact (.step (attest_keeps _ _ _ _ _ _) rfl (.refl _ _))
  · exact (.step (attest_keeps _ _ _ _ _ _) rfl (.refl _ _))

theorem getCert_keeps (a0 a1 a2 d) : Safety.Keeps [.regs, .glb, .svc, .fab, .obs] d (getCert a0 a1 a2 d) := by
  unfold getCert
  extract_lets +onlyGivenNames -underBinder -merge v1
  unfold attestIn
  beta_reduce
  split
  · exact (.refl _ _)
  · exact (.refl _ _)
  · exact (.refl _ _)
  · exact (.step (attest_keeps _ _ _ _ _ _) rfl (.refl _ _))
  · exact (.step (attest_keeps _ _ _ _ _ _) rfl (.refl _ _))
  · exact (.ite (.step (attest_keeps _ _ _ _ _ _) rfl (.refl _ _)) (.step (attest_keeps _ _ _ _ _ _) rfl (.refl _ _)))

theorem getReport_keeps (a0 a1 a2 a3 d) : Safety.Keeps [.regs, .glb, .svc, .fab, .obs] d (getReport a0 a1 a2 a3 d) := by
  unfold getReport
  unfold attestIn
  beta_reduce
  split
  · exact (.refl _ _)
  · exact (.refl _ _)
  · exact (.refl _ _)
  · exact (.step (attest_keeps _ _ _ _ _ _) rfl (.refl _ _))
  · exact (.step (attest_keeps _ _ _ _ _ _) rfl (.refl _ _))
  · exact (.ite (.step (attest_keeps _ _ _ _ _ _) rfl (.refl _ _)) (.step (onPort_keeps _ _ _) rfl (.refl _ _)))

theorem ledgerMsg_keeps (a0 a1 a2 d) : Safety.Keeps [.regs, .glb, .svc, .fab, .obs, .free, .plain] d (ledgerMsg a0 a1 a2 d).1 := by
  unfold ledgerMsg
  extract_lets +onlyGivenNames -underBinder -merge v1
  exact (.ite1 (.fst_mk (.refl _ _)) (.ite1 (.fst_mk (.step (ledCarry_keeps _ _ _ _) rfl (.step (touch_keeps _ _) rfl (.refl _ _)))) (.step (enqueue_keeps _ _ _) rfl (.refl _ _))))

theorem unsupported_keeps (a0 a1 a2 a3 d) : Safety.Keeps [.regs, .glb, .svc, .fab, .obs] d (unsupported a0 a1 a2 a3 d) := by
  unfold unsupported
  refine .ite ?_ ?_
  · exact (.refl _ _)
  · extract_lets +onlyGivenNames -underBinder -merge v1
    have h1 : Safety.Keeps [.regs, .glb, .svc, .fab, .obs] d v1 := (.step (answer_keeps _ _ _ _ _ _ _) rfl (.refl _ _))
    exact (.ite (.step (raiseN_keeps _ _ _) rfl h1) h1)

theorem vendorMsg_keeps (a0 a1 d) : Safety.Keeps [.regs, .glb, .svc, .fab, .obs, .free, .plain] d (vendorMsg a0 a1 d).1 := by
  unfold vendorMsg
  extract_lets +onlyGivenNames -underBinder -merge v1
  extract_lets +onlyGivenNames -underBinder -merge v2
  extract_lets +onlyGivenNames -underBinder -merge v3
  extract_lets +onlyGivenNames -underBinder -merge v4
  extract_lets +onlyGivenNames -underBinder -merge v5
  extract_lets +onlyGivenNames -underBinder -merge v6
  extract_lets +onlyGivenNames -underBinder -merge v7
  extract_lets +onlyGivenNames -underBinder -merge v8
  extract_lets +onlyGivenNames -underBinder -merge v9
  split
  · refine .ite1 ?_ ?_
    · refine .ite1 ?_ ?_
      · refine .fst_mk ?_
        refine .ite ?_ ?_
        · unfold attestIn
          split
          · exact (.refl _ _)
          · exact (.refl _ _)
          · exact (.refl _ _)
          · exact (.step (attest_keeps _ _ _ _ _ _) rfl (.refl _ _))
          · exact (.step (attest_keeps _ _ _ _ _ _) rfl (.refl _ _))
          · exact (.step (attest_keeps _ _ _ _ _ _) rfl (.refl _ _))
        · exact (.step (answer_keeps _ _ _ _ _ _ _) rfl (.refl _ _))
      · exact (.fst_mk (.refl _ _))
    · exact (.step (readMsg_keeps _ _ _ _ _ _) rfl (.refl _ _))
  · refine .ite1 ?_ ?_
    · exact (.fst_mk (.ite (.step (answer_keeps _ _ _ _ _ _ _) rfl (.refl _ _)) (.refl _ _)))
    · extract_lets +onlyGivenNames -underBinder -merge v18
      exact (.step (writeMsg_keeps _ _ _ _ _ _) rfl (.refl _ _))
  · refine .ite1 ?_ ?_
    · exact (.fst_mk (.step (getVersion_keeps _ _ _) rfl (.refl _ _)))
    · refine .ite1 ?_ ?_
      · refine .fst_mk ?_
        refine .ite ?_ ?_
        · unfold attestIn
          split
          · exact (.refl _ _)
          · exact (.refl _ _)
          · exact (.refl _ _)
          · exact (.step (attest_keeps _ _ _ _ _ _) rfl (.refl _ _))
          · exact (.step (attest_keeps _ _ _ _ _ _) rfl (.refl _ _))
          · exact (.step (attest_keeps _ _ _ _ _ _) rfl (.refl _ _))
        · exact (.step (answer_keeps _ _ _ _ _ _ _) rfl (.refl _ _))
      · exact (.fst_mk (.refl _ _))
  · refine .ite1 ?_ ?_
    · exact (.fst_mk (.step (getIdentity_keeps _ _ _) rfl (.refl _ _)))
    · refine .ite1 ?_ ?_
      · refine .fst_mk ?_
        refine .ite ?_ ?_
        · unfold attestIn
          split
          · exact (.refl _ _)
          · exact (.refl _ _)
          · exact (.refl _ _)
          · exact (.step (attest_keeps _ _ _ _ _ _) rfl (.refl _ _))
          · exact (.step (attest_keeps _ _ _ _ _ _) rfl (.refl _ _))
          · exact (.step (attest_keeps _ _ _ _ _ _) rfl (.refl _ _))
        · exact (.step (answer_keeps _ _ _ _ _ _ _) rfl (.refl _ _))
      · exact (.fst_mk (.refl _ _))
  · refine .ite1 ?_ ?_
    · exact (.fst_mk (.step (getCert_keeps _ _ _ _) rfl (.refl _ _)))
    · refine .ite1 ?_ ?_
      · refine .fst_mk ?_
        refine .ite ?_ ?_
        · unfold attestIn
          split
          · exact (.refl _ _)
          · exact (.refl _ _)
          · exact (.refl _ _)
          · exact (.step (attest_keeps _ _ _ _ _ _) rfl (.refl _ _))
          · exact (.step (attest_keeps _ _ _ _ _ _) rfl (.refl _ _))
          · exact (.step (attest_keeps _ _ _ _ _ _) rfl (.refl _ _))
        · exact (.step (answer_keeps _ _ _ _ _ _ _) rfl (.refl _ _))
      · exact (.fst_mk (.refl _ _))
  · refine .ite1 ?_ ?_
    · exact (.fst_mk (.step (getReport_keeps _ _ _ _ _) rfl (.refl _ _)))
    · refine .ite1 ?_ ?_
      · refine .fst_mk ?_
        refine .ite ?_ ?_
        · unfold attestIn
          split
          · exact (.refl _ _)
          · exact (.refl _ _)
          · exact (.refl _ _)
          · exact (.step (attest_keeps _ _ _ _ _ _) rfl (.refl _ _))
          · exact (.step (attest_keeps _ _ _ _ _ _) rfl (.refl _ _))
          · exact (.step (attest_keeps _ _ _ _ _ _) rfl (.refl _ _))
        · exact (.step (answer_keeps _ _ _ _ _ _ _) rfl (.refl _ _))
      · exact (.fst_mk (.refl _ _))
  · refine .ite1 ?_ ?_
    · exact (.step (ledgerMsg_keeps _ _ _ _) rfl (.refl _ _))
    · refine .ite1 ?_ ?_
      · refine .fst_mk ?_
        refine .ite ?_ ?_
        · unfold attestIn
          split
          · exact (.refl _ _)
          · exact (.refl _ _)
          · exact (.refl _ _)
          · exact (.step (attest_keeps _ _ _ _ _ _) rfl (.refl _ _))
          · exact (.step (attest_keeps _ _ _ _ _ _) rfl (.refl _ _))
          · exact (.step (attest_keeps _ _ _ _ _ _) rfl (.refl _ _))
        · exact (.step (answer_keeps _ _ _ _ _ _ _) rfl (.refl _ _))
      · exact (.fst_mk (.refl _ _))
  · refine .ite1 ?_ ?_
    · exact (.step (ledgerMsg_keeps _ _ _ _) rfl (.refl _ _))
    · refine .ite1 ?_ ?_
      · refine .fst_mk ?_
        refine .ite ?_ ?_
        · unfold attestIn
          split
          · exact (.refl _ _)
          · exact (.refl _ _)
          · exact (.refl _ _)
          · exact (.step (attest_keeps _ _ _ _ _ _) rfl (.refl _ _))
          · exact (.step (attest_keeps _ _ _ _ _ _) rfl (.refl _ _))
          · exact (.step (attest_keeps _ _ _ _ _ _) rfl (.refl _ _))
        · exact (.step (answer_keeps _ _ _ _ _ _ _) rfl (.refl _ _))
      · exact (.fst_mk (.refl _ _))
  · refine .ite1 ?_ ?_
    · exact (.step (ledgerMsg_keeps _ _ _ _) rfl (.refl _ _))
    · refine .ite1 ?_ ?_
      · refine .fst_mk ?_
        refine .ite ?_ ?_
        · unfold attestIn
          split
          · exact (.refl _ _)
          · exact (.refl _ _)
          · exact (.refl _ _)
          · exact (.step (attest_keeps _ _ _ _ _ _) rfl (.refl _ _))
          · exact (.step (attest_keeps _ _ _ _ _ _) rfl (.refl _ _))
          · exact (.step (attest_keeps _ _ _ _ _ _) rfl (.refl _ _))
        · exact (.step (answer_keeps _ _ _ _ _ _ _) rfl (.refl _ _))
      · exact (.fst_mk (.refl _ _))
  · refine .ite1 ?_ ?_
    · exact (.step (ledgerMsg_keeps _ _ _ _) rfl (.refl _ _))
    · refine .ite1 ?_ ?_
      · refine .fst_mk ?_
        refine .ite ?_ ?_
        · unfold attestIn
          split
          · exact (.refl _ _)
          · exact (.refl _ _)
          · exact (.refl _ _)
          · exact (.step (attest_keeps _ _ _ _ _ _) rfl (.refl _ _))
          · exact (.step (attest_keeps _ _ _ _ _ _) rfl (.refl _ _))
          · exact (.step (attest_keeps _ _ _ _ _ _) rfl (.refl _ _))
        · exact (.step (answer_keeps _ _ _ _ _ _ _) rfl (.refl _ _))
      · exact (.fst_mk (.refl _ _))
  · refine .ite1 ?_ ?_
    · exact (.step (ledgerMsg_keeps _ _ _ _) rfl (.refl _ _))
    · refine .ite1 ?_ ?_
      · refine .fst_mk ?_
        refine .ite ?_ ?_
        · unfold attestIn
          split
          · exact (.refl _ _)
          · exact (.refl _ _)
          · exact (.refl _ _)
          · exact (.step (attest_keeps _ _ _ _ _ _) rfl (.refl _ _))
          · exact (.step (attest_keeps _ _ _ _ _ _) rfl (.refl _ _))
          · exact (.step (attest_keeps _ _ _ _ _ _) rfl (.refl _ _))
        · exact (.step (answer_keeps _ _ _ _ _ _ _) rfl (.refl _ _))
      · exact (.fst_mk (.refl _ _))
  · exact (.fst_mk (.step (unsupported_keeps _ _ _ _ _) rfl (.refl _ _)))

theorem ctrlSays_keeps (a0 a1 d) : Safety.Keeps [.svc] d (ctrlSays a0 a1 d) := by
  unfold ctrlSays
  exact (.step (portSay_keeps _ _ _) rfl (.refl _ _))

theorem setEid_keeps (a0 a1 d) : Safety.Keeps [.regs, .svc, .plain] d (setEid a0 a1 d) := by
  unfold setEid
  exact (.ite (.refl _ _) (.ite (.step (ctrlSays_keeps _ _ _) rfl (.refl _ _)) (.step (ctrlSays_keeps _ _ _) rfl (.step (setF_keeps _ _ _) rfl (.refl _ _)))))

theorem getEid_keeps (a0 d) : Safety.Keeps [.svc] d (getEid a0 d) := by
  unfold getEid
  exact (.ite (.step (ctrlSays_keeps _ _ _) rfl (.refl _ _)) (.refl _ _))

theorem drawByte_keeps (d) : Safety.Keeps [.free] d (drawByte d).2 := by
  unfold drawByte
  exact (.snd_mk (.set_free rfl (.refl _ _)))

theorem drawBytes_keeps (a0 d) : Safety.Keeps [.free] d (drawBytes a0 d).2 := by
  induction a0 generalizing d with
  | zero => exact .refl _ _
  | succ n ih =>
    unfold drawBytes
    exact .step (ih _) rfl (.step (drawByte_keeps _) rfl (.refl _ _))

theorem getVersions_keeps (a0 d) : Safety.Keeps [.svc, .free] d (getVersions a0 d) := by
  unfold getVersions
  refine .ite ?_ ?_
  · exact (.refl _ _)
  · split
    · rename_i y1 y2 e3
      have h3 : Safety.Keeps [.svc, .free] d y2 := .of_snd e3 ((.step (drawBytes_keeps _ _) rfl (.refl _ _)))
      exact (.step (ctrlSays_keeps _ _ _) rfl h3)

theorem getTypes_keeps (a0 d) : Safety.Keeps [.svc] d (getTypes a0 d) := by
  unfold getTypes
  exact (.ite (.step (ctrlSays_keeps _ _ _) rfl (.refl _ _)) (.refl _ _))

theorem getVendor_keeps (a0 d) : Safety.Keeps [.svc, .free] d (getVendor a0 d) := by
  unfold getVendor
  refine .ite ?_ ?_
  · exact (.refl _ _)
  · split
    · rename_i y1 y2 e3
      have h3 : Safety.Keeps [.svc, .free] d y2 := .of_snd e3 ((.step (drawBytes_keeps _ _) rfl (.refl _ _)))
      exact (.step (ctrlSays_keeps _ _ _) rfl h3)

theorem messageBody_keeps (a0 a1 d) : Safety.Keeps [.regs, .glb, .svc, .fab, .obs, .free, .plain] d (messageBody a0 a1 d).1 := by
  unfold messageBody
  refine .ite1 ?_ ?_
  · exact (.step (vendorMsg_keeps _ _ _) rfl (.refl _ _))
  · refine .ite1 ?_ ?_
    · split
      · exact (.fst_mk (.step (setEid_keeps _ _ _) rfl (.refl _ _)))
      · exact (.fst_mk (.step (getEid_keeps _ _) rfl (.refl _ _)))
      · exact (.fst_mk (.step (getVersions_keeps _ _) rfl (.refl _ _)))
      · exact (.fst_mk (.step (getTypes_keeps _ _) rfl (.refl _ _)))
      · exact (.fst_mk (.step (getVendor_keeps _ _) rfl (.refl _ _)))
      · exact (.fst_mk (.refl _ _))
    · exact (.fst_mk (.refl _ _))

theorem assemble_keeps (a0 a1 d) : Safety.Keeps [.regs, .glb, .svc, .fab, .obs, .free, .plain] d (assemble a0 a1 d) := by
  unfold assemble
  extract_lets +onlyGivenNames -underBinder -merge v1
  extract_lets +onlyGivenNames -underBinder -merge v2
  have h2 : Safety.Keeps [.regs, .glb, .svc, .fab, .obs, .free, .plain] d v2 := (.ite (.step (discardMsg_keeps _ _ _ _) rfl (.refl _ _)) (.refl _ _))
  split
  · exact h2
  · extract_lets +onlyGivenNames -underBinder -merge v5
    refine .ite ?_ ?_
    · exact (.step (discardMsg_keeps _ _ _ _) rfl (.step (onPort_keeps _ _ _) rfl h2))
    · refine .ite ?_ ?_
      · exact (.step (onPort_keeps _ _ _) rfl h2)
      · split
        · rename_i y6 y7 e8
          have h8 : Safety.Keeps [.regs, .glb, .svc, .fab, .obs, .free, .plain] d y6 := .of_fst e8 ((.step (messageBody_keeps _ _ _) rfl (.step (onPort_keeps _ _ _) rfl h2)))
          exact (.ite h8 (.step (onPort_keeps _ _ _) rfl h8))

theorem carryEntry_keeps (a0 a1 a2 d) : Safety.Keeps [.regs, .glb, .svc, .sch, .fab, .bsn, .ntr, .med, .xlt, .slu, .twn, .pwr, .grt, .thm, .obs, .spr, .free, .plain, .base] d (carryEntry a0 a1 a2 d) := by
  unfold carryEntry
  split
  · split
    · rename_i y4 y5 e6
      have h6 : Safety.Keeps [.regs, .glb, .svc, .sch, .fab, .bsn, .ntr, .med, .xlt, .slu, .twn, .pwr, .grt, .thm, .obs, .spr, .free, .plain, .base] d y5 := .of_snd e6 ((.step (ctlRead_keeps _ _ _) rfl (.refl _ _)))
      extract_lets +onlyGivenNames -underBinder -merge v7
      have h7 : Safety.Keeps [.regs, .glb, .svc, .sch, .fab, .bsn, .ntr, .med, .xlt, .slu, .twn, .pwr, .grt, .thm, .obs, .spr, .free, .plain, .base] d v7 := (.step (onPort_keeps _ _ _) rfl h6)
      exact (.ite (.step (endMessage_keeps _ _ _ _ _ _) rfl h7) h7)
  · extract_lets +onlyGivenNames -underBinder -merge v12
    extract_lets +onlyGivenNames -underBinder -merge v13
    refine .ite ?_ ?_
    · refine .step (ctlWrite_keeps _ _ _ _ _) rfl ?_
      try dsimp -zeta -iota -proj only [v13]
      extract_lets +onlyGivenNames -underBinder -merge v14
      have h14 : Safety.Keeps [.regs, .glb, .svc, .sch, .fab, .bsn, .ntr, .med, .xlt, .slu, .twn, .pwr, .grt, .thm, .obs, .spr, .free, .plain, .base] d v14 := (.step (onPort_keeps _ _ _) rfl (.refl _ _))
      exact (.ite (.step (endMessage_keeps _ _ _ _ _ _) rfl h14) h14)
    · extract_lets +onlyGivenNames -underBinder -merge v15
      have h15 : Safety.Keeps [.regs, .glb, .svc, .sch, .fab, .bsn, .ntr, .med, .xlt, .slu, .twn, .pwr, .grt, .thm, .obs, .spr, .free, .plain, .base] d v15 := (.step (ctlWrite_keeps _ _ _ _ _) rfl (.refl _ _))
      refine .ite ?_ ?_
      · exact (.step (onPort_keeps _ _ _) rfl h15)
      · try dsimp -zeta -iota -proj only [v13]
        extract_lets +onlyGivenNames -underBinder -merge v16
        have h16 : Safety.Keeps [.regs, .glb, .svc, .sch, .fab, .bsn, .ntr, .med, .xlt, .slu, .twn, .pwr, .grt, .thm, .obs, .spr, .free, .plain, .base] d v16 := (.step (onPort_keeps _ _ _) rfl h15)
        exact (.ite (.step (endMessage_keeps _ _ _ _ _ _) rfl h16) h16)
  · exact (.step (ledCarry_keeps _ _ _ _) rfl (.refl _ _))

theorem cccSays_keeps (a0 a1 d) : Safety.Keeps [.svc] d (cccSays a0 a1 d) := by
  unfold cccSays
  exact (.step (portSay_keeps _ _ _) rfl (.refl _ _))

theorem entdaa_keeps (a0 a1 d) : Safety.Keeps [.regs, .plain] d (entdaa a0 a1 d) := by
  unfold entdaa
  exact (.ite (.step (setF_keeps _ _ _) rfl (.refl _ _)) (.refl _ _))

theorem portAccess_keeps (a0 a1 d) : Safety.Keeps [.regs, .glb, .svc, .sch, .fab, .bsn, .ntr, .med, .xlt, .slu, .twn, .pwr, .grt, .thm, .obs, .spr, .free, .plain, .base] d (portAccess a0 a1 d) := by
  unfold portAccess
  extract_lets +onlyGivenNames -underBinder -merge v1
  refine .ite ?_ ?_
  · exact (.step (finishWait_keeps _ _) rfl (.refl _ _))
  · refine .ite ?_ ?_
    · exact (.step (onPort_keeps _ _ _) rfl (.refl _ _))
    · split
      · exact (.refl _ _)
      · exact (.step (carryEntry_keeps _ _ _ _) rfl (.step (touch_keeps _ _) rfl (.step (onPort_keeps _ _ _) rfl (.refl _ _))))

theorem executor_keeps (a0 d) : Safety.Keeps [.regs, .glb, .svc, .sch, .fab, .bsn, .ntr, .med, .xlt, .slu, .twn, .pwr, .grt, .thm, .obs, .spr, .free, .plain, .base] d (executor a0 d) := by
  unfold executor
  refine .ite ?_ ?_
  · exact (.refl _ _)
  · extract_lets +onlyGivenNames -underBinder -merge v1
    extract_lets +onlyGivenNames -underBinder -merge v2
    split
    · exact (.refl _ _)
    · exact (.step (portAccess_keeps _ _ _) rfl (.step (onSvc_keeps _ _) rfl (.refl _ _)))

theorem packetIn_keeps (a0 a1 d) : Safety.Keeps [.regs, .glb, .svc, .fab, .obs, .free, .plain] d (packetIn a0 a1 d) := by
  unfold packetIn
  extract_lets +onlyGivenNames -underBinder -merge v1
  extract_lets +onlyGivenNames -underBinder -merge v2
  exact (.ite (.refl _ _) (.ite (.step (discardMsg_keeps _ _ _ _) rfl (.step (onPort_keeps _ _ _) rfl (.refl _ _))) (.ite (.step (discardMsg_keeps _ _ _ _) rfl (.step (onPort_keeps _ _ _) rfl (.refl _ _))) (.step (assemble_keeps _ _ _) rfl (.refl _ _)))))

theorem portReset_keeps (a0 d) : Safety.Keeps [.regs, .glb, .svc, .fab, .slu, .obs, .plain] d (portReset a0 d) := by
  unfold portReset
  extract_lets +onlyGivenNames -underBinder -merge v1
  have h1 : Safety.Keeps [.regs, .glb, .svc, .fab, .slu, .obs, .plain] d v1 := (.step (onPort_keeps _ _ _) rfl (.refl _ _))
  extract_lets +onlyGivenNames -underBinder -merge v2
  have h2 : Safety.Keeps [.regs, .glb, .svc, .fab, .slu, .obs, .plain] d v2 := (.step (nonceDrop_keeps _) rfl (.step (zeroMac_keeps _ _) rfl h1))
  extract_lets +onlyGivenNames -underBinder -merge v3
  have h3 : Safety.Keeps [.regs, .glb, .svc, .fab, .slu, .obs, .plain] d v3 := (.ite (.step (loseLock_keeps _ _) rfl h2) h2)
  exact (.step (raiseN_keeps _ _ _) rfl (.step (addSat_keeps _ _ _) rfl (.step (setB_keeps _ _ _) rfl h3)))

theorem reportSigned_keeps (a0 d) : Safety.Keeps [.regs, .glb, .svc, .fab, .obs, .free] d (reportSigned a0 d) := by
  unfold reportSigned
  split
  · exact (.refl _ _)
  · extract_lets +onlyGivenNames -underBinder -merge v5
    have h5 : Safety.Keeps [.regs, .glb, .svc, .fab, .obs, .free] d v5 := (.step (onPort_keeps _ _ _) rfl (.refl _ _))
    refine .ite ?_ ?_
    · exact h5
    · extract_lets +onlyGivenNames -underBinder -merge v6
      extract_lets +onlyGivenNames -underBinder -merge v7
      exact (.step (attest_keeps _ _ _ _ _ _) rfl (.set_free rfl h5))

theorem targetReset_keeps (a0 d) : Safety.Keeps [.regs, .glb, .svc, .fab, .slu, .obs, .plain] d (targetReset a0 d) := by
  unfold targetReset
  extract_lets +onlyGivenNames -underBinder -merge v1
  extract_lets +onlyGivenNames -underBinder -merge v2
  have h2 : Safety.Keeps [.regs, .glb, .svc, .fab, .slu, .obs, .plain] d v2 := (.step (onPort_keeps _ _ _) rfl (.refl _ _))
  exact (.ite h2 (.step (portReset_keeps _ _) rfl h2))

end Sys2Proof.Machine
end

