-- ==== Sys2Proof/Laws/FrameExec.lean ====
section
/-!
SUPPORT. What each command's meaning leaves alone: one lemma per meaning, each a next state that keeps every part outside the list
that `Safety.touches` gives the command.
-/
namespace Sys2Proof.Machine
open Sys2Proof Sys2Proof.Safety.Keeps
set_option Elab.async false

/-- A next state with the same queue and every part outside `M` kept. -/
def Ok (M : List Safety.Part) (s : State) (o : Host.Outcome State Fault Refusal) : Prop :=
  ∃ t, o = .next t ∧ t.pending = s.pending ∧ Safety.Keeps M s.dev t.dev
theorem okR {M f s} (h : ∀ d, Safety.Keeps M d (f d)) (hs : sub [.regs, .glb, .svc, .fab, .obs] M = true := by rfl) :
    Ok M s (run f s) := ⟨_, rfl, rfl, .step (finish_keeps _ _) hs (h _)⟩
theorem okQ {M f s} (h : ∀ d, Safety.Keeps M d (f d)) : Ok M s (runQ f s) := ⟨_, rfl, rfl, h _⟩
theorem viaPort_keeps {M d p f} (h : Safety.Keeps M d (f (touch p d))) : Safety.Keeps M d (viaPort p f d) := by
  unfold viaPort
  split
  · exact .refl _ _
  · exact .refl _ _
  · exact .refl _ _
  · exact h
theorem runOp_keeps (h : OpHdr) (o : OpShape) (f : Dev → Core → Core → OpResult) (d : Dev) :
    Safety.Keeps [.regs, .glb, .svc, .sch, .fab, .ntr, .med, .xlt, .slu, .obs, .free, .plain] d (runOp h o f d) := by
  unfold runOp
  extract_lets +onlyGivenNames -underBinder -merge v1
  extract_lets +onlyGivenNames -underBinder -merge v2
  refine .ite ?_ ?_
  · exact (.refl _ _)
  · extract_lets +onlyGivenNames -underBinder -merge v3
    have h3 : Safety.Keeps [.regs, .glb, .svc, .sch, .fab, .ntr, .med, .xlt, .slu, .obs, .free, .plain] d v3 := (.ite (.step (onRunnel_keeps _ _ _) rfl (.refl _ _)) (.refl _ _))
    extract_lets +onlyGivenNames -underBinder -merge v4
    refine .ite ?_ ?_
    · exact (.step (runnelFault_keeps _ _ _) rfl h3)
    · refine .ite ?_ ?_
      · exact (.step (runnelFault_keeps _ _ _) rfl h3)
      · refine .ite ?_ ?_
        · exact (.step (runnelFault_keeps _ _ _) rfl h3)
        · split
          · exact (.step (runnelFault_keeps _ _ _) rfl h3)
          · extract_lets +onlyGivenNames -underBinder -merge v7
            extract_lets +onlyGivenNames -underBinder -merge v8
            have h8 : Safety.Keeps [.regs, .glb, .svc, .sch, .fab, .ntr, .med, .xlt, .slu, .obs, .free, .plain] d v8 := (.step (onRunnel_keeps _ _ _) rfl (.set_free rfl h3))
            extract_lets +onlyGivenNames -underBinder -merge v9
            have h9 : Safety.Keeps [.regs, .glb, .svc, .sch, .fab, .ntr, .med, .xlt, .slu, .obs, .free, .plain] d v9 := (.step (onRunnel_keeps _ _ _) rfl h8)
            exact (.ite (.step (bundleEnd_keeps _ _) rfl h9) h9)

theorem execRegisterWrite_ok (a0 a1 a2 s) : Ok [.regs, .glb, .svc, .sch, .fab, .bsn, .ntr, .med, .xlt, .slu, .twn, .pwr, .grt, .thm, .obs, .spr, .free, .plain, .base] s (execRegisterWrite a0 a1 a2 s) := by
  unfold execRegisterWrite
  refine okR (fun d => ?_)
  refine viaPort_keeps ?_
  exact (.step (ctlWrite_keeps _ _ _ _ _) rfl (.step (touch_keeps _ _) rfl (.refl _ _)))

theorem execUnmappedControlAccess_ok (a0 a1 a2 a3 s) : Ok [.regs, .glb, .svc, .fab, .obs] s (execUnmappedControlAccess a0 a1 a2 a3 s) := by
  unfold execUnmappedControlAccess
  refine okQ (fun d => ?_)
  refine viaPort_keeps ?_
  exact (.ite (.step (touch_keeps _ _) rfl (.refl _ _)) (.step (unmapped_keeps _ _) rfl (.step (touch_keeps _ _) rfl (.refl _ _))))

theorem execLowHalfRead_ok (a0 a1 s) : Ok [.regs, .glb, .svc, .fab, .grt, .obs, .free, .plain] s (execLowHalfRead a0 a1 s) := by
  unfold execLowHalfRead
  refine okQ (fun d => ?_)
  refine viaPort_keeps ?_
  exact (.ite (.step (touch_keeps _ _) rfl (.refl _ _)) (.step (ctlRead_keeps _ _ _) rfl (.step (touch_keeps _ _) rfl (.refl _ _))))

theorem execTick_ok (a0 s) : Ok [.regs, .glb, .svc, .sch, .fab, .bsn, .ntr, .med, .xlt, .slu, .twn, .pwr, .grt, .thm, .obs, .plain, .base, .tick] s (execTick a0 s) := by
  unfold execTick
  refine okR (fun d => ?_)
  exact (.step (tickStep_keeps _ _) rfl (.refl _ _))

theorem execDutyLevelFix_ok (s) : Ok [.regs, .glb, .svc, .sch, .fab, .bsn, .twn, .obs, .plain] s (execDutyLevelFix  s) := by
  unfold execDutyLevelFix
  refine okQ (fun d => ?_)
  exact (.step (dutyLevelFix_keeps _) rfl (.refl _ _))

theorem execSuperframeBoundary_ok (a0 a1 s) : Ok [.regs, .glb, .svc, .sch, .fab, .med, .xlt, .pwr, .grt, .obs, .spr, .plain] s (execSuperframeBoundary a0 a1 s) := by
  unfold execSuperframeBoundary
  refine okR (fun d => ?_)
  exact (.step (superframe_keeps _ _ _) rfl (.refl _ _))

theorem execEpochBoundary_ok (s) : Ok [.regs, .glb, .svc, .fab, .ntr, .grt, .obs, .plain] s (execEpochBoundary  s) := by
  unfold execEpochBoundary
  refine okR (fun d => ?_)
  exact (.step (epochStep_keeps _) rfl (.refl _ _))

theorem execEpochScheduleStart_ok (s) : Ok [.regs, .plain] s (execEpochScheduleStart  s) := by
  unfold execEpochScheduleStart
  refine okQ (fun d => ?_)
  exact (.step (epochScheduleStart_keeps _) rfl (.refl _ _))

theorem execRunnelTick_ok (a0 a1 a2 s) : Ok [.regs, .glb, .svc, .sch, .fab, .bsn, .ntr, .med, .xlt, .slu, .twn, .obs, .free, .plain] s (execRunnelTick a0 a1 a2 s) := by
  unfold execRunnelTick
  refine okR (fun d => ?_)
  exact (.step (runnelTick_keeps _ _ _ _) rfl (.refl _ _))

theorem execNop_ok (a0 s) : Ok [.regs, .glb, .svc, .sch, .fab, .ntr, .med, .xlt, .slu, .obs, .free, .plain] s (execNop a0 s) := by
  unfold execNop
  exact okR (fun d => runOp_keeps _ _ _ d)

theorem execAdd_ok (a0 a1 a2 a3 s) : Ok [.regs, .glb, .svc, .sch, .fab, .ntr, .med, .xlt, .slu, .obs, .free, .plain] s (execAdd a0 a1 a2 a3 s) := by
  unfold execAdd
  exact okR (fun d => runOp_keeps _ _ _ d)

theorem execSub_ok (a0 a1 a2 a3 s) : Ok [.regs, .glb, .svc, .sch, .fab, .ntr, .med, .xlt, .slu, .obs, .free, .plain] s (execSub a0 a1 a2 a3 s) := by
  unfold execSub
  exact okR (fun d => runOp_keeps _ _ _ d)

theorem execAndOp_ok (a0 a1 a2 a3 s) : Ok [.regs, .glb, .svc, .sch, .fab, .ntr, .med, .xlt, .slu, .obs, .free, .plain] s (execAndOp a0 a1 a2 a3 s) := by
  unfold execAndOp
  exact okR (fun d => runOp_keeps _ _ _ d)

theorem execOrOp_ok (a0 a1 a2 a3 s) : Ok [.regs, .glb, .svc, .sch, .fab, .ntr, .med, .xlt, .slu, .obs, .free, .plain] s (execOrOp a0 a1 a2 a3 s) := by
  unfold execOrOp
  exact okR (fun d => runOp_keeps _ _ _ d)

theorem execXorOp_ok (a0 a1 a2 a3 s) : Ok [.regs, .glb, .svc, .sch, .fab, .ntr, .med, .xlt, .slu, .obs, .free, .plain] s (execXorOp a0 a1 a2 a3 s) := by
  unfold execXorOp
  exact okR (fun d => runOp_keeps _ _ _ d)

theorem execAndn_ok (a0 a1 a2 a3 s) : Ok [.regs, .glb, .svc, .sch, .fab, .ntr, .med, .xlt, .slu, .obs, .free, .plain] s (execAndn a0 a1 a2 a3 s) := by
  unfold execAndn
  exact okR (fun d => runOp_keeps _ _ _ d)

theorem execShl_ok (a0 a1 a2 a3 a4 s) : Ok [.regs, .glb, .svc, .sch, .fab, .ntr, .med, .xlt, .slu, .obs, .free, .plain] s (execShl a0 a1 a2 a3 a4 s) := by
  unfold execShl
  exact okR (fun d => runOp_keeps _ _ _ d)

theorem execShr_ok (a0 a1 a2 a3 a4 s) : Ok [.regs, .glb, .svc, .sch, .fab, .ntr, .med, .xlt, .slu, .obs, .free, .plain] s (execShr a0 a1 a2 a3 a4 s) := by
  unfold execShr
  exact okR (fun d => runOp_keeps _ _ _ d)

theorem execSar_ok (a0 a1 a2 a3 a4 s) : Ok [.regs, .glb, .svc, .sch, .fab, .ntr, .med, .xlt, .slu, .obs, .free, .plain] s (execSar a0 a1 a2 a3 a4 s) := by
  unfold execSar
  exact okR (fun d => runOp_keeps _ _ _ d)

theorem execAddi_ok (a0 a1 a2 a3 s) : Ok [.regs, .glb, .svc, .sch, .fab, .ntr, .med, .xlt, .slu, .obs, .free, .plain] s (execAddi a0 a1 a2 a3 s) := by
  unfold execAddi
  exact okR (fun d => runOp_keeps _ _ _ d)

theorem execLdi_ok (a0 a1 a2 s) : Ok [.regs, .glb, .svc, .sch, .fab, .ntr, .med, .xlt, .slu, .obs, .free, .plain] s (execLdi a0 a1 a2 s) := by
  unfold execLdi
  exact okR (fun d => runOp_keeps _ _ _ d)

theorem execExtr_ok (a0 a1 a2 a3 s) : Ok [.regs, .glb, .svc, .sch, .fab, .ntr, .med, .xlt, .slu, .obs, .free, .plain] s (execExtr a0 a1 a2 a3 s) := by
  unfold execExtr
  exact okR (fun d => runOp_keeps _ _ _ d)

theorem execIns_ok (a0 a1 a2 a3 s) : Ok [.regs, .glb, .svc, .sch, .fab, .ntr, .med, .xlt, .slu, .obs, .free, .plain] s (execIns a0 a1 a2 a3 s) := by
  unfold execIns
  exact okR (fun d => runOp_keeps _ _ _ d)

theorem execMul_ok (a0 a1 a2 a3 s) : Ok [.regs, .glb, .svc, .sch, .fab, .ntr, .med, .xlt, .slu, .obs, .free, .plain] s (execMul a0 a1 a2 a3 s) := by
  unfold execMul
  exact okR (fun d => runOp_keeps _ _ _ d)

theorem execMulh_ok (a0 a1 a2 a3 s) : Ok [.regs, .glb, .svc, .sch, .fab, .ntr, .med, .xlt, .slu, .obs, .free, .plain] s (execMulh a0 a1 a2 a3 s) := by
  unfold execMulh
  exact okR (fun d => runOp_keeps _ _ _ d)

theorem execCmpeq_ok (a0 a1 a2 a3 s) : Ok [.regs, .glb, .svc, .sch, .fab, .ntr, .med, .xlt, .slu, .obs, .free, .plain] s (execCmpeq a0 a1 a2 a3 s) := by
  unfold execCmpeq
  exact okR (fun d => runOp_keeps _ _ _ d)

theorem execCmpne_ok (a0 a1 a2 a3 s) : Ok [.regs, .glb, .svc, .sch, .fab, .ntr, .med, .xlt, .slu, .obs, .free, .plain] s (execCmpne a0 a1 a2 a3 s) := by
  unfold execCmpne
  exact okR (fun d => runOp_keeps _ _ _ d)

theorem execCmpltu_ok (a0 a1 a2 a3 s) : Ok [.regs, .glb, .svc, .sch, .fab, .ntr, .med, .xlt, .slu, .obs, .free, .plain] s (execCmpltu a0 a1 a2 a3 s) := by
  unfold execCmpltu
  exact okR (fun d => runOp_keeps _ _ _ d)

theorem execCmplts_ok (a0 a1 a2 a3 s) : Ok [.regs, .glb, .svc, .sch, .fab, .ntr, .med, .xlt, .slu, .obs, .free, .plain] s (execCmplts a0 a1 a2 a3 s) := by
  unfold execCmplts
  exact okR (fun d => runOp_keeps _ _ _ d)

theorem execCmpeqi_ok (a0 a1 a2 a3 s) : Ok [.regs, .glb, .svc, .sch, .fab, .ntr, .med, .xlt, .slu, .obs, .free, .plain] s (execCmpeqi a0 a1 a2 a3 s) := by
  unfold execCmpeqi
  exact okR (fun d => runOp_keeps _ _ _ d)

theorem execPlog_ok (a0 a1 a2 a3 a4 s) : Ok [.regs, .glb, .svc, .sch, .fab, .ntr, .med, .xlt, .slu, .obs, .free, .plain] s (execPlog a0 a1 a2 a3 a4 s) := by
  unfold execPlog
  exact okR (fun d => runOp_keeps _ _ _ d)

theorem execSel_ok (a0 a1 a2 a3 a4 s) : Ok [.regs, .glb, .svc, .sch, .fab, .ntr, .med, .xlt, .slu, .obs, .free, .plain] s (execSel a0 a1 a2 a3 a4 s) := by
  unfold execSel
  exact okR (fun d => runOp_keeps _ _ _ d)

theorem execPopc_ok (a0 a1 a2 s) : Ok [.regs, .glb, .svc, .sch, .fab, .ntr, .med, .xlt, .slu, .obs, .free, .plain] s (execPopc a0 a1 a2 s) := by
  unfold execPopc
  exact okR (fun d => runOp_keeps _ _ _ d)

theorem execClz_ok (a0 a1 a2 s) : Ok [.regs, .glb, .svc, .sch, .fab, .ntr, .med, .xlt, .slu, .obs, .free, .plain] s (execClz a0 a1 a2 s) := by
  unfold execClz
  exact okR (fun d => runOp_keeps _ _ _ d)

theorem execBr_ok (a0 a1 s) : Ok [.regs, .glb, .svc, .sch, .fab, .ntr, .med, .xlt, .slu, .obs, .free, .plain] s (execBr a0 a1 s) := by
  unfold execBr
  exact okR (fun d => runOp_keeps _ _ _ d)

theorem execCall_ok (a0 a1 s) : Ok [.regs, .glb, .svc, .sch, .fab, .ntr, .med, .xlt, .slu, .obs, .free, .plain] s (execCall a0 a1 s) := by
  unfold execCall
  exact okR (fun d => runOp_keeps _ _ _ d)

theorem execCallx_ok (a0 a1 s) : Ok [.regs, .glb, .svc, .sch, .fab, .ntr, .med, .xlt, .slu, .obs, .free, .plain] s (execCallx a0 a1 s) := by
  unfold execCallx
  exact okR (fun d => runOp_keeps _ _ _ d)

theorem execRet_ok (a0 s) : Ok [.regs, .glb, .svc, .sch, .fab, .ntr, .med, .xlt, .slu, .obs, .free, .plain] s (execRet a0 s) := by
  unfold execRet
  exact okR (fun d => runOp_keeps _ _ _ d)

theorem execLoopOp_ok (a0 a1 a2 s) : Ok [.regs, .glb, .svc, .sch, .fab, .ntr, .med, .xlt, .slu, .obs, .free, .plain] s (execLoopOp a0 a1 a2 s) := by
  unfold execLoopOp
  exact okR (fun d => runOp_keeps _ _ _ d)

theorem execTexit_ok (a0 s) : Ok [.regs, .glb, .svc, .sch, .fab, .ntr, .med, .xlt, .slu, .obs, .free, .plain] s (execTexit a0 s) := by
  unfold execTexit
  exact okR (fun d => runOp_keeps _ _ _ d)

theorem execLd8_ok (a0 a1 a2 a3 s) : Ok [.regs, .glb, .svc, .sch, .fab, .ntr, .med, .xlt, .slu, .obs, .free, .plain] s (execLd8 a0 a1 a2 a3 s) := by
  unfold execLd8
  exact okR (fun d => runOp_keeps _ _ _ d)

theorem execLd16_ok (a0 a1 a2 a3 s) : Ok [.regs, .glb, .svc, .sch, .fab, .ntr, .med, .xlt, .slu, .obs, .free, .plain] s (execLd16 a0 a1 a2 a3 s) := by
  unfold execLd16
  exact okR (fun d => runOp_keeps _ _ _ d)

theorem execLd32_ok (a0 a1 a2 a3 s) : Ok [.regs, .glb, .svc, .sch, .fab, .ntr, .med, .xlt, .slu, .obs, .free, .plain] s (execLd32 a0 a1 a2 a3 s) := by
  unfold execLd32
  exact okR (fun d => runOp_keeps _ _ _ d)

theorem execLd64_ok (a0 a1 a2 a3 s) : Ok [.regs, .glb, .svc, .sch, .fab, .ntr, .med, .xlt, .slu, .obs, .free, .plain] s (execLd64 a0 a1 a2 a3 s) := by
  unfold execLd64
  exact okR (fun d => runOp_keeps _ _ _ d)

theorem execSt8_ok (a0 a1 a2 a3 s) : Ok [.regs, .glb, .svc, .sch, .fab, .ntr, .med, .xlt, .slu, .obs, .free, .plain] s (execSt8 a0 a1 a2 a3 s) := by
  unfold execSt8
  exact okR (fun d => runOp_keeps _ _ _ d)

theorem execSt16_ok (a0 a1 a2 a3 s) : Ok [.regs, .glb, .svc, .sch, .fab, .ntr, .med, .xlt, .slu, .obs, .free, .plain] s (execSt16 a0 a1 a2 a3 s) := by
  unfold execSt16
  exact okR (fun d => runOp_keeps _ _ _ d)

theorem execSt32_ok (a0 a1 a2 a3 s) : Ok [.regs, .glb, .svc, .sch, .fab, .ntr, .med, .xlt, .slu, .obs, .free, .plain] s (execSt32 a0 a1 a2 a3 s) := by
  unfold execSt32
  exact okR (fun d => runOp_keeps _ _ _ d)

theorem execSt64_ok (a0 a1 a2 a3 s) : Ok [.regs, .glb, .svc, .sch, .fab, .ntr, .med, .xlt, .slu, .obs, .free, .plain] s (execSt64 a0 a1 a2 a3 s) := by
  unfold execSt64
  exact okR (fun d => runOp_keeps _ _ _ d)

theorem execLdp_ok (a0 a1 a2 a3 s) : Ok [.regs, .glb, .svc, .sch, .fab, .ntr, .med, .xlt, .slu, .obs, .free, .plain] s (execLdp a0 a1 a2 a3 s) := by
  unfold execLdp
  exact okR (fun d => runOp_keeps _ _ _ d)

theorem execStp_ok (a0 a1 a2 a3 s) : Ok [.regs, .glb, .svc, .sch, .fab, .ntr, .med, .xlt, .slu, .obs, .free, .plain] s (execStp a0 a1 a2 a3 s) := by
  unfold execStp
  exact okR (fun d => runOp_keeps _ _ _ d)

theorem execSlotpop_ok (a0 a1 a2 s) : Ok [.regs, .glb, .svc, .sch, .fab, .ntr, .med, .xlt, .slu, .obs, .free, .plain] s (execSlotpop a0 a1 a2 s) := by
  unfold execSlotpop
  exact okR (fun d => runOp_keeps _ _ _ d)

theorem execMpost_ok (a0 a1 a2 a3 s) : Ok [.regs, .glb, .svc, .sch, .fab, .ntr, .med, .xlt, .slu, .obs, .free, .plain] s (execMpost a0 a1 a2 a3 s) := by
  unfold execMpost
  exact okR (fun d => runOp_keeps _ _ _ d)

theorem execMpop_ok (a0 a1 a2 s) : Ok [.regs, .glb, .svc, .sch, .fab, .ntr, .med, .xlt, .slu, .obs, .free, .plain] s (execMpop a0 a1 a2 s) := by
  unfold execMpop
  exact okR (fun d => runOp_keeps _ _ _ d)

theorem execRdtk_ok (a0 a1 s) : Ok [.regs, .glb, .svc, .sch, .fab, .ntr, .med, .xlt, .slu, .obs, .free, .plain] s (execRdtk a0 a1 s) := by
  unfold execRdtk
  exact okR (fun d => runOp_keeps _ _ _ d)

theorem execCnt_ok (a0 a1 s) : Ok [.regs, .glb, .svc, .sch, .fab, .ntr, .med, .xlt, .slu, .obs, .free, .plain] s (execCnt a0 a1 s) := by
  unfold execCnt
  exact okR (fun d => runOp_keeps _ _ _ d)

theorem execMcmd_ok (a0 a1 a2 a3 s) : Ok [.regs, .glb, .svc, .sch, .fab, .ntr, .med, .xlt, .slu, .obs, .free, .plain] s (execMcmd a0 a1 a2 a3 s) := by
  unfold execMcmd
  exact okR (fun d => runOp_keeps _ _ _ d)

theorem execMrb_ok (a0 a1 a2 a3 s) : Ok [.regs, .glb, .svc, .sch, .fab, .ntr, .med, .xlt, .slu, .obs, .free, .plain] s (execMrb a0 a1 a2 a3 s) := by
  unfold execMrb
  exact okR (fun d => runOp_keeps _ _ _ d)

theorem execMstat_ok (a0 a1 a2 a3 s) : Ok [.regs, .glb, .svc, .sch, .fab, .ntr, .med, .xlt, .slu, .obs, .free, .plain] s (execMstat a0 a1 a2 a3 s) := by
  unfold execMstat
  exact okR (fun d => runOp_keeps _ _ _ d)

theorem execMdin_ok (a0 a1 a2 a3 s) : Ok [.regs, .glb, .svc, .sch, .fab, .ntr, .med, .xlt, .slu, .obs, .free, .plain] s (execMdin a0 a1 a2 a3 s) := by
  unfold execMdin
  exact okR (fun d => runOp_keeps _ _ _ d)

theorem execMdout_ok (a0 a1 a2 a3 a4 s) : Ok [.regs, .glb, .svc, .sch, .fab, .ntr, .med, .xlt, .slu, .obs, .free, .plain] s (execMdout a0 a1 a2 a3 a4 s) := by
  unfold execMdout
  exact okR (fun d => runOp_keeps _ _ _ d)

theorem execMlog_ok (a0 a1 a2 a3 s) : Ok [.regs, .glb, .svc, .sch, .fab, .ntr, .med, .xlt, .slu, .obs, .free, .plain] s (execMlog a0 a1 a2 a3 s) := by
  unfold execMlog
  exact okR (fun d => runOp_keeps _ _ _ d)

theorem execXmov_ok (a0 a1 a2 s) : Ok [.regs, .glb, .svc, .sch, .fab, .ntr, .med, .xlt, .slu, .obs, .free, .plain] s (execXmov a0 a1 a2 s) := by
  unfold execXmov
  exact okR (fun d => runOp_keeps _ _ _ d)

theorem execXpoll_ok (a0 a1 a2 s) : Ok [.regs, .glb, .svc, .sch, .fab, .ntr, .med, .xlt, .slu, .obs, .free, .plain] s (execXpoll a0 a1 a2 s) := by
  unfold execXpoll
  exact okR (fun d => runOp_keeps _ _ _ d)

theorem execXferComplete_ok (a0 a1 a2 a3 a4 s) : Ok [.regs, .glb, .svc, .sch, .fab, .bsn, .ntr, .med, .xlt, .slu, .twn, .obs, .free, .plain] s (execXferComplete a0 a1 a2 a3 a4 s) := by
  unfold execXferComplete
  refine okR (fun d => ?_)
  exact (.step (xferComplete_keeps _ _ _ _ _ _ _) rfl (.refl _ _))

theorem execEngineFault_ok (a0 a1 s) : Ok [.regs, .glb, .svc, .sch, .fab, .bsn, .ntr, .med, .twn, .pwr, .grt, .obs, .free, .plain, .base] s (execEngineFault a0 a1 s) := by
  unfold execEngineFault
  refine okR (fun d => ?_)
  extract_lets +onlyGivenNames -underBinder -merge v1
  exact (.ite (.step (engineFault_keeps _ _ _) rfl (.refl _ _)) (.refl _ _))

theorem execSpareSubstituted_ok (a0 s) : Ok [.regs, .glb, .svc, .sch, .fab, .bsn, .med, .twn, .grt, .obs, .free, .plain] s (execSpareSubstituted a0 s) := by
  unfold execSpareSubstituted
  refine okR (fun d => ?_)
  exact (.step (spareSubstituted_keeps _ _) rfl (.refl _ _))

theorem execWardenRecordExpire_ok (s) : Ok [.sch] s (execWardenRecordExpire  s) := by
  unfold execWardenRecordExpire
  refine okQ (fun d => ?_)
  exact (.step (recordsExpire_keeps _) rfl (.refl _ _))

theorem execWardenDisagreement_ok (s) : Ok [.regs, .glb, .svc, .sch, .fab, .bsn, .ntr, .med, .twn, .pwr, .grt, .obs, .free, .plain, .base] s (execWardenDisagreement  s) := by
  unfold execWardenDisagreement
  refine okR (fun d => ?_)
  exact (.step (wardenDisagrees_keeps _) rfl (.refl _ _))

theorem execSchCycClr_ok (a0 s) : Ok [.regs, .svc, .plain] s (execSchCycClr a0 s) := by
  unfold execSchCycClr
  refine okQ (fun d => ?_)
  refine viaPort_keeps ?_
  exact (.step (schCycClear_keeps _) rfl (.step (touch_keeps _ _) rfl (.refl _ _)))

theorem execDieOperationComplete_ok (a0 a1 a2 s) : Ok [.regs, .glb, .svc, .fab, .bsn, .ntr, .med, .xlt, .slu, .twn, .pwr, .grt, .obs, .free, .plain, .base] s (execDieOperationComplete a0 a1 a2 s) := by
  unfold execDieOperationComplete
  refine okR (fun d => ?_)
  exact (.step (dieOpComplete_keeps _ _ _) rfl (.refl _ _))

theorem execEraseSuspend_ok (a0 a1 a2 s) : Ok [.regs, .glb, .svc, .fab, .bsn, .ntr, .med, .xlt, .slu, .twn, .pwr, .grt, .obs, .plain, .base] s (execEraseSuspend a0 a1 a2 s) := by
  unfold execEraseSuspend
  refine okR (fun d => ?_)
  exact (.step (eraseSuspend_keeps _ _ _) rfl (.refl _ _))

theorem execBlankCheck_ok (a0 a1 a2 s) : Ok [.regs, .glb, .svc, .fab, .bsn, .ntr, .med, .xlt, .slu, .twn, .pwr, .grt, .obs, .plain, .base] s (execBlankCheck a0 a1 a2 s) := by
  unfold execBlankCheck
  refine okR (fun d => ?_)
  exact (.step (blankCheck_keeps _ _ _) rfl (.refl _ _))

theorem execBusyTimeout_ok (a0 a1 s) : Ok [.regs, .glb, .svc, .fab, .bsn, .ntr, .med, .xlt, .slu, .twn, .pwr, .grt, .obs, .plain, .base] s (execBusyTimeout a0 a1 s) := by
  unfold execBusyTimeout
  refine okR (fun d => ?_)
  exact (.step (busyTimeout_keeps _ _) rfl (.refl _ _))

theorem execReqReceived_ok (a0 a1 a2 s) : Ok [.regs, .glb, .svc, .fab, .bsn, .obs, .plain] s (execReqReceived a0 a1 a2 s) := by
  unfold execReqReceived
  refine okQ (fun d => ?_)
  exact (.step (reqReceived_keeps _ _ _ _) rfl (.refl _ _))

theorem execReadShared_ok (a0 s) : Ok [.regs, .glb, .svc, .sch, .fab, .bsn, .ntr, .med, .slu, .twn, .obs, .plain] s (execReadShared a0 s) := by
  unfold execReadShared
  refine okQ (fun d => ?_)
  exact (.step (actOp_keeps _ _ _) rfl (.refl _ _))

theorem execReadOwn_ok (a0 s) : Ok [.regs, .glb, .svc, .sch, .fab, .bsn, .ntr, .med, .slu, .twn, .obs, .plain] s (execReadOwn a0 s) := by
  unfold execReadOwn
  refine okQ (fun d => ?_)
  exact (.step (actOp_keeps _ _ _) rfl (.refl _ _))

theorem execUpgrade_ok (a0 s) : Ok [.regs, .glb, .svc, .sch, .fab, .bsn, .ntr, .med, .slu, .twn, .obs, .plain] s (execUpgrade a0 s) := by
  unfold execUpgrade
  refine okQ (fun d => ?_)
  exact (.step (actOp_keeps _ _ _) rfl (.refl _ _))

theorem execWriteLine_ok (a0 s) : Ok [.regs, .glb, .svc, .sch, .fab, .bsn, .ntr, .med, .slu, .twn, .obs, .plain] s (execWriteLine a0 s) := by
  unfold execWriteLine
  refine okQ (fun d => ?_)
  exact (.step (actOp_keeps _ _ _) rfl (.refl _ _))

theorem execWritePartial_ok (a0 s) : Ok [.regs, .glb, .svc, .sch, .fab, .bsn, .ntr, .med, .slu, .twn, .obs, .plain] s (execWritePartial a0 s) := by
  unfold execWritePartial
  refine okQ (fun d => ?_)
  exact (.step (actOp_keeps _ _ _) rfl (.refl _ _))

theorem execWriteBack_ok (a0 s) : Ok [.regs, .glb, .svc, .sch, .fab, .bsn, .ntr, .med, .slu, .twn, .obs, .plain] s (execWriteBack a0 s) := by
  unfold execWriteBack
  refine okQ (fun d => ?_)
  exact (.step (actOp_keeps _ _ _) rfl (.refl _ _))

theorem execEvictClean_ok (a0 s) : Ok [.regs, .glb, .svc, .sch, .fab, .bsn, .ntr, .med, .slu, .twn, .obs, .plain] s (execEvictClean a0 s) := by
  unfold execEvictClean
  refine okQ (fun d => ?_)
  exact (.step (actOp_keeps _ _ _) rfl (.refl _ _))

theorem execReserveRead_ok (a0 s) : Ok [.regs, .glb, .svc, .sch, .fab, .bsn, .ntr, .med, .slu, .twn, .obs, .plain] s (execReserveRead a0 s) := by
  unfold execReserveRead
  refine okQ (fun d => ?_)
  exact (.step (actOp_keeps _ _ _) rfl (.refl _ _))

theorem execCondWrite_ok (a0 s) : Ok [.regs, .glb, .svc, .sch, .fab, .bsn, .ntr, .med, .slu, .twn, .obs, .plain] s (execCondWrite a0 s) := by
  unfold execCondWrite
  refine okQ (fun d => ?_)
  exact (.step (actOp_keeps _ _ _) rfl (.refl _ _))

theorem execBarrier_ok (a0 s) : Ok [.regs, .glb, .svc, .fab, .bsn, .obs] s (execBarrier a0 s) := by
  unfold execBarrier
  refine okQ (fun d => ?_)
  exact (.step (barrierTry_keeps _ _) rfl (.refl _ _))

theorem execReservedRequest_ok (a0 a1 s) : Ok [.regs, .glb, .svc, .fab, .bsn, .obs, .plain] s (execReservedRequest a0 a1 s) := by
  unfold execReservedRequest
  refine okQ (fun d => ?_)
  exact (.step (reservedReq_keeps _ _ _) rfl (.refl _ _))

theorem execReissuedRequest_ok (a0 a1 a2 s) : Ok [.regs, .glb, .svc, .sch, .fab, .bsn, .twn, .obs, .plain] s (execReissuedRequest a0 a1 a2 s) := by
  unfold execReissuedRequest
  refine okR (fun d => ?_)
  split
  · exact (.refl _ _)
  · exact (.ite (.step (admitReq_keeps _ _) rfl (.refl _ _)) (.refl _ _))

theorem execAdmission_ok (a0 a1 a2 s) : Ok [.regs, .glb, .svc, .sch, .fab, .bsn, .twn, .obs, .plain] s (execAdmission a0 a1 a2 s) := by
  unfold execAdmission
  refine okR (fun d => ?_)
  split
  · exact (.refl _ _)
  · exact (.step (admitReq_keeps _ _) rfl (.refl _ _))

theorem execWindowResolution_ok (a0 s) : Ok [.regs, .glb, .svc, .sch, .fab, .bsn, .ntr, .med, .slu, .twn, .obs, .plain] s (execWindowResolution a0 s) := by
  unfold execWindowResolution
  refine okQ (fun d => ?_)
  exact (.step (windowResolution_keeps _ _) rfl (.refl _ _))

theorem execActivation_ok (a0 a1 a2 s) : Ok [.regs, .glb, .svc, .sch, .fab, .bsn, .ntr, .med, .slu, .twn, .grt, .obs, .plain] s (execActivation a0 a1 a2 s) := by
  unfold execActivation
  refine okQ (fun d => ?_)
  extract_lets +onlyGivenNames -underBinder -merge v1
  have h1 : Safety.Keeps [.regs, .glb, .svc, .sch, .fab, .bsn, .ntr, .med, .slu, .twn, .grt, .obs, .plain] d v1 := (.step (readSet_keeps _ _ _) rfl (.refl _ _))
  split
  · exact h1
  · exact (.step (activate_keeps _ _) rfl (.step (onT_keeps _ _ _) rfl h1))

theorem execRebind_ok (a0 s) : Ok [.regs, .glb, .svc, .sch, .fab, .bsn, .ntr, .med, .slu, .twn, .obs, .plain] s (execRebind a0 s) := by
  unfold execRebind
  refine okQ (fun d => ?_)
  exact (.step (rebindTry_keeps _ _) rfl (.refl _ _))

theorem execWayAllocation_ok (a0 s) : Ok [.regs, .glb, .svc, .sch, .fab, .bsn, .ntr, .med, .slu, .twn, .grt, .obs, .plain] s (execWayAllocation a0 s) := by
  unfold execWayAllocation
  refine okQ (fun d => ?_)
  exact (.step (wayTry_keeps _ _ _) rfl (.refl _ _))

theorem execSnpRspI_ok (a0 a1 a2 a3 s) : Ok [.regs, .glb, .svc, .sch, .fab, .bsn, .ntr, .med, .slu, .twn, .obs, .plain] s (execSnpRspI a0 a1 a2 a3 s) := by
  unfold execSnpRspI
  refine okQ (fun d => ?_)
  exact (.step (snpRsp_keeps _ _ _ _ _ _) rfl (.refl _ _))

theorem execSnpRspFwdS_ok (a0 a1 a2 a3 s) : Ok [.regs, .glb, .svc, .sch, .fab, .bsn, .ntr, .med, .slu, .twn, .obs, .plain] s (execSnpRspFwdS a0 a1 a2 a3 s) := by
  unfold execSnpRspFwdS
  refine okQ (fun d => ?_)
  exact (.step (snpRsp_keeps _ _ _ _ _ _) rfl (.refl _ _))

theorem execSnpRspFwdI_ok (a0 a1 a2 a3 s) : Ok [.regs, .glb, .svc, .sch, .fab, .bsn, .ntr, .med, .slu, .twn, .obs, .plain] s (execSnpRspFwdI a0 a1 a2 a3 s) := by
  unfold execSnpRspFwdI
  refine okQ (fun d => ?_)
  exact (.step (snpRsp_keeps _ _ _ _ _ _) rfl (.refl _ _))

theorem execSnpRspIData_ok (a0 a1 a2 a3 s) : Ok [.regs, .glb, .svc, .sch, .fab, .bsn, .ntr, .med, .slu, .twn, .obs, .plain] s (execSnpRspIData a0 a1 a2 a3 s) := by
  unfold execSnpRspIData
  refine okQ (fun d => ?_)
  exact (.step (snpRsp_keeps _ _ _ _ _ _) rfl (.refl _ _))

theorem execDataWr_ok (a0 a1 a2 a3 a4 a5 s) : Ok [.regs, .glb, .svc, .sch, .fab, .bsn, .ntr, .med, .slu, .twn, .obs, .plain] s (execDataWr a0 a1 a2 a3 a4 a5 s) := by
  unfold execDataWr
  refine okQ (fun d => ?_)
  exact (.step (dataWr_keeps _ _ _ _ _ _ _) rfl (.refl _ _))

theorem execDataSnp_ok (a0 a1 a2 a3 a4 s) : Ok [.regs, .glb, .svc, .sch, .fab, .bsn, .ntr, .med, .slu, .twn, .obs, .plain] s (execDataSnp a0 a1 a2 a3 a4 s) := by
  unfold execDataSnp
  refine okQ (fun d => ?_)
  exact (.step (dataSnp_keeps _ _ _ _ _ _) rfl (.refl _ _))

theorem execDepart_ok (a0 a1 s) : Ok [.regs, .glb, .svc, .fab, .bsn, .slu, .obs, .plain] s (execDepart a0 a1 s) := by
  unfold execDepart
  refine okQ (fun d => ?_)
  exact (.step (departCmd_keeps _ _ _) rfl (.refl _ _))

theorem execDown_ok (a0 a1 a2 s) : Ok [.regs, .glb, .svc, .sch, .fab, .bsn, .ntr, .med, .slu, .twn, .obs, .plain] s (execDown a0 a1 a2 s) := by
  unfold execDown
  refine okQ (fun d => ?_)
  unfold received
  beta_reduce
  exact (.ite (.refl _ _) (.ite (.step (portError_keeps _ _ _ _ _) rfl (.step (setB_keeps _ _ _) rfl (.refl _ _))) (.ite (.step (giveCredit_keeps _ _ _) rfl (.step (takeCredit_keeps _ _ _) rfl (.step (portError_keeps _ _ _ _ _) rfl (.step (setB_keeps _ _ _) rfl (.refl _ _))))) (.ite (.ite (.step (declareDead_keeps _ _ _) rfl (.refl _ _)) (.step (protoError_keeps _ _ _ _ _ _) rfl (.refl _ _))) (.step (giveCredit_keeps _ _ _) rfl (.ite (.step (declareDead_keeps _ _ _) rfl (.step (takeCredit_keeps _ _ _) rfl (.refl _ _))) (.step (protoError_keeps _ _ _ _ _ _) rfl (.step (takeCredit_keeps _ _ _) rfl (.refl _ _)))))))))

theorem execReservedAgentEvt_ok (a0 a1 a2 s) : Ok [.regs, .glb, .svc, .fab, .obs, .plain] s (execReservedAgentEvt a0 a1 a2 s) := by
  unfold execReservedAgentEvt
  refine okQ (fun d => ?_)
  unfold received
  exact (.ite (.refl _ _) (.ite (.step (portError_keeps _ _ _ _ _) rfl (.step (setB_keeps _ _ _) rfl (.refl _ _))) (.ite (.step (giveCredit_keeps _ _ _) rfl (.step (takeCredit_keeps _ _ _) rfl (.step (portError_keeps _ _ _ _ _) rfl (.step (setB_keeps _ _ _) rfl (.refl _ _))))) (.ite (.step (protoError_keeps _ _ _ _ _ _) rfl (.refl _ _)) (.step (giveCredit_keeps _ _ _) rfl (.step (protoError_keeps _ _ _ _ _ _) rfl (.step (takeCredit_keeps _ _ _) rfl (.refl _ _))))))))

theorem execSnoopTimeout_ok (a0 a1 s) : Ok [.regs, .glb, .svc, .sch, .fab, .bsn, .ntr, .med, .slu, .twn, .obs, .plain] s (execSnoopTimeout a0 a1 s) := by
  unfold execSnoopTimeout
  refine okQ (fun d => ?_)
  split
  · exact (.refl _ _)
  · exact (.ite (.refl _ _) (.step (declareDead_keeps _ _ _) rfl (.step (raiseN_keeps _ _ _) rfl (.step (setB_keeps _ _ _) rfl (.refl _ _)))))

theorem execPullTimeout_ok (a0 s) : Ok [.regs, .glb, .svc, .sch, .fab, .bsn, .ntr, .med, .slu, .twn, .obs, .plain] s (execPullTimeout a0 s) := by
  unfold execPullTimeout
  refine okQ (fun d => ?_)
  extract_lets +onlyGivenNames -underBinder -merge v1
  exact (.ite (.refl _ _) (.step (declareDead_keeps _ _ _) rfl (.step (raiseN_keeps _ _ _) rfl (.step (setB_keeps _ _ _) rfl (.refl _ _)))))

theorem execSkinkWalkStep_ok (a0 s) : Ok [.regs, .glb, .svc, .sch, .fab, .bsn, .ntr, .med, .slu, .twn, .grt, .obs, .plain] s (execSkinkWalkStep a0 s) := by
  unfold execSkinkWalkStep
  refine okQ (fun d => ?_)
  extract_lets +onlyGivenNames -underBinder -merge v1
  have h1 : Safety.Keeps [.regs, .glb, .svc, .sch, .fab, .bsn, .ntr, .med, .slu, .twn, .grt, .obs, .plain] d v1 := (.step (sfErrors_keeps _ _) rfl (.refl _ _))
  extract_lets +onlyGivenNames -underBinder -merge v2
  have h2 : Safety.Keeps [.regs, .glb, .svc, .sch, .fab, .bsn, .ntr, .med, .slu, .twn, .grt, .obs, .plain] d v2 := (.foldl h1 fun x3 _ h3 => (.forEach h3 fun _ x4 h4 => (.step (readSet_keeps _ _ _) rfl h4)))
  exact (.foldl h2 fun x5 _ h5 => (.step (walkTick_keeps _ _) rfl h5))

theorem execLineLossMark_ok (a0 s) : Ok [.regs, .glb, .svc, .sch, .fab, .bsn, .ntr, .med, .slu, .twn, .obs, .plain] s (execLineLossMark a0 s) := by
  unfold execLineLossMark
  refine okQ (fun d => ?_)
  exact (.step (lossTry_keeps _ _) rfl (.refl _ _))

theorem execHtagQuarantineEnd_ok (a0 s) : Ok [.bsn] s (execHtagQuarantineEnd a0 s) := by
  unfold execHtagQuarantineEnd
  refine okQ (fun d => ?_)
  exact (.step (quarantineEnd_keeps _ _) rfl (.refl _ _))

theorem execDeclare_ok (a0 a1 s) : Ok [.regs, .glb, .svc, .sch, .fab, .bsn, .ntr, .med, .slu, .twn, .obs, .plain] s (execDeclare a0 a1 s) := by
  unfold execDeclare
  refine okQ (fun d => ?_)
  refine viaPort_keeps ?_
  exact (.step (declareCmd_keeps _ _ _) rfl (.step (touch_keeps _ _) rfl (.refl _ _)))

theorem execClear_ok (a0 a1 s) : Ok [.regs, .glb, .svc, .fab, .bsn, .twn, .obs, .plain] s (execClear a0 a1 s) := by
  unfold execClear
  refine okQ (fun d => ?_)
  refine viaPort_keeps ?_
  exact (.step (clearCmd_keeps _ _ _) rfl (.step (touch_keeps _ _) rfl (.refl _ _)))

theorem execBarrierCompletion_ok (a0 s) : Ok [.regs, .glb, .svc, .fab, .bsn, .obs] s (execBarrierCompletion a0 s) := by
  unfold execBarrierCompletion
  refine okQ (fun d => ?_)
  exact (.step (barrierTry_keeps _ _) rfl (.refl _ _))

theorem execDirtyRoomWaitEnd_ok (a0 s) : Ok [.regs, .glb, .svc, .sch, .fab, .bsn, .ntr, .med, .slu, .twn, .obs, .plain] s (execDirtyRoomWaitEnd a0 s) := by
  unfold execDirtyRoomWaitEnd
  refine okQ (fun d => ?_)
  exact (.ite (.step (commitSweep_keeps _) rfl (.refl _ _)) (.step (waitTry_keeps _ _ _) rfl (.refl _ _)))

theorem execFlitReceived_ok (a0 a1 s) : Ok [.regs, .glb, .svc, .sch, .fab, .bsn, .ntr, .med, .slu, .twn, .obs, .free, .plain] s (execFlitReceived a0 a1 s) := by
  unfold execFlitReceived
  refine okQ (fun d => ?_)
  exact (.step (flitIn_keeps _ _ _) rfl (.refl _ _))

theorem execHoldFlit_ok (a0 a1 s) : Ok [.regs, .glb, .svc, .fab, .bsn, .twn, .obs, .plain] s (execHoldFlit a0 a1 s) := by
  unfold execHoldFlit
  refine okQ (fun d => ?_)
  exact (.step (holdFlit_keeps _ _ _) rfl (.refl _ _))

theorem execNakRetryTimer_ok (a0 s) : Ok [.regs, .glb, .svc, .fab, .obs, .plain] s (execNakRetryTimer a0 s) := by
  unfold execNakRetryTimer
  refine okQ (fun d => ?_)
  extract_lets +onlyGivenNames -underBinder -merge v1
  exact (.ite (.step (nakSent_keeps _ _) rfl (.refl _ _)) (.refl _ _))

theorem execSwapReq_ok (a0 a1 s) : Ok [.fab] s (execSwapReq a0 a1 s) := by
  unfold execSwapReq
  refine okQ (fun d => ?_)
  exact (.step (swapReq_keeps _ _ _) rfl (.refl _ _))

theorem execSwapRdy_ok (a0 a1 s) : Ok [.fab] s (execSwapRdy a0 a1 s) := by
  unfold execSwapRdy
  refine okQ (fun d => ?_)
  exact (.step (swapRdy_keeps _ _ _) rfl (.refl _ _))

theorem execSwapCommit_ok (a0 a1 s) : Ok [.fab] s (execSwapCommit a0 a1 s) := by
  unfold execSwapCommit
  refine okQ (fun d => ?_)
  exact (.step (swapCommit_keeps _ _ _) rfl (.refl _ _))

theorem execHalfReq_ok (a0 a1 s) : Ok [.fab] s (execHalfReq a0 a1 s) := by
  unfold execHalfReq
  refine okQ (fun d => ?_)
  exact (.step (halfReq_keeps _ _ _) rfl (.refl _ _))

theorem execHalfCommit_ok (a0 a1 s) : Ok [.fab] s (execHalfCommit a0 a1 s) := by
  unfold execHalfCommit
  refine okQ (fun d => ?_)
  exact (.step (halfCommit_keeps _ _ _) rfl (.refl _ _))

theorem execRealign_ok (a0 s) : Ok [.regs, .glb, .svc, .fab, .obs, .plain] s (execRealign a0 s) := by
  unfold execRealign
  refine okQ (fun d => ?_)
  exact (.step (enterRealign_keeps _ _ _) rfl (.refl _ _))

theorem execLaneSwitchFrame_ok (a0 s) : Ok [.regs, .glb, .svc, .fab, .obs, .plain] s (execLaneSwitchFrame a0 s) := by
  unfold execLaneSwitchFrame
  refine okQ (fun d => ?_)
  exact (.step (laneSwitch_keeps _ _) rfl (.refl _ _))

theorem execLaneFailure_ok (a0 a1 a2 a3 s) : Ok [.regs, .glb, .svc, .fab, .obs, .plain] s (execLaneFailure a0 a1 a2 a3 s) := by
  unfold execLaneFailure
  refine okQ (fun d => ?_)
  extract_lets +onlyGivenNames -underBinder -merge v1
  extract_lets +onlyGivenNames -underBinder -merge v2
  have h2 : Safety.Keeps [.regs, .glb, .svc, .fab, .obs, .plain] d v2 := (.ite (.step (countN_keeps _ _ _) rfl (.refl _ _)) (.refl _ _))
  extract_lets +onlyGivenNames -underBinder -merge v3
  exact (.ite h2 (.step (laneFailed_keeps _ _ _) rfl h2))

theorem execSwapTimeout_ok (a0 s) : Ok [.fab] s (execSwapTimeout a0 s) := by
  unfold execSwapTimeout
  refine okQ (fun d => ?_)
  extract_lets +onlyGivenNames -underBinder -merge v1
  exact (.ite (.step (onLink_keeps _ _ _) rfl (.refl _ _)) (.refl _ _))

theorem execTrainingFramesReceived_ok (a0 a1 s) : Ok [.regs, .glb, .svc, .fab, .obs, .plain] s (execTrainingFramesReceived a0 a1 s) := by
  unfold execTrainingFramesReceived
  refine okQ (fun d => ?_)
  extract_lets +onlyGivenNames -underBinder -merge v1
  extract_lets +onlyGivenNames -underBinder -merge v2
  exact (.ite (.step (enterDown_keeps _ _) rfl (.refl _ _)) (.refl _ _))

theorem execTrainingStateExit_ok (a0 a1 a2 s) : Ok [.regs, .glb, .svc, .fab, .bsn, .twn, .obs, .plain] s (execTrainingStateExit a0 a1 a2 s) := by
  unfold execTrainingStateExit
  refine okQ (fun d => ?_)
  exact (.step (stateExit_keeps _ _ _ _ _) rfl (.refl _ _))

theorem execParam_ok (a0 a1 a2 a3 s) : Ok [.regs, .glb, .svc, .sch, .fab, .bsn, .ntr, .med, .slu, .twn, .obs, .plain] s (execParam a0 a1 a2 a3 s) := by
  unfold execParam
  refine okQ (fun d => ?_)
  exact (.ite (.refl _ _) (.ite (.step (paramPort_keeps _ _ _ _ _) rfl (.refl _ _)) (.step (paramMirror_keeps _ _) rfl (.refl _ _))))

theorem execTrainingTimeout_ok (a0 s) : Ok [.regs, .glb, .svc, .fab, .obs, .plain] s (execTrainingTimeout a0 s) := by
  unfold execTrainingTimeout
  refine okQ (fun d => ?_)
  extract_lets +onlyGivenNames -underBinder -merge v1
  extract_lets +onlyGivenNames -underBinder -merge v2
  split
  · exact (.refl _ _)
  · refine .ite ?_ ?_
    · exact (.refl _ _)
    · extract_lets +onlyGivenNames -underBinder -merge v5
      have h5 : Safety.Keeps [.regs, .glb, .svc, .fab, .obs, .plain] d v5 := (.ite (.step (setB_keeps _ _ _) rfl (.refl _ _)) (.refl _ _))
      extract_lets +onlyGivenNames -underBinder -merge v6
      have h6 : Safety.Keeps [.regs, .glb, .svc, .fab, .obs, .plain] d v6 := (.ite (.step (setB_keeps _ _ _) rfl h5) h5)
      exact (.ite (.step (enterDown_keeps _ _) rfl h6) (.step (setLt_keeps _ _ _ _) rfl h6))

theorem execDownTimeout_ok (a0 s) : Ok [.regs, .glb, .svc, .sch, .fab, .bsn, .ntr, .med, .slu, .twn, .obs, .plain] s (execDownTimeout a0 s) := by
  unfold execDownTimeout
  refine okQ (fun d => ?_)
  extract_lets +onlyGivenNames -underBinder -merge v1
  split
  · exact (.refl _ _)
  · exact (.ite (.refl _ _) (.step (giveUp_keeps _ _) rfl (.step (setB_keeps _ _ _) rfl (.refl _ _))))

theorem execFabCmdRealign_ok (a0 a1 s) : Ok [.regs, .glb, .svc, .fab, .obs, .plain] s (execFabCmdRealign a0 a1 s) := by
  unfold execFabCmdRealign
  refine okQ (fun d => ?_)
  refine viaPort_keeps ?_
  exact (.step (enterRealign_keeps _ _ _) rfl (.step (touch_keeps _ _) rfl (.refl _ _)))

theorem execTenureEnd_ok (a0 a1 s) : Ok [.regs, .glb, .svc, .fab, .bsn, .ntr, .med, .xlt, .slu, .twn, .pwr, .grt, .obs, .plain, .base] s (execTenureEnd a0 a1 s) := by
  unfold execTenureEnd
  refine okR (fun d => ?_)
  exact (.step (tenureEnd_keeps _ _ _) rfl (.refl _ _))

theorem execRefreshPreempt_ok (a0 s) : Ok [.regs, .glb, .svc, .fab, .ntr, .obs] s (execRefreshPreempt a0 s) := by
  unfold execRefreshPreempt
  refine okQ (fun d => ?_)
  exact (.step (refreshTakes_keeps _ _ _) rfl (.refl _ _))

theorem execJtagPreempt_ok (a0 s) : Ok [.regs, .glb, .svc, .fab, .bsn, .ntr, .obs] s (execJtagPreempt a0 s) := by
  unfold execJtagPreempt
  refine okQ (fun d => ?_)
  exact (.step (jtagTakes_keeps _ _ _) rfl (.refl _ _))

theorem execFrameAllocation_ok (a0 s) : Ok [.regs, .glb, .svc, .sch, .fab, .bsn, .ntr, .med, .slu, .twn, .obs, .plain] s (execFrameAllocation a0 s) := by
  unfold execFrameAllocation
  refine okQ (fun d => ?_)
  exact (.step (waitTry_keeps _ _ _) rfl (.refl _ _))

theorem execMergeWindowExpiry_ok (a0 a1 s) : Ok [.regs, .glb, .svc, .fab, .bsn, .ntr, .slu, .twn, .obs, .plain] s (execMergeWindowExpiry a0 a1 s) := by
  unfold execMergeWindowExpiry
  refine okQ (fun d => ?_)
  exact (.step (mergeExpire_keeps _ _ _) rfl (.refl _ _))

theorem execScrubGo_ok (a0 s) : Ok [.regs, .svc, .ntr, .plain] s (execScrubGo a0 s) := by
  unfold execScrubGo
  refine okQ (fun d => ?_)
  refine viaPort_keeps ?_
  exact (.step (scrubGo_keeps _) rfl (.step (touch_keeps _ _) rfl (.refl _ _)))

theorem execProbeGo_ok (a0 a1 s) : Ok [.regs, .svc, .plain] s (execProbeGo a0 a1 s) := by
  unfold execProbeGo
  refine okQ (fun d => ?_)
  refine viaPort_keeps ?_
  exact (.step (probe_keeps _) rfl (.step (setF_keeps _ _ _) rfl (.step (touch_keeps _ _) rfl (.refl _ _))))

theorem execRekeyWalkStep_ok (s) : Ok [.regs, .glb, .svc, .fab, .ntr, .slu, .obs, .plain] s (execRekeyWalkStep  s) := by
  unfold execRekeyWalkStep
  refine okQ (fun d => ?_)
  exact (.step (rekeyWalkStep_keeps _) rfl (.refl _ _))

theorem execEntropyHealthFailure_ok (s) : Ok [.regs, .glb, .svc, .fab, .obs, .plain] s (execEntropyHealthFailure  s) := by
  unfold execEntropyHealthFailure
  refine okQ (fun d => ?_)
  exact (.step (entropyFails_keeps _) rfl (.refl _ _))

theorem execInv_ok (a0 s) : Ok [.regs, .glb, .svc, .fab, .slu, .obs] s (execInv a0 s) := by
  unfold execInv
  refine okQ (fun d => ?_)
  refine viaPort_keeps ?_
  exact (.step (wcInvalidate_keeps _) rfl (.step (touch_keeps _ _) rfl (.refl _ _)))

theorem execKey_ok (a0 a1 a2 a3 s) : Ok [.regs, .glb, .svc, .fab, .slu, .obs] s (execKey a0 a1 a2 a3 s) := by
  unfold execKey
  refine okQ (fun d => ?_)
  unfold viaPage
  beta_reduce
  refine .ite ?_ ?_
  · exact (.ite (.ite (.step (macKeyAgent_keeps _ _ _ _) rfl (.refl _ _)) (.step (macKeyWord_keeps _ _ _ _) rfl (.refl _ _))) (.refl _ _))
  · unfold viaPort
    beta_reduce
    split
    · exact (.refl _ _)
    · exact (.refl _ _)
    · exact (.refl _ _)
    · exact (.ite (.step (macKeyAgent_keeps _ _ _ _) rfl (.step (touch_keeps _ _) rfl (.refl _ _))) (.step (macKeyWord_keeps _ _ _ _) rfl (.step (touch_keeps _ _) rfl (.refl _ _))))

theorem execFirst_ok (a0 a1 a2 s) : Ok [.regs, .glb, .svc, .fab, .slu, .obs, .free] s (execFirst a0 a1 a2 s) := by
  unfold execFirst
  refine okQ (fun d => ?_)
  unfold viaPage
  refine .ite ?_ ?_
  · exact (.ite (.step (macStep_keeps _ _ _ _ _) rfl (.refl _ _)) (.refl _ _))
  · unfold viaPort
    split
    · exact (.refl _ _)
    · exact (.refl _ _)
    · exact (.refl _ _)
    · exact (.step (macStep_keeps _ _ _ _ _) rfl (.step (touch_keeps _ _) rfl (.refl _ _)))

theorem execMacContinue_ok (a0 a1 s) : Ok [.regs, .glb, .svc, .fab, .slu, .obs, .free] s (execMacContinue a0 a1 s) := by
  unfold execMacContinue
  refine okQ (fun d => ?_)
  unfold viaPage
  refine .ite ?_ ?_
  · exact (.ite (.step (macStep_keeps _ _ _ _ _) rfl (.refl _ _)) (.refl _ _))
  · unfold viaPort
    split
    · exact (.refl _ _)
    · exact (.refl _ _)
    · exact (.refl _ _)
    · exact (.step (macStep_keeps _ _ _ _ _) rfl (.step (touch_keeps _ _) rfl (.refl _ _)))

theorem execLast_ok (a0 a1 a2 s) : Ok [.regs, .glb, .svc, .fab, .slu, .obs, .free] s (execLast a0 a1 a2 s) := by
  unfold execLast
  refine okQ (fun d => ?_)
  unfold viaPage
  refine .ite ?_ ?_
  · exact (.ite (.step (macStep_keeps _ _ _ _ _) rfl (.refl _ _)) (.refl _ _))
  · unfold viaPort
    split
    · exact (.refl _ _)
    · exact (.refl _ _)
    · exact (.refl _ _)
    · exact (.step (macStep_keeps _ _ _ _ _) rfl (.step (touch_keeps _ _) rfl (.refl _ _)))

theorem execKeyclr_ok (a0 s) : Ok [.regs, .glb, .svc, .fab, .slu, .obs] s (execKeyclr a0 s) := by
  unfold execKeyclr
  refine okQ (fun d => ?_)
  unfold viaPage
  refine .ite ?_ ?_
  · exact (.ite (.step (macKeyClr_keeps _ _) rfl (.refl _ _)) (.refl _ _))
  · unfold viaPort
    split
    · exact (.refl _ _)
    · exact (.refl _ _)
    · exact (.refl _ _)
    · exact (.step (macKeyClr_keeps _ _) rfl (.step (touch_keeps _ _) rfl (.refl _ _)))

theorem execMacWindowRequest_ok (a0 a1 a2 a3 s) : Ok [.regs, .glb, .svc, .fab, .bsn, .slu, .obs, .free, .plain] s (execMacWindowRequest a0 a1 a2 a3 s) := by
  unfold execMacWindowRequest
  refine okQ (fun d => ?_)
  exact (.step (macWindowRequest_keeps _ _ _ _ _) rfl (.refl _ _))

theorem execUpd_ok (a0 s) : Ok [.regs, .glb, .svc, .fab, .bsn, .ntr, .med, .slu, .twn, .obs, .plain] s (execUpd a0 s) := by
  unfold execUpd
  refine okQ (fun d => ?_)
  unfold mirRecv
  beta_reduce
  refine .ite ?_ ?_
  · exact (.refl _ _)
  · extract_lets +onlyGivenNames -underBinder -merge v1
    exact (.step (stream_keeps _ _ _) rfl (.whenD (.step (onTwn_keeps _ _) rfl (.refl _ _)) fun x2 h2 => (.step (count_keeps _ _) rfl h2)))

theorem execWmir_ok (a0 a1 s) : Ok [.regs, .glb, .svc, .fab, .bsn, .ntr, .med, .slu, .twn, .obs, .plain] s (execWmir a0 a1 s) := by
  unfold execWmir
  refine okQ (fun d => ?_)
  unfold mirRecv
  beta_reduce
  refine .ite ?_ ?_
  · exact (.refl _ _)
  · extract_lets +onlyGivenNames -underBinder -merge v1
    exact (.step (stream_keeps _ _ _) rfl (.whenD (.step (onTwn_keeps _ _) rfl (.refl _ _)) fun x2 h2 => (.step (count_keeps _ _) rfl h2)))

theorem execMirrorAck_ok (a0 s) : Ok [.regs, .glb, .svc, .sch, .fab, .bsn, .twn, .obs, .plain] s (execMirrorAck a0 s) := by
  unfold execMirrorAck
  refine okQ (fun d => ?_)
  unfold mirRecv
  beta_reduce
  refine .ite ?_ ?_
  · exact (.refl _ _)
  · extract_lets +onlyGivenNames -underBinder -merge v1
    exact (.step (ackTo_keeps _ _) rfl (.whenD (.step (onTwn_keeps _ _) rfl (.refl _ _)) fun x2 h2 => (.step (count_keeps _ _) rfl h2)))

theorem execClaim_ok (a0 s) : Ok [.regs, .glb, .svc, .sch, .fab, .bsn, .twn, .obs] s (execClaim a0 s) := by
  unfold execClaim
  refine okQ (fun d => ?_)
  unfold mirRecv
  beta_reduce
  refine .ite ?_ ?_
  · exact (.refl _ _)
  · extract_lets +onlyGivenNames -underBinder -merge v1
    exact (.step (claim_keeps _ _) rfl (.whenD (.step (onTwn_keeps _ _) rfl (.refl _ _)) fun x2 h2 => (.step (count_keeps _ _) rfl h2)))

theorem execVoid_ok (a0 a1 a2 s) : Ok [.regs, .glb, .svc, .sch, .fab, .bsn, .twn, .obs] s (execVoid a0 a1 a2 s) := by
  unfold execVoid
  refine okQ (fun d => ?_)
  unfold mirRecv
  beta_reduce
  refine .ite ?_ ?_
  · exact (.refl _ _)
  · extract_lets +onlyGivenNames -underBinder -merge v1
    exact (.step (void_keeps _ _ _ _) rfl (.whenD (.step (onTwn_keeps _ _) rfl (.refl _ _)) fun x2 h2 => (.step (count_keeps _ _) rfl h2)))

theorem execLeaf_ok (a0 a1 a2 a3 a4 s) : Ok [.regs, .glb, .svc, .sch, .fab, .bsn, .ntr, .med, .slu, .twn, .obs, .plain] s (execLeaf a0 a1 a2 a3 a4 s) := by
  unfold execLeaf
  refine okQ (fun d => ?_)
  unfold mirRecv
  beta_reduce
  refine .ite ?_ ?_
  · exact (.refl _ _)
  · extract_lets +onlyGivenNames -underBinder -merge v1
    exact (.ite (.ite (.step (stream_keeps _ _ _) rfl (.whenD (.step (onTwn_keeps _ _) rfl (.refl _ _)) fun x2 h2 => (.step (count_keeps _ _) rfl h2))) (.whenD (.step (onTwn_keeps _ _) rfl (.refl _ _)) fun x3 h3 => (.step (count_keeps _ _) rfl h3))) (.ite (.step (copySource_keeps _ _ _ _ _) rfl (.whenD (.step (onTwn_keeps _ _) rfl (.refl _ _)) fun x4 h4 => (.step (count_keeps _ _) rfl h4))) (.ite (.step (leafIn_keeps _ _ _ _ _) rfl (.whenD (.step (onTwn_keeps _ _) rfl (.refl _ _)) fun x5 h5 => (.step (count_keeps _ _) rfl h5))) (.whenD (.step (onTwn_keeps _ _) rfl (.refl _ _)) fun x6 h6 => (.step (count_keeps _ _) rfl h6)))))

theorem execLreq_ok (a0 a1 a2 a3 a4 s) : Ok [.regs, .glb, .svc, .fab, .bsn, .ntr, .med, .slu, .twn, .obs, .plain] s (execLreq a0 a1 a2 a3 a4 s) := by
  unfold execLreq
  refine okQ (fun d => ?_)
  unfold mirRecv
  beta_reduce
  refine .ite ?_ ?_
  · exact (.refl _ _)
  · extract_lets +onlyGivenNames -underBinder -merge v1
    exact (.step (stream_keeps _ _ _) rfl (.whenD (.step (onTwn_keeps _ _) rfl (.refl _ _)) fun x2 h2 => (.step (count_keeps _ _) rfl h2)))

theorem execHb_ok (a0 a1 a2 a3 a4 s) : Ok [.regs, .glb, .svc, .fab, .ntr, .med, .twn, .pwr, .grt, .obs, .plain, .base] s (execHb a0 a1 a2 a3 a4 s) := by
  unfold execHb
  refine okR (fun d => ?_)
  unfold mirRecv
  beta_reduce
  refine .ite ?_ ?_
  · exact (.refl _ _)
  · extract_lets +onlyGivenNames -underBinder -merge v1
    exact (.step (hbIn_keeps _ _ _ _) rfl (.whenD (.step (onTwn_keeps _ _) rfl (.refl _ _)) fun x2 h2 => (.step (count_keeps _ _) rfl h2)))

theorem execDecl_ok (a0 a1 a2 s) : Ok [.regs, .glb, .svc, .sch, .fab, .bsn, .ntr, .med, .slu, .twn, .obs, .plain] s (execDecl a0 a1 a2 s) := by
  unfold execDecl
  refine okQ (fun d => ?_)
  unfold mirRecv
  beta_reduce
  refine .ite ?_ ?_
  · exact (.refl _ _)
  · extract_lets +onlyGivenNames -underBinder -merge v1
    exact (.step (declIn_keeps _ _ _ _) rfl (.whenD (.step (onTwn_keeps _ _) rfl (.refl _ _)) fun x2 h2 => (.step (count_keeps _ _) rfl h2)))

theorem execHs_ok (a0 a1 s) : Ok [.regs, .glb, .svc, .fab, .bsn, .ntr, .med, .xlt, .slu, .twn, .pwr, .grt, .obs, .plain, .base] s (execHs a0 a1 s) := by
  unfold execHs
  refine okR (fun d => ?_)
  unfold mirRecv
  beta_reduce
  refine .ite ?_ ?_
  · exact (.refl _ _)
  · extract_lets +onlyGivenNames -underBinder -merge v1
    exact (.ite (.step (hsStep_keeps _ _ _) rfl (.whenD (.step (onTwn_keeps _ _) rfl (.refl _ _)) fun x2 h2 => (.step (count_keeps _ _) rfl h2))) (.whenD (.step (onTwn_keeps _ _) rfl (.refl _ _)) fun x3 h3 => (.step (count_keeps _ _) rfl h3)))

theorem execCtlDetach_ok (s) : Ok [.regs, .glb, .svc, .sch, .fab, .bsn, .ntr, .med, .slu, .twn, .grt, .obs, .plain] s (execCtlDetach  s) := by
  unfold execCtlDetach
  refine okR (fun d => ?_)
  unfold mirRecv
  beta_reduce
  refine .ite ?_ ?_
  · exact (.refl _ _)
  · extract_lets +onlyGivenNames -underBinder -merge v1
    exact (.step (partnerGone_keeps _ _) rfl (.whenD (.step (onTwn_keeps _ _) rfl (.refl _ _)) fun x2 h2 => (.step (count_keeps _ _) rfl h2)))

theorem execHandover_ok0 (s) : Ok [.regs, .glb, .svc, .fab, .twn, .grt, .obs, .plain, .base, .stay] s (execHandover  s) := by
  unfold execHandover
  refine okR (fun d => ?_)
  unfold mirRecv
  beta_reduce
  refine .ite ?_ ?_
  · exact (.refl _ _)
  · extract_lets +onlyGivenNames -underBinder -merge v1
    exact (.step (handover_keeps _) rfl (.whenD (.step (onTwn_keeps _ _) rfl (.refl _ _)) fun x2 h2 => (.step (count_keeps _ _) rfl h2)))

theorem execHandover_ok (s) : Ok [.regs, .glb, .svc, .fab, .twn, .grt, .obs, .plain, .base] s (execHandover s) := by
  obtain ⟨t, h1, h2, h3⟩ := execHandover_ok0 s
  refine ⟨t, h1, h2, .noStay h3 rfl fun hw => ?_⟩
  cases h1
  have : mirUp s.dev = false := by simp [mirUp, hw]
  simp only [mirRecv, this]
  exact (finish_keeps _ _) .stay (by decide) hw

theorem execRestoreSent_ok (s) : Ok [.regs, .glb, .svc, .fab, .twn, .obs] s (execRestoreSent  s) := by
  unfold execRestoreSent
  refine okQ (fun d => ?_)
  unfold mirRecv
  beta_reduce
  refine .ite ?_ ?_
  · exact (.refl _ _)
  · extract_lets +onlyGivenNames -underBinder -merge v1
    exact (.whenD (.step (onTwn_keeps _ _) rfl (.refl _ _)) fun x2 h2 => (.step (count_keeps _ _) rfl h2))

theorem execRetire_ok (a0 s) : Ok [.regs, .glb, .svc, .fab, .bsn, .ntr, .med, .slu, .twn, .obs, .plain] s (execRetire a0 s) := by
  unfold execRetire
  refine okQ (fun d => ?_)
  unfold mirRecv
  beta_reduce
  refine .ite ?_ ?_
  · exact (.refl _ _)
  · extract_lets +onlyGivenNames -underBinder -merge v1
    exact (.step (stream_keeps _ _ _) rfl (.whenD (.step (onTwn_keeps _ _) rfl (.refl _ _)) fun x2 h2 => (.step (count_keeps _ _) rfl h2)))

theorem execSfway_ok (a0 a1 a2 s) : Ok [.regs, .glb, .svc, .sch, .fab, .bsn, .ntr, .med, .slu, .twn, .obs, .plain] s (execSfway a0 a1 a2 s) := by
  unfold execSfway
  refine okQ (fun d => ?_)
  unfold mirRecv
  beta_reduce
  refine .ite ?_ ?_
  · exact (.refl _ _)
  · extract_lets +onlyGivenNames -underBinder -merge v1
    exact (.step (sfway_keeps _ _ _ _) rfl (.whenD (.step (onTwn_keeps _ _) rfl (.refl _ _)) fun x2 h2 => (.step (count_keeps _ _) rfl h2)))

theorem execReservedMcls_ok (a0 s) : Ok [.regs, .glb, .svc, .fab, .obs, .plain] s (execReservedMcls a0 s) := by
  unfold execReservedMcls
  refine okQ (fun d => ?_)
  exact (.ite (.refl _ _) (.step (raiseN_keeps _ _ _) rfl (.step (setF_keeps _ _ _) rfl (.step (count_keeps _ _) rfl (.step (onLink_keeps _ _ _) rfl (.refl _ _))))))

theorem execTicksyncPulse_ok (a0 s) : Ok [.regs, .glb, .svc, .fab, .twn, .obs, .plain] s (execTicksyncPulse a0 s) := by
  unfold execTicksyncPulse
  refine okQ (fun d => ?_)
  exact (.step (pulseIn_keeps _ _) rfl (.refl _ _))

theorem execPartnerLost_ok (s) : Ok [.regs, .glb, .svc, .sch, .fab, .bsn, .ntr, .med, .slu, .twn, .grt, .obs, .plain] s (execPartnerLost  s) := by
  unfold execPartnerLost
  refine okR (fun d => ?_)
  exact (.ite (.refl _ _) (.step (partnerGone_keeps _ _) rfl (.refl _ _)))

theorem execTicksyncLost_ok (s) : Ok [.regs, .glb, .svc, .fab, .twn, .obs, .plain] s (execTicksyncLost  s) := by
  unfold execTicksyncLost
  refine okQ (fun d => ?_)
  exact (.ite (.refl _ _) (.step (raiseN_keeps _ _ _) rfl (.step (setB_keeps _ _ _) rfl (.step (onTwn_keeps _ _) rfl (.refl _ _)))))

theorem execLinkLossTimeout_ok (s) : Ok [.regs, .glb, .svc, .fab, .ntr, .med, .twn, .pwr, .grt, .obs, .plain, .base] s (execLinkLossTimeout  s) := by
  unfold execLinkLossTimeout
  refine okR (fun d => ?_)
  refine .ite ?_ ?_
  · exact (.refl _ _)
  · extract_lets +onlyGivenNames -underBinder -merge v1
    have h1 : Safety.Keeps [.regs, .glb, .svc, .fab, .ntr, .med, .twn, .pwr, .grt, .obs, .plain, .base] d v1 := (.step (setF_keeps _ _ _) rfl (.refl _ _))
    exact (.ite (.step (raiseBy_keeps _ _ _ _) rfl (.step (withdraw_keeps _ _) rfl h1)) h1)

theorem execTakeoverAnnounce_ok (s) : Ok [.regs, .glb, .svc, .fab, .twn, .obs, .plain] s (execTakeoverAnnounce  s) := by
  unfold execTakeoverAnnounce
  refine okQ (fun d => ?_)
  exact (.step (announce_keeps _) rfl (.refl _ _))

theorem execReissuePhaseEnd_ok (s) : Ok [.regs, .glb, .svc, .fab, .twn, .obs, .plain] s (execReissuePhaseEnd  s) := by
  unfold execReissuePhaseEnd
  refine okQ (fun d => ?_)
  exact (.step (reissueEnd_keeps _) rfl (.refl _ _))

theorem execDetach_ok (a0 s) : Ok [.regs, .glb, .svc, .fab, .twn, .obs, .plain] s (execDetach a0 s) := by
  unfold execDetach
  refine okR (fun d => ?_)
  refine viaPort_keeps ?_
  exact (.step (detachCmd_keeps _ _) rfl (.step (touch_keeps _ _) rfl (.refl _ _)))

theorem execDetachDrainEnd_ok (s) : Ok [.regs, .glb, .svc, .fab, .bsn, .ntr, .med, .twn, .pwr, .grt, .obs, .plain, .base] s (execDetachDrainEnd  s) := by
  unfold execDetachDrainEnd
  refine okR (fun d => ?_)
  exact (.step (detachEnd_keeps _) rfl (.refl _ _))

theorem execHandshakeTimeout_ok (s) : Ok [.regs, .glb, .svc, .fab, .bsn, .twn, .obs] s (execHandshakeTimeout  s) := by
  unfold execHandshakeTimeout
  refine okQ (fun d => ?_)
  exact (.ite (.step (hsBegin_keeps _) rfl (.refl _ _)) (.refl _ _))

theorem execHandshakeRetry_ok (s) : Ok [.regs, .glb, .svc, .fab, .bsn, .twn, .obs] s (execHandshakeRetry  s) := by
  unfold execHandshakeRetry
  refine okQ (fun d => ?_)
  split
  · exact (.refl _ _)
  · exact (.ite (.step (hsBegin_keeps _) rfl (.refl _ _)) (.refl _ _))

theorem execResilverCopyComplete_ok (s) : Ok [.regs, .glb, .svc, .fab, .bsn, .twn, .grt, .obs, .plain] s (execResilverCopyComplete  s) := by
  unfold execResilverCopyComplete
  refine okR (fun d => ?_)
  exact (.ite (.refl _ _) (.ite (.step (handoverTry_keeps _) rfl (.refl _ _)) (.step (handoverTry_keeps _) rfl (.step (onTwn_keeps _ _) rfl (.step (tellAgents_keeps _ _ _) rfl (.step (raiseN_keeps _ _ _) rfl (.refl _ _)))))))

theorem execCidxWaitEnd_ok (a0 s) : Ok [.regs, .glb, .svc, .sch, .fab, .bsn, .ntr, .med, .slu, .twn, .obs, .plain] s (execCidxWaitEnd a0 s) := by
  unfold execCidxWaitEnd
  refine okQ (fun d => ?_)
  exact (.step (waitTry_keeps _ _ _) rfl (.refl _ _))

theorem execColdStart_ok (a0 s) : Ok [.regs, .glb, .svc, .sch, .fab, .bsn, .ntr, .med, .xlt, .slu, .twn, .pwr, .grt, .thm, .obs, .spr, .plain, .base] s (execColdStart a0 s) := by
  unfold execColdStart
  refine okR (fun d => ?_)
  exact (.step (coldStart_keeps _ _) rfl (.refl _ _))

theorem execResetN_ok (a0 s) : Ok [.regs, .glb, .svc, .sch, .fab, .bsn, .ntr, .med, .xlt, .slu, .twn, .pwr, .grt, .thm, .obs, .spr, .plain, .base, .stay] s (execResetN a0 s) := by
  unfold execResetN
  refine okR (fun d => ?_)
  exact (.step (resetNLow_keeps _ _) rfl (.refl _ _))

theorem execRst_ok (a0 s) : Ok [.regs, .glb, .svc, .sch, .fab, .bsn, .ntr, .med, .xlt, .slu, .twn, .pwr, .grt, .thm, .obs, .spr, .plain, .base] s (execRst a0 s) := by
  unfold execRst
  refine okR (fun d => ?_)
  refine viaPort_keeps ?_
  exact (.step (rst_keeps _ _) rfl (.step (touch_keeps _ _) rfl (.refl _ _)))

theorem execSolo_ok (a0 s) : Ok [.regs, .glb, .svc, .sch, .fab, .bsn, .ntr, .med, .slu, .twn, .grt, .obs, .plain] s (execSolo a0 s) := by
  unfold execSolo
  refine okR (fun d => ?_)
  refine viaPort_keeps ?_
  exact (.step (solo_keeps _ _) rfl (.step (touch_keeps _ _) rfl (.refl _ _)))

theorem execSequencing_ok (a0 a1 s) : Ok [.regs, .glb, .svc, .fab, .pwr, .obs, .plain, .base, .tick] s (execSequencing a0 a1 s) := by
  unfold execSequencing
  refine okR (fun d => ?_)
  exact (.step (sequencing_keeps _ _ _) rfl (.refl _ _))

theorem execGrottoRecovery_ok (s) : Ok [.regs, .glb, .svc, .fab, .bsn, .ntr, .med, .twn, .pwr, .grt, .obs, .free, .plain, .base] s (execGrottoRecovery  s) := by
  unfold execGrottoRecovery
  refine okR (fun d => ?_)
  exact (.step (grottoStep_keeps _) rfl (.refl _ _))

theorem execKeyUnwrap_ok (a0 a1 a2 s) : Ok [.regs, .glb, .svc, .fab, .ntr, .med, .slu, .twn, .pwr, .grt, .obs, .plain, .base] s (execKeyUnwrap a0 a1 a2 s) := by
  unfold execKeyUnwrap
  refine okR (fun d => ?_)
  exact (.step (keyUnwrap_keeps _ _ _ _) rfl (.refl _ _))

theorem execImageVerify_ok (a0 s) : Ok [.regs, .glb, .svc, .fab, .ntr, .med, .slu, .twn, .pwr, .grt, .obs, .plain, .base] s (execImageVerify a0 s) := by
  unfold execImageVerify
  refine okR (fun d => ?_)
  exact (.step (imageVerify_keeps _ _) rfl (.refl _ _))

theorem execFlashReadTimeout_ok (a0 s) : Ok [.regs, .glb, .svc, .fab, .ntr, .med, .twn, .pwr, .grt, .obs, .plain, .base] s (execFlashReadTimeout a0 s) := by
  unfold execFlashReadTimeout
  refine okR (fun d => ?_)
  exact (.step (flashTimeout_keeps _ _) rfl (.refl _ _))

theorem execRunnelLoad_ok (s) : Ok [.regs, .glb, .svc, .sch, .fab, .ntr, .med, .twn, .pwr, .grt, .obs, .free, .plain, .base, .tick] s (execRunnelLoad  s) := by
  unfold execRunnelLoad
  refine okR (fun d => ?_)
  exact (.step (runnelLoad_keeps _) rfl (.refl _ _))

theorem execMediaRecovery_ok (a0 a1 a2 s) : Ok [.regs, .glb, .svc, .fab, .bsn, .ntr, .med, .xlt, .slu, .twn, .pwr, .grt, .obs, .free, .plain, .base] s (execMediaRecovery a0 a1 a2 s) := by
  unfold execMediaRecovery
  refine okR (fun d => ?_)
  exact (.step (mediaRecovery_keeps _ _ _ _) rfl (.refl _ _))

theorem execChannelTraining_ok (a0 a1 a2 s) : Ok [.regs, .glb, .svc, .fab, .ntr, .med, .twn, .pwr, .grt, .obs, .plain, .base] s (execChannelTraining a0 a1 a2 s) := by
  unfold execChannelTraining
  refine okR (fun d => ?_)
  exact (.step (channelTraining_keeps _ _ _ _) rfl (.refl _ _))

theorem execFactoryScan_ok (a0 a1 a2 s) : Ok [.regs, .glb, .svc, .fab, .bsn, .ntr, .med, .xlt, .slu, .twn, .pwr, .grt, .obs, .plain, .base] s (execFactoryScan a0 a1 a2 s) := by
  unfold execFactoryScan
  refine okR (fun d => ?_)
  exact (.step (factoryScan_keeps _ _ _ _) rfl (.refl _ _))

theorem execMapRebuild_ok (a0 a1 s) : Ok [.regs, .glb, .svc, .fab, .bsn, .ntr, .med, .xlt, .slu, .twn, .obs, .spr, .plain, .base] s (execMapRebuild a0 a1 s) := by
  unfold execMapRebuild
  refine okR (fun d => ?_)
  exact (.step (mapRebuild_keeps _ _ _) rfl (.refl _ _))

theorem execPairingComplete_ok (s) : Ok [.glb] s (execPairingComplete  s) := by
  unfold execPairingComplete
  refine okQ (fun d => ?_)
  exact (.step (pairingComplete_keeps _) rfl (.refl _ _))

theorem execStartupStepTimeout_ok (s) : Ok [.regs, .glb, .svc, .fab, .ntr, .med, .twn, .pwr, .grt, .obs, .plain, .base] s (execStartupStepTimeout  s) := by
  unfold execStartupStepTimeout
  refine okR (fun d => ?_)
  exact (.step (stepTimeout_keeps _) rfl (.refl _ _))

theorem execServingStart_ok (s) : Ok [.regs, .glb, .svc, .sch, .fab, .med, .obs, .plain, .base] s (execServingStart  s) := by
  unfold execServingStart
  refine okR (fun d => ?_)
  exact (.step (servingStart_keeps _) rfl (.refl _ _))

theorem execTadpoleEnd_ok (s) : Ok [.regs, .glb, .svc, .fab, .obs] s (execTadpoleEnd  s) := by
  unfold execTadpoleEnd
  refine okR (fun d => ?_)
  exact (.step (tadpoleEnd_keeps _) rfl (.refl _ _))

theorem execTadpoleTimeout_ok (s) : Ok [.regs, .glb, .svc, .fab, .obs] s (execTadpoleTimeout  s) := by
  unfold execTadpoleTimeout
  refine okR (fun d => ?_)
  exact (.step (tadpoleTimeout_keeps _) rfl (.refl _ _))

theorem execRailQualified_ok (a0 s) : Ok [.regs, .glb, .svc, .fab, .pwr, .obs, .plain, .base, .tick] s (execRailQualified a0 s) := by
  unfold execRailQualified
  refine okR (fun d => ?_)
  exact (.step (railQualified_keeps _ _) rfl (.refl _ _))

theorem execRailQualifyTimeout_ok (a0 s) : Ok [.regs, .glb, .svc, .fab, .ntr, .med, .twn, .pwr, .grt, .obs, .plain, .base] s (execRailQualifyTimeout a0 s) := by
  unfold execRailQualifyTimeout
  refine okR (fun d => ?_)
  exact (.ite (.step (qualifyFails_keeps _ _) rfl (.refl _ _)) (.refl _ _))

theorem execRailDischarged_ok (a0 s) : Ok [.regs, .glb, .svc, .fab, .pwr, .obs, .plain, .base, .tick] s (execRailDischarged a0 s) := by
  unfold execRailDischarged
  refine okR (fun d => ?_)
  exact (.ite (.step (dischargeEnds_keeps _ _) rfl (.refl _ _)) (.refl _ _))

theorem execDischargeTimeout_ok (a0 s) : Ok [.regs, .glb, .svc, .fab, .ntr, .med, .twn, .pwr, .grt, .obs, .plain, .base, .tick] s (execDischargeTimeout a0 s) := by
  unfold execDischargeTimeout
  refine okR (fun d => ?_)
  exact (.step (dischargeTimeout_keeps _ _) rfl (.refl _ _))

theorem execRailFault_ok (a0 a1 s) : Ok [.regs, .glb, .svc, .fab, .ntr, .med, .twn, .pwr, .grt, .obs, .plain, .base] s (execRailFault a0 a1 s) := by
  unfold execRailFault
  refine okR (fun d => ?_)
  exact (.step (railFault_keeps _ _ _) rfl (.refl _ _))

theorem execGoodLow_ok (a0 a1 s) : Ok [.regs, .glb, .svc, .fab, .pwr, .obs, .plain] s (execGoodLow a0 a1 s) := by
  unfold execGoodLow
  refine okQ (fun d => ?_)
  exact (.step (goodLow_keeps _ _ _) rfl (.refl _ _))

theorem execInputFailure_ok (a0 s) : Ok [.regs, .glb, .svc, .fab, .med, .pwr, .grt, .obs, .plain, .base] s (execInputFailure a0 s) := by
  unfold execInputFailure
  refine okR (fun d => ?_)
  exact (.step (inputFailure_keeps _ _) rfl (.refl _ _))

theorem execPfaultFollow_ok (s) : Ok [.regs, .glb, .svc, .fab, .med, .pwr, .grt, .obs, .plain, .base] s (execPfaultFollow  s) := by
  unfold execPfaultFollow
  refine okR (fun d => ?_)
  exact (.step (pfaultFollow_keeps _) rfl (.refl _ _))

theorem execQuiesceEnd_ok (s) : Ok [.regs, .glb, .svc, .fab, .ntr, .slu, .obs, .plain] s (execQuiesceEnd  s) := by
  unfold execQuiesceEnd
  refine okR (fun d => ?_)
  exact (.step (quiesceEnd_keeps _) rfl (.refl _ _))

theorem execSpillwayPhase_ok (s) : Ok [.regs, .glb, .svc, .sch, .fab, .bsn, .ntr, .med, .xlt, .slu, .twn, .pwr, .grt, .thm, .obs, .spr, .plain, .base] s (execSpillwayPhase  s) := by
  unfold execSpillwayPhase
  refine okR (fun d => ?_)
  exact (.step (spillwayPhase_keeps _) rfl (.refl _ _))

theorem execVinReturn_ok (s) : Ok [.regs, .glb, .svc, .fab, .ntr, .med, .xlt, .slu, .pwr, .obs, .plain] s (execVinReturn  s) := by
  unfold execVinReturn
  refine okR (fun d => ?_)
  exact (.step (vinReturn_keeps _) rfl (.refl _ _))

theorem execSpillwayResume_ok (s) : Ok [.regs, .glb, .svc, .sch, .fab, .bsn, .ntr, .med, .xlt, .slu, .twn, .pwr, .grt, .obs, .plain, .base] s (execSpillwayResume  s) := by
  unfold execSpillwayResume
  refine okR (fun d => ?_)
  exact (.step (spillwayResume_keeps _) rfl (.refl _ _))

theorem execOff_ok (a0 s) : Ok [.regs, .glb, .svc, .fab, .med, .pwr, .grt, .obs, .plain, .base] s (execOff a0 s) := by
  unfold execOff
  refine okR (fun d => ?_)
  refine viaPort_keeps ?_
  exact (.step (off_keeps _ _) rfl (.step (touch_keeps _ _) rfl (.refl _ _)))

theorem execHuMeas_ok (a0 s) : Ok [.regs, .glb, .svc, .fab, .pwr, .obs, .plain] s (execHuMeas a0 s) := by
  unfold execHuMeas
  refine okQ (fun d => ?_)
  refine viaPort_keeps ?_
  exact (.step (huMeas_keeps _ _) rfl (.step (touch_keeps _ _) rfl (.refl _ _)))

theorem execBankMeasurementSample_ok (s) : Ok [.regs, .glb, .svc, .fab, .pwr, .obs, .plain] s (execBankMeasurementSample  s) := by
  unfold execBankMeasurementSample
  refine okQ (fun d => ?_)
  exact (.step (bankSample_keeps _) rfl (.refl _ _))

theorem execBankMeasurementEnd_ok (s) : Ok [.regs, .glb, .svc, .fab, .pwr, .obs, .plain] s (execBankMeasurementEnd  s) := by
  unfold execBankMeasurementEnd
  refine okQ (fun d => ?_)
  exact (.step (bankEnd_keeps _) rfl (.refl _ _))

theorem execPageWrite_ok (a0 a1 s) : Ok [.regs, .glb, .svc, .fab, .grt, .obs, .plain] s (execPageWrite a0 a1 s) := by
  unfold execPageWrite
  refine okQ (fun d => ?_)
  exact (.step (pageWrite_keeps _ _ _) rfl (.refl _ _))

theorem execPageWriteStart_ok (s) : Ok [.regs, .grt, .plain] s (execPageWriteStart  s) := by
  unfold execPageWriteStart
  refine okQ (fun d => ?_)
  exact (.step (pageWriteStart_keeps _) rfl (.refl _ _))

theorem execPhysicalProgramDone_ok (a0 s) : Ok [.regs, .glb, .svc, .fab, .grt, .obs, .plain] s (execPhysicalProgramDone a0 s) := by
  unfold execPhysicalProgramDone
  refine okQ (fun d => ?_)
  exact (.step (physicalProgramDone_keeps _ _) rfl (.refl _ _))

theorem execSectorMove_ok (a0 s) : Ok [.regs, .glb, .svc, .fab, .grt, .obs, .plain] s (execSectorMove a0 s) := by
  unfold execSectorMove
  refine okQ (fun d => ?_)
  exact (.step (sectorMove_keeps _ _) rfl (.refl _ _))

theorem execMarginRead_ok (a0 a1 s) : Ok [.regs, .glb, .svc, .fab, .grt, .obs, .plain] s (execMarginRead a0 a1 s) := by
  unfold execMarginRead
  refine okQ (fun d => ?_)
  exact (.step (marginRead_keeps _ _ _) rfl (.refl _ _))

theorem execProtect_ok (a0 a1 s) : Ok [.regs, .glb, .svc, .fab, .grt, .obs, .plain] s (execProtect a0 a1 s) := by
  unfold execProtect
  refine okQ (fun d => ?_)
  refine viaPort_keeps ?_
  exact (.step (protectCmd_keeps _ _ _) rfl (.step (touch_keeps _ _) rfl (.refl _ _)))

theorem execGrtRdData_ok (a0 a1 s) : Ok [.regs, .glb, .svc, .fab, .grt, .obs, .free, .plain] s (execGrtRdData a0 a1 s) := by
  unfold execGrtRdData
  refine okQ (fun d => ?_)
  refine viaPort_keeps ?_
  exact (.step (grtRead_keeps _ _) rfl (.step (touch_keeps _ _) rfl (.refl _ _)))

theorem execSensorFailure_ok (a0 s) : Ok [.regs, .glb, .svc, .fab, .thm, .obs, .plain] s (execSensorFailure a0 s) := by
  unfold execSensorFailure
  refine okQ (fun d => ?_)
  exact (.step (sensorFails_keeps _ _) rfl (.refl _ _))

theorem execThermalTrip_ok (s) : Ok [.regs, .glb, .svc, .fab, .med, .twn, .pwr, .grt, .thm, .obs, .plain, .base] s (execThermalTrip  s) := by
  unfold execThermalTrip
  refine okR (fun d => ?_)
  exact (.step (thermalTrip_keeps _) rfl (.refl _ _))

theorem execThermalStartHold_ok (a0 a1 s) : Ok [.regs, .glb, .svc, .fab, .pwr, .thm, .obs, .plain, .base, .tick] s (execThermalStartHold a0 a1 s) := by
  unfold execThermalStartHold
  refine okR (fun d => ?_)
  exact (.step (startHold_keeps _ _ _) rfl (.refl _ _))

theorem execThmPeakClr_ok (a0 s) : Ok [.regs, .svc, .plain] s (execThmPeakClr a0 s) := by
  unfold execThmPeakClr
  refine okQ (fun d => ?_)
  refine viaPort_keeps ?_
  exact (.step (peakClear_keeps _) rfl (.step (touch_keeps _ _) rfl (.refl _ _)))

theorem execRefclkFailure_ok (s) : Ok [.regs, .glb, .svc, .fab, .ntr, .med, .twn, .pwr, .grt, .obs, .plain, .base] s (execRefclkFailure  s) := by
  unfold execRefclkFailure
  refine okR (fun d => ?_)
  exact (.step (refclkFails_keeps _) rfl (.refl _ _))

theorem execEntdaa_ok (a0 a1 s) : Ok [.regs, .plain] s (execEntdaa a0 a1 s) := by
  unfold execEntdaa
  refine okQ (fun d => ?_)
  unfold broadcastCcc
  exact (.ite (.step (entdaa_keeps _ _ _) rfl (.refl _ _)) (.refl _ _))

theorem execSetdasa_ok (a0 a1 a2 s) : Ok [.regs, .plain] s (execSetdasa a0 a1 a2 s) := by
  unfold execSetdasa
  refine okQ (fun d => ?_)
  unfold broadcastCcc
  beta_reduce
  exact (.ite (.ite (.step (entdaa_keeps _ _ _) rfl (.refl _ _)) (.refl _ _)) (.refl _ _))

theorem execRstdaa_ok (a0 s) : Ok [.regs, .glb, .svc, .fab, .slu, .obs, .plain] s (execRstdaa a0 s) := by
  unfold execRstdaa
  refine okQ (fun d => ?_)
  unfold broadcastCcc
  beta_reduce
  exact (.ite (.step (portReset_keeps _ _) rfl (.step (setF_keeps _ _ _) rfl (.refl _ _))) (.refl _ _))

theorem execEnec_ok (a0 s) : Ok [.regs, .plain] s (execEnec a0 s) := by
  unfold execEnec
  refine okQ (fun d => ?_)
  unfold broadcastCcc
  exact (.ite (.step (setB_keeps _ _ _) rfl (.refl _ _)) (.refl _ _))

theorem execDisec_ok (a0 s) : Ok [.regs, .plain] s (execDisec a0 s) := by
  unfold execDisec
  refine okQ (fun d => ?_)
  unfold broadcastCcc
  exact (.ite (.step (setB_keeps _ _ _) rfl (.refl _ _)) (.refl _ _))

theorem execGetpid_ok (a0 s) : Ok [.svc] s (execGetpid a0 s) := by
  unfold execGetpid
  refine okQ (fun d => ?_)
  unfold directCcc
  exact (.ite (.step (cccSays_keeps _ _ _) rfl (.refl _ _)) (.refl _ _))

theorem execGetbcr_ok (a0 s) : Ok [.svc] s (execGetbcr a0 s) := by
  unfold execGetbcr
  refine okQ (fun d => ?_)
  unfold directCcc
  exact (.ite (.step (cccSays_keeps _ _ _) rfl (.refl _ _)) (.refl _ _))

theorem execGetdcr_ok (a0 s) : Ok [.svc] s (execGetdcr a0 s) := by
  unfold execGetdcr
  refine okQ (fun d => ?_)
  unfold directCcc
  exact (.ite (.step (cccSays_keeps _ _ _) rfl (.refl _ _)) (.refl _ _))

theorem execGetstatus_ok (a0 s) : Ok [.svc, .free] s (execGetstatus a0 s) := by
  unfold execGetstatus
  refine okQ (fun d => ?_)
  unfold directCcc
  beta_reduce
  refine .ite ?_ ?_
  · split
    · rename_i y1 y2 e3
      have h3 : Safety.Keeps [.svc, .free] d y2 := .of_snd e3 ((.step (drawByte_keeps _) rfl (.refl _ _)))
      split
      · rename_i y4 y5 e6
        have h6 : Safety.Keeps [.svc, .free] d y5 := .of_snd e6 ((.step (drawByte_keeps _) rfl h3))
        exact (.step (cccSays_keeps _ _ _) rfl h6)
  · exact (.refl _ _)

theorem execGetmwl_ok (a0 s) : Ok [.svc] s (execGetmwl a0 s) := by
  unfold execGetmwl
  refine okQ (fun d => ?_)
  unfold directCcc
  beta_reduce
  exact (.ite (.step (cccSays_keeps _ _ _) rfl (.refl _ _)) (.refl _ _))

theorem execSetmwl_ok (a0 a1 s) : Ok [.svc] s (execSetmwl a0 a1 s) := by
  unfold execSetmwl
  refine okQ (fun d => ?_)
  unfold broadcastCcc
  exact (.ite (.step (onPort_keeps _ _ _) rfl (.refl _ _)) (.refl _ _))

theorem execGetmrl_ok (a0 s) : Ok [.svc, .free] s (execGetmrl a0 s) := by
  unfold execGetmrl
  refine okQ (fun d => ?_)
  unfold directCcc
  beta_reduce
  refine .ite ?_ ?_
  · split
    · rename_i y1 y2 e3
      have h3 : Safety.Keeps [.svc, .free] d y2 := .of_snd e3 ((.step (drawByte_keeps _) rfl (.refl _ _)))
      exact (.step (cccSays_keeps _ _ _) rfl h3)
  · exact (.refl _ _)

theorem execSetmrl_ok (a0 a1 s) : Ok [.svc] s (execSetmrl a0 a1 s) := by
  unfold execSetmrl
  refine okQ (fun d => ?_)
  unfold broadcastCcc
  exact (.ite (.step (onPort_keeps _ _ _) rfl (.refl _ _)) (.refl _ _))

theorem execRstact_ok (a0 a1 s) : Ok [.svc] s (execRstact a0 a1 s) := by
  unfold execRstact
  refine okQ (fun d => ?_)
  unfold broadcastCcc
  exact (.ite (.step (onPort_keeps _ _ _) rfl (.refl _ _)) (.refl _ _))

theorem execTargetReset_ok (a0 s) : Ok [.regs, .glb, .svc, .fab, .slu, .obs, .plain] s (execTargetReset a0 s) := by
  unfold execTargetReset
  refine okQ (fun d => ?_)
  unfold broadcastCcc
  exact (.ite (.step (targetReset_keeps _ _) rfl (.refl _ _)) (.refl _ _))

theorem execMctpPacket_ok (a0 a1 s) : Ok [.regs, .glb, .svc, .fab, .obs, .free, .plain] s (execMctpPacket a0 a1 s) := by
  unfold execMctpPacket
  refine okQ (fun d => ?_)
  exact (.step (packetIn_keeps _ _ _) rfl (.refl _ _))

theorem execSetEndpointId_ok (a0 a1 s) : Ok [.regs, .svc, .plain] s (execSetEndpointId a0 a1 s) := by
  unfold execSetEndpointId
  refine okQ (fun d => ?_)
  exact (.step (setEid_keeps _ _ _) rfl (.refl _ _))

theorem execGetEndpointId_ok (a0 s) : Ok [.svc] s (execGetEndpointId a0 s) := by
  unfold execGetEndpointId
  refine okQ (fun d => ?_)
  exact (.step (getEid_keeps _ _) rfl (.refl _ _))

theorem execGetMctpVersionSupport_ok (a0 s) : Ok [.svc, .free] s (execGetMctpVersionSupport a0 s) := by
  unfold execGetMctpVersionSupport
  refine okQ (fun d => ?_)
  exact (.step (getVersions_keeps _ _) rfl (.refl _ _))

theorem execGetMessageTypeSupport_ok (a0 s) : Ok [.svc] s (execGetMessageTypeSupport a0 s) := by
  unfold execGetMessageTypeSupport
  refine okQ (fun d => ?_)
  exact (.step (getTypes_keeps _ _) rfl (.refl _ _))

theorem execGetVendorDefinedMessageSupport_ok (a0 s) : Ok [.svc, .free] s (execGetVendorDefinedMessageSupport a0 s) := by
  unfold execGetVendorDefinedMessageSupport
  refine okQ (fun d => ?_)
  exact (.step (getVendor_keeps _ _) rfl (.refl _ _))

theorem execRead_ok (a0 a1 a2 a3 a4 s) : Ok [.regs, .glb, .svc, .fab, .obs, .plain] s (execRead a0 a1 a2 a3 a4 s) := by
  unfold execRead
  refine okQ (fun d => ?_)
  exact (.step (readMsg_keeps _ _ _ _ _ _) rfl (.refl _ _))

theorem execWrite_ok (a0 a1 a2 a3 a4 s) : Ok [.regs, .glb, .svc, .fab, .obs, .plain] s (execWrite a0 a1 a2 a3 a4 s) := by
  unfold execWrite
  refine okQ (fun d => ?_)
  exact (.step (writeMsg_keeps _ _ _ _ _ _) rfl (.refl _ _))

theorem execUnsupportedCommand_ok (a0 a1 a2 a3 s) : Ok [.regs, .glb, .svc, .fab, .obs] s (execUnsupportedCommand a0 a1 a2 a3 s) := by
  unfold execUnsupportedCommand
  refine okQ (fun d => ?_)
  exact (.ite (.refl _ _) (.step (unsupported_keeps _ _ _ _ _) rfl (.refl _ _)))

theorem execExecutorAccess_ok (a0 s) : Ok [.regs, .glb, .svc, .sch, .fab, .bsn, .ntr, .med, .xlt, .slu, .twn, .pwr, .grt, .thm, .obs, .spr, .free, .plain, .base] s (execExecutorAccess a0 s) := by
  unfold execExecutorAccess
  refine okR (fun d => ?_)
  exact (.step (executor_keeps _ _) rfl (.refl _ _))

theorem execEvtRillLo_ok (a0 s) : Ok [.svc] s (execEvtRillLo a0 s) := by
  unfold execEvtRillLo
  refine okQ (fun d => ?_)
  refine viaPort_keeps ?_
  exact (.step (rillPop_keeps _ _) rfl (.step (touch_keeps _ _) rfl (.refl _ _)))

theorem execFlush_ok (a0 a1 s) : Ok [.svc] s (execFlush a0 a1 s) := by
  unfold execFlush
  refine okQ (fun d => ?_)
  refine viaPort_keeps ?_
  exact (.step (armFlush_keeps _ _ _ _) rfl (.step (touch_keeps _ _) rfl (.refl _ _)))

theorem execFlushCmd_ok (a0 a1 a2 s) : Ok [.svc] s (execFlushCmd a0 a1 a2 s) := by
  unfold execFlushCmd
  refine okQ (fun d => ?_)
  refine viaPort_keeps ?_
  exact (.step (armFlush_keeps _ _ _ _) rfl (.step (touch_keeps _ _) rfl (.refl _ _)))

theorem execRillFlush_ok (a0 a1 s) : Ok [.svc] s (execRillFlush a0 a1 s) := by
  unfold execRillFlush
  refine okQ (fun d => ?_)
  exact (.step (rillFlush_keeps _ _ _) rfl (.refl _ _))

theorem execAcquire_ok (a0 s) : Ok [.regs, .glb, .svc, .fab, .obs, .plain] s (execAcquire a0 s) := by
  unfold execAcquire
  refine okQ (fun d => ?_)
  refine viaPort_keeps ?_
  exact (.step (acquire_keeps _ _) rfl (.step (touch_keeps _ _) rfl (.refl _ _)))

theorem execRelease_ok (a0 s) : Ok [.regs, .glb, .svc, .fab, .obs, .plain] s (execRelease a0 s) := by
  unfold execRelease
  refine okQ (fun d => ?_)
  refine viaPort_keeps ?_
  exact (.step (release_keeps _ _) rfl (.step (touch_keeps _ _) rfl (.refl _ _)))

theorem execLockTimeout_ok (s) : Ok [.regs, .glb, .svc, .fab, .obs, .plain] s (execLockTimeout  s) := by
  unfold execLockTimeout
  refine okQ (fun d => ?_)
  exact (.step (lockTimeout_keeps _) rfl (.refl _ _))

theorem execBeginTxn_ok (a0 a1 s) : Ok [.regs, .glb, .svc, .fab, .obs, .plain] s (execBeginTxn a0 a1 s) := by
  unfold execBeginTxn
  refine okQ (fun d => ?_)
  refine viaPort_keeps ?_
  exact (.step (txnWrite_keeps _ _ _ _) rfl (.step (touch_keeps _ _) rfl (.refl _ _)))

theorem execCommit_ok (a0 a1 s) : Ok [.regs, .glb, .svc, .fab, .obs, .plain] s (execCommit a0 a1 s) := by
  unfold execCommit
  refine okQ (fun d => ?_)
  refine viaPort_keeps ?_
  exact (.step (txnWrite_keeps _ _ _ _) rfl (.step (touch_keeps _ _) rfl (.refl _ _)))

theorem execRollback_ok (a0 a1 s) : Ok [.regs, .glb, .svc, .fab, .obs, .plain] s (execRollback a0 a1 s) := by
  unfold execRollback
  refine okQ (fun d => ?_)
  refine viaPort_keeps ?_
  exact (.step (txnWrite_keeps _ _ _ _) rfl (.step (touch_keeps _ _) rfl (.refl _ _)))

theorem execCommitCheck_ok (s) : Ok [.regs, .glb, .svc, .fab, .slu, .obs, .plain] s (execCommitCheck  s) := by
  unfold execCommitCheck
  refine okQ (fun d => ?_)
  exact (.ite (.step (checkStaged_keeps _) rfl (.refl _ _)) (.refl _ _))

theorem execCommitBoundary_ok (s) : Ok [.regs, .glb, .svc, .fab, .slu, .obs, .plain] s (execCommitBoundary  s) := by
  unfold execCommitBoundary
  refine okQ (fun d => ?_)
  exact (.ite (.step (commitNow_keeps _) rfl (.refl _ _)) (.refl _ _))

theorem execGetVersion_ok (a0 a1 s) : Ok [.regs, .glb, .svc, .fab, .obs] s (execGetVersion a0 a1 s) := by
  unfold execGetVersion
  refine okQ (fun d => ?_)
  exact (.step (getVersion_keeps _ _ _) rfl (.refl _ _))

theorem execGetIdentity_ok (a0 a1 s) : Ok [.regs, .glb, .svc, .fab, .obs] s (execGetIdentity a0 a1 s) := by
  unfold execGetIdentity
  refine okQ (fun d => ?_)
  exact (.step (getIdentity_keeps _ _ _) rfl (.refl _ _))

theorem execGetCert_ok (a0 a1 a2 s) : Ok [.regs, .glb, .svc, .fab, .obs] s (execGetCert a0 a1 a2 s) := by
  unfold execGetCert
  refine okQ (fun d => ?_)
  exact (.step (getCert_keeps _ _ _ _) rfl (.refl _ _))

theorem execGetReport_ok (a0 a1 a2 a3 s) : Ok [.regs, .glb, .svc, .fab, .obs] s (execGetReport a0 a1 a2 a3 s) := by
  unfold execGetReport
  refine okQ (fun d => ?_)
  exact (.step (getReport_keeps _ _ _ _ _) rfl (.refl _ _))

theorem execReportSigned_ok (a0 s) : Ok [.regs, .glb, .svc, .fab, .obs, .free] s (execReportSigned a0 s) := by
  unfold execReportSigned
  refine okQ (fun d => ?_)
  exact (.step (reportSigned_keeps _ _) rfl (.refl _ _))

theorem execClrwrap_ok (a0 s) : Ok [.svc, .obs] s (execClrwrap a0 s) := by
  unfold execClrwrap
  refine okQ (fun d => ?_)
  refine viaPort_keeps ?_
  exact (.step (ctrClrWrap_keeps _) rfl (.step (touch_keeps _ _) rfl (.refl _ _)))

theorem execZero_ok (a0 s) : Ok [.svc, .obs] s (execZero a0 s) := by
  unfold execZero
  refine okQ (fun d => ?_)
  refine viaPort_keeps ?_
  exact (.step (ctrZero_keeps _) rfl (.step (touch_keeps _ _) rfl (.refl _ _)))

theorem execCounterSweep_ok (s) : Ok [.regs, .obs, .plain] s (execCounterSweep  s) := by
  unfold execCounterSweep
  refine okQ (fun d => ?_)
  exact (.step (counterSweep_keeps _) rfl (.refl _ _))

theorem execFreeze_ok (a0 a1 s) : Ok [.regs, .svc, .plain] s (execFreeze a0 a1 s) := by
  unfold execFreeze
  refine okQ (fun d => ?_)
  refine viaPort_keeps ?_
  exact (.step (setFreeze_keeps _ _) rfl (.step (touch_keeps _ _) rfl (.refl _ _)))

theorem execPop_ok (a0 s) : Ok [.svc, .obs] s (execPop a0 s) := by
  unfold execPop
  refine okQ (fun d => ?_)
  refine viaPort_keeps ?_
  exact (.step (gkPop_keeps _) rfl (.step (touch_keeps _ _) rfl (.refl _ _)))

theorem execLedgerGrottoWrite_ok (s) : Ok [.regs, .glb, .svc, .fab, .obs, .plain] s (execLedgerGrottoWrite  s) := by
  unfold execLedgerGrottoWrite
  refine okQ (fun d => ?_)
  exact (.step (ledgerGrottoWrite_keeps _) rfl (.refl _ _))

theorem execGetInfo_ok (a0 a1 s) : Ok [.regs, .glb, .svc, .fab, .obs, .free, .plain] s (execGetInfo a0 a1 s) := by
  unfold execGetInfo
  refine okQ (fun d => ?_)
  exact (.step (ledgerMsg_keeps _ _ _ _) rfl (.refl _ _))

theorem execLedgerRead_ok (a0 a1 a2 a3 s) : Ok [.regs, .glb, .svc, .fab, .obs, .free, .plain] s (execLedgerRead a0 a1 a2 a3 s) := by
  unfold execLedgerRead
  refine okQ (fun d => ?_)
  exact (.step (ledgerMsg_keeps _ _ _ _) rfl (.refl _ _))

theorem execGetNonce_ok (a0 a1 s) : Ok [.regs, .glb, .svc, .fab, .obs, .free, .plain] s (execGetNonce a0 a1 s) := by
  unfold execGetNonce
  refine okQ (fun d => ?_)
  exact (.step (ledgerMsg_keeps _ _ _ _) rfl (.refl _ _))

theorem execLedgerClear_ok (a0 a1 a2 a3 a4 a5 s) : Ok [.regs, .glb, .svc, .fab, .obs, .free, .plain] s (execLedgerClear a0 a1 a2 a3 a4 a5 s) := by
  unfold execLedgerClear
  refine okQ (fun d => ?_)
  exact (.step (ledgerMsg_keeps _ _ _ _) rfl (.refl _ _))

theorem execLedgerFlush_ok (a0 a1 s) : Ok [.regs, .glb, .svc, .fab, .obs, .free, .plain] s (execLedgerFlush a0 a1 s) := by
  unfold execLedgerFlush
  refine okQ (fun d => ?_)
  exact (.step (ledgerMsg_keeps _ _ _ _) rfl (.refl _ _))

theorem execNonceLapse_ok (s) : Ok [.obs] s (execNonceLapse  s) := by
  unfold execNonceLapse
  refine okQ (fun d => ?_)
  exact (.step (nonceLapse_keeps _) rfl (.refl _ _))

theorem execRepopulationFetch_ok (a0 a1 a2 a3 s) : Ok [.regs, .glb, .svc, .fab, .ntr, .xlt, .slu, .obs] s (execRepopulationFetch a0 a1 a2 a3 s) := by
  unfold execRepopulationFetch
  refine okQ (fun d => ?_)
  exact (.step (repopFetch_keeps _ _ _ _ _) rfl (.refl _ _))

theorem execReservedResponseOp_ok (a0 a1 a2 a3 s) : Ok [.regs, .glb, .svc, .fab, .obs, .plain] s (execReservedResponseOp a0 a1 a2 a3 s) := by
  unfold execReservedResponseOp
  refine okQ (fun d => ?_)
  extract_lets +onlyGivenNames -underBinder -merge v1
  unfold received
  exact (.ite (.refl _ _) (.ite (.step (portError_keeps _ _ _ _ _) rfl (.step (setB_keeps _ _ _) rfl (.refl _ _))) (.ite (.step (giveCredit_keeps _ _ _) rfl (.step (takeCredit_keeps _ _ _) rfl (.step (portError_keeps _ _ _ _ _) rfl (.step (setB_keeps _ _ _) rfl (.refl _ _))))) (.ite (.step (protoError_keeps _ _ _ _ _ _) rfl (.refl _ _)) (.step (giveCredit_keeps _ _ _) rfl (.step (protoError_keeps _ _ _ _ _ _) rfl (.step (takeCredit_keeps _ _ _) rfl (.refl _ _))))))))

theorem execPfaultNReleased_ok (s) : Ok [.regs, .glb, .svc, .fab, .ntr, .med, .xlt, .slu, .pwr, .obs, .plain] s (execPfaultNReleased  s) := by
  unfold execPfaultNReleased
  refine okR (fun d => ?_)
  exact (.step (pfaultReleased_keeps _) rfl (.refl _ _))

theorem execResetNRelease_ok (s) : Ok [.regs, .glb, .svc, .fab, .obs, .plain, .base, .stay] s (execResetNRelease  s) := by
  unfold execResetNRelease
  refine okR (fun d => ?_)
  exact (.step (resetNHigh_keeps _) rfl (.refl _ _))

theorem execPowerRemoved_ok (s) : Ok [.regs, .glb, .svc, .sch, .fab, .bsn, .ntr, .med, .xlt, .slu, .twn, .pwr, .grt, .thm, .obs, .spr, .plain, .base, .stay] s (execPowerRemoved  s) := by
  unfold execPowerRemoved
  refine okR (fun d => ?_)
  exact (.step (powerRemoved_keeps _) rfl (.refl _ _))

theorem execEnergyStoreFault_ok (s) : Ok [.regs, .grt, .plain] s (execEnergyStoreFault  s) := by
  unfold execEnergyStoreFault
  refine okQ (fun d => ?_)
  exact (.step (energyStoreFault_keeps _) rfl (.refl _ _))
end Sys2Proof.Machine
end

