-- ==== Sys2Proof/Laws/State.lean ====
section
/-!
SUPPORT. What each update of a device leaves: one lemma per component and update, so that no proof unfolds a record update.
-/
namespace Sys2Proof.Machine
open Sys2Proof.SMapLaws

/-! ### regSet -/

@[simp] theorem regSet_glb (a : Nat) (v : Word) (d : Dev) : (regSet a v d).glb = d.glb := rfl
@[simp] theorem regSet_svc (a : Nat) (v : Word) (d : Dev) : (regSet a v d).svc = d.svc := rfl
@[simp] theorem regSet_sch (a : Nat) (v : Word) (d : Dev) : (regSet a v d).sch = d.sch := rfl
@[simp] theorem regSet_fab (a : Nat) (v : Word) (d : Dev) : (regSet a v d).fab = d.fab := rfl
@[simp] theorem regSet_bsn (a : Nat) (v : Word) (d : Dev) : (regSet a v d).bsn = d.bsn := rfl
@[simp] theorem regSet_ntr (a : Nat) (v : Word) (d : Dev) : (regSet a v d).ntr = d.ntr := rfl
@[simp] theorem regSet_med (a : Nat) (v : Word) (d : Dev) : (regSet a v d).med = d.med := rfl
@[simp] theorem regSet_xlt (a : Nat) (v : Word) (d : Dev) : (regSet a v d).xlt = d.xlt := rfl
@[simp] theorem regSet_slu (a : Nat) (v : Word) (d : Dev) : (regSet a v d).slu = d.slu := rfl
@[simp] theorem regSet_twn (a : Nat) (v : Word) (d : Dev) : (regSet a v d).twn = d.twn := rfl
@[simp] theorem regSet_pwr (a : Nat) (v : Word) (d : Dev) : (regSet a v d).pwr = d.pwr := rfl
@[simp] theorem regSet_grt (a : Nat) (v : Word) (d : Dev) : (regSet a v d).grt = d.grt := rfl
@[simp] theorem regSet_thm (a : Nat) (v : Word) (d : Dev) : (regSet a v d).thm = d.thm := rfl
@[simp] theorem regSet_obs (a : Nat) (v : Word) (d : Dev) : (regSet a v d).obs = d.obs := rfl
@[simp] theorem regSet_spr (a : Nat) (v : Word) (d : Dev) : (regSet a v d).spr = d.spr := rfl
@[simp] theorem regSet_free (a : Nat) (v : Word) (d : Dev) : (regSet a v d).free = d.free := rfl

/-! ### setF -/

@[simp] theorem setF_glb (f : Fld) (v : Nat) (d : Dev) : (setF f v d).glb = d.glb := rfl
@[simp] theorem setF_svc (f : Fld) (v : Nat) (d : Dev) : (setF f v d).svc = d.svc := rfl
@[simp] theorem setF_sch (f : Fld) (v : Nat) (d : Dev) : (setF f v d).sch = d.sch := rfl
@[simp] theorem setF_fab (f : Fld) (v : Nat) (d : Dev) : (setF f v d).fab = d.fab := rfl
@[simp] theorem setF_bsn (f : Fld) (v : Nat) (d : Dev) : (setF f v d).bsn = d.bsn := rfl
@[simp] theorem setF_ntr (f : Fld) (v : Nat) (d : Dev) : (setF f v d).ntr = d.ntr := rfl
@[simp] theorem setF_med (f : Fld) (v : Nat) (d : Dev) : (setF f v d).med = d.med := rfl
@[simp] theorem setF_xlt (f : Fld) (v : Nat) (d : Dev) : (setF f v d).xlt = d.xlt := rfl
@[simp] theorem setF_slu (f : Fld) (v : Nat) (d : Dev) : (setF f v d).slu = d.slu := rfl
@[simp] theorem setF_twn (f : Fld) (v : Nat) (d : Dev) : (setF f v d).twn = d.twn := rfl
@[simp] theorem setF_pwr (f : Fld) (v : Nat) (d : Dev) : (setF f v d).pwr = d.pwr := rfl
@[simp] theorem setF_grt (f : Fld) (v : Nat) (d : Dev) : (setF f v d).grt = d.grt := rfl
@[simp] theorem setF_thm (f : Fld) (v : Nat) (d : Dev) : (setF f v d).thm = d.thm := rfl
@[simp] theorem setF_obs (f : Fld) (v : Nat) (d : Dev) : (setF f v d).obs = d.obs := rfl
@[simp] theorem setF_spr (f : Fld) (v : Nat) (d : Dev) : (setF f v d).spr = d.spr := rfl
@[simp] theorem setF_free (f : Fld) (v : Nat) (d : Dev) : (setF f v d).free = d.free := rfl

/-! ### setB -/

@[simp] theorem setB_glb (f : Fld) (b : Bool) (d : Dev) : (setB f b d).glb = d.glb := rfl
@[simp] theorem setB_svc (f : Fld) (b : Bool) (d : Dev) : (setB f b d).svc = d.svc := rfl
@[simp] theorem setB_sch (f : Fld) (b : Bool) (d : Dev) : (setB f b d).sch = d.sch := rfl
@[simp] theorem setB_fab (f : Fld) (b : Bool) (d : Dev) : (setB f b d).fab = d.fab := rfl
@[simp] theorem setB_bsn (f : Fld) (b : Bool) (d : Dev) : (setB f b d).bsn = d.bsn := rfl
@[simp] theorem setB_ntr (f : Fld) (b : Bool) (d : Dev) : (setB f b d).ntr = d.ntr := rfl
@[simp] theorem setB_med (f : Fld) (b : Bool) (d : Dev) : (setB f b d).med = d.med := rfl
@[simp] theorem setB_xlt (f : Fld) (b : Bool) (d : Dev) : (setB f b d).xlt = d.xlt := rfl
@[simp] theorem setB_slu (f : Fld) (b : Bool) (d : Dev) : (setB f b d).slu = d.slu := rfl
@[simp] theorem setB_twn (f : Fld) (b : Bool) (d : Dev) : (setB f b d).twn = d.twn := rfl
@[simp] theorem setB_pwr (f : Fld) (b : Bool) (d : Dev) : (setB f b d).pwr = d.pwr := rfl
@[simp] theorem setB_grt (f : Fld) (b : Bool) (d : Dev) : (setB f b d).grt = d.grt := rfl
@[simp] theorem setB_thm (f : Fld) (b : Bool) (d : Dev) : (setB f b d).thm = d.thm := rfl
@[simp] theorem setB_obs (f : Fld) (b : Bool) (d : Dev) : (setB f b d).obs = d.obs := rfl
@[simp] theorem setB_spr (f : Fld) (b : Bool) (d : Dev) : (setB f b d).spr = d.spr := rfl
@[simp] theorem setB_free (f : Fld) (b : Bool) (d : Dev) : (setB f b d).free = d.free := rfl

/-! ### setPair -/

@[simp] theorem setPair_glb (lo hi : Fld) (v : Nat) (d : Dev) : (setPair lo hi v d).glb = d.glb := rfl
@[simp] theorem setPair_svc (lo hi : Fld) (v : Nat) (d : Dev) : (setPair lo hi v d).svc = d.svc := rfl
@[simp] theorem setPair_sch (lo hi : Fld) (v : Nat) (d : Dev) : (setPair lo hi v d).sch = d.sch := rfl
@[simp] theorem setPair_fab (lo hi : Fld) (v : Nat) (d : Dev) : (setPair lo hi v d).fab = d.fab := rfl
@[simp] theorem setPair_bsn (lo hi : Fld) (v : Nat) (d : Dev) : (setPair lo hi v d).bsn = d.bsn := rfl
@[simp] theorem setPair_ntr (lo hi : Fld) (v : Nat) (d : Dev) : (setPair lo hi v d).ntr = d.ntr := rfl
@[simp] theorem setPair_med (lo hi : Fld) (v : Nat) (d : Dev) : (setPair lo hi v d).med = d.med := rfl
@[simp] theorem setPair_xlt (lo hi : Fld) (v : Nat) (d : Dev) : (setPair lo hi v d).xlt = d.xlt := rfl
@[simp] theorem setPair_slu (lo hi : Fld) (v : Nat) (d : Dev) : (setPair lo hi v d).slu = d.slu := rfl
@[simp] theorem setPair_twn (lo hi : Fld) (v : Nat) (d : Dev) : (setPair lo hi v d).twn = d.twn := rfl
@[simp] theorem setPair_pwr (lo hi : Fld) (v : Nat) (d : Dev) : (setPair lo hi v d).pwr = d.pwr := rfl
@[simp] theorem setPair_grt (lo hi : Fld) (v : Nat) (d : Dev) : (setPair lo hi v d).grt = d.grt := rfl
@[simp] theorem setPair_thm (lo hi : Fld) (v : Nat) (d : Dev) : (setPair lo hi v d).thm = d.thm := rfl
@[simp] theorem setPair_obs (lo hi : Fld) (v : Nat) (d : Dev) : (setPair lo hi v d).obs = d.obs := rfl
@[simp] theorem setPair_spr (lo hi : Fld) (v : Nat) (d : Dev) : (setPair lo hi v d).spr = d.spr := rfl
@[simp] theorem setPair_free (lo hi : Fld) (v : Nat) (d : Dev) : (setPair lo hi v d).free = d.free := rfl

/-! ### addSat -/

@[simp] theorem addSat_glb (f : Fld) (n : Nat) (d : Dev) : (addSat f n d).glb = d.glb := rfl
@[simp] theorem addSat_svc (f : Fld) (n : Nat) (d : Dev) : (addSat f n d).svc = d.svc := rfl
@[simp] theorem addSat_sch (f : Fld) (n : Nat) (d : Dev) : (addSat f n d).sch = d.sch := rfl
@[simp] theorem addSat_fab (f : Fld) (n : Nat) (d : Dev) : (addSat f n d).fab = d.fab := rfl
@[simp] theorem addSat_bsn (f : Fld) (n : Nat) (d : Dev) : (addSat f n d).bsn = d.bsn := rfl
@[simp] theorem addSat_ntr (f : Fld) (n : Nat) (d : Dev) : (addSat f n d).ntr = d.ntr := rfl
@[simp] theorem addSat_med (f : Fld) (n : Nat) (d : Dev) : (addSat f n d).med = d.med := rfl
@[simp] theorem addSat_xlt (f : Fld) (n : Nat) (d : Dev) : (addSat f n d).xlt = d.xlt := rfl
@[simp] theorem addSat_slu (f : Fld) (n : Nat) (d : Dev) : (addSat f n d).slu = d.slu := rfl
@[simp] theorem addSat_twn (f : Fld) (n : Nat) (d : Dev) : (addSat f n d).twn = d.twn := rfl
@[simp] theorem addSat_pwr (f : Fld) (n : Nat) (d : Dev) : (addSat f n d).pwr = d.pwr := rfl
@[simp] theorem addSat_grt (f : Fld) (n : Nat) (d : Dev) : (addSat f n d).grt = d.grt := rfl
@[simp] theorem addSat_thm (f : Fld) (n : Nat) (d : Dev) : (addSat f n d).thm = d.thm := rfl
@[simp] theorem addSat_obs (f : Fld) (n : Nat) (d : Dev) : (addSat f n d).obs = d.obs := rfl
@[simp] theorem addSat_spr (f : Fld) (n : Nat) (d : Dev) : (addSat f n d).spr = d.spr := rfl
@[simp] theorem addSat_free (f : Fld) (n : Nat) (d : Dev) : (addSat f n d).free = d.free := rfl

/-! ### onGlb -/

@[simp] theorem onGlb_regs (f : Glb → Glb) (d : Dev) : (onGlb f d).regs = d.regs := rfl
@[simp] theorem onGlb_svc (f : Glb → Glb) (d : Dev) : (onGlb f d).svc = d.svc := rfl
@[simp] theorem onGlb_sch (f : Glb → Glb) (d : Dev) : (onGlb f d).sch = d.sch := rfl
@[simp] theorem onGlb_fab (f : Glb → Glb) (d : Dev) : (onGlb f d).fab = d.fab := rfl
@[simp] theorem onGlb_bsn (f : Glb → Glb) (d : Dev) : (onGlb f d).bsn = d.bsn := rfl
@[simp] theorem onGlb_ntr (f : Glb → Glb) (d : Dev) : (onGlb f d).ntr = d.ntr := rfl
@[simp] theorem onGlb_med (f : Glb → Glb) (d : Dev) : (onGlb f d).med = d.med := rfl
@[simp] theorem onGlb_xlt (f : Glb → Glb) (d : Dev) : (onGlb f d).xlt = d.xlt := rfl
@[simp] theorem onGlb_slu (f : Glb → Glb) (d : Dev) : (onGlb f d).slu = d.slu := rfl
@[simp] theorem onGlb_twn (f : Glb → Glb) (d : Dev) : (onGlb f d).twn = d.twn := rfl
@[simp] theorem onGlb_pwr (f : Glb → Glb) (d : Dev) : (onGlb f d).pwr = d.pwr := rfl
@[simp] theorem onGlb_grt (f : Glb → Glb) (d : Dev) : (onGlb f d).grt = d.grt := rfl
@[simp] theorem onGlb_thm (f : Glb → Glb) (d : Dev) : (onGlb f d).thm = d.thm := rfl
@[simp] theorem onGlb_obs (f : Glb → Glb) (d : Dev) : (onGlb f d).obs = d.obs := rfl
@[simp] theorem onGlb_spr (f : Glb → Glb) (d : Dev) : (onGlb f d).spr = d.spr := rfl
@[simp] theorem onGlb_free (f : Glb → Glb) (d : Dev) : (onGlb f d).free = d.free := rfl
@[simp] theorem onGlb_glb (f : Glb → Glb) (d : Dev) : (onGlb f d).glb = f d.glb := rfl
@[simp] theorem regGet_onGlb (f : Glb → Glb) (d : Dev) (a : Nat) : regGet (onGlb f d) a = regGet d a := rfl
@[simp] theorem getF_onGlb (f : Glb → Glb) (d : Dev) (g : Fld) : getF (onGlb f d) g = getF d g := rfl
@[simp] theorem flag_onGlb (f : Glb → Glb) (d : Dev) (g : Fld) : flag (onGlb f d) g = flag d g := rfl

/-! ### markSf -/

@[simp] theorem markSf_regs (k : Nat) (d : Dev) : (markSf k d).regs = d.regs := rfl
@[simp] theorem markSf_svc (k : Nat) (d : Dev) : (markSf k d).svc = d.svc := rfl
@[simp] theorem markSf_sch (k : Nat) (d : Dev) : (markSf k d).sch = d.sch := rfl
@[simp] theorem markSf_fab (k : Nat) (d : Dev) : (markSf k d).fab = d.fab := rfl
@[simp] theorem markSf_bsn (k : Nat) (d : Dev) : (markSf k d).bsn = d.bsn := rfl
@[simp] theorem markSf_ntr (k : Nat) (d : Dev) : (markSf k d).ntr = d.ntr := rfl
@[simp] theorem markSf_med (k : Nat) (d : Dev) : (markSf k d).med = d.med := rfl
@[simp] theorem markSf_xlt (k : Nat) (d : Dev) : (markSf k d).xlt = d.xlt := rfl
@[simp] theorem markSf_slu (k : Nat) (d : Dev) : (markSf k d).slu = d.slu := rfl
@[simp] theorem markSf_twn (k : Nat) (d : Dev) : (markSf k d).twn = d.twn := rfl
@[simp] theorem markSf_pwr (k : Nat) (d : Dev) : (markSf k d).pwr = d.pwr := rfl
@[simp] theorem markSf_grt (k : Nat) (d : Dev) : (markSf k d).grt = d.grt := rfl
@[simp] theorem markSf_thm (k : Nat) (d : Dev) : (markSf k d).thm = d.thm := rfl
@[simp] theorem markSf_obs (k : Nat) (d : Dev) : (markSf k d).obs = d.obs := rfl
@[simp] theorem markSf_spr (k : Nat) (d : Dev) : (markSf k d).spr = d.spr := rfl
@[simp] theorem markSf_free (k : Nat) (d : Dev) : (markSf k d).free = d.free := rfl
@[simp] theorem regGet_markSf (k : Nat) (d : Dev) (a : Nat) : regGet (markSf k d) a = regGet d a := rfl
@[simp] theorem getF_markSf (k : Nat) (d : Dev) (g : Fld) : getF (markSf k d) g = getF d g := rfl
@[simp] theorem flag_markSf (k : Nat) (d : Dev) (g : Fld) : flag (markSf k d) g = flag d g := rfl

/-! ### onSvc -/

@[simp] theorem onSvc_regs (f : Svc → Svc) (d : Dev) : (onSvc f d).regs = d.regs := rfl
@[simp] theorem onSvc_glb (f : Svc → Svc) (d : Dev) : (onSvc f d).glb = d.glb := rfl
@[simp] theorem onSvc_sch (f : Svc → Svc) (d : Dev) : (onSvc f d).sch = d.sch := rfl
@[simp] theorem onSvc_fab (f : Svc → Svc) (d : Dev) : (onSvc f d).fab = d.fab := rfl
@[simp] theorem onSvc_bsn (f : Svc → Svc) (d : Dev) : (onSvc f d).bsn = d.bsn := rfl
@[simp] theorem onSvc_ntr (f : Svc → Svc) (d : Dev) : (onSvc f d).ntr = d.ntr := rfl
@[simp] theorem onSvc_med (f : Svc → Svc) (d : Dev) : (onSvc f d).med = d.med := rfl
@[simp] theorem onSvc_xlt (f : Svc → Svc) (d : Dev) : (onSvc f d).xlt = d.xlt := rfl
@[simp] theorem onSvc_slu (f : Svc → Svc) (d : Dev) : (onSvc f d).slu = d.slu := rfl
@[simp] theorem onSvc_twn (f : Svc → Svc) (d : Dev) : (onSvc f d).twn = d.twn := rfl
@[simp] theorem onSvc_pwr (f : Svc → Svc) (d : Dev) : (onSvc f d).pwr = d.pwr := rfl
@[simp] theorem onSvc_grt (f : Svc → Svc) (d : Dev) : (onSvc f d).grt = d.grt := rfl
@[simp] theorem onSvc_thm (f : Svc → Svc) (d : Dev) : (onSvc f d).thm = d.thm := rfl
@[simp] theorem onSvc_obs (f : Svc → Svc) (d : Dev) : (onSvc f d).obs = d.obs := rfl
@[simp] theorem onSvc_spr (f : Svc → Svc) (d : Dev) : (onSvc f d).spr = d.spr := rfl
@[simp] theorem onSvc_free (f : Svc → Svc) (d : Dev) : (onSvc f d).free = d.free := rfl
@[simp] theorem onSvc_svc (f : Svc → Svc) (d : Dev) : (onSvc f d).svc = f d.svc := rfl
@[simp] theorem regGet_onSvc (f : Svc → Svc) (d : Dev) (a : Nat) : regGet (onSvc f d) a = regGet d a := rfl
@[simp] theorem getF_onSvc (f : Svc → Svc) (d : Dev) (g : Fld) : getF (onSvc f d) g = getF d g := rfl
@[simp] theorem flag_onSvc (f : Svc → Svc) (d : Dev) (g : Fld) : flag (onSvc f d) g = flag d g := rfl

/-! ### onPort -/

@[simp] theorem onPort_regs (p : Nat) (f : SvcPort → SvcPort) (d : Dev) : (onPort p f d).regs = d.regs := by unfold onPort; split <;> rfl
@[simp] theorem onPort_glb (p : Nat) (f : SvcPort → SvcPort) (d : Dev) : (onPort p f d).glb = d.glb := by unfold onPort; split <;> rfl
@[simp] theorem onPort_sch (p : Nat) (f : SvcPort → SvcPort) (d : Dev) : (onPort p f d).sch = d.sch := by unfold onPort; split <;> rfl
@[simp] theorem onPort_fab (p : Nat) (f : SvcPort → SvcPort) (d : Dev) : (onPort p f d).fab = d.fab := by unfold onPort; split <;> rfl
@[simp] theorem onPort_bsn (p : Nat) (f : SvcPort → SvcPort) (d : Dev) : (onPort p f d).bsn = d.bsn := by unfold onPort; split <;> rfl
@[simp] theorem onPort_ntr (p : Nat) (f : SvcPort → SvcPort) (d : Dev) : (onPort p f d).ntr = d.ntr := by unfold onPort; split <;> rfl
@[simp] theorem onPort_med (p : Nat) (f : SvcPort → SvcPort) (d : Dev) : (onPort p f d).med = d.med := by unfold onPort; split <;> rfl
@[simp] theorem onPort_xlt (p : Nat) (f : SvcPort → SvcPort) (d : Dev) : (onPort p f d).xlt = d.xlt := by unfold onPort; split <;> rfl
@[simp] theorem onPort_slu (p : Nat) (f : SvcPort → SvcPort) (d : Dev) : (onPort p f d).slu = d.slu := by unfold onPort; split <;> rfl
@[simp] theorem onPort_twn (p : Nat) (f : SvcPort → SvcPort) (d : Dev) : (onPort p f d).twn = d.twn := by unfold onPort; split <;> rfl
@[simp] theorem onPort_pwr (p : Nat) (f : SvcPort → SvcPort) (d : Dev) : (onPort p f d).pwr = d.pwr := by unfold onPort; split <;> rfl
@[simp] theorem onPort_grt (p : Nat) (f : SvcPort → SvcPort) (d : Dev) : (onPort p f d).grt = d.grt := by unfold onPort; split <;> rfl
@[simp] theorem onPort_thm (p : Nat) (f : SvcPort → SvcPort) (d : Dev) : (onPort p f d).thm = d.thm := by unfold onPort; split <;> rfl
@[simp] theorem onPort_obs (p : Nat) (f : SvcPort → SvcPort) (d : Dev) : (onPort p f d).obs = d.obs := by unfold onPort; split <;> rfl
@[simp] theorem onPort_spr (p : Nat) (f : SvcPort → SvcPort) (d : Dev) : (onPort p f d).spr = d.spr := by unfold onPort; split <;> rfl
@[simp] theorem onPort_free (p : Nat) (f : SvcPort → SvcPort) (d : Dev) : (onPort p f d).free = d.free := by unfold onPort; split <;> rfl
@[simp] theorem regGet_onPort (p : Nat) (f : SvcPort → SvcPort) (d : Dev) (a : Nat) : regGet (onPort p f d) a = regGet d a := by unfold onPort; split <;> rfl
@[simp] theorem getF_onPort (p : Nat) (f : SvcPort → SvcPort) (d : Dev) (g : Fld) : getF (onPort p f d) g = getF d g := by unfold onPort; split <;> rfl
@[simp] theorem flag_onPort (p : Nat) (f : SvcPort → SvcPort) (d : Dev) (g : Fld) : flag (onPort p f d) g = flag d g := by unfold onPort; split <;> rfl

/-! ### onSch -/

@[simp] theorem onSch_regs (f : Sch → Sch) (d : Dev) : (onSch f d).regs = d.regs := rfl
@[simp] theorem onSch_glb (f : Sch → Sch) (d : Dev) : (onSch f d).glb = d.glb := rfl
@[simp] theorem onSch_svc (f : Sch → Sch) (d : Dev) : (onSch f d).svc = d.svc := rfl
@[simp] theorem onSch_fab (f : Sch → Sch) (d : Dev) : (onSch f d).fab = d.fab := rfl
@[simp] theorem onSch_bsn (f : Sch → Sch) (d : Dev) : (onSch f d).bsn = d.bsn := rfl
@[simp] theorem onSch_ntr (f : Sch → Sch) (d : Dev) : (onSch f d).ntr = d.ntr := rfl
@[simp] theorem onSch_med (f : Sch → Sch) (d : Dev) : (onSch f d).med = d.med := rfl
@[simp] theorem onSch_xlt (f : Sch → Sch) (d : Dev) : (onSch f d).xlt = d.xlt := rfl
@[simp] theorem onSch_slu (f : Sch → Sch) (d : Dev) : (onSch f d).slu = d.slu := rfl
@[simp] theorem onSch_twn (f : Sch → Sch) (d : Dev) : (onSch f d).twn = d.twn := rfl
@[simp] theorem onSch_pwr (f : Sch → Sch) (d : Dev) : (onSch f d).pwr = d.pwr := rfl
@[simp] theorem onSch_grt (f : Sch → Sch) (d : Dev) : (onSch f d).grt = d.grt := rfl
@[simp] theorem onSch_thm (f : Sch → Sch) (d : Dev) : (onSch f d).thm = d.thm := rfl
@[simp] theorem onSch_obs (f : Sch → Sch) (d : Dev) : (onSch f d).obs = d.obs := rfl
@[simp] theorem onSch_spr (f : Sch → Sch) (d : Dev) : (onSch f d).spr = d.spr := rfl
@[simp] theorem onSch_free (f : Sch → Sch) (d : Dev) : (onSch f d).free = d.free := rfl
@[simp] theorem onSch_sch (f : Sch → Sch) (d : Dev) : (onSch f d).sch = f d.sch := rfl
@[simp] theorem regGet_onSch (f : Sch → Sch) (d : Dev) (a : Nat) : regGet (onSch f d) a = regGet d a := rfl
@[simp] theorem getF_onSch (f : Sch → Sch) (d : Dev) (g : Fld) : getF (onSch f d) g = getF d g := rfl
@[simp] theorem flag_onSch (f : Sch → Sch) (d : Dev) (g : Fld) : flag (onSch f d) g = flag d g := rfl

/-! ### onRunnel -/

@[simp] theorem onRunnel_regs (n : Nat) (f : Runnel → Runnel) (d : Dev) : (onRunnel n f d).regs = d.regs := rfl
@[simp] theorem onRunnel_glb (n : Nat) (f : Runnel → Runnel) (d : Dev) : (onRunnel n f d).glb = d.glb := rfl
@[simp] theorem onRunnel_svc (n : Nat) (f : Runnel → Runnel) (d : Dev) : (onRunnel n f d).svc = d.svc := rfl
@[simp] theorem onRunnel_fab (n : Nat) (f : Runnel → Runnel) (d : Dev) : (onRunnel n f d).fab = d.fab := rfl
@[simp] theorem onRunnel_bsn (n : Nat) (f : Runnel → Runnel) (d : Dev) : (onRunnel n f d).bsn = d.bsn := rfl
@[simp] theorem onRunnel_ntr (n : Nat) (f : Runnel → Runnel) (d : Dev) : (onRunnel n f d).ntr = d.ntr := rfl
@[simp] theorem onRunnel_med (n : Nat) (f : Runnel → Runnel) (d : Dev) : (onRunnel n f d).med = d.med := rfl
@[simp] theorem onRunnel_xlt (n : Nat) (f : Runnel → Runnel) (d : Dev) : (onRunnel n f d).xlt = d.xlt := rfl
@[simp] theorem onRunnel_slu (n : Nat) (f : Runnel → Runnel) (d : Dev) : (onRunnel n f d).slu = d.slu := rfl
@[simp] theorem onRunnel_twn (n : Nat) (f : Runnel → Runnel) (d : Dev) : (onRunnel n f d).twn = d.twn := rfl
@[simp] theorem onRunnel_pwr (n : Nat) (f : Runnel → Runnel) (d : Dev) : (onRunnel n f d).pwr = d.pwr := rfl
@[simp] theorem onRunnel_grt (n : Nat) (f : Runnel → Runnel) (d : Dev) : (onRunnel n f d).grt = d.grt := rfl
@[simp] theorem onRunnel_thm (n : Nat) (f : Runnel → Runnel) (d : Dev) : (onRunnel n f d).thm = d.thm := rfl
@[simp] theorem onRunnel_obs (n : Nat) (f : Runnel → Runnel) (d : Dev) : (onRunnel n f d).obs = d.obs := rfl
@[simp] theorem onRunnel_spr (n : Nat) (f : Runnel → Runnel) (d : Dev) : (onRunnel n f d).spr = d.spr := rfl
@[simp] theorem onRunnel_free (n : Nat) (f : Runnel → Runnel) (d : Dev) : (onRunnel n f d).free = d.free := rfl
@[simp] theorem regGet_onRunnel (n : Nat) (f : Runnel → Runnel) (d : Dev) (a : Nat) : regGet (onRunnel n f d) a = regGet d a := rfl
@[simp] theorem getF_onRunnel (n : Nat) (f : Runnel → Runnel) (d : Dev) (g : Fld) : getF (onRunnel n f d) g = getF d g := rfl
@[simp] theorem flag_onRunnel (n : Nat) (f : Runnel → Runnel) (d : Dev) (g : Fld) : flag (onRunnel n f d) g = flag d g := rfl

/-! ### onLink -/

@[simp] theorem onLink_regs (l : Nat) (f : LinkSt → LinkSt) (d : Dev) : (onLink l f d).regs = d.regs := rfl
@[simp] theorem onLink_glb (l : Nat) (f : LinkSt → LinkSt) (d : Dev) : (onLink l f d).glb = d.glb := rfl
@[simp] theorem onLink_svc (l : Nat) (f : LinkSt → LinkSt) (d : Dev) : (onLink l f d).svc = d.svc := rfl
@[simp] theorem onLink_sch (l : Nat) (f : LinkSt → LinkSt) (d : Dev) : (onLink l f d).sch = d.sch := rfl
@[simp] theorem onLink_bsn (l : Nat) (f : LinkSt → LinkSt) (d : Dev) : (onLink l f d).bsn = d.bsn := rfl
@[simp] theorem onLink_ntr (l : Nat) (f : LinkSt → LinkSt) (d : Dev) : (onLink l f d).ntr = d.ntr := rfl
@[simp] theorem onLink_med (l : Nat) (f : LinkSt → LinkSt) (d : Dev) : (onLink l f d).med = d.med := rfl
@[simp] theorem onLink_xlt (l : Nat) (f : LinkSt → LinkSt) (d : Dev) : (onLink l f d).xlt = d.xlt := rfl
@[simp] theorem onLink_slu (l : Nat) (f : LinkSt → LinkSt) (d : Dev) : (onLink l f d).slu = d.slu := rfl
@[simp] theorem onLink_twn (l : Nat) (f : LinkSt → LinkSt) (d : Dev) : (onLink l f d).twn = d.twn := rfl
@[simp] theorem onLink_pwr (l : Nat) (f : LinkSt → LinkSt) (d : Dev) : (onLink l f d).pwr = d.pwr := rfl
@[simp] theorem onLink_grt (l : Nat) (f : LinkSt → LinkSt) (d : Dev) : (onLink l f d).grt = d.grt := rfl
@[simp] theorem onLink_thm (l : Nat) (f : LinkSt → LinkSt) (d : Dev) : (onLink l f d).thm = d.thm := rfl
@[simp] theorem onLink_obs (l : Nat) (f : LinkSt → LinkSt) (d : Dev) : (onLink l f d).obs = d.obs := rfl
@[simp] theorem onLink_spr (l : Nat) (f : LinkSt → LinkSt) (d : Dev) : (onLink l f d).spr = d.spr := rfl
@[simp] theorem onLink_free (l : Nat) (f : LinkSt → LinkSt) (d : Dev) : (onLink l f d).free = d.free := rfl
@[simp] theorem regGet_onLink (l : Nat) (f : LinkSt → LinkSt) (d : Dev) (a : Nat) : regGet (onLink l f d) a = regGet d a := rfl
@[simp] theorem getF_onLink (l : Nat) (f : LinkSt → LinkSt) (d : Dev) (g : Fld) : getF (onLink l f d) g = getF d g := rfl
@[simp] theorem flag_onLink (l : Nat) (f : LinkSt → LinkSt) (d : Dev) (g : Fld) : flag (onLink l f d) g = flag d g := rfl

/-! ### onBsn -/

@[simp] theorem onBsn_regs (f : Bsn → Bsn) (d : Dev) : (onBsn f d).regs = d.regs := rfl
@[simp] theorem onBsn_glb (f : Bsn → Bsn) (d : Dev) : (onBsn f d).glb = d.glb := rfl
@[simp] theorem onBsn_svc (f : Bsn → Bsn) (d : Dev) : (onBsn f d).svc = d.svc := rfl
@[simp] theorem onBsn_sch (f : Bsn → Bsn) (d : Dev) : (onBsn f d).sch = d.sch := rfl
@[simp] theorem onBsn_fab (f : Bsn → Bsn) (d : Dev) : (onBsn f d).fab = d.fab := rfl
@[simp] theorem onBsn_ntr (f : Bsn → Bsn) (d : Dev) : (onBsn f d).ntr = d.ntr := rfl
@[simp] theorem onBsn_med (f : Bsn → Bsn) (d : Dev) : (onBsn f d).med = d.med := rfl
@[simp] theorem onBsn_xlt (f : Bsn → Bsn) (d : Dev) : (onBsn f d).xlt = d.xlt := rfl
@[simp] theorem onBsn_slu (f : Bsn → Bsn) (d : Dev) : (onBsn f d).slu = d.slu := rfl
@[simp] theorem onBsn_twn (f : Bsn → Bsn) (d : Dev) : (onBsn f d).twn = d.twn := rfl
@[simp] theorem onBsn_pwr (f : Bsn → Bsn) (d : Dev) : (onBsn f d).pwr = d.pwr := rfl
@[simp] theorem onBsn_grt (f : Bsn → Bsn) (d : Dev) : (onBsn f d).grt = d.grt := rfl
@[simp] theorem onBsn_thm (f : Bsn → Bsn) (d : Dev) : (onBsn f d).thm = d.thm := rfl
@[simp] theorem onBsn_obs (f : Bsn → Bsn) (d : Dev) : (onBsn f d).obs = d.obs := rfl
@[simp] theorem onBsn_spr (f : Bsn → Bsn) (d : Dev) : (onBsn f d).spr = d.spr := rfl
@[simp] theorem onBsn_free (f : Bsn → Bsn) (d : Dev) : (onBsn f d).free = d.free := rfl
@[simp] theorem onBsn_bsn (f : Bsn → Bsn) (d : Dev) : (onBsn f d).bsn = f d.bsn := rfl
@[simp] theorem regGet_onBsn (f : Bsn → Bsn) (d : Dev) (a : Nat) : regGet (onBsn f d) a = regGet d a := rfl
@[simp] theorem getF_onBsn (f : Bsn → Bsn) (d : Dev) (g : Fld) : getF (onBsn f d) g = getF d g := rfl
@[simp] theorem flag_onBsn (f : Bsn → Bsn) (d : Dev) (g : Fld) : flag (onBsn f d) g = flag d g := rfl

/-! ### putT -/

@[simp] theorem putT_regs (h : Nat) (t : Txn) (d : Dev) : (putT h t d).regs = d.regs := rfl
@[simp] theorem putT_glb (h : Nat) (t : Txn) (d : Dev) : (putT h t d).glb = d.glb := rfl
@[simp] theorem putT_svc (h : Nat) (t : Txn) (d : Dev) : (putT h t d).svc = d.svc := rfl
@[simp] theorem putT_sch (h : Nat) (t : Txn) (d : Dev) : (putT h t d).sch = d.sch := rfl
@[simp] theorem putT_fab (h : Nat) (t : Txn) (d : Dev) : (putT h t d).fab = d.fab := rfl
@[simp] theorem putT_ntr (h : Nat) (t : Txn) (d : Dev) : (putT h t d).ntr = d.ntr := rfl
@[simp] theorem putT_med (h : Nat) (t : Txn) (d : Dev) : (putT h t d).med = d.med := rfl
@[simp] theorem putT_xlt (h : Nat) (t : Txn) (d : Dev) : (putT h t d).xlt = d.xlt := rfl
@[simp] theorem putT_slu (h : Nat) (t : Txn) (d : Dev) : (putT h t d).slu = d.slu := rfl
@[simp] theorem putT_twn (h : Nat) (t : Txn) (d : Dev) : (putT h t d).twn = d.twn := rfl
@[simp] theorem putT_pwr (h : Nat) (t : Txn) (d : Dev) : (putT h t d).pwr = d.pwr := rfl
@[simp] theorem putT_grt (h : Nat) (t : Txn) (d : Dev) : (putT h t d).grt = d.grt := rfl
@[simp] theorem putT_thm (h : Nat) (t : Txn) (d : Dev) : (putT h t d).thm = d.thm := rfl
@[simp] theorem putT_obs (h : Nat) (t : Txn) (d : Dev) : (putT h t d).obs = d.obs := rfl
@[simp] theorem putT_spr (h : Nat) (t : Txn) (d : Dev) : (putT h t d).spr = d.spr := rfl
@[simp] theorem putT_free (h : Nat) (t : Txn) (d : Dev) : (putT h t d).free = d.free := rfl
@[simp] theorem regGet_putT (h : Nat) (t : Txn) (d : Dev) (a : Nat) : regGet (putT h t d) a = regGet d a := rfl
@[simp] theorem getF_putT (h : Nat) (t : Txn) (d : Dev) (g : Fld) : getF (putT h t d) g = getF d g := rfl
@[simp] theorem flag_putT (h : Nat) (t : Txn) (d : Dev) (g : Fld) : flag (putT h t d) g = flag d g := rfl

/-! ### onT -/

@[simp] theorem onT_regs (h : Nat) (f : Txn → Txn) (d : Dev) : (onT h f d).regs = d.regs := by unfold onT; split <;> rfl
@[simp] theorem onT_glb (h : Nat) (f : Txn → Txn) (d : Dev) : (onT h f d).glb = d.glb := by unfold onT; split <;> rfl
@[simp] theorem onT_svc (h : Nat) (f : Txn → Txn) (d : Dev) : (onT h f d).svc = d.svc := by unfold onT; split <;> rfl
@[simp] theorem onT_sch (h : Nat) (f : Txn → Txn) (d : Dev) : (onT h f d).sch = d.sch := by unfold onT; split <;> rfl
@[simp] theorem onT_fab (h : Nat) (f : Txn → Txn) (d : Dev) : (onT h f d).fab = d.fab := by unfold onT; split <;> rfl
@[simp] theorem onT_ntr (h : Nat) (f : Txn → Txn) (d : Dev) : (onT h f d).ntr = d.ntr := by unfold onT; split <;> rfl
@[simp] theorem onT_med (h : Nat) (f : Txn → Txn) (d : Dev) : (onT h f d).med = d.med := by unfold onT; split <;> rfl
@[simp] theorem onT_xlt (h : Nat) (f : Txn → Txn) (d : Dev) : (onT h f d).xlt = d.xlt := by unfold onT; split <;> rfl
@[simp] theorem onT_slu (h : Nat) (f : Txn → Txn) (d : Dev) : (onT h f d).slu = d.slu := by unfold onT; split <;> rfl
@[simp] theorem onT_twn (h : Nat) (f : Txn → Txn) (d : Dev) : (onT h f d).twn = d.twn := by unfold onT; split <;> rfl
@[simp] theorem onT_pwr (h : Nat) (f : Txn → Txn) (d : Dev) : (onT h f d).pwr = d.pwr := by unfold onT; split <;> rfl
@[simp] theorem onT_grt (h : Nat) (f : Txn → Txn) (d : Dev) : (onT h f d).grt = d.grt := by unfold onT; split <;> rfl
@[simp] theorem onT_thm (h : Nat) (f : Txn → Txn) (d : Dev) : (onT h f d).thm = d.thm := by unfold onT; split <;> rfl
@[simp] theorem onT_obs (h : Nat) (f : Txn → Txn) (d : Dev) : (onT h f d).obs = d.obs := by unfold onT; split <;> rfl
@[simp] theorem onT_spr (h : Nat) (f : Txn → Txn) (d : Dev) : (onT h f d).spr = d.spr := by unfold onT; split <;> rfl
@[simp] theorem onT_free (h : Nat) (f : Txn → Txn) (d : Dev) : (onT h f d).free = d.free := by unfold onT; split <;> rfl
@[simp] theorem regGet_onT (h : Nat) (f : Txn → Txn) (d : Dev) (a : Nat) : regGet (onT h f d) a = regGet d a := by unfold onT; split <;> rfl
@[simp] theorem getF_onT (h : Nat) (f : Txn → Txn) (d : Dev) (g : Fld) : getF (onT h f d) g = getF d g := by unfold onT; split <;> rfl
@[simp] theorem flag_onT (h : Nat) (f : Txn → Txn) (d : Dev) (g : Fld) : flag (onT h f d) g = flag d g := by unfold onT; split <;> rfl

/-! ### onNtr -/

@[simp] theorem onNtr_regs (f : Ntr → Ntr) (d : Dev) : (onNtr f d).regs = d.regs := rfl
@[simp] theorem onNtr_glb (f : Ntr → Ntr) (d : Dev) : (onNtr f d).glb = d.glb := rfl
@[simp] theorem onNtr_svc (f : Ntr → Ntr) (d : Dev) : (onNtr f d).svc = d.svc := rfl
@[simp] theorem onNtr_sch (f : Ntr → Ntr) (d : Dev) : (onNtr f d).sch = d.sch := rfl
@[simp] theorem onNtr_fab (f : Ntr → Ntr) (d : Dev) : (onNtr f d).fab = d.fab := rfl
@[simp] theorem onNtr_bsn (f : Ntr → Ntr) (d : Dev) : (onNtr f d).bsn = d.bsn := rfl
@[simp] theorem onNtr_med (f : Ntr → Ntr) (d : Dev) : (onNtr f d).med = d.med := rfl
@[simp] theorem onNtr_xlt (f : Ntr → Ntr) (d : Dev) : (onNtr f d).xlt = d.xlt := rfl
@[simp] theorem onNtr_slu (f : Ntr → Ntr) (d : Dev) : (onNtr f d).slu = d.slu := rfl
@[simp] theorem onNtr_twn (f : Ntr → Ntr) (d : Dev) : (onNtr f d).twn = d.twn := rfl
@[simp] theorem onNtr_pwr (f : Ntr → Ntr) (d : Dev) : (onNtr f d).pwr = d.pwr := rfl
@[simp] theorem onNtr_grt (f : Ntr → Ntr) (d : Dev) : (onNtr f d).grt = d.grt := rfl
@[simp] theorem onNtr_thm (f : Ntr → Ntr) (d : Dev) : (onNtr f d).thm = d.thm := rfl
@[simp] theorem onNtr_obs (f : Ntr → Ntr) (d : Dev) : (onNtr f d).obs = d.obs := rfl
@[simp] theorem onNtr_spr (f : Ntr → Ntr) (d : Dev) : (onNtr f d).spr = d.spr := rfl
@[simp] theorem onNtr_free (f : Ntr → Ntr) (d : Dev) : (onNtr f d).free = d.free := rfl
@[simp] theorem onNtr_ntr (f : Ntr → Ntr) (d : Dev) : (onNtr f d).ntr = f d.ntr := rfl
@[simp] theorem regGet_onNtr (f : Ntr → Ntr) (d : Dev) (a : Nat) : regGet (onNtr f d) a = regGet d a := rfl
@[simp] theorem getF_onNtr (f : Ntr → Ntr) (d : Dev) (g : Fld) : getF (onNtr f d) g = getF d g := rfl
@[simp] theorem flag_onNtr (f : Ntr → Ntr) (d : Dev) (g : Fld) : flag (onNtr f d) g = flag d g := rfl

/-! ### onDie -/

@[simp] theorem onDie_regs (x : Nat) (f : Die → Die) (d : Dev) : (onDie x f d).regs = d.regs := rfl
@[simp] theorem onDie_glb (x : Nat) (f : Die → Die) (d : Dev) : (onDie x f d).glb = d.glb := rfl
@[simp] theorem onDie_svc (x : Nat) (f : Die → Die) (d : Dev) : (onDie x f d).svc = d.svc := rfl
@[simp] theorem onDie_sch (x : Nat) (f : Die → Die) (d : Dev) : (onDie x f d).sch = d.sch := rfl
@[simp] theorem onDie_fab (x : Nat) (f : Die → Die) (d : Dev) : (onDie x f d).fab = d.fab := rfl
@[simp] theorem onDie_bsn (x : Nat) (f : Die → Die) (d : Dev) : (onDie x f d).bsn = d.bsn := rfl
@[simp] theorem onDie_ntr (x : Nat) (f : Die → Die) (d : Dev) : (onDie x f d).ntr = d.ntr := rfl
@[simp] theorem onDie_xlt (x : Nat) (f : Die → Die) (d : Dev) : (onDie x f d).xlt = d.xlt := rfl
@[simp] theorem onDie_slu (x : Nat) (f : Die → Die) (d : Dev) : (onDie x f d).slu = d.slu := rfl
@[simp] theorem onDie_twn (x : Nat) (f : Die → Die) (d : Dev) : (onDie x f d).twn = d.twn := rfl
@[simp] theorem onDie_pwr (x : Nat) (f : Die → Die) (d : Dev) : (onDie x f d).pwr = d.pwr := rfl
@[simp] theorem onDie_grt (x : Nat) (f : Die → Die) (d : Dev) : (onDie x f d).grt = d.grt := rfl
@[simp] theorem onDie_thm (x : Nat) (f : Die → Die) (d : Dev) : (onDie x f d).thm = d.thm := rfl
@[simp] theorem onDie_obs (x : Nat) (f : Die → Die) (d : Dev) : (onDie x f d).obs = d.obs := rfl
@[simp] theorem onDie_spr (x : Nat) (f : Die → Die) (d : Dev) : (onDie x f d).spr = d.spr := rfl
@[simp] theorem onDie_free (x : Nat) (f : Die → Die) (d : Dev) : (onDie x f d).free = d.free := rfl
@[simp] theorem regGet_onDie (x : Nat) (f : Die → Die) (d : Dev) (a : Nat) : regGet (onDie x f d) a = regGet d a := rfl
@[simp] theorem getF_onDie (x : Nat) (f : Die → Die) (d : Dev) (g : Fld) : getF (onDie x f d) g = getF d g := rfl
@[simp] theorem flag_onDie (x : Nat) (f : Die → Die) (d : Dev) (g : Fld) : flag (onDie x f d) g = flag d g := rfl

/-! ### onChan -/

@[simp] theorem onChan_regs (c : Nat) (f : Chan → Chan) (d : Dev) : (onChan c f d).regs = d.regs := rfl
@[simp] theorem onChan_glb (c : Nat) (f : Chan → Chan) (d : Dev) : (onChan c f d).glb = d.glb := rfl
@[simp] theorem onChan_svc (c : Nat) (f : Chan → Chan) (d : Dev) : (onChan c f d).svc = d.svc := rfl
@[simp] theorem onChan_sch (c : Nat) (f : Chan → Chan) (d : Dev) : (onChan c f d).sch = d.sch := rfl
@[simp] theorem onChan_fab (c : Nat) (f : Chan → Chan) (d : Dev) : (onChan c f d).fab = d.fab := rfl
@[simp] theorem onChan_bsn (c : Nat) (f : Chan → Chan) (d : Dev) : (onChan c f d).bsn = d.bsn := rfl
@[simp] theorem onChan_ntr (c : Nat) (f : Chan → Chan) (d : Dev) : (onChan c f d).ntr = d.ntr := rfl
@[simp] theorem onChan_xlt (c : Nat) (f : Chan → Chan) (d : Dev) : (onChan c f d).xlt = d.xlt := rfl
@[simp] theorem onChan_slu (c : Nat) (f : Chan → Chan) (d : Dev) : (onChan c f d).slu = d.slu := rfl
@[simp] theorem onChan_twn (c : Nat) (f : Chan → Chan) (d : Dev) : (onChan c f d).twn = d.twn := rfl
@[simp] theorem onChan_pwr (c : Nat) (f : Chan → Chan) (d : Dev) : (onChan c f d).pwr = d.pwr := rfl
@[simp] theorem onChan_grt (c : Nat) (f : Chan → Chan) (d : Dev) : (onChan c f d).grt = d.grt := rfl
@[simp] theorem onChan_thm (c : Nat) (f : Chan → Chan) (d : Dev) : (onChan c f d).thm = d.thm := rfl
@[simp] theorem onChan_obs (c : Nat) (f : Chan → Chan) (d : Dev) : (onChan c f d).obs = d.obs := rfl
@[simp] theorem onChan_spr (c : Nat) (f : Chan → Chan) (d : Dev) : (onChan c f d).spr = d.spr := rfl
@[simp] theorem onChan_free (c : Nat) (f : Chan → Chan) (d : Dev) : (onChan c f d).free = d.free := rfl
@[simp] theorem regGet_onChan (c : Nat) (f : Chan → Chan) (d : Dev) (a : Nat) : regGet (onChan c f d) a = regGet d a := rfl
@[simp] theorem getF_onChan (c : Nat) (f : Chan → Chan) (d : Dev) (g : Fld) : getF (onChan c f d) g = getF d g := rfl
@[simp] theorem flag_onChan (c : Nat) (f : Chan → Chan) (d : Dev) (g : Fld) : flag (onChan c f d) g = flag d g := rfl

/-! ### onXlt -/

@[simp] theorem onXlt_regs (f : Xlt → Xlt) (d : Dev) : (onXlt f d).regs = d.regs := rfl
@[simp] theorem onXlt_glb (f : Xlt → Xlt) (d : Dev) : (onXlt f d).glb = d.glb := rfl
@[simp] theorem onXlt_svc (f : Xlt → Xlt) (d : Dev) : (onXlt f d).svc = d.svc := rfl
@[simp] theorem onXlt_sch (f : Xlt → Xlt) (d : Dev) : (onXlt f d).sch = d.sch := rfl
@[simp] theorem onXlt_fab (f : Xlt → Xlt) (d : Dev) : (onXlt f d).fab = d.fab := rfl
@[simp] theorem onXlt_bsn (f : Xlt → Xlt) (d : Dev) : (onXlt f d).bsn = d.bsn := rfl
@[simp] theorem onXlt_ntr (f : Xlt → Xlt) (d : Dev) : (onXlt f d).ntr = d.ntr := rfl
@[simp] theorem onXlt_med (f : Xlt → Xlt) (d : Dev) : (onXlt f d).med = d.med := rfl
@[simp] theorem onXlt_slu (f : Xlt → Xlt) (d : Dev) : (onXlt f d).slu = d.slu := rfl
@[simp] theorem onXlt_twn (f : Xlt → Xlt) (d : Dev) : (onXlt f d).twn = d.twn := rfl
@[simp] theorem onXlt_pwr (f : Xlt → Xlt) (d : Dev) : (onXlt f d).pwr = d.pwr := rfl
@[simp] theorem onXlt_grt (f : Xlt → Xlt) (d : Dev) : (onXlt f d).grt = d.grt := rfl
@[simp] theorem onXlt_thm (f : Xlt → Xlt) (d : Dev) : (onXlt f d).thm = d.thm := rfl
@[simp] theorem onXlt_obs (f : Xlt → Xlt) (d : Dev) : (onXlt f d).obs = d.obs := rfl
@[simp] theorem onXlt_spr (f : Xlt → Xlt) (d : Dev) : (onXlt f d).spr = d.spr := rfl
@[simp] theorem onXlt_free (f : Xlt → Xlt) (d : Dev) : (onXlt f d).free = d.free := rfl
@[simp] theorem onXlt_xlt (f : Xlt → Xlt) (d : Dev) : (onXlt f d).xlt = f d.xlt := rfl
@[simp] theorem regGet_onXlt (f : Xlt → Xlt) (d : Dev) (a : Nat) : regGet (onXlt f d) a = regGet d a := rfl
@[simp] theorem getF_onXlt (f : Xlt → Xlt) (d : Dev) (g : Fld) : getF (onXlt f d) g = getF d g := rfl
@[simp] theorem flag_onXlt (f : Xlt → Xlt) (d : Dev) (g : Fld) : flag (onXlt f d) g = flag d g := rfl

/-! ### onSlu -/

@[simp] theorem onSlu_regs (f : Slu → Slu) (d : Dev) : (onSlu f d).regs = d.regs := rfl
@[simp] theorem onSlu_glb (f : Slu → Slu) (d : Dev) : (onSlu f d).glb = d.glb := rfl
@[simp] theorem onSlu_svc (f : Slu → Slu) (d : Dev) : (onSlu f d).svc = d.svc := rfl
@[simp] theorem onSlu_sch (f : Slu → Slu) (d : Dev) : (onSlu f d).sch = d.sch := rfl
@[simp] theorem onSlu_fab (f : Slu → Slu) (d : Dev) : (onSlu f d).fab = d.fab := rfl
@[simp] theorem onSlu_bsn (f : Slu → Slu) (d : Dev) : (onSlu f d).bsn = d.bsn := rfl
@[simp] theorem onSlu_ntr (f : Slu → Slu) (d : Dev) : (onSlu f d).ntr = d.ntr := rfl
@[simp] theorem onSlu_med (f : Slu → Slu) (d : Dev) : (onSlu f d).med = d.med := rfl
@[simp] theorem onSlu_xlt (f : Slu → Slu) (d : Dev) : (onSlu f d).xlt = d.xlt := rfl
@[simp] theorem onSlu_twn (f : Slu → Slu) (d : Dev) : (onSlu f d).twn = d.twn := rfl
@[simp] theorem onSlu_pwr (f : Slu → Slu) (d : Dev) : (onSlu f d).pwr = d.pwr := rfl
@[simp] theorem onSlu_grt (f : Slu → Slu) (d : Dev) : (onSlu f d).grt = d.grt := rfl
@[simp] theorem onSlu_thm (f : Slu → Slu) (d : Dev) : (onSlu f d).thm = d.thm := rfl
@[simp] theorem onSlu_obs (f : Slu → Slu) (d : Dev) : (onSlu f d).obs = d.obs := rfl
@[simp] theorem onSlu_spr (f : Slu → Slu) (d : Dev) : (onSlu f d).spr = d.spr := rfl
@[simp] theorem onSlu_free (f : Slu → Slu) (d : Dev) : (onSlu f d).free = d.free := rfl
@[simp] theorem onSlu_slu (f : Slu → Slu) (d : Dev) : (onSlu f d).slu = f d.slu := rfl
@[simp] theorem regGet_onSlu (f : Slu → Slu) (d : Dev) (a : Nat) : regGet (onSlu f d) a = regGet d a := rfl
@[simp] theorem getF_onSlu (f : Slu → Slu) (d : Dev) (g : Fld) : getF (onSlu f d) g = getF d g := rfl
@[simp] theorem flag_onSlu (f : Slu → Slu) (d : Dev) (g : Fld) : flag (onSlu f d) g = flag d g := rfl

/-! ### onPage -/

@[simp] theorem onPage_regs (k : Nat) (f : MacPage → MacPage) (d : Dev) : (onPage k f d).regs = d.regs := rfl
@[simp] theorem onPage_glb (k : Nat) (f : MacPage → MacPage) (d : Dev) : (onPage k f d).glb = d.glb := rfl
@[simp] theorem onPage_svc (k : Nat) (f : MacPage → MacPage) (d : Dev) : (onPage k f d).svc = d.svc := rfl
@[simp] theorem onPage_sch (k : Nat) (f : MacPage → MacPage) (d : Dev) : (onPage k f d).sch = d.sch := rfl
@[simp] theorem onPage_fab (k : Nat) (f : MacPage → MacPage) (d : Dev) : (onPage k f d).fab = d.fab := rfl
@[simp] theorem onPage_bsn (k : Nat) (f : MacPage → MacPage) (d : Dev) : (onPage k f d).bsn = d.bsn := rfl
@[simp] theorem onPage_ntr (k : Nat) (f : MacPage → MacPage) (d : Dev) : (onPage k f d).ntr = d.ntr := rfl
@[simp] theorem onPage_med (k : Nat) (f : MacPage → MacPage) (d : Dev) : (onPage k f d).med = d.med := rfl
@[simp] theorem onPage_xlt (k : Nat) (f : MacPage → MacPage) (d : Dev) : (onPage k f d).xlt = d.xlt := rfl
@[simp] theorem onPage_twn (k : Nat) (f : MacPage → MacPage) (d : Dev) : (onPage k f d).twn = d.twn := rfl
@[simp] theorem onPage_pwr (k : Nat) (f : MacPage → MacPage) (d : Dev) : (onPage k f d).pwr = d.pwr := rfl
@[simp] theorem onPage_grt (k : Nat) (f : MacPage → MacPage) (d : Dev) : (onPage k f d).grt = d.grt := rfl
@[simp] theorem onPage_thm (k : Nat) (f : MacPage → MacPage) (d : Dev) : (onPage k f d).thm = d.thm := rfl
@[simp] theorem onPage_obs (k : Nat) (f : MacPage → MacPage) (d : Dev) : (onPage k f d).obs = d.obs := rfl
@[simp] theorem onPage_spr (k : Nat) (f : MacPage → MacPage) (d : Dev) : (onPage k f d).spr = d.spr := rfl
@[simp] theorem onPage_free (k : Nat) (f : MacPage → MacPage) (d : Dev) : (onPage k f d).free = d.free := rfl
@[simp] theorem regGet_onPage (k : Nat) (f : MacPage → MacPage) (d : Dev) (a : Nat) : regGet (onPage k f d) a = regGet d a := rfl
@[simp] theorem getF_onPage (k : Nat) (f : MacPage → MacPage) (d : Dev) (g : Fld) : getF (onPage k f d) g = getF d g := rfl
@[simp] theorem flag_onPage (k : Nat) (f : MacPage → MacPage) (d : Dev) (g : Fld) : flag (onPage k f d) g = flag d g := rfl

/-! ### onTwn -/

@[simp] theorem onTwn_regs (f : Twn → Twn) (d : Dev) : (onTwn f d).regs = d.regs := rfl
@[simp] theorem onTwn_glb (f : Twn → Twn) (d : Dev) : (onTwn f d).glb = d.glb := rfl
@[simp] theorem onTwn_svc (f : Twn → Twn) (d : Dev) : (onTwn f d).svc = d.svc := rfl
@[simp] theorem onTwn_sch (f : Twn → Twn) (d : Dev) : (onTwn f d).sch = d.sch := rfl
@[simp] theorem onTwn_fab (f : Twn → Twn) (d : Dev) : (onTwn f d).fab = d.fab := rfl
@[simp] theorem onTwn_bsn (f : Twn → Twn) (d : Dev) : (onTwn f d).bsn = d.bsn := rfl
@[simp] theorem onTwn_ntr (f : Twn → Twn) (d : Dev) : (onTwn f d).ntr = d.ntr := rfl
@[simp] theorem onTwn_med (f : Twn → Twn) (d : Dev) : (onTwn f d).med = d.med := rfl
@[simp] theorem onTwn_xlt (f : Twn → Twn) (d : Dev) : (onTwn f d).xlt = d.xlt := rfl
@[simp] theorem onTwn_slu (f : Twn → Twn) (d : Dev) : (onTwn f d).slu = d.slu := rfl
@[simp] theorem onTwn_pwr (f : Twn → Twn) (d : Dev) : (onTwn f d).pwr = d.pwr := rfl
@[simp] theorem onTwn_grt (f : Twn → Twn) (d : Dev) : (onTwn f d).grt = d.grt := rfl
@[simp] theorem onTwn_thm (f : Twn → Twn) (d : Dev) : (onTwn f d).thm = d.thm := rfl
@[simp] theorem onTwn_obs (f : Twn → Twn) (d : Dev) : (onTwn f d).obs = d.obs := rfl
@[simp] theorem onTwn_spr (f : Twn → Twn) (d : Dev) : (onTwn f d).spr = d.spr := rfl
@[simp] theorem onTwn_free (f : Twn → Twn) (d : Dev) : (onTwn f d).free = d.free := rfl
@[simp] theorem onTwn_twn (f : Twn → Twn) (d : Dev) : (onTwn f d).twn = f d.twn := rfl
@[simp] theorem regGet_onTwn (f : Twn → Twn) (d : Dev) (a : Nat) : regGet (onTwn f d) a = regGet d a := rfl
@[simp] theorem getF_onTwn (f : Twn → Twn) (d : Dev) (g : Fld) : getF (onTwn f d) g = getF d g := rfl
@[simp] theorem flag_onTwn (f : Twn → Twn) (d : Dev) (g : Fld) : flag (onTwn f d) g = flag d g := rfl

/-! ### onRail -/

@[simp] theorem onRail_regs (r : Nat) (f : Rail → Rail) (d : Dev) : (onRail r f d).regs = d.regs := rfl
@[simp] theorem onRail_glb (r : Nat) (f : Rail → Rail) (d : Dev) : (onRail r f d).glb = d.glb := rfl
@[simp] theorem onRail_svc (r : Nat) (f : Rail → Rail) (d : Dev) : (onRail r f d).svc = d.svc := rfl
@[simp] theorem onRail_sch (r : Nat) (f : Rail → Rail) (d : Dev) : (onRail r f d).sch = d.sch := rfl
@[simp] theorem onRail_fab (r : Nat) (f : Rail → Rail) (d : Dev) : (onRail r f d).fab = d.fab := rfl
@[simp] theorem onRail_bsn (r : Nat) (f : Rail → Rail) (d : Dev) : (onRail r f d).bsn = d.bsn := rfl
@[simp] theorem onRail_ntr (r : Nat) (f : Rail → Rail) (d : Dev) : (onRail r f d).ntr = d.ntr := rfl
@[simp] theorem onRail_med (r : Nat) (f : Rail → Rail) (d : Dev) : (onRail r f d).med = d.med := rfl
@[simp] theorem onRail_xlt (r : Nat) (f : Rail → Rail) (d : Dev) : (onRail r f d).xlt = d.xlt := rfl
@[simp] theorem onRail_slu (r : Nat) (f : Rail → Rail) (d : Dev) : (onRail r f d).slu = d.slu := rfl
@[simp] theorem onRail_twn (r : Nat) (f : Rail → Rail) (d : Dev) : (onRail r f d).twn = d.twn := rfl
@[simp] theorem onRail_grt (r : Nat) (f : Rail → Rail) (d : Dev) : (onRail r f d).grt = d.grt := rfl
@[simp] theorem onRail_thm (r : Nat) (f : Rail → Rail) (d : Dev) : (onRail r f d).thm = d.thm := rfl
@[simp] theorem onRail_obs (r : Nat) (f : Rail → Rail) (d : Dev) : (onRail r f d).obs = d.obs := rfl
@[simp] theorem onRail_spr (r : Nat) (f : Rail → Rail) (d : Dev) : (onRail r f d).spr = d.spr := rfl
@[simp] theorem onRail_free (r : Nat) (f : Rail → Rail) (d : Dev) : (onRail r f d).free = d.free := rfl
@[simp] theorem regGet_onRail (r : Nat) (f : Rail → Rail) (d : Dev) (a : Nat) : regGet (onRail r f d) a = regGet d a := rfl
@[simp] theorem getF_onRail (r : Nat) (f : Rail → Rail) (d : Dev) (g : Fld) : getF (onRail r f d) g = getF d g := rfl
@[simp] theorem flag_onRail (r : Nat) (f : Rail → Rail) (d : Dev) (g : Fld) : flag (onRail r f d) g = flag d g := rfl

/-! ### onPwr -/

@[simp] theorem onPwr_regs (f : Pwr → Pwr) (d : Dev) : (onPwr f d).regs = d.regs := rfl
@[simp] theorem onPwr_glb (f : Pwr → Pwr) (d : Dev) : (onPwr f d).glb = d.glb := rfl
@[simp] theorem onPwr_svc (f : Pwr → Pwr) (d : Dev) : (onPwr f d).svc = d.svc := rfl
@[simp] theorem onPwr_sch (f : Pwr → Pwr) (d : Dev) : (onPwr f d).sch = d.sch := rfl
@[simp] theorem onPwr_fab (f : Pwr → Pwr) (d : Dev) : (onPwr f d).fab = d.fab := rfl
@[simp] theorem onPwr_bsn (f : Pwr → Pwr) (d : Dev) : (onPwr f d).bsn = d.bsn := rfl
@[simp] theorem onPwr_ntr (f : Pwr → Pwr) (d : Dev) : (onPwr f d).ntr = d.ntr := rfl
@[simp] theorem onPwr_med (f : Pwr → Pwr) (d : Dev) : (onPwr f d).med = d.med := rfl
@[simp] theorem onPwr_xlt (f : Pwr → Pwr) (d : Dev) : (onPwr f d).xlt = d.xlt := rfl
@[simp] theorem onPwr_slu (f : Pwr → Pwr) (d : Dev) : (onPwr f d).slu = d.slu := rfl
@[simp] theorem onPwr_twn (f : Pwr → Pwr) (d : Dev) : (onPwr f d).twn = d.twn := rfl
@[simp] theorem onPwr_grt (f : Pwr → Pwr) (d : Dev) : (onPwr f d).grt = d.grt := rfl
@[simp] theorem onPwr_thm (f : Pwr → Pwr) (d : Dev) : (onPwr f d).thm = d.thm := rfl
@[simp] theorem onPwr_obs (f : Pwr → Pwr) (d : Dev) : (onPwr f d).obs = d.obs := rfl
@[simp] theorem onPwr_spr (f : Pwr → Pwr) (d : Dev) : (onPwr f d).spr = d.spr := rfl
@[simp] theorem onPwr_free (f : Pwr → Pwr) (d : Dev) : (onPwr f d).free = d.free := rfl
@[simp] theorem onPwr_pwr (f : Pwr → Pwr) (d : Dev) : (onPwr f d).pwr = f d.pwr := rfl
@[simp] theorem regGet_onPwr (f : Pwr → Pwr) (d : Dev) (a : Nat) : regGet (onPwr f d) a = regGet d a := rfl
@[simp] theorem getF_onPwr (f : Pwr → Pwr) (d : Dev) (g : Fld) : getF (onPwr f d) g = getF d g := rfl
@[simp] theorem flag_onPwr (f : Pwr → Pwr) (d : Dev) (g : Fld) : flag (onPwr f d) g = flag d g := rfl

/-! ### onGrt -/

@[simp] theorem onGrt_regs (f : Grt → Grt) (d : Dev) : (onGrt f d).regs = d.regs := rfl
@[simp] theorem onGrt_glb (f : Grt → Grt) (d : Dev) : (onGrt f d).glb = d.glb := rfl
@[simp] theorem onGrt_svc (f : Grt → Grt) (d : Dev) : (onGrt f d).svc = d.svc := rfl
@[simp] theorem onGrt_sch (f : Grt → Grt) (d : Dev) : (onGrt f d).sch = d.sch := rfl
@[simp] theorem onGrt_fab (f : Grt → Grt) (d : Dev) : (onGrt f d).fab = d.fab := rfl
@[simp] theorem onGrt_bsn (f : Grt → Grt) (d : Dev) : (onGrt f d).bsn = d.bsn := rfl
@[simp] theorem onGrt_ntr (f : Grt → Grt) (d : Dev) : (onGrt f d).ntr = d.ntr := rfl
@[simp] theorem onGrt_med (f : Grt → Grt) (d : Dev) : (onGrt f d).med = d.med := rfl
@[simp] theorem onGrt_xlt (f : Grt → Grt) (d : Dev) : (onGrt f d).xlt = d.xlt := rfl
@[simp] theorem onGrt_slu (f : Grt → Grt) (d : Dev) : (onGrt f d).slu = d.slu := rfl
@[simp] theorem onGrt_twn (f : Grt → Grt) (d : Dev) : (onGrt f d).twn = d.twn := rfl
@[simp] theorem onGrt_pwr (f : Grt → Grt) (d : Dev) : (onGrt f d).pwr = d.pwr := rfl
@[simp] theorem onGrt_thm (f : Grt → Grt) (d : Dev) : (onGrt f d).thm = d.thm := rfl
@[simp] theorem onGrt_obs (f : Grt → Grt) (d : Dev) : (onGrt f d).obs = d.obs := rfl
@[simp] theorem onGrt_spr (f : Grt → Grt) (d : Dev) : (onGrt f d).spr = d.spr := rfl
@[simp] theorem onGrt_free (f : Grt → Grt) (d : Dev) : (onGrt f d).free = d.free := rfl
@[simp] theorem onGrt_grt (f : Grt → Grt) (d : Dev) : (onGrt f d).grt = f d.grt := rfl
@[simp] theorem regGet_onGrt (f : Grt → Grt) (d : Dev) (a : Nat) : regGet (onGrt f d) a = regGet d a := rfl
@[simp] theorem getF_onGrt (f : Grt → Grt) (d : Dev) (g : Fld) : getF (onGrt f d) g = getF d g := rfl
@[simp] theorem flag_onGrt (f : Grt → Grt) (d : Dev) (g : Fld) : flag (onGrt f d) g = flag d g := rfl

/-! ### onThm -/

@[simp] theorem onThm_regs (f : Thm → Thm) (d : Dev) : (onThm f d).regs = d.regs := rfl
@[simp] theorem onThm_glb (f : Thm → Thm) (d : Dev) : (onThm f d).glb = d.glb := rfl
@[simp] theorem onThm_svc (f : Thm → Thm) (d : Dev) : (onThm f d).svc = d.svc := rfl
@[simp] theorem onThm_sch (f : Thm → Thm) (d : Dev) : (onThm f d).sch = d.sch := rfl
@[simp] theorem onThm_fab (f : Thm → Thm) (d : Dev) : (onThm f d).fab = d.fab := rfl
@[simp] theorem onThm_bsn (f : Thm → Thm) (d : Dev) : (onThm f d).bsn = d.bsn := rfl
@[simp] theorem onThm_ntr (f : Thm → Thm) (d : Dev) : (onThm f d).ntr = d.ntr := rfl
@[simp] theorem onThm_med (f : Thm → Thm) (d : Dev) : (onThm f d).med = d.med := rfl
@[simp] theorem onThm_xlt (f : Thm → Thm) (d : Dev) : (onThm f d).xlt = d.xlt := rfl
@[simp] theorem onThm_slu (f : Thm → Thm) (d : Dev) : (onThm f d).slu = d.slu := rfl
@[simp] theorem onThm_twn (f : Thm → Thm) (d : Dev) : (onThm f d).twn = d.twn := rfl
@[simp] theorem onThm_pwr (f : Thm → Thm) (d : Dev) : (onThm f d).pwr = d.pwr := rfl
@[simp] theorem onThm_grt (f : Thm → Thm) (d : Dev) : (onThm f d).grt = d.grt := rfl
@[simp] theorem onThm_obs (f : Thm → Thm) (d : Dev) : (onThm f d).obs = d.obs := rfl
@[simp] theorem onThm_spr (f : Thm → Thm) (d : Dev) : (onThm f d).spr = d.spr := rfl
@[simp] theorem onThm_free (f : Thm → Thm) (d : Dev) : (onThm f d).free = d.free := rfl
@[simp] theorem onThm_thm (f : Thm → Thm) (d : Dev) : (onThm f d).thm = f d.thm := rfl
@[simp] theorem regGet_onThm (f : Thm → Thm) (d : Dev) (a : Nat) : regGet (onThm f d) a = regGet d a := rfl
@[simp] theorem getF_onThm (f : Thm → Thm) (d : Dev) (g : Fld) : getF (onThm f d) g = getF d g := rfl
@[simp] theorem flag_onThm (f : Thm → Thm) (d : Dev) (g : Fld) : flag (onThm f d) g = flag d g := rfl

/-! ### onObs -/

@[simp] theorem onObs_regs (f : Obs → Obs) (d : Dev) : (onObs f d).regs = d.regs := rfl
@[simp] theorem onObs_glb (f : Obs → Obs) (d : Dev) : (onObs f d).glb = d.glb := rfl
@[simp] theorem onObs_svc (f : Obs → Obs) (d : Dev) : (onObs f d).svc = d.svc := rfl
@[simp] theorem onObs_sch (f : Obs → Obs) (d : Dev) : (onObs f d).sch = d.sch := rfl
@[simp] theorem onObs_fab (f : Obs → Obs) (d : Dev) : (onObs f d).fab = d.fab := rfl
@[simp] theorem onObs_bsn (f : Obs → Obs) (d : Dev) : (onObs f d).bsn = d.bsn := rfl
@[simp] theorem onObs_ntr (f : Obs → Obs) (d : Dev) : (onObs f d).ntr = d.ntr := rfl
@[simp] theorem onObs_med (f : Obs → Obs) (d : Dev) : (onObs f d).med = d.med := rfl
@[simp] theorem onObs_xlt (f : Obs → Obs) (d : Dev) : (onObs f d).xlt = d.xlt := rfl
@[simp] theorem onObs_slu (f : Obs → Obs) (d : Dev) : (onObs f d).slu = d.slu := rfl
@[simp] theorem onObs_twn (f : Obs → Obs) (d : Dev) : (onObs f d).twn = d.twn := rfl
@[simp] theorem onObs_pwr (f : Obs → Obs) (d : Dev) : (onObs f d).pwr = d.pwr := rfl
@[simp] theorem onObs_grt (f : Obs → Obs) (d : Dev) : (onObs f d).grt = d.grt := rfl
@[simp] theorem onObs_thm (f : Obs → Obs) (d : Dev) : (onObs f d).thm = d.thm := rfl
@[simp] theorem onObs_spr (f : Obs → Obs) (d : Dev) : (onObs f d).spr = d.spr := rfl
@[simp] theorem onObs_free (f : Obs → Obs) (d : Dev) : (onObs f d).free = d.free := rfl
@[simp] theorem onObs_obs (f : Obs → Obs) (d : Dev) : (onObs f d).obs = f d.obs := rfl
@[simp] theorem regGet_onObs (f : Obs → Obs) (d : Dev) (a : Nat) : regGet (onObs f d) a = regGet d a := rfl
@[simp] theorem getF_onObs (f : Obs → Obs) (d : Dev) (g : Fld) : getF (onObs f d) g = getF d g := rfl
@[simp] theorem flag_onObs (f : Obs → Obs) (d : Dev) (g : Fld) : flag (onObs f d) g = flag d g := rfl

/-! ### Reading back what was updated -/

@[simp] theorem runnelOf_onRunnel_same (n : Nat) (f : Runnel → Runnel) (d : Dev) :
    runnelOf (onRunnel n f d) n = f (runnelOf d n) := get_upd_same _ _ _ _
@[simp] theorem runnelOf_onRunnel_ne {n m : Nat} (h : m ≠ n) (f : Runnel → Runnel) (d : Dev) :
    runnelOf (onRunnel n f d) m = runnelOf d m := get_upd_ne _ _ _ h _
@[simp] theorem linkOf_onLink_same (l : Nat) (f : LinkSt → LinkSt) (d : Dev) : linkOf (onLink l f d) l = f (linkOf d l) :=
  get_upd_same _ _ _ _
@[simp] theorem linkOf_onLink_ne {l k : Nat} (h : k ≠ l) (f : LinkSt → LinkSt) (d : Dev) :
    linkOf (onLink l f d) k = linkOf d k := get_upd_ne _ _ _ h _
@[simp] theorem railOf_onRail_same (r : Nat) (f : Rail → Rail) (d : Dev) : railOf (onRail r f d) r = f (railOf d r) :=
  get_upd_same _ _ _ _
@[simp] theorem railOf_onRail_ne {r k : Nat} (h : k ≠ r) (f : Rail → Rail) (d : Dev) : railOf (onRail r f d) k = railOf d k :=
  get_upd_ne _ _ _ h _
@[simp] theorem dieOf_onDie_same (x : Nat) (f : Die → Die) (d : Dev) : dieOf (onDie x f d) x = f (dieOf d x) :=
  get_upd_same _ _ _ _
@[simp] theorem dieOf_onDie_ne {x y : Nat} (h : y ≠ x) (f : Die → Die) (d : Dev) : dieOf (onDie x f d) y = dieOf d y :=
  get_upd_ne _ _ _ h _
@[simp] theorem macPage_onPage_same (k : Nat) (f : MacPage → MacPage) (d : Dev) : macPage (onPage k f d) k = f (macPage d k) :=
  get_upd_same _ _ _ _
@[simp] theorem macPage_onPage_ne {k j : Nat} (h : j ≠ k) (f : MacPage → MacPage) (d : Dev) :
    macPage (onPage k f d) j = macPage d j := get_upd_ne _ _ _ h _
theorem portOf_onPort_same (p : Nat) (f : SvcPort → SvcPort) (d : Dev) : portOf (onPort p f d) p = f (portOf d p) := by
  unfold portOf onPort; split <;> rfl

end Sys2Proof.Machine
end

