-- ==== Sys2Proof/Laws/Through.lean ====
section
/-!
SUPPORT. What goes through raising events, counting, sending and answering unchanged: one lemma per operation and component.
-/
namespace Sys2Proof.Machine
open Sys2Proof
set_option Elab.async false

/-- What raising events leaves of the GLB part: all but the events held for routing and the once-per-superframe marks. -/
def glbRest (d : Dev) : Glb := { d.glb with held := [], sfEvents := [] }

theorem glbRest_of {M : List Safety.Part} {d e : Dev} (h : Safety.Keeps M d e) (hm : Safety.Part.glb ∉ M) : glbRest e = glbRest d := by
  unfold glbRest; rw [h .glb hm]

theorem raiseCore_glbRest (w : Bool) (n : Nat) (v : Word) (d : Dev) : glbRest (raiseCore w n v d).1 = glbRest d := by
  unfold raiseCore
  extract_lets +onlyGivenNames -underBinder -merge d1 snap rec0
  split
  rename_i d2 written dropped h
  have b : glbRest d2 = glbRest d := by
    have := congrArg Prod.fst h; dsimp only at this
    rw [← this, glbRest_of (ledFlood_keeps _ _ _) (by decide)]
    exact glbRest_of (pendEvent_keeps _ _) (by decide)
  extract_lets +onlyGivenNames -underBinder -merge o d3
  have b3 : glbRest d3 = glbRest d := by
    show glbRest (if _ then _ else _) = _
    split
    · exact b
    · exact b
  split
  · exact b3
  · split
    · exact b3
    · split
      rename_i d4 fa fb h4
      have := congrArg Prod.fst h4; dsimp only at this
      dsimp only
      rw [← this, glbRest_of (routeEvt_keeps _ _ _ _) (by decide)]; exact b3

@[simp] theorem raiseBy_glbRest (w : Bool) (n : Nat) (v : Word) (d : Dev) : glbRest (raiseBy w n v d) = glbRest d := by
  unfold raiseBy
  extract_lets +onlyGivenNames -underBinder -merge sat0
  split
  rename_i d1 dropped fa fb h1
  have p1 : glbRest d1 = glbRest d := by
    have := congrArg Prod.fst h1; dsimp only at this; rw [← this]; exact raiseCore_glbRest _ _ _ _
  extract_lets +onlyGivenNames -underBinder -merge follow d2 d3 d4 sat1
  have hf : ∀ key k a c d, glbRest (follow key k a c d) = glbRest d := by
    intro key k a c d
    show glbRest (if _ then _ else _) = _
    split
    · rw [raiseCore_glbRest]; rfl
    · rfl
  rw [hf, hf, hf, hf, p1]

@[simp] theorem raise_glbRest (n : Nat) (v : Word) (d : Dev) : glbRest (raise n v d) = glbRest d := raiseBy_glbRest _ _ _ _
@[simp] theorem raiseN_glbRest (n v : Nat) (d : Dev) : glbRest (raiseN n v d) = glbRest d := raiseBy_glbRest _ _ _ _
@[simp] theorem raiseFree_glbRest (n : Nat) (d : Dev) : glbRest (raiseFree n d) = glbRest d := raiseBy_glbRest _ _ _ _
@[simp] theorem raiseOnce_glbRest (k n v : Nat) (d : Dev) : glbRest (raiseOnce k n v d) = glbRest d := by
  unfold raiseOnce; split
  · rfl
  · rw [raiseN_glbRest]; rfl
@[simp] theorem finish_glbRest (b : Nat) (d : Dev) : glbRest (finish b d) = glbRest d := by
  unfold finish; split
  · rfl
  · rw [raiseN_glbRest]
@[simp] theorem count_glbRest (i : Nat) (d : Dev) : glbRest (count i d) = glbRest d := by
  unfold count; dsimp only; split
  · rw [raiseOnce_glbRest]; rfl
  · rfl
@[simp] theorem countN_glbRest (i n : Nat) (d : Dev) : glbRest (countN i n d) = glbRest d := by
  unfold countN; dsimp only; split
  · rw [raiseOnce_glbRest]; rfl
  · rfl
@[simp] theorem pump_glbRest (p : Nat) (d : Dev) : glbRest (pump p d) = glbRest d := by
  unfold pump
  split
  rename_i d1 o h
  have : glbRest d1 = glbRest d := by
    have := congrArg Prod.fst h; dsimp only at this; rw [← this]; exact glbRest_of (pumpQuiet_keeps _ _) (by decide)
  split
  · rw [raiseOnce_glbRest, this]
  · exact this
@[simp] theorem sendLcf_glbRest (p : Nat) (m : LcfMsg) (d : Dev) : glbRest (sendLcf p m d) = glbRest d := by
  unfold sendLcf; rw [pump_glbRest]; rfl
theorem mirPumpN_glbRest (n : Nat) (d : Dev) : glbRest (mirPumpN n d) = glbRest d := by
  induction n generalizing d with
  | zero => rfl
  | succ n ih =>
    unfold mirPumpN
    dsimp only
    split
    · rfl
    · split
      · rfl
      · rw [ih, glbRest_of (noteSeq_keeps _ _) (by decide)]
        unfold whenD
        split
        · rw [count_glbRest]; rfl
        · rfl
@[simp] theorem mirSendFor_glbRest (t : Nat) (m : MirMsg) (d : Dev) : glbRest (mirSendFor t m d) = glbRest d := by
  unfold mirSendFor mirPump; rw [mirPumpN_glbRest]; rfl
@[simp] theorem mirSend_glbRest (m : MirMsg) (d : Dev) : glbRest (mirSend m d) = glbRest d := mirSendFor_glbRest _ _ _

/-- GLB_STATE's byte follows from the GLB part and the level (R410). -/
theorem stateByte_rest {d e : Dev} (h : glbRest e = glbRest d) (hl : getF e F.SCH_SPOS_LEVEL = getF d F.SCH_SPOS_LEVEL) : stateByte e = stateByte d := by
  have h1 : e.glb.base = d.glb.base := (show (glbRest e).base = (glbRest d).base by rw [h])
  have h2 : e.glb.tadpole = d.glb.tadpole := (show (glbRest e).tadpole = (glbRest d).tadpole by rw [h])
  have h3 : e.glb.degraded = d.glb.degraded := (show (glbRest e).degraded = (glbRest d).degraded by rw [h])
  have h4 : e.glb.dry = d.glb.dry := (show (glbRest e).dry = (glbRest d).dry by rw [h])
  unfold stateByte stateCode throttled dutyLevel
  simp only [h1, h2, h3, h4, hl]

theorem finish_rest {d e : Dev} (h : glbRest e = glbRest d) (hl : getF e F.SCH_SPOS_LEVEL = getF d F.SCH_SPOS_LEVEL) : finish (stateByte d) e = e := by
  unfold finish; rw [if_pos (stateByte_rest h hl)]

/-- A command of service software that reaches the device (R397). -/
theorem viaPort_eq {d : Dev} (h : d.glb.base ∉ [Base.off, .sequencing, .withdrawn]) (p : Nat) (f : Dev → Dev) :
    viaPort p f d = f (touch p d) := by
  unfold viaPort
  split <;> simp_all

@[simp] theorem portOf_touch (p q : Nat) (d : Dev) : portOf (touch p d) q = portOf d q := by
  unfold portOf touch; split <;> split <;> rfl
theorem portOf_onPort_ne {p q : Nat} (hp : p < 2) (hq : q < 2) (h : q ≠ p) (f : SvcPort → SvcPort) (d : Dev) :
    portOf (onPort p f d) q = portOf d q := by
  unfold portOf onPort; split <;> split <;> first | rfl | omega

theorem getF_plain {M : List Safety.Part} {d e : Dev} (h : Safety.Keeps M d e) (hm : Safety.Part.plain ∉ M) {f : Fld}
    (hf : Safety.eventReg f.addr = false) : getF e f = getF d f := by
  unfold getF; rw [h .plain hm _ hf]
theorem flag_plain {M : List Safety.Part} {d e : Dev} (h : Safety.Keeps M d e) (hm : Safety.Part.plain ∉ M) {f : Fld}
    (hf : Safety.eventReg f.addr = false) : flag e f = flag d f := by
  unfold flag; rw [getF_plain h hm hf]

/-! ### raiseN -/

@[simp] theorem raiseN_sch {n v : Nat} {d : Dev} : (raiseN n v d).sch = d.sch := raiseN_keeps _ _ _ .sch (by decide)
@[simp] theorem raiseN_bsn {n v : Nat} {d : Dev} : (raiseN n v d).bsn = d.bsn := raiseN_keeps _ _ _ .bsn (by decide)
@[simp] theorem raiseN_ntr {n v : Nat} {d : Dev} : (raiseN n v d).ntr = d.ntr := raiseN_keeps _ _ _ .ntr (by decide)
@[simp] theorem raiseN_med {n v : Nat} {d : Dev} : (raiseN n v d).med = d.med := raiseN_keeps _ _ _ .med (by decide)
@[simp] theorem raiseN_xlt {n v : Nat} {d : Dev} : (raiseN n v d).xlt = d.xlt := raiseN_keeps _ _ _ .xlt (by decide)
@[simp] theorem raiseN_slu {n v : Nat} {d : Dev} : (raiseN n v d).slu = d.slu := raiseN_keeps _ _ _ .slu (by decide)
@[simp] theorem raiseN_twn {n v : Nat} {d : Dev} : (raiseN n v d).twn = d.twn := raiseN_keeps _ _ _ .twn (by decide)
@[simp] theorem raiseN_pwr {n v : Nat} {d : Dev} : (raiseN n v d).pwr = d.pwr := raiseN_keeps _ _ _ .pwr (by decide)
@[simp] theorem raiseN_grt {n v : Nat} {d : Dev} : (raiseN n v d).grt = d.grt := raiseN_keeps _ _ _ .grt (by decide)
@[simp] theorem raiseN_thm {n v : Nat} {d : Dev} : (raiseN n v d).thm = d.thm := raiseN_keeps _ _ _ .thm (by decide)
@[simp] theorem raiseN_spr {n v : Nat} {d : Dev} : (raiseN n v d).spr = d.spr := raiseN_keeps _ _ _ .spr (by decide)
@[simp] theorem raiseN_free {n v : Nat} {d : Dev} : (raiseN n v d).free = d.free := raiseN_keeps _ _ _ .free (by decide)
@[simp] theorem raiseN_base {n v : Nat} {d : Dev} : (raiseN n v d).glb.base = d.glb.base := raiseN_keeps _ _ _ .base (by decide)
@[simp] theorem raiseN_tick {n v : Nat} {d : Dev} : (raiseN n v d).glb.tick = d.glb.tick := raiseN_keeps _ _ _ .tick (by decide)
@[simp] theorem raiseN_getF {n v : Nat} {d : Dev} {f : Fld} (hf : Safety.eventReg f.addr = false) : getF (raiseN n v d) f = getF d f :=
  getF_plain (raiseN_keeps _ _ _) (by decide) hf
@[simp] theorem raiseN_flag {n v : Nat} {d : Dev} {f : Fld} (hf : Safety.eventReg f.addr = false) : flag (raiseN n v d) f = flag d f :=
  flag_plain (raiseN_keeps _ _ _) (by decide) hf

/-! ### raise -/

@[simp] theorem raise_sch {n : Nat} {v : Word} {d : Dev} : (raise n v d).sch = d.sch := raise_keeps _ _ _ .sch (by decide)
@[simp] theorem raise_bsn {n : Nat} {v : Word} {d : Dev} : (raise n v d).bsn = d.bsn := raise_keeps _ _ _ .bsn (by decide)
@[simp] theorem raise_ntr {n : Nat} {v : Word} {d : Dev} : (raise n v d).ntr = d.ntr := raise_keeps _ _ _ .ntr (by decide)
@[simp] theorem raise_med {n : Nat} {v : Word} {d : Dev} : (raise n v d).med = d.med := raise_keeps _ _ _ .med (by decide)
@[simp] theorem raise_xlt {n : Nat} {v : Word} {d : Dev} : (raise n v d).xlt = d.xlt := raise_keeps _ _ _ .xlt (by decide)
@[simp] theorem raise_slu {n : Nat} {v : Word} {d : Dev} : (raise n v d).slu = d.slu := raise_keeps _ _ _ .slu (by decide)
@[simp] theorem raise_twn {n : Nat} {v : Word} {d : Dev} : (raise n v d).twn = d.twn := raise_keeps _ _ _ .twn (by decide)
@[simp] theorem raise_pwr {n : Nat} {v : Word} {d : Dev} : (raise n v d).pwr = d.pwr := raise_keeps _ _ _ .pwr (by decide)
@[simp] theorem raise_grt {n : Nat} {v : Word} {d : Dev} : (raise n v d).grt = d.grt := raise_keeps _ _ _ .grt (by decide)
@[simp] theorem raise_thm {n : Nat} {v : Word} {d : Dev} : (raise n v d).thm = d.thm := raise_keeps _ _ _ .thm (by decide)
@[simp] theorem raise_spr {n : Nat} {v : Word} {d : Dev} : (raise n v d).spr = d.spr := raise_keeps _ _ _ .spr (by decide)
@[simp] theorem raise_free {n : Nat} {v : Word} {d : Dev} : (raise n v d).free = d.free := raise_keeps _ _ _ .free (by decide)
@[simp] theorem raise_base {n : Nat} {v : Word} {d : Dev} : (raise n v d).glb.base = d.glb.base := raise_keeps _ _ _ .base (by decide)
@[simp] theorem raise_tick {n : Nat} {v : Word} {d : Dev} : (raise n v d).glb.tick = d.glb.tick := raise_keeps _ _ _ .tick (by decide)
@[simp] theorem raise_getF {n : Nat} {v : Word} {d : Dev} {f : Fld} (hf : Safety.eventReg f.addr = false) : getF (raise n v d) f = getF d f :=
  getF_plain (raise_keeps _ _ _) (by decide) hf
@[simp] theorem raise_flag {n : Nat} {v : Word} {d : Dev} {f : Fld} (hf : Safety.eventReg f.addr = false) : flag (raise n v d) f = flag d f :=
  flag_plain (raise_keeps _ _ _) (by decide) hf

/-! ### raiseFree -/

@[simp] theorem raiseFree_sch {n : Nat} {d : Dev} : (raiseFree n d).sch = d.sch := raiseFree_keeps _ _ .sch (by decide)
@[simp] theorem raiseFree_bsn {n : Nat} {d : Dev} : (raiseFree n d).bsn = d.bsn := raiseFree_keeps _ _ .bsn (by decide)
@[simp] theorem raiseFree_ntr {n : Nat} {d : Dev} : (raiseFree n d).ntr = d.ntr := raiseFree_keeps _ _ .ntr (by decide)
@[simp] theorem raiseFree_med {n : Nat} {d : Dev} : (raiseFree n d).med = d.med := raiseFree_keeps _ _ .med (by decide)
@[simp] theorem raiseFree_xlt {n : Nat} {d : Dev} : (raiseFree n d).xlt = d.xlt := raiseFree_keeps _ _ .xlt (by decide)
@[simp] theorem raiseFree_slu {n : Nat} {d : Dev} : (raiseFree n d).slu = d.slu := raiseFree_keeps _ _ .slu (by decide)
@[simp] theorem raiseFree_twn {n : Nat} {d : Dev} : (raiseFree n d).twn = d.twn := raiseFree_keeps _ _ .twn (by decide)
@[simp] theorem raiseFree_pwr {n : Nat} {d : Dev} : (raiseFree n d).pwr = d.pwr := raiseFree_keeps _ _ .pwr (by decide)
@[simp] theorem raiseFree_grt {n : Nat} {d : Dev} : (raiseFree n d).grt = d.grt := raiseFree_keeps _ _ .grt (by decide)
@[simp] theorem raiseFree_thm {n : Nat} {d : Dev} : (raiseFree n d).thm = d.thm := raiseFree_keeps _ _ .thm (by decide)
@[simp] theorem raiseFree_spr {n : Nat} {d : Dev} : (raiseFree n d).spr = d.spr := raiseFree_keeps _ _ .spr (by decide)
@[simp] theorem raiseFree_base {n : Nat} {d : Dev} : (raiseFree n d).glb.base = d.glb.base := raiseFree_keeps _ _ .base (by decide)
@[simp] theorem raiseFree_tick {n : Nat} {d : Dev} : (raiseFree n d).glb.tick = d.glb.tick := raiseFree_keeps _ _ .tick (by decide)
@[simp] theorem raiseFree_getF {n : Nat} {d : Dev} {f : Fld} (hf : Safety.eventReg f.addr = false) : getF (raiseFree n d) f = getF d f :=
  getF_plain (raiseFree_keeps _ _) (by decide) hf
@[simp] theorem raiseFree_flag {n : Nat} {d : Dev} {f : Fld} (hf : Safety.eventReg f.addr = false) : flag (raiseFree n d) f = flag d f :=
  flag_plain (raiseFree_keeps _ _) (by decide) hf

/-! ### raiseBy -/

@[simp] theorem raiseBy_sch {w : Bool} {n : Nat} {v : Word} {d : Dev} : (raiseBy w n v d).sch = d.sch := raiseBy_keeps _ _ _ _ .sch (by decide)
@[simp] theorem raiseBy_bsn {w : Bool} {n : Nat} {v : Word} {d : Dev} : (raiseBy w n v d).bsn = d.bsn := raiseBy_keeps _ _ _ _ .bsn (by decide)
@[simp] theorem raiseBy_ntr {w : Bool} {n : Nat} {v : Word} {d : Dev} : (raiseBy w n v d).ntr = d.ntr := raiseBy_keeps _ _ _ _ .ntr (by decide)
@[simp] theorem raiseBy_med {w : Bool} {n : Nat} {v : Word} {d : Dev} : (raiseBy w n v d).med = d.med := raiseBy_keeps _ _ _ _ .med (by decide)
@[simp] theorem raiseBy_xlt {w : Bool} {n : Nat} {v : Word} {d : Dev} : (raiseBy w n v d).xlt = d.xlt := raiseBy_keeps _ _ _ _ .xlt (by decide)
@[simp] theorem raiseBy_slu {w : Bool} {n : Nat} {v : Word} {d : Dev} : (raiseBy w n v d).slu = d.slu := raiseBy_keeps _ _ _ _ .slu (by decide)
@[simp] theorem raiseBy_twn {w : Bool} {n : Nat} {v : Word} {d : Dev} : (raiseBy w n v d).twn = d.twn := raiseBy_keeps _ _ _ _ .twn (by decide)
@[simp] theorem raiseBy_pwr {w : Bool} {n : Nat} {v : Word} {d : Dev} : (raiseBy w n v d).pwr = d.pwr := raiseBy_keeps _ _ _ _ .pwr (by decide)
@[simp] theorem raiseBy_grt {w : Bool} {n : Nat} {v : Word} {d : Dev} : (raiseBy w n v d).grt = d.grt := raiseBy_keeps _ _ _ _ .grt (by decide)
@[simp] theorem raiseBy_thm {w : Bool} {n : Nat} {v : Word} {d : Dev} : (raiseBy w n v d).thm = d.thm := raiseBy_keeps _ _ _ _ .thm (by decide)
@[simp] theorem raiseBy_spr {w : Bool} {n : Nat} {v : Word} {d : Dev} : (raiseBy w n v d).spr = d.spr := raiseBy_keeps _ _ _ _ .spr (by decide)
@[simp] theorem raiseBy_free {w : Bool} {n : Nat} {v : Word} {d : Dev} : (raiseBy w n v d).free = d.free := raiseBy_keeps _ _ _ _ .free (by decide)
@[simp] theorem raiseBy_base {w : Bool} {n : Nat} {v : Word} {d : Dev} : (raiseBy w n v d).glb.base = d.glb.base := raiseBy_keeps _ _ _ _ .base (by decide)
@[simp] theorem raiseBy_tick {w : Bool} {n : Nat} {v : Word} {d : Dev} : (raiseBy w n v d).glb.tick = d.glb.tick := raiseBy_keeps _ _ _ _ .tick (by decide)
@[simp] theorem raiseBy_getF {w : Bool} {n : Nat} {v : Word} {d : Dev} {f : Fld} (hf : Safety.eventReg f.addr = false) : getF (raiseBy w n v d) f = getF d f :=
  getF_plain (raiseBy_keeps _ _ _ _) (by decide) hf
@[simp] theorem raiseBy_flag {w : Bool} {n : Nat} {v : Word} {d : Dev} {f : Fld} (hf : Safety.eventReg f.addr = false) : flag (raiseBy w n v d) f = flag d f :=
  flag_plain (raiseBy_keeps _ _ _ _) (by decide) hf

/-! ### raiseOnce -/

@[simp] theorem raiseOnce_sch {k n v : Nat} {d : Dev} : (raiseOnce k n v d).sch = d.sch := raiseOnce_keeps _ _ _ _ .sch (by decide)
@[simp] theorem raiseOnce_bsn {k n v : Nat} {d : Dev} : (raiseOnce k n v d).bsn = d.bsn := raiseOnce_keeps _ _ _ _ .bsn (by decide)
@[simp] theorem raiseOnce_ntr {k n v : Nat} {d : Dev} : (raiseOnce k n v d).ntr = d.ntr := raiseOnce_keeps _ _ _ _ .ntr (by decide)
@[simp] theorem raiseOnce_med {k n v : Nat} {d : Dev} : (raiseOnce k n v d).med = d.med := raiseOnce_keeps _ _ _ _ .med (by decide)
@[simp] theorem raiseOnce_xlt {k n v : Nat} {d : Dev} : (raiseOnce k n v d).xlt = d.xlt := raiseOnce_keeps _ _ _ _ .xlt (by decide)
@[simp] theorem raiseOnce_slu {k n v : Nat} {d : Dev} : (raiseOnce k n v d).slu = d.slu := raiseOnce_keeps _ _ _ _ .slu (by decide)
@[simp] theorem raiseOnce_twn {k n v : Nat} {d : Dev} : (raiseOnce k n v d).twn = d.twn := raiseOnce_keeps _ _ _ _ .twn (by decide)
@[simp] theorem raiseOnce_pwr {k n v : Nat} {d : Dev} : (raiseOnce k n v d).pwr = d.pwr := raiseOnce_keeps _ _ _ _ .pwr (by decide)
@[simp] theorem raiseOnce_grt {k n v : Nat} {d : Dev} : (raiseOnce k n v d).grt = d.grt := raiseOnce_keeps _ _ _ _ .grt (by decide)
@[simp] theorem raiseOnce_thm {k n v : Nat} {d : Dev} : (raiseOnce k n v d).thm = d.thm := raiseOnce_keeps _ _ _ _ .thm (by decide)
@[simp] theorem raiseOnce_spr {k n v : Nat} {d : Dev} : (raiseOnce k n v d).spr = d.spr := raiseOnce_keeps _ _ _ _ .spr (by decide)
@[simp] theorem raiseOnce_free {k n v : Nat} {d : Dev} : (raiseOnce k n v d).free = d.free := raiseOnce_keeps _ _ _ _ .free (by decide)
@[simp] theorem raiseOnce_base {k n v : Nat} {d : Dev} : (raiseOnce k n v d).glb.base = d.glb.base := raiseOnce_keeps _ _ _ _ .base (by decide)
@[simp] theorem raiseOnce_tick {k n v : Nat} {d : Dev} : (raiseOnce k n v d).glb.tick = d.glb.tick := raiseOnce_keeps _ _ _ _ .tick (by decide)
@[simp] theorem raiseOnce_getF {k n v : Nat} {d : Dev} {f : Fld} (hf : Safety.eventReg f.addr = false) : getF (raiseOnce k n v d) f = getF d f :=
  getF_plain (raiseOnce_keeps _ _ _ _) (by decide) hf
@[simp] theorem raiseOnce_flag {k n v : Nat} {d : Dev} {f : Fld} (hf : Safety.eventReg f.addr = false) : flag (raiseOnce k n v d) f = flag d f :=
  flag_plain (raiseOnce_keeps _ _ _ _) (by decide) hf

/-! ### count -/

@[simp] theorem count_sch {i : Nat} {d : Dev} : (count i d).sch = d.sch := count_keeps _ _ .sch (by decide)
@[simp] theorem count_bsn {i : Nat} {d : Dev} : (count i d).bsn = d.bsn := count_keeps _ _ .bsn (by decide)
@[simp] theorem count_ntr {i : Nat} {d : Dev} : (count i d).ntr = d.ntr := count_keeps _ _ .ntr (by decide)
@[simp] theorem count_med {i : Nat} {d : Dev} : (count i d).med = d.med := count_keeps _ _ .med (by decide)
@[simp] theorem count_xlt {i : Nat} {d : Dev} : (count i d).xlt = d.xlt := count_keeps _ _ .xlt (by decide)
@[simp] theorem count_slu {i : Nat} {d : Dev} : (count i d).slu = d.slu := count_keeps _ _ .slu (by decide)
@[simp] theorem count_twn {i : Nat} {d : Dev} : (count i d).twn = d.twn := count_keeps _ _ .twn (by decide)
@[simp] theorem count_pwr {i : Nat} {d : Dev} : (count i d).pwr = d.pwr := count_keeps _ _ .pwr (by decide)
@[simp] theorem count_grt {i : Nat} {d : Dev} : (count i d).grt = d.grt := count_keeps _ _ .grt (by decide)
@[simp] theorem count_thm {i : Nat} {d : Dev} : (count i d).thm = d.thm := count_keeps _ _ .thm (by decide)
@[simp] theorem count_spr {i : Nat} {d : Dev} : (count i d).spr = d.spr := count_keeps _ _ .spr (by decide)
@[simp] theorem count_free {i : Nat} {d : Dev} : (count i d).free = d.free := count_keeps _ _ .free (by decide)
@[simp] theorem count_base {i : Nat} {d : Dev} : (count i d).glb.base = d.glb.base := count_keeps _ _ .base (by decide)
@[simp] theorem count_tick {i : Nat} {d : Dev} : (count i d).glb.tick = d.glb.tick := count_keeps _ _ .tick (by decide)
@[simp] theorem count_getF {i : Nat} {d : Dev} {f : Fld} (hf : Safety.eventReg f.addr = false) : getF (count i d) f = getF d f :=
  getF_plain (count_keeps _ _) (by decide) hf
@[simp] theorem count_flag {i : Nat} {d : Dev} {f : Fld} (hf : Safety.eventReg f.addr = false) : flag (count i d) f = flag d f :=
  flag_plain (count_keeps _ _) (by decide) hf

/-! ### countN -/

@[simp] theorem countN_sch {i n : Nat} {d : Dev} : (countN i n d).sch = d.sch := countN_keeps _ _ _ .sch (by decide)
@[simp] theorem countN_bsn {i n : Nat} {d : Dev} : (countN i n d).bsn = d.bsn := countN_keeps _ _ _ .bsn (by decide)
@[simp] theorem countN_ntr {i n : Nat} {d : Dev} : (countN i n d).ntr = d.ntr := countN_keeps _ _ _ .ntr (by decide)
@[simp] theorem countN_med {i n : Nat} {d : Dev} : (countN i n d).med = d.med := countN_keeps _ _ _ .med (by decide)
@[simp] theorem countN_xlt {i n : Nat} {d : Dev} : (countN i n d).xlt = d.xlt := countN_keeps _ _ _ .xlt (by decide)
@[simp] theorem countN_slu {i n : Nat} {d : Dev} : (countN i n d).slu = d.slu := countN_keeps _ _ _ .slu (by decide)
@[simp] theorem countN_twn {i n : Nat} {d : Dev} : (countN i n d).twn = d.twn := countN_keeps _ _ _ .twn (by decide)
@[simp] theorem countN_pwr {i n : Nat} {d : Dev} : (countN i n d).pwr = d.pwr := countN_keeps _ _ _ .pwr (by decide)
@[simp] theorem countN_grt {i n : Nat} {d : Dev} : (countN i n d).grt = d.grt := countN_keeps _ _ _ .grt (by decide)
@[simp] theorem countN_thm {i n : Nat} {d : Dev} : (countN i n d).thm = d.thm := countN_keeps _ _ _ .thm (by decide)
@[simp] theorem countN_spr {i n : Nat} {d : Dev} : (countN i n d).spr = d.spr := countN_keeps _ _ _ .spr (by decide)
@[simp] theorem countN_free {i n : Nat} {d : Dev} : (countN i n d).free = d.free := countN_keeps _ _ _ .free (by decide)
@[simp] theorem countN_base {i n : Nat} {d : Dev} : (countN i n d).glb.base = d.glb.base := countN_keeps _ _ _ .base (by decide)
@[simp] theorem countN_tick {i n : Nat} {d : Dev} : (countN i n d).glb.tick = d.glb.tick := countN_keeps _ _ _ .tick (by decide)
@[simp] theorem countN_getF {i n : Nat} {d : Dev} {f : Fld} (hf : Safety.eventReg f.addr = false) : getF (countN i n d) f = getF d f :=
  getF_plain (countN_keeps _ _ _) (by decide) hf
@[simp] theorem countN_flag {i n : Nat} {d : Dev} {f : Fld} (hf : Safety.eventReg f.addr = false) : flag (countN i n d) f = flag d f :=
  flag_plain (countN_keeps _ _ _) (by decide) hf

/-! ### finish -/

@[simp] theorem finish_sch {b : Nat} {d : Dev} : (finish b d).sch = d.sch := finish_keeps _ _ .sch (by decide)
@[simp] theorem finish_bsn {b : Nat} {d : Dev} : (finish b d).bsn = d.bsn := finish_keeps _ _ .bsn (by decide)
@[simp] theorem finish_ntr {b : Nat} {d : Dev} : (finish b d).ntr = d.ntr := finish_keeps _ _ .ntr (by decide)
@[simp] theorem finish_med {b : Nat} {d : Dev} : (finish b d).med = d.med := finish_keeps _ _ .med (by decide)
@[simp] theorem finish_xlt {b : Nat} {d : Dev} : (finish b d).xlt = d.xlt := finish_keeps _ _ .xlt (by decide)
@[simp] theorem finish_slu {b : Nat} {d : Dev} : (finish b d).slu = d.slu := finish_keeps _ _ .slu (by decide)
@[simp] theorem finish_twn {b : Nat} {d : Dev} : (finish b d).twn = d.twn := finish_keeps _ _ .twn (by decide)
@[simp] theorem finish_pwr {b : Nat} {d : Dev} : (finish b d).pwr = d.pwr := finish_keeps _ _ .pwr (by decide)
@[simp] theorem finish_grt {b : Nat} {d : Dev} : (finish b d).grt = d.grt := finish_keeps _ _ .grt (by decide)
@[simp] theorem finish_thm {b : Nat} {d : Dev} : (finish b d).thm = d.thm := finish_keeps _ _ .thm (by decide)
@[simp] theorem finish_spr {b : Nat} {d : Dev} : (finish b d).spr = d.spr := finish_keeps _ _ .spr (by decide)
@[simp] theorem finish_free {b : Nat} {d : Dev} : (finish b d).free = d.free := finish_keeps _ _ .free (by decide)
@[simp] theorem finish_base {b : Nat} {d : Dev} : (finish b d).glb.base = d.glb.base := finish_keeps _ _ .base (by decide)
@[simp] theorem finish_tick {b : Nat} {d : Dev} : (finish b d).glb.tick = d.glb.tick := finish_keeps _ _ .tick (by decide)
@[simp] theorem finish_getF {b : Nat} {d : Dev} {f : Fld} (hf : Safety.eventReg f.addr = false) : getF (finish b d) f = getF d f :=
  getF_plain (finish_keeps _ _) (by decide) hf
@[simp] theorem finish_flag {b : Nat} {d : Dev} {f : Fld} (hf : Safety.eventReg f.addr = false) : flag (finish b d) f = flag d f :=
  flag_plain (finish_keeps _ _) (by decide) hf

/-! ### pump -/

@[simp] theorem pump_sch {p : Nat} {d : Dev} : (pump p d).sch = d.sch := pump_keeps _ _ .sch (by decide)
@[simp] theorem pump_bsn {p : Nat} {d : Dev} : (pump p d).bsn = d.bsn := pump_keeps _ _ .bsn (by decide)
@[simp] theorem pump_ntr {p : Nat} {d : Dev} : (pump p d).ntr = d.ntr := pump_keeps _ _ .ntr (by decide)
@[simp] theorem pump_med {p : Nat} {d : Dev} : (pump p d).med = d.med := pump_keeps _ _ .med (by decide)
@[simp] theorem pump_xlt {p : Nat} {d : Dev} : (pump p d).xlt = d.xlt := pump_keeps _ _ .xlt (by decide)
@[simp] theorem pump_slu {p : Nat} {d : Dev} : (pump p d).slu = d.slu := pump_keeps _ _ .slu (by decide)
@[simp] theorem pump_twn {p : Nat} {d : Dev} : (pump p d).twn = d.twn := pump_keeps _ _ .twn (by decide)
@[simp] theorem pump_pwr {p : Nat} {d : Dev} : (pump p d).pwr = d.pwr := pump_keeps _ _ .pwr (by decide)
@[simp] theorem pump_grt {p : Nat} {d : Dev} : (pump p d).grt = d.grt := pump_keeps _ _ .grt (by decide)
@[simp] theorem pump_thm {p : Nat} {d : Dev} : (pump p d).thm = d.thm := pump_keeps _ _ .thm (by decide)
@[simp] theorem pump_spr {p : Nat} {d : Dev} : (pump p d).spr = d.spr := pump_keeps _ _ .spr (by decide)
@[simp] theorem pump_free {p : Nat} {d : Dev} : (pump p d).free = d.free := pump_keeps _ _ .free (by decide)
@[simp] theorem pump_base {p : Nat} {d : Dev} : (pump p d).glb.base = d.glb.base := pump_keeps _ _ .base (by decide)
@[simp] theorem pump_tick {p : Nat} {d : Dev} : (pump p d).glb.tick = d.glb.tick := pump_keeps _ _ .tick (by decide)
@[simp] theorem pump_getF {p : Nat} {d : Dev} {f : Fld} (hf : Safety.eventReg f.addr = false) : getF (pump p d) f = getF d f :=
  getF_plain (pump_keeps _ _) (by decide) hf
@[simp] theorem pump_flag {p : Nat} {d : Dev} {f : Fld} (hf : Safety.eventReg f.addr = false) : flag (pump p d) f = flag d f :=
  flag_plain (pump_keeps _ _) (by decide) hf

/-! ### sendLcf -/

@[simp] theorem sendLcf_sch {p : Nat} {m : LcfMsg} {d : Dev} : (sendLcf p m d).sch = d.sch := sendLcf_keeps _ _ _ .sch (by decide)
@[simp] theorem sendLcf_bsn {p : Nat} {m : LcfMsg} {d : Dev} : (sendLcf p m d).bsn = d.bsn := sendLcf_keeps _ _ _ .bsn (by decide)
@[simp] theorem sendLcf_ntr {p : Nat} {m : LcfMsg} {d : Dev} : (sendLcf p m d).ntr = d.ntr := sendLcf_keeps _ _ _ .ntr (by decide)
@[simp] theorem sendLcf_med {p : Nat} {m : LcfMsg} {d : Dev} : (sendLcf p m d).med = d.med := sendLcf_keeps _ _ _ .med (by decide)
@[simp] theorem sendLcf_xlt {p : Nat} {m : LcfMsg} {d : Dev} : (sendLcf p m d).xlt = d.xlt := sendLcf_keeps _ _ _ .xlt (by decide)
@[simp] theorem sendLcf_slu {p : Nat} {m : LcfMsg} {d : Dev} : (sendLcf p m d).slu = d.slu := sendLcf_keeps _ _ _ .slu (by decide)
@[simp] theorem sendLcf_twn {p : Nat} {m : LcfMsg} {d : Dev} : (sendLcf p m d).twn = d.twn := sendLcf_keeps _ _ _ .twn (by decide)
@[simp] theorem sendLcf_pwr {p : Nat} {m : LcfMsg} {d : Dev} : (sendLcf p m d).pwr = d.pwr := sendLcf_keeps _ _ _ .pwr (by decide)
@[simp] theorem sendLcf_grt {p : Nat} {m : LcfMsg} {d : Dev} : (sendLcf p m d).grt = d.grt := sendLcf_keeps _ _ _ .grt (by decide)
@[simp] theorem sendLcf_thm {p : Nat} {m : LcfMsg} {d : Dev} : (sendLcf p m d).thm = d.thm := sendLcf_keeps _ _ _ .thm (by decide)
@[simp] theorem sendLcf_spr {p : Nat} {m : LcfMsg} {d : Dev} : (sendLcf p m d).spr = d.spr := sendLcf_keeps _ _ _ .spr (by decide)
@[simp] theorem sendLcf_free {p : Nat} {m : LcfMsg} {d : Dev} : (sendLcf p m d).free = d.free := sendLcf_keeps _ _ _ .free (by decide)
@[simp] theorem sendLcf_base {p : Nat} {m : LcfMsg} {d : Dev} : (sendLcf p m d).glb.base = d.glb.base := sendLcf_keeps _ _ _ .base (by decide)
@[simp] theorem sendLcf_tick {p : Nat} {m : LcfMsg} {d : Dev} : (sendLcf p m d).glb.tick = d.glb.tick := sendLcf_keeps _ _ _ .tick (by decide)
@[simp] theorem sendLcf_getF {p : Nat} {m : LcfMsg} {d : Dev} {f : Fld} (hf : Safety.eventReg f.addr = false) : getF (sendLcf p m d) f = getF d f :=
  getF_plain (sendLcf_keeps _ _ _) (by decide) hf
@[simp] theorem sendLcf_flag {p : Nat} {m : LcfMsg} {d : Dev} {f : Fld} (hf : Safety.eventReg f.addr = false) : flag (sendLcf p m d) f = flag d f :=
  flag_plain (sendLcf_keeps _ _ _) (by decide) hf

/-! ### tellAgents -/

@[simp] theorem tellAgents_sch {n : Nat} {v : Word} {d : Dev} : (tellAgents n v d).sch = d.sch := tellAgents_keeps _ _ _ .sch (by decide)
@[simp] theorem tellAgents_bsn {n : Nat} {v : Word} {d : Dev} : (tellAgents n v d).bsn = d.bsn := tellAgents_keeps _ _ _ .bsn (by decide)
@[simp] theorem tellAgents_ntr {n : Nat} {v : Word} {d : Dev} : (tellAgents n v d).ntr = d.ntr := tellAgents_keeps _ _ _ .ntr (by decide)
@[simp] theorem tellAgents_med {n : Nat} {v : Word} {d : Dev} : (tellAgents n v d).med = d.med := tellAgents_keeps _ _ _ .med (by decide)
@[simp] theorem tellAgents_xlt {n : Nat} {v : Word} {d : Dev} : (tellAgents n v d).xlt = d.xlt := tellAgents_keeps _ _ _ .xlt (by decide)
@[simp] theorem tellAgents_slu {n : Nat} {v : Word} {d : Dev} : (tellAgents n v d).slu = d.slu := tellAgents_keeps _ _ _ .slu (by decide)
@[simp] theorem tellAgents_twn {n : Nat} {v : Word} {d : Dev} : (tellAgents n v d).twn = d.twn := tellAgents_keeps _ _ _ .twn (by decide)
@[simp] theorem tellAgents_pwr {n : Nat} {v : Word} {d : Dev} : (tellAgents n v d).pwr = d.pwr := tellAgents_keeps _ _ _ .pwr (by decide)
@[simp] theorem tellAgents_grt {n : Nat} {v : Word} {d : Dev} : (tellAgents n v d).grt = d.grt := tellAgents_keeps _ _ _ .grt (by decide)
@[simp] theorem tellAgents_thm {n : Nat} {v : Word} {d : Dev} : (tellAgents n v d).thm = d.thm := tellAgents_keeps _ _ _ .thm (by decide)
@[simp] theorem tellAgents_spr {n : Nat} {v : Word} {d : Dev} : (tellAgents n v d).spr = d.spr := tellAgents_keeps _ _ _ .spr (by decide)
@[simp] theorem tellAgents_free {n : Nat} {v : Word} {d : Dev} : (tellAgents n v d).free = d.free := tellAgents_keeps _ _ _ .free (by decide)
@[simp] theorem tellAgents_base {n : Nat} {v : Word} {d : Dev} : (tellAgents n v d).glb.base = d.glb.base := tellAgents_keeps _ _ _ .base (by decide)
@[simp] theorem tellAgents_tick {n : Nat} {v : Word} {d : Dev} : (tellAgents n v d).glb.tick = d.glb.tick := tellAgents_keeps _ _ _ .tick (by decide)
@[simp] theorem tellAgents_getF {n : Nat} {v : Word} {d : Dev} {f : Fld} (hf : Safety.eventReg f.addr = false) : getF (tellAgents n v d) f = getF d f :=
  getF_plain (tellAgents_keeps _ _ _) (by decide) hf
@[simp] theorem tellAgents_flag {n : Nat} {v : Word} {d : Dev} {f : Fld} (hf : Safety.eventReg f.addr = false) : flag (tellAgents n v d) f = flag d f :=
  flag_plain (tellAgents_keeps _ _ _) (by decide) hf

/-! ### ledDetail -/

@[simp] theorem ledDetail_sch {n : Nat} {v : Word} {l : List (BitVec 8)} {d : Dev} : (ledDetail n v l d).sch = d.sch := ledDetail_keeps _ _ _ _ .sch (by decide)
@[simp] theorem ledDetail_bsn {n : Nat} {v : Word} {l : List (BitVec 8)} {d : Dev} : (ledDetail n v l d).bsn = d.bsn := ledDetail_keeps _ _ _ _ .bsn (by decide)
@[simp] theorem ledDetail_ntr {n : Nat} {v : Word} {l : List (BitVec 8)} {d : Dev} : (ledDetail n v l d).ntr = d.ntr := ledDetail_keeps _ _ _ _ .ntr (by decide)
@[simp] theorem ledDetail_med {n : Nat} {v : Word} {l : List (BitVec 8)} {d : Dev} : (ledDetail n v l d).med = d.med := ledDetail_keeps _ _ _ _ .med (by decide)
@[simp] theorem ledDetail_xlt {n : Nat} {v : Word} {l : List (BitVec 8)} {d : Dev} : (ledDetail n v l d).xlt = d.xlt := ledDetail_keeps _ _ _ _ .xlt (by decide)
@[simp] theorem ledDetail_slu {n : Nat} {v : Word} {l : List (BitVec 8)} {d : Dev} : (ledDetail n v l d).slu = d.slu := ledDetail_keeps _ _ _ _ .slu (by decide)
@[simp] theorem ledDetail_twn {n : Nat} {v : Word} {l : List (BitVec 8)} {d : Dev} : (ledDetail n v l d).twn = d.twn := ledDetail_keeps _ _ _ _ .twn (by decide)
@[simp] theorem ledDetail_pwr {n : Nat} {v : Word} {l : List (BitVec 8)} {d : Dev} : (ledDetail n v l d).pwr = d.pwr := ledDetail_keeps _ _ _ _ .pwr (by decide)
@[simp] theorem ledDetail_grt {n : Nat} {v : Word} {l : List (BitVec 8)} {d : Dev} : (ledDetail n v l d).grt = d.grt := ledDetail_keeps _ _ _ _ .grt (by decide)
@[simp] theorem ledDetail_thm {n : Nat} {v : Word} {l : List (BitVec 8)} {d : Dev} : (ledDetail n v l d).thm = d.thm := ledDetail_keeps _ _ _ _ .thm (by decide)
@[simp] theorem ledDetail_spr {n : Nat} {v : Word} {l : List (BitVec 8)} {d : Dev} : (ledDetail n v l d).spr = d.spr := ledDetail_keeps _ _ _ _ .spr (by decide)
@[simp] theorem ledDetail_free {n : Nat} {v : Word} {l : List (BitVec 8)} {d : Dev} : (ledDetail n v l d).free = d.free := ledDetail_keeps _ _ _ _ .free (by decide)
@[simp] theorem ledDetail_base {n : Nat} {v : Word} {l : List (BitVec 8)} {d : Dev} : (ledDetail n v l d).glb.base = d.glb.base := ledDetail_keeps _ _ _ _ .base (by decide)
@[simp] theorem ledDetail_tick {n : Nat} {v : Word} {l : List (BitVec 8)} {d : Dev} : (ledDetail n v l d).glb.tick = d.glb.tick := ledDetail_keeps _ _ _ _ .tick (by decide)
@[simp] theorem ledDetail_getF {n : Nat} {v : Word} {l : List (BitVec 8)} {d : Dev} {f : Fld} (hf : Safety.eventReg f.addr = false) : getF (ledDetail n v l d) f = getF d f :=
  getF_plain (ledDetail_keeps _ _ _ _) (by decide) hf
@[simp] theorem ledDetail_flag {n : Nat} {v : Word} {l : List (BitVec 8)} {d : Dev} {f : Fld} (hf : Safety.eventReg f.addr = false) : flag (ledDetail n v l d) f = flag d f :=
  flag_plain (ledDetail_keeps _ _ _ _) (by decide) hf

/-! ### portSay -/

@[simp] theorem portSay_regs {p : Nat} {o : PortOut} {d : Dev} : (portSay p o d).regs = d.regs := portSay_keeps _ _ _ .regs (by decide)
@[simp] theorem portSay_glb {p : Nat} {o : PortOut} {d : Dev} : (portSay p o d).glb = d.glb := portSay_keeps _ _ _ .glb (by decide)
@[simp] theorem portSay_sch {p : Nat} {o : PortOut} {d : Dev} : (portSay p o d).sch = d.sch := portSay_keeps _ _ _ .sch (by decide)
@[simp] theorem portSay_fab {p : Nat} {o : PortOut} {d : Dev} : (portSay p o d).fab = d.fab := portSay_keeps _ _ _ .fab (by decide)
@[simp] theorem portSay_bsn {p : Nat} {o : PortOut} {d : Dev} : (portSay p o d).bsn = d.bsn := portSay_keeps _ _ _ .bsn (by decide)
@[simp] theorem portSay_ntr {p : Nat} {o : PortOut} {d : Dev} : (portSay p o d).ntr = d.ntr := portSay_keeps _ _ _ .ntr (by decide)
@[simp] theorem portSay_med {p : Nat} {o : PortOut} {d : Dev} : (portSay p o d).med = d.med := portSay_keeps _ _ _ .med (by decide)
@[simp] theorem portSay_xlt {p : Nat} {o : PortOut} {d : Dev} : (portSay p o d).xlt = d.xlt := portSay_keeps _ _ _ .xlt (by decide)
@[simp] theorem portSay_slu {p : Nat} {o : PortOut} {d : Dev} : (portSay p o d).slu = d.slu := portSay_keeps _ _ _ .slu (by decide)
@[simp] theorem portSay_twn {p : Nat} {o : PortOut} {d : Dev} : (portSay p o d).twn = d.twn := portSay_keeps _ _ _ .twn (by decide)
@[simp] theorem portSay_pwr {p : Nat} {o : PortOut} {d : Dev} : (portSay p o d).pwr = d.pwr := portSay_keeps _ _ _ .pwr (by decide)
@[simp] theorem portSay_grt {p : Nat} {o : PortOut} {d : Dev} : (portSay p o d).grt = d.grt := portSay_keeps _ _ _ .grt (by decide)
@[simp] theorem portSay_thm {p : Nat} {o : PortOut} {d : Dev} : (portSay p o d).thm = d.thm := portSay_keeps _ _ _ .thm (by decide)
@[simp] theorem portSay_obs {p : Nat} {o : PortOut} {d : Dev} : (portSay p o d).obs = d.obs := portSay_keeps _ _ _ .obs (by decide)
@[simp] theorem portSay_spr {p : Nat} {o : PortOut} {d : Dev} : (portSay p o d).spr = d.spr := portSay_keeps _ _ _ .spr (by decide)
@[simp] theorem portSay_free {p : Nat} {o : PortOut} {d : Dev} : (portSay p o d).free = d.free := portSay_keeps _ _ _ .free (by decide)
@[simp] theorem portSay_getF {p : Nat} {o : PortOut} {d : Dev} {f : Fld} : getF (portSay p o d) f = getF d f := by unfold getF regGet; rw [portSay_regs]
@[simp] theorem portSay_flag {p : Nat} {o : PortOut} {d : Dev} {f : Fld} : flag (portSay p o d) f = flag d f := by unfold flag; rw [portSay_getF]

/-! ### answer -/

@[simp] theorem answer_regs {p : Nat} {a b c e : BitVec 8} {l : List (BitVec 8)} {d : Dev} : (answer p a b c e l d).regs = d.regs := answer_keeps _ _ _ _ _ _ _ .regs (by decide)
@[simp] theorem answer_glb {p : Nat} {a b c e : BitVec 8} {l : List (BitVec 8)} {d : Dev} : (answer p a b c e l d).glb = d.glb := answer_keeps _ _ _ _ _ _ _ .glb (by decide)
@[simp] theorem answer_sch {p : Nat} {a b c e : BitVec 8} {l : List (BitVec 8)} {d : Dev} : (answer p a b c e l d).sch = d.sch := answer_keeps _ _ _ _ _ _ _ .sch (by decide)
@[simp] theorem answer_fab {p : Nat} {a b c e : BitVec 8} {l : List (BitVec 8)} {d : Dev} : (answer p a b c e l d).fab = d.fab := answer_keeps _ _ _ _ _ _ _ .fab (by decide)
@[simp] theorem answer_bsn {p : Nat} {a b c e : BitVec 8} {l : List (BitVec 8)} {d : Dev} : (answer p a b c e l d).bsn = d.bsn := answer_keeps _ _ _ _ _ _ _ .bsn (by decide)
@[simp] theorem answer_ntr {p : Nat} {a b c e : BitVec 8} {l : List (BitVec 8)} {d : Dev} : (answer p a b c e l d).ntr = d.ntr := answer_keeps _ _ _ _ _ _ _ .ntr (by decide)
@[simp] theorem answer_med {p : Nat} {a b c e : BitVec 8} {l : List (BitVec 8)} {d : Dev} : (answer p a b c e l d).med = d.med := answer_keeps _ _ _ _ _ _ _ .med (by decide)
@[simp] theorem answer_xlt {p : Nat} {a b c e : BitVec 8} {l : List (BitVec 8)} {d : Dev} : (answer p a b c e l d).xlt = d.xlt := answer_keeps _ _ _ _ _ _ _ .xlt (by decide)
@[simp] theorem answer_slu {p : Nat} {a b c e : BitVec 8} {l : List (BitVec 8)} {d : Dev} : (answer p a b c e l d).slu = d.slu := answer_keeps _ _ _ _ _ _ _ .slu (by decide)
@[simp] theorem answer_twn {p : Nat} {a b c e : BitVec 8} {l : List (BitVec 8)} {d : Dev} : (answer p a b c e l d).twn = d.twn := answer_keeps _ _ _ _ _ _ _ .twn (by decide)
@[simp] theorem answer_pwr {p : Nat} {a b c e : BitVec 8} {l : List (BitVec 8)} {d : Dev} : (answer p a b c e l d).pwr = d.pwr := answer_keeps _ _ _ _ _ _ _ .pwr (by decide)
@[simp] theorem answer_grt {p : Nat} {a b c e : BitVec 8} {l : List (BitVec 8)} {d : Dev} : (answer p a b c e l d).grt = d.grt := answer_keeps _ _ _ _ _ _ _ .grt (by decide)
@[simp] theorem answer_thm {p : Nat} {a b c e : BitVec 8} {l : List (BitVec 8)} {d : Dev} : (answer p a b c e l d).thm = d.thm := answer_keeps _ _ _ _ _ _ _ .thm (by decide)
@[simp] theorem answer_obs {p : Nat} {a b c e : BitVec 8} {l : List (BitVec 8)} {d : Dev} : (answer p a b c e l d).obs = d.obs := answer_keeps _ _ _ _ _ _ _ .obs (by decide)
@[simp] theorem answer_spr {p : Nat} {a b c e : BitVec 8} {l : List (BitVec 8)} {d : Dev} : (answer p a b c e l d).spr = d.spr := answer_keeps _ _ _ _ _ _ _ .spr (by decide)
@[simp] theorem answer_free {p : Nat} {a b c e : BitVec 8} {l : List (BitVec 8)} {d : Dev} : (answer p a b c e l d).free = d.free := answer_keeps _ _ _ _ _ _ _ .free (by decide)
@[simp] theorem answer_getF {p : Nat} {a b c e : BitVec 8} {l : List (BitVec 8)} {d : Dev} {f : Fld} : getF (answer p a b c e l d) f = getF d f := by unfold getF regGet; rw [answer_regs]
@[simp] theorem answer_flag {p : Nat} {a b c e : BitVec 8} {l : List (BitVec 8)} {d : Dev} {f : Fld} : flag (answer p a b c e l d) f = flag d f := by unfold flag; rw [answer_getF]

/-! ### touch -/

@[simp] theorem touch_regs {p : Nat} {d : Dev} : (touch p d).regs = d.regs := touch_keeps _ _ .regs (by decide)
@[simp] theorem touch_glb {p : Nat} {d : Dev} : (touch p d).glb = d.glb := touch_keeps _ _ .glb (by decide)
@[simp] theorem touch_sch {p : Nat} {d : Dev} : (touch p d).sch = d.sch := touch_keeps _ _ .sch (by decide)
@[simp] theorem touch_fab {p : Nat} {d : Dev} : (touch p d).fab = d.fab := touch_keeps _ _ .fab (by decide)
@[simp] theorem touch_bsn {p : Nat} {d : Dev} : (touch p d).bsn = d.bsn := touch_keeps _ _ .bsn (by decide)
@[simp] theorem touch_ntr {p : Nat} {d : Dev} : (touch p d).ntr = d.ntr := touch_keeps _ _ .ntr (by decide)
@[simp] theorem touch_med {p : Nat} {d : Dev} : (touch p d).med = d.med := touch_keeps _ _ .med (by decide)
@[simp] theorem touch_xlt {p : Nat} {d : Dev} : (touch p d).xlt = d.xlt := touch_keeps _ _ .xlt (by decide)
@[simp] theorem touch_slu {p : Nat} {d : Dev} : (touch p d).slu = d.slu := touch_keeps _ _ .slu (by decide)
@[simp] theorem touch_twn {p : Nat} {d : Dev} : (touch p d).twn = d.twn := touch_keeps _ _ .twn (by decide)
@[simp] theorem touch_pwr {p : Nat} {d : Dev} : (touch p d).pwr = d.pwr := touch_keeps _ _ .pwr (by decide)
@[simp] theorem touch_grt {p : Nat} {d : Dev} : (touch p d).grt = d.grt := touch_keeps _ _ .grt (by decide)
@[simp] theorem touch_thm {p : Nat} {d : Dev} : (touch p d).thm = d.thm := touch_keeps _ _ .thm (by decide)
@[simp] theorem touch_obs {p : Nat} {d : Dev} : (touch p d).obs = d.obs := touch_keeps _ _ .obs (by decide)
@[simp] theorem touch_spr {p : Nat} {d : Dev} : (touch p d).spr = d.spr := touch_keeps _ _ .spr (by decide)
@[simp] theorem touch_free {p : Nat} {d : Dev} : (touch p d).free = d.free := touch_keeps _ _ .free (by decide)
@[simp] theorem touch_getF {p : Nat} {d : Dev} {f : Fld} : getF (touch p d) f = getF d f := by unfold getF regGet; rw [touch_regs]
@[simp] theorem touch_flag {p : Nat} {d : Dev} {f : Fld} : flag (touch p d) f = flag d f := by unfold flag; rw [touch_getF]

/-! ### mirSend -/

@[simp] theorem mirSend_sch {m : MirMsg} {d : Dev} : (mirSend m d).sch = d.sch := mirSend_keeps _ _ .sch (by decide)
@[simp] theorem mirSend_ntr {m : MirMsg} {d : Dev} : (mirSend m d).ntr = d.ntr := mirSend_keeps _ _ .ntr (by decide)
@[simp] theorem mirSend_med {m : MirMsg} {d : Dev} : (mirSend m d).med = d.med := mirSend_keeps _ _ .med (by decide)
@[simp] theorem mirSend_xlt {m : MirMsg} {d : Dev} : (mirSend m d).xlt = d.xlt := mirSend_keeps _ _ .xlt (by decide)
@[simp] theorem mirSend_slu {m : MirMsg} {d : Dev} : (mirSend m d).slu = d.slu := mirSend_keeps _ _ .slu (by decide)
@[simp] theorem mirSend_pwr {m : MirMsg} {d : Dev} : (mirSend m d).pwr = d.pwr := mirSend_keeps _ _ .pwr (by decide)
@[simp] theorem mirSend_grt {m : MirMsg} {d : Dev} : (mirSend m d).grt = d.grt := mirSend_keeps _ _ .grt (by decide)
@[simp] theorem mirSend_thm {m : MirMsg} {d : Dev} : (mirSend m d).thm = d.thm := mirSend_keeps _ _ .thm (by decide)
@[simp] theorem mirSend_spr {m : MirMsg} {d : Dev} : (mirSend m d).spr = d.spr := mirSend_keeps _ _ .spr (by decide)
@[simp] theorem mirSend_free {m : MirMsg} {d : Dev} : (mirSend m d).free = d.free := mirSend_keeps _ _ .free (by decide)
@[simp] theorem mirSend_base {m : MirMsg} {d : Dev} : (mirSend m d).glb.base = d.glb.base := mirSend_keeps _ _ .base (by decide)
@[simp] theorem mirSend_tick {m : MirMsg} {d : Dev} : (mirSend m d).glb.tick = d.glb.tick := mirSend_keeps _ _ .tick (by decide)
@[simp] theorem mirSend_getF {m : MirMsg} {d : Dev} {f : Fld} (hf : Safety.eventReg f.addr = false) : getF (mirSend m d) f = getF d f :=
  getF_plain (mirSend_keeps _ _) (by decide) hf
@[simp] theorem mirSend_flag {m : MirMsg} {d : Dev} {f : Fld} (hf : Safety.eventReg f.addr = false) : flag (mirSend m d) f = flag d f :=
  flag_plain (mirSend_keeps _ _) (by decide) hf

/-! ### mirSendFor -/

@[simp] theorem mirSendFor_sch {t : Nat} {m : MirMsg} {d : Dev} : (mirSendFor t m d).sch = d.sch := mirSendFor_keeps _ _ _ .sch (by decide)
@[simp] theorem mirSendFor_ntr {t : Nat} {m : MirMsg} {d : Dev} : (mirSendFor t m d).ntr = d.ntr := mirSendFor_keeps _ _ _ .ntr (by decide)
@[simp] theorem mirSendFor_med {t : Nat} {m : MirMsg} {d : Dev} : (mirSendFor t m d).med = d.med := mirSendFor_keeps _ _ _ .med (by decide)
@[simp] theorem mirSendFor_xlt {t : Nat} {m : MirMsg} {d : Dev} : (mirSendFor t m d).xlt = d.xlt := mirSendFor_keeps _ _ _ .xlt (by decide)
@[simp] theorem mirSendFor_slu {t : Nat} {m : MirMsg} {d : Dev} : (mirSendFor t m d).slu = d.slu := mirSendFor_keeps _ _ _ .slu (by decide)
@[simp] theorem mirSendFor_pwr {t : Nat} {m : MirMsg} {d : Dev} : (mirSendFor t m d).pwr = d.pwr := mirSendFor_keeps _ _ _ .pwr (by decide)
@[simp] theorem mirSendFor_grt {t : Nat} {m : MirMsg} {d : Dev} : (mirSendFor t m d).grt = d.grt := mirSendFor_keeps _ _ _ .grt (by decide)
@[simp] theorem mirSendFor_thm {t : Nat} {m : MirMsg} {d : Dev} : (mirSendFor t m d).thm = d.thm := mirSendFor_keeps _ _ _ .thm (by decide)
@[simp] theorem mirSendFor_spr {t : Nat} {m : MirMsg} {d : Dev} : (mirSendFor t m d).spr = d.spr := mirSendFor_keeps _ _ _ .spr (by decide)
@[simp] theorem mirSendFor_free {t : Nat} {m : MirMsg} {d : Dev} : (mirSendFor t m d).free = d.free := mirSendFor_keeps _ _ _ .free (by decide)
@[simp] theorem mirSendFor_base {t : Nat} {m : MirMsg} {d : Dev} : (mirSendFor t m d).glb.base = d.glb.base := mirSendFor_keeps _ _ _ .base (by decide)
@[simp] theorem mirSendFor_tick {t : Nat} {m : MirMsg} {d : Dev} : (mirSendFor t m d).glb.tick = d.glb.tick := mirSendFor_keeps _ _ _ .tick (by decide)
@[simp] theorem mirSendFor_getF {t : Nat} {m : MirMsg} {d : Dev} {f : Fld} (hf : Safety.eventReg f.addr = false) : getF (mirSendFor t m d) f = getF d f :=
  getF_plain (mirSendFor_keeps _ _ _) (by decide) hf
@[simp] theorem mirSendFor_flag {t : Nat} {m : MirMsg} {d : Dev} {f : Fld} (hf : Safety.eventReg f.addr = false) : flag (mirSendFor t m d) f = flag d f :=
  flag_plain (mirSendFor_keeps _ _ _) (by decide) hf

/-! ### mirPump -/

@[simp] theorem mirPump_sch {d : Dev} : (mirPump d).sch = d.sch := mirPump_keeps _ .sch (by decide)
@[simp] theorem mirPump_ntr {d : Dev} : (mirPump d).ntr = d.ntr := mirPump_keeps _ .ntr (by decide)
@[simp] theorem mirPump_med {d : Dev} : (mirPump d).med = d.med := mirPump_keeps _ .med (by decide)
@[simp] theorem mirPump_xlt {d : Dev} : (mirPump d).xlt = d.xlt := mirPump_keeps _ .xlt (by decide)
@[simp] theorem mirPump_slu {d : Dev} : (mirPump d).slu = d.slu := mirPump_keeps _ .slu (by decide)
@[simp] theorem mirPump_pwr {d : Dev} : (mirPump d).pwr = d.pwr := mirPump_keeps _ .pwr (by decide)
@[simp] theorem mirPump_grt {d : Dev} : (mirPump d).grt = d.grt := mirPump_keeps _ .grt (by decide)
@[simp] theorem mirPump_thm {d : Dev} : (mirPump d).thm = d.thm := mirPump_keeps _ .thm (by decide)
@[simp] theorem mirPump_spr {d : Dev} : (mirPump d).spr = d.spr := mirPump_keeps _ .spr (by decide)
@[simp] theorem mirPump_free {d : Dev} : (mirPump d).free = d.free := mirPump_keeps _ .free (by decide)
@[simp] theorem mirPump_base {d : Dev} : (mirPump d).glb.base = d.glb.base := mirPump_keeps _ .base (by decide)
@[simp] theorem mirPump_tick {d : Dev} : (mirPump d).glb.tick = d.glb.tick := mirPump_keeps _ .tick (by decide)
@[simp] theorem mirPump_getF {d : Dev} {f : Fld} (hf : Safety.eventReg f.addr = false) : getF (mirPump d) f = getF d f :=
  getF_plain (mirPump_keeps _) (by decide) hf
@[simp] theorem mirPump_flag {d : Dev} {f : Fld} (hf : Safety.eventReg f.addr = false) : flag (mirPump d) f = flag d f :=
  flag_plain (mirPump_keeps _) (by decide) hf

/-! ### bump -/

@[simp] theorem bump_regs {i : Nat} {d : Dev} : (bump i d).regs = d.regs := bump_keeps _ _ .regs (by decide)
@[simp] theorem bump_glb {i : Nat} {d : Dev} : (bump i d).glb = d.glb := bump_keeps _ _ .glb (by decide)
@[simp] theorem bump_svc {i : Nat} {d : Dev} : (bump i d).svc = d.svc := bump_keeps _ _ .svc (by decide)
@[simp] theorem bump_sch {i : Nat} {d : Dev} : (bump i d).sch = d.sch := bump_keeps _ _ .sch (by decide)
@[simp] theorem bump_fab {i : Nat} {d : Dev} : (bump i d).fab = d.fab := bump_keeps _ _ .fab (by decide)
@[simp] theorem bump_bsn {i : Nat} {d : Dev} : (bump i d).bsn = d.bsn := bump_keeps _ _ .bsn (by decide)
@[simp] theorem bump_ntr {i : Nat} {d : Dev} : (bump i d).ntr = d.ntr := bump_keeps _ _ .ntr (by decide)
@[simp] theorem bump_med {i : Nat} {d : Dev} : (bump i d).med = d.med := bump_keeps _ _ .med (by decide)
@[simp] theorem bump_xlt {i : Nat} {d : Dev} : (bump i d).xlt = d.xlt := bump_keeps _ _ .xlt (by decide)
@[simp] theorem bump_slu {i : Nat} {d : Dev} : (bump i d).slu = d.slu := bump_keeps _ _ .slu (by decide)
@[simp] theorem bump_twn {i : Nat} {d : Dev} : (bump i d).twn = d.twn := bump_keeps _ _ .twn (by decide)
@[simp] theorem bump_pwr {i : Nat} {d : Dev} : (bump i d).pwr = d.pwr := bump_keeps _ _ .pwr (by decide)
@[simp] theorem bump_grt {i : Nat} {d : Dev} : (bump i d).grt = d.grt := bump_keeps _ _ .grt (by decide)
@[simp] theorem bump_thm {i : Nat} {d : Dev} : (bump i d).thm = d.thm := bump_keeps _ _ .thm (by decide)
@[simp] theorem bump_spr {i : Nat} {d : Dev} : (bump i d).spr = d.spr := bump_keeps _ _ .spr (by decide)
@[simp] theorem bump_free {i : Nat} {d : Dev} : (bump i d).free = d.free := bump_keeps _ _ .free (by decide)
@[simp] theorem bump_getF {i : Nat} {d : Dev} {f : Fld} : getF (bump i d) f = getF d f := by unfold getF regGet; rw [bump_regs]
@[simp] theorem bump_flag {i : Nat} {d : Dev} {f : Fld} : flag (bump i d) f = flag d f := by unfold flag; rw [bump_getF]

/-! ### markSf -/

@[simp] theorem markSf_base {k : Nat} {d : Dev} : (markSf k d).glb.base = d.glb.base := markSf_keeps _ _ .base (by decide)
@[simp] theorem markSf_tick {k : Nat} {d : Dev} : (markSf k d).glb.tick = d.glb.tick := markSf_keeps _ _ .tick (by decide)
@[simp] theorem markSf_getF {k : Nat} {d : Dev} {f : Fld} : getF (markSf k d) f = getF d f := by unfold getF regGet; rw [markSf_regs]
@[simp] theorem markSf_flag {k : Nat} {d : Dev} {f : Fld} : flag (markSf k d) f = flag d f := by unfold flag; rw [markSf_getF]

/-! ### stamp -/

@[simp] theorem stamp_regs {g : Option Nat} {k : Nat} {d : Dev} : (stamp g k d).regs = d.regs := stamp_keeps _ _ _ .regs (by decide)
@[simp] theorem stamp_glb {g : Option Nat} {k : Nat} {d : Dev} : (stamp g k d).glb = d.glb := stamp_keeps _ _ _ .glb (by decide)
@[simp] theorem stamp_svc {g : Option Nat} {k : Nat} {d : Dev} : (stamp g k d).svc = d.svc := stamp_keeps _ _ _ .svc (by decide)
@[simp] theorem stamp_sch {g : Option Nat} {k : Nat} {d : Dev} : (stamp g k d).sch = d.sch := stamp_keeps _ _ _ .sch (by decide)
@[simp] theorem stamp_fab {g : Option Nat} {k : Nat} {d : Dev} : (stamp g k d).fab = d.fab := stamp_keeps _ _ _ .fab (by decide)
@[simp] theorem stamp_bsn {g : Option Nat} {k : Nat} {d : Dev} : (stamp g k d).bsn = d.bsn := stamp_keeps _ _ _ .bsn (by decide)
@[simp] theorem stamp_ntr {g : Option Nat} {k : Nat} {d : Dev} : (stamp g k d).ntr = d.ntr := stamp_keeps _ _ _ .ntr (by decide)
@[simp] theorem stamp_med {g : Option Nat} {k : Nat} {d : Dev} : (stamp g k d).med = d.med := stamp_keeps _ _ _ .med (by decide)
@[simp] theorem stamp_xlt {g : Option Nat} {k : Nat} {d : Dev} : (stamp g k d).xlt = d.xlt := stamp_keeps _ _ _ .xlt (by decide)
@[simp] theorem stamp_slu {g : Option Nat} {k : Nat} {d : Dev} : (stamp g k d).slu = d.slu := stamp_keeps _ _ _ .slu (by decide)
@[simp] theorem stamp_twn {g : Option Nat} {k : Nat} {d : Dev} : (stamp g k d).twn = d.twn := stamp_keeps _ _ _ .twn (by decide)
@[simp] theorem stamp_pwr {g : Option Nat} {k : Nat} {d : Dev} : (stamp g k d).pwr = d.pwr := stamp_keeps _ _ _ .pwr (by decide)
@[simp] theorem stamp_grt {g : Option Nat} {k : Nat} {d : Dev} : (stamp g k d).grt = d.grt := stamp_keeps _ _ _ .grt (by decide)
@[simp] theorem stamp_thm {g : Option Nat} {k : Nat} {d : Dev} : (stamp g k d).thm = d.thm := stamp_keeps _ _ _ .thm (by decide)
@[simp] theorem stamp_spr {g : Option Nat} {k : Nat} {d : Dev} : (stamp g k d).spr = d.spr := stamp_keeps _ _ _ .spr (by decide)
@[simp] theorem stamp_free {g : Option Nat} {k : Nat} {d : Dev} : (stamp g k d).free = d.free := stamp_keeps _ _ _ .free (by decide)
@[simp] theorem stamp_getF {g : Option Nat} {k : Nat} {d : Dev} {f : Fld} : getF (stamp g k d) f = getF d f := by unfold getF regGet; rw [stamp_regs]
@[simp] theorem stamp_flag {g : Option Nat} {k : Nat} {d : Dev} {f : Fld} : flag (stamp g k d) f = flag d f := by unfold flag; rw [stamp_getF]

/-! ### dropTag -/

@[simp] theorem dropTag_regs {g : Option Nat} {d : Dev} : (dropTag g d).regs = d.regs := dropTag_keeps _ _ .regs (by decide)
@[simp] theorem dropTag_glb {g : Option Nat} {d : Dev} : (dropTag g d).glb = d.glb := dropTag_keeps _ _ .glb (by decide)
@[simp] theorem dropTag_svc {g : Option Nat} {d : Dev} : (dropTag g d).svc = d.svc := dropTag_keeps _ _ .svc (by decide)
@[simp] theorem dropTag_sch {g : Option Nat} {d : Dev} : (dropTag g d).sch = d.sch := dropTag_keeps _ _ .sch (by decide)
@[simp] theorem dropTag_fab {g : Option Nat} {d : Dev} : (dropTag g d).fab = d.fab := dropTag_keeps _ _ .fab (by decide)
@[simp] theorem dropTag_bsn {g : Option Nat} {d : Dev} : (dropTag g d).bsn = d.bsn := dropTag_keeps _ _ .bsn (by decide)
@[simp] theorem dropTag_ntr {g : Option Nat} {d : Dev} : (dropTag g d).ntr = d.ntr := dropTag_keeps _ _ .ntr (by decide)
@[simp] theorem dropTag_med {g : Option Nat} {d : Dev} : (dropTag g d).med = d.med := dropTag_keeps _ _ .med (by decide)
@[simp] theorem dropTag_xlt {g : Option Nat} {d : Dev} : (dropTag g d).xlt = d.xlt := dropTag_keeps _ _ .xlt (by decide)
@[simp] theorem dropTag_slu {g : Option Nat} {d : Dev} : (dropTag g d).slu = d.slu := dropTag_keeps _ _ .slu (by decide)
@[simp] theorem dropTag_twn {g : Option Nat} {d : Dev} : (dropTag g d).twn = d.twn := dropTag_keeps _ _ .twn (by decide)
@[simp] theorem dropTag_pwr {g : Option Nat} {d : Dev} : (dropTag g d).pwr = d.pwr := dropTag_keeps _ _ .pwr (by decide)
@[simp] theorem dropTag_grt {g : Option Nat} {d : Dev} : (dropTag g d).grt = d.grt := dropTag_keeps _ _ .grt (by decide)
@[simp] theorem dropTag_thm {g : Option Nat} {d : Dev} : (dropTag g d).thm = d.thm := dropTag_keeps _ _ .thm (by decide)
@[simp] theorem dropTag_spr {g : Option Nat} {d : Dev} : (dropTag g d).spr = d.spr := dropTag_keeps _ _ .spr (by decide)
@[simp] theorem dropTag_free {g : Option Nat} {d : Dev} : (dropTag g d).free = d.free := dropTag_keeps _ _ .free (by decide)
@[simp] theorem dropTag_getF {g : Option Nat} {d : Dev} {f : Fld} : getF (dropTag g d) f = getF d f := by unfold getF regGet; rw [dropTag_regs]
@[simp] theorem dropTag_flag {g : Option Nat} {d : Dev} {f : Fld} : flag (dropTag g d) f = flag d f := by unfold flag; rw [dropTag_getF]

end Sys2Proof.Machine
end

