-- ==== Sys2Proof/Laws/Rest.lean ====
section
/-!
SUPPORT. What raising events leaves of the service ports and of the links: everything but what they send.
-/
namespace Sys2Proof.Machine
open Sys2Proof Sys2Proof.SMapLaws

/-- A service port without its event Rill and what it has sent. -/
def portRest (q : SvcPort) : SvcPort := { q with ev := [], lost := 0, lostMark := false, out := [] }
/-- The service part without the ports' event Rills, what they sent, and the queued EVT messages. -/
def svcRest (d : Dev) : Svc := { d.svc with a := portRest d.svc.a, b := portRest d.svc.b, evtQ := [] }
/-- A link without what it sends. -/
def linkRest (l : LinkSt) : LinkSt := { l with
  wait := [], retry := [], sent := [], txSeq := 0, crHeld := [], rxFree := [], owed := [], mirWait := [], nakOut := false, ackOut := 0 }

/-- The observability part without counters, tags in flight and records on their way to the Grotto. -/
def obsRest (d : Dev) : Obs := { d.obs with
  ctrs := [], inFlight := [], ring := [], gkSeq := 0, buf := [], nextSeq := 0, floods := [], flushDue := false }

/-- The rest of the service part, of each link and of the observability part is the same. -/
def Rest (d e : Dev) : Prop := svcRest e = svcRest d ∧ (∀ l, linkRest (linkOf e l) = linkRest (linkOf d l)) ∧ obsRest e = obsRest d

theorem Rest.refl (d : Dev) : Rest d d := ⟨rfl, fun _ => rfl, rfl⟩
theorem Rest.trans {a b c : Dev} (h : Rest a b) (k : Rest b c) : Rest a c := ⟨k.1.trans h.1, fun l => (k.2.1 l).trans (h.2.1 l), k.2.2.trans h.2.2⟩
theorem Rest.of_same {d e : Dev} (h1 : e.svc = d.svc) (h2 : e.fab = d.fab) (h3 : obsRest e = obsRest d) : Rest d e :=
  ⟨by unfold svcRest; rw [h1], fun l => by unfold linkOf; rw [h2], h3⟩
theorem Rest.of_keeps {M : List Safety.Part} {d e : Dev} (h : Safety.Keeps M d e) (h1 : Safety.Part.svc ∉ M) (h2 : Safety.Part.fab ∉ M)
    (h3 : obsRest e = obsRest d) : Rest d e := .of_same (h .svc h1) (h .fab h2) h3
theorem Rest.onPort {f : SvcPort → SvcPort} (hf : ∀ q, portRest (f q) = portRest q) (p : Nat) (d : Dev) : Rest d (onPort p f d) := by
  refine ⟨?_, fun l => by unfold linkOf; rw [onPort_fab], by unfold obsRest; rw [onPort_obs]⟩
  unfold svcRest Machine.onPort
  split
  · simp only [hf]
  · simp only [hf]
theorem Rest.onLink {f : LinkSt → LinkSt} (hf : ∀ q, linkRest (f q) = linkRest q) (p : Nat) (d : Dev) : Rest d (onLink p f d) := by
  refine ⟨rfl, fun l => ?_, rfl⟩
  by_cases h : l = p
  · subst h; rw [linkOf_onLink_same, hf]
  · rw [linkOf_onLink_ne h]
theorem Rest.evtQ (q : SMap (List LcfMsg)) (d : Dev) : Rest d { d with svc := { d.svc with evtQ := q } } := ⟨rfl, fun _ => rfl, rfl⟩

theorem rillPut_rest (p n : Nat) (alert : Bool) (tick : Nat) (arg : Word) (d : Dev) : Rest d (rillPut p n alert tick arg d).1 := by
  unfold rillPut
  dsimp only
  split
  · refine Rest.onPort ?_ _ _; intro q; rfl
  · refine Rest.onPort ?_ _ _; intro q; rfl

theorem stamp_obsRest (g : Option Nat) (k : Nat) (d : Dev) : obsRest (stamp g k d) = obsRest d := by unfold stamp; split <;> rfl
theorem ringPut_obsRest (id : Nat) (d : Dev) : obsRest (ringPut id d).1 = obsRest d := by
  unfold ringPut
  split
  · rfl
  · dsimp only; split <;> rfl
theorem leaveHook_rest (m : LcfMsg) (d : Dev) : Rest d (leaveHook m d).1 := by
  refine .of_keeps (leaveHook_keeps _ _) (by decide) (by decide) ?_
  unfold leaveHook
  split
  · split
    · exact stamp_obsRest _ _ _
    · rfl
  · split
    · split
      · rfl
      · rw [ringPut_obsRest, stamp_obsRest]
    · rfl
  · rfl
theorem bump_obsRest (i : Nat) (d : Dev) : obsRest (bump i d) = obsRest d := rfl
theorem addSat_obsRest (f : Fld) (n : Nat) (d : Dev) : obsRest (addSat f n d) = obsRest d := rfl
theorem ledPut_obsRest (a w : Bool) (r : LedRec) (d : Dev) : obsRest (ledPut a w r d).1 = obsRest d := by
  unfold ledPut
  dsimp only
  split
  · rfl
  · split
    · rfl
    · rw [bump_obsRest, addSat_obsRest]
theorem ledFlood_obsRest (w : Bool) (r : LedRec) (d : Dev) : obsRest (ledFlood w r d).1 = obsRest d := by
  unfold ledFlood
  dsimp only
  split
  · exact (ledPut_obsRest _ _ _ _).trans rfl
  · exact (bump_obsRest _ _).trans ((addSat_obsRest _ _ _).trans rfl)

theorem emit_rest (p : Nat) (m : LcfMsg) (d : Dev) : Rest d (emit p m d).1 := by
  unfold emit
  refine Rest.trans ?_ (leaveHook_rest _ _)
  refine Rest.onLink ?_ _ _; intro q; rfl

theorem pumpOne_rest {p : Nat} {d : Dev} {r : Dev × Bool} (h : pumpOne p d = some r) : Rest d r.1 := by
  unfold pumpOne at h
  dsimp only at h
  split at h
  · cases h
  · split at h
    · cases h; refine Rest.trans ?_ (emit_rest _ _ _); refine Rest.onLink ?_ _ _; intro q; rfl
    · split at h
      · cases h
      · split at h
        · cases h
        · cases h; refine Rest.trans ?_ (emit_rest _ _ _); exact .evtQ _ _

theorem pumpN_rest (n p : Nat) (d : Dev) : Rest d (pumpN n p d).1 := by
  induction n generalizing d with
  | zero => exact .refl _
  | succ n ih =>
    unfold pumpN
    split
    · exact .refl _
    · rename_i h; exact .trans (pumpOne_rest h) (ih _)

theorem forEach_rest {α : Type} (l : List α) (f : α → Dev → Dev) (d : Dev) (h : ∀ a d, Rest d (f a d)) : Rest d (forEach l f d) := by
  unfold forEach
  induction l generalizing d with
  | nil => exact .refl _
  | cons a l ih => exact .trans (h a d) (ih _)

theorem evtQueue_rest (p : Nat) (m : LcfMsg) (d : Dev) : Rest d (evtQueue p m d) := by
  unfold evtQueue
  dsimp only
  split
  · exact .evtQ _ _
  · exact .of_same rfl rfl rfl

theorem routeEvt_rest (n tick : Nat) (arg : Word) (d : Dev) : Rest d (routeEvt n tick arg d).1 := by
  unfold routeEvt
  extract_lets r
  split
  rename_i d1 fa h1
  split
  rename_i d2 fb h2
  have b1 : Rest d d1 := by
    split at h1
    · have := congrArg Prod.fst h1; dsimp only at this; rw [← this]; exact rillPut_rest _ _ _ _ _ _
    · cases h1; exact .refl _
  have b2 : Rest d1 d2 := by
    split at h2
    · have := congrArg Prod.fst h2; dsimp only at this; rw [← this]; exact rillPut_rest _ _ _ _ _ _
    · cases h2; exact .refl _
  exact .trans b1 (.trans b2 (forEach_rest _ _ _ fun a d => forEach_rest _ _ _ fun p d =>
    .trans (evtQueue_rest _ _ _) (pumpN_rest _ _ _)))

theorem raiseCore_rest (w : Bool) (n : Nat) (v : Word) (d : Dev) : Rest d (raiseCore w n v d).1 := by
  unfold raiseCore
  extract_lets +onlyGivenNames -underBinder -merge d1 snap rec0
  split
  rename_i d2 written dropped h
  have b : Rest d d2 := by
    have := congrArg Prod.fst h; dsimp only at this; rw [← this]
    refine Rest.trans ?_ (.of_keeps (ledFlood_keeps _ _ _) (by decide) (by decide) (ledFlood_obsRest _ _ _))
    exact .of_keeps (pendEvent_keeps _ _) (by decide) (by decide) rfl
  extract_lets +onlyGivenNames -underBinder -merge o d3
  have b3 : Rest d d3 := by
    show Rest d (if _ then _ else _)
    split
    · exact .trans b (.of_same rfl rfl rfl)
    · exact b
  split
  · exact b3
  · split
    · exact .trans b3 (.of_same rfl rfl rfl)
    · split
      rename_i d4 fa fb h4
      have := congrArg Prod.fst h4; dsimp only at this
      dsimp only
      rw [← this]; exact .trans b3 (routeEvt_rest _ _ _ _)

theorem raiseBy_rest (w : Bool) (n : Nat) (v : Word) (d : Dev) : Rest d (raiseBy w n v d) := by
  unfold raiseBy
  extract_lets +onlyGivenNames -underBinder -merge sat0
  split
  rename_i d1 dropped fa fb h1
  have p1 : Rest d d1 := by
    have := congrArg Prod.fst h1; dsimp only at this; rw [← this]; exact raiseCore_rest _ _ _ _
  extract_lets +onlyGivenNames -underBinder -merge follow d2 d3 d4 sat1
  have hf : ∀ key k a c d, Rest d (follow key k a c d) := by
    intro key k a c d
    show Rest d (if _ then _ else _)
    split
    · refine Rest.trans ?_ (raiseCore_rest _ _ _ _); exact .of_same rfl rfl rfl
    · exact .refl _
  exact .trans p1 (.trans (hf _ _ _ _ _) (.trans (hf _ _ _ _ _) (.trans (hf _ _ _ _ _) (hf _ _ _ _ _))))

theorem raiseN_rest (n v : Nat) (d : Dev) : Rest d (raiseN n v d) := raiseBy_rest _ _ _ _
theorem raiseFree_rest (n : Nat) (d : Dev) : Rest d (raiseFree n d) := by
  unfold raiseFree raise; refine Rest.trans ?_ (raiseBy_rest _ _ _ _); exact .of_same rfl rfl rfl
theorem raiseOnce_rest (k n v : Nat) (d : Dev) : Rest d (raiseOnce k n v d) := by
  unfold raiseOnce; split
  · exact .refl _
  · refine Rest.trans ?_ (raiseN_rest _ _ _); exact .of_same rfl rfl rfl
theorem finish_rest' (b : Nat) (d : Dev) : Rest d (finish b d) := by
  unfold finish; split
  · exact .refl _
  · exact raiseN_rest _ _ _
theorem count_rest (i : Nat) (d : Dev) : Rest d (count i d) := by
  unfold count; dsimp only; split
  · refine Rest.trans ?_ (raiseOnce_rest _ _ _ _); exact .of_same rfl rfl rfl
  · exact .of_same rfl rfl rfl
theorem pump_rest (p : Nat) (d : Dev) : Rest d (pump p d) := by
  unfold pump
  split
  rename_i d1 o h
  have : Rest d d1 := by have := congrArg Prod.fst h; dsimp only at this; rw [← this]; exact pumpN_rest _ _ _
  split
  · exact .trans this (raiseOnce_rest _ _ _ _)
  · exact this
theorem sendLcf_rest (p : Nat) (m : LcfMsg) (d : Dev) : Rest d (sendLcf p m d) := by
  unfold sendLcf; refine Rest.trans ?_ (pump_rest _ _); refine Rest.onLink ?_ _ _; intro q; rfl
theorem mirPumpN_rest (n : Nat) (d : Dev) : Rest d (mirPumpN n d) := by
  induction n generalizing d with
  | zero => exact .refl _
  | succ n ih =>
    unfold mirPumpN
    dsimp only
    split
    · exact .refl _
    · split
      · exact .refl _
      · refine Rest.trans ?_ (ih _)
        refine Rest.trans ?_ (.of_keeps (noteSeq_keeps _ _) (by decide) (by decide) (by unfold obsRest; rw [noteSeq_keeps _ _ .obs (by decide)]))
        unfold whenD
        split
        · refine Rest.trans ?_ (count_rest _ _); refine Rest.onLink ?_ _ _; intro q; rfl
        · refine Rest.onLink ?_ _ _; intro q; rfl
theorem mirSendFor_rest (t : Nat) (m : MirMsg) (d : Dev) : Rest d (mirSendFor t m d) := by
  unfold mirSendFor mirPump; refine Rest.trans ?_ (mirPumpN_rest _ _); refine Rest.onLink ?_ _ _; intro q; rfl
theorem mirSend_rest (m : MirMsg) (d : Dev) : Rest d (mirSend m d) := mirSendFor_rest _ _ _

theorem Rest.shadow {d e : Dev} (h : Rest d e) : e.svc.shadow = d.svc.shadow := show (svcRest e).shadow = (svcRest d).shadow by rw [h.1]
theorem Rest.commitAt {d e : Dev} (h : Rest d e) : e.svc.commitAt = d.svc.commitAt := show (svcRest e).commitAt = (svcRest d).commitAt by rw [h.1]
theorem Rest.port {d e : Dev} (h : Rest d e) (p : Nat) : portRest (portOf e p) = portRest (portOf d p) := by
  unfold portOf
  split
  · exact show (svcRest e).a = (svcRest d).a by rw [h.1]
  · exact show (svcRest e).b = (svcRest d).b by rw [h.1]

theorem Rest.area {d e : Dev} (h : Rest d e) : e.obs.area = d.obs.area := show (obsRest e).area = (obsRest d).area by rw [h.2.2]
theorem Rest.nonce {d e : Dev} (h : Rest d e) : e.obs.nonce = d.obs.nonce := show (obsRest e).nonce = (obsRest d).nonce by rw [h.2.2]

end Sys2Proof.Machine
end

