-- ==== Sys2Proof/Laws/Runnel.lean ====
section
/-!
SUPPORT. What one runnel operation does (R56-R58), said once: the lemmas that the statements about operations cite in place of
`runOp`.
-/
namespace Sys2Proof.Machine
open Sys2Proof Sys2Proof.SMapLaws

/-- A part of a state that decides GLB_STATE is unchanged. -/
theorem stateByte_eq {d e : Dev} (hg : e.glb = d.glb) (hr : e.regs = d.regs) : stateByte e = stateByte d := by
  have : ∀ f, getF e f = getF d f := fun f => by unfold getF regGet; rw [hr]
  unfold stateByte stateCode throttled dutyLevel
  simp only [hg, this]

theorem finish_same {d e : Dev} (hg : e.glb = d.glb) (hr : e.regs = d.regs) : finish (stateByte d) e = e := by
  unfold finish; rw [if_pos (stateByte_eq hg hr)]

/-- The device as a bundle's first operation leaves it before its effect: the issue snapshot is taken (R57). -/
def snap (n : Nat) (d : Dev) : Dev :=
  if (runnelOf d n).core.slots = 0 then onRunnel n (fun r => { r with issue := r.core }) d else d

theorem snap_issue (n : Nat) (d : Dev) : runnelOf (snap n d) n = { runnelOf d n with issue := Safety.issueOf (runnelOf d n) } := by
  unfold snap Safety.issueOf; split
  · simp
  · rfl

theorem snap_ne {n m : Nat} (h : m ≠ n) (d : Dev) : runnelOf (snap n d) m = runnelOf d m := by
  unfold snap; split
  · simp [h]
  · rfl

theorem snap_keeps (n : Nat) (d : Dev) : Safety.Keeps [.sch] d (snap n d) ∧ (snap n d).sch.windows = d.sch.windows
    ∧ (snap n d).sch.records = d.sch.records := by
  unfold snap; split
  · exact ⟨onRunnel_keeps _ _ _, rfl, rfl⟩
  · exact ⟨.refl _ _, rfl, rfl⟩

/-- A device with an operation's effect in its runnel's core and its marks in the bundle. -/
def placed (h : OpHdr) (o : OpShape) (c : Core) (d : Dev) : Dev :=
  onRunnel h.rn.val (fun r => { r with core := { r.core with free := 0 } })
    (onRunnel h.rn.val (fun r => { r with
      core := { c with wrG := c.wrG ++ o.writesG, wrP := c.wrP ++ o.writesP, slots := c.slots ||| BitVec.ofNat 4 (2 ^ o.slot.bit) },
      cost := max r.cost o.cycles }) { snap h.rn.val d with free := (snap h.rn.val d).free + c.free })

/-- The runnel of an operation that issues with its guard true, before the bundle ends. -/
theorem placed_runnel (h : OpHdr) (o : OpShape) (c : Core) (d : Dev) :
    runnelOf (placed h o c d) h.rn.val = { runnelOf d h.rn.val with
      issue := Safety.issueOf (runnelOf d h.rn.val), cost := max (runnelOf d h.rn.val).cost o.cycles
      core := { c with wrG := c.wrG ++ o.writesG, wrP := c.wrP ++ o.writesP, slots := c.slots ||| BitVec.ofNat 4 (2 ^ o.slot.bit), free := 0 } } := by
  unfold placed
  have hs := snap_issue h.rn.val d
  have : runnelOf { snap h.rn.val d with free := (snap h.rn.val d).free + c.free } h.rn.val = runnelOf (snap h.rn.val d) h.rn.val := rfl
  simp [this, hs]

theorem placed_only (h : OpHdr) (o : OpShape) (c : Core) (d : Dev) : Safety.OnlyCore h d (placed h o c d) := by
  obtain ⟨k1, k2, k3⟩ := snap_keeps h.rn.val d
  refine ⟨?_, fun m hm => ?_, k2, k3⟩
  · exact .step (onRunnel_keeps _ _ _) rfl (.step (onRunnel_keeps _ _ _) rfl (.set_free rfl (.mono rfl k1)))
  · unfold placed; rw [runnelOf_onRunnel_ne hm, runnelOf_onRunnel_ne hm]; exact snap_ne hm d

/-- An operation whose runnel runs, whose bundle stays legal and whose guard is true, by what its effect answers (R56-R58, R69). -/
theorem runOp_eq {h : OpHdr} {o : OpShape} {f : Dev → Core → Core → OpResult} {d : Dev}
    (h1 : (runnelOf d h.rn.val).st = .running) (h2 : (runnelOf d h.rn.val).cyc < 2000) (h3 : bundleBad (runnelOf d h.rn.val) o = false)
    (h4 : o.slot = .media → h.rn.val < 32) (h5 : guardOn (Safety.issueOf (runnelOf d h.rn.val)) h.guard = true) :
    runOp h o f d = match f (snap h.rn.val d) (Safety.issueOf (runnelOf d h.rn.val)) (runnelOf d h.rn.val).core with
      | .error e => runnelFault h.rn.val e (snap h.rn.val d)
      | .ok c => if h.last then bundleEnd h.rn.val (placed h o c d) else placed h o c d := by
  have hs := snap_issue h.rn.val d
  unfold runOp
  simp only [h1, ne_eq, not_true_eq_false, if_false]
  rw [show (if (runnelOf d h.rn.val).core.slots = 0 then onRunnel h.rn.val (fun r => { r with issue := r.core }) d else d)
    = snap h.rn.val d from rfl, hs]
  have hb : bundleBad { runnelOf d h.rn.val with issue := Safety.issueOf (runnelOf d h.rn.val) } o = false := h3
  have hm : ¬ (o.slot = .media ∧ 32 ≤ h.rn.val) := fun hh => absurd (h4 hh.1) (by omega)
  simp only [hb, hm, Nat.not_le.mpr h2, if_false, h5, if_true, Bool.false_eq_true]
  split
  · rename_i heq; first | rfl | (rw [heq])
  · rename_i heq; first | rfl | (rw [heq]; rfl)

/-- An operation of a bundle that turns illegal with it: cause 1 (R58, R69). -/
theorem runOp_illegal {h : OpHdr} {o : OpShape} {f : Dev → Core → Core → OpResult} {d : Dev}
    (h1 : (runnelOf d h.rn.val).st = .running) (h2 : (runnelOf d h.rn.val).cyc < 2000) (h3 : bundleBad (runnelOf d h.rn.val) o = true) :
    runOp h o f d = runnelFault h.rn.val 1 (snap h.rn.val d) := by
  unfold runOp
  simp only [h1, ne_eq, not_true_eq_false, if_false]
  rw [show (if (runnelOf d h.rn.val).core.slots = 0 then onRunnel h.rn.val (fun r => { r with issue := r.core }) d else d)
    = snap h.rn.val d from rfl, snap_issue h.rn.val d]
  have hb : bundleBad { runnelOf d h.rn.val with issue := Safety.issueOf (runnelOf d h.rn.val) } o = true := h3
  simp only [hb, Nat.not_le.mpr h2, if_false, if_true]

/-- What an operation that issues does (R56-R58): its core, with the bundle's marks; nothing else. -/
theorem runOp_issues {h : OpHdr} {o : OpShape} {f : Dev → Core → Core → OpResult} {d : Dev} {c : Core} (hi : Safety.Issues h o d)
    (hf : f (snap h.rn.val d) (Safety.issueOf (runnelOf d h.rn.val)) (runnelOf d h.rn.val).core = .ok c)
    (hl : h.last = true → c.ctl = .none ∧ c.reqs = [] ∧ c.counts = []) :
    let y := (runnelOf (runOp h o f d) h.rn.val).core
    (y.g = c.g ∧ y.p = c.p ∧ y.data = c.data ∧ y.undo = c.undo ∧ y.ret = c.ret ∧ y.outbox = c.outbox ∧ y.inbox = c.inbox ∧
      y.fifo = c.fifo ∧ y.xfers = c.xfers ∧ (h.last = false → y.ctl = c.ctl ∧ y.reqs = c.reqs ∧ y.counts = c.counts)) ∧
    Safety.OnlyCore h d (runOp h o f d) := by
  obtain ⟨h1, h2, h3, h4, h5, -⟩ := hi
  have he := runOp_eq (f := f) h1 h2 h3 h4 h5
  rw [hf] at he
  rw [he]
  have hr := congrArg Runnel.core (placed_runnel h o c d)
  have ho := placed_only h o c d
  cases hlast : h.last
  · rw [hlast] at hl
    simp only [hr, Bool.false_eq_true, if_false]
    exact ⟨by simp, ho⟩
  · obtain ⟨l1, l2, l3⟩ := hl hlast
    simp only [if_true]
    generalize hd1 : placed h o c d = d1 at hr ho
    have hctl : (runnelOf d1 h.rn.val).core.ctl = .none := by rw [hr]; exact l1
    have hx : ∃ g : Runnel → Runnel, bundleEnd h.rn.val d1 = onRunnel h.rn.val g d1 ∧ (g (runnelOf d1 h.rn.val)).core.g = c.g ∧
        (g (runnelOf d1 h.rn.val)).core.p = c.p ∧ (g (runnelOf d1 h.rn.val)).core.data = c.data ∧ (g (runnelOf d1 h.rn.val)).core.undo = c.undo ∧
        (g (runnelOf d1 h.rn.val)).core.ret = c.ret ∧ (g (runnelOf d1 h.rn.val)).core.outbox = c.outbox ∧
        (g (runnelOf d1 h.rn.val)).core.inbox = c.inbox ∧ (g (runnelOf d1 h.rn.val)).core.fifo = c.fifo ∧
        (g (runnelOf d1 h.rn.val)).core.xfers = c.xfers := by
      unfold bundleEnd
      simp only [hctl, control, reduceCtorEq, decide_false, Bool.not_false, if_true]
      rw [hr]
      simp only [l2, l3, List.foldl_nil]
      refine ⟨_, rfl, ?_⟩
      simp
    obtain ⟨g, hg, q1, q2, q3, q4, q5, q6, q7, q8, q9⟩ := hx
    rw [hg]
    refine ⟨?_, ?_, fun m hm => ?_, ho.2.2.1, ho.2.2.2⟩
    · simp only [runnelOf_onRunnel_same]
      exact ⟨q1, q2, q3, q4, q5, q6, q7, q8, q9, fun hh => by cases hh⟩
    · exact .step (onRunnel_keeps _ _ _) rfl ho.1
    · rw [runnelOf_onRunnel_ne hm]; exact ho.2.1 m hm
/-- What a core change that leaves the rest of the device alone answers as a command: GLB_STATE does not move. -/
theorem run_onlyCore {h : OpHdr} {f : Dev → Dev} {s : State} (ho : Safety.OnlyCore h s.dev (f s.dev)) :
    run f s = .next { s with dev := f s.dev } := by
  have hg : (f s.dev).glb = s.dev.glb := ho.1 .glb (by simp)
  have hr : (f s.dev).regs = s.dev.regs := ho.1 .regs (by simp)
  show Host.Outcome.next { s with dev := finish (stateByte s.dev) (f s.dev) } = _
  rw [finish_same hg hr]

/-- An operation that issues answers a next state that differs in its core only. -/
theorem runOp_run {h : OpHdr} {o : OpShape} {f : Dev → Core → Core → OpResult} {s : State} {c : Core}
    (hi : Safety.Issues h o s.dev)
    (hf : f (snap h.rn.val s.dev) (Safety.issueOf (runnelOf s.dev h.rn.val)) (runnelOf s.dev h.rn.val).core = .ok c)
    (hl : h.last = true → c.ctl = .none ∧ c.reqs = [] ∧ c.counts = []) :
    run (runOp h o f) s = .next { s with dev := runOp h o f s.dev } :=
  run_onlyCore (runOp_issues hi hf hl).2

@[simp] theorem reg_setReg (c : Core) (i j : Nat) (v : Word64) : (c.setReg i v).reg j = if j = i then v else c.reg j := by
  unfold Core.setReg Core.reg
  split
  · rename_i h; subst h; simp
  · rename_i h; simp [h]

theorem pred_zero (c : Core) : c.pred 0 = true := by simp [Core.pred]

theorem pred_setPred (c : Core) {i j : Nat} (b : Bool) (hi : i < 8) (hj : j < 8) :
    (c.setPred i b).pred j = if j = i ∧ i ≠ 0 then b else c.pred j := by
  unfold Core.setPred Core.pred
  by_cases h0 : i = 0
  · subst h0; simp
  · simp only [h0, if_false, ne_eq, not_false_eq_true, and_true]
    by_cases hj0 : j = 0
    · subst hj0
      have : ¬ (0 = i) := fun h => h0 h.symm
      simp [this]
    · simp only [hj0, decide_false, Bool.false_or]
      cases b
      · simp [hj]; by_cases hij : j = i
        · simp [hij]
        · simp [hij]
      · simp [hj]; by_cases hij : j = i
        · simp [hij]
        · simp [hij]

/-- An operation that writes one general register and issues (R57). -/
theorem opReg_result {h : OpHdr} {slot : SlotPos} {cycles : Nat} {d : BitVec 5} {f : Dev → Core → Word64} {s : State}
    (hi : Safety.Issues h { slot := slot, cycles := cycles, writesG := [d.toNat] } s.dev) :
    ∃ t, opReg h slot cycles d f s = .next t ∧ t.pending = s.pending ∧
      Safety.RegResult h [d.toNat] (fun _ => f (snap h.rn.val s.dev) (Safety.issueOf (runnelOf s.dev h.rn.val))) s.dev t.dev := by
  have hl : h.last = true → ((runnelOf s.dev h.rn.val).core.setReg d.toNat (f (snap h.rn.val s.dev)
      (Safety.issueOf (runnelOf s.dev h.rn.val)))).ctl = .none ∧ _ ∧ _ := hi.2.2.2.2.2
  refine ⟨_, runOp_run hi rfl hl, rfl, ?_⟩
  obtain ⟨⟨h1, h2, h3, h4, h5, h6, h7, h8, h9, -⟩, ho⟩ := runOp_issues (f := fun d' i c => .ok (c.setReg d.toNat (f d' i))) hi rfl hl
  refine ⟨fun i => ?_, h2, h3, h5, h6, ho⟩
  unfold Core.reg
  rw [h1]
  exact (reg_setReg _ _ _ _).trans (by simp [Core.reg])

/-- An operation that writes one predicate and issues (R57). -/
theorem opPred_result {h : OpHdr} {slot : SlotPos} {cycles p : Nat} {f : Dev → Core → Bool} {s : State} (hp : p < 8)
    (hi : Safety.Issues h { slot := slot, cycles := cycles, writesP := [p] } s.dev) :
    ∃ t, opPred h slot cycles p f s = .next t ∧ t.pending = s.pending ∧
      Safety.PredResult h p (f (snap h.rn.val s.dev) (Safety.issueOf (runnelOf s.dev h.rn.val))) s.dev t.dev := by
  have hs : ∀ (c : Core) b, (c.setPred p b).ctl = c.ctl ∧ (c.setPred p b).reqs = c.reqs ∧ (c.setPred p b).counts = c.counts ∧
      (c.setPred p b).g = c.g ∧ (c.setPred p b).data = c.data ∧ (c.setPred p b).ret = c.ret ∧ (c.setPred p b).outbox = c.outbox := by
    intro c b; unfold Core.setPred; split <;> simp
  have hl : h.last = true → ((runnelOf s.dev h.rn.val).core.setPred p (f (snap h.rn.val s.dev)
      (Safety.issueOf (runnelOf s.dev h.rn.val)))).ctl = .none ∧ _ ∧ _ := fun hh => by
    obtain ⟨l1, l2, l3⟩ := hi.2.2.2.2.2 hh
    obtain ⟨k1, k2, k3, -⟩ := hs (runnelOf s.dev h.rn.val).core (f (snap h.rn.val s.dev) (Safety.issueOf (runnelOf s.dev h.rn.val)))
    exact ⟨k1.trans l1, k2.trans l2, k3.trans l3⟩
  refine ⟨_, runOp_run hi rfl hl, rfl, ?_⟩
  obtain ⟨⟨h1, h2, h3, h4, h5, h6, h7, h8, h9, -⟩, ho⟩ := runOp_issues (f := fun d' i c => .ok (c.setPred p (f d' i))) hi rfl hl
  obtain ⟨k1, k2, k3, k4, k5, k6, k7⟩ := hs (runnelOf s.dev h.rn.val).core (f (snap h.rn.val s.dev) (Safety.issueOf (runnelOf s.dev h.rn.val)))
  refine ⟨fun i hi8 => ?_, h1.trans k4, h3.trans k5, h5.trans k6, h6.trans k7, ho⟩
  have hpr : ∀ c e : Core, c.p = e.p → c.pred i = e.pred i := fun c e hce => by unfold Core.pred; rw [hce]
  exact (hpr _ _ h2).trans (pred_setPred _ _ hp hi8)
/-- The last operation of a bundle whose control moves on (R57). -/
theorem runLast_ok {h : OpHdr} {o : OpShape} {f : Dev → Core → Core → OpResult} {s : State} {c c' : Core} {pc : BitVec 12} {extra : Nat}
    (hi : Safety.IssuesLast h o s.dev)
    (hf : f (snap h.rn.val s.dev) (Safety.issueOf (runnelOf s.dev h.rn.val)) (runnelOf s.dev h.rn.val).core = .ok c)
    (hc : control (runnelOf s.dev h.rn.val).pc { c with wrG := c.wrG ++ o.writesG, wrP := c.wrP ++ o.writesP, slots := c.slots ||| BitVec.ofNat 4 (2 ^ o.slot.bit), free := 0 } = .ok (c', pc, extra))
    (he : c.ctl ≠ .exit) (hr : c'.reqs = []) (hk : c'.counts = []) :
    ∃ u, run (runOp h o f) s = .next u ∧ u.pending = s.pending ∧ Safety.OnlyCore h s.dev u.dev ∧
      runnelOf u.dev h.rn.val = { runnelOf s.dev h.rn.val with
        issue := Safety.issueOf (runnelOf s.dev h.rn.val), cost := 0, pc := pc
        cyc := (runnelOf s.dev h.rn.val).cyc + max (runnelOf s.dev h.rn.val).cost o.cycles + extra
        core := { c' with reqs := [], counts := [], wrG := [], wrP := [], slots := 0 } } := by
  obtain ⟨h1, h2, h3, h4, h5, h6, -, -⟩ := hi
  have heq := runOp_eq (f := f) h1 h2 h3 h4 h5
  rw [hf] at heq
  simp only [h6, if_true] at heq
  have hp := placed_runnel h o c s.dev
  have ho := placed_only h o c s.dev
  generalize placed h o c s.dev = d1 at heq hp ho
  have hx : bundleEnd h.rn.val d1 = onRunnel h.rn.val (fun _ => { runnelOf s.dev h.rn.val with
        issue := Safety.issueOf (runnelOf s.dev h.rn.val), cost := 0, pc := pc
        cyc := (runnelOf s.dev h.rn.val).cyc + max (runnelOf s.dev h.rn.val).cost o.cycles + extra
        core := { c' with reqs := [], counts := [], wrG := [], wrP := [], slots := 0 } }) d1 := by
    unfold bundleEnd
    rw [hp]
    simp only [hc, hr, hk, List.foldl_nil, he, decide_false, Bool.not_false, if_true]
  rw [hx] at heq
  have ho2 : Safety.OnlyCore h s.dev (runOp h o f s.dev) := by
    rw [heq]
    exact ⟨.step (onRunnel_keeps _ _ _) rfl ho.1, fun m hm => (runnelOf_onRunnel_ne hm _ _).trans (ho.2.1 m hm), ho.2.2.1, ho.2.2.2⟩
  refine ⟨_, run_onlyCore ho2, rfl, ho2, ?_⟩
  show runnelOf (runOp h o f s.dev) _ = _
  rw [heq]; simp

/-- A runnel fault (R69). -/
theorem fault_result (h : OpHdr) (e : Nat) (d d1 : Dev) (hi : (runnelOf d1 h.rn.val).issue = Safety.issueOf (runnelOf d h.rn.val))
    (hpc : (runnelOf d1 h.rn.val).pc = (runnelOf d h.rn.val).pc) (ho : Safety.OnlyCore h d d1) :
    Safety.FaultResult h e d (runnelFault h.rn.val e d1) := by
  unfold runnelFault
  refine ⟨by simp, by simpa using hi, by simpa using hpc, .step (onRunnel_keeps _ _ _) rfl ho.1, fun m hm => (runnelOf_onRunnel_ne hm _ _).trans (ho.2.1 m hm), ho.2.2.1, ho.2.2.2⟩

theorem snap_only (h : OpHdr) (d : Dev) : Safety.OnlyCore h d (snap h.rn.val d) :=
  ⟨.mono rfl (snap_keeps h.rn.val d).1, fun _ hm => snap_ne hm d, (snap_keeps h.rn.val d).2.1, (snap_keeps h.rn.val d).2.2⟩

/-- An operation that faults (R69). -/
theorem runOp_fault {h : OpHdr} {o : OpShape} {f : Dev → Core → Core → OpResult} {s : State} {e : Nat}
    (h1 : (runnelOf s.dev h.rn.val).st = .running) (h2 : (runnelOf s.dev h.rn.val).cyc < 2000) (h3 : bundleBad (runnelOf s.dev h.rn.val) o = false)
    (h4 : o.slot = .media → h.rn.val < 32) (h5 : guardOn (Safety.issueOf (runnelOf s.dev h.rn.val)) h.guard = true)
    (hf : f (snap h.rn.val s.dev) (Safety.issueOf (runnelOf s.dev h.rn.val)) (runnelOf s.dev h.rn.val).core = .error e) :
    ∃ u, run (runOp h o f) s = .next u ∧ u.pending = s.pending ∧ Safety.FaultResult h e s.dev u.dev := by
  have heq := runOp_eq (f := f) h1 h2 h3 h4 h5
  rw [hf] at heq
  have hs := snap_issue h.rn.val s.dev
  have hF : Safety.FaultResult h e s.dev (runOp h o f s.dev) := by
    rw [heq]; exact fault_result h e _ _ (by rw [hs]) (by rw [hs]) (snap_only h s.dev)
  exact ⟨_, run_onlyCore hF.2.2.2, rfl, hF⟩

/-- The last operation of a bundle whose control is an error (R58, R69). -/
theorem runLast_fault {h : OpHdr} {o : OpShape} {f : Dev → Core → Core → OpResult} {s : State} {c : Core} {e : Nat}
    (hi : Safety.IssuesLast h o s.dev)
    (hf : f (snap h.rn.val s.dev) (Safety.issueOf (runnelOf s.dev h.rn.val)) (runnelOf s.dev h.rn.val).core = .ok c)
    (hc : control (runnelOf s.dev h.rn.val).pc { c with wrG := c.wrG ++ o.writesG, wrP := c.wrP ++ o.writesP, slots := c.slots ||| BitVec.ofNat 4 (2 ^ o.slot.bit), free := 0 } = .error e) :
    ∃ u, run (runOp h o f) s = .next u ∧ u.pending = s.pending ∧ Safety.FaultResult h e s.dev u.dev := by
  obtain ⟨h1, h2, h3, h4, h5, h6, -, -⟩ := hi
  have heq := runOp_eq (f := f) h1 h2 h3 h4 h5
  rw [hf] at heq
  simp only [h6, if_true] at heq
  have hp := placed_runnel h o c s.dev
  have ho := placed_only h o c s.dev
  generalize placed h o c s.dev = d1 at heq hp ho
  have hx : bundleEnd h.rn.val d1 = runnelFault h.rn.val e d1 := by
    unfold bundleEnd; rw [hp]; simp only [hc]
  rw [hx] at heq
  have hF : Safety.FaultResult h e s.dev (runOp h o f s.dev) := by
    rw [heq]; exact fault_result h e _ _ (by rw [hp]) (by rw [hp]) ho
  exact ⟨_, run_onlyCore hF.2.2.2, rfl, hF⟩

theorem routines_snap (n m : Nat) (d : Dev) : routinesOf (snap n d) m = routinesOf d m := by
  unfold snap; split <;> rfl
theorem dataBytes_snap (n m : Nat) (d : Dev) (c : Core) (a len : Nat) : dataBytes (snap n d) m c a len = dataBytes d m c a len := by
  unfold snap; split <;> rfl

theorem memAddr_eq (i : Core) (a : BitVec 5) (imm : BitVec 12) : memAddr i a imm = (i.reg a.toNat + BitVec.ofNat 64 imm.toNat).toNat := by
  unfold memAddr
  rw [show imm.setWidth 64 = BitVec.ofNat 64 imm.toNat by apply BitVec.eq_of_toNat_eq; simp]

/-- Registers written. -/
theorem reg_result {h : OpHdr} {o : OpShape} {f : Dev → Core → Core → OpResult} {s : State} {c : Core} {D : List Nat} {v : Nat → Word64}
    (hi : Safety.Issues h o s.dev)
    (hf : f (snap h.rn.val s.dev) (Safety.issueOf (runnelOf s.dev h.rn.val)) (runnelOf s.dev h.rn.val).core = .ok c)
    (hg : ∀ i, c.reg i = if i ∈ D then v i else (runnelOf s.dev h.rn.val).core.reg i)
    (hk : c.p = (runnelOf s.dev h.rn.val).core.p ∧ c.data = (runnelOf s.dev h.rn.val).core.data ∧ c.ret = (runnelOf s.dev h.rn.val).core.ret
      ∧ c.outbox = (runnelOf s.dev h.rn.val).core.outbox ∧ c.ctl = (runnelOf s.dev h.rn.val).core.ctl
      ∧ c.reqs = (runnelOf s.dev h.rn.val).core.reqs ∧ c.counts = (runnelOf s.dev h.rn.val).core.counts) :
    ∃ t, run (runOp h o f) s = .next t ∧ t.pending = s.pending ∧ Safety.RegResult h D v s.dev t.dev := by
  obtain ⟨k1, k2, k3, k4, k5, k6, k7⟩ := hk
  have hl : h.last = true → c.ctl = .none ∧ c.reqs = [] ∧ c.counts = [] := fun hh => by
    obtain ⟨l1, l2, l3⟩ := hi.2.2.2.2.2 hh
    exact ⟨k5.trans l1, k6.trans l2, k7.trans l3⟩
  refine ⟨_, runOp_run hi hf hl, rfl, ?_⟩
  obtain ⟨⟨h1, h2, h3, h4, h5, h6, h7, h8, h9, -⟩, ho⟩ := runOp_issues hi hf hl
  refine ⟨fun i => ?_, h2.trans k1, h3.trans k2, h5.trans k3, h6.trans k4, ho⟩
  unfold Core.reg
  rw [h1]
  exact hg i

theorem reg_two (c : Core) (i : Nat) (u w : Word64) (j : Nat) :
    ((c.setReg i u).setReg (i + 1) w).reg j = if j ∈ [i, i + 1] then (if j = i then u else w) else c.reg j := by
  rw [reg_setReg, reg_setReg]
  simp only [List.mem_cons, List.not_mem_nil, or_false]
  by_cases h1 : j = i
  · subst h1; simp
  · by_cases h2 : j = i + 1
    · subst h2; simp
    · simp [h1, h2]

theorem getLsbD_zero_mod (d : BitVec 5) : d.getLsbD 0 = decide (d.toNat % 2 = 1) := by
  simp [BitVec.getLsbD]

theorem dataBytes_half (d : Dev) (n : Nat) (c : Core) (a : Nat) :
    (dataBytes d n c a 16).take 8 = dataBytes d n c (a + 0) 8 ∧ (dataBytes d n c a 16).drop 8 = dataBytes d n c (a + 8) 8 := by
  unfold dataBytes
  simp only [show List.range 16 = [0, 1, 2, 3, 4, 5, 6, 7, 8, 9, 10, 11, 12, 13, 14, 15] from rfl, show List.range 8 = [0, 1, 2, 3, 4, 5, 6, 7] from rfl,
    List.map_cons, List.map_nil, List.take_succ_cons, List.take_zero, List.drop_succ_cons, List.drop_zero, Nat.add_assoc, Nat.reduceAdd, and_self]

theorem putBytes_get (a : Nat) (bs : List (BitVec 8)) (c : Core) (x : Nat) :
    (putBytes a bs c).data.get 0 x = if a ≤ x ∧ x < a + bs.length then bs.getD (x - a) 0 else c.data.get 0 x := by
  have key : ∀ (bs : List (BitVec 8)) (k : Nat) (m : SMap (BitVec 8)),
      ((List.zip (List.range' k bs.length) bs).foldl (fun m e => m.put 0 (a + e.1) e.2) m).get 0 x
        = if a + k ≤ x ∧ x < a + k + bs.length then bs.getD (x - a - k) 0 else m.get 0 x := by
    intro bs
    induction bs with
    | nil =>
      intro k m
      rw [if_neg (fun hh => by have := hh.2; simp at this; omega)]; rfl
    | cons b bs ih =>
      intro k m
      rw [List.length_cons, List.range'_succ, List.zip_cons_cons, List.foldl_cons, ih]
      by_cases hx : x = a + k
      · subst hx
        rw [if_neg (by omega), if_pos (by omega)]
        simp
      · by_cases hin : a + (k + 1) ≤ x ∧ x < a + (k + 1) + bs.length
        · rw [if_pos hin, if_pos (by omega)]
          rw [show x - a - k = (x - a - (k + 1)) + 1 by omega]
          simp
        · rw [if_neg hin, if_neg (by omega)]
          exact get_put_ne _ _ _ hx _
  have := key bs 0 c.data
  rw [List.range_eq_range'.symm] at this
  simpa [putBytes] using this

theorem bytesLE_length (n v : Nat) : (bytesLE n v).length = n := by
  induction n generalizing v with
  | zero => rfl
  | succ n ih => simp [bytesLE, ih]

theorem bytesLE_getD (n v i : Nat) (h : i < n) : (bytesLE n v).getD i 0 = BitVec.ofNat 8 (v / 256 ^ i) := by
  induction n generalizing v i with
  | zero => omega
  | succ n ih =>
    cases i with
    | zero => simp [bytesLE]
    | succ i =>
      have := ih (v / 256) i (by omega)
      simp only [bytesLE, List.getD_cons_succ, this]
      rw [Nat.div_div_eq_div_mul, Nat.pow_succ, Nat.mul_comm]

theorem bytesLE_append (n m v w : Nat) (hv : v < 256 ^ n) : bytesLE n v ++ bytesLE m w = bytesLE (n + m) (v + 256 ^ n * w) := by
  induction n generalizing v with
  | zero => simp [bytesLE] at *; subst hv; simp
  | succ n ih =>
    rw [Nat.succ_add]
    simp only [bytesLE, List.cons_append]
    have h1 : (v + 256 ^ (n + 1) * w) / 256 = v / 256 + 256 ^ n * w := by
      rw [Nat.pow_succ, Nat.mul_comm (256 ^ n) 256, Nat.mul_assoc, Nat.add_mul_div_left _ _ (by norm_num)]
    have h2 : BitVec.ofNat 8 (v + 256 ^ (n + 1) * w) = BitVec.ofNat 8 v := by
      apply BitVec.eq_of_toNat_eq
      simp only [BitVec.toNat_ofNat]
      rw [Nat.pow_succ, Nat.mul_comm (256 ^ n) 256, Nat.mul_assoc]; omega
    rw [h1, h2, ih]
    rw [Nat.div_lt_iff_lt_mul (by norm_num)]; rw [Nat.pow_succ] at hv; exact hv

theorem deliver_runnel (ps : List Post) (d : Dev) (m : Nat) (hm : m < 44) :
    runnelOf (deliver ps d) m = { runnelOf d m with
      arrived := (runnelOf d m).arrived ++ ps.filter (fun p => decide (p.target = m)) } := by
  unfold deliver
  induction ps generalizing d with
  | nil => simp
  | cons p ps ih =>
    rw [List.foldl_cons, ih]
    by_cases h63 : p.target = 63
    · have : p.target ≠ m := by omega
      rw [if_pos h63, show runnelOf (onSch _ d) m = runnelOf d m from rfl]
      simp [h63, show ¬ (63 = m) by omega]
    · rw [if_neg h63]
      by_cases ht : p.target = m
      · subst ht; simp
      · rw [runnelOf_onRunnel_ne (fun hh => ht hh.symm)]
        simp [ht]

theorem deliver_regs (ps : List Post) (d : Dev) : (deliver ps d).regs = d.regs :=
  deliver_keeps ps d .regs (by decide)
theorem setPred_rest (p : Nat) (b : Bool) (c : Core) : (c.setPred p b).ctl = c.ctl ∧ (c.setPred p b).reqs = c.reqs ∧ (c.setPred p b).counts = c.counts ∧
    (c.setPred p b).g = c.g ∧ (c.setPred p b).data = c.data ∧ (c.setPred p b).ret = c.ret ∧ (c.setPred p b).outbox = c.outbox ∧
    (c.setPred p b).inbox = c.inbox ∧ (c.setPred p b).fifo = c.fifo ∧ (c.setPred p b).xfers = c.xfers := by
  unfold Core.setPred; split <;> simp

theorem pred_congr {c e : Core} (h : c.p = e.p) (i : Nat) : c.pred i = e.pred i := by unfold Core.pred; rw [h]
theorem reg_congr {c e : Core} (h : c.g = e.g) (i : Nat) : c.reg i = e.reg i := by unfold Core.reg; rw [h]
theorem setReg_rest (p : Nat) (b : Word64) (c : Core) : (c.setReg p b).ctl = c.ctl ∧ (c.setReg p b).reqs = c.reqs ∧ (c.setReg p b).counts = c.counts ∧ (c.setReg p b).p = c.p := ⟨rfl, rfl, rfl, rfl⟩
theorem pred_setPred' (c : Core) {i j : Nat} (b : Bool) (hi : i < 8) (hj : j < 8) :
    (c.setPred i b).pred j = if j = i ∧ j ≠ 0 then b else c.pred j := by
  rw [pred_setPred c b hi hj]
  by_cases h : j = i
  · subst h; rfl
  · simp [h]
end Sys2Proof.Machine
end

