-- ==== Sys2Proof/Machine/Pins.lean ====
section
/-!
DEFINITION. The device's pins and its test access port as its state drives them (R182, R318, R397, R409, R446, R455-R458). The
pins are read, not commanded: a command changes the state they follow from.
-/
namespace Sys2Proof.Machine

/-! ## The test access port (R456, R457) -/

/-- IDCODE: version 0x1, part 0x4C34, manufacturer 0x3A5, and the 1 that IEEE 1149.1 puts in bit 0. -/
def idcode : Word := (0x1#4 ++ 0x4C34#16 ++ 0x3A5#11) ++ 1#1

/-- The JTAG instructions of R457; `vendor` stands for every non-public one, the near-tier memory-access port among them. -/
inductive JtagOp where
  | bypass | readId | sample | extest | extestPulse | extestTrain | clamp | highz | vendor
  deriving DecidableEq, Repr

/-- The instruction that acts when one is loaded (R457): the boundary tests only while RESET_N is held low, the others of Kwaelle only on
an unlocked part; else BYPASS. -/
def jtagActs (d : Dev) (i : JtagOp) : JtagOp :=
  match i with
  | .bypass | .readId | .sample => i
  | .vendor => if d.glb.debugUnlocked then i else .bypass
  | _ => if d.glb.resetLow then i else .bypass

/-- What the data register of an instruction captures where the spec gives it: IDCODE, or the single 0 of BYPASS that IEEE 1149.1
names. -/
def jtagCaptures (d : Dev) (i : JtagOp) : Option Nat :=
  match jtagActs d i with
  | .readId => some idcode.toNat
  | .bypass => some 0
  | _ => none

/-! ## Pin states (R458) -/

/-- How a pin or a group of pins stands. -/
inductive Pin where
  | low | high | released | highZ | unpowered | idle | driven
  deriving DecidableEq, Repr

/-- The columns of R458. Shutdown keeps the states of Recovering onward until a rail is disabled. -/
inductive PinCol where
  | off | starting | running | withdrawn
  deriving DecidableEq, Repr

/-- The column a device stands in. -/
def pinCol (d : Dev) : PinCol :=
  match d.glb.base with
  | .off => .off
  | .sequencing | .loading => .starting
  | .withdrawn => .withdrawn
  | _ => .running

/-- Whether step 6 has begun in this start. -/
def step6Begun (d : Dev) : Bool := decide (pinCol d = .running)

/-- The transmitters of a link: 0 to 15 the fabric ports, 16 the mirror link. While a link runs they carry its frames. -/
def txPins (d : Dev) (l : Nat) : Pin :=
  if !(railOf d 6).en ∨ !(railOf d 7).en then (if pinCol d = .off ∨ pinCol d = .running then .unpowered else .idle)
  else match pinCol d with
    | .off => .unpowered
    | .running => if ltOf d l = 0 then .idle else .driven
    | _ => .idle

/-- NTcc_RESET_N. -/
def ntResetPin (d : Dev) : Pin := if step6Begun d && (railOf d 8).en then .driven else .low

/-- MDcc_CE_N. -/
def ceN (d : Dev) : Pin :=
  match pinCol d with
  | .off => .unpowered
  | .running => if (railOf d 13).en then .driven else .unpowered
  | _ => .high

/-- MDcc_WP_N, held deasserted at all times (R182). -/
def wpN (d : Dev) : Pin := if ceN d = .unpowered then .unpowered else .high

/-- The SPI pins are driven from the end of RESET_N until Loading ends, and at no other time (R318). The device never writes the
flash: no command here does. -/
def spiPins (d : Dev) : Pin := if d.glb.base = .loading ∧ !d.glb.resetLow then .driven else .highZ

/-- The I3C pins of a port: it responds from the end of step 1 (R397). -/
def i3cPins (d : Dev) : Pin := if d.glb.base = .off ∨ d.glb.base = .sequencing then .released else .driven

/-- TICKSYNC_OUT (R301): reference-clock cycles it is high from a tick boundary, two at a superframe boundary; held low in Off, in
Withdrawn and before Recovering. -/
def ticksyncOut (d : Dev) : Nat :=
  if pinCol d ≠ .running then 0 else if sfTick d = 0 then 2 else 1

/-- EN[r] (R348). -/
def enPin (d : Dev) (r : Nat) : Pin := if (railOf d r).en then .high else .low

/-- PFAULT_N as this device drives it (R353, R365); another device may pull the net low. -/
def pfaultPin (d : Dev) : Pin := if flag d F.PWR_STS_PF_DRV then .low else .released

/-- ALERT_A_N and ALERT_B_N (R409, R455): low while the port's event Rill holds an entry with its ALERT bit; released in Off, in
Withdrawn and until routing has loaded. -/
def alertN (d : Dev) (p : Nat) : Pin :=
  if d.glb.base = .off ∨ d.glb.base = .withdrawn ∨ !d.glb.routingLoaded then .released
  else if (portOf d p).ev.any fun e => e.alert then .low else .released

end Sys2Proof.Machine
end

