-- ==== Sys2Proof/Tests/Slice0.lean ====
section
/-!
SUPPORT. The model's own tests: each check of `wellFormed` refuses an ill-formed command, and concrete states meet the hypotheses of
each statement together.
-/
namespace Sys2Proof.Tests
open Sys2Proof.Machine

/-! ## Ill-formed commands -/

/-- A tick with 16 rails and 24 sensors. -/
def tickIn : TickIn := { rails := List.replicate 16 0, sensors := List.replicate 24 0 }

theorem test_wf_tick : wellFormed (.tick {}) = false ∧ wellFormed (.tick tickIn) = true := by decide
theorem test_wf_request : wellFormed (.reqReceived 0 { op := 0 } 0) = false ∧ wellFormed (.reqReceived 0 { op := 10 } 0) = true := by decide
theorem test_wf_reserved_request :
    wellFormed (.reservedRequest 0 { op := 10 }) = false ∧ wellFormed (.reservedRequest 0 { op := 11 }) = true := by decide
theorem test_wf_leaf : wellFormed (.leaf 0 0 0 [] true) = false := by decide
theorem test_wf_fetch : wellFormed (.repopulationFetch 0 0 0 []) = false := by decide
theorem test_wf_upd : wellFormed (.upd []) = false ∧ wellFormed (.upd (List.replicate 129 default)) = false := by
  simp [wellFormed, wfUpd]
theorem test_wf_wmir : wellFormed (.wmir 0 []) = false ∧ wellFormed (.wmir 0 (List.replicate 65 default)) = false := by
  simp [wellFormed, wfWmir]
theorem test_wf_page : wellFormed (.pageWrite 0 []) = false ∧ wellFormed (.pageWrite 1 (List.replicate 256 0)) = false ∧
    wellFormed (.pageWrite 256 (List.replicate 256 0)) = true := by
  refine ⟨by decide, ?_, ?_⟩ <;> (simp only [wellFormed, wfPage, List.length_replicate]; decide)
theorem test_wf_retire : wellFormed (.retire []) = false := by decide
theorem test_wf_sequencing : wellFormed (.sequencing false []) = false := by decide
theorem test_wf_key_unwrap : wellFormed (.keyUnwrap [] true true) = false := by decide
theorem test_wf_register_write : wellFormed (.registerWrite 0 2 0) = false ∧ wellFormed (.registerWrite 0 4 0) = true := by decide
theorem test_wf_unmapped : wellFormed (.unmappedControlAccess 0 1 true 0) = false := by decide
theorem test_wf_low_half : wellFormed (.lowHalfRead 0 3) = false := by decide

/-! ## States -/

/-- A device in a base state. -/
def inBase (b : Base) : Dev := { glb := { base := b } }
/-- A device whose runnel 0 runs with a core. -/
def busy (c : Core) : Dev := { sch := { runnels := [(0, { st := .running, core := c })] } }

/-! ## Hypotheses that hold together -/

theorem witness_StepRunsFront : wellFormed (.nop {}) = true := by decide
theorem witness_IdleRefusedAnswered : ({} : State).pending = [] ∧ wellFormed (.retire []) = false ∧
    Safety.wellFormedQueue { pending := [.nop {}, .inv 0] } = true := by decide
theorem witness_WithdrawnStays : ({ dev := inBase .withdrawn, pending := [.inv 0] } : State).dev.glb.base = .withdrawn ∧
    (∃ t, step { dev := inBase .withdrawn, pending := [.inv 0] } = .next t) := ⟨rfl, _, rfl⟩
theorem witness_RegistersKeepTheirForm : Safety.regsWf State.reset.dev ∧ ∃ t, step State.reset = .next t := ⟨rfl, _, rfl⟩
theorem witness_TickCounts : ∃ t, exec (.inv 0) {} = .next t := ⟨_, rfl⟩
theorem witness_UnmappedAddresses : (inBase .serving).glb.base ∉ [Base.off, .sequencing, .withdrawn] ∧
    macWindowOf (0x01000000#32).toNat = none ∧ regRow (0x01000000#32).toNat = none := by decide
theorem witness_RegisterWrites : (inBase .serving).glb.base ∉ [Base.off, .sequencing, .withdrawn] ∧
    macWindowOf (0xD00014#32).toNat = none ∧ (∃ row, regRow (0xD00014#32).toNat = some row ∧ row.wo = 0 ∧ row.rwl = 0) ∧
    reservedEnc (0xD00014#32).toNat 0xFFFFFFFF = false ∧ reservedEnc (0x500004#32).toNat 17 = true := by
  refine ⟨by decide, by decide, ⟨_, rfl, by decide⟩, by decide, by decide⟩
theorem witness_Issues_alu : Safety.Issues {} { writesG := [0] } (busy {}) ∧ Safety.Issues {} { cycles := 4, writesG := [31] } (busy {}) ∧
    Safety.Issues {} { cycles := 2, writesG := [31] } (busy {}) ∧ Safety.Issues {} { writesP := [7] } (busy {}) := by
  refine ⟨⟨?_, ?_⟩, ⟨?_, ?_⟩, ⟨?_, ?_⟩, ?_, ?_⟩ <;> decide
theorem witness_Issues_mem : Safety.Issues {} { slot := .mem, cycles := 3, writesG := [31] } (busy {}) ∧
    Safety.Issues {} { slot := .mem, cycles := 4, writesG := [30, 31] } (busy {}) ∧ Safety.Issues {} { slot := .mem, cycles := 2 } (busy {}) ∧
    Safety.Issues {} { slot := .mem, cycles := 3 } (busy {}) := by
  refine ⟨⟨?_, ?_⟩, ⟨?_, ?_⟩, ⟨?_, ?_⟩, ?_, ?_⟩ <;> decide
theorem witness_QueuePops : (30#5).toNat % 2 = 0 ∧
    Safety.Issues {} { slot := .mem, cycles := 3, writesG := [30, 31], writesP := [7] } (busy {}) ∧
    Safety.Issues {} { slot := .mem, cycles := 3, writesG := [30, 31], writesP := [7] } (busy { fifo := [{}] }) ∧
    Safety.Issues {} { slot := .mem, cycles := 4, writesG := [30, 31], writesP := [7] } (busy { inbox := [{}] }) := by
  refine ⟨?_, ⟨?_, ?_⟩, ⟨?_, ?_⟩, ?_, ?_⟩ <;> decide
theorem witness_PostsWaitInTheOutbox : (0#5).toNat % 2 = 0 ∧ Safety.Issues {} { slot := .mem, cycles := 4, writesP := [7] } (busy {}) ∧
    Safety.Issues {} { slot := .mem, cycles := 4, writesP := [7] } (busy { outbox := List.replicate 16 {} }) := by
  refine ⟨?_, ⟨?_, ?_⟩, ?_, ?_⟩ <;> decide
theorem witness_StatusReads : Safety.Issues {} { slot := .mem, writesG := [1] } (busy {}) ∧
    Safety.Issues {} { slot := .media, cycles := 2, writesP := [7] } (busy {}) ∧
    Safety.Issues {} { slot := .media, cycles := 3, writesG := [1] } (busy {}) ∧ Safety.IssuesLast {} { slot := .mem } (busy {}) ∧
    (runnelOf (busy {}) 0).core.ctl = .none ∧ ((busy {}).obs.ctrs.get {} 0x3002).sat = false := by
  refine ⟨⟨?_, ?_⟩, ⟨?_, ?_⟩, ⟨?_, ?_⟩, ⟨?_, ?_⟩, ?_, ?_⟩ <;> decide
theorem witness_UnitRequests : Safety.Issues { last := false } { slot := .media, cycles := 2 } (busy {}) ∧
    Safety.Issues { last := false } { slot := .xfer, cycles := 2, writesP := [7] } (busy {}) ∧
    Safety.Issues { last := false } { slot := .xfer, cycles := 2, writesG := [31] } (busy {}) := by
  refine ⟨⟨?_, ?_⟩, ⟨?_, ?_⟩, ?_, ?_⟩ <;> decide
theorem witness_RequestsGoOutAtTheBundlesEnd : let r := runnelOf (busy { reqs := [.mcmd 1 31 []] }) 0
    r.st = .running ∧ r.cyc < 2000 ∧ bundleBad r {} = false ∧ guardOn (Safety.issueOf r) 0 = true ∧ r.core.ctl = .none ∧
    r.core.counts = [] ∧ r.core.reqs = [.mcmd 1 31 []] := by decide
theorem witness_GuardedOperations : (runnelOf (busy {}) 0).st = .running ∧ bundleBad (runnelOf (busy {}) 0) {} = false ∧
    guardOn (Safety.issueOf (runnelOf (busy {}) 0)) 8 = false ∧ guardOn (Safety.issueOf (runnelOf (busy {}) 0)) 0 = true := by decide
theorem witness_RunnelFaultsStopTheBundle : (runnelOf ({} : Dev) 0).st ≠ .running ∧
    (runnelOf { sch := { runnels := [(0, { st := .running, cyc := 2000 })] } } 0).cyc = 2000 ∧
    (runnelOf (busy { wrG := [3] }) 0).core.wrG = [3] := by decide
theorem witness_BranchCallReturn : Safety.IssuesLast {} { cycles := 2 } (busy {}) ∧
    Safety.IssuesLast {} { cycles := 2 } (busy { ret := List.replicate 8 0 }) ∧ (runnelOf (busy { ret := [7] }) 0).core.loops = [] := by
  refine ⟨⟨?_, ?_⟩, ⟨?_, ?_⟩, ?_⟩ <;> decide
theorem witness_LoopsRunTheirBodies : Safety.IssuesLast {} {} (busy { loops := [⟨1, 0, 255, 0⟩] }) ∧
    Safety.IssuesLast {} {} (busy { loops := [⟨1, 0, 1, 0⟩] }) ∧ Safety.IssuesLast {} {} (busy {}) := by
  refine ⟨⟨?_, ?_⟩, ⟨?_, ?_⟩, ?_, ?_⟩ <;> decide
theorem witness_TickExitGivesTheBeat : Safety.IssuesLast {} {} (busy { ret := [1] }) ∧ Safety.IssuesLast {} {} (busy {}) ∧
    Safety.IssuesLast {} {} { sch := { runnels := [(0, { st := .running, cyc := 1999, cost := 2 })] } } := by
  refine ⟨⟨?_, ?_⟩, ⟨?_, ?_⟩, ?_, ?_⟩ <;> decide
theorem witness_ReadsThatAct : (inBase .serving).glb.base ∉ [Base.off, .sequencing, .withdrawn] ∧
    0x114 ∈ capturesOf 0x110 ∧ macWindowOf (0x110#32).toNat = none ∧ (regRow (0x110#32).toNat).isSome ∧
    (portOf (inBase .serving) 0).capt.get none 0x110 = none ∧ (portOf (inBase .serving) 0).ev = [] := by decide
theorem witness_RillFlushes : (inBase .serving).glb.base ∉ [Base.off, .sequencing, .withdrawn] ∧ (1#2).getLsbD 0 = true ∧
    (1#2).getLsbD 1 = false ∧ (portOf { svc := { a := { armEv := true, armCmd := true } } } 0).armEv = true ∧
    (portOf { svc := { a := { armEv := true, armCmd := true } } } 0).armCmd = true := by decide
/-- A device whose semaphore is held by port A, with the transaction in a state. -/
def locked (txn : Nat) : Dev := setF F.SVC_TXN_STATE txn (setF F.SVC_LOCK_OWNER 1 (inBase .serving))
theorem witness_Semaphore : getF (inBase .serving) F.SVC_LOCK_OWNER = 0 ∧ getF (locked 1) F.SVC_LOCK_OWNER = 1 ∧
    getF (locked 1) F.SVC_TXN_STATE = 1 ∧ getF (locked 0) F.SVC_TXN_STATE ≠ 2 ∧
    (locked 0).svc.idleSince + getF (locked 0) F.SVC_TMO_LOCK_TMO ≤ ({ base := .serving, tick := 2 ^ 32 } : Glb).tick := by decide
theorem witness_Transactions : getF (locked 1) F.SVC_LOCK_OWNER = (0 : SPort).val + 1 ∧ getF (locked 0) F.SVC_TXN_STATE = 0 ∧
    getF (locked 1) F.SVC_TXN_STATE = 1 ∧ flag (locked 1) F.SVC_TXN_OVF = false ∧ getF (locked 2) F.SVC_TXN_STATE = 2 ∧
    sfTick (locked 2) = 0 ∧ (locked 2).svc.commitAt ≤ (locked 2).glb.tick := by decide

/-- A serving device whose port A is in a given state. -/
def portA (q : SvcPort) : Dev := { inBase .serving with svc := { a := q } }
/-- A serving device whose link 0 is in a training state, with agent 0 on port 0. -/
def linked (lt : Nat) (x : LinkSt) : Dev :=
  { setF (F.FAB_AGT_LO_BOUND 0) 1 (setF (F.FAB_STS_LTSTATE 0) lt (inBase .serving)) with fab := [(0, x)] }

theorem witness_I3cCommands : (inBase .serving).glb.base ∉ [Base.off, .sequencing] ∧ getF (inBase .serving) (F.SVC_PORT_STS_DA 0) = 0 ∧
    (0x2C#7).toNat = 0x2C + 0 ∧ (0#7).toNat ≠ 0x2C + 0 ∧
    getF (setF (F.SVC_PORT_STS_DA 1) 8 (inBase .withdrawn)) (F.SVC_PORT_STS_DA 1) ≠ 0 := by decide
theorem witness_PortResets : (inBase .serving).glb.base ∉ [Base.off, .sequencing] ∧ (portOf (inBase .serving) 0).rstact ≠ 0 ∧
    (portOf (portA { rstact := 0 }) 0).rstact = 0 ∧ getF (locked 0) F.SVC_LOCK_OWNER = (0 : SPort).val + 1 := by decide
theorem witness_MctpControl : (inBase .serving).glb.base ∉ [Base.off, .sequencing, .withdrawn] ∧ (8#8) ≠ 0 ∧ (8#8) ≠ 0xFF ∧
    (inBase .withdrawn).glb.base = .withdrawn := by decide
theorem witness_ServiceMessages : (inBase .serving).glb.base ∉ [Base.off, .sequencing, .withdrawn] ∧
    (portOf (inBase .serving) 0).cmd.length + (32#8).toNat ≤ 32 ∧ (0xFFFFFF80#32).toNat + 4 * (32#8).toNat ≤ 2 ^ 32 ∧
    32 < (portOf (portA { cmd := [.rd 0 0 false] }) 0).cmd.length + (32#8).toNat ∧ ¬ (1 ≤ (0#8).toNat) ∧ ¬ ((33#8).toNat ≤ 32) ∧
    ¬ ((0xFFFFFF84#32).toNat + 4 * (32#8).toNat ≤ 2 ^ 32) ∧ (∀ r, (portOf (inBase .serving) r).cmd = [] ∧ (portOf (inBase .serving) r).waitCommit = none) ∧
    (portOf (portA { cmd := [.rd 0 0 false] }) 0).cmd = .rd 0 0 false :: [] ∧ (portOf (portA { cmd := [.rd 0 0 false] }) 1).cmd = [] := by
  refine ⟨by decide, by decide, by decide, by decide, by decide, by decide, by decide, fun r => ?_, by decide, by decide⟩
  unfold portOf; split <;> exact ⟨rfl, rfl⟩
theorem witness_MctpPackets : ({ pecOk := false } : Packet).pecOk = false ∧ ({ hdrOk := false } : Packet).hdrOk = false ∧
    (List.replicate 64 (0 : BitVec 8)).length ≤ ({} : SvcPort).mwl ∧ (portOf (portA { asm := some (List.replicate 960 0) }) 0).asm = some (List.replicate 960 0) ∧
    (List.replicate 960 (0 : BitVec 8)).length + (List.replicate 64 (0 : BitVec 8)).length ≤ 1024 ∧
    1024 < (List.replicate 961 (0 : BitVec 8)).length + (List.replicate 64 (0 : BitVec 8)).length ∧
    ([0x00, 0x80, 0x05] : List (BitVec 8)).length ≤ ({} : SvcPort).mwl := by
  simp only [List.length_replicate]
  exact ⟨trivial, trivial, by decide, rfl, by decide, by decide, by decide⟩
theorem witness_Attestation : (inBase .pairing).glb.base ∉ [Base.off, .sequencing, .withdrawn, .loading, .recovering] ∧
    (portOf (inBase .serving) 0).report = none ∧ (portOf (portA { report := some (0, 0, 0) }) 0).report = some (0, 0, 0) ∧
    (inBase .recovering).glb.base ∈ [Base.loading, .recovering] := by decide
theorem witness_CountersAndRecords : (inBase .serving).glb.base ∉ [Base.off, .sequencing, .withdrawn] ∧ flag (inBase .serving) F.OBS_CTL_FROZEN = false ∧
    flag (setB F.OBS_CTL_FROZEN true (inBase .serving)) F.OBS_CTL_FROZEN = true := by decide
theorem witness_LedgerCommands : grtRefuses (inBase .serving) 24 = false ∧
    ({ inBase .serving with obs := { flushDue := true, buf := [{}] } } : Dev).obs.area.length + 1 ≤ 12288 ∧
    1 ≤ (15#8).toNat ∧ (15#8).toNat ≤ 15 ∧ getF (locked 0) F.SVC_LOCK_OWNER = (0 : SPort).val + 1 ∧
    ([{ programmed := true }] : List FuseSlot)[(0#8).toNat]? = some { programmed := true } ∧
    (0 : Nat) + 2 ^ 20 ≤ ({ tick := 2 ^ 20 } : Glb).tick :=
  ⟨by decide, by decide, by decide, by decide, by decide, rfl, by decide⟩
theorem witness_LaneSwaps : ltOf (linked 6 {}) 0 = 6 ∧ ({ txSwap := some 7 } : LinkSt).txSwap = some (7#8).toNat ∧ ({ swapLane := some 0 } : LinkSt).swapLane.isSome ∧
    ({ swapLane := some 0 } : LinkSt).switchAt = none ∧ ({ halfMap := some 0 } : LinkSt).halfMap.isSome ∧ (linkOf (linked 6 {}) 0).failed = [] ∧
    flag (setB (F.FAB_CTL_SWAP_EN 0) true (linked 6 {})) (F.FAB_CTL_SWAP_EN 0) = true ∧ getF (linked 6 {}) (F.FAB_LTHR_THR 0) < 2 ^ 32 ∧
    rxReached { swapLane := some 0, switchAt := some 255, rxFrame := some 127 } = false ∧
    rxReached { swapLane := some 0, switchAt := some 255, rxFrame := some 126 } = true := by decide
theorem witness_Training : ltOf (linked 6 {}) 0 = 6 ∧ ltOf (linked 1 {}) 0 = 1 ∧ 8 ≤ (bitList 9 (0x1FE#9).toNat).length ∧ ltOf (linked 8 { paramOk := true }) 0 = 8 ∧
    paramRefused (setF (F.FAB_ALLOW_LO_ALLOW 0) 1 (linked 5 {})) 0 0x201 0x1 0x04101010_00 = false ∧
    paramRefused (linked 5 {}) 0 0x2 0x1 0x04101010_00 = true ∧ trainLimit 7 = some 1000 ∧
    ({ downSince := some 0 } : LinkSt).downSince = some 0 ∧ 0 + getF (linked 8 {}) F.FAB_DOWN_TMO_TMO ≤ 2 ^ 32 := by decide
/-- An idle flit in sequence after a fresh Param. -/
def idleFlit : Flit := { ftype := 1, ack := 4095, crc := BitVec.ofNat 32 (crc32c (flitBytes 1 0 4095 false false 0 [] 0 0 0 0)) }
theorem witness_Flits : ltOf (linked 6 {}) 0 = 6 ∧ crcGood idleFlit = true ∧ idleFlit.seq.toNat = ((linkOf (linked 6 {}) 0).rxSeq + 1) % 4096 ∧
    crcGood { idleFlit with crc := idleFlit.crc ^^^ 1 } = false ∧ ({ dropping := true } : LinkSt).nakSince + 2 ≤ ({ tick := 2 } : Glb).tick ∧
    mirUp (setF F.TWN_STS_LINK 2 (inBase .serving)) = true := by
  repeat' apply And.intro
  all_goals decide +kernel
theorem witness_ScheduleTimes : sfTick ({ glb := { base := .serving, tick := 2032 } } : Dev) = 2032 ∧ sfTick (inBase .serving) = 0 ∧ spos (inBase .serving) = 0 ∧
    stateCode (inBase .serving) = 6 ∧ flag (setB F.TWN_STS_TARGET true (inBase .pairing)) F.TWN_STS_TARGET = true ∧
    (runnelOf (busy {}) 0).st = .running := by
  repeat' apply And.intro
  all_goals decide
theorem witness_EnginesAndSpares :
    ({ xfers := [{ desc := 0x100 }] } : Core).xfers.find? (fun x => x.desc = 0x100) = some { desc := 0x100 } ∧ xferStarted (busy {}) 0 [] = true ∧
    beatMissing (runnelOf (busy {}) 0) 7 = true ∧ beatMissing { st := .idle } 7 = true ∧
    ([{ logical := 3, tick := 5 }] : List Subst).find? (fun q => !q.done) = some { logical := 3, tick := 5 } := by
  repeat' apply And.intro
  all_goals decide
/-- A device in step 6 of a start, its die 0 in a given state. -/
def inStep6 (y : Die) : Dev :=
  setF F.XLT_CFG_NCH 1 (setF F.XLT_CFG_PD 1 (setF F.GLB_BOOT_STS_STEP 6 { inBase .recovering with med := { dies := [(0, y)] } }))
theorem witness_Dies : (dieOf (inStep6 { op := .read }) 0).op ≠ .none ∧ dataInDue (inStep6 {}) 0 = false ∧ (0xE0#8).getLsbD 7 = true ∧ (0xE0#8).getLsbD 6 = true ∧
    (0xA0#8).getLsbD 6 = false ∧ (0x60#8).getLsbD 7 = false ∧ recoveringAt6 (inStep6 {}) = true ∧ 0 < populated (inStep6 {}) ∧
    (dieOf (inStep6 {}) (dieAt (inStep6 {}) 0 0)).hasRecord = false ∧ getF (inStep6 {}) (F.MED_CH_STS_STATE 0) < 2 ∧ 0 < getF (inStep6 {}) F.XLT_CFG_NCH ∧
    trainPassed false {} {} = true ∧ trainPassed false { ticks := 50001 } {} = false ∧ trainPassed true {} { duty := false } = false := by
  repeat' apply And.intro
  all_goals decide
/-- A linked device with one request waiting and one transaction, under HTAG 0, and line 0 of the snoop filter in a given state. -/
def inBasin (q : List ReqEnt) (t : List Txn) (x : SfLine) : Dev :=
  { linked 6 { rxFree := [(0, 1), (2, 1), (3, 1), (4, 1)] } with bsn :=
    { reqs := q, order := 1, txns := t.map fun t => (0, t), sf := [(0, { ways := [(0, { v := true, lines := [(0, x)] })] })] } }
theorem witness_Reception : getF (inBasin [] [] {}) (F.FAB_STS_LTSTATE 0) = 6 ∧ (linkOf (inBasin [] [] {}) 0).rxFree.get 0 0 ≠ 0 ∧
    (linkOf (linked 6 {}) 0).rxFree.get 0 0 = 0 ∧ (0 : Nat) ∈ agentsOfPort (inBasin [] [] {}) 0 ∧ (1 : Nat) ∉ agentsOfPort (inBasin [] [] {}) 0 ∧
    reqOf (inBasin [{ r := { op := 10 } }] [] {}) 0 0 0 = some { r := { op := 10 } } ∧ serves (inBasin [] [] {}) = true ∧
    streamHolds (inBasin [{ r := { op := 10 } }] [] {}) { r := { op := 10 } } = false ∧
    barrierHolds (inBasin [{ r := { op := 10 } }] [] {}) 0 0 = false ∧ freeTag (inBasin [] [] {}) = some 0 ∧ malformed { op := 10 } = false ∧
    ctabFind { twn := { ctab := [(0, { used := true, op := 4 })] } } 0 0 = some { used := true, op := 4 } ∧
    answeredBy {} { op := 4, reissue := true } { used := true, op := 4 } = true := by
  repeat' apply And.intro
  all_goals decide +kernel
theorem hasT_of_mem {l : List Nat} {h : Nat} (hh : h ∈ l) : hasT { bsn := { txns := l.map fun h => (h, {}) } } h = true :=
  List.any_eq_true.2 ⟨(h, {}), List.mem_map.2 ⟨h, hh, rfl⟩, decide_eq_true rfl⟩
theorem witness_Reception_full : freeTag { bsn := { txns := (List.range 0xF00).map fun h => (h, {}) } } = none := by
  unfold freeTag
  generalize List.range 0xF00 = l
  rw [List.find?_eq_none]
  intro h hh
  rw [hasT_of_mem hh]; decide
/-- A transaction of agent 1 on line 0. -/
def onLine0 (op : BitVec 5) (p : Phase) : Txn := { r := { op := op, agent := 1 }, phase := p }
theorem witness_RequestsAct : hasT (inBasin [] [onLine0 1 .active] { st := 2 }) 0 = true ∧ (onLine0 1 .active).lostBy = none ∧
    frozen (inBasin [] [onLine0 1 .active] { st := 2 }) = false ∧ lostPending (inBasin [] [onLine0 1 .active] { st := 2 }) 0 = false ∧
    (sfGet (inBasin [] [onLine0 1 .active] { st := 2 }) true (sfSet 0)).pinned = false ∧ txnLine (onLine0 1 .active) = 0 ∧
    (stateOf (inBasin [] [onLine0 1 .active] { st := 2 }) 0).st = 2 ∧ isDead (inBasin [] [] { st := 2 }) 0 = false ∧
    portsOfAgent (inBasin [] [] { st := 2 }) 0 ≠ [] ∧ (stateOf (inBasin [] [] {}) 0).st = 0 ∧
    lineValid { ntr := { lines := [(0, { valid := true })] } } 0 = true ∧
    reserves { bsn := { resv := [(1, some 0)] } } 1 0 = true ∧
    barrierMet (inBasin [] [onLine0 10 .active] {}) (onLine0 10 .active) = true ∧
    nextQueued (readSet (sfSet 0) [] (inBasin [] [onLine0 1 .queued] {})) 0 = some 0 := by
  repeat' apply And.intro
  all_goals decide
theorem witness_SnoopAnswers : getF (inBasin [] [] {}) (F.FAB_STS_LTSTATE 0) = 6 ∧ (linkOf (inBasin [] [] {}) 0).rxFree.get 0 2 ≠ 0 ∧
    (linkOf (inBasin [] [] {}) 0).rxFree.get 0 3 ≠ 0 ∧ (linkOf (inBasin [] [] {}) 0).rxFree.get 0 4 ≠ 0 ∧ (0 : Nat) ∈ agentsOfPort (inBasin [] [] {}) 0 ∧
    ([{ agent := 0, op := 1, data := true }] : List SnpWait).find? (fun w => decide (w.agent = 0)) = some { agent := 0, op := 1, data := true } ∧
    answersSnoop 1 8 = true ∧ answersSnoop 1 0x0A = true ∧ answersSnoop 2 0x0B = true ∧ answersSnoop 3 0x0C = true ∧ hasT (inBasin [] [] {}) 0 = false ∧
    (1 : Nat) ∉ agentsOfPort (inBasin [] [] {}) 0 := by
  repeat' apply And.intro
  all_goals decide
theorem witness_Waits : windowsOf { sch := { windows := [{ own := true }] } } 0 = [{ own := true }] ∧
    windowsOf { sch := { windows := [{ own := false }] } } 0 = [{ own := false }] ∧ lineValid {} 0 = false ∧ (stateOf {} 0).st ≠ 2 ∧
    neverWritten {} 0 = true ∧ neverWritten { xlt := { map := [(0, 0)] } } 0 = false ∧ hasT (inBasin [] [{ phase := .done }] {}) 0 = true ∧
    0 + getF ({} : Dev) F.BSN_TMO_SNP_TMO ≤ 2 ^ 32 ∧ (getT (inBasin [] [{ wait := .way }] {}) 0).wait = .way ∧
    (sfGet (inBasin [] [{ wait := .way }] {}) true (sfSet 0)).pinned = false ∧
    ([(0, 1)] : List (LAddr × Nat)).find? (fun e => decide (e.1.toNat = 0)) = some (0, 1) := by
  repeat' apply And.intro
  all_goals decide
theorem witness_DeadAgents : getF (inBasin [] [] {}) (F.FAB_STS_LTSTATE 0) = 6 ∧ (linkOf (inBasin [] [] {}) 0).rxFree.get 0 4 ≠ 0 ∧
    (0 : Nat) ∈ agentsOfPort (inBasin [] [] {}) 0 ∧ (inBasin [] [] {}).bsn.departed = [] ∧ getF ({} : Dev) F.BSN_TMO_SNP_TMO ≤ 2 ^ 32 ∧
    getF ({} : Dev) F.BSN_TMO_PULL_TMO ≤ 2 ^ 32 ∧ holdsLock (locked 0) (0 : SPort).val = true ∧ isDead (locked 0) 0 = false ∧
    isDead (setF F.BSN_DEAD_HI_DEAD (2 ^ 31) (locked 0)) 63 = true ∧ walkEnded (locked 0) 63 = true ∧ alone ({ glb := { degraded := true } } : Dev) = true ∧
    mirrors ({ glb := { degraded := true } } : Dev) = false ∧ walkEnded { bsn := { walks := [{ agent := 63 }] } } 63 = false ∧
    mirUp (setF F.TWN_STS_LINK 3 (inBase .serving)) = true := by
  repeat' apply And.intro
  all_goals decide
/-- A device whose near-tier channel 0 serves, in a given state. -/
def onChan (w : WeirCh) : Dev := { setF (F.NTR_CH_STATE 0) 1 (inBase .serving) with ntr := { weir := [(0, w)], merge := [{}] } }
theorem witness_NearTierWork : chUp (onChan {}) 0 = true ∧
    (weirNext (onChan {}) 0 {} 1 0).isSome ∧ weirNext (onChan {}) 0 {} 0 0 = none ∧ (weirOf (onChan { granted := some 5, left := [(5, 7)] }) 0).granted = some 5 ∧
    mergeOf (onChan {}) 0 = some {} ∧ getF (onChan {}) F.NTR_MERGE_WIN ≤ 2 ^ 32 ∧ lostPending (onChan {}) 0 = false ∧
    flag (inBase .serving) F.NTR_SCRUB_CTL_BUSY = false ∧ getF (inBase .serving) F.NTR_SCRUB_FIRST_BLOCK ≤ getF (inBase .serving) F.NTR_SCRUB_LAST_BLOCK ∧
    getF (setF F.NTR_SCRUB_LAST_BLOCK 0 (setF F.NTR_SCRUB_FIRST_BLOCK 1 (inBase .serving))) F.NTR_SCRUB_LAST_BLOCK < 1 ∧
    getF ({} : Dev) F.SPR_REPOP_GBPS ≠ 0 := by
  repeat' apply And.intro
  all_goals decide +kernel
/-- A device that serves region 0 of one segment, whose leaves a new die lacks. -/
def repopulating : Dev :=
  setF F.PWR_DCAP_CAP 1 (setB (F.GLB_RGN_CTL_VALID 0) true (setF (F.GLB_RGN_NSEG_SEG 0) 1 { inBase .serving with
    xlt := { repop := some 0, repopRoom := 4096, segs := [(0, { rebuild := true })] } }))
theorem witness_NearTierWork_fetch : repopulating.xlt.repop = some 0 ∧ 2 * (dirtyLeafList repopulating).length < capLeaves repopulating ∧
    dieOfLeaf repopulating 0 = 0 ∧ (segOf repopulating 0).rebuild = true ∧ (allocFrame 0 repopulating).isSome := by
  repeat' apply And.intro
  all_goals decide +kernel
/-- A serving device with register `f` at `v`. -/
def regged (b : Base) (f : Fld) (v : Nat) : Dev := setF f v (inBase b)
theorem witness_SluiceWork : flag (regged .serving F.SLU_REKEY_BUSY 1) F.SLU_REKEY_BUSY = true ∧
    regionEnd (regged .serving F.SLU_REKEY_BUSY 1) (getF (regged .serving F.SLU_REKEY_BUSY 1) F.SLU_REKEY_REGION) ≤ cursor (regged .serving F.SLU_REKEY_BUSY 1) ∧
    getF (regged .serving F.SLU_REKEY_BUSY 1) F.SLU_REKEY_PEND_COUNT = 0 ∧ flag (regged .serving F.SLU_REKEY_BUSY 1) F.SLU_REKEY_BLOCKED = false ∧
    keyNamed (regged .serving F.SLU_REKEY_BUSY 1) 0 = false ∧ flag (regged .serving F.SLU_REKEY_BLOCKED 1) F.SLU_REKEY_BLOCKED = true ∧
    macCauses { keyValid := true } 2048 true false = [] ∧ macCauses { keyValid := true, isOpen := true } 16 false false = [] ∧
    macCauses { keyValid := true } 0 true true = [] ∧ macCauses { keyValid := true } 2049 true true = [1] ∧ macCauses { keyValid := true } 1 true false = [2] ∧
    macCauses { keyValid := true, isOpen := true, total := 1048576 } 16 false true = [3] ∧ macCauses { keyValid := true } 16 false true = [4] ∧
    macCauses { keyValid := true, isOpen := true } 16 true true = [5] ∧ macCauses {} 16 true true = [6] ∧
    inMacWindow ({ glb := { image := some { macSeg := some 0 } } } : Dev) {} = true ∧ getF (regged .shutdown F.PWR_STS_SPW 1) F.PWR_STS_SPW = 1 := by
  repeat' apply And.intro
  all_goals decide
/-- A serving device whose mirror link is up, with a window and a read of the partner's. -/
def mirrored : Dev := { regged .serving F.TWN_STS_LINK 2 with sch := { windows := [{ own := false, n := 3 }] }, twn := { lreqs := [{ kind := 2, set := 1 }] } }
theorem witness_MirrorMessages : mirUp mirrored = true ∧ claimTick mirrored 0 0 = none ∧ (claimTick mirrored 0 1).isSome ∧
    mirrored.sch.windows.find? (fun w => !w.own && decide (w.ch = 0) && decide (w.n = 3)) = some { own := false, n := 3 } ∧
    flag mirrored F.TWN_STS_TARGET = false ∧ flag (setB F.TWN_STS_TARGET true mirrored) F.TWN_STS_TARGET = true ∧
    mirrored.twn.lreqs.find? (fun q => decide (2 ≤ q.kind) && decide (q.set = 1) && decide (q.way = 0)) = some { kind := 2, set := 1 } := by
  repeat' apply And.intro
  all_goals decide
theorem witness_PairAlive : mirUp mirrored = true ∧ (0#20).toNat = spos mirrored ∧ flag mirrored F.TWN_STS_FOLLOWER = false ∧
    flag (setB F.TWN_STS_FOLLOWER true mirrored) F.TWN_STS_FOLLOWER = true ∧ -(40 : Int) ≤ (-40#16).toInt ∧ (40#16).toInt ≤ 40 ∧ (40 : Int) < (41#16).toInt ∧
    ({ skewRow := 15 } : Twn).skewRow = 15 ∧ mirrored.twn.hbHist = 0 ∧ mirrored.twn.pulseHist = 0 ∧ getF mirrored F.TWN_TMO_LINK_TMO ≤ 2 ^ 32 ∧
    alone mirrored = false ∧ serves mirrored = true ∧ roleB mirrored = false ∧ roleB ({ glb := { roleB := true } } : Dev) = true ∧
    flag (regged .serving F.TWN_STS_TAKEOVER 1) F.TWN_STS_TAKEOVER = true ∧ flag (regged .serving F.TWN_STS_REISSUE 1) F.TWN_STS_REISSUE = true := by
  repeat' apply And.intro
  all_goals decide
theorem witness_Joining : mirUp mirrored = true ∧ hsMay (regged .pairing F.TWN_STS_LINK 2) = true ∧ holdsLock (locked 0) (0 : SPort).val = true ∧
    flag (locked 0) F.TWN_STS_RSLV = false ∧ getF (setF F.TWN_STS_PSTATE 5 (locked 0)) F.TWN_STS_PSTATE = 5 ∧ getF (locked 0) F.TWN_STS_PSTATE ≠ 5 ∧
    0 < getF (regged .pairing F.TWN_PEPOCH_EPOCH 1) F.TWN_PEPOCH_EPOCH ∧ (inBase .pairing).twn.rebuilt = true ∧ (inBase .pairing).twn.hsOn = false ∧
    (({ bsn := { txns := [(0, { phase := .done })] } } : Dev).bsn.txns.any fun e => e.2.phase != .done) = false ∧
    flag (regged .serving F.TWN_STS_RSLV 1) F.TWN_STS_RSLV = true := by
  repeat' apply And.intro
  all_goals decide
theorem witness_ResetAndFirstSteps : flag (regged .off F.PWR_STS_VIN_OK 1) F.PWR_STS_VIN_OK = true ∧ (regged .off F.PWR_STS_VIN_OK 1).glb.standbyOnly = false ∧
    holdsLock (setF F.SVC_LOCK_OWNER 1 (inBase .loading)) (0 : SPort).val = true ∧
    (∀ r : Fin 16, railState (regged .sequencing F.PWR_STS_VIN_OK 1) r.val = 0) ∧ loadingAt (regged .loading F.GLB_BOOT_STS_STEP 2) 2 = true ∧
    grtRefuses (inBase .loading) 0 = false ∧ grtRefuses ({ grt := { protect := 3 } } : Dev) 0 = true ∧ loadingAt (regged .loading F.GLB_BOOT_STS_STEP 3) 3 = true := by
  repeat' apply And.intro
  all_goals decide
theorem witness_LoadingToServing : loadingAt (regged .loading F.GLB_BOOT_STS_STEP 4) 4 = true ∧ getF (regged .loading F.GLB_BOOT_STS_STEP 4) (rsnFld false) = 0 ∧
    2 ≤ getF (setF (rsnFld false) 2 (regged .loading F.GLB_BOOT_STS_STEP 4)) F.GLB_IMG_STS_A_RSN ∧ loadingAt (regged .loading F.GLB_BOOT_STS_STEP 5) 5 = true ∧
    (loadEngines ({ grt := { engines := [0, 1, 2, 3, 4] } } : Dev)).length < 44 ∧ 44 ≤ (loadEngines ({ grt := { engines := [0, 1, 2, 3] } } : Dev)).length ∧
    bootStep (regged .recovering F.GLB_BOOT_STS_STEP 7) = 7 ∧ (∀ p : Fin 16, ltOf (setF (F.FAB_STS_LTSTATE p.val) 6 (inBase .pairing)) p.val = 6) ∧
    stepLimit (bootStep (regged .loading F.GLB_BOOT_STS_STEP 5)) = some (10000, 5) ∧ sfTick (inBase .pairing) = 0 ∧
    8 ≤ getF (regged .serving F.GLB_TADPOLE_EPOCHS 8) F.GLB_TADPOLE_EPOCHS := by
  repeat' apply And.intro
  all_goals decide
theorem witness_RailsAndBank : railState (regged .sequencing (F.PWR_RAIL_STS_STATE 0) 1) 0 = 1 ∧
    (∃ d, railState d 15 = 5 ∧ insideFault d 15 = true ∧ d.glb.base = .withdrawn ∧ (railOf d 15).goodSince = some 0) ∧
    railState (regged .recovering (F.PWR_RAIL_STS_STATE 3) 6) 3 = 6 ∧ (5#4).toNat ∈ (railOf ({ pwr := { rails := [(0, { due := [5] })] } } : Dev) 0).due ∧
    getF ({} : Dev) F.PWR_QUAL_LOW_TK * 1000 ≤ 2 ^ 32 ∧ holdsLock (locked 0) (0 : SPort).val = true ∧ (locked 0).pwr.meas = 0 ∧
    (0 : Nat) < getF (inBase .serving) F.PWR_HU_V_NOW + 50 ∧ getF (inBase .serving) F.PWR_HU_V_NOW + 50 ≤ 65535 ∧
    Base.pairing ∈ [Base.sequencing, .loading, .recovering, .pairing] := by
  refine ⟨by decide, ⟨{ setF (F.PWR_RAIL_FAULT_HI 15) 1 (regged .withdrawn (F.PWR_RAIL_STS_STATE 15) 5) with pwr := { rails := [(15, { goodSince := some 0 })] } }, ?_⟩, ?_⟩
  all_goals
    repeat' apply And.intro
    all_goals decide
theorem witness_SpillwayAndOff : flag (regged .serving F.PWR_STS_VIN_OK 1) F.PWR_STS_VIN_OK = true ∧ flag (regged .serving F.PWR_CTL_PF_FOLLOW 1) F.PWR_CTL_PF_FOLLOW = true ∧
    flag (inBase .serving) F.PWR_STS_PF_DRV = false ∧ getF (regged .shutdown F.PWR_STS_SPW 2) F.PWR_STS_SPW = 2 ∧ getF (regged .shutdown F.PWR_STS_SPW 6) F.PWR_STS_SPW = 6 ∧
    flag (inBase .shutdown) F.PWR_STS_PAUSED = false ∧ some (ctrNow ({ grt := { flushTag := some 0 } } : Dev) 0) = some 0 ∧
    flag (setB F.PWR_STS_PAUSED true (regged .shutdown F.PWR_STS_VIN_OK 1)) F.PWR_STS_PAUSED = true ∧ pauseErased (inBase .shutdown) = true ∧
    flag (inBase .shutdown) F.PWR_STS_PF_IN = false ∧ holdsLock (setF F.SVC_LOCK_OWNER 1 (inBase .loading)) (0 : SPort).val = true := by
  repeat' apply And.intro
  all_goals decide
theorem witness_GrottoAndSensors : grtRefuses (inBase .serving) 35 = false ∧ grtRefuses (inBase .serving) 36 = true ∧
    (inBase .serving).grt.cur = none ∧ getF (regged .serving (F.PWR_RAIL_STS_STATE 4) 2) (F.PWR_RAIL_STS_STATE 4) = 2 ∧
    flag (regged .serving F.GRT_STS_STORE_OK 1) F.GRT_STS_STORE_OK = true ∧ bestFree ({} : Grt) ≠ none ∧
    getF ({} : Dev) F.GRT_ROT_WRITES ≤ ({ since := [(0, 2 ^ 32)] } : Grt).since.get 0 0 ∧ sensorFailed (inBase .serving) 3 = false ∧
    flag (inBase .serving) F.THM_STS_TRIP = false ∧
    (∀ r ∈ upOrder.take 6, railState ((upOrder.take 6).foldl (fun d r => setF (F.PWR_RAIL_STS_STATE r) 2 d) (inBase .sequencing)) r = 2) ∧
    (872 : Int) ≤ (872#12).toInt ∧ (871#12).toInt < 872 := by
  repeat' apply And.intro
  all_goals decide

end Sys2Proof.Tests
end

section
/-!
R7: accesses to addresses that no register occupies. A read, a write and UNMAPPED_CONTROL_ACCESS all come down to `unmapped`,
which raises event 4 and does nothing else.
-/
namespace Sys2Proof.Machine
open Sys2Proof

/-! ## Addresses -/

/-- The control space has sixteen windows (R6). -/
theorem regTable_eq_nil_of_ge {w : Nat} (h : 16 ≤ w) : regTable w = [] := by
  obtain ⟨k, rfl⟩ := Nat.exists_eq_add_of_le' h
  rfl

theorem regRow_eq_none_of_ge {a : Nat} (h : 0x01000000 ≤ a) : regRow a = none := by
  unfold regRow
  rw [regTable_eq_nil_of_ge (by omega), List.find?_nil]

theorem macWindowOf_eq_none_of_ge {a : Nat} (h : 0x00903000 ≤ a) : macWindowOf a = none := by
  unfold macWindowOf
  rw [if_neg (by omega), if_neg (by omega)]

theorem mapped_eq_false {a : Nat} (hm : macWindowOf a = none) (hr : regRow a = none) : mapped a = false := by
  simp [mapped, hm, hr]

/-! ## What such an access does to the device -/

/-- Event 4 stands in EVT_PEND, and nothing changed but what raising an event or restarting the lock timer can change. -/
def RaisesUnmapped (d e : Dev) : Prop :=
  Safety.pending e 4 = true ∧ Safety.Keeps [.regs, .glb, .svc, .fab, .obs] d e

theorem unmapped_raisesUnmapped (a : Nat) (d : Dev) : RaisesUnmapped d (unmapped a d) :=
  ⟨raiseN_pending 4 a d (by decide) (.inl rfl), unmapped_keeps a d⟩

/-- The same through a port, whose access may restart the lock timer first (R402). -/
theorem unmapped_touch_raisesUnmapped (p a : Nat) (d : Dev) : RaisesUnmapped d (unmapped a (touch p d)) := by
  obtain ⟨hp, hk⟩ := unmapped_raisesUnmapped a (touch p d)
  exact ⟨hp, .trans ((touch_keeps p d).mono rfl) hk⟩

/-- A change of GLB_STATE noticed afterwards takes nothing back. -/
theorem RaisesUnmapped.finish {d e : Dev} (h : RaisesUnmapped d e) (b : Nat) : RaisesUnmapped d (finish b e) := by
  obtain ⟨hp, hk⟩ := h
  exact ⟨finish_pending b e (by decide) hp, .trans hk (finish_keeps b e)⟩

/-- The outcome of a command whose whole effect on the device is such an access. -/
theorem RaisesUnmapped.next {s : State} {e : Dev} {o : Host.Outcome State Fault Refusal} (h : RaisesUnmapped s.dev e)
    (ho : o = .next { s with dev := e }) :
    ∃ t, o = .next t ∧ t.pending = s.pending ∧ RaisesUnmapped s.dev t.dev :=
  ⟨_, ho, rfl, h⟩

theorem ctlRead_unmapped {a : Nat} (hm : macWindowOf a = none) (hr : regRow a = none) (p : Nat) (d : Dev) :
    ctlRead p a d = (0, unmapped a d) := by
  simp [ctlRead, hm, hr]

theorem ctlWrite_unmapped {a : Nat} (hm : macWindowOf a = none) (hr : regRow a = none) (p : Nat) (mid : BitVec 2) (v : Word)
    (d : Dev) : ctlWrite p a mid v d = unmapped a d := by
  simp [ctlWrite, hm, hr]

/-! ## The commands that carry such an access -/

theorem exec_registerWrite (p : SPort) (a v : Word) (s : State) :
    exec (.registerWrite p a v) s = execRegisterWrite p a v s := rfl

theorem exec_unmappedControlAccess (p : SPort) (a : Word) (w : Bool) (v : Word) (s : State) :
    exec (.unmappedControlAccess p a w v) s = execUnmappedControlAccess p a w v s := rfl

section Commands
variable {a : Word} {s : State} (hb : s.dev.glb.base ∉ [.off, .sequencing, .withdrawn])
  (hm : macWindowOf a.toNat = none) (hr : regRow a.toNat = none)
include hb hm hr

theorem exec_registerWrite_unmapped (p : SPort) (v : Word) :
    exec (.registerWrite p a v) s =
      .next { s with dev := finish (stateByte s.dev) (unmapped a.toNat (touch p.val s.dev)) } := by
  rw [exec_registerWrite, execRegisterWrite, run, viaPort_eq hb, ctlWrite_unmapped hm hr]

theorem exec_unmappedControlAccess_unmapped (p : SPort) (w : Bool) (v : Word) :
    exec (.unmappedControlAccess p a w v) s = .next { s with dev := unmapped a.toNat (touch p.val s.dev) } := by
  rw [exec_unmappedControlAccess, execUnmappedControlAccess, runQ, viaPort_eq hb, if_neg (by simp [mapped_eq_false hm hr])]

end Commands
end Sys2Proof.Machine

namespace Sys2Proof
open Sys2Proof.Machine

/-- Settles O8: every access that reaches no register is `unmapped` on the device, whose effect `RaisesUnmapped` says. -/
theorem unmappedAddresses : Obligations.UnmappedAddresses := by
  refine ⟨fun a ha => ⟨regRow_eq_none_of_ge ha, macWindowOf_eq_none_of_ge (by omega)⟩, ?_⟩
  intro p a v w s hb hm hr
  have hq : RaisesUnmapped s.dev (unmapped a.toNat (touch p.val s.dev)) := unmapped_touch_raisesUnmapped _ _ _
  refine ⟨List.forall_mem_cons.mpr ⟨?write, List.forall_mem_singleton.mpr ?access⟩, ?read⟩
  case write => exact (hq.finish (stateByte s.dev)).next (exec_registerWrite_unmapped hb hm hr p v)
  case access => exact hq.next (exec_unmappedControlAccess_unmapped hb hm hr p w v)
  case read =>
    simp only [ctlRead_unmapped hm hr, true_and]
    exact unmapped_raisesUnmapped a.toNat s.dev

end Sys2Proof
end

section
/-!
Guards (R56): which operations execute, and what one that does not execute leaves of itself in its bundle.
-/
namespace Sys2Proof.Machine
open Sys2Proof

/-! ## Which operations execute -/

theorem guardOn_eq (c : Core) (g : BitVec 4) :
    guardOn c g = ((decide (g.toNat % 8 = 0) || c.p.getLsbD (g.toNat % 8)) != g.getLsbD 3) := rfl

/-- Guard 0b0000 names p0, which reads 1 (R53). -/
@[simp] theorem guardOn_zero (c : Core) : guardOn c 0 = true := by
  simp [guardOn, pred_zero]

/-- Guard 0b1000 negates p0. -/
@[simp] theorem guardOn_eight (c : Core) : guardOn c 8 = false := by
  simp [guardOn, pred_zero]

/-! ## What an operation leaves in its bundle -/

/-- An operation whose guard is false is the always-executing operation of the same shape that has no effect: the bundle's
checks, marks, cost and end stay. -/
theorem runOp_guardOff {h : OpHdr} {o : OpShape} {f : Dev → Core → Core → OpResult} {d : Dev}
    (hg : guardOn (Safety.issueOf (runnelOf d h.rn.val)) h.guard = false) :
    runOp h o f d = runOp { h with guard := 0 } o (fun _ _ c => .ok c) d := by
  have hi : (runnelOf (snap h.rn.val d) h.rn.val).issue = Safety.issueOf (runnelOf d h.rn.val) := by rw [snap_issue]
  unfold snap at hi
  simp only [runOp, hi, hg, guardOn_zero, if_true, Bool.false_eq_true, if_false]

/-- The runnel of an operation whose whole effect is to be placed in its bundle. -/
theorem placed_running {h : OpHdr} {d : Dev} (hst : (runnelOf d h.rn.val).st = .running) (o : OpShape) (c : Core) :
    let y := runnelOf (placed h o c d) h.rn.val
    y.core = { c with
      wrG := c.wrG ++ o.writesG, wrP := c.wrP ++ o.writesP, slots := c.slots ||| BitVec.ofNat 4 (2 ^ o.slot.bit), free := 0 } ∧
    y.cost = max (runnelOf d h.rn.val).cost o.cycles ∧ y.st = .running ∧ Safety.OnlyCore h d (placed h o c d) := by
  intro y
  have hy : y = _ := placed_runnel h o c d
  rw [hy]
  exact ⟨rfl, rfl, hst, placed_only h o c d⟩

section Within
variable {h : OpHdr} {o : OpShape} {f : Dev → Core → Core → OpResult} {d : Dev}
  (hst : (runnelOf d h.rn.val).st = .running) (hcyc : (runnelOf d h.rn.val).cyc < 2000)
  (hbad : bundleBad (runnelOf d h.rn.val) o = false) (hmed : o.slot = .media → h.rn.val < 32) (hlast : h.last = false)
include hst hcyc hbad hmed hlast

/-- Its guard is true, and its bundle goes on: the core its effect answers is placed. -/
theorem runOp_eq_placed {c : Core} (hg : guardOn (Safety.issueOf (runnelOf d h.rn.val)) h.guard = true)
    (hf : f (snap h.rn.val d) (Safety.issueOf (runnelOf d h.rn.val)) (runnelOf d h.rn.val).core = .ok c) :
    runOp h o f d = placed h o c d := by
  simp [runOp_eq hst hcyc hbad hmed hg, hf, hlast]

/-- Its guard is false, and its bundle goes on: the core is placed as it was. -/
theorem runOp_guardOff_eq_placed (hg : guardOn (Safety.issueOf (runnelOf d h.rn.val)) h.guard = false) :
    runOp h o f d = placed h o (runnelOf d h.rn.val).core d := by
  rw [runOp_guardOff hg]
  exact runOp_eq_placed (h := { h with guard := 0 }) hst hcyc hbad hmed hlast (guardOn_zero _) rfl

end Within
end Sys2Proof.Machine

namespace Sys2Proof
open Sys2Proof.Machine

/-- Settles O18: within its bundle an operation places the core its effect answers, and one whose guard is false the core as it
was; `placed_running` says what that leaves. -/
theorem guardedOperations : Obligations.GuardedOperations := by
  refine ⟨guardOn_eq, fun c => ⟨guardOn_zero c, guardOn_eight c⟩, ?_⟩
  intro h o f d r e y marked hst hcyc hbad hmed hlast
  have hplaced (c : Core) (he : e = placed h o c d) :
      y.core = marked c ∧ y.cost = max r.cost o.cycles ∧ y.st = .running ∧ Safety.OnlyCore h d e := by
    simp only [y, he]
    exact placed_running hst o c
  constructor
  case left => exact fun hg => hplaced r.core (runOp_guardOff_eq_placed hst hcyc hbad hmed hlast hg)
  case right => exact fun hg c hf => hplaced c (runOp_eq_placed hst hcyc hbad hmed hlast hg hf)

end Sys2Proof
end

section
/-!
The frame of a step: what each command leaves alone, and the three facts that hold along every run because of it: Withdrawn lasts
(R5), the registers keep their one form, and GLB_TICK moves at a tick alone (R24).
-/
namespace Sys2Proof.Machine
open Sys2Proof

/-! ## The frame of every command -/

/-- Every command answers a next state and keeps what `Safety.touches` does not list, by the lemma about its meaning. -/
theorem exec_ok (c : Instr) (s : State) : Ok (Safety.touches c) s (exec c s) := by
  cases c with
  | registerWrite => exact execRegisterWrite_ok ..
  | unmappedControlAccess p a w v => exact execUnmappedControlAccess_ok p a w v s
  | lowHalfRead => exact execLowHalfRead_ok ..
  | tick => exact execTick_ok ..
  | dutyLevelFix => exact execDutyLevelFix_ok ..
  | superframeBoundary => exact execSuperframeBoundary_ok ..
  | epochBoundary => exact execEpochBoundary_ok ..
  | epochScheduleStart => exact execEpochScheduleStart_ok ..
  | runnelTick => exact execRunnelTick_ok ..
  | nop => exact execNop_ok ..
  | add => exact execAdd_ok ..
  | sub => exact execSub_ok ..
  | andOp => exact execAndOp_ok ..
  | orOp => exact execOrOp_ok ..
  | xorOp => exact execXorOp_ok ..
  | andn => exact execAndn_ok ..
  | shl => exact execShl_ok ..
  | shr => exact execShr_ok ..
  | sar => exact execSar_ok ..
  | addi => exact execAddi_ok ..
  | ldi => exact execLdi_ok ..
  | extr => exact execExtr_ok ..
  | ins => exact execIns_ok ..
  | mul => exact execMul_ok ..
  | mulh => exact execMulh_ok ..
  | cmpeq => exact execCmpeq_ok ..
  | cmpne => exact execCmpne_ok ..
  | cmpltu => exact execCmpltu_ok ..
  | cmplts => exact execCmplts_ok ..
  | cmpeqi => exact execCmpeqi_ok ..
  | plog => exact execPlog_ok ..
  | sel => exact execSel_ok ..
  | popc => exact execPopc_ok ..
  | clz => exact execClz_ok ..
  | br => exact execBr_ok ..
  | call => exact execCall_ok ..
  | callx => exact execCallx_ok ..
  | ret => exact execRet_ok ..
  | loopOp => exact execLoopOp_ok ..
  | texit => exact execTexit_ok ..
  | ld8 => exact execLd8_ok ..
  | ld16 => exact execLd16_ok ..
  | ld32 => exact execLd32_ok ..
  | ld64 => exact execLd64_ok ..
  | st8 => exact execSt8_ok ..
  | st16 => exact execSt16_ok ..
  | st32 => exact execSt32_ok ..
  | st64 => exact execSt64_ok ..
  | ldp => exact execLdp_ok ..
  | stp => exact execStp_ok ..
  | slotpop => exact execSlotpop_ok ..
  | mpost => exact execMpost_ok ..
  | mpop => exact execMpop_ok ..
  | rdtk => exact execRdtk_ok ..
  | cnt => exact execCnt_ok ..
  | mcmd => exact execMcmd_ok ..
  | mrb => exact execMrb_ok ..
  | mstat => exact execMstat_ok ..
  | mdin => exact execMdin_ok ..
  | mdout => exact execMdout_ok ..
  | mlog => exact execMlog_ok ..
  | xmov => exact execXmov_ok ..
  | xpoll => exact execXpoll_ok ..
  | xferComplete => exact execXferComplete_ok ..
  | engineFault => exact execEngineFault_ok ..
  | spareSubstituted => exact execSpareSubstituted_ok ..
  | wardenRecordExpire => exact execWardenRecordExpire_ok ..
  | wardenDisagreement => exact execWardenDisagreement_ok ..
  | schCycClr => exact execSchCycClr_ok ..
  | dieOperationComplete => exact execDieOperationComplete_ok ..
  | eraseSuspend => exact execEraseSuspend_ok ..
  | blankCheck => exact execBlankCheck_ok ..
  | busyTimeout => exact execBusyTimeout_ok ..
  | reqReceived => exact execReqReceived_ok ..
  | readShared => exact execReadShared_ok ..
  | readOwn => exact execReadOwn_ok ..
  | upgrade => exact execUpgrade_ok ..
  | writeLine => exact execWriteLine_ok ..
  | writePartial => exact execWritePartial_ok ..
  | writeBack => exact execWriteBack_ok ..
  | evictClean => exact execEvictClean_ok ..
  | reserveRead => exact execReserveRead_ok ..
  | condWrite => exact execCondWrite_ok ..
  | barrier => exact execBarrier_ok ..
  | reservedRequest => exact execReservedRequest_ok ..
  | reissuedRequest => exact execReissuedRequest_ok ..
  | admission => exact execAdmission_ok ..
  | windowResolution => exact execWindowResolution_ok ..
  | activation => exact execActivation_ok ..
  | rebind => exact execRebind_ok ..
  | wayAllocation => exact execWayAllocation_ok ..
  | snpRspI => exact execSnpRspI_ok ..
  | snpRspFwdS => exact execSnpRspFwdS_ok ..
  | snpRspFwdI => exact execSnpRspFwdI_ok ..
  | snpRspIData => exact execSnpRspIData_ok ..
  | dataWr => exact execDataWr_ok ..
  | dataSnp => exact execDataSnp_ok ..
  | depart => exact execDepart_ok ..
  | down => exact execDown_ok ..
  | reservedAgentEvt => exact execReservedAgentEvt_ok ..
  | snoopTimeout => exact execSnoopTimeout_ok ..
  | pullTimeout => exact execPullTimeout_ok ..
  | skinkWalkStep => exact execSkinkWalkStep_ok ..
  | lineLossMark => exact execLineLossMark_ok ..
  | htagQuarantineEnd => exact execHtagQuarantineEnd_ok ..
  | declare => exact execDeclare_ok ..
  | clear => exact execClear_ok ..
  | barrierCompletion => exact execBarrierCompletion_ok ..
  | dirtyRoomWaitEnd => exact execDirtyRoomWaitEnd_ok ..
  | flitReceived => exact execFlitReceived_ok ..
  | holdFlit => exact execHoldFlit_ok ..
  | nakRetryTimer => exact execNakRetryTimer_ok ..
  | swapReq => exact execSwapReq_ok ..
  | swapRdy => exact execSwapRdy_ok ..
  | swapCommit => exact execSwapCommit_ok ..
  | halfReq => exact execHalfReq_ok ..
  | halfCommit => exact execHalfCommit_ok ..
  | realign => exact execRealign_ok ..
  | laneSwitchFrame => exact execLaneSwitchFrame_ok ..
  | laneFailure => exact execLaneFailure_ok ..
  | swapTimeout => exact execSwapTimeout_ok ..
  | trainingFramesReceived => exact execTrainingFramesReceived_ok ..
  | trainingStateExit => exact execTrainingStateExit_ok ..
  | param => exact execParam_ok ..
  | trainingTimeout => exact execTrainingTimeout_ok ..
  | downTimeout => exact execDownTimeout_ok ..
  | fabCmdRealign => exact execFabCmdRealign_ok ..
  | tenureEnd => exact execTenureEnd_ok ..
  | refreshPreempt => exact execRefreshPreempt_ok ..
  | jtagPreempt => exact execJtagPreempt_ok ..
  | frameAllocation => exact execFrameAllocation_ok ..
  | mergeWindowExpiry => exact execMergeWindowExpiry_ok ..
  | scrubGo => exact execScrubGo_ok ..
  | probeGo => exact execProbeGo_ok ..
  | rekeyWalkStep => exact execRekeyWalkStep_ok ..
  | entropyHealthFailure => exact execEntropyHealthFailure_ok ..
  | inv => exact execInv_ok ..
  | key => exact execKey_ok ..
  | first => exact execFirst_ok ..
  | macContinue => exact execMacContinue_ok ..
  | last => exact execLast_ok ..
  | keyclr => exact execKeyclr_ok ..
  | macWindowRequest => exact execMacWindowRequest_ok ..
  | upd => exact execUpd_ok ..
  | wmir => exact execWmir_ok ..
  | mirrorAck => exact execMirrorAck_ok ..
  | claim => exact execClaim_ok ..
  | void => exact execVoid_ok ..
  | leaf => exact execLeaf_ok ..
  | lreq => exact execLreq_ok ..
  | hb sp level st w g => exact execHb_ok sp level st w g s
  | decl => exact execDecl_ok ..
  | hs => exact execHs_ok ..
  | ctlDetach => exact execCtlDetach_ok ..
  | handover => exact execHandover_ok ..
  | restoreSent => exact execRestoreSent_ok ..
  | retire => exact execRetire_ok ..
  | sfway => exact execSfway_ok ..
  | reservedMcls k => exact execReservedMcls_ok k s
  | ticksyncPulse => exact execTicksyncPulse_ok ..
  | partnerLost => exact execPartnerLost_ok ..
  | ticksyncLost => exact execTicksyncLost_ok ..
  | linkLossTimeout => exact execLinkLossTimeout_ok ..
  | takeoverAnnounce => exact execTakeoverAnnounce_ok ..
  | reissuePhaseEnd => exact execReissuePhaseEnd_ok ..
  | detach => exact execDetach_ok ..
  | detachDrainEnd => exact execDetachDrainEnd_ok ..
  | handshakeTimeout => exact execHandshakeTimeout_ok ..
  | handshakeRetry => exact execHandshakeRetry_ok ..
  | resilverCopyComplete => exact execResilverCopyComplete_ok ..
  | cidxWaitEnd => exact execCidxWaitEnd_ok ..
  | coldStart => exact execColdStart_ok ..
  | resetN => exact execResetN_ok ..
  | rst => exact execRst_ok ..
  | solo => exact execSolo_ok ..
  | sequencing => exact execSequencing_ok ..
  | grottoRecovery => exact execGrottoRecovery_ok ..
  | keyUnwrap => exact execKeyUnwrap_ok ..
  | imageVerify => exact execImageVerify_ok ..
  | flashReadTimeout => exact execFlashReadTimeout_ok ..
  | runnelLoad => exact execRunnelLoad_ok ..
  | mediaRecovery => exact execMediaRecovery_ok ..
  | channelTraining => exact execChannelTraining_ok ..
  | factoryScan => exact execFactoryScan_ok ..
  | mapRebuild => exact execMapRebuild_ok ..
  | pairingComplete => exact execPairingComplete_ok ..
  | startupStepTimeout => exact execStartupStepTimeout_ok ..
  | servingStart => exact execServingStart_ok ..
  | tadpoleEnd => exact execTadpoleEnd_ok ..
  | tadpoleTimeout => exact execTadpoleTimeout_ok ..
  | railQualified => exact execRailQualified_ok ..
  | railQualifyTimeout => exact execRailQualifyTimeout_ok ..
  | railDischarged => exact execRailDischarged_ok ..
  | dischargeTimeout => exact execDischargeTimeout_ok ..
  | railFault => exact execRailFault_ok ..
  | goodLow => exact execGoodLow_ok ..
  | inputFailure => exact execInputFailure_ok ..
  | pfaultFollow => exact execPfaultFollow_ok ..
  | quiesceEnd => exact execQuiesceEnd_ok ..
  | spillwayPhase => exact execSpillwayPhase_ok ..
  | vinReturn => exact execVinReturn_ok ..
  | spillwayResume => exact execSpillwayResume_ok ..
  | off => exact execOff_ok ..
  | huMeas => exact execHuMeas_ok ..
  | bankMeasurementSample => exact execBankMeasurementSample_ok ..
  | bankMeasurementEnd => exact execBankMeasurementEnd_ok ..
  | pageWrite => exact execPageWrite_ok ..
  | pageWriteStart => exact execPageWriteStart_ok ..
  | physicalProgramDone => exact execPhysicalProgramDone_ok ..
  | sectorMove => exact execSectorMove_ok ..
  | marginRead => exact execMarginRead_ok ..
  | protect => exact execProtect_ok ..
  | grtRdData => exact execGrtRdData_ok ..
  | sensorFailure => exact execSensorFailure_ok ..
  | thermalTrip => exact execThermalTrip_ok ..
  | thermalStartHold => exact execThermalStartHold_ok ..
  | thmPeakClr => exact execThmPeakClr_ok ..
  | refclkFailure => exact execRefclkFailure_ok ..
  | entdaa => exact execEntdaa_ok ..
  | setdasa => exact execSetdasa_ok ..
  | rstdaa => exact execRstdaa_ok ..
  | enec => exact execEnec_ok ..
  | disec => exact execDisec_ok ..
  | getpid => exact execGetpid_ok ..
  | getbcr => exact execGetbcr_ok ..
  | getdcr => exact execGetdcr_ok ..
  | getstatus => exact execGetstatus_ok ..
  | getmwl => exact execGetmwl_ok ..
  | setmwl => exact execSetmwl_ok ..
  | getmrl => exact execGetmrl_ok ..
  | setmrl => exact execSetmrl_ok ..
  | rstact => exact execRstact_ok ..
  | targetReset => exact execTargetReset_ok ..
  | mctpPacket => exact execMctpPacket_ok ..
  | setEndpointId => exact execSetEndpointId_ok ..
  | getEndpointId => exact execGetEndpointId_ok ..
  | getMctpVersionSupport => exact execGetMctpVersionSupport_ok ..
  | getMessageTypeSupport => exact execGetMessageTypeSupport_ok ..
  | getVendorDefinedMessageSupport => exact execGetVendorDefinedMessageSupport_ok ..
  | read => exact execRead_ok ..
  | write => exact execWrite_ok ..
  | unsupportedCommand => exact execUnsupportedCommand_ok ..
  | executorAccess => exact execExecutorAccess_ok ..
  | evtRillLo => exact execEvtRillLo_ok ..
  | flush => exact execFlush_ok ..
  | flushCmd => exact execFlushCmd_ok ..
  | rillFlush => exact execRillFlush_ok ..
  | acquire => exact execAcquire_ok ..
  | release => exact execRelease_ok ..
  | lockTimeout => exact execLockTimeout_ok ..
  | beginTxn => exact execBeginTxn_ok ..
  | commit => exact execCommit_ok ..
  | rollback => exact execRollback_ok ..
  | commitCheck => exact execCommitCheck_ok ..
  | commitBoundary => exact execCommitBoundary_ok ..
  | getVersion => exact execGetVersion_ok ..
  | getIdentity => exact execGetIdentity_ok ..
  | getCert => exact execGetCert_ok ..
  | getReport => exact execGetReport_ok ..
  | reportSigned => exact execReportSigned_ok ..
  | clrwrap => exact execClrwrap_ok ..
  | zero => exact execZero_ok ..
  | counterSweep => exact execCounterSweep_ok ..
  | freeze => exact execFreeze_ok ..
  | pop => exact execPop_ok ..
  | ledgerGrottoWrite => exact execLedgerGrottoWrite_ok ..
  | getInfo => exact execGetInfo_ok ..
  | ledgerRead => exact execLedgerRead_ok ..
  | getNonce => exact execGetNonce_ok ..
  | ledgerClear => exact execLedgerClear_ok ..
  | ledgerFlush => exact execLedgerFlush_ok ..
  | nonceLapse => exact execNonceLapse_ok ..
  | repopulationFetch => exact execRepopulationFetch_ok ..
  | reservedResponseOp => exact execReservedResponseOp_ok ..
  | pfaultNReleased => exact execPfaultNReleased_ok ..
  | resetNRelease => exact execResetNRelease_ok ..
  | powerRemoved => exact execPowerRemoved_ok ..
  | energyStoreFault => exact execEnergyStoreFault_ok ..

/-- Whatever a command answers keeps what `Safety.touches` does not list. -/
theorem exec_keeps {c : Instr} {s t : State} (h : exec c s = .next t) :
    t.pending = s.pending ∧ Safety.Keeps (Safety.touches c) s.dev t.dev := by
  obtain ⟨u, hu, hp, hk⟩ := exec_ok c s
  obtain rfl : t = u := by simpa [h] using hu
  exact ⟨hp, hk⟩

/-! ## Which commands can leave Withdrawn, move GLB_TICK, or disturb the registers' form -/

theorem form_not_mem_touches (c : Instr) : Safety.Part.form ∉ Safety.touches c := by
  cases c <;> simp [Safety.touches]

theorem stay_mem_touches {c : Instr} (h : Safety.Part.stay ∈ Safety.touches c) :
    (∃ n, c = .resetN n) ∨ c = .resetNRelease ∨ c = .powerRemoved := by
  cases c <;> simp [Safety.touches] at h ⊢

theorem tick_mem_touches {c : Instr} (h : Safety.Part.tick ∈ Safety.touches c) :
    (∃ i, c = .tick i) ∨ (∃ b f, c = .sequencing b f) ∨ c = .runnelLoad ∨ (∃ r, c = .railQualified r) ∨
      (∃ r, c = .railDischarged r) ∨ (∃ r, c = .dischargeTimeout r) ∨ ∃ a b, c = .thermalStartHold a b := by
  cases c <;> simp [Safety.touches] at h ⊢

/-! ## What a step is -/

theorem step_cons {c : Instr} (hc : wellFormed c = true) (s : State) :
    step { s with pending := c :: s.pending } = exec c s := by
  simp [step, hc]

theorem step_illFormed {c : Instr} (hc : wellFormed c = false) (s : State) :
    step { s with pending := c :: s.pending } = .refused .illFormed := by
  simp [step, hc]

theorem step_nil {s : State} (h : s.pending = []) : step s = .next s := by
  simp [step, h]

/-- A step that answers is idle, or carries out the well-formed command at the front of the queue. -/
theorem step_cases {s t : State} (h : step s = .next t) :
    (s.pending = [] ∧ t = s) ∨ ∃ c rest, s.pending = c :: rest ∧ exec c { s with pending := rest } = .next t := by
  unfold step at h
  split at h
  · next hp => exact .inl ⟨hp, by simpa using h.symm⟩
  · next c rest hp =>
    split at h
    · exact .inr ⟨c, rest, hp, h⟩
    · simp at h

theorem tickStep_tick (i : TickIn) (d : Dev) : (tickStep i d).glb.tick = d.glb.tick + 1 := by
  have hbus : (busTick d).glb.tick = d.glb.tick := busTick_keeps d .tick (by decide)
  have hadc (e : Dev) : (adcTick i e).glb.tick = e.glb.tick := adcTick_keeps i e .tick (by decide)
  have hpow (e : Dev) : (poweredTick i e).glb.tick = e.glb.tick := poweredTick_keeps i e .tick (by decide)
  simp only [tickStep]
  split <;> split <;> simp [hadc, hpow, hbus]

end Sys2Proof.Machine

namespace Sys2Proof
open Sys2Proof.Machine

/-- Settles O1. -/
theorem stepRunsFront : Obligations.StepRunsFront := fun s _ hc => step_cons hc s

/-- Settles O2: the answer of `exec_ok` keeps the queue's rest, which is well-formed with the queue. -/
theorem idleRefusedAnswered : Obligations.IdleRefusedAnswered := by
  refine ⟨fun _ => step_nil, fun s _ hc => step_illFormed hc s, fun s hq => ?_⟩
  obtain ⟨pending, d⟩ := s
  cases pending with
  | nil => exact ⟨_, step_nil rfl, rfl, rfl⟩
  | cons c rest =>
    simp only [Safety.wellFormedQueue, List.all_cons, Bool.and_eq_true] at hq
    obtain ⟨hc, hrest⟩ := hq
    obtain ⟨t, ht, hp, -⟩ := exec_ok c ⟨rest, d⟩
    refine ⟨t, (step_cons hc ⟨rest, d⟩).trans ht, hp, ?_⟩
    rw [Safety.wellFormedQueue, hp]
    exact hrest

/-- Settles O3: command by command, the lemma about its meaning (`exec_ok`). -/
theorem everyCommandKeepsItsFrame : Obligations.EveryCommandKeepsItsFrame := exec_ok

/-- Settles O4: Withdrawn is a part that three commands alone touch. -/
theorem withdrawnStays : Obligations.WithdrawnStays := by
  intro s t h hw hreset hrelease hpower
  obtain ⟨-, rfl⟩ | ⟨c, rest, hp, he⟩ := step_cases h
  · exact hw
  · simp only [hp, List.head?_cons, ne_eq, Option.some.injEq] at hreset hrelease hpower
    refine (exec_keeps he).2 .stay (fun hc => ?_) hw
    obtain ⟨n, rfl⟩ | rfl | rfl := stay_mem_touches hc
    · exact hreset n rfl
    · exact hrelease rfl
    · exact hpower rfl

/-- Settles O5: the registers' form is a part that no command touches. -/
theorem registersKeepTheirForm : Obligations.RegistersKeepTheirForm := by
  intro s t hs h
  obtain ⟨-, rfl⟩ | ⟨c, rest, -, he⟩ := step_cases h
  · exact hs
  · exact (exec_keeps he).2 .form (form_not_mem_touches c) hs

/-- Settles O6. -/
theorem resetState : Obligations.ResetState := ⟨rfl, rfl, fun _ => rfl, rfl, rfl⟩

/-- Settles O7: `tickStep` counts one, and GLB_TICK is a part that only the excepted commands touch besides. -/
theorem tickCounts : Obligations.TickCounts := by
  refine ⟨fun i s => ⟨_, rfl, ?_⟩, ?_⟩
  · exact (finish_keeps _ _ .tick (by decide)).trans (tickStep_tick i s.dev)
  · intro c s t h htick hseq hload hqual hdis htmo hhold
    refine (exec_keeps h).2 .tick fun hc => ?_
    obtain ⟨i, rfl⟩ | ⟨b, f, rfl⟩ | rfl | ⟨r, rfl⟩ | ⟨r, rfl⟩ | ⟨r, rfl⟩ | ⟨a, b, rfl⟩ := tick_mem_touches hc
    · exact htick i rfl
    · exact hseq b f rfl
    · exact hload rfl
    · exact hqual r rfl
    · exact hdis r rfl
    · exact htmo r rfl
    · exact hhold a b rfl

end Sys2Proof
end

section
/-!
The ALU operations (R53, R57): each is `opReg` or `opPred` on the value the operation computes, so a statement about one is
`opReg_result` or `opPred_result` and the value's own law.
-/
namespace Sys2Proof.Machine
open Sys2Proof

/-! ## Commands that write one register or one predicate -/

section Writes
variable {c : Instr} {h : OpHdr} {slot : SlotPos} {cycles : Nat} {s : State}

/-- A command that is `opReg` writes `v` where that is what it computes. -/
theorem exec_writesReg {d : BitVec 5} {f : Dev → Core → Word64} {v : Word64} (hc : exec c s = opReg h slot cycles d f s)
    (hi : Safety.Issues h { slot := slot, cycles := cycles, writesG := [d.toNat] } s.dev)
    (hv : f (snap h.rn.val s.dev) (Safety.issueOf (runnelOf s.dev h.rn.val)) = v) :
    ∃ t, exec c s = .next t ∧ t.pending = s.pending ∧ Safety.RegResult h [d.toNat] (fun _ => v) s.dev t.dev := by
  subst hv
  rw [hc]
  exact opReg_result hi

/-- The same of a value whose bits, or another property of it, are what is stated. -/
theorem exec_writesReg_with {d : BitVec 5} {f : Dev → Core → Word64} {P : Word64 → Prop}
    (hc : exec c s = opReg h slot cycles d f s)
    (hi : Safety.Issues h { slot := slot, cycles := cycles, writesG := [d.toNat] } s.dev)
    (hP : P (f (snap h.rn.val s.dev) (Safety.issueOf (runnelOf s.dev h.rn.val)))) :
    ∃ t v, exec c s = .next t ∧ t.pending = s.pending ∧ Safety.RegResult h [d.toNat] (fun _ => v) s.dev t.dev ∧ P v := by
  obtain ⟨t, ht, hp, hr⟩ := exec_writesReg hc hi rfl
  exact ⟨t, _, ht, hp, hr, hP⟩

/-- A command that is `opPred` writes `b` where that is what it computes. -/
theorem exec_writesPred {p : Nat} {f : Dev → Core → Bool} {b : Bool} (hp : p < 8) (hc : exec c s = opPred h slot cycles p f s)
    (hi : Safety.Issues h { slot := slot, cycles := cycles, writesP := [p] } s.dev)
    (hb : f (snap h.rn.val s.dev) (Safety.issueOf (runnelOf s.dev h.rn.val)) = b) :
    ∃ t, exec c s = .next t ∧ t.pending = s.pending ∧ Safety.PredResult h p b s.dev t.dev := by
  subst hb
  rw [hc]
  exact opPred_result hp hi

end Writes

/-! ## Values -/

theorem mul_eq_ofNat (x y : Word64) : x * y = BitVec.ofNat 64 (x.toNat * y.toNat) :=
  BitVec.eq_of_toNat_eq (by rw [BitVec.toNat_mul, BitVec.toNat_ofNat])

theorem imm12s_eq (i : BitVec 12) : imm12s i = BitVec.ofInt 64 i.toInt := rfl

theorem getLsbD_shl {x : Word64} {n i : Nat} (hi : i < 64) : (x <<< n).getLsbD i = (decide (n ≤ i) && x.getLsbD (i - n)) := by
  rw [BitVec.getLsbD_shiftLeft, ← decide_not, decide_eq_true hi, Bool.true_and]
  simp only [Nat.not_lt]

theorem getLsbD_shr (x : Word64) (n i : Nat) : (x >>> n).getLsbD i = x.getLsbD (i + n) := by
  rw [BitVec.getLsbD_ushiftRight, Nat.add_comm]

theorem getLsbD_sar {x : Word64} {n i : Nat} (hi : i < 64) :
    (x.sshiftRight n).getLsbD i = if i + n < 64 then x.getLsbD (i + n) else x.getLsbD 63 := by
  rw [BitVec.getLsbD_sshiftRight, Nat.add_comm n i, BitVec.msb_eq_getLsbD_last]
  simp [hi]

/-- Bits of EXTR (R57): inside the field those of the register while it has them, and zeros above. -/
theorem getLsbD_extract {x : Word64} {pos w i : Nat} (hi : i < 64) (hfree : ¬ (i < w ∧ 64 ≤ pos + i)) :
    (extract x pos w).getLsbD i = (decide (i < w) && x.getLsbD (pos + i)) := by
  rw [extract, BitVec.getLsbD_ofNat, Nat.testBit_mod_two_pow, Nat.testBit_div_two_pow]
  by_cases hw : i < w
  · have hx : i + pos < 64 := by omega
    rw [Nat.add_comm x.toNat, Nat.testBit_two_pow_mul_add _ x.isLt, if_pos hx, BitVec.testBit_toNat, Nat.add_comm i pos]
    simp [hi]
  · simp [hw]

/-- Bits of INS (R57): those of the source in the field, and every other one as it was. -/
theorem getLsbD_insertField {old x : Word64} {pos w i : Nat} (hi : i < 64) :
    (insertField old x pos w).getLsbD i = if pos ≤ i ∧ i < pos + w then x.getLsbD (i - pos) else old.getLsbD i := by
  have hin : (pos ≤ i ∧ i < pos + w) ↔ pos ≤ i ∧ i - pos < w := by omega
  simp only [insertField, BitVec.getLsbD_or, BitVec.getLsbD_and, BitVec.getLsbD_not, BitVec.getLsbD_ofNat,
    Nat.testBit_mul_two_pow, Nat.testBit_mod_two_pow, Nat.testBit_two_pow_sub_one,
    BitVec.testBit_toNat, hi, decide_true, Bool.true_and]
  by_cases hf : pos ≤ i ∧ i - pos < w
  · simp [hin.mpr hf, hf.2]
  · rw [if_neg (mt hin.mp hf)]
    have hoff : (decide (pos ≤ i) && decide (i - pos < w)) = false := by simpa using hf
    simp [hoff]

theorem popCount_toNat (x : Word64) : (popCount x).toNat = ((Finset.range 64).filter fun i => x.getLsbD i = true).card := by
  have hle : ((List.range 64).filter fun i => x.getLsbD i).length ≤ 64 := by
    simpa using List.length_filter_le (fun i => x.getLsbD i) (List.range 64)
  rw [popCount, BitVec.toNat_ofNat, Nat.mod_eq_of_lt (by omega)]
  simp only [Finset.card, Finset.filter_val, Finset.range_val, Multiset.range, Multiset.filter_coe, Multiset.coe_card,
    Bool.decide_eq_true]

/-- Leading zeros (R57): the first set bit from the top, 64 where there is none. -/
theorem leadZeros_toNat (x : Word64) :
    if x = 0 then (leadZeros x).toNat = 64
    else (leadZeros x).toNat < 64 ∧ 2 ^ (63 - (leadZeros x).toNat) ≤ x.toNat ∧ x.toNat < 2 ^ (64 - (leadZeros x).toNat) := by
  cases hf : (List.range 64).find? fun i => x.getLsbD (63 - i) with
  | none =>
    have hz : x = 0 := by
      apply BitVec.eq_of_getLsbD_eq
      intro i hi
      have := List.find?_eq_none.mp hf (63 - i) (by simp; omega)
      simpa [show 63 - (63 - i) = i by omega] using this
    rw [if_pos hz, leadZeros, hf]
    rfl
  | some n =>
    obtain ⟨hset, hlow, hbefore⟩ := List.find?_range_eq_some.mp hf
    have hn : n < 64 := by simpa using hlow
    have hval : (leadZeros x).toNat = n := by
      rw [leadZeros, hf, Option.getD_some, BitVec.toNat_ofNat, Nat.mod_eq_of_lt (by omega)]
    have hge : 2 ^ (63 - n) ≤ x.toNat := Nat.ge_two_pow_of_testBit hset
    have hlt : x.toNat < 2 ^ (64 - n) := by
      refine Nat.lt_pow_two_of_testBit _ fun i hi => ?_
      by_cases h64 : i < 64
      · have := hbefore (63 - i) (by omega)
        simpa [show 63 - (63 - i) = i by omega, BitVec.getLsbD] using this
      · exact BitVec.getLsbD_of_ge x i (by omega)
    have hx : x ≠ 0 := by
      rintro rfl
      simp at hset
    rw [if_neg hx, hval]
    exact ⟨hn, hge, hlt⟩

theorem core_pred_mod (c : Core) (i : Nat) : c.pred (i % 8) = (decide (i % 8 = 0) || c.p.getLsbD (i % 8)) := rfl

end Sys2Proof.Machine

namespace Sys2Proof
open Sys2Proof.Machine

/-- Settles O10. -/
theorem aluPairResults : Obligations.AluPairResults := by
  intro h d a b s x y writes
  refine ⟨fun hi => ⟨?_, ?_, ?_, ?_, ?_, ?_⟩, fun hi => ⟨?_, ?_⟩⟩
  · exact exec_writesReg rfl hi rfl
  · exact exec_writesReg rfl hi rfl
  · exact exec_writesReg rfl hi rfl
  · exact exec_writesReg rfl hi rfl
  · exact exec_writesReg rfl hi rfl
  · exact exec_writesReg rfl hi rfl
  · exact exec_writesReg rfl hi (mul_eq_ofNat x y)
  · exact exec_writesReg rfl hi rfl

/-- Settles O11. -/
theorem aluImmediateResults : Obligations.AluImmediateResults := by
  intro h d a b f i12 i17 s x y writes hi
  refine ⟨?addi, ?ldi, ?sel⟩
  case addi => exact exec_writesReg rfl hi (by rw [imm12s_eq]; rfl)
  case ldi => exact exec_writesReg rfl hi (BitVec.ofNat_toNat 64 i17).symm
  case sel =>
    refine exec_writesReg rfl hi ?_
    simp only [core_pred_mod, Bool.or_eq_true, decide_eq_true_eq]
    rfl

/-- Settles O12. -/
theorem aluShiftResults : Obligations.AluShiftResults := by
  intro h d a b f s x n writes hi
  refine ⟨?shl, ?shr, ?sar⟩
  case shl => exact exec_writesReg_with rfl hi fun i hi64 => getLsbD_shl hi64
  case shr => exact exec_writesReg_with rfl hi fun i _ => getLsbD_shr _ _ i
  case sar => exact exec_writesReg_with rfl hi fun i hi64 => getLsbD_sar hi64

/-- Settles O13. -/
theorem aluFieldResults : Obligations.AluFieldResults := by
  intro h d a imm s x old pos w writes hi
  refine ⟨?extr, ?ins⟩
  case extr => exact exec_writesReg_with rfl hi fun i hi64 hfree => getLsbD_extract hi64 hfree
  case ins => exact exec_writesReg_with rfl hi fun i hi64 _ => getLsbD_insertField hi64

/-- Settles O14. -/
theorem aluCountResults : Obligations.AluCountResults := by
  intro h d a s x writes hi
  exact ⟨exec_writesReg_with rfl hi (popCount_toNat x), exec_writesReg_with rfl hi (leadZeros_toNat x)⟩

/-- Settles O15. -/
theorem aluPredicateResults : Obligations.AluPredicateResults := by
  intro h d a b f imm s x y pred writes
  have hmod (n : Nat) : n % 8 < 8 := Nat.mod_lt _ (by decide)
  constructor
  case left =>
    intro hi
    refine ⟨?_, ?_, ?_, ?_⟩
    · exact exec_writesPred (hmod _) rfl hi rfl
    · exact exec_writesPred (hmod _) rfl hi rfl
    · exact exec_writesPred (hmod _) rfl hi rfl
    · exact exec_writesPred (hmod _) rfl hi rfl
  case right =>
    intro hi
    have plog (v : Bool) (hill : f.toNat % 4 ≠ 3) (hv : plogFn (f.toNat % 4) (pred a.toNat) (pred b.toNat) = v) :
        writes (.plog h d a b f) (d.toNat % 8) v := by
      subst hv
      have hc : exec (.plog h d a b f) s = opPred h .alu 1 (d.toNat % 8)
          (fun _ i => plogFn (f.toNat % 4) (i.pred (a.toNat % 8)) (i.pred (b.toNat % 8))) s := by
        show execPlog h d a b f s = _
        simp only [execPlog, opPred, hill, decide_false]
      exact exec_writesPred (hmod _) hc hi rfl
    refine ⟨exec_writesPred (hmod _) rfl hi rfl, fun h0 => ?_, fun h1 => ?_, fun h2 => ?_⟩
    · exact plog _ (by omega) (by rw [h0]; rfl)
    · exact plog _ (by omega) (by rw [h1]; rfl)
    · exact plog _ (by omega) (by rw [h2]; rfl)

end Sys2Proof
end

section
/-!
Control operations as the last of their bundle (R57, R58, R66), what stops a runnel (R69), and the beat of TEXIT.
-/
namespace Sys2Proof.Machine
open Sys2Proof

/-! ## Where control goes -/

/-- Control does not stand at the end of the innermost loop's body. -/
theorem loopStep_outside {depth : Nat} {t : BitVec 12} {ls : List LoopEnt}
    (h : ∀ l, ls.head? = some l → ¬ (l.depth = depth ∧ t.toNat = l.last.toNat + 1)) : loopStep depth t ls = (t, ls, 0) := by
  cases ls with
  | nil => rfl
  | cons l rest => simp [loopStep, h l rfl]

theorem loopStep_again {depth : Nat} {t : BitVec 12} {l : LoopEnt} {rest : List LoopEnt}
    (h : l.depth = depth ∧ t.toNat = l.last.toNat + 1) (hn : 1 < l.count) :
    loopStep depth t (l :: rest) = (l.first, { l with count := l.count - 1 } :: rest, 1) := by
  simp [loopStep, h, hn]

theorem loopStep_spent {depth : Nat} {t : BitVec 12} {l : LoopEnt} {rest : List LoopEnt}
    (h : l.depth = depth ∧ t.toNat = l.last.toNat + 1) (hn : ¬ 1 < l.count) :
    loopStep depth t (l :: rest) = loopStep depth t rest := by
  simp [loopStep, h, hn]

theorem control_ret_nil {pc : BitVec 12} {c : Core} (hc : c.ctl = .ret) (hr : c.ret = []) : control pc c = .error 5 := by
  simp only [control, hc, hr]

theorem control_ret_cons {pc v v' : BitVec 12} {c : Core} {rest : List (BitVec 12)} {loops : List LoopEnt} {extra : Nat}
    (hc : c.ctl = .ret) (hr : c.ret = v :: rest) (hs : loopStep rest.length v c.loops = (v', loops, extra)) :
    control pc c = .ok ({ c with ret := rest, loops := loops, ctl := .none }, v', extra) := by
  simp only [control, hc, hr, hs]

theorem control_loop {pc last : BitVec 12} {n : Nat} {c : Core} (hc : c.ctl = .loop n last) :
    control pc c = if 2 ≤ c.loops.length then .error 5
      else .ok ({ c with loops := ⟨pc + 1, last, n, c.ret.length⟩ :: c.loops, ctl := .none }, pc + 1, 0) := by
  simp only [control, hc]

/-! ## The last operation of a bundle -/

/-- The core of an operation with its marks in the bundle, as control at the bundle's end sees it. -/
def marked (o : OpShape) (c : Core) : Core :=
  { c with wrG := c.wrG ++ o.writesG, wrP := c.wrP ++ o.writesP, slots := c.slots ||| BitVec.ofNat 4 (2 ^ o.slot.bit), free := 0 }

section Last
variable {h : OpHdr} {o : OpShape} {f : Dev → Core → Core → OpResult} {s : State} {c c' : Core} {pc : BitVec 12} {extra : Nat}

/-- A bundle whose last operation decides control, where control moves on and changes no more than the stacks. -/
theorem runLast_ctlResult (hi : Safety.IssuesLast h o s.dev)
    (hf : f (snap h.rn.val s.dev) (Safety.issueOf (runnelOf s.dev h.rn.val)) (runnelOf s.dev h.rn.val).core = .ok c)
    (hc : control (runnelOf s.dev h.rn.val).pc (marked o c) = .ok (c', pc, extra)) (he : c.ctl ≠ .exit)
    (hk : ∃ ret loops ctl, c' = { marked o (runnelOf s.dev h.rn.val).core with ret := ret, loops := loops, ctl := ctl }) :
    ∃ u, run (runOp h o f) s = .next u ∧ u.pending = s.pending ∧ Safety.CtlResult h o.cycles extra pc c'.ret s.dev u.dev ∧
      (runnelOf u.dev h.rn.val).core.loops = c'.loops := by
  obtain ⟨ret, loops, ctl, rfl⟩ := hk
  have hst : (runnelOf s.dev h.rn.val).st = .running := hi.1
  obtain ⟨hreqs, hcounts⟩ := hi.2.2.2.2.2.2
  obtain ⟨u, hu, hp, ho, hr⟩ := runLast_ok hi hf hc he hreqs hcounts
  refine ⟨u, hu, hp, ⟨?_, ?_, ?_, ?_, ?_, ?_, ?_, ?_, ?_, ?_, ho⟩, ?_⟩ <;> rw [hr]
  exact hst
  all_goals rfl

end Last

section Ctl
variable {h : OpHdr} {cycles : Nat} {f : Dev → Core → Except Nat Ctl} {s : State} {ctl : Ctl} {c' : Core} {pc : BitVec 12} {extra : Nat}
  (hi : Safety.IssuesLast h { cycles := cycles } s.dev)
include hi

/-- The core of a control operation that issues. -/
theorem opCtl_goes (hf : f (snap h.rn.val s.dev) (Safety.issueOf (runnelOf s.dev h.rn.val)) = .ok ctl)
    (hc : control (runnelOf s.dev h.rn.val).pc (marked { cycles := cycles } { (runnelOf s.dev h.rn.val).core with ctl := ctl }) =
      .ok (c', pc, extra)) (he : ctl ≠ .exit)
    (hk : ∃ ret loops ctl,
      c' = { marked { cycles := cycles } (runnelOf s.dev h.rn.val).core with ret := ret, loops := loops, ctl := ctl }) :
    ∃ u, opCtl h cycles false f s = .next u ∧ u.pending = s.pending ∧ Safety.CtlResult h cycles extra pc c'.ret s.dev u.dev ∧
      (runnelOf u.dev h.rn.val).core.loops = c'.loops :=
  runLast_ctlResult (c := { (runnelOf s.dev h.rn.val).core with ctl := ctl }) hi (by simp only [hf]) hc he hk

/-- A control operation that names no target it may go to. -/
theorem opCtl_refused {e : Nat} (hf : f (snap h.rn.val s.dev) (Safety.issueOf (runnelOf s.dev h.rn.val)) = .error e) :
    ∃ u, opCtl h cycles false f s = .next u ∧ u.pending = s.pending ∧ Safety.FaultResult h e s.dev u.dev := by
  obtain ⟨hst, hcyc, hbad, hmed, hg, -⟩ := hi
  exact runOp_fault hst hcyc hbad hmed hg (by simp only [hf])

/-- A control operation whose control is an error at the bundle's end. -/
theorem opCtl_stops {e : Nat} (hf : f (snap h.rn.val s.dev) (Safety.issueOf (runnelOf s.dev h.rn.val)) = .ok ctl)
    (hc : control (runnelOf s.dev h.rn.val).pc (marked { cycles := cycles } { (runnelOf s.dev h.rn.val).core with ctl := ctl }) =
      .error e) :
    ∃ u, opCtl h cycles false f s = .next u ∧ u.pending = s.pending ∧ Safety.FaultResult h e s.dev u.dev :=
  runLast_fault (c := { (runnelOf s.dev h.rn.val).core with ctl := ctl }) hi (by simp only [hf]) hc

/-- CALL pushes the next bundle on a return stack with room, and stops the runnel on a full one. -/
theorem opCtl_call {t : BitVec 12} (hf : f (snap h.rn.val s.dev) (Safety.issueOf (runnelOf s.dev h.rn.val)) = .ok (.call t)) :
    if (runnelOf s.dev h.rn.val).core.ret.length < 8 then
      ∃ u, opCtl h cycles false f s = .next u ∧ u.pending = s.pending ∧
        Safety.CtlResult h cycles 0 t (((runnelOf s.dev h.rn.val).pc + 1) :: (runnelOf s.dev h.rn.val).core.ret) s.dev u.dev
    else ∃ u, opCtl h cycles false f s = .next u ∧ u.pending = s.pending ∧ Safety.FaultResult h 5 s.dev u.dev := by
  split
  · next hlt =>
    obtain ⟨u, hu, hp, hr, -⟩ := opCtl_goes hi hf (pc := t) (extra := 0)
      (by simp only [control, marked, Nat.not_le.mpr hlt, if_false]; rfl) (by simp) ⟨_, _, _, rfl⟩
    exact ⟨u, hu, hp, hr⟩
  · next hge => exact opCtl_stops hi hf (by simp only [control, marked, Nat.not_lt.mp hge, if_true])

end Ctl

/-- A bundle that falls through (R57, R66). -/
theorem nop_goes {h : OpHdr} {s : State} {loops : List LoopEnt} {pc : BitVec 12} {extra : Nat}
    (hi : Safety.IssuesLast h {} s.dev) (hctl : (runnelOf s.dev h.rn.val).core.ctl = .none)
    (hl : loopStep (runnelOf s.dev h.rn.val).core.ret.length ((runnelOf s.dev h.rn.val).pc + 1) (runnelOf s.dev h.rn.val).core.loops =
      (pc, loops, extra)) :
    ∃ u, exec (.nop h) s = .next u ∧ u.pending = s.pending ∧
      Safety.CtlResult h 1 extra pc (runnelOf s.dev h.rn.val).core.ret s.dev u.dev ∧ (runnelOf u.dev h.rn.val).core.loops = loops :=
  runLast_ctlResult (o := {}) (f := fun _ _ c => .ok c) hi rfl
    (by simp only [control, marked, hctl, hl]; rfl) (by simp [hctl]) ⟨_, _, _, rfl⟩

/-! ## What stops a runnel -/

section Stops
variable {h : OpHdr} {o : OpShape} {f : Dev → Core → Core → OpResult} {d : Dev}

theorem runOp_idle (hst : (runnelOf d h.rn.val).st ≠ .running) : runOp h o f d = d := by
  simp [runOp, hst]

/-- The fault of the bundle as the operation finds it. -/
theorem snap_fault (h : OpHdr) (cause : Nat) (d : Dev) : Safety.FaultResult h cause d (runnelFault h.rn.val cause (snap h.rn.val d)) :=
  fault_result h cause d _ (by rw [snap_issue]) (by rw [snap_issue]) (snap_only h d)

theorem runOp_outOfCycles (hst : (runnelOf d h.rn.val).st = .running) (hcyc : 2000 ≤ (runnelOf d h.rn.val).cyc) :
    runOp h o f d = runnelFault h.rn.val 0 (snap h.rn.val d) := by
  have hs : (runnelOf (snap h.rn.val d) h.rn.val).cyc = (runnelOf d h.rn.val).cyc := by rw [snap_issue]
  unfold snap at hs ⊢
  simp only [runOp, hst, ne_eq, not_true_eq_false, if_false, hs, hcyc, if_true]

theorem runOp_mediaInService (hst : (runnelOf d h.rn.val).st = .running) (hcyc : (runnelOf d h.rn.val).cyc < 2000)
    (hbad : bundleBad (runnelOf d h.rn.val) o = false) (hmed : o.slot = .media) (hn : 32 ≤ h.rn.val) :
    runOp h o f d = runnelFault h.rn.val 2 (snap h.rn.val d) := by
  have hs : (runnelOf (snap h.rn.val d) h.rn.val).cyc = (runnelOf d h.rn.val).cyc := by rw [snap_issue]
  have hb : bundleBad (runnelOf (snap h.rn.val d) h.rn.val) o = false := by rw [snap_issue]; exact hbad
  unfold snap at hs hb ⊢
  simp only [runOp, hst, ne_eq, not_true_eq_false, if_false, hs, Nat.not_le.mpr hcyc, hb, Bool.false_eq_true, hmed, hn, and_self,
    if_true]

/-- What makes a bundle illegal (R58). -/
theorem bundleBad_iff {r : Runnel} : bundleBad r o = true ↔
    o.illegal = true ∨ r.core.slots.getLsbD o.slot.bit = true ∨ (∃ i ∈ o.writesG, i ∈ r.core.wrG) ∨ ∃ i ∈ o.writesP, i ∈ r.core.wrP := by
  simp [bundleBad, or_assoc]

/-- An illegal form stops a runnel that would otherwise run it. -/
theorem run_illegal {s : State} (hill : o.illegal = true) (hst : (runnelOf s.dev h.rn.val).st = .running)
    (hcyc : (runnelOf s.dev h.rn.val).cyc < 2000) :
    ∃ u, run (runOp h o f) s = .next u ∧ u.pending = s.pending ∧ Safety.FaultResult h 1 s.dev u.dev := by
  have hF : Safety.FaultResult h 1 s.dev (runOp h o f s.dev) := by
    rw [runOp_illegal hst hcyc (bundleBad_iff.mpr (.inl hill))]
    exact snap_fault h 1 s.dev
  exact ⟨_, run_onlyCore hF.2.2.2, rfl, hF⟩

end Stops

/-! ## The beat (R47, R66) -/

/-- A runnel that gives its beat, without what its posts bring it. -/
def beaten (r : Runnel) : Runnel :=
  { r with st := .idle, shadowG := r.core.g, shadowP := r.core.p, restart := none, core := { r.core with undo := [], outbox := [] } }

theorem beat_sch (n : Nat) (d : Dev) :
    (beat n d).sch = (deliver (runnelOf d n).core.outbox (onRunnel n (fun _ => beaten (runnelOf d n)) d)).sch := by
  have hself : onRunnel n (fun r => { r with
      st := .idle, shadowG := (runnelOf d n).core.g, shadowP := (runnelOf d n).core.p, restart := none
      core := { (runnelOf d n).core with undo := [], outbox := [] } }) d = onRunnel n (fun _ => beaten (runnelOf d n)) d := rfl
  simp only [beat, hself]
  split <;> simp

theorem beat_runnel (n : Nat) (d : Dev) {m : Nat} (hm : m < 44) : runnelOf (beat n d) m =
    let x := if m = n then beaten (runnelOf d n) else runnelOf d m
    { x with arrived := x.arrived ++ (runnelOf d n).core.outbox.filter fun p => decide (p.target = m) } := by
  have hsch : runnelOf (beat n d) m = runnelOf (deliver (runnelOf d n).core.outbox (onRunnel n (fun _ => beaten (runnelOf d n)) d)) m := by
    unfold runnelOf at *
    rw [beat_sch]
    rfl
  rw [hsch, deliver_runnel _ _ _ hm]
  by_cases h : m = n
  · subst h
    simp
  · simp [h]

theorem getF_of_regs {d e : Dev} (h : e.regs = d.regs) (f : Fld) : getF e f = getF d f := by
  unfold getF regGet; rw [h]

theorem setF_regs_of_regs {d e : Dev} (h : e.regs = d.regs) (f : Fld) (v : Nat) : (setF f v e).regs = (setF f v d).regs := by
  simp only [setF, regSet, regGet, h]

/-- The registers that a beat leaves: SCH_CYC, and what the margin event changes. -/
theorem beat_regGet (n : Nat) (d : Dev) {a : Nat} (ha : Safety.eventReg a = false) :
    regGet (beat n d) a = regGet (setF (F.SCH_CYC_LAST n) (runnelOf d n).cyc
      (setF (F.SCH_CYC_MAX n) (max (getF d (F.SCH_CYC_MAX n)) (runnelOf d n).cyc) d)) a := by
  have hset {e : Dev} (he : e.regs = d.regs) :
      regGet (setF (F.SCH_CYC_LAST n) (runnelOf d n).cyc (setF (F.SCH_CYC_MAX n) (max (getF e (F.SCH_CYC_MAX n)) (runnelOf d n).cyc) e)) a =
        regGet (setF (F.SCH_CYC_LAST n) (runnelOf d n).cyc (setF (F.SCH_CYC_MAX n) (max (getF d (F.SCH_CYC_MAX n)) (runnelOf d n).cyc) d)) a := by
    rw [getF_of_regs he]
    unfold regGet
    rw [setF_regs_of_regs (setF_regs_of_regs he _ _)]
  have hraise (v : Nat) (x : Dev) : regGet (raiseN 40 n (count v x)) a = regGet x a := by
    rw [raiseN_keeps _ _ _ .plain (by decide) a ha, count_keeps _ _ .plain (by decide) a ha]
  simp only [beat]
  split
  · rw [hraise]
    refine hset ?_
    exact deliver_regs _ (onRunnel n _ d)
  · refine hset ?_
    exact deliver_regs _ (onRunnel n _ d)

theorem eventReg_schCyc {n : Nat} (hn : n < 44) : Safety.eventReg (0x300200 + 4 * n) = false :=
  eventReg_false (by omega) (by omega) (by omega) (by omega) (by omega)

theorem beat_cycLast {n : Nat} {d : Dev} (hn : n < 44) (hc : (runnelOf d n).cyc ≤ 2000) :
    getF (beat n d) (F.SCH_CYC_LAST n) = (runnelOf d n).cyc := by
  have hreg := beat_regGet n d (a := (F.SCH_CYC_LAST n).addr) (eventReg_schCyc hn)
  unfold getF
  rw [hreg]
  refine (getF_setF_same _ (F.SCH_CYC_LAST n) _ (by simp [F.SCH_CYC_LAST]) (by simp [F.SCH_CYC_LAST])).trans ?_
  exact Nat.mod_eq_of_lt (by simp only [F.SCH_CYC_LAST]; omega)

theorem beat_cycMax {n : Nat} {d : Dev} (hn : n < 44) (hc : (runnelOf d n).cyc ≤ 2000) :
    getF (beat n d) (F.SCH_CYC_MAX n) = max (getF d (F.SCH_CYC_MAX n)) (runnelOf d n).cyc := by
  have hreg := congrArg (fun w : Word => bitsOf w.toNat (F.SCH_CYC_MAX n).hi (F.SCH_CYC_MAX n).lo)
    (beat_regGet n d (a := (F.SCH_CYC_MAX n).addr) (eventReg_schCyc hn))
  have hlt : getF d (F.SCH_CYC_MAX n) < 2 ^ 11 := bitsOf_lt _ _ _
  refine Eq.trans hreg ?_
  refine Eq.trans (getF_setF_other (g := F.SCH_CYC_MAX n) _ (.inl (by simp [F.SCH_CYC_LAST, F.SCH_CYC_MAX])) _ (by simp [F.SCH_CYC_LAST]) (by simp [F.SCH_CYC_LAST])) ?_
  rw [getF_setF_same _ _ _ (by simp [F.SCH_CYC_MAX]) (by simp [F.SCH_CYC_MAX])]
  exact Nat.mod_eq_of_lt (max_lt hlt (by simp only [F.SCH_CYC_MAX]; omega))

theorem beat_regGet_ne {n : Nat} {d : Dev} {a : Nat} (ha : Safety.eventReg a = false) (hne : a ≠ (F.SCH_CYC_LAST n).addr) :
    regGet (beat n d) a = regGet d a := by
  rw [beat_regGet n d ha, regGet_setF_ne hne, regGet_setF_ne (show a ≠ (F.SCH_CYC_MAX n).addr from hne)]

/-- The runnel whose bundle ends with TEXIT, before it gives its beat. -/
def exited (r : Runnel) : Runnel :=
  { r with
    issue := Safety.issueOf r, cost := 0, cyc := r.cyc + max r.cost 1
    core := { marked {} r.core with ctl := .none, reqs := [], counts := [], wrG := [], wrP := [], slots := 0 } }

/-- What the effect of TEXIT makes of its core. -/
def exitCore (r : Runnel) : Core := { r.core with ctl := .exit }

section Exit
variable {h : OpHdr} {d : Dev} (hi : Safety.IssuesLast h {} d)
  (hret : (runnelOf d h.rn.val).core.ret = []) (hloops : (runnelOf d h.rn.val).core.loops = [])
include hi hret hloops

/-- TEXIT on empty stacks (R66): the bundle ends, and a beat follows unless cycle 2,000 has passed. -/
theorem runOp_exit {f : Dev → Core → Core → OpResult}
    (hf : f (snap h.rn.val d) (Safety.issueOf (runnelOf d h.rn.val)) (runnelOf d h.rn.val).core = .ok (exitCore (runnelOf d h.rn.val))) :
    runOp h {} f d =
      let d2 := onRunnel h.rn.val (fun _ => exited (runnelOf d h.rn.val)) (placed h {} (exitCore (runnelOf d h.rn.val)) d)
      if (exited (runnelOf d h.rn.val)).cyc ≤ 2000 then beat h.rn.val d2 else runnelFault h.rn.val 0 d2 := by
  obtain ⟨hst, hcyc, hbad, hmed, hg, hlast, hreqs, hcounts⟩ := hi
  have heq := runOp_eq (f := f) hst hcyc hbad hmed hg
  simp only [hf, hlast, if_true] at heq
  rw [heq]
  unfold bundleEnd
  rw [placed_runnel]
  simp only [exitCore, exited, marked, control, hret, hloops, hreqs, hcounts, and_self, if_true, List.foldl_nil, decide_true, Bool.not_true,
    Bool.false_eq_true, if_false, Nat.add_zero]

end Exit

theorem exited_only (h : OpHdr) (d : Dev) :
    Safety.OnlyCore h d (onRunnel h.rn.val (fun _ => exited (runnelOf d h.rn.val)) (placed h {} (exitCore (runnelOf d h.rn.val)) d)) := by
  obtain ⟨hk, hm, hw, hr⟩ := placed_only h {} (exitCore (runnelOf d h.rn.val)) d
  exact ⟨.step (onRunnel_keeps _ _ _) rfl hk, fun m hne => (runnelOf_onRunnel_ne hne _ _).trans (hm m hne), hw, hr⟩

theorem exec_texit (h : OpHdr) (s : State) :
    exec (.texit h) s = run (runOp h {} fun _ _ c => .ok { c with ctl := .exit }) s := rfl

end Sys2Proof.Machine

namespace Sys2Proof
open Sys2Proof.Machine

/-- Settles O16. -/
theorem branchCallReturn : Obligations.BranchCallReturn := by
  intro h t a s r x goes stops hi
  have hroutine : routinesOf (snap h.rn.val s.dev) h.rn.val = routinesOf s.dev h.rn.val := routines_snap _ _ _
  refine ⟨?br, ?call, ?callx, ?retEmpty, ?ret⟩
  case br =>
    obtain ⟨u, hu, hp, hr, -⟩ := opCtl_goes (f := fun _ _ => .ok (.branch t)) hi rfl (pc := t) rfl (by simp) ⟨_, _, _, rfl⟩
    exact ⟨u, hu, hp, hr⟩
  case call => exact opCtl_call (f := fun _ _ => .ok (.call t)) hi rfl
  case callx =>
    let f : Dev → Core → Except Nat Ctl := fun d i =>
      let t := (i.reg a.toNat).setWidth 12
      if t ∈ routinesOf d h.rn.val then .ok (.call t) else .error 5
    by_cases hx : x ∈ routinesOf s.dev h.rn.val
    · have hcall := opCtl_call (t := x) (f := f) hi (by simp only [f, hroutine]; exact if_pos hx)
      simp only [hx, true_and]
      exact hcall
    · rw [if_neg (fun hh => hx hh.1)]
      exact opCtl_refused (f := f) hi (by simp only [f, hroutine]; exact if_neg hx)
  case retEmpty =>
    intro hempty
    exact opCtl_stops (f := fun _ _ => .ok .ret) hi rfl (control_ret_nil rfl hempty)
  case ret =>
    intro v rest hret hloops
    have hstep : loopStep rest.length v r.core.loops = (v, r.core.loops, 0) := loopStep_outside hloops
    have hc : control r.pc (marked { cycles := 2 } { r.core with ctl := .ret }) =
        .ok ({ marked { cycles := 2 } r.core with ret := rest, loops := r.core.loops, ctl := .none }, v, 0) :=
      control_ret_cons (c := marked { cycles := 2 } { r.core with ctl := .ret }) rfl hret hstep
    obtain ⟨u, hu, hp, hr, -⟩ := opCtl_goes (f := fun _ _ => .ok .ret) hi rfl hc (by simp) ⟨_, _, _, rfl⟩
    exact ⟨u, hu, hp, hr⟩

/-- Settles O17. -/
theorem loopsRunTheirBodies : Obligations.LoopsRunTheirBodies := by
  intro h n last s r goes stops hi
  refine ⟨?loop, ?fall, ?body⟩
  case loop =>
    by_cases hn : n = 0
    · rw [if_pos hn]
      exact run_illegal (o := { illegal := decide (n = 0) }) (by simp [hn]) hi.1 hi.2.1
    · have hexec : exec (.loopOp h n last) s = opCtl h 1 false (fun _ _ => .ok (.loop n.toNat last)) s := by
        show execLoopOp h n last s = _
        simp only [execLoopOp, hn, decide_false]
      rw [if_neg hn]
      split
      · next hlt =>
        show ∃ u, exec (.loopOp h n last) s = .next u ∧ _
        rw [hexec]
        exact opCtl_goes (ctl := .loop n.toNat last) hi rfl ((control_loop rfl).trans (if_neg (Nat.not_le.mpr hlt))) (by simp) ⟨_, _, _, rfl⟩
      · next hge =>
        show ∃ u, exec (.loopOp h n last) s = .next u ∧ _
        rw [hexec]
        exact opCtl_stops (ctl := .loop n.toNat last) hi rfl ((control_loop rfl).trans (if_pos (Nat.not_lt.mp hge)))
  case fall =>
    intro hctl hl
    exact nop_goes hi hctl (by rw [show _ = [] from hl]; rfl)
  case body =>
    intro l rest hctl hl
    have hgo {loops pc extra} (hs : loopStep r.core.ret.length (r.pc + 1) (l :: rest) = (pc, loops, extra)) :
        goes (.nop h) extra pc loops := nop_goes hi hctl (by rw [show _ = l :: rest from hl]; exact hs)
    split
    · next hat =>
      split
      · next hn => exact hgo (loopStep_again hat hn)
      · next hn => exact fun hm => hgo ((loopStep_spent hat hn).trans (loopStep_outside hm))
    · next hat => exact hgo (loopStep_outside (by rintro m ⟨⟩; exact hat))

/-- Settles O19. -/
theorem runnelFaultsStopTheBundle : Obligations.RunnelFaultsStopTheBundle := by
  intro h o f d r e
  refine ⟨runOp_idle, fun hst hcyc => ?_, fun hst hcyc hbad => ?_, fun hst hcyc hbad hmed hn => ?_⟩
  · simp only [e, runOp_outOfCycles hst hcyc]
    exact snap_fault h 0 d
  · simp only [e, runOp_illegal hst hcyc (bundleBad_iff.mpr hbad)]
    exact snap_fault h 1 d
  · simp only [e, runOp_mediaInService hst hcyc hbad hmed hn]
    exact snap_fault h 2 d

/-- Settles O20. -/
theorem tickExitGivesTheBeat : Obligations.TickExitGivesTheBeat := by
  intro h s n r cyc stops hi
  have hn : n < 44 := h.rn.isLt
  by_cases hstk : r.core.ret ≠ [] ∨ r.core.loops ≠ []
  · rw [if_pos hstk]
    refine opCtl_stops (f := fun _ _ => .ok .exit) hi rfl ?_
    have hne : ¬ (r.core.ret = [] ∧ r.core.loops = []) := by tauto
    exact if_neg hne
  rw [if_neg hstk]
  obtain ⟨hret, hloops⟩ : r.core.ret = [] ∧ r.core.loops = [] := by tauto
  have hexit := runOp_exit hi hret hloops (f := fun _ _ c => .ok { c with ctl := .exit }) rfl
  have honly := exited_only h s.dev
  have hself : ∀ d, runnelOf (onRunnel h.rn.val (fun _ => exited r) d) h.rn.val = exited r := fun d => runnelOf_onRunnel_same _ _ _
  generalize hd2 : onRunnel h.rn.val (fun _ => exited (runnelOf s.dev h.rn.val)) (placed h {} (exitCore (runnelOf s.dev h.rn.val)) s.dev) = d2
    at hexit honly
  have hr2 : runnelOf d2 n = exited r := by rw [← hd2]; exact hself _
  by_cases hc : 2000 < cyc
  · rw [if_pos hc]
    simp only [show ¬ (exited (runnelOf s.dev h.rn.val)).cyc ≤ 2000 from Nat.not_le.mpr hc, if_false] at hexit
    have hF : Safety.FaultResult h 0 s.dev (runOp h {} (fun _ _ c => .ok { c with ctl := .exit }) s.dev) := by
      rw [hexit]
      exact fault_result h 0 _ _ (by rw [hr2]; rfl) (by rw [hr2]; rfl) honly
    exact ⟨_, run_onlyCore hF.2.2.2, rfl, hF⟩
  rw [if_neg hc]
  have hle : (exited r).cyc ≤ 2000 := Nat.not_lt.mp hc
  rw [if_pos hle] at hexit
  obtain ⟨hkeeps, hothers, -, -⟩ := honly
  have hregs : d2.regs = s.dev.regs := hkeeps .regs (by decide)
  have hu : exec (.texit h) s = .next { s with dev := finish (stateByte s.dev) (beat n d2) } := by
    rw [exec_texit, run, hexit]
  have hrun (m : Nat) : runnelOf (finish (stateByte s.dev) (beat n d2)) m = runnelOf (beat n d2) m := by
    unfold runnelOf; rw [finish_sch]
  have hown := (hrun n).trans (beat_runnel n d2 hn)
  rw [if_pos rfl, hr2] at hown
  refine ⟨_, hu, rfl, ?own, ?last, ?max, ?posts, ?keeps, ?regs⟩
  case own => simp only [hown]; exact ⟨rfl, rfl, rfl, rfl, rfl, rfl, rfl, rfl⟩
  case last =>
    rw [finish_getF (eventReg_schCyc hn), beat_cycLast hn (by rw [hr2]; exact hle), hr2]
    rfl
  case max =>
    rw [finish_getF (eventReg_schCyc hn), beat_cycMax hn (by rw [hr2]; exact hle), hr2, getF_of_regs hregs]
    rfl
  case posts =>
    intro m hm
    rw [hrun, beat_runnel n d2 hm, hr2]
    by_cases hmn : m = n
    · subst hmn
      rw [if_pos rfl]
      exact ⟨rfl, rfl⟩
    · rw [if_neg hmn, hothers m hmn]
      exact ⟨rfl, rfl⟩
  case keeps =>
    exact .step (finish_keeps _ _) rfl (.step (beat_keeps n d2) rfl (.mono rfl hkeeps))
  case regs =>
    intro a ha hne
    rw [finish_keeps _ _ .plain (by decide) a ha, beat_regGet_ne ha hne]
    unfold regGet
    rw [hregs]

end Sys2Proof
end

section
/-!
MEM operations (R54, R59, R65, R67): loads, stores through the undo buffer, queue pops and posts.
-/
namespace Sys2Proof.Machine
open Sys2Proof Sys2Proof.SMapLaws

/-! ## What an operation that issues leaves -/

/-- The part of a core that operations work on, without the bundle's marks. -/
def CoreSame (y c : Core) : Prop :=
  y.g = c.g ∧ y.p = c.p ∧ y.data = c.data ∧ y.undo = c.undo ∧ y.ret = c.ret ∧ y.outbox = c.outbox ∧ y.inbox = c.inbox ∧
    y.fifo = c.fifo ∧ y.xfers = c.xfers

/-- What a bundle asks and where it goes is not changed. -/
def SameAsks (c x : Core) : Prop := c.ctl = x.ctl ∧ c.reqs = x.reqs ∧ c.counts = x.counts

/-- An operation that issues and asks nothing of other units answers its effect's core. -/
theorem run_core {h : OpHdr} {o : OpShape} {f : Dev → Core → Core → OpResult} {s : State} {c : Core} (hi : Safety.Issues h o s.dev)
    (hf : f (snap h.rn.val s.dev) (Safety.issueOf (runnelOf s.dev h.rn.val)) (runnelOf s.dev h.rn.val).core = .ok c)
    (hk : SameAsks c (runnelOf s.dev h.rn.val).core) :
    ∃ t, run (runOp h o f) s = .next t ∧ t.pending = s.pending ∧ CoreSame (runnelOf t.dev h.rn.val).core c ∧
      Safety.OnlyCore h s.dev t.dev := by
  obtain ⟨k1, k2, k3⟩ := hk
  have hl : h.last = true → c.ctl = .none ∧ c.reqs = [] ∧ c.counts = [] := fun hh => by
    obtain ⟨l1, l2, l3⟩ := hi.2.2.2.2.2 hh
    exact ⟨k1.trans l1, k2.trans l2, k3.trans l3⟩
  obtain ⟨⟨h1, h2, h3, h4, h5, h6, h7, h8, h9, -⟩, ho⟩ := runOp_issues hi hf hl
  exact ⟨_, runOp_run hi hf hl, rfl, ⟨h1, h2, h3, h4, h5, h6, h7, h8, h9⟩, ho⟩

/-- An operation that issues and whose effect is a fault. -/
theorem run_stops {h : OpHdr} {o : OpShape} {f : Dev → Core → Core → OpResult} {s : State} {e : Nat} (hi : Safety.Issues h o s.dev)
    (hf : f (snap h.rn.val s.dev) (Safety.issueOf (runnelOf s.dev h.rn.val)) (runnelOf s.dev h.rn.val).core = .error e) :
    ∃ t, run (runOp h o f) s = .next t ∧ t.pending = s.pending ∧ Safety.FaultResult h e s.dev t.dev := by
  obtain ⟨hst, hcyc, hbad, hmed, hg, -⟩ := hi
  exact runOp_fault hst hcyc hbad hmed hg hf

/-- The encoding of a register pair is legal where it names an even register (R58). -/
theorem pair_legal {d : BitVec 5} (h : d.toNat % 2 = 0) : d.getLsbD 0 = false := by
  rw [getLsbD_zero_mod, decide_eq_false_iff_not]
  omega

/-! ## Loads -/

theorem readOk_eq_false {a len : Nat} (h : a % len ≠ 0 ∨ 0x40100 < a + len) : readOk a len = false := by
  rw [readOk, ← Bool.decide_and, decide_eq_false_iff_not]
  omega

theorem readOk_eq_true {a len : Nat} (h : ¬ (a % len ≠ 0 ∨ 0x40100 < a + len)) : readOk a len = true := by
  rw [readOk, ← Bool.decide_and, decide_eq_true_iff]
  omega

theorem loadBytes_refused {d : Dev} {n a len : Nat} {i c : Core} (h : a % len ≠ 0 ∨ 0x40100 < a + len) :
    loadBytes d n i c a len = .error 3 := by
  simp [loadBytes, readOk_eq_false h]

theorem loadBytes_data {n a len : Nat} {i c : Core} (h : ¬ (a % len ≠ 0 ∨ 0x40100 < a + len)) (ha : a < 0x40000) (d : Dev) :
    loadBytes (snap n d) n i c a len = .ok (dataBytes d n i a len, c) := by
  rw [loadBytes, readOk_eq_true h, if_neg (by simp), if_neg (by omega), dataBytes_snap]

/-- The local status area reads as free values (log entry 9). -/
theorem loadBytes_status {d : Dev} {n a len : Nat} {i c : Core} (h : ¬ (a % len ≠ 0 ∨ 0x40100 < a + len)) (ha : ¬ a < 0x40000) :
    ∃ bs, loadBytes d n i c a len = .ok (bs, { c with free := c.free + 2 }) := by
  rw [loadBytes, readOk_eq_true h, if_neg (by simp), if_pos (by omega)]
  exact ⟨_, rfl⟩

section Load
variable {h : OpHdr} {o : OpShape} {s : State} {a : BitVec 5} {imm : BitVec 12} {len addr : Nat} {D : List Nat}
  {put : List (BitVec 8) → Core → Core} {v : List (BitVec 8) → Nat → Word64}

/-- A load of `len` bytes that puts the values `v` of them in the registers `D`, by where its address lies. -/
theorem run_load (hi : Safety.Issues h o s.dev) (ha : memAddr (Safety.issueOf (runnelOf s.dev h.rn.val)) a imm = addr)
    (hput : ∀ bs c i, (put bs c).reg i = if i ∈ D then v bs i else c.reg i)
    (hrest : ∀ bs c, (put bs c).p = c.p ∧ (put bs c).data = c.data ∧ (put bs c).ret = c.ret ∧ (put bs c).outbox = c.outbox ∧
      (put bs c).ctl = c.ctl ∧ (put bs c).reqs = c.reqs ∧ (put bs c).counts = c.counts) :
    let f : Dev → Core → Core → OpResult := fun d i c => match loadBytes d h.rn.val i c (memAddr i a imm) len with
      | .error e => .error e
      | .ok (bs, c) => .ok (put bs c)
    let loads (w : Nat → Word64) : Prop := ∃ t, run (runOp h o f) s = .next t ∧ t.pending = s.pending ∧ Safety.RegResult h D w s.dev t.dev
    if addr % len ≠ 0 ∨ 0x40100 < addr + len then
      ∃ t, run (runOp h o f) s = .next t ∧ t.pending = s.pending ∧ Safety.FaultResult h 3 s.dev t.dev
    else if addr < 0x40000 then loads (v (dataBytes s.dev h.rn.val (Safety.issueOf (runnelOf s.dev h.rn.val)) addr len))
    else ∃ w, loads w := by
  intro f loads
  subst ha
  split
  · next hbad => exact run_stops hi (by simp only [f, loadBytes_refused hbad])
  · next hok =>
    split
    · next hlow =>
      refine reg_result hi (c := put _ (runnelOf s.dev h.rn.val).core) ?_ (hput _ _) (hrest _ _)
      simp only [f, loadBytes_data hok hlow]
    · next hhigh =>
      obtain ⟨bs, hbs⟩ := loadBytes_status (d := snap h.rn.val s.dev) (n := h.rn.val) (i := Safety.issueOf (runnelOf s.dev h.rn.val))
        (c := (runnelOf s.dev h.rn.val).core) hok hhigh
      refine ⟨v bs, reg_result hi (c := put bs { (runnelOf s.dev h.rn.val).core with free := (runnelOf s.dev h.rn.val).core.free + 2 }) (by simp only [f, hbs]) ?_ ?_⟩
      · exact hput bs _
      · exact hrest bs _

end Load

/-- A load into one register (R57). -/
theorem loadOp_result {h : OpHdr} {d a : BitVec 5} {imm : BitVec 12} {s : State} (len : Nat)
    (hi : Safety.Issues h { slot := .mem, cycles := 3, writesG := [d.toNat] } s.dev) :
    let addr := (Safety.src h s.dev a + BitVec.ofNat 64 imm.toNat).toNat
    let loads (w : Nat → Word64) : Prop := ∃ t, loadOp h len d a imm s = .next t ∧ t.pending = s.pending ∧
      Safety.RegResult h [d.toNat] w s.dev t.dev
    if addr % len ≠ 0 ∨ 0x40100 < addr + len then
      ∃ t, loadOp h len d a imm s = .next t ∧ t.pending = s.pending ∧ Safety.FaultResult h 3 s.dev t.dev
    else if addr < 0x40000 then loads (fun _ => BitVec.ofNat 64 (ofBytesLE (dataBytes s.dev h.rn.val
      (Safety.issueOf (runnelOf s.dev h.rn.val)) (addr + 0) len)))
    else ∃ w, loads w :=
  run_load (put := fun bs c => c.setReg d.toNat (BitVec.ofNat 64 (ofBytesLE bs))) (v := fun bs _ => BitVec.ofNat 64 (ofBytesLE bs))
    hi (memAddr_eq _ _ _) (fun bs c i => by simp) (fun _ _ => ⟨rfl, rfl, rfl, rfl, rfl, rfl, rfl⟩)

/-! ## Stores -/

theorem writeOk_eq_false {a len : Nat} (h : a % len ≠ 0 ∨ a < 0x10000 ∨ 0x40000 < a + len) : writeOk a len = false := by
  rw [writeOk, ← Bool.decide_and, ← Bool.decide_and, decide_eq_false_iff_not]
  omega

theorem writeOk_eq_true {a len : Nat} (h : ¬ (a % len ≠ 0 ∨ a < 0x10000 ∨ 0x40000 < a + len)) : writeOk a len = true := by
  rw [writeOk, ← Bool.decide_and, ← Bool.decide_and, decide_eq_true_iff]
  omega

/-- The undo buffer with the block of an address in it (R67). -/
def savedUndo (a : Nat) (c : Core) : SMap (Option (List (BitVec 8))) :=
  if ∃ e ∈ c.undo, e.1 = a / 64 then c.undo else c.undo.insert (a / 64) (some (blockBytes c (a / 64)))

theorem undoSave_full {a : Nat} {c : Core} (hn : ∀ e ∈ c.undo, e.1 ≠ a / 64) (hfull : 64 ≤ c.undo.length) : undoSave a c = none := by
  have hany : (c.undo.any fun e => decide (e.1 = a / 64)) = false :=
    List.any_eq_false.mpr fun e he => by simpa using hn e he
  simp only [undoSave, hany, Bool.false_eq_true, if_false, hfull, if_true]

theorem undoSave_room {a : Nat} {c : Core} (h : ¬ ((∀ e ∈ c.undo, e.1 ≠ a / 64) ∧ 64 ≤ c.undo.length)) :
    undoSave a c = some { c with undo := savedUndo a c } := by
  by_cases hin : ∃ e ∈ c.undo, e.1 = a / 64
  · have hany : (c.undo.any fun e => decide (e.1 = a / 64)) = true := by
      obtain ⟨e, he, heq⟩ := hin
      exact List.any_eq_true.mpr ⟨e, he, decide_eq_true heq⟩
    simp only [undoSave, hany, if_true, savedUndo, hin]
  · have hany : (c.undo.any fun e => decide (e.1 = a / 64)) = false :=
      List.any_eq_false.mpr fun e he => by simpa using fun heq => hin ⟨e, he, heq⟩
    have hlt : ¬ 64 ≤ c.undo.length := fun hfull => h ⟨fun e he heq => hin ⟨e, he, heq⟩, hfull⟩
    simp only [undoSave, hany, Bool.false_eq_true, if_false, hlt, savedUndo, hin]

theorem savedUndo_get (a : Nat) (c : Core) :
    if ∃ e ∈ c.undo, e.1 = a / 64 then savedUndo a c = c.undo
    else (savedUndo a c).get none (a / 64) = some (blockBytes c (a / 64)) ∧
      ∀ b, b ≠ a / 64 → (savedUndo a c).get none b = c.undo.get none b := by
  unfold savedUndo
  split
  · rfl
  · exact ⟨get_insert_same _ _ _ _, fun b hb => get_insert_ne _ _ hb _⟩

section StoreBytes
variable {a len : Nat} {bs : List (BitVec 8)} {c : Core} (hlen : bs.length = len)
include hlen

theorem storeBytes_refused (h : a % len ≠ 0 ∨ a < 0x10000 ∨ 0x40000 < a + len) : storeBytes a bs c = .error 3 := by
  simp [storeBytes, hlen, writeOk_eq_false h]

theorem storeBytes_full (hok : ¬ (a % len ≠ 0 ∨ a < 0x10000 ∨ 0x40000 < a + len)) (hn : ∀ e ∈ c.undo, e.1 ≠ a / 64)
    (hfull : 64 ≤ c.undo.length) : storeBytes a bs c = .error 6 := by
  simp [storeBytes, hlen, writeOk_eq_true hok, undoSave_full hn hfull]

theorem storeBytes_ok (hok : ¬ (a % len ≠ 0 ∨ a < 0x10000 ∨ 0x40000 < a + len))
    (hroom : ¬ ((∀ e ∈ c.undo, e.1 ≠ a / 64) ∧ 64 ≤ c.undo.length)) :
    storeBytes a bs c = .ok (putBytes a bs { c with undo := savedUndo a c }) := by
  simp [storeBytes, hlen, writeOk_eq_true hok, undoSave_room hroom]

end StoreBytes

section Store
variable {h : OpHdr} {o : OpShape} {s : State} {a : BitVec 5} {imm : BitVec 12} {addr : Nat} {val : Core → Nat}

/-- A store of the low `len` bytes of a value, by where its address lies and what the undo buffer holds. -/
theorem run_store (len : Nat) (hi : Safety.Issues h o s.dev)
    (ha : memAddr (Safety.issueOf (runnelOf s.dev h.rn.val)) a imm = addr) {v : Nat}
    (hv : val (Safety.issueOf (runnelOf s.dev h.rn.val)) = v) :
    let f : Dev → Core → Core → OpResult := fun _ i c => storeBytes (memAddr i a imm) (bytesLE len (val i)) c
    let r := runnelOf s.dev h.rn.val
    let stops (cause : Nat) : Prop := ∃ t, run (runOp h o f) s = .next t ∧ t.pending = s.pending ∧
      Safety.FaultResult h cause s.dev t.dev
    if addr % len ≠ 0 ∨ addr < 0x10000 ∨ 0x40000 < addr + len then stops 3
    else if (∀ e ∈ r.core.undo, e.1 ≠ addr / 64) ∧ 64 ≤ r.core.undo.length then stops 6
    else ∃ t, run (runOp h o f) s = .next t ∧ t.pending = s.pending ∧
      (let y := (runnelOf t.dev h.rn.val).core
      (∀ x, y.data.get 0 x = if addr ≤ x ∧ x < addr + len then BitVec.ofNat 8 (v / 256 ^ (x - addr)) else r.core.data.get 0 x) ∧
      (if ∃ e ∈ r.core.undo, e.1 = addr / 64 then y.undo = r.core.undo
        else y.undo.get none (addr / 64) = some (blockBytes r.core (addr / 64)) ∧
          ∀ b, b ≠ addr / 64 → y.undo.get none b = r.core.undo.get none b) ∧
      y.g = r.core.g ∧ y.p = r.core.p ∧ y.ret = r.core.ret ∧ y.outbox = r.core.outbox) ∧ Safety.OnlyCore h s.dev t.dev := by
  intro f r stops
  subst ha hv
  split
  · next hbad => exact run_stops hi (storeBytes_refused (bytesLE_length _ _) hbad)
  · next hok =>
    split
    · next hfull =>
      obtain ⟨hn, hlen⟩ := hfull
      exact run_stops hi (storeBytes_full (bytesLE_length _ _) hok hn hlen)
    · next hroom =>
      obtain ⟨t, ht, hp, ⟨h1, h2, h3, h4, h5, h6, -⟩, ho⟩ :=
        run_core (f := f) hi (storeBytes_ok (bytesLE_length _ _) hok hroom) ⟨rfl, rfl, rfl⟩
      refine ⟨t, ht, hp, ⟨fun x => ?_, ?_, h1, h2, h5, h6⟩, ho⟩
      · rw [h3, putBytes_get, bytesLE_length]
        split
        · next hx => rw [bytesLE_getD _ _ _ (by omega)]
        · rfl
      · rw [h4]
        exact savedUndo_get _ _

end Store

end Sys2Proof.Machine

namespace Sys2Proof
open Sys2Proof.Machine

/-- Settles O21. -/
theorem loadsReadDataSpace : Obligations.LoadsReadDataSpace := by
  intro h d a imm s n i addr stops loads bytes
  refine ⟨fun len c hc hi => ?single, fun hd hi => ?pair⟩
  case single =>
    simp only [List.mem_cons, Prod.mk.injEq, List.not_mem_nil, or_false] at hc
    obtain ⟨rfl, rfl⟩ | ⟨rfl, rfl⟩ | ⟨rfl, rfl⟩ | ⟨rfl, rfl⟩ := hc
    · exact loadOp_result 1 hi
    · exact loadOp_result 2 hi
    · exact loadOp_result 4 hi
    · exact loadOp_result 8 hi
  case pair =>
    let put (bs : List (BitVec 8)) (c : Core) : Core := (c.setReg d.toNat (BitVec.ofNat 64 (ofBytesLE (bs.take 8)))).setReg (d.toNat + 1)
      (BitVec.ofNat 64 (ofBytesLE (bs.drop 8)))
    have hrun := run_load (len := 16) (a := a) (imm := imm) (put := put) hi (memAddr_eq _ _ _) (fun bs c j => reg_two c d.toNat _ _ j)
      (fun _ _ => ⟨rfl, rfl, rfl, rfl, rfl, rfl, rfl⟩)
    obtain ⟨hlo, hhi⟩ := dataBytes_half s.dev n i addr
    have hexec : exec (.ldp h d a imm) s = run (runOp h { slot := .mem, cycles := 4, writesG := [d.toNat, d.toNat + 1] } fun dv i c =>
        match loadBytes dv h.rn.val i c (memAddr i a imm) 16 with
        | .error e => .error e
        | .ok (bs, c) => .ok (put bs c)) s := by
      show execLdp h d a imm s = _
      rw [execLdp, pair_legal hd] <;> rfl
    simp only [stops, loads, hexec]
    simp only [n, i, addr, Safety.src] at hlo hhi ⊢
    simp only [hlo, hhi] at hrun
    exact hrun

/-- Settles O22. -/
theorem storesWriteDataSpace : Obligations.StoresWriteDataSpace := by
  intro h d a imm s n r addr lo high stops stores
  have single (len : Nat) (his : Safety.Issues h { slot := .mem, cycles := 2 } s.dev) :=
    run_store (a := a) (imm := imm) (val := fun i => (i.reg d.toNat).toNat) len his (memAddr_eq _ _ _) rfl
  refine ⟨fun len c hc his => ?single, fun hd his => ?pair⟩
  case single =>
    simp only [List.mem_cons, Prod.mk.injEq, List.not_mem_nil, or_false] at hc
    obtain ⟨rfl, rfl⟩ | ⟨rfl, rfl⟩ | ⟨rfl, rfl⟩ | ⟨rfl, rfl⟩ := hc
    · exact single 1 his
    · exact single 2 his
    · exact single 4 his
    · exact single 8 his
  case pair =>
    have hbytes (i : Core) : bytesLE 8 (i.reg d.toNat).toNat ++ bytesLE 8 (i.reg (d.toNat + 1)).toNat =
        bytesLE 16 ((i.reg d.toNat).toNat + 2 ^ 64 * (i.reg (d.toNat + 1)).toNat) :=
      bytesLE_append 8 8 _ _ (BitVec.isLt _)
    have hexec : exec (.stp h d a imm) s = run (runOp h { slot := .mem, cycles := 3 } fun _ i c =>
        storeBytes (memAddr i a imm) (bytesLE 16 ((i.reg d.toNat).toNat + 2 ^ 64 * (i.reg (d.toNat + 1)).toNat)) c) s := by
      show execStp h d a imm s = _
      simp only [execStp, pair_legal hd, hbytes]
    simp only [stores, stops, hexec]
    exact run_store (a := a) (imm := imm) (val := fun i => (i.reg d.toNat).toNat + 2 ^ 64 * (i.reg (d.toNat + 1)).toNat) 16 his
      (memAddr_eq _ _ _) rfl

end Sys2Proof
end

section
/-!
Queues, posts, status reads and what a bundle asks of the other units (R57, R59-R62, R65).
-/
namespace Sys2Proof.Machine
open Sys2Proof Sys2Proof.SMapLaws

/-! ## Queue pops and posts -/

/-- The effect of a queue pop: the registers it writes where there was an entry, and the predicate. -/
def popInto (p d : Nat) (w : Option (Word64 × Word64)) (c : Core) : Core :=
  match w with
  | none => c.setPred p false
  | some w => ((c.setReg d w.1).setReg (d + 1) w.2).setPred p true

/-- What a register reads after a queue pop. -/
def popReg (d : Nat) (w : Option (Word64 × Word64)) (old : Word64) (j : Nat) : Word64 :=
  match w with
  | none => old
  | some w => if j = d then w.1 else if j = d + 1 then w.2 else old

theorem popInto_reg (p d : Nat) (w : Option (Word64 × Word64)) (c : Core) (j : Nat) :
    (popInto p d w c).reg j = popReg d w (c.reg j) j := by
  have hg (c : Core) (b : Bool) : (c.setPred p b).reg j = c.reg j := reg_congr (setPred_rest p b c).2.2.2.1 j
  cases w with
  | none => exact hg _ _
  | some w =>
    refine (hg _ _).trans ((reg_two _ _ _ _ _).trans ?_)
    simp only [popReg, List.mem_cons, List.not_mem_nil, or_false]
    by_cases h1 : j = d <;> by_cases h2 : j = d + 1 <;> simp [h1, h2]

theorem popInto_pred {p : Nat} (hp : p < 8) (d : Nat) (w : Option (Word64 × Word64)) (c : Core) {j : Nat} (hj : j < 8) :
    (popInto p d w c).pred j = if j = p ∧ j ≠ 0 then w.isSome else c.pred j := by
  cases w with
  | none => exact pred_setPred' _ _ hp hj
  | some w => exact pred_setPred' _ _ hp hj

/-- What a queue pop leaves of its core beside registers and predicates. -/
theorem popInto_rest (p d : Nat) (w : Option (Word64 × Word64)) (c : Core) :
    SameAsks (popInto p d w c) c ∧ (popInto p d w c).data = c.data ∧ (popInto p d w c).ret = c.ret ∧
      (popInto p d w c).outbox = c.outbox ∧ (popInto p d w c).inbox = c.inbox ∧ (popInto p d w c).fifo = c.fifo := by
  cases w with
  | none =>
    obtain ⟨h1, h2, h3, -, h5, h6, h7, h8, h9, -⟩ := setPred_rest p false c
    exact ⟨⟨h1, h2, h3⟩, h5, h6, h7, h8, h9⟩
  | some w =>
    obtain ⟨h1, h2, h3, -, h5, h6, h7, h8, h9, -⟩ := setPred_rest p true ((c.setReg d w.1).setReg (d + 1) w.2)
    exact ⟨⟨h1, h2, h3⟩, h5, h6, h7, h8, h9⟩

/-- A queue pop that issues, from a core whose queues are already as it leaves them. -/
theorem run_pop {h : OpHdr} {o : OpShape} {f : Dev → Core → Core → OpResult} {s : State} {p d : Nat} {w : Option (Word64 × Word64)}
    {c : Core} (hp : p < 8) (hi : Safety.Issues h o s.dev)
    (hf : f (snap h.rn.val s.dev) (Safety.issueOf (runnelOf s.dev h.rn.val)) (runnelOf s.dev h.rn.val).core = .ok (popInto p d w c))
    (hc : ∃ fifo inbox popped, c = { (runnelOf s.dev h.rn.val).core with fifo := fifo, inbox := inbox, popped := popped }) :
    ∃ t, run (runOp h o f) s = .next t ∧ t.pending = s.pending ∧
      (let y := (runnelOf t.dev h.rn.val).core
      let x := (runnelOf s.dev h.rn.val).core
      (∀ j, y.reg j = popReg d w (x.reg j) j) ∧
      (∀ j, j < 8 → y.pred j = if j = p ∧ j ≠ 0 then w.isSome else x.pred j) ∧
      (y.fifo = c.fifo ∧ y.inbox = c.inbox) ∧ y.data = x.data ∧ y.ret = x.ret ∧ y.outbox = x.outbox) ∧ Safety.OnlyCore h s.dev t.dev := by
  obtain ⟨hasks, hdata, hret, hout, hin, hfifo⟩ := popInto_rest p d w c
  have hreg := popInto_reg p d w c
  have hpred := fun j hj => popInto_pred hp d w c (j := j) hj
  obtain ⟨fifo, inbox, popped, rfl⟩ := hc
  obtain ⟨t, ht, hq, ⟨h1, h2, h3, -, h5, h6, h7, h8, -⟩, ho⟩ := run_core hi hf hasks
  refine ⟨t, ht, hq, ⟨fun j => ?_, fun j hj => ?_, ⟨h8.trans hfifo, h7.trans hin⟩, h3.trans hdata, h5.trans hret, h6.trans hout⟩, ho⟩
  · exact (reg_congr h1 j).trans (hreg j)
  · exact (pred_congr h2 j).trans (hpred j hj)

theorem snap_core (n m : Nat) (d : Dev) : (runnelOf (snap n d) m).core = (runnelOf d m).core ∧
    (runnelOf (snap n d) m).arrived = (runnelOf d m).arrived := by
  by_cases h : m = n
  · subst h; rw [snap_issue]; exact ⟨rfl, rfl⟩
  · rw [snap_ne h]; exact ⟨rfl, rfl⟩

theorem snap_basinPosts (n : Nat) (d : Dev) : (snap n d).sch.basinPosts = d.sch.basinPosts := by
  unfold snap; split <;> rfl

theorem postsHeld_snap (n t : Nat) (d : Dev) : postsHeld (snap n d) t = postsHeld d t := by
  simp only [postsHeld, postsTo, snap_core, snap_basinPosts]

theorem setPred_pred {c : Core} {p j : Nat} (b : Bool) (hp : p < 8) (hj : j < 8) :
    (c.setPred p b).pred j = if j = p ∧ j ≠ 0 then b else c.pred j := pred_setPred' _ _ hp hj

/-- A post that issues, with the outbox it leaves. -/
theorem run_post {h : OpHdr} {o : OpShape} {f : Dev → Core → Core → OpResult} {s : State} {p : Nat} {b : Bool} {out : List Post}
    (hp : p < 8) (hi : Safety.Issues h o s.dev)
    (hf : f (snap h.rn.val s.dev) (Safety.issueOf (runnelOf s.dev h.rn.val)) (runnelOf s.dev h.rn.val).core =
      .ok (({ (runnelOf s.dev h.rn.val).core with outbox := out }).setPred p b)) :
    ∃ t, run (runOp h o f) s = .next t ∧ t.pending = s.pending ∧
      (let y := (runnelOf t.dev h.rn.val).core
      let x := (runnelOf s.dev h.rn.val).core
      (∀ j, j < 8 → y.pred j = if j = p ∧ j ≠ 0 then b else x.pred j) ∧ y.outbox = out ∧
        y.g = x.g ∧ y.data = x.data ∧ y.ret = x.ret ∧ y.inbox = x.inbox) ∧ Safety.OnlyCore h s.dev t.dev := by
  obtain ⟨k1, k2, k3, k4, k5, k6, k7, k8, -⟩ := setPred_rest p b { (runnelOf s.dev h.rn.val).core with outbox := out }
  obtain ⟨t, ht, hq, ⟨h1, h2, h3, -, h5, h6, h7, -⟩, ho⟩ := run_core hi hf ⟨k1, k2, k3⟩
  exact ⟨t, ht, hq, ⟨fun j hj => (pred_congr h2 j).trans (setPred_pred b hp hj), h6.trans k7, h1.trans k4, h3.trans k5, h5.trans k6,
    h7.trans k8⟩, ho⟩

/-! ## Bundles that fall through -/

/-- The bundle of an operation that ends it and leaves control alone: what it counts and asks goes out (R57). -/
theorem runOp_fallsThrough {h : OpHdr} {o : OpShape} {f : Dev → Core → Core → OpResult} {d : Dev} {c : Core}
    (hst : (runnelOf d h.rn.val).st = .running) (hcyc : (runnelOf d h.rn.val).cyc < 2000)
    (hbad : bundleBad (runnelOf d h.rn.val) o = false) (hmed : o.slot = .media → h.rn.val < 32)
    (hg : guardOn (Safety.issueOf (runnelOf d h.rn.val)) h.guard = true) (hlast : h.last = true)
    (hf : f (snap h.rn.val d) (Safety.issueOf (runnelOf d h.rn.val)) (runnelOf d h.rn.val).core = .ok c) (hctl : c.ctl = .none) :
    ∃ e, Safety.Keeps [.sch, .free] d e ∧ (runnelOf e h.rn.val).core.reqs = [] ∧ (runnelOf e h.rn.val).core.xfers = c.xfers ∧
      runOp h o f d = c.reqs.foldl (fun d q => unitDo h.rn.val q d) (c.counts.foldl (fun d k => count (0x3000 + 66 * h.rn.val + 2 + k) d) e) := by
  have heq := runOp_eq (f := f) hst hcyc hbad hmed hg
  simp only [hf, hlast, if_true] at heq
  rw [heq]
  unfold bundleEnd
  rw [placed_runnel]
  simp only [hctl, control, reduceCtorEq, decide_false, Bool.not_false, if_true]
  exact ⟨_, .step (onRunnel_keeps _ _ _) rfl (placed_only h o c d).1, by rw [runnelOf_onRunnel_same], by rw [runnelOf_onRunnel_same], rfl⟩

theorem count_eq_bump {i : Nat} {d : Dev} (hs : (d.obs.ctrs.get {} i).sat = false) (hv : (d.obs.ctrs.get {} i).val + 2 < 2 ^ 48) :
    count i d = bump i d ∧ (bump i d).obs.ctrs.get {} i = { d.obs.ctrs.get {} i with val := (d.obs.ctrs.get {} i).val + 1 } := by
  have hinc : (d.obs.ctrs.get {} i).inc = { d.obs.ctrs.get {} i with val := (d.obs.ctrs.get {} i).val + 1 } := by
    unfold Ctr.inc
    rw [if_neg (by simp [hs]), if_neg (by omega), if_neg (by omega)]
  have hget : (bump i d).obs.ctrs.get {} i = { d.obs.ctrs.get {} i with val := (d.obs.ctrs.get {} i).val + 1 } :=
    (get_upd_same _ _ _ _).trans hinc
  refine ⟨?_, hget⟩
  simp only [count, hget, hs]
  rfl

theorem bump_get_ne {i j : Nat} (h : j ≠ i) (d : Dev) : (bump i d).obs.ctrs.get {} j = d.obs.ctrs.get {} j := get_upd_ne _ _ _ h _

/-! ## Descriptors -/

theorem chanOf_onChan_same (c : Nat) (f : Chan → Chan) (d : Dev) : chanOf (onChan c f d) c = f (chanOf d c) := get_upd_same _ _ _ _

theorem operand32_snap (n a : Nat) (d : Dev) (i : Core) :
    operand32 (snap n d) n i a = if 0x40000 < a + 32 then none else some (dataBytes d n i a 32) := by
  unfold operand32
  rw [dataBytes_snap]
  by_cases h : 0x40000 < a + 32
  · rw [if_neg (by omega), if_pos h]
  · rw [if_pos (by omega), if_neg h]

theorem descAt_bad {n a : Nat} {d : Dev} {i : Core}
    (h : a < 0x10000 ∨ 0x18000 < a + 32 ∨ descLen (dataBytes d n i a 32) = 0) : descAt (snap n d) n i a = .error 8 := by
  simp only [descAt, dataBytes_snap]
  by_cases h1 : a < 0x10000 ∨ 0x18000 < a + 32
  · rw [if_pos h1]
  · rw [if_neg h1, if_pos (by tauto)]

theorem descAt_ok {n a : Nat} {d : Dev} {i : Core}
    (h : ¬ (a < 0x10000 ∨ 0x18000 < a + 32 ∨ descLen (dataBytes d n i a 32) = 0)) :
    descAt (snap n d) n i a = .ok (dataBytes d n i a 32) := by
  simp only [descAt, dataBytes_snap]
  rw [if_neg (by tauto), if_neg (by tauto)]

/-- Saving blocks changes the undo buffer alone (R67). -/
theorem undoSave_only {a : Nat} {c c' : Core} (h : undoSave a c = some c') : ∃ u, c' = { c with undo := u } := by
  simp only [undoSave] at h
  split at h
  · exact ⟨c.undo, by simpa using h.symm⟩
  · split at h
    · cases h
    · exact ⟨_, by simpa using h.symm⟩

theorem undoSaveAll_only {a len : Nat} {c c' : Core} (h : undoSaveAll a len c = some c') : ∃ u, c' = { c with undo := u } := by
  have key (ks : List Nat) (o : Option Core) (ho : ∀ x, o = some x → ∃ u, x = { c with undo := u }) (x : Core)
      (hx : ks.foldl (fun (c : Option Core) k => match c with
        | none => none
        | some c => undoSave ((a / 64 + k) * 64) c) o = some x) : ∃ u, x = { c with undo := u } := by
    induction ks generalizing o with
    | nil => exact ho x hx
    | cons k ks ih =>
      refine ih _ (fun y hy => ?_) hx
      cases o with
      | none => cases hy
      | some z =>
        obtain ⟨u, rfl⟩ := ho z rfl
        obtain ⟨w, rfl⟩ := undoSave_only hy
        exact ⟨w, rfl⟩
  exact key _ (some c) (fun x hx => ⟨c.undo, by simpa using hx.symm⟩) c' h

/-- An operation that issues before its bundle's end, with what it adds to the bundle's requests. -/
theorem run_asks {h : OpHdr} {o : OpShape} {f : Dev → Core → Core → OpResult} {s : State} {c : Core} (hlast : h.last = false)
    (hi : Safety.Issues h o s.dev)
    (hf : f (snap h.rn.val s.dev) (Safety.issueOf (runnelOf s.dev h.rn.val)) (runnelOf s.dev h.rn.val).core = .ok c) :
    ∃ t, run (runOp h o f) s = .next t ∧ t.pending = s.pending ∧ CoreSame (runnelOf t.dev h.rn.val).core c ∧
      (runnelOf t.dev h.rn.val).core.reqs = c.reqs ∧ Safety.OnlyCore h s.dev t.dev := by
  have hl : h.last = true → c.ctl = .none ∧ c.reqs = [] ∧ c.counts = [] := fun hh => by rw [hlast] at hh; cases hh
  obtain ⟨⟨h1, h2, h3, h4, h5, h6, h7, h8, h9, h10⟩, ho⟩ := runOp_issues hi hf hl
  exact ⟨_, runOp_run hi hf hl, rfl, ⟨h1, h2, h3, h4, h5, h6, h7, h8, h9⟩, (h10 hlast).2.1, ho⟩

/-- An operation whose whole effect is one more request. -/
theorem run_request {h : OpHdr} {o : OpShape} {f : Dev → Core → Core → OpResult} {s : State} {q : UnitReq} (hlast : h.last = false)
    (hi : Safety.Issues h o s.dev)
    (hf : f (snap h.rn.val s.dev) (Safety.issueOf (runnelOf s.dev h.rn.val)) (runnelOf s.dev h.rn.val).core =
      .ok { (runnelOf s.dev h.rn.val).core with reqs := (runnelOf s.dev h.rn.val).core.reqs ++ [q] }) :
    ∃ u, run (runOp h o f) s = .next u ∧ u.pending = s.pending ∧
      (runnelOf u.dev h.rn.val).core.reqs = (runnelOf s.dev h.rn.val).core.reqs ++ [q] ∧ Safety.RegResult h [] (fun _ => 0) s.dev u.dev := by
  obtain ⟨t, ht, hp, ⟨h1, h2, h3, -, h5, h6, -⟩, hr, ho⟩ := run_asks hlast hi hf
  exact ⟨t, ht, hp, hr, fun i => (reg_congr h1 i).trans (if_neg List.not_mem_nil).symm, h2, h3, h5, h6, ho⟩

theorem zeros_getD (k : Nat) : ([0, 0, 0, 0] : List (BitVec 8)).getD k 0 = 0 := by
  match k with
  | 0 | 1 | 2 | 3 => rfl
  | k + 4 => rfl

/-- The effect of XMOV on its core (R62, R67): the model's own function of the devices and cores its bundle gives it. -/
def xmovEffect (n a p : Nat) (dv : Dev) (i c : Core) : OpResult :=
  match descAt dv n i (i.reg a).toNat with
  | .error e => .error e
  | .ok t =>
    if descBad t then .error 8
    else if 16 ≤ i.xfers.length then .ok (c.setPred p false)
    else match undoSaveAll ((i.reg a).toNat + 28) 4 c with
      | none => .error 6
      | some c => .ok ((putBytes ((i.reg a).toNat + 28) [0, 0, 0, 0] { c with reqs := c.reqs ++ [.xmov (i.reg a).toNat t] }).setPred p true)

theorem exec_xmov_effect (h : OpHdr) (a : BitVec 5) (f : BitVec 7) (s : State) : exec (.xmov h a f) s =
    run (runOp h { slot := .xfer, cycles := 2, writesP := [f.toNat % 8] } (xmovEffect h.rn.val a.toNat (f.toNat % 8))) s := rfl

theorem xmovEffect_error {n a p e : Nat} {dv : Dev} {i : Core} (c : Core) (h : descAt dv n i (i.reg a).toNat = .error e) :
    xmovEffect n a p dv i c = .error e := by
  simp only [xmovEffect, h]

theorem xmovEffect_reserved {n a p : Nat} {dv : Dev} {i : Core} (c : Core) {t : List (BitVec 8)}
    (h : descAt dv n i (i.reg a).toNat = .ok t) (hres : descBad t = true) : xmovEffect n a p dv i c = .error 8 := by
  simp only [xmovEffect, h, hres, if_true]

theorem xmovEffect_full {n a p : Nat} {dv : Dev} {i : Core} (c : Core) {t : List (BitVec 8)}
    (h : descAt dv n i (i.reg a).toNat = .ok t) (hres : descBad t = false) (hfull : 16 ≤ i.xfers.length) :
    xmovEffect n a p dv i c = .ok (c.setPred p false) := by
  simp only [xmovEffect, h, hres, hfull, Bool.false_eq_true, if_false, if_true]

theorem xmovEffect_room {n a p : Nat} {dv : Dev} {i : Core} (c : Core) {t : List (BitVec 8)}
    (h : descAt dv n i (i.reg a).toNat = .ok t) (hres : descBad t = false) (hroom : ¬ 16 ≤ i.xfers.length) :
    xmovEffect n a p dv i c = match undoSaveAll ((i.reg a).toNat + 28) 4 c with
      | none => .error 6
      | some c => .ok ((putBytes ((i.reg a).toNat + 28) [0, 0, 0, 0] { c with reqs := c.reqs ++ [.xmov (i.reg a).toNat t] }).setPred p true) := by
  simp only [xmovEffect, h, hres, hroom, Bool.false_eq_true, if_false]

/-- What a register write leaves of its core. -/
theorem setReg_leaves (r : Nat) (v : Word64) (c : Core) : (c.setReg r v).p = c.p ∧ (c.setReg r v).data = c.data ∧ (c.setReg r v).ret = c.ret ∧
    (c.setReg r v).outbox = c.outbox ∧ (c.setReg r v).ctl = c.ctl ∧ (c.setReg r v).reqs = c.reqs ∧ (c.setReg r v).counts = c.counts :=
  ⟨rfl, rfl, rfl, rfl, rfl, rfl, rfl⟩

theorem setPred_undo (p : Nat) (b : Bool) (c : Core) : (c.setPred p b).undo = c.undo := by
  unfold Core.setPred; split <;> rfl

end Sys2Proof.Machine

namespace Sys2Proof
open Sys2Proof.Machine

/-- Settles O23. -/
theorem queuePops : Obligations.QueuePops := by
  intro h d f s x i pops hd
  have hp : f.toNat % 8 < 8 := Nat.mod_lt _ (by decide)
  have hslot : exec (.slotpop h d f) s = run (runOp h
      { slot := .mem, cycles := 3, writesG := [d.toNat, d.toNat + 1], writesP := [f.toNat % 8] } fun _ i c => match i.fifo with
        | [] => .ok (popInto (f.toNat % 8) d.toNat none c)
        | e :: rest => .ok (popInto (f.toNat % 8) d.toNat (some (e.w0, e.w1)) { c with fifo := rest })) s := by
    show execSlotpop h d f s = _
    rw [execSlotpop, pair_legal hd] <;> rfl
  have hmpop : exec (.mpop h d f) s = run (runOp h
      { slot := .mem, cycles := 4, writesG := [d.toNat, d.toNat + 1], writesP := [f.toNat % 8] } fun _ i c => match i.inbox with
        | [] => .ok (popInto (f.toNat % 8) d.toNat none c)
        | p :: rest => .ok (popInto (f.toNat % 8) d.toNat (some (p.lo, p.hi)) { c with inbox := rest, popped := c.popped ++ [p] })) s := by
    show execMpop h d f s = _
    rw [execMpop, pair_legal hd] <;> rfl
  simp only [pops, hslot, hmpop]
  refine ⟨fun hi => ⟨fun he => ?_, fun e rest he => ?_⟩, fun hi => ⟨fun he => ?_, fun p rest he => ?_⟩⟩
  · exact run_pop (c := x.core) (w := none) hp hi (by simp only [i, x] at he; simp only [he]; rfl) ⟨_, _, _, rfl⟩
  · exact run_pop (c := { x.core with fifo := rest }) (w := some (e.w0, e.w1)) hp hi (by simp only [i, x] at he; simp only [he]; rfl)
      ⟨_, _, _, rfl⟩
  · exact run_pop (c := x.core) (w := none) hp hi (by simp only [i, x] at he; simp only [he]; rfl) ⟨_, _, _, rfl⟩
  · exact run_pop (c := { x.core with inbox := rest, popped := x.core.popped ++ [p] }) (w := some (p.lo, p.hi)) hp hi
      (by simp only [i, x] at he; simp only [he]; rfl) ⟨_, _, _, rfl⟩

/-- Settles O24. -/
theorem postsWaitInTheOutbox : Obligations.PostsWaitInTheOutbox := by
  intro h d a f s x i t waiting held posts ha hi
  have hp : d.toNat % 8 < 8 := Nat.mod_lt _ (by decide)
  let full (dv : Dev) (i : Core) : Bool := decide (16 ≤ i.outbox.length) || decide (64 ≤ postsHeld dv t)
  let eff : Dev → Core → Core → OpResult := fun dv i c =>
    if 44 ≤ t ∧ t ≠ 63 then .error 3
    else if full dv i then .ok (c.setPred (d.toNat % 8) false)
    else .ok (({ c with outbox := c.outbox ++ [({ target := t, lo := i.reg a.toNat, hi := i.reg (a.toNat + 1) } : Post)] }).setPred
      (d.toNat % 8) true)
  have hexec : exec (.mpost h d a f) s = run (runOp h { slot := .mem, cycles := 4, writesP := [d.toNat % 8] } eff) s := by
    show execMpost h d a f s = _
    rw [execMpost, pair_legal ha]
  have hfull : full (snap h.rn.val s.dev) i = true ↔ 16 ≤ i.outbox.length ∨ 64 ≤ held := by
    simp only [full, postsHeld_snap, Bool.or_eq_true, decide_eq_true_eq]
    rfl
  simp only [posts, hexec]
  by_cases ht : 44 ≤ t ∧ t ≠ 63
  · rw [if_pos ht]
    exact run_stops hi (if_pos ht)
  rw [if_neg ht]
  by_cases hf : 16 ≤ i.outbox.length ∨ 64 ≤ held
  · rw [if_pos hf]
    exact run_post (out := x.core.outbox) hp hi ((if_neg ht).trans (if_pos (hfull.mpr hf)))
  · rw [if_neg hf]
    exact run_post hp hi ((if_neg ht).trans (if_neg (mt hfull.mp hf)))

/-- Settles O25. -/
theorem statusReads : Obligations.StatusReads := by
  intro h d a b f imm s n ch die writes
  have hview : viewReg (snap n s.dev) 0 0x300000 = viewReg s.dev 0 0x300000 := by unfold snap; split <;> rfl
  have hmed : (snap n s.dev).med = s.dev.med := (snap_keeps n s.dev).1 .med (by decide)
  have hdie (k : Nat) : dieOf (snap n s.dev) k = dieOf s.dev k := by unfold dieOf; rw [hmed]
  have hchan (k : Nat) : chanOf (snap n s.dev) k = chanOf s.dev k := by unfold chanOf; rw [hmed]
  have htick : (snap n s.dev).glb.tick = s.dev.glb.tick := (snap_keeps n s.dev).1 .tick (by decide)
  have hp : f.toNat % 8 < 8 := Nat.mod_lt _ (by decide)
  refine ⟨fun hi => ?rdtk, fun hi => ?mrb, fun hi => ⟨?mstat, ?mlog⟩, fun hi hctl => ?cnt⟩
  case rdtk => exact exec_writesReg rfl hi (by rw [hview, htick])
  case mrb =>
    exact exec_writesPred (f := fun dv i => (dieOf dv (chanSel n i b * 32 + dieSel i a)).ready) hp rfl hi (by rw [hdie]; rfl)
  case mstat => exact exec_writesReg rfl hi (by rw [hdie, BitVec.ofNat_toNat]; rfl)
  case mlog => exact exec_writesReg rfl hi (by rw [hchan]; rfl)
  case cnt =>
    intro k was hsat hval
    obtain ⟨hst, hcyc, hbad, hmedia, hg, hlast, hreqs, hcounts⟩ := hi
    obtain ⟨d1, hk1, -, -, hrun⟩ := runOp_fallsThrough (o := { slot := .mem })
      (f := fun _ _ c => .ok { c with counts := c.counts ++ [imm.toNat % 64] }) hst hcyc hbad hmedia hg hlast rfl hctl
    simp only [hreqs, hcounts, List.nil_append, List.foldl_cons, List.foldl_nil] at hrun
    have hobs : d1.obs = s.dev.obs := hk1 .obs (by decide)
    have hwas : d1.obs.ctrs.get {} k = was := by rw [hobs]
    obtain ⟨hcount, hnew⟩ := count_eq_bump (i := k) (d := d1) (by rw [hwas]; exact hsat) (by rw [hwas]; exact hval)
    have hkb : Safety.Keeps [.sch, .free, .obs] s.dev (bump k d1) := .step (bump_keeps _ _) rfl (.mono rfl hk1)
    have hexec : exec (.cnt h imm) s = .next { s with dev := bump k d1 } := by
      show Host.Outcome.next { s with dev := finish (stateByte s.dev) (runOp h { slot := .mem } _ s.dev) } = _
      rw [hrun, hcount, finish_same (hkb .glb (by decide)) (hkb .regs (by decide))]
    refine ⟨_, hexec, rfl, by rw [hnew, hwas], fun j hj => ?_, hkb⟩
    exact (bump_get_ne hj d1).trans (by rw [hobs])

/-- Settles O26. -/
theorem unitRequests : Obligations.UnitRequests := by
  intro h d a b f s n x i ch die bytes len64 ctl num mem bad stops asks hlast
  have hp : f.toNat % 8 < 8 := Nat.mod_lt _ (by decide)
  refine ⟨fun hi => ?media, fun hi => ?xmov, fun hi => ?xpoll⟩
  case media =>
    intro t
    have hop := operand32_snap n t s.dev i
    refine ⟨?_, fun hbad => ⟨?_, ?_⟩, fun hok => ⟨?_, ?_⟩⟩
    · split
      · next hhigh =>
        rw [if_pos hhigh] at hop
        exact run_stops hi (by simp only [n, i, x, t] at hop; simp only [hop])
      · next hlow =>
        rw [if_neg hlow] at hop
        exact run_request hlast hi (by simp only [n, i, x, t] at hop; simp only [hop]; rfl)
    · have hdesc := descAt_bad hbad
      exact run_stops hi (by simp only [n, i, x, t] at hdesc; simp only [hdesc])
    · have hdesc := descAt_bad hbad
      exact run_stops hi (by simp only [n, i, x, t] at hdesc; simp only [hdesc])
    · have hdesc := descAt_ok hok
      exact run_request hlast hi (by simp only [n, i, x, t] at hdesc; simp only [hdesc]; rfl)
    · have hdesc := descAt_ok hok
      exact run_request hlast hi (by simp only [n, i, x, t] at hdesc; simp only [hdesc]; rfl)
  case xmov =>
    intro t xmovs
    have hdb : descBad (bytes t 32) = true ↔ (ctl t % 4 = 3 ∧ ctl t / 4 % 4 = 3) ∨ ctl t / 16 % 8 = 7 := by
      simp only [descBad, Bool.or_eq_true, decide_eq_true_eq]
      rfl
    simp only [xmovs, stops, exec_xmov_effect]
    by_cases hbad : bad t
    · rw [if_pos (.inl hbad)]
      exact run_stops hi (xmovEffect_error _ (descAt_bad hbad))
    have hdesc : descAt (snap n s.dev) n i t = .ok (bytes t 32) := descAt_ok hbad
    by_cases hres : descBad (bytes t 32) = true
    · rw [if_pos (.inr (hdb.mp hres))]
      exact run_stops hi (xmovEffect_reserved _ hdesc hres)
    rw [if_neg (not_or.mpr ⟨hbad, mt hdb.mpr hres⟩)]
    have hres := eq_false_of_ne_true hres
    by_cases hfull : 16 ≤ i.xfers.length
    · rw [if_pos hfull]
      obtain ⟨u, hu, hq, ⟨h1, h2, h3, h4, -⟩, hr, ho⟩ := run_asks hlast hi (xmovEffect_full _ hdesc hres hfull)
      obtain ⟨k1, k2, k3, k4, k5, -⟩ := setPred_rest (f.toNat % 8) false x.core
      refine ⟨u, hu, hq, ho, fun j hj => (pred_congr h2 j).trans (setPred_pred _ hp hj), ?_, h4.trans (setPred_undo _ _ _), fun b => ?_, h1.trans k4⟩
      · rw [hr]; exact k2.trans (List.append_nil _).symm
      · rw [h3, k5]; simp only [Bool.false_eq_true, false_and, if_false]
    rw [if_neg hfull]
    have heff := xmovEffect_room (p := f.toNat % 8) x.core hdesc hres hfull
    cases hundo : undoSaveAll (t + 28) 4 x.core with
    | none =>
      have hundo' : undoSaveAll ((i.reg a.toNat).toNat + 28) 4 x.core = none := hundo
      rw [hundo'] at heff
      exact run_stops hi heff
    | some c =>
      have hundo' : undoSaveAll ((i.reg a.toNat).toNat + 28) 4 x.core = some c := hundo
      rw [hundo'] at heff
      obtain ⟨u, hu, hq, ⟨h1, h2, h3, h4, -⟩, hr, ho⟩ := run_asks hlast hi heff
      obtain ⟨k1, k2, k3, k4, k5, -⟩ := setPred_rest (f.toNat % 8) true
        (putBytes (t + 28) [0, 0, 0, 0] { c with reqs := c.reqs ++ [.xmov t (bytes t 32)] })
      obtain ⟨undo, rfl⟩ := undoSaveAll_only hundo
      refine ⟨u, hu, hq, ho, fun j hj => (pred_congr h2 j).trans (setPred_pred _ hp hj), hr.trans k2, h4.trans (setPred_undo _ _ _), fun b => ?_,
        h1.trans k4⟩
      rw [h3, k5, putBytes_get, zeros_getD]
      simp only [true_and]
      rfl
  case xpoll =>
    intro t
    by_cases hout : t < 0x10000 ∨ 0x18000 < t + 32
    · rw [if_pos hout]
      exact run_stops hi (if_pos hout)
    · rw [if_neg hout]
      refine reg_result (c := x.core.setReg d.toNat (BitVec.ofNat 64 (ofBytesLE (bytes (t + 28) 4)))) hi ?_ (fun j => by simp; rfl) ?_
      · have hread : dataBytes (snap n s.dev) n i (t + 28) 4 = bytes (t + 28) 4 := dataBytes_snap _ _ _ _ _ _
        exact (if_neg hout).trans (congrArg (fun y => Except.ok (x.core.setReg d.toNat (BitVec.ofNat 64 (ofBytesLE y)))) hread)
      · exact setReg_leaves _ _ _

/-- Settles O27. -/
theorem requestsGoOutAtTheBundlesEnd : Obligations.RequestsGoOutAtTheBundlesEnd := by
  intro h q s n x hst hcyc hbad hg hlast hctl hcounts hreqs
  obtain ⟨d1, hk1, hr1, hr2, hrun⟩ := runOp_fallsThrough (o := {}) (f := fun _ _ c => .ok c) hst hcyc hbad (by simp) hg hlast rfl hctl
  have hmed : d1.med = s.dev.med := hk1 .med (by decide)
  have hchan (c : Nat) : chanOf d1 c = chanOf s.dev c := by unfold chanOf; rw [hmed]
  simp only [show (runnelOf s.dev h.rn.val).core.counts = [] from hcounts, show (runnelOf s.dev h.rn.val).core.reqs = [q] from hreqs,
    List.foldl_cons, List.foldl_nil] at hrun
  have hexec : exec (.nop h) s = .next { s with dev := finish (stateByte s.dev) (unitDo n q d1) } := by
    show Host.Outcome.next { s with dev := finish (stateByte s.dev) (runOp h {} _ s.dev) } = _
    rw [hrun]
  have hfr (e : Dev) : runnelOf (finish (stateByte s.dev) e) n = runnelOf e n := by unfold runnelOf; rw [finish_sch]
  have hfc (e : Dev) (c : Nat) : chanOf (finish (stateByte s.dev) e) c = chanOf e c := by unfold chanOf; rw [finish_med]
  refine ⟨_, hexec, rfl, ?_, ?_⟩
  · rw [hfr]
    cases q with
    | mcmd c die t =>
      have : (driveTmpl (c * 32 + die) t d1).sch = d1.sch := driveTmpl_keeps _ _ _ .sch (by decide)
      exact (congrArg (fun y : Sch => (y.runnels.get ({} : Runnel) n).core.reqs) this).trans hr1
    | mdin => exact hr1
    | mdout => exact hr1
    | xmov =>
      rw [unitDo, runnelOf_onRunnel_same]
      exact hr1
  · cases q with
    | mcmd c die t => exact ⟨d1, hk1, by rw [finish_med]; rfl⟩
    | mdin c die desc len mem tag =>
      simp only [hfc, unitDo, chanOf_onChan_same, hchan]
    | mdout c die desc len mem tag dem =>
      have htick : d1.glb.tick = s.dev.glb.tick := hk1 .tick (by decide)
      have hread : readTkOf d1 c = readTkOf s.dev c := by unfold readTkOf img; rw [hk1 .glb (by decide)]
      simp only [hfc, unitDo, chanOf_onChan_same, hchan, htick, hread]
    | xmov desc t =>
      simp only [hfr, unitDo, runnelOf_onRunnel_same]
      exact congrArg (· ++ _) hr2

end Sys2Proof
end

section
/-!
Fields of registers, and the commands that reach a service port.
-/
namespace Sys2Proof.Machine
open Sys2Proof Sys2Proof.SMapLaws

/-! ## Fields -/

/-- Two fields of which a write of the first leaves the second. -/
@[reducible] def Apart (f g : Fld) : Prop := g.addr ≠ f.addr ∨ ((f.hi < g.lo ∨ g.hi < f.lo) ∧ f.lo ≤ f.hi ∧ f.hi < 32)

theorem getF_setF_apart {f g : Fld} (h : Apart f g) (v : Nat) (d : Dev) : getF (setF f v d) g = getF d g := by
  rcases h with h | ⟨h, hf, h32⟩
  · exact getF_setF_ne h v d
  · exact getF_setF_other d h v hf h32

theorem getF_setB_apart {f g : Fld} (h : Apart f g) (b : Bool) (d : Dev) : getF (setB f b d) g = getF d g := getF_setF_apart h _ d
theorem getF_addSat_apart {f g : Fld} (h : Apart f g) (n : Nat) (d : Dev) : getF (addSat f n d) g = getF d g := getF_setF_apart h _ d
theorem flag_setF_apart {f g : Fld} (h : Apart f g) (v : Nat) (d : Dev) : flag (setF f v d) g = flag d g := by
  unfold flag; rw [getF_setF_apart h]
theorem flag_setB_apart {f g : Fld} (h : Apart f g) (b : Bool) (d : Dev) : flag (setB f b d) g = flag d g := flag_setF_apart h _ d
theorem flag_addSat_apart {f g : Fld} (h : Apart f g) (n : Nat) (d : Dev) : flag (addSat f n d) g = flag d g := flag_setF_apart h _ d

/-- A field that has room for a value reads as it was written. -/
theorem getF_setF_fits {f : Fld} {v : Nat} (h : f.lo ≤ f.hi ∧ f.hi < 32) (hv : v < 2 ^ (f.hi + 1 - f.lo)) (d : Dev) :
    getF (setF f v d) f = v := by
  rw [getF_setF_same d f v h.1 h.2, Nat.mod_eq_of_lt hv]

theorem flag_setB_at {f : Fld} (h : f.lo ≤ f.hi ∧ f.hi < 32) (b : Bool) (d : Dev) : flag (setB f b d) f = b :=
  flag_setB_same d f b h.1 h.2

/-! ## Service ports -/

theorem readView_touch (p q a : Nat) (d : Dev) : readView (touch p d) q a = readView d q a := by
  unfold touch
  split <;> rfl

/-- What a command that reaches its port leaves is what its effect leaves, once the lock timer restarted (R397, R402). -/
theorem viaPort_runs {s : State} (hb : s.dev.glb.base ∉ [Base.off, .sequencing, .withdrawn]) {p : Nat} {f : Dev → Dev} {c : Instr}
    {E : Dev → Prop} (hc : exec c s = runQ (viaPort p f) s) (h : E (f (touch p s.dev))) :
    ∃ t, exec c s = .next t ∧ t.pending = s.pending ∧ E t.dev :=
  ⟨_, hc, rfl, by rw [viaPort_eq hb]; exact h⟩

/-- What holds of the start and is kept by every step of a loop holds at its end. -/
theorem forEach_inv {α : Type} {P : Dev → Prop} {f : α → Dev → Dev} (h : ∀ a d, P d → P (f a d)) (l : List α) {d : Dev} (hd : P d) :
    P (forEach l f d) := by
  unfold forEach
  induction l generalizing d with
  | nil => exact hd
  | cons a l ih => exact ih (h a d hd)

/-! ## Captures and flushes -/

/-- Putting the values of a function under the keys of a list. -/
theorem foldl_put_get {g : Nat → Word} {k : Nat} (l : List Nat) {m : SMap (Option Word)} (h : k ∈ l ∨ m.get none k = some (g k)) :
    (((l.map fun h => (h, g h)).foldl (fun m e => m.put none e.1 (some e.2)) m : SMap (Option Word))).get none k = some (g k) := by
  induction l generalizing m with
  | nil => simpa using h
  | cons a l ih =>
    refine ih ?_
    by_cases hk : k = a
    · subst hk; exact .inr (get_put_same _ _ _ _)
    · rw [get_put_ne _ _ _ hk]
      rcases h with h | h
      · exact .inl (by simpa [hk] using h)
      · exact .inr h

theorem capture_capt {p a k : Nat} (h : k ∈ capturesOf a) (d : Dev) : (portOf (capture p a d) p).capt.get none k = some (readView d p k) := by
  simp only [capture, portOf_onPort_same]
  exact foldl_put_get _ (.inl h)

theorem ctlRead_captures {p a : Nat} {d : Dev} (hm : macWindowOf a = none) (hr : (regRow a).isSome) (hc : (portOf d p).capt.get none a = none)
    (h1 : a ≠ 0x200000) (h2 : a ≠ 0xD00018) : ctlRead p a d = (readView d p a, capture p a d) := by
  simp only [ctlRead, hm, Option.isNone_iff_eq_none, Option.isSome_iff_ne_none.mp hr, if_false, h1, h2, hc]

/-- A message that ends changes what its port has done of it and sent, nothing else of the port. -/
theorem endMessage_port (p : Nat) (mclass cmd seq status : BitVec 8) (d : Dev) :
    portOf (endMessage p mclass cmd seq status d) p = { portOf d p with
      words := [], doneWords := 0, out := (portOf d p).out ++ [.body (response mclass cmd seq status (soFar (portOf d p) mclass cmd))] } := by
  simp only [endMessage, answer, portSay, portOf_onPort_same]

theorem flushCmdRill_port (p : Nat) (d : Dev) : (portOf (flushCmdRill p d) p).cmd = [] ∧ (portOf (flushCmdRill p d) p).armCmd = false ∧
    (portOf (flushCmdRill p d) p).ev = (portOf d p).ev := by
  refine forEach_inv (P := fun e => (portOf e p).cmd = [] ∧ (portOf e p).armCmd = false ∧ (portOf e p).ev = (portOf d p).ev) (fun x e h => ?_) _ ?_
  · rcases hx : entryInfo x with ⟨seq, mclass, cmd, last⟩
    simp only [endMessage_port]
    exact h
  · rw [portOf_onPort_same]
    exact ⟨rfl, rfl, rfl⟩

/-! ## The semaphore -/

theorem rollBack_txn {r : Nat} (hr : r < 16) (d : Dev) : getF (rollBack r d) F.SVC_TXN_STATE = 0 ∧ getF (rollBack r d) F.SVC_TXN_RESULT = r ∧
    (rollBack r d).svc.shadow = [] ∧ Safety.pending (rollBack r d) 6 = true := by
  unfold rollBack
  refine ⟨?_, ?_, ?_, raiseN_pending _ _ _ (by decide) (.inl rfl)⟩
  · rw [raiseN_getF (by decide), getF_setF_fits (by decide) (by decide)]
  · rw [raiseN_getF (by decide), getF_setF_apart (by decide), getF_setF_fits (by decide) hr]
  · rw [(raiseN_rest _ _ _).shadow]; rfl

/-- A roll-back leaves every field outside SVC_TXN that raising an event leaves. -/
theorem rollBack_getF {f : Fld} (h : f.addr ≠ 0x100004) (he : Safety.eventReg f.addr = false) (r : Nat) (d : Dev) :
    getF (rollBack r d) f = getF d f := by
  unfold rollBack
  rw [raiseN_getF he]
  exact (getF_setF_ne h _ _).trans ((getF_setF_ne h _ _).trans ((getF_setF_ne h _ _).trans (getF_setF_ne h _ _)))

theorem rollBack_pending (r : Nat) {n : Nat} (hn : n < 512) {d : Dev} (h : Safety.pending d n = true) :
    Safety.pending (rollBack r d) n = true := by
  unfold rollBack
  refine raiseN_pending _ _ _ hn (.inr ?_)
  rw [Bank.pending (d := d) (fun a h1 h2 => ?_) hn]
  · exact h
  · have ha : a ≠ 0x100004 := by omega
    exact (regGet_setF_ne ha _ _).trans ((regGet_setF_ne ha _ _).trans ((regGet_setF_ne ha _ _).trans (regGet_setF_ne ha _ _)))

/-- The lock's fields once it is lost, with event 2 where the loss is not a release (R402). -/
def lockLost (c : Nat) (d : Dev) : Dev :=
  whenD (decide (2 ≤ c)) (raiseN 2 ((getF d F.SVC_LOCK_OWNER - 1) + c * 16)) (setF F.SVC_LOCK_OWNER 0 (setF F.SVC_LOCK_LOSS c d))

theorem loseLock_eq {c : Nat} {d : Dev} (ho : getF d F.SVC_LOCK_OWNER ≠ 0) : loseLock c d =
    if getF (lockLost c d) F.SVC_TXN_STATE = 1 then rollBack (lossResult c) (lockLost c d) else lockLost c d := by
  simp only [loseLock, if_neg ho, lockLost, whenD, decide_eq_true_eq]

theorem lockLost_fields {c : Nat} (hc : c < 16) (d : Dev) : getF (lockLost c d) F.SVC_LOCK_OWNER = 0 ∧ getF (lockLost c d) F.SVC_LOCK_LOSS = c ∧
    getF (lockLost c d) F.SVC_TXN_STATE = getF d F.SVC_TXN_STATE := by
  have hfield (f : Fld) (he : Safety.eventReg f.addr = false) :
      getF (lockLost c d) f = getF (setF F.SVC_LOCK_OWNER 0 (setF F.SVC_LOCK_LOSS c d)) f := by
    unfold lockLost whenD
    split
    · exact raiseN_getF he
    · rfl
  refine ⟨?_, ?_, ?_⟩
  · rw [hfield _ (by decide), getF_setF_fits (by decide) (by decide)]
  · rw [hfield _ (by decide), getF_setF_apart (by decide), getF_setF_fits (by decide) hc]
  · rw [hfield _ (by decide), getF_setF_apart (by decide), getF_setF_apart (by decide)]

theorem loseLock_lost {c : Nat} (hc : c < 16) {d : Dev} (ho : getF d F.SVC_LOCK_OWNER ≠ 0) :
    getF (loseLock c d) F.SVC_LOCK_OWNER = 0 ∧ getF (loseLock c d) F.SVC_LOCK_LOSS = c ∧
    (2 ≤ c → Safety.pending (loseLock c d) 2 = true) ∧
    (getF d F.SVC_TXN_STATE = 1 → getF (loseLock c d) F.SVC_TXN_STATE = 0 ∧ getF (loseLock c d) F.SVC_TXN_RESULT = lossResult c ∧
      (loseLock c d).svc.shadow = [] ∧ Safety.pending (loseLock c d) 6 = true) := by
  obtain ⟨howner, hloss, htxn⟩ := lockLost_fields hc d
  have hpend (h2 : 2 ≤ c) : Safety.pending (lockLost c d) 2 = true := by
    unfold lockLost whenD
    rw [if_pos (by simpa using h2)]
    exact raiseN_pending _ _ _ (by decide) (.inl rfl)
  have hres : lossResult c < 16 := by unfold lossResult; split <;> decide
  rw [loseLock_eq ho]
  split
  · refine ⟨?_, ?_, fun h2 => rollBack_pending _ (by decide) (hpend h2), fun _ => rollBack_txn hres _⟩
    · rw [rollBack_getF (by decide) (by decide), howner]
    · rw [rollBack_getF (by decide) (by decide), hloss]
  · next h => exact ⟨howner, hloss, hpend, fun h1 => absurd (htxn.trans h1) h⟩

end Sys2Proof.Machine

namespace Sys2Proof
open Sys2Proof.Machine

/-- Settles O28. -/
theorem readsThatAct : Obligations.ReadsThatAct := by
  intro p a bad s hb q runs
  have reach {p c f} {E : Dev → Prop} (hc : exec c s = runQ (viaPort p f) s) (h : E (f (touch p s.dev))) : runs c E := viaPort_runs hb hc h
  clear_value runs
  refine ⟨fun hi hmem hm hr hc h1 h2 => ?low, fun he => ?empty, fun x rest he => ?pop, ?data⟩
  case low =>
    have hne : capturesOf a.toNat ≠ [] := List.ne_nil_of_mem hmem
    refine reach rfl ?_
    rw [if_neg hne, ctlRead_captures hm hr ((congrArg (fun q : SvcPort => q.capt.get none a.toNat) (portOf_touch _ _ _)).trans hc)
      (fun h => h1 (BitVec.eq_of_toNat_eq h)) (fun h => h2 (BitVec.eq_of_toNat_eq h))]
    refine ⟨?_, .step (capture_keeps _ _ _) rfl (touch_keeps _ _)⟩
    rw [capture_capt hmem, readView_touch]
  case empty =>
    refine reach rfl ⟨?_, ?_, ?_, ?_, .step (onPort_keeps _ _ _) rfl (touch_keeps _ _)⟩ <;>
      simp only [rillPop, portOf_onPort_same, portOf_touch, q, he] at he ⊢ <;> simp only [he]
  case pop =>
    refine reach rfl ⟨?_, ?_, ?_, ?_, ?_, .step (onPort_keeps _ _ _) rfl (touch_keeps _ _)⟩ <;>
      simp only [rillPop, portOf_onPort_same, portOf_touch, q, he] at he ⊢ <;> simp only [SMapLaws.get_put_same]
  case data =>
    refine reach rfl ?_
    simp only [grtRead, getF_setF_same _ F.GRT_RD_ADDR_ADDR _ (by decide) (by decide), touch_getF]
    rfl

/-- Settles O29. -/
theorem rillFlushes : Obligations.RillFlushes := by
  intro p target mid s runs port
  have reach hb {p c f} {E : Dev → Prop} (hc : exec c s = runQ (viaPort p f) s) (h : E (f (touch p s.dev))) : runs c E := viaPort_runs hb hc h
  have direct {c f} {E : Dev → Prop} (hc : exec c s = runQ f s) (h : E (f s.dev)) : runs c E := ⟨_, hc, rfl, h⟩
  clear_value runs
  refine ⟨fun hb => ⟨fun hm => ?_, fun hm => ?_, fun hm => ?_, fun hm => ?_⟩, fun ha => ?_, fun ha => ?_⟩
  · refine reach hb rfl ?_
    simp [armFlush, hm, rillFlush, flushEv, port, portOf_onPort_same]
  · refine reach hb rfl ?_
    simp [armFlush, hm, port, portOf_onPort_same]
  · refine reach hb rfl ?_
    simp [armFlush, hm, rillFlush, port, portOf_onPort_same, flushCmdRill_port]
  · refine reach hb rfl ?_
    simp [armFlush, hm, port, portOf_onPort_same]
  · refine direct rfl ?_
    simp only [port] at ha
    simp [rillFlush, ha, flushEv, port, portOf_onPort_same]
  · refine direct rfl ?_
    simp only [port] at ha
    simp [rillFlush, ha, port, flushCmdRill_port]

/-- Settles O30. -/
theorem semaphore : Obligations.Semaphore := by
  intro p s owner txn loss refused runs rolled
  have reach hb {p c f} {E : Dev → Prop} (hc : exec c s = runQ (viaPort p f) s) (h : E (f (touch p s.dev))) : runs c E := viaPort_runs hb hc h
  have direct {c f} {E : Dev → Prop} (hc : exec c s = runQ f s) (h : E (f s.dev)) : runs c E := ⟨_, hc, rfl, h⟩
  clear_value runs
  have hp : p.val + 1 < 4 := by have := p.isLt; omega
  have hrelease (h : owner s.dev = p.val + 1) : release p.val (touch p.val s.dev) = loseLock 1 (touch p.val s.dev) := by
    simp only [release, holdsLock, touch_getF, decide_eq_true_eq]
    exact if_pos h
  have hrefused (h : owner s.dev ≠ p.val + 1) :
      release p.val (touch p.val s.dev) = setB F.SVC_ERR_LOCK_REFUSED true (touch p.val s.dev) := by
    simp only [release, holdsLock, touch_getF, decide_eq_true_eq]
    exact if_neg h
  refine ⟨fun hb => ⟨fun ho => ?_, fun ho => ?_, fun ho => ?_, fun ho => ?_⟩, fun ho ht hi => ?_⟩
  · refine reach hb rfl ?_
    have heq : acquire p.val (touch p.val s.dev) = raiseN 1 p.val (onSvc (fun v => { v with
        lastOwnerB := decide (p.val = 1), idleSince := (touch p.val s.dev).glb.tick }) (setF F.SVC_LOCK_OWNER (p.val + 1) (touch p.val s.dev))) := by
      simp only [acquire, touch_getF]
      exact if_neg (not_not.mpr ho)
    rw [heq]
    refine ⟨?_, raiseN_pending _ _ _ (by decide) (.inl rfl)⟩
    show getF _ _ = _
    rw [raiseN_getF (by decide), getF_onSvc, getF_setF_fits (by decide) hp]
  · refine reach hb rfl ?_
    have heq : acquire p.val (touch p.val s.dev) = setB F.SVC_ERR_LOCK_REFUSED true (touch p.val s.dev) := by
      simp only [acquire, touch_getF]
      exact if_pos ho
    rw [heq]
    exact ⟨(getF_setB_apart (by decide) _ _).trans touch_getF, flag_setB_at (by decide) _ _⟩
  · refine reach hb rfl ?_
    rw [hrelease ho]
    obtain ⟨h1, h2, -, h4⟩ := loseLock_lost (c := 1) (d := touch p.val s.dev) (by decide) (by rw [touch_getF, show getF s.dev F.SVC_LOCK_OWNER = _ from ho]; exact Nat.succ_ne_zero _)
    exact ⟨h1, h2, fun ht => h4 (touch_getF.trans ht)⟩
  · refine reach hb rfl ?_
    rw [hrefused ho]
    exact ⟨(getF_setB_apart (by decide) _ _).trans touch_getF, flag_setB_at (by decide) _ _⟩
  · refine direct rfl ?_
    obtain ⟨h1, h2, h3, h4⟩ := loseLock_lost (c := 3) (by decide) ho
    have heq : lockTimeout s.dev = loseLock 3 s.dev := if_pos ⟨ht, hi⟩
    rw [heq]
    exact ⟨h1, h2, h3 (by decide), h4⟩

end Sys2Proof
end

section
/-!
Writes of registers, and configuration transactions (R8, R10, R403-R405).
-/
namespace Sys2Proof.Machine
open Sys2Proof Sys2Proof.SMapLaws

/-! ## Register writes -/

/-- The registers whose WO fields start something. -/
def cmdAddrs : List Nat := (List.range 16).map (fun i => 0x40002C + 0x100 * i) ++
  [0x100104, 0x100124, 0x210, 0x100000, 0x100004, 0x200008, 0x300024, 0x50001C, 0x600038, 0x80003C, 0x900000, 0xA00008, 0xB00008, 0xC00014,
    0xD00010, 0xE00018, 0xE00100]

/-- Each of them has a WO field in its row. -/
theorem cmdAddrs_wo : ∀ a ∈ cmdAddrs, (regRow a).any (fun r => r.wo != 0) = true := by decide

theorem not_cmdAddr {a : Nat} {row : RegRow} (hr : regRow a = some row) (hw : row.wo = 0) : a ∉ cmdAddrs := fun h => by
  have := cmdAddrs_wo a h
  rw [hr] at this
  simp [hw] at this

/-- A register without a WO field starts nothing. -/
theorem wordCmd_none {a : Nat} {row : RegRow} (hr : regRow a = some row) (hw : row.wo = 0) (p : Nat) (mid : BitVec 2) (v : Word) (d : Dev) :
    wordCmd p a mid v d = d := by
  have hno := not_cmdAddr hr hw
  have hlink : ¬ (0x400000 ≤ a ∧ a < 0x401000 ∧ a % 0x100 = 0x2C) := fun ⟨h1, h2, h3⟩ => hno <| by
    refine List.mem_append_left _ (List.mem_map.mpr ⟨(a - 0x400000) / 0x100, List.mem_range.mpr ?_, ?_⟩) <;> omega
  have hport : ¬ (a = 0x100104 ∨ a = 0x100124) := by
    rintro (rfl | rfl) <;> exact hno (by decide)
  simp only [wordCmd, if_neg hlink, if_neg hport]
  split
  case h_16 => rfl
  all_goals exact absurd (by decide) hno

/-- A write of a register without command fields that stages nothing (R8). -/
theorem ctlWrite_plain {p a : Nat} {row : RegRow} {v : Word} {d : Dev} (hm : macWindowOf a = none) (hr : regRow a = some row)
    (hv : reservedEnc a v.toNat = false) (hw : row.wo = 0) (mid : BitVec 2) :
    ctlWrite p a mid v d = writeW1c p a row v (writeRw a row v (if row.rwl ≠ 0 ∧ stages d p then stage a (v &&& row.rwl) d else d)) := by
  simp only [ctlWrite, hm, hr, hv, Bool.false_eq_true, if_false]
  exact wordCmd_none hr hw _ _ _ _

theorem ctlWrite_reserved {p a : Nat} {row : RegRow} {v : Word} {d : Dev} (hm : macWindowOf a = none) (hr : regRow a = some row)
    (hv : reservedEnc a v.toNat = true) (mid : BitVec 2) : ctlWrite p a mid v d = raiseN 3 a d := by
  simp only [ctlWrite, hm, hr, hv, if_true]

theorem keepAll (x : Word) : x &&& ~~~(0 : Word) = x := BitVec.and_allOnes
theorem keepAll_or (x v : Word) : (x &&& ~~~(0 : Word)) ||| (v &&& 0) = x := by
  rw [keepAll, show v &&& (0 : Word) = 0 from BitVec.and_zero]
  exact BitVec.or_zero

theorem writeRw_regs {a : Nat} (ha : a ≠ 0xE00000) (row : RegRow) (v : Word) (d : Dev) :
    regGet (writeRw a row v d) a = (regGet d a &&& ~~~row.rw) ||| (v &&& row.rw) ∧
      (∀ b, b ≠ a → regGet (writeRw a row v d) b = regGet d b) := by
  unfold writeRw
  by_cases h : row.rw = 0
  · rw [if_pos h, h]
    exact ⟨(keepAll_or _ _).symm, fun _ _ => rfl⟩
  · rw [if_neg h, if_neg ha]
    exact ⟨regGet_regSet_same _ _ _, fun b hb => regGet_regSet_ne hb _ _⟩

theorem writeW1c_regs {a : Nat} (ha : a ≠ 0x200008) (p : Nat) (row : RegRow) (v : Word) (d : Dev) :
    regGet (writeW1c p a row v d) a = regGet d a &&& ~~~(row.w1c &&& v) ∧ (∀ b, b ≠ a → regGet (writeW1c p a row v d) b = regGet d b) ∧
      Safety.Keeps [.regs, .plain] d (writeW1c p a row v d) := by
  unfold writeW1c
  rw [if_neg ha]
  by_cases h : row.w1c &&& v = 0
  · rw [if_pos h, h]
    exact ⟨(keepAll _).symm, fun _ _ => rfl, .refl _ _⟩
  · rw [if_neg h]
    exact ⟨regGet_regSet_same _ _ _, fun b hb => regGet_regSet_ne hb _ _, regSet_keeps _ _ _⟩

/-- GLB_STATE is as it was where the GLB part and the register of the level are. -/
theorem finish_noop {M : List Safety.Part} {d e : Dev} (h : Safety.Keeps M d e) (hm : Safety.Part.glb ∉ M)
    (hl : regGet e 0x300000 = regGet d 0x300000) : finish (stateByte d) e = e :=
  finish_rest (glbRest_of h hm) (by simp only [getF, F.SCH_SPOS_LEVEL, hl])

/-- What a write leaves of a register without command fields (R8): RW bits set, W1C bits written 1 cleared, the rest as it stood. -/
theorem plainWrite_spec {p a : Nat} {row : RegRow} {d : Dev} (hr : regRow a = some row) (hw : row.wo = 0) (ha : a ≠ 0xE00000) (v : Word) :
    let e := writeW1c p a row v (writeRw a row v d)
    regGet e a = ((regGet d a &&& ~~~row.rw) ||| (v &&& row.rw)) &&& ~~~(row.w1c &&& v) ∧
      (∀ b, b ≠ a → regGet e b = regGet d b) ∧ Safety.Keeps [.regs, .plain] d e ∧ finish (stateByte d) e = e := by
  intro e
  obtain ⟨hrw, hrw'⟩ := writeRw_regs ha row v d
  obtain ⟨hw1, hw1', hwk⟩ := writeW1c_regs (a := a) (fun h => not_cmdAddr hr hw (by rw [h]; decide)) p row v (writeRw a row v d)
  have hkeeps : Safety.Keeps [.regs, .plain] d e := .trans (writeRw_keeps _ _ _ _) hwk
  have hval : regGet e a = ((regGet d a &&& ~~~row.rw) ||| (v &&& row.rw)) &&& ~~~(row.w1c &&& v) := by rw [hw1, hrw]
  have hrest : ∀ b, b ≠ a → regGet e b = regGet d b := fun b hb => (hw1' b hb).trans (hrw' b hb)
  refine ⟨hval, hrest, hkeeps, finish_noop hkeeps (by decide) ?_⟩
  by_cases h : 0x300000 = a
  · subst h
    have hrow : row.rw = 0 ∧ row.w1c = 0 := by
      have hd : (regRow 0x300000).all (fun r => r.rw == 0 && r.w1c == 0) = true := by decide
      rw [hr] at hd
      simpa using hd
    rw [hval, hrow.1, hrow.2, keepAll_or, show (0 : Word) &&& v = 0 from BitVec.zero_and, keepAll]
  · exact hrest _ h

/-- A command that can change GLB_STATE but here does not, and that reaches its port. -/
theorem viaPort_run {s : State} (hb : s.dev.glb.base ∉ [Base.off, .sequencing, .withdrawn]) {p : Nat} {f : Dev → Dev} :
    run (viaPort p f) s = .next { s with dev := finish (stateByte s.dev) (f (touch p s.dev)) } := by
  rw [run, viaPort_eq hb]

/-! ## Transactions -/

/-- What a write of SVC_TXN acts on: the device whose SHADOW_RD was written, with the lock timer restarted. -/
def txnStart (p : Nat) (rd : Bool) (d : Dev) : Dev := setB F.SVC_TXN_SHADOW_RD rd (touch p d)

theorem txnWrite_eq (p op : Nat) (rd : Bool) (d : Dev) : txnWrite p op rd (touch p d) = txnOp p op (txnStart p rd d) := rfl

theorem txnStart_getF {f : Fld} (h : Apart F.SVC_TXN_SHADOW_RD f) (p : Nat) (rd : Bool) (d : Dev) : getF (txnStart p rd d) f = getF d f :=
  (getF_setB_apart h _ _).trans touch_getF
theorem txnStart_flag {f : Fld} (h : Apart F.SVC_TXN_SHADOW_RD f) (p : Nat) (rd : Bool) (d : Dev) : flag (txnStart p rd d) f = flag d f :=
  (flag_setB_apart h _ _).trans touch_flag
theorem txnStart_shadow (p : Nat) (rd : Bool) (d : Dev) : (txnStart p rd d).svc.shadow = d.svc.shadow := by
  unfold txnStart touch; split <;> rfl
theorem txnStart_glb (p : Nat) (rd : Bool) (d : Dev) : (txnStart p rd d).glb = d.glb := touch_glb
theorem txnStart_sfTick (p : Nat) (rd : Bool) (d : Dev) : sfTick (txnStart p rd d) = sfTick d := by
  unfold sfTick spos sposAt
  rw [txnStart_getF (by decide), txnStart_glb]

theorem holdsLock_iff {d : Dev} {p : Nat} : holdsLock d p = true ↔ getF d F.SVC_LOCK_OWNER = p + 1 := decide_eq_true_iff
theorem stages_iff {d : Dev} {p : Nat} : stages d p = true ↔ getF d F.SVC_LOCK_OWNER = p + 1 ∧ getF d F.SVC_TXN_STATE = 1 := by
  simp only [stages, Bool.and_eq_true, holdsLock_iff, decide_eq_true_eq]
theorem serves_iff {d : Dev} : serves d = true ↔ d.glb.base = .serving := decide_eq_true_iff
theorem beginOk_iff {d : Dev} {p : Nat} : beginOk d p = true ↔
    getF d F.SVC_LOCK_OWNER = p + 1 ∧ getF d F.SVC_TXN_STATE = 0 ∧ (d.glb.base = .pairing ∨ d.glb.base = .serving) := by
  simp only [beginOk, Bool.and_eq_true, Bool.or_eq_true, holdsLock_iff, serves_iff, decide_eq_true_eq, and_assoc]

theorem txnStart_stages {p q : Nat} {rd : Bool} {d : Dev} : stages (txnStart p rd d) q = true ↔
    getF d F.SVC_LOCK_OWNER = q + 1 ∧ getF d F.SVC_TXN_STATE = 1 := by
  rw [stages_iff, txnStart_getF (by decide), txnStart_getF (by decide)]
theorem txnStart_beginOk {p q : Nat} {rd : Bool} {d : Dev} : beginOk (txnStart p rd d) q = true ↔
    getF d F.SVC_LOCK_OWNER = q + 1 ∧ getF d F.SVC_TXN_STATE = 0 ∧ (d.glb.base = .pairing ∨ d.glb.base = .serving) := by
  rw [beginOk_iff, txnStart_getF (by decide), txnStart_getF (by decide), txnStart_glb]

/-- An OP that is not accepted (R403). -/
theorem txnOp_refused {p op : Nat} {d : Dev} (h0 : op ≠ 0) (h1 : ¬ (op = 1 ∧ beginOk d p = true)) (h2 : ¬ (op = 2 ∧ stages d p = true))
    (h3 : ¬ (op = 3 ∧ stages d p = true)) : txnOp p op d = setB F.SVC_ERR_TXN_REFUSED true d := by
  simp only [txnOp, if_neg h0, if_neg h1, if_neg h2, if_neg h3]

/-- The last step of a loop that takes one decides what its steps always leave. -/
theorem forEach_last {α : Type} {P : Dev → Prop} {f : α → Dev → Dev} (h : ∀ a d, P (f a d)) {l : List α} (hl : l ≠ []) (d : Dev) :
    P (forEach l f d) := by
  cases l with
  | nil => exact absurd rfl hl
  | cons a l => exact forEach_inv (fun a d _ => h a d) l (h a d)

theorem txnOp_begin {p : Nat} {d : Dev} (h : beginOk d p = true) : txnOp p 1 d =
    setF F.SVC_TXN_STATE 1 (setF F.SVC_TXN_STAGED 0 (setB F.SVC_TXN_OVF false (onSvc (fun v => { v with shadow := [] }) d))) := by
  simp only [txnOp, h, and_self, if_true, one_ne_zero, if_false]

theorem txnOp_commit {p : Nat} {d : Dev} (h : stages d p = true) : txnOp p 2 d = if flag d F.SVC_TXN_OVF then rollBack 6 d
    else setF F.SVC_TXN_STATE 2 (onSvc (fun v => { v with commitAt := commitTick d, commitPortB := decide (p = 1) }) d) := by
  simp only [txnOp, h, OfNat.ofNat_ne_zero, OfNat.ofNat_ne_one, false_and, and_true, if_true, if_false]

theorem txnOp_rollback {p : Nat} {d : Dev} (h : stages d p = true) : txnOp p 3 d = rollBack 2 d := by
  simp only [txnOp, h, OfNat.ofNat_ne_zero, OfNat.ofNat_ne_one, false_and, and_true, if_true, if_false, show (3 : Nat) ≠ 2 by decide]

theorem stage_room {a : Nat} {w : Word} {d : Dev} (h : d.svc.shadow.length < 512) :
    (stage a w d).svc.shadow = d.svc.shadow.put none a (some w) ∧ (∀ b, b ≠ 0x100004 → regGet (stage a w d) b = regGet d b) := by
  have hno : ¬ ((d.svc.shadow.get none a).isNone = true ∧ 512 ≤ d.svc.shadow.length) := by rintro ⟨-, h'⟩; omega
  unfold stage
  rw [if_neg hno]
  exact ⟨rfl, fun b hb => (regGet_setF_ne hb _ _).trans (regGet_onSvc _ _ _)⟩

theorem checkStaged_none {d : Dev} (h : failedWords d = []) : checkStaged d = d := by
  simp only [checkStaged, h]
  rfl

theorem checkStaged_pending {d : Dev} (h : failedWords d ≠ []) : Safety.pending (checkStaged d) 3 = true := by
  refine forEach_last (P := fun e => Safety.pending e 3 = true) (fun a d => raiseN_pending _ _ _ (by decide) (.inl rfl)) ?_ d
  cases hw : failedWords d with
  | nil => exact absurd hw h
  | cons a l => rw [List.eraseDups_cons]; exact List.cons_ne_nil _ _

/-- The registers as a commit's boundary writes them when its words have taken effect (R405). -/
def commitRegs (d : Dev) : Dev :=
  setF F.SVC_TXN_STATE 0 (setF F.SVC_TXN_RESULT 1 (setF F.SVC_TXN_STAGED 0 (setF F.SVC_COMMIT_TICK d.glb.tick d)))

/-- A commit's boundary ends in its registers, event 5 and the responses that waited. -/
theorem commitNow_end (d : Dev) : ∃ x n, commitNow d = finishWait 1 (finishWait 0 (raiseN 5 n (commitRegs x))) := by
  unfold commitNow commitRegs
  exact ⟨_, _, rfl⟩

theorem finishWaits_regs (d : Dev) : (finishWait 1 (finishWait 0 d)).regs = d.regs :=
  (finishWait_keeps _ _ .regs (by decide)).trans (finishWait_keeps _ _ .regs (by decide))

theorem commitNow_txn (d : Dev) : getF (commitNow d) F.SVC_TXN_STATE = 0 ∧ getF (commitNow d) F.SVC_TXN_RESULT = 1 ∧
    Safety.pending (commitNow d) 5 = true := by
  obtain ⟨x, n, hx⟩ := commitNow_end d
  have hf (f : Fld) : getF (commitNow d) f = getF (raiseN 5 n (commitRegs x)) f := by
    unfold getF regGet; rw [hx, finishWaits_regs]
  refine ⟨?_, ?_, ?_⟩
  · rw [hf, raiseN_getF (by decide), commitRegs, getF_setF_fits (by decide) (by decide)]
  · rw [hf, raiseN_getF (by decide), commitRegs, getF_setF_apart (by decide), getF_setF_fits (by decide) (by decide)]
  · rw [(Bank.of_regs (by rw [hx, finishWaits_regs]) : Bank (raiseN 5 n (commitRegs x)) (commitNow d)).pending (by decide)]
    exact raiseN_pending _ _ _ (by decide) (.inl rfl)

/-- A commit of one word that passes and changes no key gives that word's register the word. -/
theorem commitNow_word {d : Dev} {a : Nat} {w : Word} {row : RegRow} (hfail : failedWords d = []) (hkeys : keyChanges d = [])
    (hsh : d.svc.shadow = [(a, some w)]) (hr : regRow a = some row) (h1 : row.base ≠ 0x400000) (h2 : a ≠ 0x900000) (h3 : a ≠ 0x100004)
    (h4 : a ≠ 0x10000C) (he : Safety.eventReg a = false) : regGet (commitNow d) a = (regGet d a &&& ~~~row.rwl) ||| (w &&& row.rwl) := by
  have hword : applyWord (a, some w) d = regSet a ((regGet d a &&& ~~~row.rwl) ||| (w &&& row.rwl)) d := by
    simp only [applyWord, hr, if_neg h2, h1, false_and, if_false]
  have hregs : (commitNow d).regs = (raiseN 5 1 (commitRegs (onSvc (fun v => { v with shadow := [], idleSince := d.glb.tick })
      (applyWord (a, some w) d)))).regs := by
    simp only [commitNow, checkStaged_none hfail, hsh, hkeys, finishWaits_regs]
    rfl
  have hget (x : Dev) : regGet (raiseN 5 1 x) a = regGet x a := raiseN_keeps _ _ _ .plain (by decide) a he
  have hnow (x y : Dev) (h : x.regs = y.regs) : regGet x a = regGet y a := by unfold regGet; rw [h]
  rw [hnow _ _ hregs, hget]
  simp only [commitRegs, regGet_setF_ne (show a ≠ F.SVC_TXN_STATE.addr from h3), regGet_setF_ne (show a ≠ F.SVC_TXN_RESULT.addr from h3),
    regGet_setF_ne (show a ≠ F.SVC_TXN_STAGED.addr from h3), regGet_setF_ne (show a ≠ F.SVC_COMMIT_TICK.addr from h4), regGet_onSvc, hword,
    regGet_regSet_same]

end Sys2Proof.Machine

namespace Sys2Proof
open Sys2Proof.Machine

/-- Settles O9. -/
theorem registerWrites : Obligations.RegisterWrites := by
  intro p a v row s hb hm hr
  have hexec : exec (.registerWrite p a v) s =
      .next { s with dev := finish (stateByte s.dev) (ctlWrite p.val a.toNat 0 v (touch p.val s.dev)) } := viaPort_run hb
  refine ⟨fun hv => ⟨_, hexec, rfl, ?_, ?_⟩, fun hv hw ha hstage => ⟨_, hexec, rfl, ?_⟩⟩
  · have hres := ctlWrite_reserved (p := p.val) (d := touch p.val s.dev) hm hr hv 0
    refine finish_pending _ _ (by decide) ?_
    rw [hres]
    exact raiseN_pending 3 a.toNat _ (by decide) (.inl rfl)
  · rw [ctlWrite_reserved hm hr hv]
    dsimp only
    exact .step (finish_keeps _ _) rfl (.step (raiseN_keeps _ _ _) rfl (.mono rfl (touch_keeps _ _)))
  · have hno : ¬ (row.rwl ≠ 0 ∧ stages (touch p.val s.dev) p.val = true) := by
      rintro ⟨h1, h2⟩
      simp only [stages, touch_getF, Bool.and_eq_true, decide_eq_true_eq] at h2
      rcases hstage with h | h
      · exact h1 h
      · exact h h2.2
    obtain ⟨hval, hrest, hkeeps, hfin⟩ := plainWrite_spec (p := p.val) (d := touch p.val s.dev) hr hw (fun h => ha (BitVec.eq_of_toNat_eq h)) v
    have hbyte : stateByte (touch p.val s.dev) = stateByte s.dev := by unfold touch; split <;> rfl
    rw [ctlWrite_plain hm hr hv hw, if_neg hno, ← hbyte, hfin]
    simp only [regGet, touch_regs] at hval hrest
    exact ⟨hval, hrest, .trans (.mono rfl (touch_keeps _ _)) (.mono rfl hkeeps)⟩

/-- Settles O31. -/
theorem transactions : Obligations.Transactions := by
  intro p rd s d owns txn result ovf runs refused
  have reach hb {p c f} {E : Dev → Prop} (hc : exec c s = runQ (viaPort p f) s) (h : E (f (touch p s.dev))) : runs c E := viaPort_runs hb hc h
  have direct {c f} {E : Dev → Prop} (hc : exec c s = runQ f s) (h : E (f s.dev)) : runs c E := ⟨_, hc, rfl, h⟩
  have written (hb : s.dev.glb.base ∉ [.off, .sequencing, .withdrawn]) {a v : Word} {E : Dev → Prop}
      (h : E (finish (stateByte s.dev) (ctlWrite p.val a.toNat 0 v (touch p.val s.dev)))) : runs (.registerWrite p a v) E :=
    ⟨_, viaPort_run hb, rfl, h⟩
  have refuses (hb : s.dev.glb.base ∉ [.off, .sequencing, .withdrawn]) {op : Nat} {c : Instr}
      (hc : exec c s = runQ (viaPort p.val (txnWrite p.val op rd)) s) (h0 : op ≠ 0)
      (h : (op = 1 → ¬ beginOk (txnStart p.val rd d) p.val = true) ∧ (op ≠ 1 → ¬ stages (txnStart p.val rd d) p.val = true)) : refused c := by
    have hop : txnWrite p.val op rd (touch p.val s.dev) = setB F.SVC_ERR_TXN_REFUSED true (txnStart p.val rd d) :=
      txnOp_refused h0 (fun ⟨h1, h2⟩ => h.1 h1 h2) (fun ⟨h1, h2⟩ => h.2 (by omega) h2) (fun ⟨h1, h2⟩ => h.2 (by omega) h2)
    refine viaPort_runs (E := fun e => flag e F.SVC_ERR_TXN_REFUSED = true ∧ txn e = txn d ∧ e.svc.shadow = d.svc.shadow) hb hc ?_
    rw [hop]
    exact ⟨flag_setB_at (by decide) _ _, (getF_setB_apart (by decide) _ _).trans (txnStart_getF (by decide) _ _ _),
      (congrArg Svc.shadow (setB_svc _ _ _)).trans (txnStart_shadow _ _ _)⟩
  clear_value refused runs
  refine ⟨fun hb => ⟨fun ho ht hbase => ?begin_, fun h => ?beginNot, fun ho ht hov => ?commit, fun ho ht hov => ?overflow, fun ho ht => ?roll,
    fun h => ?others, fun a v row ho ht hm hr hl hwo hrw hw1 hres hlen => ?stage⟩, fun ht hc hw => ?checkNone, fun ht hc hw => ?check,
    fun ht hs hc => ?boundary, fun a w row ht hs hc hw hk hsh hr h1 h2 h3 h4 he => ?word⟩
  case begin_ =>
    refine reach hb rfl ?_
    rw [txnWrite_eq, txnOp_begin (txnStart_beginOk.mpr ⟨ho, ht, hbase⟩)]
    exact ⟨getF_setF_fits (by decide) (by decide) _, by simp only [setF_svc, setB_svc, onSvc_svc], (getF_setF_apart (by decide) _ _).trans (getF_setF_fits (by decide) (by decide) _)⟩
  case beginNot =>
    refine refuses hb rfl (by decide) ⟨fun _ => ?_, fun h => absurd rfl h⟩
    rw [txnStart_beginOk]
    rintro ⟨h1, h2, h3⟩
    rcases h with h | h | ⟨h, h'⟩
    · exact h h1
    · exact h h2
    · exact h3.elim h h'
  case commit =>
    refine reach hb rfl ?_
    have hov' : ¬ flag (txnStart p.val rd d) F.SVC_TXN_OVF = true := by rw [txnStart_flag (by decide)]; exact ne_true_of_eq_false hov
    rw [txnWrite_eq, txnOp_commit (txnStart_stages.mpr ⟨ho, ht⟩), if_neg hov']
    refine ⟨getF_setF_fits (by decide) (by decide) _, ?_, ?_⟩
    · simp only [setF_svc, onSvc_svc, txnStart_shadow]
    · simp only [setF_svc, onSvc_svc, commitTick, txnStart_sfTick, txnStart_glb]
  case overflow =>
    refine reach hb rfl ?_
    have hov' : flag (txnStart p.val rd d) F.SVC_TXN_OVF = true := (txnStart_flag (by decide) _ _ _).trans hov
    rw [txnWrite_eq, txnOp_commit (txnStart_stages.mpr ⟨ho, ht⟩), if_pos hov']
    obtain ⟨h1, h2, h3, -⟩ := rollBack_txn (r := 6) (by decide) (txnStart p.val rd d)
    exact ⟨h1, h2, h3⟩
  case roll =>
    refine reach hb rfl ?_
    rw [txnWrite_eq, txnOp_rollback (txnStart_stages.mpr ⟨ho, ht⟩)]
    obtain ⟨h1, h2, h3, -⟩ := rollBack_txn (r := 2) (by decide) (txnStart p.val rd d)
    exact ⟨h1, h2, h3⟩
  case others =>
    have hno : ¬ stages (txnStart p.val rd d) p.val = true := by
      rw [txnStart_stages]
      rintro ⟨h1, h2⟩
      exact h.elim (· h1) (· h2)
    exact ⟨refuses hb rfl (by decide) ⟨fun h => absurd h (by decide), fun _ => hno⟩,
      refuses hb rfl (by decide) ⟨fun h => absurd h (by decide), fun _ => hno⟩⟩
  case stage =>
    have hst : row.rwl ≠ 0 ∧ stages (touch p.val d) p.val = true := ⟨hl, stages_iff.mpr ⟨touch_getF.trans ho, touch_getF.trans ht⟩⟩
    have hE : a.toNat ≠ 0x100004 := fun h => not_cmdAddr hr hwo (by rw [h]; decide)
    have hshadow : (touch p.val d).svc.shadow = d.svc.shadow := by unfold touch; split <;> rfl
    obtain ⟨hput, hregs⟩ := stage_room (a := a.toNat) (w := v &&& row.rwl) (d := touch p.val d) (by rw [hshadow]; exact hlen)
    have hwrite : ctlWrite p.val a.toNat 0 v (touch p.val d) = stage a.toNat (v &&& row.rwl) (touch p.val d) := by
      rw [ctlWrite_plain hm hr hres hwo, if_pos hst, writeRw, if_pos hrw, writeW1c, if_neg (fun h => not_cmdAddr hr hwo (by rw [h]; decide)),
        hw1, if_pos (show (0 : Word) &&& v = 0 from BitVec.zero_and)]
    have hglb : glbRest (stage a.toNat (v &&& row.rwl) (touch p.val d)) = glbRest d :=
      glbRest_of (.step (stage_keeps _ _ _) rfl (.mono rfl (touch_keeps _ _)) : Safety.Keeps [.regs, .svc, .plain] d _) (by decide)
    have hfin : finish (stateByte d) (stage a.toNat (v &&& row.rwl) (touch p.val d)) = stage a.toNat (v &&& row.rwl) (touch p.val d) :=
      finish_rest hglb (by unfold getF; rw [hregs _ (by decide)]; exact touch_getF (f := F.SCH_SPOS_LEVEL))
    refine written hb ?_
    rw [hwrite, hfin]
    refine ⟨?_, fun b hb => ?_, fun b hb => ?_⟩
    · rw [hput, SMapLaws.get_put_same]
    · rw [hput, SMapLaws.get_put_ne _ _ _ hb, hshadow]
    · rw [hregs b hb]; unfold regGet; rw [touch_regs]
  case checkNone =>
    have heq : exec .commitCheck s = runQ (fun _ => checkStaged d) s := by
      show runQ _ s = _
      rw [runQ, runQ, if_pos ⟨ht, hc⟩]
    rw [heq, runQ, checkStaged_none hw]
  case check => exact direct rfl (by rw [if_pos ⟨ht, hc⟩]; exact checkStaged_pending hw)
  case boundary => exact direct rfl (by rw [if_pos ⟨ht, hs, hc⟩]; exact commitNow_txn _)
  case word => exact direct rfl (by rw [if_pos ⟨ht, hs, hc⟩]; exact commitNow_word hw hk hsh hr h1 h2 h3 h4 he)

end Sys2Proof
end

section
/-!
The I3C target and the MCTP endpoint of a service port (R392-R394, R397).
-/
namespace Sys2Proof.Machine
open Sys2Proof Sys2Proof.SMapLaws

/-! ## What reaches a port -/

theorem awake_iff {d : Dev} : awake d = true ↔ d.glb.base ∉ [Base.off, .sequencing] := by
  simp only [awake, Bool.and_eq_true, decide_eq_true_eq, List.mem_cons, List.not_mem_nil, or_false, not_or]
theorem takesMsg_iff {d : Dev} : takesMsg d = true ↔ d.glb.base ∉ [Base.off, .sequencing, .withdrawn] := by
  simp only [takesMsg, Bool.and_eq_true, awake_iff, decide_eq_true_eq, List.mem_cons, List.not_mem_nil, or_false, not_or, and_assoc]

theorem broadcastCcc_awake {f : Dev → Dev} {d : Dev} (h : d.glb.base ∉ [Base.off, .sequencing]) : broadcastCcc f d = f d := by
  rw [broadcastCcc, if_pos (awake_iff.mpr h)]
theorem directCcc_awake {p : Nat} {f : Dev → Dev} {d : Dev} (h : d.glb.base ∉ [Base.off, .sequencing])
    (ha : getF d (F.SVC_PORT_STS_DA p) ≠ 0) : directCcc p f d = f d := by
  rw [directCcc, if_pos (by rw [awake_iff.mpr h, Bool.true_and]; exact decide_eq_true ha)]

theorem portOf_portSay (p : Nat) (o : PortOut) (d : Dev) : portOf (portSay p o d) p = { portOf d p with out := (portOf d p).out ++ [o] } :=
  portOf_onPort_same _ _ _

/-- What a port sends, and that nothing but the ports and the free values' count changes. -/
theorem port_says {p : Nat} {o : PortOut} {d e : Dev} (hk : Safety.Keeps [.svc, .free] d e) (hp : portOf e p = portOf d p) :
    (portOf (portSay p o e) p).out = (portOf d p).out ++ [o] ∧ Safety.Keeps [.svc, .free] d (portSay p o e) :=
  ⟨by rw [portOf_portSay, hp], .step (portSay_keeps _ _ _) rfl hk⟩

theorem entdaa_free {p a : Nat} {d : Dev} (h : getF d (F.SVC_PORT_STS_DA p) = 0) : entdaa p a d = setF (F.SVC_PORT_STS_DA p) a d := if_pos h
theorem entdaa_held {p : Nat} (a : Nat) {d : Dev} (h : getF d (F.SVC_PORT_STS_DA p) ≠ 0) : entdaa p a d = d := if_neg h

/-- The two bytes of a number below 65,536, the higher first. -/
theorem bytes_two (n : Nat) : ∃ a b : BitVec 8, a.toNat * 256 + b.toNat = n % 65536 ∧ (bytesLE 2 n).reverse = [a, b] := by
  refine ⟨BitVec.ofNat 8 (n / 256), BitVec.ofNat 8 n, ?_, rfl⟩
  simp only [BitVec.toNat_ofNat]
  omega

theorem pid_bytes (p : SPort) : (bytesLE 6 (pidOf p.val)).reverse = [0x07, 0x4A, 0, 0, 0, if p = 0 then 0 else 1] := by
  obtain rfl | rfl : p = 0 ∨ p = 1 := by revert p; decide
  · simp [pidOf, bytesLE]
  · simp [pidOf, bytesLE]

/-! ## Port resets -/

theorem portOf_of_svc {d e : Dev} (h : e.svc = d.svc) (q : Nat) : portOf e q = portOf d q := by unfold portOf; rw [h]

theorem rollBack_port (r : Nat) (d : Dev) (q : Nat) : portRest (portOf (rollBack r d) q) = portRest (portOf d q) := by
  have hshadow : portOf (onSvc (fun v => { v with shadow := [] }) d) q = portOf d q := by unfold portOf; split <;> rfl
  have hregs (x : Dev) : Safety.Keeps [.regs, .plain] x
      (setF F.SVC_TXN_STATE 0 (setF F.SVC_TXN_RESULT r (setF F.SVC_TXN_STAGED 0 (setB F.SVC_TXN_OVF false x)))) :=
    .step (setF_keeps _ _ _) rfl (.step (setF_keeps _ _ _) rfl (.step (setF_keeps _ _ _) rfl (setB_keeps _ _ _)))
  unfold rollBack
  dsimp only
  rw [(raiseN_rest 6 r _).port q, portOf_of_svc (hregs _ .svc (by decide)) q, hshadow]

theorem lockLost_port (c : Nat) (d : Dev) (q : Nat) : portRest (portOf (lockLost c d) q) = portRest (portOf d q) := by
  have hregs : Safety.Keeps [.regs, .plain] d (setF F.SVC_LOCK_OWNER 0 (setF F.SVC_LOCK_LOSS c d)) :=
    .step (setF_keeps _ _ _) rfl (setF_keeps _ _ _)
  rw [← portOf_of_svc (hregs .svc (by decide)) q]
  unfold lockLost whenD
  split
  · exact (raiseN_rest _ _ _).port q
  · rfl

/-- The loss of the lock leaves every field outside SVC_LOCK and SVC_TXN that raising an event leaves. -/
theorem loseLock_getF {f : Fld} (h1 : f.addr ≠ 0x100000) (h2 : f.addr ≠ 0x100004) (he : Safety.eventReg f.addr = false) (c : Nat) (d : Dev) :
    getF (loseLock c d) f = getF d f := by
  have hlost : getF (lockLost c d) f = getF d f := by
    unfold lockLost whenD
    split
    · rw [raiseN_getF he, getF_setF_ne h1, getF_setF_ne h1]
    · rw [getF_setF_ne h1, getF_setF_ne h1]
  by_cases h : getF d F.SVC_LOCK_OWNER = 0
  · rw [loseLock, if_pos h]
  · rw [loseLock_eq h]
    split
    · rw [rollBack_getF h2 he, hlost]
    · exact hlost

theorem loseLock_port (c : Nat) (d : Dev) (q : Nat) : portRest (portOf (loseLock c d) q) = portRest (portOf d q) := by
  by_cases h : getF d F.SVC_LOCK_OWNER = 0
  · rw [loseLock, if_pos h]
  · rw [loseLock_eq h]
    split
    · exact (rollBack_port _ _ _).trans (lockLost_port _ _ _)
    · exact lockLost_port _ _ _

/-- The port, its page and the nonce once a port reset has discarded them (R394). -/
def portCleared (p : Nat) (d : Dev) : Dev :=
  nonceDrop (zeroMac (64 + p) (onPort p (fun q => { q with
    asm := none, cmd := [], words := [], doneWords := 0, waitCommit := none, armCmd := false, capt := [] }) d))

theorem portCleared_port (p : Nat) (d : Dev) : portOf (portCleared p d) p = { portOf d p with
    asm := none, cmd := [], words := [], doneWords := 0, waitCommit := none, armCmd := false, capt := [] } := portOf_onPort_same _ _ _

/-- The device once the lock the port held is lost as well. -/
def portUnlocked (p : Nat) (d : Dev) : Dev :=
  if holdsLock (portCleared p d) p then loseLock 2 (portCleared p d) else portCleared p d

/-- A port reset: what it discards, the lock the port held, event 17. -/
theorem portReset_eq (p : Nat) (d : Dev) : portReset p d = raiseN 17 p (addSat (F.SVC_PORT_RST_COUNT p) 1 (setB (F.SVC_PORT_ERR_RESET p) true
    (portUnlocked p d))) := rfl

theorem portCleared_getF (p : Nat) (d : Dev) (f : Fld) : getF (portCleared p d) f = getF d f := by
  have h : (portCleared p d).regs = d.regs := onPort_regs _ _ _
  unfold getF regGet
  rw [h]

/-- What a port reset leaves (R394). -/
theorem portReset_spec {p : Nat} (hp : p < 2) (d : Dev) :
    let e := portReset p d
    (portOf e p).asm = none ∧ (portOf e p).cmd = [] ∧ (portOf e p).capt = [] ∧ (portOf e p).rstact = (portOf d p).rstact ∧
      (∀ x, e.slu.pages.get x (64 + p) = x) ∧ Safety.pending e 17 = true ∧ flag e (F.SVC_PORT_ERR_RESET p) = true ∧
      (getF d F.SVC_LOCK_OWNER = p + 1 → getF e F.SVC_LOCK_OWNER = 0 ∧ getF e F.SVC_LOCK_LOSS = 2) ∧
      (getF d F.SVC_LOCK_OWNER ≠ p + 1 → getF e F.SVC_LOCK_OWNER = getF d F.SVC_LOCK_OWNER) := by
  intro e
  have hst : Safety.Keeps [.regs, .plain] (portUnlocked p d) (addSat (F.SVC_PORT_RST_COUNT p) 1 (setB (F.SVC_PORT_ERR_RESET p) true (portUnlocked p d))) :=
    .step (addSat_keeps _ _ _) rfl (setB_keeps _ _ _)
  have hport : portRest (portOf e p) = portRest (portOf (portCleared p d) p) := by
    rw [show portOf e p = portOf (portReset p d) p from rfl, portReset_eq, (raiseN_rest 17 p _).port p, portOf_of_svc (hst .svc (by decide)) p]
    unfold portUnlocked
    split
    · exact loseLock_port _ _ _
    · rfl
  have hcleared := portCleared_port p d
  have hslu : e.slu = (portCleared p d).slu := by
    rw [show e.slu = (portReset p d).slu from rfl, portReset_eq, raiseN_slu, hst .slu (by decide)]
    unfold portUnlocked
    split
    · exact loseLock_keeps _ _ .slu (by decide)
    · rfl
  have haddr : (F.SVC_PORT_ERR_RESET p).addr = 0x100108 + 0x20 * p ∧ (F.SVC_PORT_RST_COUNT p).addr = 0x10010C + 0x20 * p := ⟨rfl, rfl⟩
  have hlock {f : Fld} (hf : f.addr = 0x100000) : getF e f = getF (portUnlocked p d) f := by
    rw [show getF e f = getF (portReset p d) f from rfl, portReset_eq, raiseN_getF (by rw [hf]; decide),
      getF_addSat_apart (.inl (by omega)), getF_setB_apart (.inl (by omega))]
  refine ⟨?_, ?_, ?_, ?_, fun x => ?_, ?_, ?_, fun ho => ?_, fun ho => ?_⟩
  · exact (congrArg SvcPort.asm hport).trans (congrArg SvcPort.asm hcleared)
  · exact (congrArg SvcPort.cmd hport).trans (congrArg SvcPort.cmd hcleared)
  · exact (congrArg SvcPort.capt hport).trans (congrArg SvcPort.capt hcleared)
  · exact (show (portRest (portOf e p)).rstact = (portRest (portOf (portCleared p d) p)).rstact by rw [hport]).trans (by rw [hcleared]; rfl)
  · rw [hslu]; exact get_erase_same _ _ _
  · exact raiseN_pending 17 p _ (by decide) (.inl rfl)
  · rw [show e = portReset p d from rfl, portReset_eq,
      raiseN_flag (eventReg_false (.inl (by omega)) (by omega) (by omega) (by omega) (by omega)), flag_addSat_apart (.inl (by omega))]
    exact flag_setB_at ⟨Nat.le_refl _, by simp [F.SVC_PORT_ERR_RESET]⟩ _ _
  · have hold : holdsLock (portCleared p d) p = true := by rw [holdsLock_iff, portCleared_getF]; exact ho
    obtain ⟨h1, h2, -⟩ := loseLock_lost (c := 2) (d := portCleared p d) (by decide) (by rw [portCleared_getF, ho]; omega)
    rw [hlock rfl, hlock rfl, portUnlocked, if_pos hold]
    exact ⟨h1, h2⟩
  · have hold : ¬ holdsLock (portCleared p d) p = true := by rw [holdsLock_iff, portCleared_getF]; exact ho
    rw [hlock rfl, portUnlocked, if_neg hold, portCleared_getF]

/-- A port reset leaves the port's dynamic address to RSTDAA. -/
theorem portReset_da {p : Nat} (hp : p < 2) (d : Dev) : getF (portReset p d) (F.SVC_PORT_STS_DA p) = getF d (F.SVC_PORT_STS_DA p) := by
  have haddr : (F.SVC_PORT_ERR_RESET p).addr = 0x100108 + 0x20 * p ∧ (F.SVC_PORT_RST_COUNT p).addr = 0x10010C + 0x20 * p ∧
    (F.SVC_PORT_STS_DA p).addr = 0x100100 + 0x20 * p := ⟨rfl, rfl, rfl⟩
  have he : Safety.eventReg (F.SVC_PORT_STS_DA p).addr = false :=
    eventReg_false (.inl (by omega)) (by omega) (by omega) (by omega) (by omega)
  rw [portReset_eq, raiseN_getF he, getF_addSat_apart (.inl (by omega)), getF_setB_apart (.inl (by omega)), portUnlocked]
  split
  · rw [loseLock_getF (by omega) (by omega) he, portCleared_getF]
  · rw [portCleared_getF]

/-! ## MCTP control messages -/

theorem drawBytes_length (n : Nat) (d : Dev) : (drawBytes n d).1.length = n := by
  induction n generalizing d with
  | zero => rfl
  | succ n ih => exact congrArg (· + 1) (ih _)

theorem drawBytes_port (n : Nat) (d : Dev) (q : Nat) : portOf (drawBytes n d).2 q = portOf d q := by
  induction n generalizing d with
  | zero => rfl
  | succ n ih => exact (ih _).trans rfl

end Sys2Proof.Machine

namespace Sys2Proof
open Sys2Proof.Machine

/-- Settles O32. -/
theorem i3cCommands : Obligations.I3cCommands := by
  intro p st da n act s hb port addr runs kept tells
  have broad {c f} {E : Dev → Prop} (hc : exec c s = runQ (broadcastCcc f) s) (h : E (f s.dev)) : runs c E :=
    ⟨_, hc, rfl, by rw [broadcastCcc_awake hb]; exact h⟩
  have ignored {c f} (hc : exec c s = runQ (broadcastCcc f) s) (h : f s.dev = s.dev) : exec c s = .next s := by
    rw [hc, runQ, broadcastCcc_awake hb, h]
  have speaks (ha : addr s.dev ≠ 0) {c f b} {e : Dev} (hc : exec c s = runQ (directCcc p.val f) s) (hf : f s.dev = cccSays p.val b e)
      (hk : Safety.Keeps [.svc, .free] s.dev e) (hp : portOf e p.val = portOf s.dev p.val) : tells c b := by
    refine ⟨_, hc, rfl, ?_⟩
    rw [directCcc_awake hb ha, hf]
    exact port_says hk hp
  have hibi : Apart (F.SVC_PORT_STS_IBI_EN p.val) (F.SVC_PORT_STS_DA p.val) := by
    simp [Apart, F.SVC_PORT_STS_IBI_EN, F.SVC_PORT_STS_DA]
  have hfit : (F.SVC_PORT_STS_DA p.val).lo ≤ (F.SVC_PORT_STS_DA p.val).hi ∧ (F.SVC_PORT_STS_DA p.val).hi < 32 := by
    simp [F.SVC_PORT_STS_DA]
  have hda : da.toNat < 2 ^ ((F.SVC_PORT_STS_DA p.val).hi + 1 - (F.SVC_PORT_STS_DA p.val).lo) := by
    have := da.isLt
    simp only [F.SVC_PORT_STS_DA]; omega
  have hflag : (F.SVC_PORT_STS_IBI_EN p.val).lo ≤ (F.SVC_PORT_STS_IBI_EN p.val).hi ∧ (F.SVC_PORT_STS_IBI_EN p.val).hi < 32 := by
    simp [F.SVC_PORT_STS_IBI_EN]
  have same : Safety.Keeps [.svc, .free] s.dev s.dev := .refl _ _
  clear_value tells runs
  refine ⟨fun ha => ⟨?_, fun hst => ?_⟩, fun ha => ⟨?_, ?_⟩, fun hst => ?_, ?_, ?_, ?_, ?_, ?_, fun ha => ⟨?_, ?_, ?_, ?_, ?_, ?_⟩⟩
  · refine broad rfl ?_
    rw [entdaa_free ha]
    exact getF_setF_fits hfit hda _
  · refine broad (f := fun d => if st.toNat = 0x2C + p.val then entdaa p.val da.toNat d else d) rfl ?_
    rw [if_pos hst, entdaa_free ha]
    exact getF_setF_fits hfit hda _
  · exact ignored rfl (entdaa_held _ ha)
  · refine ignored (f := fun d => if st.toNat = 0x2C + p.val then entdaa p.val da.toNat d else d) rfl ?_
    rw [entdaa_held _ ha, ite_self]
  · exact ignored (f := fun d => if st.toNat = 0x2C + p.val then entdaa p.val da.toNat d else d) rfl (if_neg hst)
  · exact broad rfl ⟨flag_setB_at hflag _ _, getF_setB_apart hibi _ _⟩
  · exact broad rfl ⟨flag_setB_at hflag _ _, getF_setB_apart hibi _ _⟩
  · refine broad rfl ⟨?_, ?_, onPort_keeps _ _ _⟩ <;> simp only [port, portOf_onPort_same, limit]
  · refine broad rfl ⟨?_, ?_, onPort_keeps _ _ _⟩ <;> simp only [port, portOf_onPort_same, limit]
  · exact broad rfl ⟨by simp only [port, portOf_onPort_same], onPort_keeps _ _ _⟩
  · exact speaks ha rfl (by rw [pid_bytes]) same rfl
  · exact speaks ha rfl rfl same rfl
  · exact speaks ha rfl rfl same rfl
  · exact ⟨_, _, speaks ha (e := { s.dev with free := s.dev.free + 1 + 1 }) rfl rfl (.step (drawFree_keeps _) rfl (.mono rfl (drawFree_keeps _))) rfl⟩
  · obtain ⟨a, b, hab, hbytes⟩ := bytes_two (port s.dev).mwl
    exact ⟨a, b, hab, speaks ha (f := fun d => cccSays p.val (bytesLE 2 (portOf d p.val).mwl).reverse d) rfl (by rw [← hbytes]) same rfl⟩
  · obtain ⟨a, b, hab, hbytes⟩ := bytes_two (port s.dev).mrl
    refine ⟨a, b, Config.freeByte s.dev.free, hab, speaks ha (e := { s.dev with free := s.dev.free + 1 }) rfl ?_ (.mono rfl (drawFree_keeps _)) rfl⟩
    show cccSays p.val ((bytesLE 2 (port s.dev).mrl).reverse ++ [_]) _ = _
    rw [hbytes]
    rfl

/-- Settles O33. -/
theorem portResets : Obligations.PortResets := by
  intro p s hb port owner runs wasReset
  have broad {c f} {E : Dev → Prop} (hc : exec c s = runQ (broadcastCcc f) s) (h : E (f s.dev)) : runs c E :=
    ⟨_, hc, rfl, by rw [broadcastCcc_awake hb]; exact h⟩
  clear_value runs
  refine ⟨?_, fun hr => ?_, fun hr => ?_⟩
  · refine broad (f := fun d => portReset p.val (setF (F.SVC_PORT_STS_DA p.val) 0 d)) rfl ?_
    have hda : ∀ p : SPort, Apart (F.SVC_PORT_STS_DA p.val) F.SVC_LOCK_OWNER := by decide
    obtain ⟨h1, h2, h3, -, h5, h6, h7, h8, h9⟩ := portReset_spec p.isLt (setF (F.SVC_PORT_STS_DA p.val) 0 s.dev)
    rw [getF_setF_apart (hda p)] at h8 h9
    refine ⟨?_, h1, h2, h3, h5, h6, h7, h8, h9⟩
    rw [portReset_da p.isLt]
    exact getF_setF_fits (by simp [F.SVC_PORT_STS_DA]) (by simp [F.SVC_PORT_STS_DA]) _
  · refine broad rfl ?_
    have heq : targetReset p.val s.dev = portReset p.val (onPort p.val (fun q => { q with rstact := 1 }) s.dev) := by
      simp only [targetReset, show (portOf s.dev p.val).rstact ≠ 0 from hr, decide_false, Bool.false_eq_true, if_false]
    obtain ⟨h1, h2, h3, h4, h5, h6, h7, h8, h9⟩ := portReset_spec p.isLt (onPort p.val (fun q => { q with rstact := 1 }) s.dev)
    have hown : getF (onPort p.val (fun q => { q with rstact := 1 }) s.dev) F.SVC_LOCK_OWNER = getF s.dev F.SVC_LOCK_OWNER := by
      unfold getF regGet; rw [onPort_regs]
    rw [hown] at h8 h9
    rw [heq]
    exact ⟨h4.trans (by rw [portOf_onPort_same]), h1, h2, h3, h5, h6, h7, h8, h9⟩
  · refine broad rfl ?_
    rw [targetReset, if_pos (by simpa using hr)]
    exact ⟨portOf_onPort_same _ _ _, onPort_keeps _ _ _⟩

/-- Settles O34. -/
theorem mctpControl : Obligations.MctpControl := by
  intro p eid s eidOf runs replies same
  have answers (hb : s.dev.glb.base ∉ [.off, .sequencing, .withdrawn]) {c f b} {e : Dev} (hc : exec c s = runQ f s) (hf : f s.dev = ctrlSays p.val b e)
      (hk : Safety.Keeps [.svc, .free] s.dev e) (hp : portOf e p.val = portOf s.dev p.val) : replies c b same :=
    ⟨_, hc, rfl, by rw [hf]; exact port_says hk hp⟩
  have hkeep : Safety.Keeps [.svc, .free] s.dev s.dev := .refl _ _
  have heid : (F.SVC_PORT_STS_EID p.val).lo ≤ (F.SVC_PORT_STS_EID p.val).hi ∧ (F.SVC_PORT_STS_EID p.val).hi < 32 := by simp [F.SVC_PORT_STS_EID]
  have hroom : eid.toNat < 2 ^ ((F.SVC_PORT_STS_EID p.val).hi + 1 - (F.SVC_PORT_STS_EID p.val).lo) := by
    have := eid.isLt
    simp only [F.SVC_PORT_STS_EID]; omega
  refine ⟨fun hb => ?_, fun hw c hc => ?_⟩
  · have htakes := takesMsg_iff.mpr hb
    refine ⟨fun h0 h1 => ?_, fun h => ?_, ?_, ?_, ?_, ?_⟩
    · have heq : setEid p.val eid s.dev = ctrlSays p.val [0x01, 0x00, 0x00, eid, 0x00] (setF (F.SVC_PORT_STS_EID p.val) eid.toNat s.dev) := by
        simp only [setEid, htakes, h0, h1, or_self, Bool.not_true, Bool.false_eq_true, if_false]
      have hsay (e : Dev) (o : PortOut) (f : Fld) : getF (portSay p.val o e) f = getF e f := by
        unfold getF regGet; rw [portSay_keeps _ _ _ .regs (by decide)]
      refine ⟨_, rfl, rfl, ?_, ?_⟩
      · rw [heq, ctrlSays, portOf_portSay, portOf_of_svc (setF_svc _ _ _)]
      · rw [heq]
        exact (hsay _ _ _).trans (getF_setF_fits heid hroom _)
    · refine answers hb rfl ?_ hkeep rfl
      simp only [setEid, htakes, h, Bool.not_true, Bool.false_eq_true, if_false, if_true]
    · refine ⟨BitVec.ofNat 8 (eidOf s.dev), BitVec.toNat_ofNat _ _, answers hb rfl ?_ hkeep rfl⟩
      simp only [getEid, htakes, if_true, eidOf]
    · obtain ⟨v, w, x, y, hbs⟩ := List.length_eq_four.mp (drawBytes_length 4 s.dev)
      refine ⟨v, w, x, y, answers hb rfl ?_ (.mono rfl (drawBytes_keeps 4 _)) (drawBytes_port _ _ _)⟩
      simp only [getVersions, htakes, Bool.not_true, Bool.false_eq_true, if_false, hbs, List.cons_append, List.nil_append]
    · refine answers hb rfl ?_ hkeep rfl
      simp only [getTypes, htakes, if_true]
    · obtain ⟨v, w, hbs⟩ := List.length_eq_two.mp (drawBytes_length 2 s.dev)
      refine ⟨v, w, answers hb rfl ?_ (.mono rfl (drawBytes_keeps 2 _)) (drawBytes_port _ _ _)⟩
      simp only [getVendor, htakes, Bool.not_true, Bool.false_eq_true, if_false, hbs, List.cons_append, List.nil_append]
  · have hno : takesMsg s.dev = false := eq_false_of_ne_true (by rw [takesMsg_iff, hw]; simp)
    have quiet {c f} (hc : exec c s = runQ f s) (h : f s.dev = s.dev) : exec c s = .next s := by rw [hc, runQ, h]
    simp only [List.mem_cons, List.not_mem_nil, or_false] at hc
    rcases hc with rfl | rfl | rfl | rfl | rfl
    · exact quiet rfl (by simp only [setEid, hno, Bool.not_false, if_true])
    · exact quiet rfl (by simp only [getEid, hno, Bool.false_eq_true, if_false])
    · exact quiet rfl (by simp only [getVersions, hno, Bool.not_false, if_true])
    · exact quiet rfl (by simp only [getTypes, hno, Bool.false_eq_true, if_false])
    · exact quiet rfl (by simp only [getVendor, hno, Bool.not_false, if_true])

end Sys2Proof
end

section
/-!
Messages of the control space, MCTP packets and attestation (R393, R395-R397, R328-R331).
-/
namespace Sys2Proof.Machine
open Sys2Proof Sys2Proof.SMapLaws

/-! ## Messages of the control space -/

/-- A well-placed access of 1 to 32 words. -/
def Placed (addr : Word) (n : Nat) : Prop := addr.toNat % 4 = 0 ∧ addr.toNat + 4 * n ≤ 2 ^ 32

theorem accessStatus_ok {addr : Word} {n : Nat} (hn : 1 ≤ n ∧ n ≤ 32) (ha : Placed addr n) : accessStatus addr n true = 0 := by
  obtain ⟨h1, h2⟩ := ha
  rw [accessStatus, if_neg (by omega), Bool.not_true, if_neg Bool.false_ne_true, if_neg (by omega)]
theorem accessStatus_count {addr : Word} {n : Nat} (hn : ¬ (1 ≤ n ∧ n ≤ 32)) (ok : Bool) : accessStatus addr n ok = 6 := by
  rw [accessStatus, if_pos (by omega)]
theorem accessStatus_length {addr : Word} {n : Nat} (hn : 1 ≤ n ∧ n ≤ 32) : accessStatus addr n false = 2 := by
  rw [accessStatus, if_neg (by omega), Bool.not_false, if_pos rfl]
theorem accessStatus_range {addr : Word} {n : Nat} (hn : 1 ≤ n ∧ n ≤ 32) (ha : ¬ Placed addr n) : accessStatus addr n true = 6 := by
  have h : addr.toNat % 4 ≠ 0 ∨ 2 ^ 32 < addr.toNat + 4 * n := by
    by_contra hc
    exact ha ⟨by omega, by omega⟩
  rw [accessStatus, if_neg (by omega), Bool.not_true, if_neg Bool.false_ne_true, if_pos h]

section Messages
variable {d : Dev} (hb : d.glb.base ∉ [Base.off, .sequencing, .withdrawn])
include hb

theorem readMsg_bad {p n : Nat} {seq : BitVec 8} {addr : Word} {ok : Bool} (h : accessStatus addr n ok ≠ 0) :
    readMsg p seq addr n ok d = (answer p 1 1 seq (BitVec.ofNat 8 (accessStatus addr n ok)) [] d, true) := by
  obtain ⟨h1, h2⟩ := (Bool.and_eq_true _ _).mp (takesMsg_iff.mpr hb)
  simp only [readMsg, h1, of_decide_eq_true h2, h, ne_eq, not_false_eq_true, Bool.not_true, decide_false, Bool.false_and, Bool.or_self,
    Bool.false_eq_true, if_false, if_true]

theorem readMsg_ok {p n : Nat} {seq : BitVec 8} {addr : Word} {ok : Bool} (h : accessStatus addr n ok = 0) : readMsg p seq addr n ok d =
    enqueue p ((List.zip (List.range n) (accessAddrs addr n)).map fun (e : Nat × Word) => CmdEnt.rd seq e.2 (decide (e.1 + 1 = n))) d := by
  obtain ⟨h1, h2⟩ := (Bool.and_eq_true _ _).mp (takesMsg_iff.mpr hb)
  simp only [readMsg, h1, of_decide_eq_true h2, h, ne_eq, not_true_eq_false, Bool.not_true, decide_false, Bool.false_and, Bool.or_self,
    Bool.false_eq_true, if_false]

theorem writeMsg_bad {p n : Nat} {seq : BitVec 8} {addr : Word} {ws : List Word} (h : accessStatus addr n (decide (ws.length = n)) ≠ 0) :
    writeMsg p seq addr n ws d = (answer p 1 2 seq (BitVec.ofNat 8 (accessStatus addr n (decide (ws.length = n)))) [0] d, true) := by
  simp only [writeMsg, takesMsg_iff.mpr hb, h, ne_eq, not_false_eq_true, Bool.not_true, Bool.false_eq_true, if_false, if_true]

theorem writeMsg_ok {p n : Nat} {seq : BitVec 8} {addr : Word} {ws : List Word} (h : accessStatus addr n (decide (ws.length = n)) = 0) :
    writeMsg p seq addr n ws d = enqueue p ((List.zip (List.range n) (List.zip (accessAddrs addr n) ws)).map fun (e : Nat × Word × Word) =>
      CmdEnt.wr seq e.2.1 e.2.2 (decide (e.1 + 1 = n))) d := by
  simp only [writeMsg, takesMsg_iff.mpr hb, h, ne_eq, not_true_eq_false, Bool.not_true, Bool.false_eq_true, if_false]

end Messages

theorem readEntries_eq (seq : BitVec 8) (addr : Word) (n : Nat) :
    (List.zip (List.range n) (accessAddrs addr n)).map (fun (e : Nat × Word) => CmdEnt.rd seq e.2 (decide (e.1 + 1 = n))) =
      (List.range n).map (fun i => .rd seq (addr + BitVec.ofNat 32 (4 * i)) (decide (i + 1 = n))) := by
  refine List.ext_getElem (by simp [accessAddrs]) fun i h1 h2 => ?_
  simp [accessAddrs]

theorem writeEntries_eq (seq : BitVec 8) (addr : Word) {n : Nat} {ws : List Word} (h : ws.length = n) :
    (List.zip (List.range n) (List.zip (accessAddrs addr n) ws)).map (fun (e : Nat × Word × Word) =>
      CmdEnt.wr seq e.2.1 e.2.2 (decide (e.1 + 1 = n))) =
      (List.range n).map (fun i => .wr seq (addr + BitVec.ofNat 32 (4 * i)) (ws.getD i 0) (decide (i + 1 = n))) := by
  refine List.ext_getElem (by simp [accessAddrs, h]) fun i h1 h2 => ?_
  have hi : i < ws.length := by simpa [h] using h2
  simp [accessAddrs, hi]

theorem enqueue_room {p : Nat} {es : List CmdEnt} {d : Dev} (h : (portOf d p).cmd.length + es.length ≤ 32) :
    enqueue p es d = (onPort p (fun q => { q with cmd := q.cmd ++ es }) d, true) := by
  rw [enqueue, if_neg (by omega)]
theorem enqueue_full {p : Nat} {es : List CmdEnt} {d : Dev} (h : 32 < (portOf d p).cmd.length + es.length) :
    enqueue p es d = (nackPacket p d, false) := by
  rw [enqueue, if_pos h]

theorem port_field {α : Type} {q r : SvcPort} (h : portRest q = portRest r) (f : SvcPort → α) (hf : ∀ x, f (portRest x) = f x := by intro; rfl) :
    f q = f r := by rw [← hf q, ← hf r, h]

theorem nackPacket_spec {p : Nat} (hp : p < 2) (d : Dev) :
    flag (nackPacket p d) (F.SVC_PORT_ERR_NACK p) = true ∧ (portOf (nackPacket p d) p).cmd = (portOf d p).cmd := by
  have haddr : (F.SVC_PORT_ERR_NACK p).addr = 0x100108 + 0x20 * p := rfl
  have hflag : flag (portSay p .nack (setB (F.SVC_PORT_ERR_NACK p) true d)) (F.SVC_PORT_ERR_NACK p) = true := by
    unfold flag getF regGet
    rw [portSay_keeps _ _ _ .regs (by decide)]
    exact flag_setB_at ⟨Nat.le_refl _, by simp [F.SVC_PORT_ERR_NACK]⟩ _ _
  refine ⟨?_, ?_⟩
  · rw [nackPacket, raiseOnce_flag (eventReg_false (.inl (by omega)) (by omega) (by omega) (by omega) (by omega)), hflag]
  · refine (port_field ((raiseOnce_rest (19000 + p) 19 p _).port p) SvcPort.cmd).trans ?_
    rw [portOf_portSay, portOf_of_svc (setB_svc _ _ _)]

/-! ## The executor -/

theorem find_turn {first p : Nat} (hf : first < 2) (hp : p < 2) {f : Nat → Bool} (h1 : f p = true) (h2 : f (1 - p) = false) :
    [first, 1 - first].find? f = some p := by
  by_cases h : first = p
  · subst h; rw [List.find?_cons_of_pos h1]
  · have h' : first = 1 - p := by omega
    have h'' : 1 - (1 - p) = p := by omega
    rw [h', List.find?_cons_of_neg (by simp [h2]), h'', List.find?_cons_of_pos h1]

theorem portReady_none {d : Dev} {p : Nat} (h1 : (portOf d p).cmd = []) (h2 : (portOf d p).waitCommit = none) : portReady d p = false := by
  simp only [portReady, h1, h2]

theorem portReady_read {d : Dev} {p : Nat} {seq : BitVec 8} {a : Word} {last : Bool} {rest : List CmdEnt} (h1 : (portOf d p).cmd = .rd seq a last :: rest)
    (h2 : (portOf d p).waitCommit = none) (h3 : (portOf d p).armCmd = false) (h4 : (portOf d p).armEv = false) : portReady d p = true := by
  simp only [portReady, h1, h2, h3, h4, Bool.not_false, Bool.and_self]

/-- The turn of the executor: port A or B. -/
def executorFirst (d : Dev) : Nat :=
  if getF d F.SVC_LOCK_OWNER = 0 ∧ headAcquires d 0 ∧ headAcquires d 1 then (if d.svc.lastOwnerB then 0 else 1) else (if d.svc.turnB then 0 else 1)

theorem executorFirst_lt (d : Dev) : executorFirst d < 2 := by
  unfold executorFirst
  split <;> split <;> decide

theorem executor_awake {d : Dev} (h : awake d = true) (mid : BitVec 2) :
    executor mid d = match [executorFirst d, 1 - executorFirst d].find? (portReady d) with
      | none => d
      | some p => portAccess p mid (onSvc (fun v => { v with turnB := decide (p = 1) }) d) := by
  simp only [executor, h, Bool.not_true, Bool.false_eq_true, if_false]
  rfl

theorem executor_idle {d : Dev} (h : ∀ p, portReady d p = false) (mid : BitVec 2) : executor mid d = d := by
  by_cases ha : awake d = true
  · rw [executor_awake ha, List.find?_cons_of_neg (by simp [h]), List.find?_cons_of_neg (by simp [h]), List.find?_nil]
  · simp only [executor, ha, Bool.not_false, if_true]

theorem executor_turn {d : Dev} {p : Nat} (ha : awake d = true) (hp : p < 2) (h1 : portReady d p = true) (h2 : portReady d (1 - p) = false)
    (mid : BitVec 2) : executor mid d = portAccess p mid (onSvc (fun v => { v with turnB := decide (p = 1) }) d) := by
  rw [executor_awake ha, find_turn (executorFirst_lt d) hp h1 h2]

/-- A control-space read leaves the port's command Rill and the words read so far. -/
theorem ctlRead_queue (p a : Nat) (d : Dev) :
    (portOf (ctlRead p a d).2 p).cmd = (portOf d p).cmd ∧ (portOf (ctlRead p a d).2 p).words = (portOf d p).words := by
  have hraise (n v : Nat) (x : Dev) (hx : portOf x p = portOf d p) :
      (portOf (raiseN n v x) p).cmd = (portOf d p).cmd ∧ (portOf (raiseN n v x) p).words = (portOf d p).words := by
    rw [← hx]
    exact ⟨port_field ((raiseN_rest n v x).port p) SvcPort.cmd, port_field ((raiseN_rest n v x).port p) SvcPort.words⟩
  unfold ctlRead
  split
  · split
    · exact ⟨rfl, rfl⟩
    · dsimp only [pageIsolated]
      exact hraise 367 p _ (portOf_of_svc (setB_svc _ _ _) p)
  · split
    · dsimp only [unmapped]
      exact hraise 4 a d rfl
    · split
      · rw [rillPop, portOf_onPort_same]
        split <;> exact ⟨rfl, rfl⟩
      · split
        · have hs : portOf (grtRead false d).2 p = portOf d p := portOf_of_svc (setF_svc _ _ _) p
          rw [hs]
          exact ⟨rfl, rfl⟩
        · split
          · exact ⟨rfl, rfl⟩
          · rw [capture, portOf_onPort_same]
            exact ⟨rfl, rfl⟩

/-- The executor's turn passes to a port. -/
def turnTo (p : Nat) (d : Dev) : Dev := onSvc (fun v => { v with turnB := decide (p = 1) }) d
/-- An entry of a port's command Rill is taken: the rest stays, and the lock timer restarts (R402). -/
def entryTaken (p : Nat) (rest : List CmdEnt) (d : Dev) : Dev := touch p (onPort p (fun q => { q with cmd := rest }) d)

theorem portOf_turnTo (p q : Nat) (d : Dev) : portOf (turnTo p d) q = portOf d q := by unfold portOf turnTo; split <;> rfl
theorem portOf_entryTaken (p : Nat) (rest : List CmdEnt) (d : Dev) : portOf (entryTaken p rest d) p = { portOf d p with cmd := rest } := by
  rw [entryTaken, portOf_touch, portOf_onPort_same]
theorem entryTaken_keeps (p : Nat) (rest : List CmdEnt) (d : Dev) : Safety.Keeps [.svc] d (entryTaken p rest (turnTo p d)) :=
  .step (touch_keeps _ _) rfl (.step (onPort_keeps _ _ _) rfl (onSvc_keeps _ _))

/-- A port's head read that is not its message's last: the word joins those read. -/
theorem portAccess_read {d : Dev} {p : Nat} {seq : BitVec 8} {a : Word} {rest : List CmdEnt} (h1 : (portOf d p).cmd = .rd seq a false :: rest)
    (h2 : (portOf d p).waitCommit = none) (hb : d.glb.base ≠ .withdrawn) (mid : BitVec 2) :
    portAccess p mid d = onPort p (fun q => { q with words := q.words ++ [(ctlRead p a.toNat (entryTaken p rest d)).1] })
      (ctlRead p a.toNat (entryTaken p rest d)).2 := by
  simp only [portAccess, h1, h2, hb, Option.isSome_none, Bool.false_eq_true, false_and, if_false]
  rfl

/-- The executor's turn on a head read that is not its message's last (R396). -/
theorem executor_read {d : Dev} {p : Nat} {seq : BitVec 8} {a : Word} {rest : List CmdEnt} (ha : awake d = true) (hp : p < 2)
    (h1 : portReady d p = true) (h2 : portReady d (1 - p) = false) (hb : d.glb.base ≠ .withdrawn)
    (hc : (portOf d p).cmd = .rd seq a false :: rest) (hw : (portOf d p).waitCommit = none) (mid : BitVec 2) :
    ∃ x, Safety.Keeps [.svc] d x ∧ (portOf (executor mid d) p).cmd = rest ∧
      (portOf (executor mid d) p).words = (portOf d p).words ++ [(ctlRead p a.toNat x).1] := by
  have hturn : executor mid d = portAccess p mid (turnTo p d) := executor_turn ha hp h1 h2 mid
  have hacc := portAccess_read (d := turnTo p d) (by rw [portOf_turnTo]; exact hc) (by rw [portOf_turnTo]; exact hw) hb mid
  obtain ⟨hcmd, hwords⟩ := ctlRead_queue p a.toNat (entryTaken p rest (turnTo p d))
  rw [portOf_entryTaken, portOf_turnTo] at hcmd hwords
  refine ⟨entryTaken p rest (turnTo p d), entryTaken_keeps _ _ _, ?_, ?_⟩
  · rw [hturn, hacc, portOf_onPort_same]
    exact hcmd
  · rw [hturn, hacc, portOf_onPort_same]
    exact congrArg (· ++ _) hwords

theorem supports_none {cls : BitVec 8} (h : cls = 0 ∨ 3 < cls.toNat) (cmd : Nat) : supports cls.toNat cmd = false := by
  rcases h with rfl | h
  · rfl
  · match hc : cls.toNat with
    | 0 | 1 | 2 | 3 => omega
    | n + 4 => rfl

end Sys2Proof.Machine

namespace Sys2Proof
open Sys2Proof.Machine

/-- Settles O35. -/
theorem serviceMessages : Obligations.ServiceMessages := by
  intro p seq addr count ok ws cls cmd mid s hb port q n runs replies sized placed nacked
  have direct {c f} {E : Dev → Prop} (hc : exec c s = runQ f s) (h : E (f s.dev)) : runs c E := ⟨_, hc, rfl, h⟩
  have answers {c f x y z w b} (hc : exec c s = runQ f s) (h : f s.dev = answer p.val x y z w b s.dev) : replies c (response x y z w b) :=
    ⟨_, hc, rfl, by rw [h]; exact ⟨congrArg SvcPort.out (portOf_portSay _ _ _), portSay_keeps _ _ _⟩⟩
  have nacks {c : Instr} {f} (hc : exec c s = runQ f s) (h : f s.dev = nackPacket p.val s.dev) : nacked c :=
    ⟨_, hc, rfl, by rw [h]; exact nackPacket_spec p.isLt _⟩
  have read (ok : Bool) : exec (.read p seq addr count ok) s = runQ (fun d => (readMsg p.val seq addr n ok d).1) s := rfl
  have write : exec (.write p seq addr count ws) s = runQ (fun d => (writeMsg p.val seq addr n ws d).1) s := rfl
  have whole {c f} {E : Dev → Prop} (hc : exec c s = run f s) (h : E (finish (stateByte s.dev) (f s.dev))) : runs c E := ⟨_, hc, rfl, h⟩
  clear_value nacked replies runs
  refine ⟨fun hn ha hroom => ⟨?_, fun hw => ?_⟩, fun hn ha hfull => ⟨?_, fun hw => ?_⟩, fun hn => ⟨?_, ?_⟩, fun hn => ⟨?_, fun hw => ?_⟩,
    fun hn ha => ⟨?_, fun hw => ?_⟩, fun hcls => ?_, fun hidle => ?_, fun a rest hc hwait hcmd hev hoc how => ?_⟩
  · refine direct (read true) ?_
    rw [readMsg_ok hb (accessStatus_ok hn ha), readEntries_eq, enqueue_room (by simpa using hroom)]
    dsimp only
    exact ⟨onPort_keeps _ _ _, congrArg SvcPort.cmd (portOf_onPort_same _ _ _)⟩
  · refine direct write ?_
    rw [writeMsg_ok hb (by rw [decide_eq_true hw]; exact accessStatus_ok hn ha), writeEntries_eq _ _ hw, enqueue_room (by simpa using hroom)]
    dsimp only
    exact ⟨onPort_keeps _ _ _, congrArg SvcPort.cmd (portOf_onPort_same _ _ _)⟩
  · refine nacks (read true) ?_
    rw [readMsg_ok hb (accessStatus_ok hn ha), readEntries_eq, enqueue_full (by simpa using hfull)]
  · refine nacks write ?_
    rw [writeMsg_ok hb (by rw [decide_eq_true hw]; exact accessStatus_ok hn ha), writeEntries_eq _ _ hw, enqueue_full (by simpa using hfull)]
  · refine answers (read ok) ?_
    rw [readMsg_bad hb (by rw [accessStatus_count hn]; decide), accessStatus_count hn]
    rfl
  · refine answers write ?_
    rw [writeMsg_bad hb (by rw [accessStatus_count hn]; decide), accessStatus_count hn]
    rfl
  · refine answers (read false) ?_
    rw [readMsg_bad hb (by rw [accessStatus_length hn]; decide), accessStatus_length hn]
    rfl
  · refine answers write ?_
    rw [writeMsg_bad hb (by rw [decide_eq_false hw, accessStatus_length hn]; decide), decide_eq_false hw, accessStatus_length hn]
    rfl
  · refine answers (read true) ?_
    rw [readMsg_bad hb (by rw [accessStatus_range hn ha]; decide), accessStatus_range hn ha]
    rfl
  · refine answers write ?_
    rw [writeMsg_bad hb (by rw [decide_eq_true hw, accessStatus_range hn ha]; decide), decide_eq_true hw, accessStatus_range hn ha]
    rfl
  · refine answers (f := fun d => if supports cls.toNat (cmd.toNat % 128) then d else unsupported p.val cls (cmd &&& 0x7F) seq d) rfl ?_
    have h2 : cls ≠ 2 := by rintro rfl; simp at hcls
    rw [supports_none hcls, if_neg Bool.false_ne_true, unsupported, takesMsg_iff.mpr hb, Bool.not_true, if_neg Bool.false_ne_true]
    exact if_neg h2
  · have hex : executor mid s.dev = s.dev := executor_idle (fun r => portReady_none (hidle r).1 (hidle r).2) mid
    show run (executor mid) s = _
    rw [run, hex, finish_rest rfl rfl]
  · have hready : portReady s.dev p.val = true := portReady_read hc hwait hcmd hev
    have hother : portReady s.dev (1 - p.val) = false := portReady_none hoc how
    have hawake : awake s.dev = true := ((Bool.and_eq_true _ _).mp (takesMsg_iff.mpr hb)).1
    obtain ⟨d, hk, hcmd', hwords⟩ := executor_read hawake p.isLt hready hother (fun h => hb (by simp [h])) hc hwait mid
    refine whole rfl ⟨?_, d, hk, ?_⟩
    · exact (port_field ((finish_rest' _ _).port p.val) SvcPort.cmd).trans hcmd'
    · exact (port_field ((finish_rest' _ _).port p.val) SvcPort.words).trans hwords

end Sys2Proof
end

section
/-!
MCTP packets, attestation, counters and the Ledger (R393, R328-R331, R415-R425).
-/
namespace Sys2Proof.Machine
open Sys2Proof Sys2Proof.SMapLaws

/-! ## MCTP packets -/

/-- A discarded packet or message: its bit of SVC_PORT_p_ERR, and event 18. -/
theorem discardMsg_spec {p : Nat} (hp : p < 2) {f : Fld} (ha : f.addr = 0x100108 + 0x20 * p) (hf : f.lo ≤ f.hi ∧ f.hi < 32) (bit : Nat) (d : Dev) :
    (portOf (discardMsg p f bit d) p).asm = (portOf d p).asm ∧ flag (discardMsg p f bit d) f = true ∧
      Safety.pending (discardMsg p f bit d) 18 = true := by
  unfold discardMsg
  refine ⟨?_, ?_, raiseN_pending _ _ _ (by decide) (.inl rfl)⟩
  · refine (port_field ((raiseN_rest 18 (bit + p * 256) _).port p) SvcPort.asm).trans ?_
    rw [portOf_of_svc (setB_svc _ _ _)]
  · rw [raiseN_flag (eventReg_false (.inl (by omega)) (by omega) (by omega) (by omega) (by omega)), flag_setB_at hf]

/-- Whether a packet's payload has the size of its place in a message (R393). -/
def Sized (k : Packet) (mwl : Nat) : Prop := 1 ≤ k.payload.length ∧ k.payload.length ≤ mwl ∧ (k.eom = true ∨ 64 ≤ k.payload.length)

theorem sized_iff {k : Packet} {mwl : Nat} : (decide (1 ≤ k.payload.length) && decide (k.payload.length ≤ mwl) &&
    (k.eom || decide (64 ≤ k.payload.length))) = true ↔ Sized k mwl := by
  simp only [Sized, Bool.and_eq_true, Bool.or_eq_true, decide_eq_true_eq, and_assoc]

section Packets
variable {p : Nat} {k : Packet} {d : Dev} (ha : awake d = true)
include ha

theorem packetIn_pec (h : k.pecOk = false) :
    packetIn p k d = discardMsg p (F.SVC_PORT_ERR_PEC p) 0 (onPort p (fun q => { q with asm := none }) d) := by
  simp only [packetIn, ha, h, Bool.not_true, Bool.not_false, Bool.false_eq_true, if_false, if_true]

theorem packetIn_hdr (h : k.pecOk = true) (hh : k.hdrOk = false ∨ ¬ Sized k (portOf d p).mwl) :
    packetIn p k d = discardMsg p (F.SVC_PORT_ERR_HDR p) 1 (onPort p (fun q => { q with asm := none }) d) := by
  rw [← sized_iff, Bool.not_eq_true] at hh
  have hbad : (!k.hdrOk || !(decide (1 ≤ k.payload.length) && decide (k.payload.length ≤ (portOf d p).mwl) &&
    (k.eom || decide (64 ≤ k.payload.length)))) = true := by
    rcases hh with hh | hh <;> simp only [hh, Bool.not_false, Bool.true_or, Bool.or_true]
  simp only [packetIn, ha, h, hbad, Bool.not_true, Bool.false_eq_true, if_false, if_true]

theorem packetIn_good (h : k.pecOk = true) (hh : k.hdrOk = true) (hs : Sized k (portOf d p).mwl) : packetIn p k d = assemble p k d := by
  rw [← sized_iff] at hs
  simp only [packetIn, ha, h, hh, hs, Bool.not_true, Bool.or_self, Bool.false_eq_true, if_false]

end Packets

/-- A start of message, alone or after a partial message that it discards. -/
theorem assemble_start {p : Nat} {k : Packet} {d : Dev} (hs : k.som = true) (he : k.eom = false) (hl : k.payload.length ≤ 1024) :
    assemble p k d = onPort p (fun q => { q with asm := some k.payload })
      (if (portOf d p).asm.isSome then discardMsg p (F.SVC_PORT_ERR_PARTIAL p) 3 d else d) := by
  simp only [assemble, hs, he, Bool.true_and, if_true, List.nil_append, Nat.not_lt.mpr hl, Bool.not_false, if_false]

theorem assemble_joins {p : Nat} {k : Packet} {d : Dev} {l : List (BitVec 8)} (hs : k.som = false) (he : k.eom = false)
    (ha : (portOf d p).asm = some l) (hl : l.length + k.payload.length ≤ 1024) :
    assemble p k d = onPort p (fun q => { q with asm := some (l ++ k.payload) }) d := by
  simp only [assemble, hs, he, ha, Bool.false_and, Bool.false_eq_true, if_false, List.length_append, Nat.not_lt.mpr hl, Bool.not_false, if_true]

theorem assemble_oversize {p : Nat} {k : Packet} {d : Dev} {l : List (BitVec 8)} (hs : k.som = false) (ha : (portOf d p).asm = some l)
    (hl : 1024 < l.length + k.payload.length) :
    assemble p k d = discardMsg p (F.SVC_PORT_ERR_OVERSIZE p) 2 (onPort p (fun q => { q with asm := none }) d) := by
  simp only [assemble, hs, ha, Bool.false_and, Bool.false_eq_true, if_false, List.length_append, hl, if_true]

/-- A Get Message Type Support request in one packet (R393). -/
theorem assemble_getTypes {p : Nat} {k : Packet} {d : Dev} (hb : d.glb.base ∉ [Base.off, .sequencing, .withdrawn]) (hs : k.som = true)
    (he : k.eom = true) (ha : (portOf d p).asm = none) (hp : k.payload = [0x00, 0x80, 0x05]) :
    assemble p k d = ctrlSays p [0x05, 0x00, 0x01, 0x7F] (onPort p (fun q => { q with asm := none }) d) := by
  have htakes : takesMsg (onPort p (fun q => { q with asm := none }) d) = true := takesMsg_iff.mpr (by rw [onPort_glb]; exact hb)
  have hbody (e : Dev) (h : takesMsg e = true) : messageBody p [0x00, 0x80, 0x05] e = (ctrlSays p [0x05, 0x00, 0x01, 0x7F] e, true) := by
    show (getTypes p e, true) = _
    rw [getTypes, if_pos h]
  simp only [assemble, hs, he, ha, hp, Bool.true_and, Option.isSome_none, Bool.false_eq_true, if_false, if_true, List.nil_append,
    Bool.not_true, hbody _ htakes]
  rfl

/-! ## Attestation -/

theorem attestIn_late {d : Dev} (h : d.glb.base ∉ [Base.off, .sequencing, .withdrawn, .loading, .recovering]) (p : Nat) (cmd seq : BitVec 8)
    (f : Dev → Dev) : attestIn p cmd seq f d = f d := by
  unfold attestIn
  split <;> simp_all

theorem attestIn_early {d : Dev} (h : d.glb.base ∈ [Base.loading, .recovering]) (p : Nat) (cmd seq : BitVec 8)
    (f : Dev → Dev) : attestIn p cmd seq f d = attest p cmd seq 5 [] d := by
  unfold attestIn
  split <;> simp_all

theorem attest_ok (p : Nat) (cmd seq : BitVec 8) (b : List (BitVec 8)) (d : Dev) : attest p cmd seq 0 b d = answer p 2 cmd seq 0 b d := by
  rw [attest, if_pos rfl]
  rfl

theorem attest_bad {p st : Nat} {cmd seq : BitVec 8} {b : List (BitVec 8)} (d : Dev) (h : st ≠ 0) :
    Safety.pending (attest p cmd seq st b d) 11 = true ∧ (portOf (attest p cmd seq st b d) p).report = (portOf d p).report := by
  rw [attest, if_neg h]
  refine ⟨raiseN_pending _ _ _ (by decide) (.inl rfl), (port_field ((raiseN_rest _ _ _).port p) SvcPort.report).trans ?_⟩
  rw [answer, portOf_portSay]

/-- What GET_CERT answers once attestation is answered at all: the offset lies in the chain, or event 11 (R330). -/
def certAnswer (p : Nat) (seq : BitVec 8) (off : Nat) (d : Dev) : Dev :=
  if Config.certChain.length ≤ off then attest p 3 seq 4 [] d
  else attest p 3 seq 0 (bytesLE 2 Config.certChain.length ++ (Config.certChain.drop off).take 960) d

theorem getCert_eq (p : Nat) (seq : BitVec 8) (off : Nat) (d : Dev) : getCert p seq off d = attestIn p 3 seq (certAnswer p seq off) d := by
  unfold getCert certAnswer
  rfl

theorem reportBody_onPort (p : Nat) (f : SvcPort → SvcPort) (d : Dev) (nonce : BitVec 256) (mask : BitVec 8) :
    reportBody (onPort p f d) nonce mask = reportBody d nonce mask := by
  unfold onPort
  split <;> rfl

/-- A signed report goes out, and the port waits for none (R331). -/
theorem reportSigned_spec {p : Nat} {d : Dev} {seq : BitVec 8} {nonce : BitVec 256} {mask : BitVec 8} (h : (portOf d p).report = some (seq, nonce, mask))
    (hb : d.glb.base ∉ [Base.off, .sequencing, .withdrawn]) : ∃ sig : BitVec 768, (portOf (reportSigned p d) p).report = none ∧
      (portOf (reportSigned p d) p).out = (portOf d p).out ++
        [.body (response 2 4 seq 0 (reportBody d nonce mask ++ (bytesLE 96 sig.toNat).reverse))] := by
  have ht : takesMsg (onPort p (fun q => { q with report := none }) d) = true := takesMsg_iff.mpr (by rw [onPort_glb]; exact hb)
  have hfree (e : Dev) (n q : Nat) : portOf { e with free := n } q = portOf e q := rfl
  simp only [reportSigned, h, ht, Bool.not_true, Bool.false_eq_true, if_false, attest_ok, answer, portOf_portSay, hfree, portOf_onPort_same,
    reportBody_onPort]
  exact ⟨_, trivial, rfl⟩

end Sys2Proof.Machine

namespace Sys2Proof
open Sys2Proof.Machine

/-- Settles O36. -/
theorem mctpPackets : Obligations.MctpPackets := by
  intro p k s hb port q runs bad sized
  have direct {f} {E : Dev → Prop} (hc : packetIn p.val k s.dev = f) (h : E f) : runs (.mctpPacket p k) E := ⟨_, rfl, rfl, hc ▸ h⟩
  have ha : awake s.dev = true := ((Bool.and_eq_true _ _).mp (takesMsg_iff.mpr hb)).1
  have discards {f : Fld} (n : Nat) (h1 : f.addr = 0x100108 + 0x20 * p.val) (h2 : f.lo ≤ f.hi ∧ f.hi < 32) :
      bad f (discardMsg p.val f n (onPort p.val (fun q => { q with asm := none }) s.dev)) := by
    obtain ⟨k1, k2, k3⟩ := discardMsg_spec p.isLt h1 h2 n (onPort p.val (fun q => { q with asm := none }) s.dev)
    exact ⟨k1.trans (by rw [portOf_onPort_same]), k2, k3⟩
  clear_value runs
  refine ⟨fun hpec => ?_, fun hpec hbad => ?_, fun hpec hhdr hs heom => ⟨fun hsom hl => ?_, fun l hsom hasm => ⟨fun hl => ?_, fun hl => ?_⟩⟩,
    fun hpec hhdr hs hsom heom hasm hpay => ?_⟩
  · exact direct (packetIn_pec ha hpec) (discards 0 rfl (by simp [F.SVC_PORT_ERR_PEC]))
  · exact direct (packetIn_hdr ha hpec hbad) (discards 1 rfl (by simp [F.SVC_PORT_ERR_HDR]))
  · refine direct ((packetIn_good ha hpec hhdr hs).trans (assemble_start hsom heom hl)) ⟨?_, fun hq => ?_⟩
    · simp only [port, portOf_onPort_same]
    · obtain ⟨-, k2, k3⟩ := discardMsg_spec (f := F.SVC_PORT_ERR_PARTIAL p.val) p.isLt rfl (by simp [F.SVC_PORT_ERR_PARTIAL]) 3 s.dev
      rw [if_pos hq]
      refine ⟨?_, ?_⟩
      · unfold flag getF regGet; rw [onPort_regs]; exact k2
      · rw [(Bank.of_regs (onPort_regs _ _ _)).pending (by decide)]; exact k3
  · refine direct ((packetIn_good ha hpec hhdr hs).trans (assemble_joins hsom heom hasm hl)) ?_
    simp only [port, portOf_onPort_same]
  · exact direct ((packetIn_good ha hpec hhdr hs).trans (assemble_oversize hsom hasm hl)) (discards 2 rfl (by simp [F.SVC_PORT_ERR_OVERSIZE]))
  · refine direct ((packetIn_good ha hpec hhdr hs).trans (assemble_getTypes hb hsom heom hasm hpay)) ?_
    simp only [port, ctrlSays, portOf_portSay, portOf_onPort_same]
    exact ⟨rfl, trivial⟩

/-- Settles O37. -/
theorem attestation : Obligations.Attestation := by
  intro p seq off nonce mask s port q runs tells asks chain
  have direct {c f} {E : Dev → Prop} (hc : exec c s = runQ f s) (h : E (f s.dev)) : runs c E := ⟨_, hc, rfl, h⟩
  have answers {c f cmd b} (hc : exec c s = runQ f s) (h : f s.dev = answer p.val 2 cmd seq 0 b s.dev) : tells c cmd b :=
    ⟨_, hc, rfl, by rw [h]; exact ⟨congrArg SvcPort.out (portOf_portSay _ _ _), portSay_keeps _ _ _⟩⟩
  have early {c f cmd g} (hb : s.dev.glb.base ∈ [.loading, .recovering]) (hc : exec c s = runQ f s) (h : f s.dev = attestIn p.val cmd seq g s.dev) :
      runs c (fun e => Safety.pending e 11 = true ∧ (port e).report = q.report) := by
    refine ⟨_, hc, rfl, ?_⟩
    rw [h, attestIn_early hb]
    dsimp only
    exact attest_bad s.dev (by decide)
  clear_value tells runs
  refine ⟨fun hb => ⟨?_, ?_, fun ho => ?_, fun ho => ?_, fun hr => ?_, fun hr => ?_⟩, fun hb hr => ?_, fun hb c hc => ?_⟩
  · refine answers rfl ?_
    rw [getVersion, attestIn_late hb, attest_ok]
  · refine answers rfl ?_
    rw [getIdentity, attestIn_late hb, attest_ok]
  · refine answers rfl ?_
    rw [getCert_eq, attestIn_late hb, certAnswer, if_neg (Nat.not_le.mpr ho), attest_ok]
  · refine direct rfl ?_
    rw [getCert_eq, attestIn_late hb, certAnswer, if_pos ho]
    exact (attest_bad _ (by decide)).1
  · refine direct rfl ?_
    simp only [getReport, attestIn_late hb]
    rw [if_neg (by rw [show (portOf s.dev p.val).report = none from hr]; simp)]
    simp only [port, portOf_onPort_same]
    exact ⟨trivial, rfl⟩
  · refine direct rfl ?_
    simp only [getReport, attestIn_late hb]
    rw [if_pos hr]
    exact (attest_bad _ (by decide)).symm
  · obtain ⟨sig, hspec⟩ := reportSigned_spec hr hb
    exact ⟨sig, direct rfl hspec⟩
  · simp only [asks, List.mem_cons, List.not_mem_nil, or_false] at hc
    rcases hc with rfl | rfl | rfl | rfl
    · exact early hb rfl rfl
    · exact early hb rfl rfl
    · exact early hb rfl (getCert_eq _ _ _ _)
    · exact early hb rfl rfl

end Sys2Proof
end

section
/-!
Counters, Gecko records and the Ledger (R415-R425).
-/
namespace Sys2Proof.Machine
open Sys2Proof Sys2Proof.SMapLaws

/-! ## Counters -/

theorem upd_get {α : Type} [DecidableEq α] (x : α) (m : SMap α) (k i : Nat) (f : α → α) :
    (m.upd x k f).get x i = if i = k then f (m.get x i) else m.get x i := by
  by_cases h : i = k
  · rw [if_pos h, h, get_upd_same]
  · rw [if_neg h, get_upd_ne _ _ _ h]

theorem put_get {α : Type} [DecidableEq α] (x : α) (m : SMap α) (k i : Nat) (v : α) :
    (m.put x k v).get x i = if i = k then v else m.get x i := by
  by_cases h : i = k
  · rw [if_pos h, h, get_put_same]
  · rw [if_neg h, get_put_ne _ _ _ h]

theorem setFreeze_spec (on : Bool) (d : Dev) : flag (setFreeze on d) F.OBS_CTL_FREEZE = on ∧ (setFreeze on d).obs = d.obs ∧
    flag (setFreeze on d) F.OBS_CTL_FROZEN = (on && flag d F.OBS_CTL_FROZEN) := by
  unfold setFreeze
  cases on
  · refine ⟨?_, rfl, flag_setB_at (by decide) _ _⟩
    exact (flag_setB_apart (by decide) _ _).trans (flag_setB_at (by decide) _ _)
  · exact ⟨flag_setB_at (by decide) _ _, rfl, flag_setB_apart (by decide) _ _⟩

/-- A sweep that the store takes (R416). -/
theorem counterSweep_spec {d : Dev} (h : flag d F.OBS_CTL_FROZEN = false) :
    let e := counterSweep d
    e.obs.store = d.obs.ctrs ∧ e.obs.ctrs = d.obs.ctrs ∧
      getF e F.OBS_CNT_NUM_SWEEPS = (getF d F.OBS_CNT_NUM_SWEEPS + 1) % 65536 ∧ flag e F.OBS_CTL_FROZEN = flag d F.OBS_CTL_FREEZE := by
  intro e
  have he : e = whenD (flag d F.OBS_CTL_FREEZE) (setB F.OBS_CTL_FROZEN true) (setF F.OBS_CNT_NUM_SWEEPS (getF d F.OBS_CNT_NUM_SWEEPS + 1)
      (onObs (fun o => { o with store := o.ctrs, sweptAt := some d.glb.tick }) d)) := by
    simp only [e, counterSweep, h, Bool.false_eq_true, if_false, getF_onObs, flag_setF_apart (f := F.OBS_CNT_NUM_SWEEPS) (g := F.OBS_CTL_FREEZE) (by decide),
      flag_onObs]
  have hnum : getF (setF F.OBS_CNT_NUM_SWEEPS (getF d F.OBS_CNT_NUM_SWEEPS + 1) (onObs (fun o => { o with store := o.ctrs, sweptAt := some d.glb.tick }) d))
      F.OBS_CNT_NUM_SWEEPS = (getF d F.OBS_CNT_NUM_SWEEPS + 1) % 65536 := getF_setF_same _ _ _ (by decide) (by decide)
  rw [he, whenD]
  split
  · next hf => exact ⟨rfl, rfl, (getF_setB_apart (by decide) _ _).trans hnum, (flag_setB_at (by decide) _ _).trans hf.symm⟩
  · next hf =>
    refine ⟨rfl, rfl, hnum, ?_⟩
    rw [flag_setF_apart (by decide), flag_onObs, h, eq_false_of_ne_true hf]

/-! ## The Ledger -/

theorem answer_told (p : Nat) (x cmd seq st : BitVec 8) (b : List (BitVec 8)) (d : Dev) :
    ∃ l, (portOf (answer p x cmd seq st b d) p).out = l ++ [.body (response x cmd seq st b)] := ⟨_, congrArg SvcPort.out (portOf_portSay _ _ _)⟩

/-- A Ledger command on a port whose command Rill is empty is carried out at once (R396). -/
theorem ledgerMsg_now {p : Nat} {seq : BitVec 8} {c : LedCmd} {d : Dev} (hb : d.glb.base ∉ [Base.off, .sequencing, .withdrawn])
    (h1 : (portOf d p).cmd = []) (h2 : (portOf d p).waitCommit = none) (h3 : (portOf d p).armCmd = false) (h4 : (portOf d p).armEv = false) :
    ledgerMsg p seq c d = (ledCarry p seq c (touch p d), true) := by
  simp only [ledgerMsg, takesMsg_iff.mpr hb, h1, h2, h3, h4, Bool.not_true, Bool.not_false, Bool.false_eq_true, if_false, and_self, if_true]

/-- A write-out that has room puts the whole buffer in the area (R423). -/
theorem ledgerWrite_room {d : Dev} (h1 : grtRefuses d 24 = false) (h2 : d.obs.area.length + d.obs.buf.length ≤ 12288) :
    (ledgerWrite d).1.obs.area = d.obs.area ++ d.obs.buf ∧ (ledgerWrite d).2 = true := by
  have hn : min (12288 - d.obs.area.length) d.obs.buf.length = d.obs.buf.length := by omega
  have hg (x : Obs → Obs) : grtRefuses (onObs x d) 24 = false := h1
  simp only [ledgerWrite, h1, hg, Bool.false_eq_true, if_false, hn, Nat.sub_self, if_true, decide_true, and_true]
  have hall : ∀ f : Fld, ∀ b : Bool, ∀ g : Obs → Obs, (g d.obs).area = d.obs.area ++ d.obs.buf.take d.obs.buf.length →
      (setB f b (onObs g d)).obs.area = d.obs.area ++ d.obs.buf := fun f b g h => by rw [setB_obs, onObs_obs, h, List.take_length]
  split
  · exact hall _ _ _ rfl
  · exact ((raiseN_rest _ _ _).area.trans (count_rest _ _).area).trans (hall _ _ _ rfl)

theorem clearStatus_good {p : Nat} {upto : Word} {slot : BitVec 8} {pk : BitVec 384} {sig : BitVec 768} {d : Dev} {n : BitVec 256 × Nat} {f : FuseSlot}
    (hown : getF d F.SVC_LOCK_OWNER = p + 1) (hn : d.obs.nonce = some n) (hf : d.glb.fuses[slot.toNat]? = some f) (hp : f.programmed = true)
    (hr : f.revoked = false) (hk : f.hash = pk) (hs : Config.ecdsaVerify pk (clearDigest n.1 upto) sig = true)
    (hg : grtRefuses d 24 = false) (ha : d.obs.area.length < 12288) : clearStatus p upto slot pk sig d = 0 := by
  simp only [clearStatus, hown, hn, hf, hp, hr, hk, hs, hg, Nat.not_le.mpr ha, ne_eq, not_true_eq_false, Bool.not_true, decide_false, Bool.or_self,
    Bool.false_eq_true, if_false]

/-- The record a CLEAR leaves of itself (R425). -/
def clearRec (p : Nat) (upto : Word) (slot : BitVec 8) (d : Dev) : LedRec :=
  { seq := d.obs.nextSeq, tick := d.glb.tick, evnum := 482, kind := 5, arg := upto, detail := bytesLE 4 upto.toNat ++ [BitVec.ofNat 8 p, slot, 0] }

/-- The records once a CLEAR took effect: those after UPTO, and its own. -/
def clearTaken (p : Nat) (upto : Word) (slot : BitVec 8) (d : Dev) : Dev :=
  let keep (l : List LedRec) := l.filter fun r => upto.toNat < r.seq
  onObs (fun o => { o with area := keep o.area ++ [clearRec p upto slot d], buf := keep o.buf, nextSeq := o.nextSeq + 1 })
    (onObs (fun o => { o with nonce := none }) d)

/-- What a CLEAR with a good signature leaves (R425). -/
theorem ledClear_good {p : Nat} {seq : BitVec 8} {upto : Word} {slot : BitVec 8} {pk : BitVec 384} {sig : BitVec 768} {d : Dev}
    (h : clearStatus p upto slot pk sig d = 0) :
    let e := ledClear p seq upto slot pk sig d
    (∃ l, (portOf e p).out = l ++ [.body (response 3 4 seq 0 [])]) ∧ Safety.pending e 482 = true ∧ e.obs.nonce = none ∧
      ∃ r, r.seq = d.obs.nextSeq ∧ r.evnum = 482 ∧ e.obs.area = (d.obs.area.filter fun x => upto.toNat < x.seq) ++ [r] := by
  intro e
  have he : e = answer p 3 4 seq 0 [] (raise 482 upto (setB F.OBS_LED_STS_GFULL false (clearTaken p upto slot d))) := by
    simp only [e, ledClear, h, OfNat.zero_ne_ofNat, if_false, if_true, clearTaken, clearRec]
    rfl
  have hrest : Rest (setB F.OBS_LED_STS_GFULL false (clearTaken p upto slot d)) (raise 482 upto (setB F.OBS_LED_STS_GFULL false (clearTaken p upto slot d))) :=
    raiseBy_rest _ _ _ _
  rw [he]
  refine ⟨answer_told _ _ _ _ _ _ _, ?_, ?_, clearRec p upto slot d, rfl, rfl, ?_⟩
  · rw [(Bank.of_regs answer_regs).pending (by decide)]
    exact raiseBy_pending _ _ _ _ (by decide) (.inl rfl)
  · rw [answer_obs, hrest.nonce, setB_obs]
    rfl
  · rw [answer_obs, hrest.area, setB_obs]
    rfl

/-- What GET_INFO answers; the oldest SEQ is that of the first record held, and with none free (R424). -/
theorem ledInfo_told (p : Nat) (seq : BitVec 8) (d : Dev) : ∃ old : Nat, (∀ r rest, d.obs.area ++ d.obs.buf = r :: rest → old = r.seq) ∧
    ∃ l, (portOf (ledInfo p seq d) p).out = l ++ [.body (response 3 1 seq 0 (bytesLE 4 old ++ bytesLE 4 d.obs.nextSeq ++
      bytesLE 2 d.obs.buf.length ++ bytesLE 2 d.obs.area.length ++ bytesLE 4 (getF d F.OBS_LED_DROP_COUNT) ++
      bytesLE 4 (getF d F.OBS_LED_SUPP_COUNT)))] := by
  cases h : d.obs.area ++ d.obs.buf with
  | nil =>
    refine ⟨(drawFree d).1.toNat, fun r rest hr => (List.cons_ne_nil _ _ hr.symm).elim, ?_⟩
    rw [ledInfo, h]
    exact answer_told _ _ _ _ _ _ _
  | cons r rest =>
    refine ⟨r.seq, fun r' rest' hr => by cases hr; rfl, ?_⟩
    rw [ledInfo, h]
    exact answer_told _ _ _ _ _ _ _

theorem nonceLapse_lapsed {d : Dev} {n : BitVec 256 × Nat} (h : d.obs.nonce = some n) (ht : n.2 + 2 ^ 20 ≤ d.glb.tick) :
    (nonceLapse d).obs.nonce = none := by
  simp only [nonceLapse, h, ht, if_true]
  rfl

end Sys2Proof.Machine

namespace Sys2Proof
open Sys2Proof.Machine

/-- Settles O38. -/
theorem countersAndRecords : Obligations.CountersAndRecords := by
  intro p on s o d sel frozen runs
  have reach hb {p c f} {E : Dev → Prop} (hc : exec c s = runQ (viaPort p f) s) (h : E (f (touch p s.dev))) : runs c E := viaPort_runs hb hc h
  have direct {c f} {E : Dev → Prop} (hc : exec c s = runQ f s) (h : E (f s.dev)) : runs c E := ⟨_, hc, rfl, h⟩
  clear_value runs
  refine ⟨fun hb => ⟨?_, ?_, ?_, ?_⟩, fun hf => direct rfl (counterSweep_spec hf), fun hf => ?_⟩
  · refine reach hb rfl ⟨fun i => ?_, .step (onObs_keeps _ _) rfl (.mono rfl (touch_keeps _ _))⟩
    simp only [o, ctrClrWrap, onObs_obs, upd_get, touch_getF, touch_obs]
    rfl
  · refine reach hb rfl ⟨fun i => ?_, .step (onObs_keeps _ _) rfl (.mono rfl (touch_keeps _ _))⟩
    simp only [o, ctrZero, onObs_obs, put_get, touch_getF, touch_obs]
    rfl
  · refine reach hb rfl ⟨?_, ?_, .step (onObs_keeps _ _) rfl (.mono rfl (touch_keeps _ _))⟩ <;>
      simp only [o, gkPop, onObs_obs, touch_obs, d]
  · refine reach hb rfl ?_
    obtain ⟨h1, h2, h3⟩ := setFreeze_spec on (touch p.val s.dev)
    exact ⟨h1, h2.trans touch_obs, h3.trans (by rw [touch_flag])⟩
  · have heq : counterSweep d = d := if_pos hf
    show runQ counterSweep s = _
    rw [runQ, heq]

/-- Settles O39. -/
theorem ledgerCommands : Obligations.LedgerCommands := by
  intro p seq first upto count slot pk sig s d port q runs told room
  have direct {c f} {E : Dev → Prop} (hc : exec c s = runQ f s) (h : E (f s.dev)) : runs c E := ⟨_, hc, rfl, h⟩
  clear_value runs
  refine ⟨fun hb h1 h2 h3 h4 => ?_, fun hdue hroom => ?_, fun n hn ht => direct rfl (nonceLapse_lapsed hn ht)⟩
  · have now (c : LedCmd) : (ledgerMsg p.val seq c d).1 = ledCarry p.val seq c (touch p.val d) := by rw [ledgerMsg_now hb h1 h2 h3 h4]
    have carries {c x} {E : Dev → Prop} (hc : exec c s = runQ (fun d => (ledgerMsg p.val seq x d).1) s) (h : E (ledCarry p.val seq x (touch p.val d))) :
        runs c E := direct hc (by rw [now]; exact h)
    refine ⟨?_, fun h1 h15 => ?_, ?_, fun n f hown hn hf hprog hrev hpk hsig hg ha => ?_, fun hroom => ?_⟩
    · obtain ⟨old, hold, htold⟩ := ledInfo_told p.val seq (touch p.val d)
      rw [touch_obs] at hold htold
      simp only [touch_getF] at htold
      exact ⟨old, hold, carries rfl htold⟩
    · refine carries rfl ?_
      have hread : ¬ (count.toNat = 0 ∨ 15 < count.toNat) := by omega
      rw [ledCarry, ledRead, if_neg hread]
      simp only [ledFind, touch_obs]
      exact answer_told _ _ _ _ _ _ _
    · refine ⟨Config.freeNonce d.free, carries rfl ⟨?_, ?_⟩⟩
      · rw [ledCarry, ledNonce, touch_free]
        exact answer_told _ _ _ _ _ _ _
      · rw [ledCarry, ledNonce, answer_obs, onObs_obs, touch_glb, touch_free]
    · refine carries rfl ?_
      have hst : clearStatus p.val upto slot pk sig (touch p.val d) = 0 :=
        clearStatus_good (touch_getF.trans hown) ((congrArg Obs.nonce touch_obs).trans hn) (by rw [touch_glb]; exact hf) hprog hrev hpk hsig
          (by rw [grtRefuses, touch_grt]; exact hg) (by rw [touch_obs]; exact ha)
      have := ledClear_good (seq := seq) hst
      rw [touch_obs] at this
      exact this
    · refine carries rfl ?_
      obtain ⟨hw1, hw2⟩ := ledgerWrite_room (d := touch p.val d) (by rw [grtRefuses, touch_grt]; exact hroom.1) (by rw [touch_obs]; exact hroom.2)
      rw [touch_obs] at hw1
      simp only [ledCarry, ledFlushCmd, hw2, if_true]
      exact ⟨answer_told _ _ _ _ _ _ _, by rw [answer_obs]; exact hw1⟩
  · refine direct rfl ?_
    rw [ledgerGrottoWrite, if_pos hdue]
    exact (ledgerWrite_room hroom.1 hroom.2).1

end Sys2Proof
end

section
/-!
Links: what sending, counting and raising leave of a link, lane swaps and half width (R98, R99).
-/
namespace Sys2Proof.Machine
open Sys2Proof Sys2Proof.SMapLaws

/-! ## What sending, counting and raising leave alone -/

/-- What raising events, counting and sending leave of the device: the rest of ports, links and records, every register but those of
events, the base state and the tick; no event leaves EVT_PEND. -/
structure Quiet (d e : Dev) : Prop where
  rest : Rest d e
  fld : ∀ f : Fld, Safety.eventReg f.addr = false → getF e f = getF d f
  pend : ∀ m < 512, Safety.pending d m = true → Safety.pending e m = true
  base : e.glb.base = d.glb.base
  tick : e.glb.tick = d.glb.tick

namespace Quiet

theorem refl (d : Dev) : Quiet d d := ⟨.refl _, fun _ _ => rfl, fun _ _ h => h, rfl, rfl⟩

theorem trans {a b c : Dev} (h : Quiet a b) (k : Quiet b c) : Quiet a c :=
  ⟨h.rest.trans k.rest, fun f hf => (k.fld f hf).trans (h.fld f hf), fun m hm hp => k.pend m hm (h.pend m hm hp),
    k.base.trans h.base, k.tick.trans h.tick⟩

theorem of_keeps {M : List Safety.Part} {d e : Dev} (hk : Safety.Keeps M d e) (hr : Rest d e)
    (hp : ∀ m < 512, Safety.pending d m = true → Safety.pending e m = true)
    (hm : Safety.Part.plain ∉ M ∧ Safety.Part.base ∉ M ∧ Safety.Part.tick ∉ M := by decide) : Quiet d e :=
  ⟨hr, fun _ hf => getF_plain hk hm.1 hf, hp, hk .base hm.2.1, hk .tick hm.2.2⟩

theorem of_bank {M : List Safety.Part} {d e : Dev} (hk : Safety.Keeps M d e) (hr : Rest d e) (hb : Bank d e)
    (hm : Safety.Part.plain ∉ M ∧ Safety.Part.base ∉ M ∧ Safety.Part.tick ∉ M := by decide) : Quiet d e :=
  of_keeps hk hr (fun _ hm' hp => (hb.pending hm').trans hp) hm

theorem onLink {f : LinkSt → LinkSt} (hf : ∀ q, linkRest (f q) = linkRest q) (l : Nat) (d : Dev) : Quiet d (onLink l f d) :=
  of_bank (onLink_keeps _ _ _) (.onLink hf _ _) (.of_regs rfl)

theorem flag {d e : Dev} (h : Quiet d e) {f : Fld} (hf : Safety.eventReg f.addr = false) : flag e f = Machine.flag d f := by
  unfold Machine.flag; rw [h.fld f hf]

end Quiet

theorem raiseN_quiet (n v : Nat) (d : Dev) : Quiet d (raiseN n v d) :=
  .of_keeps (raiseN_keeps _ _ _) (raiseN_rest _ _ _) fun _ hm h => raiseN_pending _ _ _ hm (.inr h)

theorem raiseOnce_pending (k n v : Nat) (d : Dev) {m : Nat} (hm : m < 512) (h : Safety.pending d m = true) :
    Safety.pending (raiseOnce k n v d) m = true := by
  unfold raiseOnce
  split
  · exact h
  · exact raiseN_pending _ _ _ hm (.inr (((Bank.of_keeps (markSf_keeps k d) (by decide)).pending hm).trans h))

theorem raiseOnce_quiet (k n v : Nat) (d : Dev) : Quiet d (raiseOnce k n v d) :=
  .of_keeps (raiseOnce_keeps _ _ _ _) (raiseOnce_rest _ _ _ _) fun _ hm h => raiseOnce_pending _ _ _ _ hm h

theorem count_quiet (i : Nat) (d : Dev) : Quiet d (count i d) :=
  .of_keeps (count_keeps _ _) (count_rest _ _) fun _ hm h => count_pending _ _ hm h

theorem countN_quiet (i n : Nat) (d : Dev) : Quiet d (countN i n d) := by
  have h : Quiet d { d with obs := { d.obs with ctrs := d.obs.ctrs.upd {} i (Ctr.add n) } } :=
    ⟨.of_same rfl rfl rfl, fun _ _ => rfl, fun _ _ h => h, rfl, rfl⟩
  unfold countN
  dsimp only
  split
  · exact h.trans (raiseOnce_quiet _ _ _ _)
  · exact h

theorem pump_quiet (p : Nat) (d : Dev) : Quiet d (pump p d) := by
  refine .of_keeps (pump_keeps _ _) (pump_rest _ _) fun m hm h => ?_
  have hb (d' o) (hq : pumpQuiet p d = (d', o)) : Safety.pending d' m = true := by
    have := congrArg Prod.fst hq
    dsimp only at this
    rw [← this]
    exact ((pumpN_bank _ _ _).pending hm).trans h
  unfold pump
  split
  next d' o hq =>
  split
  · exact raiseOnce_pending _ _ _ _ hm (hb d' o hq)
  · exact hb d' o hq

theorem sendLcf_quiet (p : Nat) (m : LcfMsg) (d : Dev) : Quiet d (sendLcf p m d) :=
  .trans (.onLink (f := fun l => { l with wait := l.wait ++ [m] }) (fun _ => rfl) p d) (pump_quiet _ _)

theorem flushOne_quiet (l : Nat) (d : Dev) : Quiet d (flushOne l d) := by
  unfold flushOne
  dsimp only
  split
  · exact .refl _
  · split
    · split
      · exact .onLink (f := wireHold) (fun _ => rfl) _ _
      · exact .refl _
    · split
      · exact .onLink (f := wireFlit [] []) (fun _ => rfl) _ _
      · exact .refl _

theorem flushLink_quiet (l : Nat) (d : Dev) : Quiet d (flushLink l d) := (flushOne_quiet _ _).trans (flushOne_quiet _ _)

theorem noteSeq_quiet (t : Nat) (d : Dev) : Quiet d (noteSeq t d) :=
  .of_bank (noteSeq_keeps _ _)
    (.of_keeps (noteSeq_keeps _ _) (by decide) (by decide) (by unfold obsRest; rw [noteSeq_keeps _ _ .obs (by decide)]))
    (.of_keeps (noteSeq_keeps _ _) (by decide))

theorem mirPumpN_quiet (n : Nat) (d : Dev) : Quiet d (mirPumpN n d) := by
  induction n generalizing d with
  | zero => exact .refl _
  | succ n ih =>
    unfold mirPumpN
    dsimp only
    split
    · exact .refl _
    · split
      · exact .refl _
      next m tag rest _ =>
        refine .trans (.onLink (f := fun l => wireFlit [] [(m, d.twn.txSeq)] { l with mirWait := rest }) (fun _ => rfl) 16 d)
          (.trans ?_ ((noteSeq_quiet _ _).trans (ih _)))
        unfold whenD
        split
        · exact count_quiet _ _
        · exact .refl _

theorem mirPump_quiet (d : Dev) : Quiet d (mirPump d) := mirPumpN_quiet _ _

theorem mirSendFor_quiet (t : Nat) (m : MirMsg) (d : Dev) : Quiet d (mirSendFor t m d) :=
  .trans (.onLink (f := fun l => { l with mirWait := mirInsert m t l.mirWait }) (fun _ => rfl) 16 d) (mirPump_quiet _)

theorem mirSend_quiet (m : MirMsg) (d : Dev) : Quiet d (mirSend m d) := mirSendFor_quiet _ _ _

theorem onTwn_quiet (f : Twn → Twn) (d : Dev) : Quiet d (onTwn f d) := ⟨.of_same rfl rfl rfl, fun _ _ => rfl, fun _ _ h => h, rfl, rfl⟩

theorem retireCidx_quiet (c : Nat) (d : Dev) : Quiet d (retireCidx c d) := by
  unfold retireCidx
  dsimp only
  split
  · exact (onTwn_quiet _ _).trans (mirSend_quiet _ _)
  · exact onTwn_quiet _ _

theorem foldl_quiet {α : Type} {f : Dev → α → Dev} (h : ∀ d a, Quiet d (f d a)) (l : List α) (d : Dev) : Quiet d (l.foldl f d) := by
  induction l generalizing d with
  | nil => exact .refl _
  | cons a l ih => exact (h d a).trans (ih _)

theorem sweepRetires_quiet (d : Dev) : Quiet d (sweepRetires d) := foldl_quiet (fun _ _ => retireCidx_quiet _ _) _ _

/-! ## Links -/

/-- A field of a link that sending leaves alone. -/
theorem link_field {α : Type} {d e : Dev} (h : Quiet d e) (l : Nat) (f : LinkSt → α) (hf : ∀ x, f (linkRest x) = f x := by intro; rfl) :
    f (linkOf e l) = f (linkOf d l) := by rw [← hf (linkOf e l), ← hf (linkOf d l), h.rest.2.1 l]

theorem ltOf_congr {d e : Dev} {l : Nat} (h : l < 16 → getF e (F.FAB_STS_LTSTATE l) = getF d (F.FAB_STS_LTSTATE l))
    (h16 : (linkOf e 16).lt = (linkOf d 16).lt) : ltOf e l = ltOf d l := by
  unfold ltOf
  split
  next hl => exact h hl
  next => exact h16

/-- No register of a fabric port counts events. -/
theorem fab_plain {a : Nat} (h1 : 0x400000 ≤ a) (h2 : a < 0x402000) : Safety.eventReg a = false :=
  eventReg_false (.inr (by omega)) (by omega) (by omega) (by omega) (by omega)

theorem Quiet.ltOf {d e : Dev} (h : Quiet d e) (l : Nat) : ltOf e l = ltOf d l :=
  ltOf_congr (fun hl => h.fld _ (fab_plain (by simp only [F.FAB_STS_LTSTATE]; omega) (by simp only [F.FAB_STS_LTSTATE]; omega))) (link_field h 16 LinkSt.lt)

/-- An update of a link that leaves its training state. -/
theorem ltOf_onLink {f : LinkSt → LinkSt} (hf : ∀ x, (f x).lt = x.lt) (l k : Nat) (d : Dev) : ltOf (onLink k f d) l = ltOf d l := by
  refine ltOf_congr (fun _ => rfl) ?_
  by_cases h : k = 16
  · subst h; rw [linkOf_onLink_same, hf]
  · rw [linkOf_onLink_ne (Ne.symm h)]

theorem ltOf_setF {f : Fld} (l v : Nat) (d : Dev) (h : l < 16 → Apart f (F.FAB_STS_LTSTATE l)) : ltOf (setF f v d) l = ltOf d l :=
  ltOf_congr (fun hl => getF_setF_apart (h hl) v d) rfl

/-! ## Lane swaps and half width -/

theorem lctlIn_active {d : Dev} {l : Nat} (h : ltOf d l = 6) (code larg : Nat) (g : LinkSt → LinkSt) :
    lctlIn l code larg (onLink l g) d = onLink l g (onLink l (fun x => { x with lastLctl := BitVec.ofNat 16 (code + larg * 256) }) d) := by
  rw [lctlIn, if_neg (by simp [h])]

theorem linkOf_lctlIn {d : Dev} {l : Nat} (h : ltOf d l = 6) (code larg : Nat) (g : LinkSt → LinkSt) :
    linkOf (lctlIn l code larg (onLink l g) d) l = g { linkOf d l with lastLctl := BitVec.ofNat 16 (code + larg * 256) } := by
  rw [lctlIn_active h, linkOf_onLink_same, linkOf_onLink_same]

theorem lctlIn_fab {d : Dev} {l : Nat} (h : ltOf d l = 6) (code larg : Nat) (g : LinkSt → LinkSt) :
    Safety.Keeps [.fab] d (lctlIn l code larg (onLink l g) d) := by
  rw [lctlIn_active h]
  exact (onLink_keeps _ _ _).trans (onLink_keeps _ _ _)

/-- A lane that asks for its unused spare (R98). -/
theorem laneFailed_asks {d : Dev} {l n : Nat} (hl : l < 16) (hn : n < 8) (hf : (linkOf d l).failed = []) (hs : (linkOf d l).swapLane = none)
    (he : flag d (F.FAB_CTL_SWAP_EN l) = true) : laneFailed l n d =
      onLink l (fun x => { x with swapLane := some n, swapSince := d.glb.tick, lctlOut := some (1, BitVec.ofNat 8 n) }) d := by
  have hn8 : n ≠ spareOf l n := by rw [spareOf, if_pos hl]; omega
  unfold laneFailed
  simp only [hf, hs, he, hl, hn8, List.not_mem_nil, decide_false, List.any_nil, Bool.or_self, Bool.not_false, if_false, if_true, false_and,
    Option.isNone_none, Bool.and_self]

theorem mem_insertNew {α : Type} [DecidableEq α] (x : α) (l : List α) : x ∈ insertNew x l := by
  unfold insertNew
  split
  next h => exact h
  next => exact List.mem_append_right _ (List.mem_singleton.mpr rfl)

/-- A lane over its threshold, or without lock, is a failed one, once its errors are counted (R98). -/
theorem laneFailure_bad {s : State} {link : Link} {n : Fin 18} {errors : Nat} {lost : Bool} (h6 : ltOf s.dev link.val = 6)
    (hl : link.val < 16) (hn : n.val < 9) (hbad : lost = true ∨ getF s.dev (F.FAB_LTHR_THR link.val) < errors) : ∃ d1, Quiet s.dev d1 ∧
      execLaneFailure link n errors lost s = runQ (fun _ => laneFailed link.val n.val d1) s := by
  have hq := countN_quiet (0x4000 + 16 * link.val + n.val) errors s.dev
  have hthr := hq.fld (F.FAB_LTHR_THR link.val) (fab_plain (by simp only [F.FAB_LTHR_THR]; omega) (by simp only [F.FAB_LTHR_THR]; omega))
  have hov : (lost || decide (getF s.dev (F.FAB_LTHR_THR link.val) < errors)) = true := by
    rw [Bool.or_eq_true, decide_eq_true_eq]
    exact hbad
  refine ⟨_, hq, ?_⟩
  have hno : ¬ (8 < n.val) := by omega
  simp only [execLaneFailure, runQ, hl, hn, hno, and_true, if_true, hq.ltOf, hthr, hov, h6, ne_eq, not_true_eq_false, Bool.not_true,
    Bool.false_eq_true, and_false, or_self, if_false]

theorem linkOf_setF (l : Nat) (f : Fld) (v : Nat) (d : Dev) : linkOf (setF f v d) l = linkOf d l := by unfold linkOf; rw [setF_fab]

/-- A receive lane that its spare has replaced (R98). -/
theorem swapDone_spec {l : Nat} (hl : l < 17) (k : Nat) (d : Dev) :
    ((linkOf (swapDone l k d) l).swapLane = none ∧ (linkOf (swapDone l k d) l).switchAt = none ∧ k ∈ (linkOf (swapDone l k d) l).failed) ∧
      Safety.pending (swapDone l k d) (if l < 16 then 96 + 4 * l + 1 else 388) = true ∧
      (l < 16 → flag (swapDone l k d) (F.FAB_STS_SPARE_USED l) = true) := by
  have base {e g : Dev} (hq : Quiet g e) (h : linkOf g l = { linkOf d l with
      failed := insertNew k (linkOf d l).failed, swapLane := none, switchAt := none }) :
      (linkOf e l).swapLane = none ∧ (linkOf e l).switchAt = none ∧ k ∈ (linkOf e l).failed := by
    rw [link_field hq l LinkSt.swapLane, link_field hq l LinkSt.switchAt, link_field hq l LinkSt.failed, h]
    exact ⟨rfl, rfl, mem_insertNew k _⟩
  unfold swapDone
  by_cases h16 : l < 16
  · simp only [h16, if_true]
    have hq (g) := (count_quiet (0x4000 + 16 * l + 15) g).trans ((count_quiet 0xF006 _).trans (raiseN_quiet (96 + 4 * l + 1) k _))
    refine ⟨base (hq _) ?_, raiseN_pending _ _ _ (by omega) (.inl rfl), fun _ => ?_⟩
    · rw [setB, linkOf_setF]
      split <;> split <;> simp only [linkOf_setF, linkOf_onLink_same]
    · rw [(hq _).flag (fab_plain (by simp only [F.FAB_STS_SPARE_USED]; omega) (by simp only [F.FAB_STS_SPARE_USED]; omega)), flag_setB_at (by simp [F.FAB_STS_SPARE_USED])]
  · simp only [h16, if_false]
    have hq (g) := (count_quiet 0xA01A g).trans ((count_quiet 0xF007 _).trans (raiseN_quiet 388 k _))
    exact ⟨base (hq _) (linkOf_onLink_same _ _ _), raiseN_pending _ _ _ (by decide) (.inl rfl), fun h => absurd h (by simp)⟩

/-- The transmit side's part of a switching frame leaves what the receive side did. -/
theorem laneSwitch_spec {l k : Nat} {d : Dev} (h : ltOf d l = 6) (hk : (linkOf d l).swapLane = some k) (ha : (linkOf d l).switchAt.isSome)
    (hr : rxReached (linkOf d l) = true) : laneSwitch l d = swapDone l k d ∨ ∃ g, (∀ x : LinkSt, (g x).swapLane = x.swapLane ∧
      (g x).switchAt = x.switchAt ∧ (g x).failed = x.failed) ∧ laneSwitch l d = onLink l g (swapDone l k d) := by
  obtain ⟨f, hf⟩ := Option.isSome_iff_exists.mp ha
  unfold laneSwitch
  simp only [h, hk, hr, hf, ne_eq, not_true_eq_false, if_false, if_true]
  split
  · refine .inr ⟨_, ?_, rfl⟩
    exact fun _ => ⟨rfl, rfl, rfl⟩
  · exact .inl rfl

end Sys2Proof.Machine

namespace Sys2Proof
open Sys2Proof.Machine

/-- Settles O40. -/
theorem laneSwaps : Obligations.LaneSwaps := by
  intro link lane frame map n errors lost s h6 l x runs becomes last
  have direct {c f} {E : Dev → Prop} (hc : exec c s = runQ f s) (h : E (f s.dev)) : runs c E := ⟨_, hc, rfl, h⟩
  have control {c code arg g y} (hc : exec c s = runQ (lctlIn l code arg (onLink l g)) s) (hy : g { x with lastLctl := last code arg } = y) :
      becomes c y := ⟨_, hc, rfl, (linkOf_lctlIn h6 code arg g).trans hy, lctlIn_fab h6 code arg g⟩
  have changes {c f g y} (hc : exec c s = runQ f s) (hf : f s.dev = onLink l g s.dev) (hy : g x = y) : becomes c y :=
    ⟨_, hc, rfl, by rw [hf, linkOf_onLink_same, hy], by rw [hf]; exact onLink_keeps _ _ _⟩
  clear_value becomes runs
  refine ⟨?_, fun h1 h2 => ?_, fun h1 => ?_, fun h1 => ?_, fun h1 => ?_, fun h1 h2 h3 => ?_, fun hl hn hf hs he hbad => ?_, fun k hk ha hr => ?_⟩
  · exact control (g := fun x => { x with txSwap := some lane.toNat }) rfl rfl
  · exact control rfl (if_pos ⟨h1, h2⟩)
  · exact control rfl (if_pos h1)
  · exact control rfl (if_neg fun h => h.2 h1)
  · exact control rfl (if_pos h1)
  · exact changes rfl (if_pos ⟨h1, h2, h3⟩) rfl
  · obtain ⟨d1, hq, hd1⟩ := laneFailure_bad (n := n) h6 hl (by omega) hbad
    have hen : flag d1 (F.FAB_CTL_SWAP_EN l) = true := by
      rw [hq.flag (fab_plain (by simp only [F.FAB_CTL_SWAP_EN]; omega) (by simp only [F.FAB_CTL_SWAP_EN]; omega)), he]
    refine direct (f := fun _ => laneFailed l n.val d1) hd1 ?_
    rw [laneFailed_asks hl hn ((link_field hq l LinkSt.failed).trans hf) ((link_field hq l LinkSt.swapLane).trans hs) hen,
      linkOf_onLink_same, hq.tick]
    exact ⟨rfl, rfl, rfl⟩
  · refine direct rfl ?_
    obtain ⟨⟨s1, s2, s3⟩, s4, s5⟩ := swapDone_spec (show l < 17 from link.isLt) k s.dev
    rcases laneSwitch_spec h6 hk ha hr with e | ⟨g, hg, e⟩
    · rw [e]
      exact ⟨s1, s2, s3, s4, s5⟩
    · obtain ⟨g1, g2, g3⟩ := hg (linkOf (swapDone l k s.dev) l)
      rw [e, linkOf_onLink_same]
      exact ⟨g1.trans s1, g2.trans s2, g3 ▸ s3, s4, s5⟩

end Sys2Proof
end

section
/-!
Training of a fabric port (R84-R86, R100).
-/
namespace Sys2Proof.Machine
open Sys2Proof Sys2Proof.SMapLaws

/-! ## Training states -/

/-- What a change of the training state leaves of a link: all but its times and its Param words. -/
def linkKept (x : LinkSt) : LinkSt :=
  { linkRest x with stateSince := 0, trainSince := 0, paramOut := [], downSince := none, stoppedSince := none, lt := 0 }

/-- A field of a link that a change of training state leaves alone. -/
theorem kept_field {α : Type} {x y : LinkSt} (h : linkKept y = linkKept x) (f : LinkSt → α) (hf : ∀ x, f (linkKept x) = f x := by intro; rfl) :
    f y = f x := by rw [← hf y, ← hf x, h]

/-- Event 0 of a port that enters or leaves Active, or enters Realign or Down (R102). -/
theorem setLt_raises {l : Nat} (hl : l < 16) (s g : Nat) (d : Dev) (h : activeChange (ltOf d l) s = true) :
    Safety.pending (setLt l s g d) (96 + 4 * l) = true := by
  unfold setLt
  simp only [hl, h, Bool.true_or, if_true]
  exact raiseN_pending _ _ _ (by omega) (.inl rfl)

theorem ltOf_setLt {l s : Nat} (hs : s < 16) (g : Nat) (d : Dev) : ltOf (setLt l s g d) l = s := by
  unfold setLt ltOf
  dsimp only
  split
  next hl =>
    have hf (e : Dev) : getF (setF (F.FAB_STS_LTSTATE l) s e) (F.FAB_STS_LTSTATE l) = s :=
      getF_setF_fits ⟨by simp [F.FAB_STS_LTSTATE], by simp [F.FAB_STS_LTSTATE]⟩ hs e
    split
    · rw [raiseN_getF (fab_plain (by simp only [F.FAB_STS_LTSTATE]; omega) (by simp only [F.FAB_STS_LTSTATE]; omega)), hf]
    · rw [hf]
  next =>
    rw [linkOf_setF, linkOf_onLink_same]

theorem setLt_kept (l s g : Nat) (d : Dev) (k : Nat) : linkKept (linkOf (setLt l s g d) k) = linkKept (linkOf d k) := by
  have hon {f : LinkSt → LinkSt} (hf : ∀ x, linkKept (f x) = linkKept x) (l : Nat) (e : Dev) : linkKept (linkOf (onLink l f e) k) = linkKept (linkOf e k) := by
    by_cases h : k = l
    · rw [h, linkOf_onLink_same, hf]
    · rw [linkOf_onLink_ne h]
  have hrest {e e' : Dev} (h : Quiet e e') : linkKept (linkOf e' k) = linkKept (linkOf e k) :=
    link_field h k linkKept
  unfold setLt
  dsimp only
  split
  · split
    · rw [hrest (raiseN_quiet _ _ _), linkOf_setF, hon]
      intro x; rfl
    · rw [linkOf_setF, hon]
      intro x; rfl
  · rw [linkOf_setF, hon, hon]
    · intro x; rfl
    · intro x; rfl

theorem setLt_getF {l : Nat} (s g : Nat) (d : Dev) {f : Fld} (he : Safety.eventReg f.addr = false) (h1 : l < 16 → Apart (F.FAB_STS_LTSTATE l) f)
    (h2 : Apart F.TWN_STS_LINK f) : getF (setLt l s g d) f = getF d f := by
  unfold setLt
  dsimp only
  split
  next hl =>
    split
    · rw [raiseN_getF he, getF_setF_apart (h1 hl)]
      rfl
    · exact getF_setF_apart (h1 hl) _ _
  next => exact getF_setF_apart h2 _ _

theorem enterDown_spec {l : Nat} (hl : l < 16) (d : Dev) : ltOf (enterDown l d) l = 8 ∧ (linkOf (enterDown l d) l).keep = true ∧
    Safety.pending (enterDown l d) (96 + 4 * l) = true := by
  unfold enterDown
  refine ⟨ltOf_setLt (by decide) _ _, ?_, setLt_raises hl _ _ _ ?_⟩
  · rw [kept_field (setLt_kept _ _ _ _ _) LinkSt.keep, linkOf_onLink_same]
  · simp [activeChange]

theorem goActive_lt {l : Nat} (hl : l < 16) (d : Dev) : ltOf (goActive l d) l = 6 := by
  unfold goActive
  dsimp only
  rw [if_pos hl, (flushLink_quiet _ _).ltOf, (pump_quiet _ _).ltOf, ltOf_setLt (by decide)]

theorem getPair_setPair {lo hi : Fld} {v : Nat} (h : lo.lo = 0 ∧ lo.hi = 31 ∧ hi.lo = 0 ∧ hi.hi = 31) (hne : lo.addr ≠ hi.addr)
    (hv : v < 2 ^ 64) (d : Dev) : getPair lo hi (setPair lo hi v d) = v := by
  obtain ⟨h1, h2, h3, h4⟩ := h
  unfold getPair setPair
  rw [getF_setF_ne hne, getF_setF_same _ _ _ (by omega) (by omega), getF_setF_same _ _ _ (by omega) (by omega), h1, h2, h3, h4]
  norm_num
  omega

/-- A Param that fits binds the agents and starts both directions anew (R86, R95). -/
theorem paramPort_fits {p : Nat} {w0 w1 w2 : Word64} {d : Dev} (hk : (linkOf d p).keep = false) (hr : paramRefused d p w0 w1 w2 = false) :
    ∃ g, (∀ x : LinkSt, (g x).paramOk = true ∧ (g x).txSeq = 0 ∧ (g x).rxSeq = 4095 ∧ (g x).retry = []) ∧ paramPort p w0 w1 w2 d =
      onLink p g (setF (F.FAB_CRINIT_GRANT p) (bitsOf w2.toNat 39 8) (setPair (F.FAB_AGT_LO_BOUND p) (F.FAB_AGT_HI_BOUND p) w1.toNat d)) := by
  unfold paramPort
  simp only [hk, hr, Bool.and_false, Bool.false_eq_true, if_false]
  refine ⟨_, ?_, rfl⟩
  exact fun _ => ⟨rfl, rfl, rfl, rfl⟩

theorem paramPort_refused {p : Nat} {w0 w1 w2 : Word64} {d : Dev} (hk : (linkOf d p).keep = false) (hr : paramRefused d p w0 w1 w2 = true) :
    paramPort p w0 w1 w2 d = paramRefuse p d := by
  unfold paramPort
  simp only [hk, hr, Bool.and_false, Bool.false_eq_true, if_false, if_true]

theorem paramRefuse_spec {p : Nat} {d : Dev} (hp : p < 16) (h5 : ltOf d p = 5) : ltOf (paramRefuse p d) p = 1 ∧
    flag (paramRefuse p d) (F.FAB_ERR_PARAM_MISMATCH p) = true ∧ Safety.pending (paramRefuse p d) (96 + 4 * p + 3) = true := by
  unfold paramRefuse
  rw [if_pos (.inl h5)]
  refine ⟨?_, ?_, raiseN_pending _ _ _ (by omega) (.inl rfl)⟩
  · rw [(raiseN_quiet _ _ _).ltOf, setB, ltOf_setF, ltOf_setLt (by decide)]
    intro _
    left
    simp only [F.FAB_STS_LTSTATE, F.FAB_ERR_PARAM_MISMATCH]
    omega
  · rw [(raiseN_quiet _ _ _).flag (fab_plain (by simp only [F.FAB_ERR_PARAM_MISMATCH]; omega) (by simp only [F.FAB_ERR_PARAM_MISMATCH]; omega)),
      flag_setB_at (by simp [F.FAB_ERR_PARAM_MISMATCH])]

theorem setLt_trainTmo {l : Nat} (hl : l < 16) (s g : Nat) (d : Dev) :
    getF (setLt l s g d) (F.FAB_ERR_TRAIN_TMO l) = getF d (F.FAB_ERR_TRAIN_TMO l) := by
  refine setLt_getF _ _ _ (fab_plain ?_ ?_) (fun _ => .inl ?_) (.inl ?_)
  · simp only [F.FAB_ERR_TRAIN_TMO]; omega
  · simp only [F.FAB_ERR_TRAIN_TMO]; omega
  · simp only [F.FAB_ERR_TRAIN_TMO, F.FAB_STS_LTSTATE]; omega
  · simp only [F.FAB_ERR_TRAIN_TMO, F.TWN_STS_LINK]; omega

/-- What a training state past its limit leads to (R84). -/
theorem trainingTimeout_late {s : State} {link : Link} {n : Nat} (hl : link.val < 16) (hn : trainLimit (ltOf s.dev link.val) = some n)
    (ht : (linkOf s.dev link.val).stateSince + n ≤ s.dev.glb.tick) : ∃ g, flag g (F.FAB_ERR_TRAIN_TMO link.val) = true ∧
      execTrainingTimeout link s = .next { s with
        dev := if ltOf s.dev link.val = 7 then enterDown link.val g else setLt link.val 1 0 g } := by
  have htmo : flag (setB (F.FAB_ERR_TRAIN_TMO link.val) true s.dev) (F.FAB_ERR_TRAIN_TMO link.val) = true :=
    flag_setB_at (by simp [F.FAB_ERR_TRAIN_TMO]) _ _
  simp only [execTrainingTimeout, runQ, hn, Nat.not_lt.mpr ht, hl, true_and, if_false, if_true]
  refine ⟨_, ?_, rfl⟩
  split
  · exact (flag_setB_apart (.inr (by simp [F.FAB_ERR_TRAIN_TMO, F.FAB_ERR_PARAM_MISMATCH])) _ _).trans htmo
  · exact htmo

/-- What a port that gives up its link state leaves, before its agents are declared dead (R100). -/
theorem giveUp_spec {p : Nat} (hp : p < 16) (d : Dev) : ∃ g,
    giveUp p d = sweepRetires ((agentsOfPort d p).foldl (fun d a => declareDead a 1 d) g) ∧ ltOf g p = 1 ∧ (linkOf g p).keep = false ∧
      (linkOf g p).retry = [] ∧ getF g (F.FAB_ERR_TRAIN_TMO p) = getF d (F.FAB_ERR_TRAIN_TMO p) := by
  unfold giveUp
  extract_lets agents d1 d2 sv d3
  have h2 : linkOf d3 p = { linkOf d1 p with retry := [], wait := [], crHeld := [], rxFree := [], owed := [] }  :=
    show linkOf d2 p = _ from linkOf_onLink_same p _ d1
  have hlt : ltOf d2 p = ltOf d1 p :=
    ltOf_onLink (f := fun x => { x with retry := [], wait := [], crHeld := [], rxFree := [], owed := [] }) (fun _ => rfl) _ _ _
  have hkeep : (linkOf d1 p).keep = false := by
    rw [kept_field (setLt_kept _ _ _ _ _) LinkSt.keep, linkOf_onLink_same]
  have htmo : getF d1 (F.FAB_ERR_TRAIN_TMO p) = getF d (F.FAB_ERR_TRAIN_TMO p) := setLt_trainTmo hp _ _ _
  exact ⟨d3, rfl, hlt.trans (ltOf_setLt (by decide) _ _), by rw [h2]; exact hkeep, by rw [h2], htmo⟩

theorem onLink_getPair (l : Nat) (f : LinkSt → LinkSt) (lo hi : Fld) (d : Dev) : getPair lo hi (onLink l f d) = getPair lo hi d := rfl

theorem getPair_crinit (p v : Nat) (d : Dev) : getPair (F.FAB_AGT_LO_BOUND p) (F.FAB_AGT_HI_BOUND p) (setF (F.FAB_CRINIT_GRANT p) v d) =
    getPair (F.FAB_AGT_LO_BOUND p) (F.FAB_AGT_HI_BOUND p) d := by
  rw [getPair, getPair, getF_setF_ne, getF_setF_ne]
  · simp only [F.FAB_AGT_HI_BOUND, F.FAB_CRINIT_GRANT]; omega
  · simp only [F.FAB_AGT_LO_BOUND, F.FAB_CRINIT_GRANT]; omega

end Sys2Proof.Machine

namespace Sys2Proof
open Sys2Proof.Machine

/-- Settles O41. -/
theorem training : Obligations.Training := by
  intro port t lanes found w0 w1 w2 s l link x lt runs exits
  have direct {c e} {E : Dev → Prop} (hc : exec c s = .next { s with dev := e }) (h : E e) : runs c E := ⟨_, hc, rfl, h⟩
  have exitTo {b e} (hc : stateExit l lanes found.pol found.order s.dev = e) (h : ltOf e l = b) : exits b := ⟨_, rfl, rfl, by rw [← h, ← hc]⟩
  have hl : l < 16 := port.isLt
  have leads {b : Nat} {e : Dev} (hb : b < 16) (hc : stateExit l lanes found.pol found.order s.dev = setLt l b 0 e) : exits b :=
    exitTo hc (ltOf_setLt hb _ _)
  have active {e : Dev} (hc : stateExit l lanes found.pol found.order s.dev = goActive l e) : exits 6 := exitTo hc (goActive_lt hl _)
  have hlt : ltOf s.dev l = lt := rfl
  have hx : linkOf s.dev l = x := rfl
  have taken (h : lt = 5) : exec (.param link w0 w1 w2) s = .next { s with dev := paramPort l w0 w1 w2 s.dev } := by
    show execParam link w0 w1 w2 s = _
    simp only [execParam, runQ, show link.val = l from rfl, hlt, h, hl, ne_eq, not_true_eq_false, false_and, if_false, if_true]
  clear_value exits runs
  refine ⟨fun h => ?_, fun hn => ⟨fun h => ?_, fun h => ?_⟩, fun h => ?_, fun h => ?_, fun h hp => ?_, fun h => ?_, fun h hp => ?_,
    fun h hk hr => ?_, fun h hk hr => ?_, fun n hn ht => ?_, fun b hb h6 ht => ?_⟩
  · refine direct ?_ (enterDown_spec hl s.dev)
    show execTrainingFramesReceived link t s = _
    simp only [execTrainingFramesReceived, runQ, show link.val = l from rfl, hlt, h, true_or, if_true]
  · exact leads (by decide) (by simp only [stateExit, hlt, h, hn, decide_true, Bool.true_or, if_true] <;> rfl)
  · exact leads (by decide) (by simp only [stateExit, hlt, h, hn, decide_true, Bool.true_or, if_true] <;> rfl)
  · exact leads (by decide) (by simp only [stateExit, hlt, h] <;> rfl)
  · exact leads (by decide) (by simp only [stateExit, hlt, h] <;> rfl)
  · exact active (by simp only [stateExit, hlt, h, hx, hp, if_true] <;> rfl)
  · exact active (by simp only [stateExit, hlt, h] <;> rfl)
  · exact active (by simp only [stateExit, hlt, h, hx, hp, if_true] <;> rfl)
  · obtain ⟨g, hg, e⟩ := paramPort_fits hk hr
    obtain ⟨g1, g2, g3, g4⟩ := hg (linkOf s.dev l)
    refine direct ((taken h).trans (by rw [e])) ?_
    rw [linkOf_onLink_same, linkOf_setF, setPair, linkOf_setF, linkOf_setF]
    refine ⟨?_, g1, g2, g3, g4⟩
    rw [onLink_getPair, getPair_crinit]
    exact getPair_setPair (by simp [F.FAB_AGT_LO_BOUND, F.FAB_AGT_HI_BOUND]) (by simp [F.FAB_AGT_LO_BOUND, F.FAB_AGT_HI_BOUND]) w1.isLt _
  · exact direct ((taken h).trans (by rw [paramPort_refused hk hr])) (paramRefuse_spec hl h)
  · obtain ⟨g, hg, e⟩ := trainingTimeout_late (s := s) (link := link) hl hn ht
    refine direct e ?_
    have htmo (k : Nat) (e : Dev) (he : flag e (F.FAB_ERR_TRAIN_TMO l) = true) : flag (setLt l k 0 e) (F.FAB_ERR_TRAIN_TMO l) = true := by
      rw [flag, setLt_trainTmo hl]
      exact he
    split
    · exact ⟨(enterDown_spec hl g).1, htmo _ _ hg⟩
    · exact ⟨ltOf_setLt (by decide) _ _, htmo _ _ hg⟩
  · obtain ⟨g, e, g1, g2, g3, g4⟩ := giveUp_spec hl (setB (F.FAB_ERR_TRAIN_TMO l) true s.dev)
    have hag : agentsOfPort (setB (F.FAB_ERR_TRAIN_TMO l) true s.dev) l = agentsOfPort s.dev l := by
      rw [agentsOfPort, agentsOfPort, getPair, getPair, getF_setB_apart, getF_setB_apart]
      · left; simp only [F.FAB_AGT_HI_BOUND, F.FAB_ERR_TRAIN_TMO]; omega
      · left; simp only [F.FAB_AGT_LO_BOUND, F.FAB_ERR_TRAIN_TMO]; omega
    refine direct (e := giveUp l (setB (F.FAB_ERR_TRAIN_TMO l) true s.dev)) ?_ ⟨g, by rw [e, hag], g1, g2, g3, ?_⟩
    · show execDownTimeout port s = _
      have hno : ¬ (ltOf s.dev l = 6 ∨ s.dev.glb.tick < b + getF s.dev F.FAB_DOWN_TMO_TMO) := by
        rw [hlt]; omega
      simp only [execDownTimeout, runQ, show port.val = l from rfl, hx, hb, hno, if_false]
    · rw [flag, g4]
      exact flag_setB_at (by simp [F.FAB_ERR_TRAIN_TMO]) _ _

end Sys2Proof
end

section
/-!
Flits in Active (R91-R94): idle, failed and hold flits, NAK and REALIGN.
-/
namespace Sys2Proof.Machine
open Sys2Proof Sys2Proof.SMapLaws

/-! ## The frame control word -/

/-- What a frame control word without a link-control code leaves of a link. -/
def wordless (x : LinkSt) : LinkSt := { x with rxFrame := none, lastLctl := 0 }

/-- A frame control word with SYNC in place and no link-control code (R82, R83). -/
theorem fcwIn_idle {w : Fcw} (hs : w.sync = 0xB5) (hc : w.lctl = 0) (l : Nat) (d : Dev) : Safety.Keeps [.fab] d (fcwIn l w d) ∧
    wordless (linkOf (fcwIn l w d) l) = wordless (linkOf d l) ∧ ltOf (fcwIn l w d) l = ltOf d l := by
  have hword : fcwIn l w d = d ∨ fcwIn l w d =
      onLink l (fun x => { x with lastLctl := 0 }) (onLink l (fun x => { x with rxFrame := some w.frame }) d) := by
    unfold fcwIn
    extract_lets code key d1 d2
    have hd1 : d1 = d := if_neg (by simp [hs])
    have hcode : code = 0 := by simp [code, hc]
    have hd2 : d2 = onLink l (fun x => { x with rxFrame := some w.frame }) d := by rw [← hd1]
    rw [if_pos hcode, hd2, hd1]
    split
    · exact .inl rfl
    · exact .inr rfl
  rcases hword with h | h
  · rw [h]
    exact ⟨.refl _ _, rfl, rfl⟩
  · rw [h, linkOf_onLink_same, linkOf_onLink_same, ltOf_onLink, ltOf_onLink]
    · exact ⟨(onLink_keeps _ _ _).trans (onLink_keeps _ _ _), rfl, rfl⟩
    · intro x; rfl
    · intro x; rfl

/-! ## ACK and NAK -/

/-- An ACK sets the link's ACK, and the flits it covers leave the retry buffer (R91). -/
theorem takeAck_quiet (l ack : Nat) (d : Dev) :
    Quiet (onLink l (fun x => { x with acked := ack, retry := x.retry.filter fun f => !covers ack f.seq }) d) (takeAck l ack d) := by
  unfold takeAck
  dsimp only
  split
  · exact (sweepRetires_quiet _).trans ((pump_quiet _ _).trans (flushLink_quiet _ _))
  · exact (mirPump_quiet _).trans (flushLink_quiet _ _)

theorem takeAckNak_ack {f : Flit} (hn : f.nak = false) (l : Nat) (d : Dev) : (linkOf (takeAckNak l f d) l).acked = f.ack.toNat ∧
    (linkOf (takeAckNak l f d) l).rxSeq = (linkOf d l).rxSeq ∧ (linkOf (takeAckNak l f d) l).dropping = (linkOf d l).dropping := by
  have h := takeAck_quiet l f.ack.toNat d
  unfold takeAckNak
  simp only [hn, Bool.false_eq_true, if_false, linkOf_onLink_same]
  rw [link_field h l LinkSt.acked, link_field h l LinkSt.rxSeq, link_field h l LinkSt.dropping, linkOf_onLink_same]
  exact ⟨rfl, rfl, rfl⟩

/-! ## Realign -/

/-- What a link in Active becomes on its way into Realign (R94, R98). -/
def realigned (why : Nat) (x : LinkSt) : LinkSt := { x with
  swapAgain := if x.swapLane.isSome then x.swapLane else x.swapAgain
  swapLane := none, switchAt := none, txSwap := none, switchTx := none, nakRow := 0, rnakRow := 0
  lctlOut := if why = 2 then none else some (6, 0) }

theorem enterRealign_eq {l why : Nat} {d : Dev} (h : ltOf d l = 6) : ∃ g, Quiet (if l < 16 ∧ why = 0 then
      setB (F.FAB_ERR_RETRY_EXH l) true (setLt l 7 0 (onLink l (realigned why) d)) else setLt l 7 0 (onLink l (realigned why) d)) g ∧
    enterRealign l why d = (if l < 16 then raiseN (96 + 4 * l + 2) why g else g) := by
  have hdef : enterRealign l why d = (if l < 16 then raiseN (96 + 4 * l + 2) why (count (0x4000 + 16 * l + 14)
      (if why = 0 then setB (F.FAB_ERR_RETRY_EXH l) true (setLt l 7 0 (onLink l (realigned why) d)) else setLt l 7 0 (onLink l (realigned why) d)))
      else setLt l 7 0 (onLink l (realigned why) d)) := by
    rw [enterRealign, if_neg (by simp [h])]
    rfl
  rw [hdef]
  by_cases hl : l < 16
  · simp only [hl, true_and, if_true]
    exact ⟨_, count_quiet _ _, rfl⟩
  · simp only [hl, false_and, if_false]
    exact ⟨_, .refl _, rfl⟩

/-- Realign of a link in Active (R94): its state, event 2 of a port, and what it leaves of the link. -/
theorem enterRealign_spec {l : Nat} (hl : l < 17) (why : Nat) {d : Dev} (h : ltOf d l = 6) : ltOf (enterRealign l why d) l = 7 ∧
    linkKept (linkOf (enterRealign l why d) l) = linkKept (realigned why (linkOf d l)) ∧
    (l < 16 → Safety.pending (enterRealign l why d) (96 + 4 * l + 2) = true) := by
  have hlt : ltOf (setLt l 7 0 (onLink l (realigned why) d)) l = 7 := ltOf_setLt (by decide) _ _
  have hlk : linkKept (linkOf (setLt l 7 0 (onLink l (realigned why) d)) l) = linkKept (realigned why (linkOf d l)) := by
    rw [setLt_kept, linkOf_onLink_same]
  obtain ⟨g, hg, e⟩ := enterRealign_eq (why := why) h
  have hg' : ltOf g l = 7 ∧ linkKept (linkOf g l) = linkKept (realigned why (linkOf d l)) := by
    rw [hg.ltOf, link_field hg l linkKept]
    split
    · rw [setB, ltOf_setF, linkOf_setF]
      · exact ⟨hlt, hlk⟩
      · intro _
        left
        simp only [F.FAB_STS_LTSTATE, F.FAB_ERR_RETRY_EXH]
        omega
    · exact ⟨hlt, hlk⟩
  rw [e]
  by_cases h16 : l < 16
  · simp only [h16, if_true]
    have hq := raiseN_quiet (96 + 4 * l + 2) why g
    exact ⟨(hq.ltOf l).trans hg'.1, (link_field hq l linkKept).trans hg'.2, fun _ => raiseN_pending _ _ _ (by omega) (.inl rfl)⟩
  · simp only [h16, if_false, false_implies, and_true]
    exact hg'

/-- A NAK that names an ACK (R93), and the Realign that 8 of them bring, leave what the receiver expects. -/
theorem nakSent_spec {l : Nat} (hl : l < 17) {d : Dev} (h : ltOf d l = 6) : (linkOf (nakSent l d) l).rxSeq = (linkOf d l).rxSeq ∧
    (linkOf (nakSent l d) l).acked = (linkOf d l).acked ∧ (linkOf (nakSent l d) l).dropping = (linkOf d l).dropping ∧
    (linkOf (nakSent l d) l).nakAck = (linkOf d l).rxSeq ∧ (linkOf (nakSent l d) l).nakSince = d.glb.tick := by
  unfold nakSent
  extract_lets ack d1 d2
  have h1 : linkOf d1 l = { linkOf d l with
      nakOut := true, nakSince := d.glb.tick, nakAck := ack, nakRow := if (linkOf d l).nakAck = ack then (linkOf d l).nakRow + 1 else 1 } :=
    linkOf_onLink_same _ _ _
  have hq : Quiet d1 d2 := (count_quiet _ _).trans (flushLink_quiet _ _)
  have hlt : ltOf d2 l = 6 := by
    rw [hq.ltOf]
    refine (ltOf_onLink (f := fun x => { x with
      nakOut := true, nakSince := d.glb.tick, nakAck := ack, nakRow := if x.nakAck = ack then x.nakRow + 1 else 1 }) (fun _ => rfl) l l d).trans h
  have h2 : (linkOf d2 l).rxSeq = (linkOf d l).rxSeq ∧ (linkOf d2 l).acked = (linkOf d l).acked ∧
      (linkOf d2 l).dropping = (linkOf d l).dropping ∧ (linkOf d2 l).nakAck = (linkOf d l).rxSeq ∧ (linkOf d2 l).nakSince = d.glb.tick := by
    rw [link_field hq l LinkSt.rxSeq, link_field hq l LinkSt.acked, link_field hq l LinkSt.dropping, link_field hq l LinkSt.nakAck,
      link_field hq l LinkSt.nakSince, h1]
    exact ⟨rfl, rfl, rfl, rfl, rfl⟩
  clear_value d2
  split
  · obtain ⟨-, hk, -⟩ := enterRealign_spec hl 0 hlt
    rw [kept_field hk LinkSt.rxSeq, kept_field hk LinkSt.acked, kept_field hk LinkSt.dropping, kept_field hk LinkSt.nakAck, kept_field hk LinkSt.nakSince]
    exact h2
  · exact h2

/-! ## Flits -/

theorem rest_field {α : Type} {x y : LinkSt} (h : linkRest y = linkRest x) (f : LinkSt → α) (hf : ∀ x, f (linkRest x) = f x := by intro; rfl) :
    f y = f x := by rw [← hf y, ← hf x, h]

theorem wordless_field {α : Type} {x y : LinkSt} (h : wordless y = wordless x) (f : LinkSt → α) (hf : ∀ x, f (wordless x) = f x := by intro; rfl) :
    f y = f x := by rw [← hf y, ← hf x, h]

/-- What a flit with no link-control code and nothing corrected does in Active, beside its control word. -/
theorem flitIn_plain {l : Nat} {f : Flit} {d : Dev} (h : ltOf d l = 6) (hx : f.fixed = 0) (hs : f.fcw.sync = 0xB5) (hc : f.fcw.lctl = 0)
    (ht : f.ftype ≠ 2) (hr : f.fecOk = true → crcGood f = true → (linkOf d l).replayDue = false) : flitIn l f d =
      (if (f.fecOk && crcGood f && (f.tagOk || decide (l < 16)) && f.ftype != 3 &&
          decide (f.seq.toNat = ((linkOf d l).rxSeq + 1) % 4096) && (!(linkOf d l).dropping || f.rply)) = true
        then acceptFlit l f (fcwIn l f.fcw d) else discardFlit l f (fcwIn l f.fcw d)) := by
  obtain ⟨-, hw, hlt⟩ := fcwIn_idle hs hc l d
  have hfix : whenD (decide (l < 16 ∧ f.fixed ≠ 0)) (countN (0x4000 + 16 * l + 9) f.fixed.toNat) d = d := by simp [whenD, hx]
  have hres : (if f.fecOk = true ∧ crcGood f = true then resumeReplay l f (fcwIn l f.fcw d) else fcwIn l f.fcw d) = fcwIn l f.fcw d := by
    split
    next hg =>
      rw [resumeReplay, wordless_field hw LinkSt.replayDue, hr hg.1 hg.2]
      rfl
    next => rfl
  unfold flitIn
  rw [if_neg (by simp [h])]
  simp only [hfix, hlt, hres, h, ht, ne_eq, not_true_eq_false, if_false, wordless_field hw LinkSt.rxSeq, wordless_field hw LinkSt.dropping]

theorem acceptFlit_idle {l : Nat} {f : Flit} (ht : f.ftype = 1) (hn : f.nak = false) (ha : f.cntA = 0) (hb : f.cntB = 0) (d : Dev) :
    (linkOf (acceptFlit l f d) l).rxSeq = f.seq.toNat ∧ (linkOf (acceptFlit l f d) l).acked = f.ack.toNat ∧
      (linkOf (acceptFlit l f d) l).dropping = false := by
  unfold acceptFlit
  extract_lets d1 d2 d3
  have h1 : linkOf d1 l = { linkOf d l with rxSeq := f.seq.toNat, dropping := false, nakOut := false, nakRow := 0 } := linkOf_onLink_same _ _ _
  have h2 : d2 = d1 := by
    simp only [d2]
    rw [takeCredits, if_pos (by simp [hb]), takeCredits, if_pos (by simp [ha])]
  have hfin : (linkOf (takeAckNak l f d1) l).rxSeq = f.seq.toNat ∧ (linkOf (takeAckNak l f d1) l).acked = f.ack.toNat ∧
      (linkOf (takeAckNak l f d1) l).dropping = false := by
    obtain ⟨k1, k2, k3⟩ := takeAckNak_ack hn l d1
    rw [k1, k2, k3, h1]
    exact ⟨rfl, rfl, rfl⟩
  have hflush {e : Dev} (he : e = flushLink l (takeAckNak l f d1)) : (linkOf e l).rxSeq = f.seq.toNat ∧ (linkOf e l).acked = f.ack.toNat ∧
      (linkOf e l).dropping = false := by
    have hq := flushLink_quiet l (takeAckNak l f d1)
    rw [he, link_field hq l LinkSt.rxSeq, link_field hq l LinkSt.acked, link_field hq l LinkSt.dropping]
    exact hfin
  split
  · exact hflush (by rw [if_neg (by simp [ht])]; simp only [d3, h2])
  · exact hflush rfl

/-- The counters and flags of a discarded flit. -/
def discardNoted (l : Nat) (f : Flit) (d : Dev) : Dev :=
  if l < 16 then
    (if !f.fecOk then count (0x4000 + 16 * l + 10) (setB (F.FAB_ERR_FEC_UNCORR l) true d)
     else if !crcGood f ∨ f.ftype = 3 then count (0x4000 + 16 * l + 11) (setB (F.FAB_ERR_CRC_FAIL l) true d) else d)
  else d

theorem discardNoted_spec (l : Nat) (f : Flit) (d : Dev) : linkRest (linkOf (discardNoted l f d) l) = linkRest (linkOf d l) ∧
    ltOf (discardNoted l f d) l = ltOf d l := by
  have hc (i : Nat) {g : Fld} (hg : l < 16 → Apart g (F.FAB_STS_LTSTATE l)) : linkRest (linkOf (count i (setB g true d)) l) = linkRest (linkOf d l) ∧
      ltOf (count i (setB g true d)) l = ltOf d l := by
    rw [(count_quiet _ _).ltOf, (count_quiet _ _).rest.2.1 l, setB, linkOf_setF, ltOf_setF _ _ _ hg]
    exact ⟨rfl, rfl⟩
  unfold discardNoted
  split
  · split
    · exact hc _ fun _ => .inl (by simp only [F.FAB_STS_LTSTATE, F.FAB_ERR_FEC_UNCORR]; omega)
    · split
      · exact hc _ fun _ => .inl (by simp only [F.FAB_STS_LTSTATE, F.FAB_ERR_CRC_FAIL]; omega)
      · exact ⟨rfl, rfl⟩
  · exact ⟨rfl, rfl⟩

theorem discardFlit_first {l : Nat} {f : Flit} {d : Dev} (hb : f.fecOk = false ∨ crcGood f = false) (hd : (linkOf d l).dropping = false) :
    discardFlit l f d = nakSent l (onLink l (fun x => { x with dropping := true }) (discardNoted l f d)) := by
  have hno : ¬ (f.fecOk = true ∧ crcGood f = true ∧ (!f.tagOk) = true) := by
    rintro ⟨h1, h2, -⟩
    rcases hb with h | h
    · exact absurd (h1.symm.trans h) (by decide)
    · exact absurd (h2.symm.trans h) (by decide)
  have hdrop : (linkOf (discardNoted l f d) l).dropping = false :=
    (show (linkRest (linkOf (discardNoted l f d) l)).dropping = _ by rw [(discardNoted_spec l f d).1]; exact hd)
  unfold discardFlit
  rw [if_neg hno]
  exact if_neg (ne_true_of_eq_false hdrop)

/-- A discarded flit makes the receiver ask for a replay (R93), and takes nothing of what it has. -/
theorem discardFlit_asks {l : Nat} (hl : l < 17) {f : Flit} {d : Dev} (h : ltOf d l = 6) (hb : f.fecOk = false ∨ crcGood f = false)
    (hd : (linkOf d l).dropping = false) : (linkOf (discardFlit l f d) l).rxSeq = (linkOf d l).rxSeq ∧
      (linkOf (discardFlit l f d) l).acked = (linkOf d l).acked ∧ (linkOf (discardFlit l f d) l).dropping = true ∧
      (linkOf (discardFlit l f d) l).nakAck = (linkOf d l).rxSeq := by
  obtain ⟨hr, hlt⟩ := discardNoted_spec l f d
  have hlt' : ltOf (onLink l (fun x => { x with dropping := true }) (discardNoted l f d)) l = 6 := by
    rw [ltOf_onLink, hlt, h]
    intro x; rfl
  obtain ⟨k1, k2, k3, k4, -⟩ := nakSent_spec hl hlt'
  rw [discardFlit_first hb hd, k1, k2, k3, k4, linkOf_onLink_same]
  have hseq : (linkOf (discardNoted l f d) l).rxSeq = (linkOf d l).rxSeq := rest_field hr LinkSt.rxSeq
  have hack : (linkOf (discardNoted l f d) l).acked = (linkOf d l).acked := rest_field hr LinkSt.acked
  exact ⟨hseq, hack, rfl, hseq⟩

/-- A reserved class of the mirror link is discarded (R293). -/
theorem reservedMcls_eq {s : State} (cls : BitVec 4) (hu : mirUp s.dev = true) : ∃ g, execReservedMcls cls s =
    .next { s with dev := raiseN 385 7 (setF F.TWN_HS_INFO_REASON 7 g) } := by
  simp only [execReservedMcls, runQ, hu, Bool.not_true, Bool.false_eq_true, if_false]
  exact ⟨_, rfl⟩

end Sys2Proof.Machine

namespace Sys2Proof
open Sys2Proof.Machine

/-- Settles O42. -/
theorem flits : Obligations.Flits := by
  intro link f cls p port s l x runs plain
  have direct {c e} {E : Dev → Prop} (hc : exec c s = .next { s with dev := e }) (h : E e) : runs c E := ⟨_, hc, rfl, h⟩
  have hx : linkOf s.dev l = x := rfl
  clear_value runs
  refine ⟨fun h6 => ⟨fun hp ht hf hc hg hq hd hr => ?_, fun hp ht hbad hd => ?_, fun hn hf hc hr => ?_, fun hd hs => ?_, ?_⟩, fun h6 hb => ?_,
    fun hu => ?_⟩
  · obtain ⟨p1, p2, p3, p4, p5, p6⟩ := hp
    refine direct (e := acceptFlit l f (fcwIn l f.fcw s.dev)) ?_ (acceptFlit_idle ht p4 p5 p6 _)
    show runQ (flitIn l f) s = _
    rw [runQ, flitIn_plain h6 p1 p2 p3 (by rw [ht]; decide) (fun _ _ => hr), if_pos]
    rw [hf, hc, hg, ht, hx, hd, decide_eq_true hq]
    rfl
  · obtain ⟨p1, p2, p3, p4, p5, p6⟩ := hp
    obtain ⟨-, hw, hlt⟩ := fcwIn_idle p2 p3 l s.dev
    have hno : (f.fecOk && crcGood f) = false := by
      rcases hbad with h | h <;> simp [h]
    refine direct (e := discardFlit l f (fcwIn l f.fcw s.dev)) ?_ ?_
    · show runQ (flitIn l f) s = _
      rw [runQ, flitIn_plain h6 p1 p2 p3 ht (fun h1 h2 => absurd hno (by simp [h1, h2])), if_neg]
      rw [hno]
      simp
    · have hk := discardFlit_asks link.isLt (hlt.trans h6) hbad ((wordless_field hw LinkSt.dropping).trans hd)
      rw [wordless_field hw LinkSt.rxSeq, wordless_field hw LinkSt.acked] at hk
      exact hk
  · refine direct (e := flushLink l (takeAckNak l f s.dev)) ?_ ?_
    · show runQ (holdFlit l f) s = _
      rw [runQ, holdFlit, resumeReplay, if_neg (by rw [hf, hc]; simp [l, h6]), if_neg (by rw [hx, hr]; decide)]
    · obtain ⟨k1, k2, -⟩ := takeAckNak_ack hn l s.dev
      have hq := flushLink_quiet l (takeAckNak l f s.dev)
      rw [link_field hq l LinkSt.rxSeq, link_field hq l LinkSt.acked]
      exact ⟨k2, k1⟩
  · obtain ⟨-, -, k3, k4, k5⟩ := nakSent_spec link.isLt h6
    refine direct (e := nakSent l s.dev) ?_ ⟨k5, k4, k3.trans hd⟩
    show execNakRetryTimer link s = _
    exact congrArg (fun e => Host.Outcome.next { s with dev := e })
      (if_pos (c := ltOf s.dev l = 6 ∧ x.dropping = true ∧ x.nakSince + 2 ≤ s.dev.glb.tick) ⟨h6, hd, hs⟩)
  · obtain ⟨k1, k2, k3⟩ := enterRealign_spec link.isLt 2 h6
    refine direct (c := .realign link) (e := enterRealign l 2 s.dev) rfl ?_
    exact ⟨k1, kept_field k2 LinkSt.swapLane, kept_field k2 LinkSt.swapAgain, k3⟩
  · have hlt : ltOf (touch p.val s.dev) port.val = 6 := by
      rw [← h6]
      exact ltOf_congr (fun _ => touch_getF) (by unfold linkOf; rw [touch_fab])
    obtain ⟨k1, k2, k3⟩ := enterRealign_spec (l := port.val) (by omega) 1 hlt
    refine direct (e := enterRealign port.val 1 (touch p.val s.dev)) ?_
      ⟨k1, kept_field k2 LinkSt.lctlOut, k3 port.isLt⟩
    exact congrArg (fun e => Host.Outcome.next { s with dev := e }) (viaPort_eq hb _ _)
  · obtain ⟨g, e⟩ := reservedMcls_eq cls hu
    refine direct e ⟨?_, raiseN_pending _ _ _ (by decide) (.inl rfl)⟩
    rw [raiseN_getF (by decide), getF_setF_fits (by decide) (by decide)]

end Sys2Proof
end

section
/-!
What the schedule's times bring (R24, R43, R44, R234).
-/
namespace Sys2Proof.Machine
open Sys2Proof Sys2Proof.SMapLaws

/-! ## Levels -/

theorem getF_lt {f : Fld} {w : Nat} (h : f.lo ≤ f.hi ∧ f.hi + 1 - f.lo = w) (d : Dev) : getF d f < 2 ^ w := by
  obtain ⟨-, rfl⟩ := h
  exact Nat.mod_lt _ (Nat.two_pow_pos _)

theorem levelFor_le (d : Dev) (x : Int) : levelFor d x ≤ 15 := by
  unfold levelFor
  dsimp only
  split
  · exact Nat.zero_le _
  · exact Nat.min_le_left _ _

theorem nextLevel_lt (d : Dev) : nextLevel d < 16 := by
  have h1 := levelFor_le d d.thm.sfMax
  have h2 := levelFor_le d (d.thm.sfMax + 24)
  unfold nextLevel
  split
  · decide
  · dsimp only
    omega

theorem levelApplies_level (d : Dev) : getF (levelApplies d) F.SCH_SPOS_LEVEL = getF d F.SCH_SPOS_NEXT_LEVEL := by
  have hlt : getF d F.SCH_SPOS_NEXT_LEVEL < 2 ^ 4 := getF_lt (by decide) d
  have hset (e : Dev) : getF (setB F.THM_STS_THROT (decide (getF d F.SCH_SPOS_NEXT_LEVEL ≠ 0)) (setF F.SCH_SPOS_LEVEL (getF d F.SCH_SPOS_NEXT_LEVEL) e))
      F.SCH_SPOS_LEVEL = getF d F.SCH_SPOS_NEXT_LEVEL := by
    rw [getF_setB_apart (by decide), getF_setF_fits (by decide) hlt]
  have hraise (n v : Nat) {e : Dev} : getF (raiseN n v e) F.SCH_SPOS_LEVEL = getF e F.SCH_SPOS_LEVEL := raiseN_getF (by decide)
  unfold levelApplies
  dsimp only
  split
  next h => exact h
  next =>
    split
    · rw [hraise, hraise, hset]
    · split
      · rw [hraise, hraise, hset]
      · rw [hraise, hset]

theorem antiRollback_done {un : BitVec 4} {d : Dev} (h : stateCode d = 5 ∨ stateCode d = 6) : (antiRollback un d).glb.antiRollbackDone = true := by
  unfold antiRollback
  split
  next hc =>
    rcases hc with hc | ⟨h5, h6⟩
    · exact hc
    · exact absurd h (by simp [h5, h6])
  next => rfl

theorem onGlb_getF (f : Glb → Glb) (d : Dev) (g : Fld) : getF (onGlb f d) g = getF d g := rfl
theorem onNtr_getF (f : Ntr → Ntr) (d : Dev) (g : Fld) : getF (onNtr f d) g = getF d g := rfl
theorem onRail_getF (r : Nat) (f : Rail → Rail) (d : Dev) (g : Fld) : getF (onRail r f d) g = getF d g := rfl

theorem restartCounts_next (d : Dev) : getF (restartCounts d) F.SCH_SPOS_NEXT_LEVEL = getF d F.SCH_SPOS_NEXT_LEVEL := by
  unfold restartCounts
  rw [onGlb_getF]
  refine forEach_inv (P := fun e => getF e F.SCH_SPOS_NEXT_LEVEL = getF d F.SCH_SPOS_NEXT_LEVEL) (fun r e he => ?_) _ rfl
  rw [getF_setF_ne (by simp only [F.SCH_SPOS_NEXT_LEVEL, F.PWR_RAIL_STS_TRANS]; omega), onRail_getF]
  exact he

/-- A superframe boundary, up to what moves on after the level (R44). -/
def superframeStart (d : Dev) : Dev :=
  let e := restartCounts (floodSummary (count (0xC000 + dutyLevel d) d))
  if serves e then levelApplies e else e

theorem superframe_eq {ok : Bool} {un : BitVec 4} {d : Dev} (h : sfTick d = 0) (h1 : d.glb.base ≠ .off) (h2 : d.glb.base ≠ .sequencing) :
    superframe ok un d = antiRollback un (sparingTick (swapDies (reseed ok (superframeStart d)))) := by
  rw [superframe, if_neg (by simp [h, h1, h2])]
  rfl

theorem superframeStart_level {d : Dev} (h : serves d = true) : getF (superframeStart d) F.SCH_SPOS_LEVEL = getF d F.SCH_SPOS_NEXT_LEVEL := by
  have hs : serves (restartCounts (floodSummary (count (0xC000 + dutyLevel d) d))) = true := by
    rw [serves_iff, restartCounts_keeps _ .base (by decide), floodSummary_keeps _ .base (by decide), count_base, ← serves_iff]
    exact h
  unfold superframeStart
  dsimp only
  rw [if_pos hs, levelApplies_level, restartCounts_next, getF_plain (floodSummary_keeps _) (by decide) (by decide), count_getF (by decide)]

/-! ## Epochs -/

/-- An epoch boundary, up to the cap that follows from it (R234, R173). -/
def epochStart (d : Dev) : Dev :=
  let e := forEach (List.range 64) (fun c d => addSat (F.XLT_CKPT_AGE c) 1 d) (ageTick d)
  onNtr (fun n => { n with
    weir := (n.weir.map fun e => (e.1, { e.2 with ueEpoch := 0 })).filter fun (e : Nat × WeirCh) => decide (e.2 ≠ {}) }) e

theorem epochStep_eq {d : Dev} (h : spos d = 0) (h1 : d.glb.base ≠ .off) (h2 : d.glb.base ≠ .sequencing) : epochStep d = capEpoch (epochStart d) := by
  rw [epochStep, if_neg (by simp [h, h1, h2])]
  rfl

theorem ageTick_age {d : Dev} (h : serves d = true) :
    getF (ageTick d) F.XLT_AGE_NOW_AGE = (getF d F.XLT_AGE_NOW_AGE + 1) % 2 ^ 32 := by
  have hset : getF (setF F.XLT_AGE_NOW_AGE (getF d F.XLT_AGE_NOW_AGE + 1) d) F.XLT_AGE_NOW_AGE = (getF d F.XLT_AGE_NOW_AGE + 1) % 2 ^ 32 :=
    getF_setF_same _ _ _ (by decide) (by decide)
  have hsave (e : Dev) : getF (saveOffsets e) F.XLT_AGE_NOW_AGE = getF e F.XLT_AGE_NOW_AGE := rfl
  unfold ageTick
  simp only [h, Bool.not_true, Bool.false_eq_true, if_false]
  split
  · split
    · exact (hsave _).trans hset
    · exact (hsave _).trans hset
  · split
    · exact hset
    · exact hset

theorem epochStart_age {d : Dev} (h : serves d = true) :
    getF (epochStart d) F.XLT_AGE_NOW_AGE = (getF d F.XLT_AGE_NOW_AGE + 1) % 2 ^ 32 := by
  unfold epochStart
  rw [onNtr_getF]
  refine Eq.trans ?_ (ageTick_age h)
  refine forEach_inv (P := fun e => getF e F.XLT_AGE_NOW_AGE = getF (ageTick d) F.XLT_AGE_NOW_AGE) (fun c e he => ?_) _ rfl
  rw [getF_addSat_apart (.inl (by simp only [F.XLT_AGE_NOW_AGE, F.XLT_CKPT_AGE]; omega))]
  exact he

theorem epochStart_weir (d : Dev) : ∀ w ∈ (epochStart d).ntr.weir, w.2.ueEpoch = 0 := by
  intro w hw
  obtain ⟨hw, -⟩ := List.mem_filter.mp hw
  obtain ⟨e, -, rfl⟩ := List.mem_map.mp hw
  rfl

/-! ## The start of a tick's programs -/

/-- A runnel that was idle or running starts its tick at cycle 0, with the posts that arrived (R59, R63). -/
def Begun (r r' : Runnel) : Prop := r.st = .idle ∨ r.st = .running →
  r'.st = .running ∧ r'.cyc = 0 ∧ r'.core.outbox = [] ∧ r'.core.inbox = r.core.inbox ++ r.arrived

theorem startRunnel_begun (n : Nat) (d : Dev) : Begun (runnelOf d n) (runnelOf (startRunnel n d) n) := by
  intro h
  unfold startRunnel
  dsimp only
  rw [runnelOf_onRunnel_same]
  rcases h with h | h <;> rw [h] <;> exact ⟨rfl, rfl, rfl, rfl⟩

theorem startRunnel_other {n k : Nat} (h : k ≠ n) (d : Dev) : runnelOf (startRunnel n d) k = runnelOf d k := by
  unfold startRunnel
  exact runnelOf_onRunnel_ne h _ _

theorem startRunnels_begun {l : List Nat} (hl : l.Nodup) {n : Nat} (hn : n ∈ l) (d : Dev) :
    Begun (runnelOf d n) (runnelOf (l.foldl (fun d n => startRunnel n d) d) n) := by
  have hrest {l : List Nat} (h : n ∉ l) (d : Dev) : runnelOf (l.foldl (fun d n => startRunnel n d) d) n = runnelOf d n := by
    induction l generalizing d with
    | nil => rfl
    | cons a l ih =>
      rw [List.foldl_cons, ih (fun h' => h (List.mem_cons_of_mem _ h')), startRunnel_other (fun e => h (List.mem_cons.mpr (.inl e)))]
  induction l generalizing d with
  | nil => cases hn
  | cons a l ih =>
    obtain ⟨ha, hl⟩ := List.nodup_cons.mp hl
    rw [List.foldl_cons]
    by_cases h : n = a
    · subst h
      rw [hrest ha]
      exact startRunnel_begun _ _
    · have := ih hl ((List.mem_cons.mp hn).resolve_left h) (startRunnel a d)
      rw [startRunnel_other h] at this
      exact this

/-- Cycle 0 of a tick: every runnel has started, and what corrections, changes and launches follow comes after. -/
def tickStarted (d : Dev) : Dev :=
  let d := { d with med := { d.med with dies := d.med.dies.map fun e => (e.1, { e.2 with ready := decide (e.2.op = .none) }) } }
  (List.range 44).foldl (fun d n => startRunnel n d) (onSch (fun s => { s with basinPosts := [] }) (erasesAround d))

theorem tickStarted_begun (d : Dev) (n : Fin 44) : Begun (runnelOf d n.val) (runnelOf (tickStarted d) n.val) := by
  have h := startRunnels_begun (l := List.range 44) (n := n.val) List.nodup_range (List.mem_range.mpr n.isLt)
    (onSch (fun s => { s with basinPosts := [] })
      (erasesAround { d with med := { d.med with dies := d.med.dies.map fun e => (e.1, { e.2 with ready := decide (e.2.op = .none) }) } }))
  have hsch : runnelOf (onSch (fun s => { s with basinPosts := [] })
      (erasesAround { d with med := { d.med with dies := d.med.dies.map fun e => (e.1, { e.2 with ready := decide (e.2.op = .none) }) } })) n.val =
      runnelOf d n.val := by
    unfold onSch runnelOf
    dsimp only
    rw [erasesAround_keeps _ .sch (by decide)]
  rw [hsch] at h
  exact h

end Sys2Proof.Machine

namespace Sys2Proof
open Sys2Proof.Machine

/-- Settles O43. -/
theorem scheduleTimes : Obligations.ScheduleTimes := by
  intro ok un cal scrub corrected s d runs
  have quiet {c e} {E : Dev → Prop} (hc : exec c s = .next { s with dev := e }) (h : E e) : runs c E := ⟨_, e, hc, rfl, .inl rfl, h⟩
  have whole {c f} {E : Dev → Prop} (hc : exec c s = run f s) (h : E (f s.dev)) : runs c E := ⟨_, f s.dev, hc, rfl, .inr rfl, h⟩
  clear_value runs
  refine ⟨fun ht hb => ?_, fun ht h1 h2 => ?_, fun ht h1 h2 => ?_, fun ht hc => ?_, ?_⟩
  · refine quiet (e := windowsLapse (nextLevel d) (setF F.SCH_SPOS_NEXT_LEVEL (nextLevel d) d)) ?_
      ⟨_, rfl, getF_setF_fits (by decide) (nextLevel_lt d) d, setF_keeps _ _ _⟩
    refine congrArg (fun e => Host.Outcome.next { s with dev := e }) (if_neg ?_)
    rintro (h | h)
    · exact h ht
    · rcases hb with hb | hb
      · simp [show serves s.dev = true from hb] at h
      · simp [show s.dev.glb.base = .pairing from hb] at h
  · refine whole rfl ⟨superframeStart d, _, rfl, superframe_eq ht h1 h2, superframeStart_level, fun hy => ?_⟩
    rw [superframe_eq ht h1 h2]
    exact antiRollback_done hy
  · exact whole rfl ⟨epochStart d, epochStep_eq ht h1 h2, epochStart_age, epochStart_weir d⟩
  · refine quiet (e := setB F.SCH_SPOS_EPOCH_PROG true d) ?_ ⟨flag_setB_at (by decide) _ _, setB_keeps _ _ _⟩
    have hstart : epochScheduleStart s.dev = setB F.SCH_SPOS_EPOCH_PROG true s.dev := if_pos ⟨ht, hc⟩
    exact congrArg (fun e => Host.Outcome.next { s with dev := e }) hstart
  · exact whole (f := runnelTick cal scrub corrected) rfl ⟨tickStarted d, rfl, tickStarted_begun d⟩

end Sys2Proof
end

section
/-!
Engines and their spares (R62, R69-R75).
-/
namespace Sys2Proof.Machine
open Sys2Proof Sys2Proof.SMapLaws

theorem onSch_getF (g : Sch → Sch) (d : Dev) (f : Fld) : getF (onSch g d) f = getF d f := rfl
theorem onSch_pending (g : Sch → Sch) (d : Dev) (n : Nat) : Safety.pending (onSch g d) n = Safety.pending d n := rfl
theorem onRunnel_pending (k : Nat) (g : Runnel → Runnel) (d : Dev) (n : Nat) : Safety.pending (onRunnel k g d) n = Safety.pending d n := rfl

/-- What an engine fault records and reports, before a spare is taken or the device withdraws (R69, R70). -/
theorem engineFault_spec {n : Nat} (hn : n < 44) (cause : Nat) (d : Dev) : ∃ y,
    engineFault n cause d = (if d.sch.records.any (fun q => decide (q.pos = spos d % phaseCycle d) && decide (q.level = dutyLevel d) &&
        decide (d.glb.tick < q.tick + 2 ^ 20))
      then withdraw false (raiseBy true 41 (BitVec.ofNat 32 (spos y + dutyLevel y * 2 ^ 20)) y) else beginSubst n y) ∧
    flag y F.SCH_FLT_INFO_VALID = true ∧ getF y F.SCH_FLT_INFO_LOGICAL = n ∧ getF y F.SCH_FLT_INFO_CAUSE = cause % 16 ∧
    Safety.pending y 36 = true ∧ Safety.pending y (48 + getF d (F.SCH_MAP_PHYS n)) = true := by
  have hphys : getF d (F.SCH_MAP_PHYS n) < 2 ^ 6 := getF_lt (by simp [F.SCH_MAP_PHYS]) d
  unfold engineFault
  extract_lets phys pos again d1 d2 d3 d4 d5 d6
  have hfld {f : Fld} (hf : Safety.eventReg f.addr = false) : getF d6 f = getF d4 f := by
    show getF (raiseFree 36 (raiseFree (48 + phys) (clearAllResv (dropTick n d5)))) f = _
    rw [raiseFree_getF hf, raiseFree_getF hf, getF_plain (clearAllResv_keeps _) (by decide) hf, getF_plain (dropTick_keeps _ _) (by decide) hf]
    exact onSch_getF _ _ _
  refine ⟨d6, rfl, ?_, ?_, ?_, raiseFree_pending _ _ (by decide) (.inl rfl), raiseFree_pending _ _ (by omega) (.inr ?_)⟩
  · rw [flag, hfld (by decide)]
    exact (flag_setB_apart (by decide) _ _).trans (flag_setB_at (by decide) _ _)
  · rw [hfld (by decide)]
    exact (getF_setB_apart (by decide) _ _).trans ((getF_setB_apart (by decide) _ _).trans (getF_setF_fits (by decide) (lt_of_lt_of_le hn (by decide)) _))
  · rw [hfld (by decide)]
    refine (getF_setB_apart (by decide) _ _).trans ((getF_setB_apart (by decide) _ _).trans ((getF_setF_apart (by decide) _ _).trans
      ((getF_setF_apart (by decide) _ _).trans (getF_setF_same _ _ _ (by decide) (by decide)))))
  · exact raiseFree_pending _ _ (by omega) (.inl rfl)

/-- What the end of a substitution leaves, before what was in flight is treated as missed (R70-R72). -/
theorem spareSubstituted_spec (lost : Bool) {d : Dev} {q : Subst} (hq : d.sch.substs.find? (fun q => !q.done) = some q)
    (ht : q.tick + 3 ≤ d.glb.tick) (hb : d.glb.base ≠ .withdrawn) : ∃ y,
    spareSubstituted lost d = (if lost then coldMissed q.logical y else y) ∧
    (runnelOf y q.logical).restart = some (if lost then (sectOf d q.logical).cold else (sectOf d q.logical).restart) ∧
    Safety.pending y 33 = true ∧ (lost = true → Safety.pending y 38 = true) := by
  have hno : ¬ (d.glb.tick < q.tick + 3 ∨ d.glb.base = .withdrawn) := by
    rintro (h | h)
    · omega
    · exact hb h
  unfold spareSubstituted
  simp -zeta only [hq, hno, if_false]
  extract_lets n sect d1 f d2 d3 d4 d5 shown
  have h33 : Safety.pending d3 33 = true := count_pending _ _ (by decide) (raiseFree_pending _ _ (by decide) (.inl rfl))
  have h33' : Safety.pending d5 33 = true := by
    rw [onRunnel_pending, onSch_pending]
    exact h33
  have hres : (runnelOf d5 n).restart = some (if lost then sect.cold else sect.restart) := by
    rw [runnelOf_onRunnel_same]
  cases lost with
  | false => exact ⟨d5, rfl, hres, h33', nofun⟩
  | true =>
    refine ⟨_, rfl, ?_, ?_, fun _ => raiseFree_pending _ _ (by decide) (.inl rfl)⟩
    · rw [runnelOf, raiseFree_sch]
      split
      · rw [setB_sch]
        exact hres
      · exact hres
    · refine raiseFree_pending _ _ (by decide) (.inr ?_)
      split
      · exact ((Bank.setF (by decide) _ _).pending (by decide)).trans h33'
      · exact h33'

/-- A warden disagreement, before the device withdraws (R74). -/
theorem wardenDisagrees_spec (d : Dev) : ∃ y, wardenDisagrees d = withdraw true y ∧ flag y F.SCH_WARDEN_LOCKSTEP_OK = false ∧
    flag y F.SCH_WARDEN_SUBST_BUSY = false ∧ y.sch.substs = [] ∧ y.glb.base = d.glb.base := by
  unfold wardenDisagrees
  extract_lets d1 d2 v detail
  have hv : Safety.Keeps [.bsn, .free] d2 v.2 := .trans (.mono rfl (clearAllResv_keeps _)) (.mono rfl (drawFree_keeps _))
  refine ⟨_, rfl, ?_, ?_, ?_, ?_⟩
  · rw [flag_plain (ledFlood_keeps _ _ _) (by decide) (by decide), flag_plain hv (by decide) (by decide)]
    exact flag_setB_at (by decide) _ _
  · rw [flag_plain (ledFlood_keeps _ _ _) (by decide) (by decide), flag_plain hv (by decide) (by decide)]
    exact (flag_setB_apart (by decide) _ _).trans (flag_setB_at (by decide) _ _)
  · rw [ledFlood_keeps _ _ _ .sch (by decide), hv .sch (by decide)]
    rfl
  · rw [ledFlood_keeps _ _ _ .base (by decide), hv .base (by decide)]
    rfl

theorem schCycClear_max (d : Dev) (k : Fin 44) : getF (schCycClear d) (F.SCH_CYC_MAX k.val) = 0 := by
  have hne {a b : Nat} (h : a ≠ b) : Apart (F.SCH_CYC_MAX a) (F.SCH_CYC_MAX b) := .inl (by simp only [F.SCH_CYC_MAX]; omega)
  have key (l : List Nat) (h : k.val ∈ l ∨ getF d (F.SCH_CYC_MAX k.val) = 0) :
      getF (l.foldl (fun d n => setF (F.SCH_CYC_MAX n) 0 d) d) (F.SCH_CYC_MAX k.val) = 0 := by
    induction l generalizing d with
    | nil => exact h.resolve_left (by simp)
    | cons a l ih =>
      rw [List.foldl_cons]
      refine ih (setF (F.SCH_CYC_MAX a) 0 d) ?_
      by_cases ha : a = k.val
      · right
        rw [ha]
        exact getF_setF_fits (by simp [F.SCH_CYC_MAX]) (Nat.two_pow_pos _) d
      · rcases h with h | h
        · exact .inl ((List.mem_cons.mp h).resolve_left (Ne.symm ha))
        · right
          rw [getF_setF_apart (hne ha)]
          exact h
  exact key _ (.inl (List.mem_range.mpr k.isLt))

/-- A transfer that ended leaves its engine's list (R62). -/
theorem xferComplete_spec {n desc status htag : Nat} {leaf : Option Nat} {md : Option SectorId} {d : Dev} {x : Xfer}
    (hx : (runnelOf d n).core.xfers.find? (fun x => x.desc = desc) = some x) (h0 : status ≠ 0) (h4 : status ≤ 4)
    (hs : xferStarted d n x.tmpl = true) : ∃ y, xferComplete n desc status htag leaf md d = xferBrings n status htag leaf md
      (engineWrite n (desc + 28) [BitVec.ofNat 8 status, 0, 0, 0] y) ∧ ∀ z ∈ (runnelOf y n).core.xfers, z.desc ≠ desc := by
  have hno : ¬ (status = 0 ∨ 4 < status ∨ (!xferStarted d n x.tmpl) = true) := by
    rw [hs]
    simp
    omega
  unfold xferComplete
  rw [hx]
  dsimp only
  rw [if_neg hno]
  refine ⟨_, rfl, fun z hz => ?_⟩
  rw [runnelOf_onRunnel_same] at hz
  exact of_decide_eq_true (List.mem_filter.mp hz).2

end Sys2Proof.Machine

namespace Sys2Proof
open Sys2Proof.Machine

/-- Settles O44. -/
theorem enginesAndSpares : Obligations.EnginesAndSpares := by
  intro rn desc status tag xl found lost p s d n r runs
  have quiet {c e} {E : Dev → Prop} (hc : exec c s = .next { s with dev := e }) (h : E e) : runs c E := ⟨_, e, hc, rfl, .inl rfl, h⟩
  have whole {c f} {E : Dev → Prop} (hc : exec c s = run f s) (h : E (f s.dev)) : runs c E := ⟨_, f s.dev, hc, rfl, .inr rfl, h⟩
  clear_value runs
  refine ⟨fun x hx h0 h4 hs => ?_, fun hm hb => ?_, fun q hq ht hb => ?_, ?_, ?_, fun hb => ?_⟩
  · have h0' : status.toNat ≠ 0 := fun h => h0 (BitVec.eq_of_toNat_eq h)
    exact whole (f := xferComplete n desc.toNat status.toNat tag.toNat (xl.leaf.map BitVec.toNat) xl.md) rfl (xferComplete_spec hx h0' h4 hs)
  · refine whole (f := fun _ => engineFault n (beatCause n r found.toNat) d) ?_ (engineFault_spec rn.isLt _ d)
    show execEngineFault rn found s = _
    refine congrArg (fun e => Host.Outcome.next { s with dev := finish (stateByte s.dev) e }) (if_pos ?_)
    exact ⟨hm, hb⟩
  · exact whole rfl (spareSubstituted_spec lost hq ht hb)
  · exact quiet (e := recordsExpire d) rfl ⟨rfl, recordsExpire_keeps _⟩
  · exact whole (f := wardenDisagrees) rfl (wardenDisagrees_spec d)
  · refine quiet (e := schCycClear (touch p.val d)) ?_ (schCycClear_max _)
    exact congrArg (fun e => Host.Outcome.next { s with dev := e }) (viaPort_eq hb _ _)

end Sys2Proof
end

section
/-!
Dies and channels (R36, R182-R188, R279).
-/
namespace Sys2Proof.Machine
open Sys2Proof Sys2Proof.SMapLaws

/-! ## Dies, channels and the image -/

theorem dieOf_of_med {d e : Dev} (h : e.med = d.med) (x : Nat) : dieOf e x = dieOf d x := by unfold dieOf; rw [h]
theorem chanOf_of_med {d e : Dev} (h : e.med = d.med) (c : Nat) : chanOf e c = chanOf d c := by unfold chanOf; rw [h]
theorem onChan_img (c : Nat) (f : Chan → Chan) (d : Dev) : img (onChan c f d) = img d := rfl
theorem onDie_getF (x : Nat) (f : Die → Die) (d : Dev) (g : Fld) : getF (onDie x f d) g = getF d g := rfl
theorem onChan_getF (c : Nat) (f : Chan → Chan) (d : Dev) (g : Fld) : getF (onChan c f d) g = getF d g := rfl

theorem img_of_glbRest {d e : Dev} (h : glbRest e = glbRest d) : img e = img d := by
  have hi : (glbRest e).image = (glbRest d).image := by rw [h]
  exact congrArg (fun i => i.getD {}) hi

/-- No register of the media channels counts events. -/
theorem med_plain {a : Nat} (h1 : 0x700000 ≤ a) (h2 : a < 0xE00000) : Safety.eventReg a = false :=
  eventReg_false (.inr (by omega)) (by omega) (by omega) (by omega) (by omega)

/-! ## The end of an operation -/

/-- A die's status has been read. -/
def statusRead (x : Nat) (status : BitVec 8) (d : Dev) : Dev :=
  count (0x7000 + 18 * (x / 32) + 5) (onDie x (fun y => { y with status := status }) d)

theorem statusRead_die (x : Nat) (status : BitVec 8) (d : Dev) : dieOf (statusRead x status d) x = { dieOf d x with status := status } := by
  rw [statusRead, dieOf_of_med count_med, dieOf_onDie_same]

theorem statusRead_free (x : Nat) (status : BitVec 8) (d : Dev) : (statusRead x status d).free = d.free := count_free

theorem statusRead_susp (x : Nat) (status s : BitVec 8) (d : Dev) : suspBit (statusRead x status d) s = suspBit d s := by
  have h : img (statusRead x status d) = img d := img_of_glbRest (count_glbRest _ _)
  rw [suspBit, h, suspBit]

section Ends
variable {x : Nat} {status : BitVec 8} {d : Dev} (hop : (dieOf d x).op ≠ .none) (hdue : dataInDue d x = false)
include hop hdue

theorem dieOpComplete_fails (h7 : status.getLsbD 7 = false) : dieOpComplete x status d = dieFails x 0 0 (statusRead x status d) := by
  unfold dieOpComplete stBit
  simp only [hop, hdue, h7, Bool.false_eq_true, or_self, if_false, Bool.not_false, if_true]
  rfl

theorem dieOpComplete_busy (h7 : status.getLsbD 7 = true) (h6 : status.getLsbD 6 = false) : dieOpComplete x status d = statusRead x status d := by
  unfold dieOpComplete stBit
  simp only [hop, hdue, h7, h6, Bool.false_eq_true, or_self, if_false, Bool.not_true, Bool.not_false, if_true]
  rfl

theorem dieOpComplete_ready (h7 : status.getLsbD 7 = true) (h6 : status.getLsbD 6 = true) : dieOpComplete x status d =
    (match (dieOf (statusRead x status d) x).op with
      | .prog _ => programEnds x status (statusRead x status d)
      | .erase _ => eraseEnds x status (statusRead x status d)
      | .read => onDie x (fun y => { y with op := .none, page := [], array := some (statusRead x status d).free })
          { statusRead x status d with free := (statusRead x status d).free + 9216 }
      | _ => onDie x (fun y => { y with op := .none }) (statusRead x status d)) := by
  unfold dieOpComplete stBit
  simp only [hop, hdue, h7, h6, Bool.false_eq_true, or_self, if_false, Bool.not_true]
  rfl

theorem dieOpComplete_read (h7 : status.getLsbD 7 = true) (h6 : status.getLsbD 6 = true) (hr : (dieOf d x).op = .read) :
    (dieOf (dieOpComplete x status d) x).op = .none ∧ (dieOf (dieOpComplete x status d) x).array = some d.free ∧
      (dieOpComplete x status d).free = d.free + 9216 := by
  rw [dieOpComplete_ready hop hdue h7 h6, statusRead_die, statusRead_free]
  simp only [hr, dieOf_onDie_same, onDie_free]
  exact ⟨trivial, trivial, trivial⟩

theorem dieOpComplete_prog (h7 : status.getLsbD 7 = true) (h6 : status.getLsbD 6 = true) {b : _} (hr : (dieOf d x).op = .prog b) : ∃ g,
    (dieOf g x).op = .none ∧ (dieOf g x).work = [] ∧ dieOpComplete x status d = (if status.getLsbD 0
      then programFails x (dieOf d x).progBlocks (dieOf d x).work g
      else (dieOf d x).work.foldl (fun d w => workDone x w d) (advanceNwl x (dieOf d x).progBlocks (dieOf d x).progWl g)) := by
  rw [dieOpComplete_ready hop hdue h7 h6, statusRead_die]
  simp only [hr, programEnds, statusRead_die, stBit]
  refine ⟨_, ?_, ?_, rfl⟩
  · rw [dieOf_onDie_same]
  · rw [dieOf_onDie_same]

theorem dieOpComplete_erase (h7 : status.getLsbD 7 = true) (h6 : status.getLsbD 6 = true) {b : _} {er : EraseSt}
    (hr : (dieOf d x).op = .erase b) (he : (dieOf d x).erase = some er) (h0 : status.getLsbD 0 = false) (hs : er.resumed = false) :
    (dieOf (dieOpComplete x status d) x).op = .none ∧ (dieOf (dieOpComplete x status d) x).erase = none ∧
      (dieOf (dieOpComplete x status d) x).blank = some er := by
  rw [dieOpComplete_ready hop hdue h7 h6, statusRead_die]
  simp only [hr, eraseEnds, statusRead_die, he, stBit, h0, hs, Bool.false_and, Bool.false_eq_true, if_false, dieOf_onDie_same]
  exact ⟨trivial, trivial, trivial⟩

end Ends

/-- A suspended erase frees its die and credits its slice (R195). -/
theorem eraseSuspend_suspends {x t : Nat} {status : BitVec 8} {d : Dev} {er : EraseSt} (he : (dieOf d x).erase = some er)
    (ht : er.suspAt = some t) (h7 : status.getLsbD 7 = true) (hs : suspBit d status = true) :
    (dieOf (eraseSuspend x status d) x).op = .none ∧ (dieOf (eraseSuspend x status d) x).erase =
      some { er with suspended := true, suspAt := none, resumed := false, credited := er.credited + (t - (dieOf d x).busySince - 1) } := by
  have heq : eraseSuspend x status d = onDie x (fun y => { y with
      op := .none
      erase := some { er with suspended := true, suspAt := none, resumed := false, credited := er.credited + (t - y.busySince - 1) } })
      (statusRead x status d) := by
    have hs' : suspBit (count (0x7000 + 18 * (x / 32) + 5) (onDie x (fun y => { y with status := status }) d)) status = true :=
      (statusRead_susp _ _ _ _).trans hs
    unfold eraseSuspend
    simp only [he, ht, hs', stBit, h7, reduceCtorEq, false_and, if_false, Bool.not_true, Bool.or_self, Bool.false_eq_true]
    rfl
  rw [heq, dieOf_onDie_same, statusRead_die]
  exact ⟨rfl, rfl⟩

theorem blankCheck_ends {x : Nat} {zeros : List Nat} {d : Dev} {er : EraseSt} (hb : (dieOf d x).blank = some er) : ∃ g,
    dieOf g x = { dieOf d x with blank := none } ∧ blankCheck x zeros d =
      (if ((List.range (2 * er.blocks.length)).filter (fun k => reportsErased d (zeros.getD k 0))).length = 2 * er.blocks.length
        then blankPasses x er g else blankFailsNow x er g) := by
  unfold blankCheck
  rw [hb]
  refine ⟨_, ?_, rfl⟩
  rw [dieOf_of_med countN_med, dieOf_onDie_same]

/-- A busy die past MED_TMO is reset (R199). -/
theorem busyTimeout_resets {x : Nat} (hx : x < 2048) {d : Dev} (h0 : (dieOf d x).op ≠ .none) (h1 : (dieOf d x).op ≠ .reset)
    (ht : getF d F.MED_TMO_TMO ≤ d.glb.tick - (dieOf d x).busySince) (hp : ∀ b, (dieOf d x).op ≠ .prog b) :
    (dieOf (busyTimeout x d) x).op = .reset ∧ (dieOf (busyTimeout x d) x).busySince = d.glb.tick ∧ (dieOf (busyTimeout x d) x).erase = none ∧
      flag (busyTimeout x d) (F.MED_ERR_BUSY_TMO (x / 32)) = true ∧ Safety.pending (busyTimeout x d) (256 + x / 32) = true := by
  unfold busyTimeout
  extract_lets c y since d1 d2 d3
  have h3 : dieOf d3 x = dieOf d2 x := dieOf_of_med (medEvent_keeps _ _ _ _ _ _ .med (by decide)) x
  have htick : d1.glb.tick = d.glb.tick := by
    rw [show d1 = count _ (setB _ _ (selectVolume x d)) from rfl, count_tick, setB_glb, selectVolume_keeps _ _ .tick (by decide)]
  rw [if_neg h0, if_neg h1, if_neg (Nat.not_lt.mpr ht)]
  split
  next b hb => exact absurd hb (hp b)
  rw [h3, dieOf_onDie_same]
  refine ⟨rfl, htick, rfl, ?_, raiseN_pending _ _ _ (by omega) (.inl rfl)⟩
  have hplain : Safety.eventReg (F.MED_ERR_BUSY_TMO c).addr = false :=
    med_plain (by simp only [F.MED_ERR_BUSY_TMO]; omega) (by simp only [F.MED_ERR_BUSY_TMO]; omega)
  show flag (raiseN _ _ d2) _ = true
  rw [raiseN_flag hplain, flag, onDie_getF, ← flag, count_flag hplain, flag_setB_at (by simp [F.MED_ERR_BUSY_TMO])]

/-! ## Scans and training -/

theorem factoryScan_spec {c p : Nat} {bad : List (BitVec 2 × BitVec 14)} {d : Dev} (h6 : recoveringAt6 d = true)
    (hs : getF d (F.MED_CH_STS_STATE c) = 2) (hp : p < populated d) (hr : (dieOf d (dieAt d c p)).hasRecord = false) : ∃ g h,
    factoryScan c p bad d = setB F.MED_CFG_SCAN_DONE (allScanned h) h ∧ (h = g ∨ h = dieFails (dieAt d c p) 0 0 g) ∧
      (dieOf g (dieAt d c p)).hasRecord = true ∧ (dieOf g (dieAt d c p)).bad = bad.map (fun b => (b.1.toNat, b.2.toNat)) := by
  have hno : ¬ ((!recoveringAt6 d) = true ∨ getF d (F.MED_CH_STS_STATE c) ≠ 2 ∨ populated d ≤ p ∨ (dieOf d (dieAt d c p)).hasRecord = true) := by
    simp [h6, hs, hr, hp]
  unfold factoryScan
  extract_lets x bs good gs n stripes spares d1 d2 worst d3
  rw [if_neg hno]
  have h2 : dieOf d2 x = { dieOf d x with bad := bs, hasRecord := true, stripes := stripes, spares := spares } := by
    show dieOf (countN _ _ (countN _ _ d1)) x = _
    rw [dieOf_of_med countN_med, dieOf_of_med countN_med, dieOf_onDie_same]
  refine ⟨d2, d3, rfl, ?_, by rw [h2], by rw [h2]⟩
  by_cases hw : 281 < worst
  · exact .inr (if_pos hw)
  · exact .inl (if_neg hw)

/-- Whether a channel's rate needs the extension (R184). -/
def extOf (c : Nat) (d : Dev) : Bool := decide ((img d).rates.getD c 0 = 4)

/-- Whether a die of a channel that needs the extension lacks it (R184). -/
def lacksExt (c : Nat) (x : TrainExt) (d : Dev) : Bool :=
  extOf c d && (trainedDies c d).any (fun p => decide (x.ext.getD p 0 ≠ (img d).dieOps.extVal))

/-- A channel whose training did not pass. -/
def trainTried (c : Nat) (d : Dev) : Dev :=
  onChan c (fun x => { x with tries := x.tries + 1 }) (setF (F.MED_CH_STS_STATE c) 1 (trainCommands c (extOf c d) d))

/-- A channel that is to be trained. -/
theorem channelTraining_eq {c : Nat} {r : TrainRun} {x : TrainExt} {d : Dev} (h6 : recoveringAt6 d = true) (hm : mediaRailsUp d = true)
    (hc : c < getF d F.XLT_CFG_NCH) (hs : getF d (F.MED_CH_STS_STATE c) < 2) : channelTraining c r x d =
    (if trainPassed (extOf c d) r x && !lacksExt c x d then chanTrained c (trainCommands c (extOf c d) d)
    else if lacksExt c x d = true ∨ 3 ≤ (chanOf (trainTried c d) c).tries then
      stepWithdraws 6 6 (medEvent c 7 0 0 0 (setB (F.MED_ERR_TRAIN_FAIL c) true (setF (F.MED_CH_STS_STATE c) 3 (trainTried c d))))
    else trainTried c d) := by
  have hno : ¬ ((!recoveringAt6 d) = true ∨ (!mediaRailsUp d) = true ∨ getF d F.XLT_CFG_NCH ≤ c ∨ 2 ≤ getF d (F.MED_CH_STS_STATE c)) := by
    simp [h6, hm]
    omega
  rw [channelTraining, if_neg hno]
  rfl

theorem trainCommands_spec (c : Nat) (ext : Bool) (d : Dev) : img (trainCommands c ext d) = img d ∧
    (chanOf (trainCommands c ext d) c).tries = (chanOf d c).tries := by
  unfold trainCommands
  extract_lets ps n k d1
  have h1 : glbRest d1 = glbRest d := by
    show glbRest (countN _ _ (countN _ _ (countN _ _ (countN _ _ d)))) = _
    simp only [countN_glbRest]
  have hm : d1.med = d.med := by
    show (countN _ _ (countN _ _ (countN _ _ (countN _ _ d)))).med = _
    simp only [countN_med]
  constructor
  · rw [onChan_img]
    exact img_of_glbRest h1
  · rw [chanOf_onChan_same, chanOf_of_med hm]

theorem trainTried_spec (c : Nat) (d : Dev) : (chanOf (trainTried c d) c).tries = (chanOf d c).tries + 1 ∧
    getF (trainTried c d) (F.MED_CH_STS_STATE c) = 1 := by
  obtain ⟨-, h⟩ := trainCommands_spec c (extOf c d) d
  unfold trainTried
  constructor
  · rw [chanOf_onChan_same, chanOf_of_med (setF_med _ _ _), h]
  · rw [onChan_getF, getF_setF_fits ⟨by simp [F.MED_CH_STS_STATE], by simp [F.MED_CH_STS_STATE]⟩ (by simp [F.MED_CH_STS_STATE])]

theorem chanTrained_spec (c : Nat) (d : Dev) : getF (chanTrained c d) (F.MED_CH_STS_STATE c) = 2 ∧
    getF (chanTrained c d) (F.MED_CH_STS_RATE c) = ((img d).rates.getD c 0).toNat % 8 := by
  have pop (f : Fld) (h : f.addr = 0x701000 + 0x40 * c) (u v w : Nat) (e : Dev) :
      getF (setF (F.MED_DIE_POP_POP c) u (setF (F.MED_DIE_FAIL_FAIL c) v (setF (F.MED_DIE_RSV_RSV c) w e))) f = getF e f := by
    rw [getF_setF_ne, getF_setF_ne, getF_setF_ne]
    · simp only [F.MED_DIE_RSV_RSV]; omega
    · simp only [F.MED_DIE_FAIL_FAIL]; omega
    · simp only [F.MED_DIE_POP_POP]; omega
  unfold chanTrained
  extract_lets ch used rsv d1
  constructor
  · rw [pop _ rfl, getF_setF_fits ⟨by simp [F.MED_CH_STS_STATE], by simp [F.MED_CH_STS_STATE]⟩ (by simp [F.MED_CH_STS_STATE])]
  · rw [pop _ rfl, getF_setF_apart (.inr (by simp [F.MED_CH_STS_STATE, F.MED_CH_STS_RATE])),
      getF_setF_same _ _ _ (by simp [F.MED_CH_STS_RATE]) (by simp [F.MED_CH_STS_RATE])]
    rfl

/-- A third training that failed, or a die that lacks the extension (R184). -/
theorem trainFailed_spec {c : Nat} (hc : c < 64) (d : Dev) : getF (medEvent c 7 0 0 0 (setB (F.MED_ERR_TRAIN_FAIL c) true (setF (F.MED_CH_STS_STATE c) 3 d)))
      (F.MED_CH_STS_STATE c) = 3 ∧
    flag (medEvent c 7 0 0 0 (setB (F.MED_ERR_TRAIN_FAIL c) true (setF (F.MED_CH_STS_STATE c) 3 d))) (F.MED_ERR_TRAIN_FAIL c) = true ∧
    Safety.pending (medEvent c 7 0 0 0 (setB (F.MED_ERR_TRAIN_FAIL c) true (setF (F.MED_CH_STS_STATE c) 3 d))) (256 + c) = true := by
  refine ⟨?_, ?_, raiseN_pending _ _ _ (by omega) (.inl rfl)⟩
  · rw [medEvent, raiseN_getF (med_plain (by simp only [F.MED_CH_STS_STATE]; omega) (by simp only [F.MED_CH_STS_STATE]; omega)),
      getF_setB_apart (.inl (by simp only [F.MED_CH_STS_STATE, F.MED_ERR_TRAIN_FAIL]; omega)),
      getF_setF_fits ⟨by simp [F.MED_CH_STS_STATE], by simp [F.MED_CH_STS_STATE]⟩ (by simp [F.MED_CH_STS_STATE])]
  · rw [medEvent, raiseN_flag (med_plain (by simp only [F.MED_ERR_TRAIN_FAIL]; omega) (by simp only [F.MED_ERR_TRAIN_FAIL]; omega)),
      flag_setB_at (by simp [F.MED_ERR_TRAIN_FAIL])]

/-- The rest of step 6, once the rows are redirected (R276, R207). -/
theorem mediaRecovery_spec {trained : BitVec 48} {top : Bool} {scans : List DieScan} {d : Dev} (h6 : recoveringAt6 d = true)
    (hm : mediaRailsUp d = true) (ha : allScanned d = true) (hs : ∀ k, k < getF d F.XLT_CFG_NCH → getF d (F.MED_CH_STS_STATE k) = 2) : ∃ h,
    h = forEach d.grt.rows restoreRow (nearTierUp trained (setB F.MED_CFG_SCAN_DONE true d)) ∧
    (h.glb.base = .withdrawn → mediaRecovery trained top scans d = stepFails 6 7 h) ∧
    (h.glb.base ≠ .withdrawn → ∃ g, g.med.recovered = true ∧
      mediaRecovery trained top scans d = (if g.glb.base = .recovering then toStep 7 g else g)) := by
  have hall : ((List.range (getF d F.XLT_CFG_NCH)).all fun c => decide (getF d (F.MED_CH_STS_STATE c) = 2)) = true :=
    List.all_eq_true.mpr fun c hc => decide_eq_true (hs c (List.mem_range.mp hc))
  unfold mediaRecovery
  rw [if_neg (by simp only [h6, hm, ha, hall]; decide)]
  extract_lets h d1 grown med d2
  refine ⟨h, rfl, fun hw => if_pos hw, fun hw => ⟨d2, ?_, if_neg hw⟩⟩
  show (setPair _ _ _ _).med.recovered = true
  rw [setPair, setF_med, setF_med]

end Sys2Proof.Machine

namespace Sys2Proof
open Sys2Proof.Machine

/-- Settles O45. -/
theorem dies : Obligations.Dies := by
  intro ch die status zeros bad r xt trained top scans s d c x y runs
  have whole {c f} {E : Dev → Prop} (hc : exec c s = run f s) (h : E (f s.dev)) : runs c E := ⟨_, f s.dev, hc, rfl, .inr rfl, h⟩
  have hx : x < 2048 := by have := die.isLt; omega
  have hxc : x / 32 = c := by have := die.isLt; omega
  have trains {E : Dev → Prop} (h6 : recoveringAt6 d = true) (hm : mediaRailsUp d = true) (hc : c < getF d F.XLT_CFG_NCH)
      (hs : getF d (F.MED_CH_STS_STATE c) < 2) {e : Dev} (he : channelTraining c r xt d = e) (h : E e) : runs (.channelTraining ch r xt) E :=
    whole (f := channelTraining c r xt) rfl (by rw [show s.dev = d from rfl, he]; exact h)
  clear_value runs
  refine ⟨fun hop hdue => ⟨fun h7 => ?_, fun h7 h6 => ?_, fun h7 h6 => ⟨fun hr => ?_, fun b hr => ?_, fun b er hr he h0 hs => ?_⟩⟩,
    fun er t he ht h7 hs => ?_, fun er hb => ?_, fun h0 h1 ht hp => ?_, fun h6 hs hp hr => ?_, fun h6 hm hc hs => ?_, fun h6 hm ha hs => ?_⟩
  · refine whole (f := dieOpComplete x status) rfl ⟨_, dieOpComplete_fails hop hdue h7, ?_⟩
    rw [statusRead_die]
  · refine whole (f := dieOpComplete x status) rfl ?_
    rw [dieOpComplete_busy hop hdue h7 h6, statusRead_die]
  · exact whole (f := dieOpComplete x status) rfl (dieOpComplete_read hop hdue h7 h6 hr)
  · exact whole (f := dieOpComplete x status) rfl (dieOpComplete_prog hop hdue h7 h6 hr)
  · exact whole (f := dieOpComplete x status) rfl (dieOpComplete_erase hop hdue h7 h6 hr he h0 hs)
  · exact whole (f := eraseSuspend x status) rfl (eraseSuspend_suspends he ht h7 hs)
  · exact whole (f := blankCheck x zeros) rfl (blankCheck_ends hb)
  · refine whole (f := busyTimeout x) rfl ?_
    have h := busyTimeout_resets hx h0 h1 ht hp
    rw [hxc] at h
    exact h
  · exact whole (f := factoryScan c die.toNat bad) rfl (factoryScan_spec h6 hs hp hr)
  · intro ext lacks
    have heq := channelTraining_eq (r := r) (x := xt) h6 hm hc hs
    obtain ⟨htry, h1⟩ := trainTried_spec c d
    have hl : lacks = lacksExt c xt d := rfl
    have he : ext = extOf c d := rfl
    rw [hl, he]
    clear_value ext lacks
    refine ⟨fun hp => ?_, fun hp hl ht => ?_, fun hp hl => ?_⟩
    · refine trains h6 hm hc hs (heq.trans (if_pos hp)) ?_
      rw [← (trainCommands_spec c (extOf c d) d).1]
      exact chanTrained_spec c (trainCommands c (extOf c d) d)
    · refine trains h6 hm hc hs (heq.trans ((if_neg (ne_true_of_eq_false hp)).trans (if_neg ?_))) ⟨h1, htry⟩
      rw [hl, htry]
      rintro (h | h)
      · cases h
      · omega
    · refine trains h6 hm hc hs (heq.trans ((if_neg (ne_true_of_eq_false hp)).trans (if_pos ?_))) ⟨_, rfl, trainFailed_spec ch.isLt _⟩
      rw [htry]
      exact hl.imp_right fun h => by omega
  · exact whole (f := mediaRecovery trained top scans) rfl (mediaRecovery_spec h6 hm ha hs)

end Sys2Proof
end

section
/-!
The tracker's rules; reception and admission of requests (R39, R41, R106, R113, R121, R305, R306).
-/
namespace Sys2Proof.Machine
open Sys2Proof Sys2Proof.SMapLaws

/-! ## The tracker -/

theorem getT_putT_same (h : Nat) (t : Txn) (d : Dev) : getT (putT h t d) h = t := get_insert_same _ _ _ _
theorem getT_putT_ne {h k : Nat} (hk : k ≠ h) (t : Txn) (d : Dev) : getT (putT h t d) k = getT d k := get_insert_ne _ _ hk _
theorem getT_of_bsn {d e : Dev} (h : e.bsn = d.bsn) (k : Nat) : getT e k = getT d k := by unfold getT; rw [h]
theorem hasT_of_bsn {d e : Dev} (h : e.bsn = d.bsn) (k : Nat) : hasT e k = hasT d k := by unfold hasT; rw [h]

theorem getT_onT_same {h : Nat} {d : Dev} (hh : hasT d h = true) (f : Txn → Txn) : getT (onT h f d) h = f (getT d h) := by
  rw [onT, if_pos hh, getT_putT_same]

/-! ## Reception -/

section Reception
variable {p cls agent : Nat} {k : Dev → Dev} {d : Dev} (hl : getF d (F.FAB_STS_LTSTATE p) = 6)
include hl

theorem received_ovf (hc : (linkOf d p).rxFree.get 0 cls = 0) :
    received p cls agent k d = portError p 1 cls agent (setB (F.FAB_ERR_CREDIT_OVF p) true d) := by
  simp only [received, hl, hc, ne_eq, not_true_eq_false, if_false, if_true]

theorem received_bad (hc : (linkOf d p).rxFree.get 0 cls ≠ 0) (ha : agent ∉ agentsOfPort d p) :
    received p cls agent k d = giveCredit p cls (takeCredit p cls (portError p 3 cls agent (setB (F.FAB_ERR_BAD_AGENT p) true d))) := by
  simp only [received, hl, hc, ha, ne_eq, not_true_eq_false, not_false_eq_true, if_false, if_true]

theorem received_req (hc : (linkOf d p).rxFree.get 0 0 ≠ 0) (ha : agent ∈ agentsOfPort d p) : received p 0 agent k d = k d := by
  simp only [received, hl, hc, ha, ne_eq, not_true_eq_false, if_false, if_true]

theorem received_answer (hcls : cls ≠ 0) (hc : (linkOf d p).rxFree.get 0 cls ≠ 0) (ha : agent ∈ agentsOfPort d p) :
    received p cls agent k d = giveCredit p cls (k (takeCredit p cls d)) := by
  simp only [received, hl, hc, ha, hcls, ne_eq, not_true_eq_false, if_false]

end Reception

theorem portError_spec {p : Nat} (hp : p < 16) (cause cls agent : Nat) {f : Nat → Fld} (hf : (f p).addr = 0x400028 + 0x100 * p ∧
    (f p).lo ≤ (f p).hi ∧ (f p).hi < 32) (d : Dev) : flag (portError p cause cls agent (setB (f p) true d)) (f p) = true ∧
      Safety.pending (portError p cause cls agent (setB (f p) true d)) (96 + 4 * p + 3) = true ∧
      (portError p cause cls agent (setB (f p) true d)).bsn = d.bsn := by
  obtain ⟨ha, hb⟩ := hf
  unfold portError
  exact ⟨by rw [raiseN_flag (fab_plain (by omega) (by omega)), flag_setB_at hb], raiseN_pending _ _ _ (by omega) (.inl rfl), raiseN_bsn⟩

theorem giveCredit_quiet (p cls : Nat) (d : Dev) : Quiet d (giveCredit p cls d) :=
  .trans (.onLink (f := fun l => { l with owed := l.owed.put 0 cls (l.owed.get 0 cls + 1) }) (fun _ => rfl) p d) (flushLink_quiet _ _)

theorem takeCredit_quiet (p cls : Nat) (d : Dev) : Quiet d (takeCredit p cls d) :=
  .onLink (f := fun l => { l with rxFree := l.rxFree.put 0 cls (l.rxFree.get 0 cls - 1) }) (fun _ => rfl) p d

/-- A request without a credit, or from an agent that is not bound (R97). -/
theorem received_errs {p agent : Nat} (hp : p < 16) {k : Dev → Dev} {d : Dev} (hl : getF d (F.FAB_STS_LTSTATE p) = 6) {f : Nat → Fld}
    (h : (linkOf d p).rxFree.get 0 0 = 0 ∧ f = F.FAB_ERR_CREDIT_OVF ∨
      (linkOf d p).rxFree.get 0 0 ≠ 0 ∧ agent ∉ agentsOfPort d p ∧ f = F.FAB_ERR_BAD_AGENT) :
    flag (received p 0 agent k d) (f p) = true ∧ Safety.pending (received p 0 agent k d) (96 + 4 * p + 3) = true ∧
      (received p 0 agent k d).bsn.reqs = d.bsn.reqs := by
  rcases h with ⟨hc, rfl⟩ | ⟨hc, ha, rfl⟩
  · obtain ⟨h1, h2, h3⟩ := portError_spec hp 1 0 agent (f := F.FAB_ERR_CREDIT_OVF) (by simp [F.FAB_ERR_CREDIT_OVF]) d
    rw [received_ovf hl hc]
    exact ⟨h1, h2, by rw [h3]⟩
  · obtain ⟨h1, h2, h3⟩ := portError_spec hp 3 0 agent (f := F.FAB_ERR_BAD_AGENT) (by simp [F.FAB_ERR_BAD_AGENT]) d
    rw [received_bad hl hc ha]
    have hq := (takeCredit_quiet p 0 (portError p 3 0 agent (setB (F.FAB_ERR_BAD_AGENT p) true d))).trans (giveCredit_quiet p 0 _)
    have hb := giveCredit_keeps p 0 (takeCredit p 0 (portError p 3 0 agent (setB (F.FAB_ERR_BAD_AGENT p) true d))) .bsn (by decide)
    refine ⟨?_, hq.pend _ (by omega) h2, ?_⟩
    · rw [hq.flag (fab_plain (by simp only [F.FAB_ERR_BAD_AGENT]; omega) (by simp only [F.FAB_ERR_BAD_AGENT]; omega)), h1]
    · rw [hb, takeCredit_keeps _ _ _ .bsn (by decide), h3]

/-- A request with a credit of a bound agent waits behind those received before it (R39, R41). -/
theorem reqReceived_takes {p draw : Nat} {r : Req} {d : Dev} (hl : getF d (F.FAB_STS_LTSTATE p) = 6) (hc : (linkOf d p).rxFree.get 0 0 ≠ 0)
    (ha : r.agent.toNat ∈ agentsOfPort d p) : (∃ q, (reqReceived p r draw d).bsn.reqs = d.bsn.reqs ++ [q] ∧ q.port = p ∧ q.r = r ∧
      q.order = d.bsn.order) ∧ (reqReceived p r draw d).bsn.order = d.bsn.order + 1 := by
  rw [reqReceived, received_req hl hc ha]
  dsimp only [onBsn]
  rw [gkTag_keeps _ _ _ _ .bsn (by decide), takeCredit_keeps _ _ _ .bsn (by decide)]
  exact ⟨⟨_, rfl, rfl, rfl, rfl⟩, rfl⟩

theorem reservedReq_takes {p : Nat} {r : Req} {d : Dev} (hl : getF d (F.FAB_STS_LTSTATE p) = 6) (hc : (linkOf d p).rxFree.get 0 0 ≠ 0)
    (ha : r.agent.toNat ∈ agentsOfPort d p) : (∃ q, (reservedReq p r d).bsn.reqs = d.bsn.reqs ++ [q] ∧ q.port = p ∧ q.r = r ∧
      q.order = d.bsn.order) ∧ (reservedReq p r d).bsn.order = d.bsn.order + 1 := by
  rw [reservedReq, received_req hl hc ha]
  dsimp only [onBsn]
  rw [takeCredit_keeps _ _ _ .bsn (by decide)]
  exact ⟨⟨_, rfl, rfl, rfl, rfl⟩, rfl⟩

/-! ## Admission -/

section Admission
variable {q : ReqEnt} {d : Dev} (hs : serves d = true) (hd : d.twn.draining = false) (hh : streamHolds d q = false)
  (hb : barrierHolds d q.order q.r.agent.toNat = false) (hm : q.r.op = 10 ∨ malformed q.r = true ∨ inMacWindow d q.r = false)
include hs hd hh hb hm

/-- Nothing holds the request (R39, R41, R150). -/
theorem unheld : ¬ ((!serves d || d.twn.draining || streamHolds d q || barrierHolds d q.order q.r.agent.toNat) = true) ∧
    ¬ (q.r.op ≠ 10 ∧ (!malformed q.r) = true ∧ inMacWindow d q.r = true) := by
  refine ⟨by simp only [hs, hd, hh, hb]; decide, ?_⟩
  rintro ⟨h1, h2, h3⟩
  rcases hm with h | h | h
  · exact h1 h
  · simp [h] at h2
  · simp [h] at h3

theorem admitReq_waits (hf : freeTag d = none) : admitReq q d = waitsTag q d := by
  obtain ⟨h1, h2⟩ := unheld hs hd hh hb hm
  simp only [admitReq, h1, h2, hf, Bool.false_eq_true, if_false]

theorem admitReq_admits {h : Nat} (hf : freeTag d = some h) : admitReq q d = admitWith h q d := by
  obtain ⟨h1, h2⟩ := unheld hs hd hh hb hm
  simp only [admitReq, h1, h2, hf, Bool.false_eq_true, if_false]

end Admission

theorem waitsTag_txns (q : ReqEnt) (d : Dev) : (waitsTag q d).bsn.txns = d.bsn.txns := by
  unfold waitsTag
  dsimp only
  rw [raiseOnce_keeps _ _ _ _ .bsn (by decide)]
  split
  · rfl
  · rw [count_bsn]
    rfl

/-- A reissued request that a completion entry answers (R306). -/
theorem admitWith_entry {h : Nat} {q : ReqEnt} {c : CEnt} {d : Dev} (hr : q.r.reissue = true) (hf : flag d F.TWN_STS_REISSUE = true)
    (hc : ctabFind d q.r.agent q.r.tag = some c) (ha : answeredBy d q.r c = true) : admitWith h q d = answerEntry h q c d := by
  have hfil : (some c).filter (fun c => answeredBy d q.r c) = some c := by simp [Option.filter, ha]
  unfold admitWith
  simp only [hr, hf, hc, hfil, Bool.not_true, Bool.and_false, Bool.false_eq_true, if_false, if_true]

/-- A Barrier is active at its admission (R149). -/
theorem admitWith_barrier {h : Nat} {q : ReqEnt} {d : Dev} (hr : q.r.reissue = false) (ho : q.r.op = 10) (hm : malformed q.r = false)
    (hd : q.r.agent.toNat ∉ d.bsn.departed) : (getT (admitWith h q d) h).phase = .active ∧ (getT (admitWith h q d) h).r = q.r ∧
      (getT (admitWith h q d) h).covered = q.covered := by
  have heq : admitWith h q d = putT h { port := q.port, r := q.r, order := q.order, phase := .active, start := d.glb.tick, gecko := q.gecko, covered := q.covered }
      (leaveReqs q d) := by
    unfold admitWith admitTagged
    simp only [hr, ho, hm, hd, Bool.false_and, Bool.false_eq_true, if_false, if_true, Option.filter_none]
  rw [heq, getT_putT_same]
  exact ⟨rfl, rfl, rfl⟩

end Sys2Proof.Machine

namespace Sys2Proof
open Sys2Proof.Machine

/-- Settles O46. -/
theorem reception : Obligations.Reception := by
  intro port r draw agent tag s d p runs free takes errs
  have quiet {c f} {E : Dev → Prop} (hc : exec c s = runQ f s) (h : E (f s.dev)) : runs c E := ⟨_, f s.dev, hc, rfl, .inl rfl, h⟩
  have whole {c f} {E : Dev → Prop} (hc : exec c s = run f s) (h : E (f s.dev)) : runs c E := ⟨_, f s.dev, hc, rfl, .inr rfl, h⟩
  have hp : p < 16 := port.isLt
  refine ⟨fun hl => ⟨fun hc ha => ⟨?_, ?_⟩, fun hc => ⟨?_, ?_⟩, fun hc ha => ⟨?_, ?_⟩⟩, fun q hq hs hd hh hb hm => ?_⟩
  · exact quiet (f := reqReceived p r draw.toNat) rfl (reqReceived_takes hl hc ha)
  · exact quiet (f := reservedReq p r) rfl (reservedReq_takes hl hc ha)
  · exact quiet (f := reqReceived p r draw.toNat) rfl (received_errs hp hl (.inl ⟨hc, rfl⟩))
  · exact quiet (f := reservedReq p r) rfl (received_errs hp hl (.inl ⟨hc, rfl⟩))
  · exact quiet (f := reqReceived p r draw.toNat) rfl (received_errs hp hl (.inr ⟨hc, ha, rfl⟩))
  · exact quiet (f := reservedReq p r) rfl (received_errs hp hl (.inr ⟨hc, ha, rfl⟩))
  · have admits {e} {E : Dev → Prop} (he : admitReq q d = e) (h : E e) : runs (.admission port agent tag) E := by
      refine whole (f := fun _ => e) ?_ h
      show execAdmission port agent tag s = _
      simp only [execAdmission, run, show reqOf s.dev port.val agent tag = some q from hq]
      rw [show admitReq q s.dev = e from he]
    have reissues {e} {E : Dev → Prop} (hr : q.r.reissue = true) (he : admitReq q d = e) (h : E e) : runs (.reissuedRequest port agent tag) E := by
      refine whole (f := fun _ => e) ?_ h
      show execReissuedRequest port agent tag s = _
      simp only [execReissuedRequest, run, show reqOf s.dev port.val agent tag = some q from hq, hr, if_true]
      rw [show admitReq q s.dev = e from he]
    clear_value runs
    refine ⟨fun hn => admits (admitReq_waits hs hd hh hb hm hn) ⟨rfl, waitsTag_txns q d⟩, fun h hf => ?_⟩
    have hw := admitReq_admits hs hd hh hb hm hf
    refine ⟨admits hw rfl, fun hr => reissues hr hw rfl, fun hr hre c hc ha => reissues hr (hw.trans (admitWith_entry hr hre hc ha)) rfl,
      fun hr ho hmal hdep => admits hw (admitWith_barrier hr ho hmal hdep)⟩

end Sys2Proof
end

section
/-!
Active requests act by the home transition table (R107, R119, R149).
-/
namespace Sys2Proof.Machine
open Sys2Proof Sys2Proof.SMapLaws

/-! ## What noting in the tracker and sending leave -/

theorem any_insert {α : Type} (m : SMap α) (k j : Nat) (v : α) (h : j = k ∨ (m.any fun e => decide (e.1 = j)) = true) :
    ((SMap.insert m k v).any fun e => decide (e.1 = j)) = true := by
  induction m with
  | nil => simpa [SMap.insert, eq_comm] using h
  | cons e rest ih =>
    obtain ⟨i, w⟩ := e
    unfold SMap.insert
    split
    · simp only [List.any_cons, Bool.or_eq_true, decide_eq_true_eq] at h ⊢
      rcases h with h | h
      · exact .inl h.symm
      · exact .inr h
    · split
      next hi =>
        simp only [List.any_cons, Bool.or_eq_true, decide_eq_true_eq] at h ⊢
        rcases h with h | h | h
        · exact .inl h.symm
        · exact .inl (hi ▸ h)
        · exact .inr h
      next =>
        simp only [List.any_cons, Bool.or_eq_true, decide_eq_true_eq] at h ⊢
        rcases h with h | h | h
        · exact .inr (ih (.inl h))
        · exact .inl h
        · exact .inr (ih (.inr h))

theorem hasT_onT (h k : Nat) (f : Txn → Txn) (d : Dev) (hk : hasT d k = true) : hasT (onT h f d) k = true := by
  unfold onT
  split
  · exact any_insert _ _ _ _ (.inr hk)
  · exact hk

/-- What noting in the tracker, stamping and sending leave: the filter, the lines, the registers but those of events, and every HTAG in
the tracker. -/
structure Noted (d e : Dev) : Prop where
  quiet : Quiet d e
  glb : glbRest e = glbRest d
  ntr : e.ntr = d.ntr
  ways : ∀ own set, (sfGet e own set).ways = (sfGet d own set).ways
  tags : ∀ k, hasT d k = true → hasT e k = true

namespace Noted

theorem refl (d : Dev) : Noted d d := ⟨.refl _, rfl, rfl, fun _ _ => rfl, fun _ h => h⟩

theorem trans {a b c : Dev} (h : Noted a b) (k : Noted b c) : Noted a c :=
  ⟨h.quiet.trans k.quiet, k.glb.trans h.glb, k.ntr.trans h.ntr, fun o n => (k.ways o n).trans (h.ways o n), fun n hn => k.tags n (h.tags n hn)⟩

theorem of_bsn {d e : Dev} (hq : Quiet d e) (hg : glbRest e = glbRest d) (hn : e.ntr = d.ntr) (hb : e.bsn = d.bsn) : Noted d e :=
  ⟨hq, hg, hn, fun _ _ => by unfold sfGet; rw [hb], fun k hk => (hasT_of_bsn hb k).trans hk⟩

theorem onT (h : Nat) (f : Txn → Txn) (d : Dev) : Noted d (onT h f d) := by
  refine ⟨.of_bank (onT_keeps _ _ _) (.of_same (onT_svc _ _ _) (onT_fab _ _ _) (by unfold obsRest; rw [onT_obs])) (.of_regs (onT_regs _ _ _)),
    by unfold glbRest; rw [onT_glb], onT_ntr _ _ _, fun _ _ => ?_, fun k hk => hasT_onT _ _ _ _ hk⟩
  unfold Machine.onT
  split
  · rfl
  · rfl

theorem sendLcf (p : Nat) (m : LcfMsg) (d : Dev) : Noted d (sendLcf p m d) :=
  of_bsn (sendLcf_quiet _ _ _) (sendLcf_glbRest _ _ _) sendLcf_ntr sendLcf_bsn

theorem count (i : Nat) (d : Dev) : Noted d (count i d) := of_bsn (count_quiet _ _) (count_glbRest _ _) count_ntr count_bsn

theorem stampFirst (g : Option Nat) (s : Nat) (d : Dev) : Noted d (stampFirst g s d) := by
  have hk := stampFirst_keeps g s d
  refine of_bsn (.of_bank hk (.of_keeps hk (by decide) (by decide) ?_) (.of_keeps hk (by decide))) (glbRest_of hk (by decide))
    (hk .ntr (by decide)) (hk .bsn (by decide))
  unfold Machine.stampFirst
  split
  · rfl
  · split
    · rfl
    · exact stamp_obsRest _ _ _

theorem clearSlot (a : Nat) (d : Dev) : Noted d (clearSlot a d) :=
  ⟨⟨.of_same rfl rfl rfl, fun _ _ => rfl, fun _ _ h => h, rfl, rfl⟩, rfl, rfl, fun _ _ => rfl, fun _ h => h⟩

theorem touchWay (own : Bool) (set w : Nat) (d : Dev) : Noted d (touchWay own set w d) := by
  have hk := touchWay_keeps own set w d
  refine ⟨.of_bank hk (.of_keeps hk (by decide) (by decide) (by unfold obsRest; rw [hk .obs (by decide)])) (.of_keeps hk (by decide)),
    glbRest_of hk (by decide), hk .ntr (by decide), fun o n => ?_, fun k hh => ?_⟩
  · have hput {m : SMap SfSet} {z : SfSet} (hz : z.ways = (m.get {} set).ways) : ((m.put {} set z).get {} n).ways = (m.get {} n).ways := by
      by_cases hn : n = set
      · rw [hn, get_put_same, hz]
      · rw [get_put_ne _ _ _ hn]
    unfold Machine.touchWay sfPut onBsn Machine.sfGet
    cases own
    · cases o
      · exact hput rfl
      · rfl
    · cases o
      · rfl
      · exact hput rfl
  · unfold Machine.touchWay sfPut onBsn
    cases own
    · exact hh
    · exact hh

theorem snoopAgent (h a : Nat) (op : BitVec 5) (g : BitVec 2) (d : Dev) : Noted d (snoopAgent h a op g d) := by
  unfold Machine.snoopAgent
  split
  · exact .refl _
  · exact (Noted.onT _ _ _).trans ((stampFirst _ _ _).trans ((count _ _).trans (sendLcf _ _ _)))

theorem sendPull (h : Nat) (d : Dev) : Noted d (sendPull h d) := by
  unfold Machine.sendPull
  exact (Noted.onT _ _ _).trans ((stampFirst _ _ _).trans (sendLcf _ _ _))

section
variable {d e : Dev} (h : Noted d e)
include h

theorem tick : e.glb.tick = d.glb.tick := h.quiet.tick

theorem ownSide (la : Nat) : ownSide e la = ownSide d la := by
  have hr : roleB e = roleB d := show (glbRest e).roleB = (glbRest d).roleB by rw [h.glb]
  unfold Machine.ownSide
  rw [hr]

theorem wayOf (la : Nat) : wayOf e la = wayOf d la := by unfold Machine.wayOf; rw [h.ownSide, h.ways]

theorem lineOf (la : Nat) : lineOf e la = lineOf d la := by unfold Machine.lineOf; rw [h.ntr]

theorem portsOfAgent (a : Nat) : portsOfAgent e a = portsOfAgent d a := by
  have hlo (p : Nat) (hp : p < 16) : getF e (F.FAB_AGT_LO_BOUND p) = getF d (F.FAB_AGT_LO_BOUND p) :=
    h.quiet.fld _ (fab_plain (by simp only [F.FAB_AGT_LO_BOUND]; omega) (by simp only [F.FAB_AGT_LO_BOUND]; omega))
  have hhi (p : Nat) (hp : p < 16) : getF e (F.FAB_AGT_HI_BOUND p) = getF d (F.FAB_AGT_HI_BOUND p) :=
    h.quiet.fld _ (fab_plain (by simp only [F.FAB_AGT_HI_BOUND]; omega) (by simp only [F.FAB_AGT_HI_BOUND]; omega))
  unfold Machine.portsOfAgent
  refine List.filter_congr fun p hp => ?_
  rw [hlo p (List.mem_range.mp hp), hhi p (List.mem_range.mp hp)]

end
end Noted

/-! ## Snoops and pulls of a transaction -/

theorem getT_sendLcf (p : Nat) (m : LcfMsg) (d : Dev) (k : Nat) : getT (sendLcf p m d) k = getT d k := getT_of_bsn sendLcf_bsn k
theorem getT_count (i : Nat) (d : Dev) (k : Nat) : getT (count i d) k = getT d k := getT_of_bsn count_bsn k
theorem getT_stampFirst (g : Option Nat) (s : Nat) (d : Dev) (k : Nat) : getT (stampFirst g s d) k = getT d k :=
  getT_of_bsn (stampFirst_keeps _ _ _ .bsn (by decide)) k

/-- A snoop to a bound agent waits for its answer (R109). -/
theorem getT_snoopAgent {h a : Nat} {d : Dev} (hh : hasT d h = true) (ha : portsOfAgent d a ≠ []) (op : BitVec 5) (g : BitVec 2) :
    getT (snoopAgent h a op g d) h = { getT d h with snps := (getT d h).snps ++ [{ agent := a, op := op }] } := by
  unfold snoopAgent
  split
  next hn => exact absurd hn ha
  next => rw [getT_sendLcf, getT_count, getT_stampFirst, getT_onT_same hh]

theorem getT_sendPull {h : Nat} {d : Dev} (hh : hasT d h = true) : getT (sendPull h d) h = { getT d h with pull := some d.glb.tick } := by
  unfold sendPull
  rw [getT_sendLcf, getT_stampFirst, getT_onT_same hh]

/-- A transaction that waits for an answer or for its data goes no further. -/
theorem progress_waits {h : Nat} {d : Dev} (hw : (getT d h).snps ≠ [] ∨ (getT d h).pull.isSome) : progress h d = d := by
  rw [progress]
  exact if_pos (by tauto)

/-! ## The row of a request -/

/-- Whether a CondWrite's condition holds (R147, R153). -/
def condHolds (h : Nat) (d : Dev) : Bool :=
  if (getT d h).posted then (getT d h).condOk else reserves d (getT d h).r.agent.toNat (txnLine (getT d h))

/-- A request acts: what it finds is noted in the tracker, and its way is touched (R119, R128). -/
def actedOn (h : Nat) (d : Dev) : Dev :=
  let t := getT d h
  let la := txnLine t
  let d' := if t.r.op = 9 ∧ !t.posted then clearSlot t.r.agent.toNat d else d
  let d' := onT h (fun t' => { t' with
    phase := .acted, st := (stateOf d la).st, own := (stateOf d la).own.toNat, shared := inVec (entryOf d la).sharers t.r.agent.toNat
    oldVec := (entryOf d la).sharers, condOk := condHolds h d }) (stampFirst t.gecko 2 d')
  match wayOf d' la with
  | none => d'
  | some w => touchWay (ownSide d' la) (sfSet la) w d'

/-- The row of R119 for a request, once it has acted. -/
def rowHere (h : Nat) (d : Dev) : Row :=
  let t := getT d h
  let x := stateOf d (txnLine t)
  let t' := getT (actedOn h d) h
  rowOf t'.r.op.toNat x.st.toNat x.own.toNat t.r.agent.toNat
    (((bitList 64 (entryOf d (txnLine t)).sharers.toNat).filter fun a => !isDead d a).foldl addVec 0)
    ((!poisoned (actedOn h d) t' || decide (t'.r.op = 4)) && (decide (t'.r.op ≠ 9) || condHolds h d))

/-- What the row of a request sends. -/
def rowSent (h : Nat) (d : Dev) : Dev :=
  let x := stateOf d (txnLine (getT d h))
  let row := rowHere h d
  let d' := row.snps.foldl (fun d s => snoopAgent h s.1 s.2.1 s.2.2 d) (if row.pull then sendPull h (actedOn h d) else actedOn h d)
  if x.st = 2 ∧ (row.snps.any fun s => s.2.1 ≠ 3) then onT h (fun t => { t with fwd := [x.own.toNat] }) d' else d'

/-- A request that waits for what its row asked stops there, unless it takes a way or reads its leaf. -/
theorem actRow_waits {h : Nat} {d : Dev} (hw : (getT (rowSent h d) h).snps ≠ [] ∨ (getT (rowSent h d) h).pull.isSome)
    (hg : wayOf (rowSent h d) (txnLine (getT d h)) ≠ none ∨ ((getT (actedOn h d) h).r.op ≠ 1 ∧ (getT (actedOn h d) h).r.op ≠ 2 ∧
      (getT (actedOn h d) h).r.op ≠ 3))
    (hr : (stateOf d (txnLine (getT d h))).st = 2 ∨ lineValid (rowSent h d) (txnLine (getT d h)) = true) : actRow h d = rowSent h d := by
  have hg' : ¬ (((getT (actedOn h d) h).r.op = 1 ∨ (getT (actedOn h d) h).r.op = 2 ∨ (getT (actedOn h d) h).r.op = 3) ∧
      wayOf (rowSent h d) (txnLine (getT d h)) = none ∧ (!poisoned (rowSent h d) (getT (actedOn h d) h)) = true) := by
    rintro ⟨h1, h2, -⟩
    rcases hg with h | ⟨n1, n2, n3⟩
    · exact h h2
    · tauto
  unfold actRow
  extract_lets t la r x vec live vecLive cond d1 d2 d3 t' write row d4 d5 d6 grants d7 reads d8
  have h6 : d6 = rowSent h d := rfl
  have h7 : d7 = rowSent h d := (if_neg (show ¬ grants from hg')).trans h6
  have h8 : d8 = rowSent h d := by
    refine Eq.trans (if_neg ?_) h7
    rintro ⟨h1, h2, -⟩
    rw [h7] at h2
    rcases hr with hm | hv
    · rcases h1 with h1 | h1
      · exact h1.1 hm
      · exact h1.1 hm
    · rw [show lineValid (rowSent h d) la = true from hv] at h2
      cases h2
  rw [h8]
  exact progress_waits hw

theorem getT_touchWay (own : Bool) (set w : Nat) (d : Dev) (k : Nat) : getT (touchWay own set w d) k = getT d k := by
  unfold touchWay sfPut onBsn getT
  cases own
  · rfl
  · rfl

theorem actedOn_noted (h : Nat) (d : Dev) : Noted d (actedOn h d) := by
  unfold actedOn
  extract_lets t la d1 d2
  have h1 : Noted d d1 := by
    show Noted d (if _ then _ else _)
    split
    · exact .clearSlot _ _
    · exact .refl _
  have h2 : Noted d d2 := h1.trans ((Noted.stampFirst _ _ _).trans (.onT _ _ _))
  split
  · exact h2
  · exact h2.trans (.touchWay _ _ _ _)

theorem getT_actedOn {h : Nat} {d : Dev} (hh : hasT d h = true) : getT (actedOn h d) h = { getT d h with
    phase := .acted, st := (stateOf d (txnLine (getT d h))).st, own := (stateOf d (txnLine (getT d h))).own.toNat
    shared := inVec (entryOf d (txnLine (getT d h))).sharers (getT d h).r.agent.toNat
    oldVec := (entryOf d (txnLine (getT d h))).sharers, condOk := condHolds h d } := by
  unfold actedOn
  extract_lets t la d1 d2
  have h1 : getT d1 h = getT d h := by
    show getT (if _ then _ else _) h = _
    split
    · rfl
    · rfl
  have hn : hasT (stampFirst t.gecko 2 d1) h = true := by
    refine (Noted.stampFirst _ _ _).tags h ?_
    show hasT (if _ then _ else _) h = true
    split
    · exact hh
    · exact hh
  have h2 : getT d2 h = { getT d h with
      phase := .acted, st := (stateOf d la).st, own := (stateOf d la).own.toNat, shared := inVec (entryOf d la).sharers t.r.agent.toNat
      oldVec := (entryOf d la).sharers, condOk := condHolds h d } := by
    rw [getT_onT_same hn, getT_stampFirst, h1]
  split
  · exact h2
  · rw [getT_touchWay]
    exact h2

theorem foldl_noted {α : Type} {f : Dev → α → Dev} (hf : ∀ d a, Noted d (f d a)) (l : List α) (d : Dev) : Noted d (l.foldl f d) := by
  induction l generalizing d with
  | nil => exact .refl _
  | cons a l ih => exact (hf d a).trans (ih _)

theorem rowSent_noted (h : Nat) (d : Dev) : Noted d (rowSent h d) := by
  unfold rowSent
  extract_lets x row d'
  have h1 : Noted d d' := by
    refine Noted.trans ?_ (foldl_noted (fun _ _ => .snoopAgent _ _ _ _ _) _ _)
    split
    · exact (actedOn_noted h d).trans (.sendPull _ _)
    · exact actedOn_noted h d
  split
  · exact h1.trans (.onT _ _ _)
  · exact h1

/-- What a request waits for, once its row has snooped one agent. -/
theorem rowSent_snoops {h o : Nat} {op : BitVec 5} {g : BitVec 2} {b : Bool} {d : Dev} (hh : hasT d h = true) (ho : portsOfAgent d o ≠ [])
    (hrow : rowHere h d = { snps := [(o, op, g)], pull := b }) : (getT (rowSent h d) h).phase = .acted ∧
      (getT (rowSent h d) h).snps = (getT d h).snps ++ [{ agent := o, op := op }] ∧
      (getT (rowSent h d) h).pull = (if b then some d.glb.tick else (getT d h).pull) := by
  have hn := actedOn_noted h d
  have hp : Noted d (if b then sendPull h (actedOn h d) else actedOn h d) := by
    cases b
    · exact hn
    · exact hn.trans (.sendPull _ _)
  have hpt : getT (if b then sendPull h (actedOn h d) else actedOn h d) h =
      { getT (actedOn h d) h with pull := if b then some d.glb.tick else (getT (actedOn h d) h).pull } := by
    cases b
    · rfl
    · exact (getT_sendPull (hn.tags h hh)).trans (by rw [hn.tick]; rfl)
  have hs : getT (snoopAgent h o op g (if b then sendPull h (actedOn h d) else actedOn h d)) h = { getT (actedOn h d) h with
      snps := (getT d h).snps ++ [{ agent := o, op := op }], pull := if b then some d.glb.tick else (getT d h).pull } := by
    rw [getT_snoopAgent (hp.tags h hh) (by rw [hp.portsOfAgent]; exact ho), hpt, getT_actedOn hh]
  have hph : (getT (actedOn h d) h).phase = .acted := by rw [getT_actedOn hh]
  unfold rowSent
  simp only [hrow, List.foldl_cons, List.foldl_nil]
  split
  · rw [getT_onT_same ((hp.trans (.snoopAgent _ _ _ _ _)).tags h hh), hs]
    exact ⟨hph, rfl, rfl⟩
  · rw [hs]
    exact ⟨hph, rfl, rfl⟩

/-- What a request waits for, once its row has asked for its data alone. -/
theorem rowSent_pulls {h : Nat} {d : Dev} (hh : hasT d h = true) (hrow : rowHere h d = { pull := true }) :
    (getT (rowSent h d) h).phase = .acted ∧ (getT (rowSent h d) h).snps = (getT d h).snps ∧ (getT (rowSent h d) h).pull = some d.glb.tick := by
  have hn := actedOn_noted h d
  have hpt := getT_sendPull (hn.tags h hh)
  unfold rowSent
  simp only [hrow, List.foldl_nil, List.any_nil, Bool.false_eq_true, and_false, if_false, if_true]
  rw [hpt, getT_actedOn hh, hn.tick]
  exact ⟨rfl, rfl, rfl⟩

/-- The row of a request on a line that an agent owns: poison does not enter into it (R114). -/
theorem rowHere_owned {h : Nat} {d : Dev} (hh : hasT d h = true) (hx : (stateOf d (txnLine (getT d h))).st = 2) (hl : (getT d h).lostBy = none) : ∃ vec,
    rowHere h d = rowOf (getT d h).r.op.toNat 2 (stateOf d (txnLine (getT d h))).own.toNat (getT d h).r.agent.toNat vec
      (decide ((getT d h).r.op ≠ 9) || condHolds h d) := by
  have ht := getT_actedOn hh
  have hpo : poisoned (actedOn h d) (getT (actedOn h d) h) = false := by
    rw [poisoned, ht, hx, hl]
    rfl
  unfold rowHere
  dsimp only
  rw [hpo, ht, hx]
  exact ⟨_, rfl⟩

/-- The row of a write on a line in I that is valid and not poisoned (R114). -/
theorem rowHere_free {h : Nat} {d : Dev} (hh : hasT d h = true) (hx : (stateOf d (txnLine (getT d h))).st = 0) (hl : (getT d h).lostBy = none)
    (hp : (lineOf d (txnLine (getT d h))).poison = false) (ho : (getT d h).r.op = 4 ∨ (getT d h).r.op = 5) : rowHere h d = { pull := true } := by
  have ht := getT_actedOn hh
  have hpo : poisoned (actedOn h d) (getT (actedOn h d) h) = false := by
    have hline : txnLine (getT (actedOn h d) h) = txnLine (getT d h) := by rw [ht]; rfl
    rw [poisoned, hline, (actedOn_noted h d).lineOf, hp, ht, hl]
    simp
  unfold rowHere
  dsimp only
  rw [hpo, ht, hx]
  rcases ho with ho | ho <;> simp [ho, rowOf]

/-- A line whose state is recorded has a way (R126). -/
theorem wayOf_of_state {d : Dev} {la : Nat} (h : (stateOf d la).st ≠ 0) : wayOf d la ≠ none := by
  intro hn
  exact h (by rw [stateOf, entryOf, hn]; rfl)

section Act
variable {h : Nat} {d : Dev} (hh : hasT d h = true) (hk : (getT d h).kind = .request) (hp : (getT d h).phase = .active)
  (hl : (getT d h).lostBy = none) (hf : frozen d = false) (hw : lostPending d (txnLine (getT d h)) = false)
  (hs : (sfGet d (ownSide d (txnLine (getT d h))) (sfSet (txnLine (getT d h)))).pinned = false) (hb : (getT d h).r.op ≠ 10)
include hh hk hp hl hf hw hs hb

theorem act_row (hd : ¬ ((stateOf d (txnLine (getT d h))).st = 2 ∧ isDead d (stateOf d (txnLine (getT d h))).own.toNat = true))
    (hu : (sfGet d (ownSide d (txnLine (getT d h))) (sfSet (txnLine (getT d h)))).uncertain = false ∨ wayOf d (txnLine (getT d h)) ≠ none) :
    act h d = actRow h d := by
  have hbar : isBarrier (getT d h) = false := by rw [isBarrier, decide_eq_false hb, Bool.and_false]
  have hu' : ¬ ((sfGet d (ownSide d (txnLine (getT d h))) (sfSet (txnLine (getT d h)))).uncertain = true ∧
      wayOf d (txnLine (getT d h)) = none ∧ (getT d h).stage = 0) := by
    rintro ⟨h1, h2, -⟩
    rcases hu with h | h
    · exact absurd (h.symm.trans h1) (by decide)
    · exact h h2
  unfold act
  extract_lets t la q x
  rw [if_neg (by simp [t, la, q, hp, hf, hw, hs, hbar]), if_neg (by simp [t, hk]), if_neg hd, if_neg hu']

/-- A request on a line that a live, bound agent owns asks that agent (R119). -/
theorem act_asks {op : BitVec 5} {g : BitVec 2} {b : Bool} (hx : (stateOf d (txnLine (getT d h))).st = 2)
    (hd : isDead d (stateOf d (txnLine (getT d h))).own.toNat = false) (ho : portsOfAgent d (stateOf d (txnLine (getT d h))).own.toNat ≠ [])
    (hrow : rowHere h d = { snps := [((stateOf d (txnLine (getT d h))).own.toNat, op, g)], pull := b }) :
    (getT (act h d) h).phase = .acted ∧
      (getT (act h d) h).snps = (getT d h).snps ++ [{ agent := (stateOf d (txnLine (getT d h))).own.toNat, op := op }] ∧
      (getT (act h d) h).pull = (if b then some d.glb.tick else (getT d h).pull) := by
  have hway : wayOf d (txnLine (getT d h)) ≠ none := wayOf_of_state (by rw [hx]; decide)
  have hsn := rowSent_snoops hh ho hrow
  rw [act_row hh hk hp hl hf hw hs hb (fun h => absurd (hd.symm.trans h.2) (by decide)) (.inr hway),
    actRow_waits (.inl (by rw [hsn.2.1]; simp)) (.inl (by rw [(rowSent_noted h d).wayOf]; exact hway)) (.inl hx)]
  exact hsn

/-- A request whose row asks for its data alone (R119). -/
theorem act_pulls (hd : (stateOf d (txnLine (getT d h))).st = 2 ∧ isDead d (stateOf d (txnLine (getT d h))).own.toNat = false ∨
      (stateOf d (txnLine (getT d h))).st = 0 ∧ lineValid d (txnLine (getT d h)) = true ∧
        (sfGet d (ownSide d (txnLine (getT d h))) (sfSet (txnLine (getT d h)))).uncertain = false)
    (hop : (getT d h).r.op ≠ 1 ∧ (getT d h).r.op ≠ 2 ∧ (getT d h).r.op ≠ 3) (hrow : rowHere h d = { pull := true }) :
    (getT (act h d) h).phase = .acted ∧ (getT (act h d) h).snps = (getT d h).snps ∧ (getT (act h d) h).pull = some d.glb.tick := by
  have hpl := rowSent_pulls hh hrow
  have hop' : (getT (actedOn h d) h).r = (getT d h).r := by rw [getT_actedOn hh]
  have hact : act h d = actRow h d := by
    rcases hd with ⟨h2, hd⟩ | ⟨h0, -, hu⟩
    · exact act_row hh hk hp hl hf hw hs hb (fun h => absurd (hd.symm.trans h.2) (by decide)) (.inr (wayOf_of_state (by rw [h2]; decide)))
    · exact act_row hh hk hp hl hf hw hs hb (fun h => absurd (h0.symm.trans h.1) (by decide)) (.inl hu)
  have hline : (stateOf d (txnLine (getT d h))).st = 2 ∨ lineValid (rowSent h d) (txnLine (getT d h)) = true := by
    rcases hd with ⟨h2, -⟩ | ⟨-, hv, -⟩
    · exact .inl h2
    · right
      rw [lineValid, (rowSent_noted h d).lineOf]
      exact hv
  rw [hact, actRow_waits (.inr (by rw [hpl.2.2]; rfl)) (.inr (by rw [hop']; exact hop)) hline]
  exact hpl

end Act

/-! ## Barriers and activation -/

theorem barrierTry_completes {h : Nat} {d : Dev} (hh : hasT d h = true) (hb : isBarrier (getT d h) = true) (hm : barrierMet d (getT d h) = true)
    (hw : d.twn.handoverWait = false ∨ (getT d h).r.scope ≠ 0) :
    barrierTry h d = sendCmp (getT d h).port (getT d h).r.agent (getT d h).r.tag 0 0 false (endT h d) := by
  have hno : ¬ (d.twn.handoverWait = true ∧ (getT d h).r.scope = 0) := by
    rintro ⟨h1, h2⟩
    rcases hw with h | h
    · exact absurd (h.symm.trans h1) (by decide)
    · exact h h2
  unfold barrierTry
  simp only [hh, hb, hm, hno, Bool.not_true, Bool.false_eq_true, or_self, if_false]

theorem barrierTry_waits {h : Nat} {d : Dev} (hh : hasT d h = true) (hb : isBarrier (getT d h) = true) (hm : barrierMet d (getT d h) = true)
    (hw : d.twn.handoverWait = true) (hs : (getT d h).r.scope = 0) :
    barrierTry h d = onBsn (fun b => { b with barrierRsp := insertNew (getT d h).r.agent.toNat b.barrierRsp }) d := by
  unfold barrierTry
  simp only [hh, hb, hm, hw, hs, Bool.not_true, Bool.false_eq_true, or_self, and_self, if_false, if_true]

end Sys2Proof.Machine

namespace Sys2Proof
open Sys2Proof.Machine

/-- Settles O47. -/
theorem requestsAct : Obligations.RequestsAct := by
  intro tag laddr tagOk ecc s d h t la x o runs
  have quiet {c f} {E : Dev → Prop} (hc : exec c s = runQ f s) (h : E (f s.dev)) : runs c E := ⟨_, f s.dev, hc, rfl, .inl rfl, h⟩
  clear_value runs
  refine ⟨fun hh hk hp hl hf hw hs => ?_, fun hh hb hm => ⟨fun hwait c hc => ?_, fun hwait hsc c hc => ?_⟩, fun k => ?_⟩
  · have acts {c n} {E : Dev → Prop} (hc : exec c s = runQ (actOp n tag) s) (ho : t.r.op.toNat = n) (he : E (act h d)) : runs c E := by
      refine quiet hc ?_
      rw [show actOp n tag s.dev = act h d from if_pos ⟨hh, hk, ho⟩]
      exact he
    intro asks pulls
    have asked {c n} {op : BitVec 5} {g : BitVec 2} {b : Bool} (hc : exec c s = runQ (actOp n tag) s) (ho : t.r.op.toNat = n) (hn : n ≠ 10)
        (hx : x.st = 2) (hd : isDead d o = false) (hpo : portsOfAgent d o ≠ []) (hrow : rowHere h d = { snps := [(o, op, g)], pull := b }) :
        asks c op b :=
      acts hc ho (act_asks hh hk hp hl hf hw hs (fun h => hn (by rw [← ho, h]; rfl)) hx hd hpo hrow)
    have pulled {c n} (hc : exec c s = runQ (actOp n tag) s) (ho : t.r.op.toNat = n) (hn : n ≠ 10 ∧ n ≠ 1 ∧ n ≠ 2 ∧ n ≠ 3)
        (hd : x.st = 2 ∧ isDead d o = false ∨ x.st = 0 ∧ lineValid d la = true ∧ (sfGet d (ownSide d la) (sfSet la)).uncertain = false)
        (hrow : rowHere h d = { pull := true }) : pulls c :=
      acts hc ho (act_pulls hh hk hp hl hf hw hs (fun h => hn.1 (by rw [← ho, h]; rfl)) hd
        ⟨fun h => hn.2.1 (by rw [← ho, h]; rfl), fun h => hn.2.2.1 (by rw [← ho, h]; rfl), fun h => hn.2.2.2 (by rw [← ho, h]; rfl)⟩ hrow)
    clear_value asks pulls
    refine ⟨fun hx hd hpo => ?_, fun hx hv hpo hu => ⟨fun ho => ?_, fun ho => ?_⟩⟩
    · obtain ⟨vec, hrow⟩ := rowHere_owned hh hx hl
      have row {r : Row} {n : BitVec 5} (ho : t.r.op = n) (hr : rowOf n.toNat 2 o t.r.agent.toNat vec (decide (n ≠ 9) || condHolds h d) = r) :
          rowHere h d = r := by rw [hrow, show (getT d h).r.op = n from ho]; exact hr
      refine ⟨fun ho hne => ?_, fun ho hne => ?_, fun ho hne => ?_, fun ho => ?_, fun ho => ?_, fun ho hc => ?_, fun ho he => ?_,
        fun ho he => ?_, fun ho => ?_⟩
      · exact asked rfl (by rw [ho]; rfl) (by decide) hx hd hpo (row (r := { snps := [(o, 1, 1)] }) ho (by simp [rowOf, hne]))
      · exact asked rfl (by rw [ho]; rfl) (by decide) hx hd hpo (row (r := { snps := [(o, 2, 2)] }) ho (by simp [rowOf, hne]))
      · exact asked rfl (by rw [ho]; rfl) (by decide) hx hd hpo (row (r := { snps := [(o, 2, 2)] }) ho (by simp [rowOf, hne]))
      · exact asked rfl (by rw [ho]; rfl) (by decide) hx hd hpo (row (r := { snps := [(o, 3, 0)], pull := true }) ho (by simp [rowOf]))
      · exact asked rfl (by rw [ho]; rfl) (by decide) hx hd hpo (row (r := { snps := [(o, 3, 0)], pull := true }) ho (by simp [rowOf]))
      · have hc' : condHolds h d = true := hc
        exact asked rfl (by rw [ho]; rfl) (by decide) hx hd hpo (row (r := { snps := [(o, 3, 0)], pull := true }) ho (by simp [rowOf, hc']))
      · exact pulled rfl (by rw [ho]; rfl) (by decide) (.inl ⟨hx, hd⟩) (row (r := { pull := true }) ho (by simp [rowOf, he]))
      · exact asked rfl (by rw [ho]; rfl) (by decide) hx hd hpo (row (r := { snps := [(o, 3, 0)] }) ho (by simp [rowOf, he]))
      · exact asked rfl (by rw [ho]; rfl) (by decide) hx hd hpo (row (r := { snps := [(o, 1, 0)] }) ho (by simp [rowOf]))
    · exact pulled rfl (by rw [ho]; rfl) (by decide) (.inr ⟨hx, hv, hu⟩) (rowHere_free hh hx hl hpo (.inl ho))
    · exact pulled rfl (by rw [ho]; rfl) (by decide) (.inr ⟨hx, hv, hu⟩) (rowHere_free hh hx hl hpo (.inr ho))
  · have he := barrierTry_completes hh hb hm hwait
    simp only [List.mem_cons, List.not_mem_nil, or_false] at hc
    rcases hc with rfl | rfl
    · exact quiet (f := barrierTry h) rfl he
    · exact quiet (f := barrierTry h) rfl he
  · have he : t.r.agent.toNat ∈ (barrierTry h d).bsn.barrierRsp ∧ Safety.Keeps [.bsn] d (barrierTry h d) := by
      rw [barrierTry_waits hh hb hm hwait hsc]
      exact ⟨mem_insertNew _ _, onBsn_keeps _ _⟩
    simp only [List.mem_cons, List.not_mem_nil, or_false] at hc
    rcases hc with rfl | rfl
    · exact quiet (f := barrierTry h) rfl he
    · exact quiet (f := barrierTry h) rfl he
  · intro z hk
    refine quiet (f := fun _ => activate laddr.toNat (onT k (fun t => { t with tagBad := !tagOk }) z)) ?_ rfl
    show execActivation laddr tagOk ecc s = _
    simp only [execActivation, runQ, show nextQueued (readSet (sfSet laddr.toNat) ecc s.dev) laddr.toNat = some k from hk]
    rfl

end Sys2Proof
end

section
/-!
Answers to snoops and pulls, and protocol errors (R110-R112, R120, R133, R141).
-/
namespace Sys2Proof.Machine
open Sys2Proof Sys2Proof.SMapLaws

/-! ## Protocol errors -/

/-- What a protocol error records, and raises (R141). -/
theorem protoError_spec {p cls op agent reason : Nat} (hc : cls < 8) (hr : reason < 16) (d : Dev) :
    flag (protoError p cls op agent reason d) F.BSN_ERR_PROTO = true ∧ getF (protoError p cls op agent reason d) F.BSN_PERR_INFO_REASON = reason ∧
      getF (protoError p cls op agent reason d) F.BSN_PERR_INFO_CLASS = cls ∧ Safety.pending (protoError p cls op agent reason d) 161 = true ∧
      (protoError p cls op agent reason d).bsn = d.bsn := by
  refine ⟨?_, ?_, ?_, raiseN_pending _ _ _ (by decide) (.inl rfl), protoError_keeps _ _ _ _ _ _ .bsn (by decide)⟩
  all_goals unfold protoError
  · rw [raiseN_flag (by decide), flag_setB_at (by decide)]
  · rw [raiseN_getF (by decide), getF_setB_apart (by decide), getF_setF_apart (by decide), getF_setF_fits (by decide) hr]
  · rw [raiseN_getF (by decide), getF_setB_apart (by decide), getF_setF_apart (by decide), getF_setF_apart (by decide), getF_setB_apart (by decide),
      getF_setF_apart (by decide), getF_setF_fits (by decide) hc]

theorem giveCredit_bsn (p cls : Nat) (d : Dev) : (giveCredit p cls d).bsn = d.bsn := giveCredit_keeps p cls d .bsn (by decide)
theorem getT_giveCredit (p cls : Nat) (d : Dev) (h : Nat) : getT (giveCredit p cls d) h = getT d h := getT_of_bsn (giveCredit_bsn _ _ _) h
theorem getT_takeCredit (p cls : Nat) (d : Dev) (h : Nat) : getT (takeCredit p cls d) h = getT d h := rfl
theorem hasT_takeCredit (p cls : Nat) (d : Dev) (h : Nat) : hasT (takeCredit p cls d) h = hasT d h := rfl
theorem roleB_takeCredit (p cls : Nat) (d : Dev) : roleB (takeCredit p cls d) = roleB d := rfl
theorem agentsOfPort_takeCredit (p cls : Nat) (d : Dev) (q : Nat) : agentsOfPort (takeCredit p cls d) q = agentsOfPort d q := rfl
theorem getT_stamp (g : Option Nat) (k : Nat) (d : Dev) (h : Nat) : getT (stamp g k d) h = getT d h := getT_of_bsn stamp_bsn h
theorem hasT_stamp (g : Option Nat) (k : Nat) (d : Dev) (h : Nat) : hasT (stamp g k d) h = hasT d h := hasT_of_bsn stamp_bsn h

/-- The credit of a message that is a protocol error goes back (R97). -/
theorem protoError_credit {p cls op agent reason : Nat} (hc : cls < 8) (hr : reason < 16) (d : Dev) :
    let e := giveCredit p cls (protoError p cls op agent reason (takeCredit p cls d))
    flag e F.BSN_ERR_PROTO = true ∧ getF e F.BSN_PERR_INFO_REASON = reason ∧ getF e F.BSN_PERR_INFO_CLASS = cls ∧
      Safety.pending e 161 = true ∧ e.bsn = d.bsn := by
  intro e
  obtain ⟨h1, h2, h3, h4, h5⟩ := protoError_spec (p := p) (op := op) (agent := agent) hc hr (takeCredit p cls d)
  have hq := giveCredit_quiet p cls (protoError p cls op agent reason (takeCredit p cls d))
  exact ⟨(hq.flag (by decide)).trans h1, (hq.fld _ (by decide)).trans h2, (hq.fld _ (by decide)).trans h3, hq.pend _ (by decide) h4,
    (giveCredit_bsn _ _ _).trans h5⟩

/-! ## Answers -/

/-- The device as an answer of a class finds it: its credit taken, its stage stamped. -/
def answerTaken (p cls h : Nat) (d : Dev) : Dev := stamp (getT d h).gecko 4 (takeCredit p cls d)

theorem getT_answerTaken (p cls h : Nat) (d : Dev) (k : Nat) : getT (answerTaken p cls h d) k = getT d k := getT_stamp _ _ _ _
theorem hasT_answerTaken (p cls h : Nat) (d : Dev) (k : Nat) : hasT (answerTaken p cls h d) k = hasT d k := hasT_stamp _ _ _ _

theorem answerTaken_keeps (p cls h : Nat) (d : Dev) : Safety.Keeps [.fab, .obs, .bsn] d (answerTaken p cls h d) :=
  .step (stamp_keeps _ _ _) rfl ((takeCredit_keeps _ _ _).mono rfl)

section Answers
variable {p a h : Nat} {d : Dev} (hl : getF d (F.FAB_STS_LTSTATE p) = 6)
include hl

section Responses
variable (hc : (linkOf d p).rxFree.get 0 2 ≠ 0) (ha : a ∈ agentsOfPort d p)
include hc ha

theorem snpRsp_unknown (hh : hasT d h = false) (home : Bool) (op : BitVec 5) :
    snpRsp p a h home op d = giveCredit p 2 (protoError p 2 op.toNat a 2 (takeCredit p 2 d)) := by
  simp only [snpRsp, received_answer hl (by decide) hc ha, hasT_takeCredit, hh, Bool.not_false, true_or, if_true]

variable {w : SnpWait} (hh : hasT d h = true) (hp : (getT d h).phase ≠ .done) (hw : (getT d h).snps.find? (fun w => decide (w.agent = a)) = some w)
  (hr : w.rsp = none)
include hh hp hw hr

/-- A snoop response that needs no data, or whose data came before, ends its snoop (R110). -/
theorem snpRspI_answers (hf : answersSnoop w.op 8 = true) (hg : ¬ ((getT d h).st = 2 ∧ (getT d h).own = a ∧ (getT d h).stage ≠ 1)) :
    snpRsp p a h (roleB d) 8 d = giveCredit p 2 (advance h (snoopDone h a (answerTaken p 2 h d))) := by
  simp only [snpRsp, received_answer hl (by decide) hc ha, hasT_takeCredit, getT_takeCredit, roleB_takeCredit, hh, hp, hw, hr, hf, hg, answerTaken,
    Bool.not_true, Bool.false_eq_true, ne_eq, not_true_eq_false, Option.isSome_none, or_self, if_false, if_true]

theorem snpRspFwdI_answers (hf : answersSnoop w.op 0x0B = true) (hg : (getT d h).gone = false) :
    snpRsp p a h (roleB d) 0x0B d = giveCredit p 2 (advance h (snoopDone h a (answerTaken p 2 h d))) := by
  simp only [snpRsp, received_answer hl (by decide) hc ha, hasT_takeCredit, getT_takeCredit, roleB_takeCredit, hh, hp, hw, hr, hf, hg, answerTaken,
    Bool.not_true, Bool.false_eq_true, ne_eq, not_true_eq_false, Option.isSome_none, or_self, if_false, if_true,
    show ¬ ((0x0B : BitVec 5) = 8) by decide]

theorem snpRspFwdS_answers (hf : answersSnoop w.op 0x0A = true) (hg : w.data = true) :
    snpRsp p a h (roleB d) 0x0A d = giveCredit p 2 (advance h (snoopDone h a (answerTaken p 2 h d))) := by
  simp only [snpRsp, received_answer hl (by decide) hc ha, hasT_takeCredit, getT_takeCredit, roleB_takeCredit, hh, hp, hw, hr, hf, hg, answerTaken,
    Bool.not_true, Bool.false_eq_true, ne_eq, not_true_eq_false, Option.isSome_none, or_self, if_false, if_true,
    show ¬ ((0x0A : BitVec 5) = 8) by decide, show ¬ ((0x0A : BitVec 5) = 0x0B) by decide, show ¬ ((0x0A : BitVec 5) = 0x0C) by decide]

/-- A forwarded line that the owner keeps or loses: the owner's line counts as forwarded (R300). -/
def forwarded (p a h : Nat) (d : Dev) : Dev := onT h (fun t => { t with fwd := insertNew a t.fwd }) (answerTaken p 2 h d)

theorem snpRspIData_answers (hf : answersSnoop w.op 0x0C = true) (hg : w.data = true) :
    snpRsp p a h (roleB d) 0x0C d = giveCredit p 2 (advance h (snoopDone h a (forwarded p a h d))) := by
  simp only [snpRsp, received_answer hl (by decide) hc ha, hasT_takeCredit, getT_takeCredit, roleB_takeCredit, hh, hp, hw, hr, hf, hg, forwarded,
    answerTaken, Bool.not_true, Bool.false_eq_true, ne_eq, not_true_eq_false, Option.isSome_none, or_self, if_false, if_true,
    show ¬ ((0x0C : BitVec 5) = 8) by decide, show ¬ ((0x0C : BitVec 5) = 0x0B) by decide]

/-- An answer whose data has not come waits for it (R110). -/
def awaitsData (a h : Nat) (op : BitVec 5) (d : Dev) : Dev :=
  onT h (fun t => { t with snps := t.snps.map fun s => if s.agent = a then { s with rsp := some op } else s }) d

theorem snpRspFwdS_waits (hf : answersSnoop w.op 0x0A = true) (hg : w.data = false) :
    snpRsp p a h (roleB d) 0x0A d = giveCredit p 2 (awaitsData a h 0x0A (answerTaken p 2 h d)) := by
  simp only [snpRsp, received_answer hl (by decide) hc ha, hasT_takeCredit, getT_takeCredit, roleB_takeCredit, hh, hp, hw, hr, hf, hg, answerTaken,
    awaitsData, Bool.not_true, Bool.false_eq_true, ne_eq, not_true_eq_false, Option.isSome_none, or_self, if_false,
    show ¬ ((0x0A : BitVec 5) = 8) by decide, show ¬ ((0x0A : BitVec 5) = 0x0B) by decide, show ¬ ((0x0A : BitVec 5) = 0x0C) by decide]

theorem snpRspIData_waits (hf : answersSnoop w.op 0x0C = true) (hg : w.data = false) :
    snpRsp p a h (roleB d) 0x0C d = giveCredit p 2 (awaitsData a h 0x0C (forwarded p a h d)) := by
  simp only [snpRsp, received_answer hl (by decide) hc ha, hasT_takeCredit, getT_takeCredit, roleB_takeCredit, hh, hp, hw, hr, hf, hg, forwarded,
    answerTaken, awaitsData, Bool.not_true, Bool.false_eq_true, ne_eq, not_true_eq_false, Option.isSome_none, or_self, if_false, if_true,
    show ¬ ((0x0C : BitVec 5) = 8) by decide, show ¬ ((0x0C : BitVec 5) = 0x0B) by decide]

end Responses

/-! ## Line data -/

section Data
variable (hc : (linkOf d p).rxFree.get 0 3 ≠ 0) (ha : a ∈ agentsOfPort d p)
include hc ha

theorem dataSnp_unknown (hh : hasT d h = false) (poison : Bool) (v : Line) :
    dataSnp p a h poison v d = giveCredit p 3 (protoError p 3 4 a 2 (takeCredit p 3 d)) := by
  simp only [dataSnp, received_answer hl (by decide) hc ha, hasT_takeCredit, hh, Bool.not_false, true_or, if_true]

theorem dataWr_unknown (hh : hasT d h = false) (m : Word64) (v : Line) (b : Bool) :
    dataWr p a h m v b d = giveCredit p 3 (protoError p 3 3 a 2 (takeCredit p 3 d)) := by
  simp only [dataWr, received_answer hl (by decide) hc ha, hasT_takeCredit, hh, Bool.not_false, true_or, if_true]

variable (hh : hasT d h = true) (hp : (getT d h).phase ≠ .done)
include hh hp

/-- The device with the owner's line in the transaction (R111). -/
def withOwnerData (p h : Nat) (v : Line) (d : Dev) : Dev := onT h (fun t => { t with ownerData := some v }) (answerTaken p 3 h d)

section Snooped
variable {w : SnpWait} (hw : (getT d h).snps.find? (fun w => decide (w.agent = a)) = some w) (hd : w.data = false) (ho : w.op ≠ 2)
include hw hd ho

theorem dataSnp_waits (hr : w.rsp = none) (v : Line) : dataSnp p a h false v d = giveCredit p 3
    (onT h (fun t => { t with snps := t.snps.map fun s => if s.agent = a then { s with data := true } else s }) (withOwnerData p h v d)) := by
  simp only [dataSnp, received_answer hl (by decide) hc ha, hasT_takeCredit, getT_takeCredit, hh, hp, hw, hr, hd, ho, withOwnerData, answerTaken,
    Bool.not_true, Bool.false_eq_true, Option.isSome_none, or_self, if_false]

theorem dataSnp_answers (hr : w.rsp ≠ none) (v : Line) : dataSnp p a h false v d = giveCredit p 3
    (advance h (snoopDone h a (withOwnerData p h v d))) := by
  simp only [dataSnp, received_answer hl (by decide) hc ha, hasT_takeCredit, getT_takeCredit, hh, hp, hw, Option.isSome_iff_ne_none.mpr hr, hd, ho,
    withOwnerData, answerTaken, Bool.not_true, Bool.false_eq_true, or_self, if_false, if_true]

end Snooped

/-- The device with the data that a WrPull asked for in the transaction (R111). -/
def withWriteData (p h : Nat) (m : Word64) (v : Line) (b : Bool) (d : Dev) : Dev :=
  onT h (fun t => { t with pull := none, wr := some (m, v), tagBad := !b }) (answerTaken p 3 h d)

theorem dataWr_answers (hu : (getT d h).pull.isSome) (hr : (getT d h).r.agent.toNat = a) (m : Word64) (v : Line) (b : Bool) :
    dataWr p a h m v b d = giveCredit p 3 (advance h (withWriteData p h m v b d)) := by
  have hn : ¬ ((getT d h).pull = none) := Option.isSome_iff_ne_none.mp hu
  simp only [dataWr, received_answer hl (by decide) hc ha, hasT_takeCredit, getT_takeCredit, hh, hp, hn, hr, withWriteData, answerTaken,
    Bool.not_true, Bool.false_eq_true, ne_eq, not_true_eq_false, or_self, if_false]

end Data
end Answers

theorem forwarded_keeps (p a h : Nat) (d : Dev) : Safety.Keeps [.fab, .obs, .bsn] d (forwarded p a h d) :=
  .step (onT_keeps _ _ _) rfl (answerTaken_keeps _ _ _ _)

theorem withOwnerData_keeps (p h : Nat) (v : Line) (d : Dev) : Safety.Keeps [.fab, .obs, .bsn] d (withOwnerData p h v d) :=
  .step (onT_keeps _ _ _) rfl (answerTaken_keeps _ _ _ _)

section Fields
variable {h : Nat} {d : Dev} (hh : hasT d h = true)
include hh

theorem getT_forwarded (p a : Nat) : getT (forwarded p a h d) h = { getT d h with fwd := insertNew a (getT d h).fwd } := by
  rw [forwarded, getT_onT_same ((hasT_answerTaken _ _ _ _ _).trans hh), getT_answerTaken]

theorem getT_awaitsData (a : Nat) (op : BitVec 5) : getT (awaitsData a h op d) h =
    { getT d h with snps := (getT d h).snps.map fun s => if s.agent = a then { s with rsp := some op } else s } := by
  rw [awaitsData, getT_onT_same hh]

theorem getT_withOwnerData (p : Nat) (v : Line) : getT (withOwnerData p h v d) h = { getT d h with ownerData := some v } := by
  rw [withOwnerData, getT_onT_same ((hasT_answerTaken _ _ _ _ _).trans hh), getT_answerTaken]

theorem getT_withWriteData (p : Nat) (m : Word64) (v : Line) (b : Bool) : getT (withWriteData p h m v b d) h =
    { getT d h with pull := none, wr := some (m, v), tagBad := !b } := by
  rw [withWriteData, getT_onT_same ((hasT_answerTaken _ _ _ _ _).trans hh), getT_answerTaken]

end Fields

/-! ## DOWN -/

section Down
variable {p a b : Nat} {d : Dev} (hl : getF d (F.FAB_STS_LTSTATE p) = 6) (hc : (linkOf d p).rxFree.get 0 4 ≠ 0) (ha : a ∈ agentsOfPort d p)
include hl hc ha

/-- What the event DOWN of an agent does. -/
def downEvt (p a b : Nat) (d : Dev) : Dev :=
  received p 4 a (fun d => if b ∈ agentsOfPort d p then declareDead b 4 d else protoError p 4 2 a 7 d) d

theorem downEvt_bound (hb : b ∈ agentsOfPort d p) : downEvt p a b d = giveCredit p 4 (declareDead b 4 (takeCredit p 4 d)) := by
  simp only [downEvt, received_answer hl (by decide) hc ha, agentsOfPort_takeCredit, hb, if_true]

theorem downEvt_unbound (hb : b ∉ agentsOfPort d p) : downEvt p a b d = giveCredit p 4 (protoError p 4 2 a 7 (takeCredit p 4 d)) := by
  simp only [downEvt, received_answer hl (by decide) hc ha, agentsOfPort_takeCredit, hb, if_false]

end Down

end Sys2Proof.Machine

namespace Sys2Proof
open Sys2Proof.Machine

/-- Settles O48. -/
theorem snoopAnswers : Obligations.SnoopAnswers := by
  intro port agent target tag home dat poison tagOk op line mask s d p a h t runs open_ proto goesOn
  have quiet {c f} {E : Dev → Prop} (hc : exec c s = runQ f s) (h : E (f s.dev)) : runs c E := ⟨_, f s.dev, hc, rfl, .inl rfl, h⟩
  have goes {c f z cls} (hc : exec c s = runQ f s) (he : f s.dev = giveCredit p cls (advance h (snoopDone h a z)))
      (hz : Safety.Keeps [.fab, .obs, .bsn] d z) : goesOn c cls := quiet hc ⟨z, he, hz⟩
  have errs {c f cls o r} (hc : exec c s = runQ f s) (hcls : cls < 8) (hr : r < 16)
      (he : open_ cls → f s.dev = giveCredit p cls (protoError p cls o a r (takeCredit p cls s.dev))) : proto c cls r := fun ho =>
    quiet hc (by rw [he ho]; exact protoError_credit hcls hr s.dev)
  clear_value runs goesOn proto
  refine ⟨?_, fun hh => ⟨?_, ?_, ?_, ?_, ?_, ?_⟩, ?_, ?_, ?_, fun hb => ?_, ?_, ?_⟩
  · rintro w ⟨hl, hc, ha⟩ hh hp rfl hw hr
    refine ⟨fun hf hg => ?_, fun hf hg => ?_, fun hf hg => ?_, fun hf hg => ?_, fun hf hg => ?_, fun hf hg => ?_⟩
    · exact goes (f := snpRsp p a h (roleB d) 8) rfl (snpRspI_answers hl hc ha hh hp hw hr hf hg) (answerTaken_keeps _ _ _ _)
    · exact goes (f := snpRsp p a h (roleB d) 0x0A) rfl (snpRspFwdS_answers hl hc ha hh hp hw hr hf hg) (answerTaken_keeps _ _ _ _)
    · refine quiet (f := snpRsp p a h (roleB d) 0x0A) rfl ?_
      rw [snpRspFwdS_waits hl hc ha hh hp hw hr hf hg, getT_giveCredit, getT_awaitsData ((hasT_answerTaken _ _ _ _ _).trans hh), getT_answerTaken]
    · exact goes (f := snpRsp p a h (roleB d) 0x0B) rfl (snpRspFwdI_answers hl hc ha hh hp hw hr hf hg) (answerTaken_keeps _ _ _ _)
    · exact goes (f := snpRsp p a h (roleB d) 0x0C) rfl (snpRspIData_answers hl hc ha hh hp hw hr hf hg) (forwarded_keeps _ _ _ _)
    · refine quiet (f := snpRsp p a h (roleB d) 0x0C) rfl ?_
      rw [snpRspIData_waits hl hc ha hh hp hw hr hf hg, getT_giveCredit,
        getT_awaitsData (d := forwarded p a h d) (hasT_onT _ _ _ _ ((hasT_answerTaken _ _ _ _ _).trans hh)), getT_forwarded hh]
  · exact errs (f := snpRsp p a h home 8) rfl (by decide) (by decide) fun ⟨hl, hc, ha⟩ => snpRsp_unknown hl hc ha hh _ _
  · exact errs (f := snpRsp p a h home 0x0A) rfl (by decide) (by decide) fun ⟨hl, hc, ha⟩ => snpRsp_unknown hl hc ha hh _ _
  · exact errs (f := snpRsp p a h home 0x0B) rfl (by decide) (by decide) fun ⟨hl, hc, ha⟩ => snpRsp_unknown hl hc ha hh _ _
  · exact errs (f := snpRsp p a h home 0x0C) rfl (by decide) (by decide) fun ⟨hl, hc, ha⟩ => snpRsp_unknown hl hc ha hh _ _
  · exact errs (f := dataSnp p a h poison line) rfl (by decide) (by decide) fun ⟨hl, hc, ha⟩ => dataSnp_unknown hl hc ha hh _ _
  · exact errs (f := dataWr p a h mask line tagOk) rfl (by decide) (by decide) fun ⟨hl, hc, ha⟩ => dataWr_unknown hl hc ha hh _ _ _
  · rintro w ⟨hl, hc, ha⟩ hh hp hw hd ho
    refine ⟨fun hr => ?_, fun hr => ?_⟩
    · refine quiet (f := dataSnp p a h false line) rfl ?_
      rw [dataSnp_waits hl hc ha hh hp hw hd ho hr, getT_giveCredit,
        getT_onT_same (d := withOwnerData p h line d) (hasT_onT _ _ _ _ ((hasT_answerTaken _ _ _ _ _).trans hh)), getT_withOwnerData hh]
      exact ⟨rfl, rfl⟩
    · exact goes (f := dataSnp p a h false line) rfl (dataSnp_answers hl hc ha hh hp hw hd ho hr _) (withOwnerData_keeps _ _ _ _)
  · rintro ⟨hl, hc, ha⟩ hh hp hu hr
    refine quiet (f := dataWr p a h mask line tagOk) rfl ⟨withWriteData p h mask line tagOk d, ?_, ?_⟩
    · exact dataWr_answers hl hc ha hh hp hu (congrArg BitVec.toNat hr) _ _ _
    · rw [getT_withWriteData hh]
      exact ⟨rfl, rfl⟩
  · rintro ⟨hl, hc, ha⟩ hb
    exact quiet (f := downEvt p a target.toNat) rfl ⟨takeCredit p 4 d, downEvt_bound hl hc ha hb, (takeCredit_keeps _ _ _).mono rfl⟩
  · exact errs (f := downEvt p a target.toNat) rfl (by decide) (by decide) fun ⟨hl, hc, ha⟩ => downEvt_unbound hl hc ha hb
  · cases dat
    · exact errs (f := received p 2 a (protoError p 2 op.toNat a 1)) rfl (by decide) (by decide) fun ⟨hl, hc, ha⟩ =>
        received_answer hl (by decide) hc ha
    · exact errs (f := received p 3 a (protoError p 3 op.toNat a 1)) rfl (by decide) (by decide) fun ⟨hl, hc, ha⟩ =>
        received_answer hl (by decide) hc ha
  · exact errs (f := received p 4 a (protoError p 4 op.toNat a 5)) rfl (by decide) (by decide) fun ⟨hl, hc, ha⟩ =>
      received_answer hl (by decide) hc ha

end Sys2Proof
end

section
/-!
Waits of a transaction that end (R18, R40, R128, R129, R137, R138, R166, R298).
-/
namespace Sys2Proof.Machine
open Sys2Proof Sys2Proof.SMapLaws

/-! ## Windows -/

theorem windowsOf_releaseWindows_same (h : Nat) (d : Dev) : windowsOf (releaseWindows h d) h = [] := by
  refine List.filter_eq_nil_iff.mpr fun w hw => ?_
  obtain ⟨-, hg⟩ := List.mem_filter.mp hw
  simpa [or_iff_not_imp_left] using hg

theorem windowsOf_releaseWindows_ne {h k : Nat} (hk : k ≠ h) (d : Dev) : windowsOf (releaseWindows h d) k = windowsOf d k := by
  show (d.sch.windows.filter _).filter _ = d.sch.windows.filter _
  rw [List.filter_filter]
  refine List.filter_congr fun w _ => ?_
  by_cases hw : w.htag = k
  · simp [hw, hk]
  · simp [hw]

section Window
variable {h : Nat} {d : Dev} {w : Window} {ws : List Window} (hw : windowsOf d h = w :: ws)
include hw

theorem windowResolution_released (hn : (getT d h).phase = .queued ∨ lineValid d (txnLine (getT d h)) = true ∨
    (stateOf d (txnLine (getT d h))).st = 2) : windowResolution h d = releaseWindows h d := by
  simp only [windowResolution, hw, hn, if_true]

variable (hn : (getT d h).phase ≠ .queued ∧ lineValid d (txnLine (getT d h)) = false ∧ (stateOf d (txnLine (getT d h))).st ≠ 2)
include hn

theorem windowResolution_unwritten (ho : w.own = true) (hu : neverWritten d (txnLine (getT d h) / 64) = true) :
    windowResolution h d = fillArrives h (txnLine (getT d h) / 64) {} (releaseWindows h d) := by
  obtain ⟨h1, h2, h3⟩ := hn
  simp only [windowResolution, hw, h1, h2, h3, ho, hu, Bool.false_eq_true, or_self, and_self, if_false, if_true]

theorem windowResolution_other (ho : w.own = false) : windowResolution h d = d := by
  obtain ⟨h1, h2, h3⟩ := hn
  simp only [windowResolution, hw, h1, h2, h3, ho, Bool.false_eq_true, or_self, and_false, if_false]

theorem windowResolution_written (ho : w.own = true) (hu : neverWritten d (txnLine (getT d h) / 64) = false) :
    windowResolution h d = resolveOwn h d := by
  obtain ⟨h1, h2, h3⟩ := hn
  simp only [windowResolution, hw, h1, h2, h3, ho, hu, Bool.false_eq_true, or_self, false_and, if_false, if_true]

end Window

/-- The window that reads the page of its leaf (R40, R238). -/
def readsPage (d : Dev) (w : Window) : Window :=
  { w with mapRead := false, paddr := (resolveLeaf d w.leaf).1, agecls := (resolveLeaf d w.leaf).2 }

theorem resolveOwn_last {h : Nat} {d : Dev} {w : Window} (hw : windowsOf d h = [w]) (ho : w.own = true) (hi : w.issued = false) :
    resolveOwn h d = onSch (fun s => { s with windows := s.windows ++ [readsPage d w] }) (releaseWindows h d) := by
  simp [resolveOwn, hw, ho, hi, readsPage]

/-! ## Reads that lost their window -/

section Rebind
variable {h : Nat} {d : Dev} (hh : hasT d h = true)
include hh

theorem rebindTry_binds (hr : (getT d h).rebind = true) (ho : (getT d h).rbOwn = false) {ws : List Window}
    (hb : bindLoose d h (txnLine (getT d h) / 64) false (getT d h).rbMap false = some ws) :
    rebindTry h d = bindWindows ws (onT h (fun t => { t with rebind := false }) d) := by
  simp only [rebindTry, rebindRead, hh, hr, ho, hb, Bool.not_true, Bool.false_eq_true, if_false, if_true]

variable (hr : (getT d h).rebind = false) (hn : (getT d h).needWin = true)
include hr hn

theorem rebindTry_valid (hv : lineValid d (txnLine (getT d h)) = true) :
    rebindTry h d = progress h (onT h (fun t => { t with needWin := false }) d) := by
  simp only [rebindTry, hh, hr, hn, hv, Bool.not_true, Bool.false_eq_true, if_false, if_true]

theorem rebindTry_invalid (hv : lineValid d (txnLine (getT d h)) = false) : rebindTry h d = bindRead h d := by
  simp only [rebindTry, hh, hr, hn, hv, Bool.not_true, Bool.false_eq_true, if_false, if_true]

end Rebind

/-! ## Waits for a frame, room or an index -/

section Wait
variable {h : Nat} {d : Dev} {w : WaitFor} (hh : hasT d h = true) (hw : (getT d h).wait = w)
include hh hw

theorem waitTry_empty (hf : (getT d h).fill = none) : waitTry w h d = advance h d := by
  simp only [waitTry, hh, hw, hf, Bool.not_true, Bool.false_eq_true, ne_eq, not_true_eq_false, or_self, if_false]

theorem waitTry_filled {f : Fill} (hf : (getT d h).fill = some f) : waitTry w h d = fillArrives h (txnLine (getT d h) / 64) f d := by
  simp only [waitTry, hh, hw, hf, Bool.not_true, Bool.false_eq_true, ne_eq, not_true_eq_false, or_self, if_false]

end Wait

theorem wayTry_waits {h : Nat} {es : List EccErr} {d z : Dev}
    (hz : z = (readSet (sfSet (txnLine (getT d h))) es d).bsn.biQueue.foldl (fun d e => startBi e.1 e.2 d) (readSet (sfSet (txnLine (getT d h))) es d))
    (hw : (getT z h).wait = .way) (hp : (sfGet z (ownSide z (txnLine (getT z h))) (sfSet (txnLine (getT z h)))).pinned = false) :
    wayTry h es d = if (getT (takeWay h z) h).wait = .way then takeWay h z else progress h (takeWay h z) := by
  unfold wayTry
  subst hz
  exact if_pos ⟨hw, by rw [hp]; rfl⟩

theorem any_erase {α : Type} (m : SMap α) (k : Nat) : ((SMap.erase m k).any fun e => decide (e.1 = k)) = false := by
  induction m with
  | nil => rfl
  | cons e m ih =>
    unfold SMap.erase
    split
    · exact ih
    next hk => rw [List.any_cons, ih, decide_eq_false hk]; rfl

theorem hasT_endT (h : Nat) (d : Dev) : hasT (endT h d) h = false := any_erase _ _

end Sys2Proof.Machine

namespace Sys2Proof
open Sys2Proof.Machine

/-- Settles O49. -/
theorem waits : Obligations.Waits := by
  intro tag laddr x s d h t la runs
  have quiet {c f} {E : Dev → Prop} (hc : exec c s = runQ f s) (h : E (f s.dev)) : runs c E := ⟨_, f s.dev, hc, rfl, .inl rfl, h⟩
  clear_value runs
  refine ⟨fun w ws hw => ?_, fun hh => ⟨fun hr ho ws hb => ?_, fun hr hn => ⟨fun hv => ?_, fun hv => ?_⟩, fun c w hc hw hp => ⟨fun hf => ?_,
    fun f hf => ?_⟩, fun hp ht => ?_⟩, fun hp => ?_, ?_, fun w hw => ?_⟩
  · intro needed
    refine ⟨fun hn => ?_, fun hn ho hu => ?_, fun hn hws ho hi hu => ?_, fun hn ho => ?_⟩
    · refine quiet (f := windowResolution h) rfl ?_
      rw [show windowResolution h s.dev = _ from windowResolution_released hw hn]
      exact ⟨windowsOf_releaseWindows_same _ _, fun k hk => windowsOf_releaseWindows_ne hk _, releaseWindows_keeps _ _⟩
    · exact quiet (f := windowResolution h) rfl (windowResolution_unwritten hw hn ho hu)
    · refine quiet (f := windowResolution h) rfl ?_
      rw [show windowResolution h s.dev = _ from windowResolution_written hw hn ho hu, resolveOwn_last (by rw [hw, hws]) ho hi]
      exact ⟨rfl, .step (onSch_keeps _ _) rfl (releaseWindows_keeps _ _)⟩
    · exact quiet (f := windowResolution h) rfl (windowResolution_other hw hn ho)
  · exact quiet (f := rebindTry h) rfl (rebindTry_binds hh hr ho hb)
  · exact quiet (f := rebindTry h) rfl (rebindTry_valid hh hr hn hv)
  · exact quiet (f := rebindTry h) rfl (rebindTry_invalid hh hr hn hv)
  · have he := waitTry_empty hh hw hf
    simp only [List.mem_cons, List.not_mem_nil, or_false, Prod.mk.injEq] at hc
    rcases hc with ⟨rfl, rfl⟩ | ⟨rfl, rfl⟩ | ⟨rfl, rfl⟩
    · exact quiet (f := waitTry .frame h) rfl he
    · exact quiet (f := waitTry .cidx h) rfl he
    · exact quiet (f := fun d => if (getT d h).phase = .sent then commitSweep d else waitTry .dirty h d) rfl ((if_neg hp).trans he)
  · have he := waitTry_filled hh hw hf
    simp only [List.mem_cons, List.not_mem_nil, or_false, Prod.mk.injEq] at hc
    rcases hc with ⟨rfl, rfl⟩ | ⟨rfl, rfl⟩ | ⟨rfl, rfl⟩
    · exact quiet (f := waitTry .frame h) rfl he
    · exact quiet (f := waitTry .cidx h) rfl he
    · exact quiet (f := fun d => if (getT d h).phase = .sent then commitSweep d else waitTry .dirty h d) rfl ((if_neg hp).trans he)
  · refine quiet (f := quarantineEnd h) rfl ?_
    rw [show quarantineEnd h s.dev = endT h d from if_pos ⟨hh, hp, ht⟩]
    exact hasT_endT _ _
  · exact quiet (f := fun d => if (getT d h).phase = .sent then commitSweep d else waitTry .dirty h d) rfl (if_pos hp)
  · intro k y z hw hp
    refine quiet (f := wayTry k x.ecc) rfl ?_
    have he : wayTry k x.ecc s.dev = _ := wayTry_waits (z := z) rfl hw hp
    rw [he]
    split
    · rfl
    · rfl
  · intro y
    have he : lossTry laddr.toNat s.dev = if lostPending y laddr.toNat then y else
        ((htags y).filter fun h => running (getT y h) && decide (txnLine (getT y h) = laddr.toNat)).foldl (fun d h => advance h d) y := by
      simp only [lossTry, show d.bsn.lostWait.find? _ = _ from hw, y, d]
    refine quiet (f := lossTry laddr.toNat) rfl ?_
    rw [he]
    split
    · rfl
    · rfl

end Sys2Proof
end

section
/-!
Departed and dead agents (R132-R140).
-/
namespace Sys2Proof.Machine
open Sys2Proof Sys2Proof.SMapLaws

/-! ## The dead mark -/

theorem getPair_lt {lo hi : Fld} (hl : lo.lo = 0 ∧ lo.hi = 31) (hh : hi.lo = 0 ∧ hi.hi = 31) (d : Dev) : getPair lo hi d < 2 ^ 64 := by
  have h1 : getF d lo < 2 ^ 32 := getF_lt (by omega) d
  have h2 : getF d hi < 2 ^ 32 := getF_lt (by omega) d
  unfold getPair
  omega

theorem testBit_sub_two_pow {v a : Nat} (h : v.testBit a = true) : (v - 2 ^ a).testBit a = false := by
  have hle := Nat.ge_two_pow_of_testBit h
  have hb := Nat.testBit_two_pow_add_eq (v - 2 ^ a) a
  rw [Nat.add_sub_cancel' hle, h] at hb
  simpa using hb

theorem isDead_markDead_false (a : Nat) (d : Dev) : isDead (markDead a false d) a = false := by
  have hv := getPair_lt (lo := F.BSN_DEAD_LO_DEAD) (hi := F.BSN_DEAD_HI_DEAD) ⟨rfl, rfl⟩ ⟨rfl, rfl⟩ d
  unfold isDead markDead
  simp only [Bool.false_eq_true, if_false]
  split
  next hb =>
    rw [getPair_setPair ⟨rfl, rfl, rfl, rfl⟩ (by decide) ((Nat.sub_le _ _).trans_lt hv)]
    exact testBit_sub_two_pow hb
  next hb =>
    rw [getPair_setPair ⟨rfl, rfl, rfl, rfl⟩ (by decide) hv]
    exact Bool.eq_false_of_not_eq_true hb

theorem isDead_of_regs {d e : Dev} (h : e.regs = d.regs) (a : Nat) : isDead e a = isDead d a := by
  unfold isDead getPair getF regGet
  rw [h]

/-! ## Declaring and clearing -/

theorem holdsLock_touch (p : Nat) (d : Dev) (q : Nat) : holdsLock (touch p d) q = holdsLock d q := by
  unfold holdsLock
  rw [touch_getF]

theorem isDead_touch (p : Nat) (d : Dev) (a : Nat) : isDead (touch p d) a = isDead d a := isDead_of_regs touch_regs a

theorem alone_touch (p : Nat) (d : Dev) : alone (touch p d) = alone d := by
  unfold alone
  rw [touch_glb]

theorem walkEnded_touch (p : Nat) (d : Dev) (a : Nat) : walkEnded (touch p d) a = walkEnded d a := by
  unfold walkEnded
  rw [touch_bsn]

theorem mirrors_touch (p : Nat) (d : Dev) : mirrors (touch p d) = mirrors d := by
  unfold mirrors
  rw [alone_touch, touch_flag]

theorem mirrors_markDead (a : Nat) (b : Bool) (f : Bsn → Bsn) (d : Dev) : mirrors (markDead a b (onBsn f d)) = mirrors d := by
  unfold mirrors markDead setPair
  rw [flag_setF_apart (by decide), flag_setF_apart (by decide)]
  rfl

section Clear
variable {p a : Nat} {d : Dev} (hl : holdsLock d p = true) (hd : isDead d a = true)
include hl hd

/-- A CLEAR once the walks have ended (R139). -/
theorem clearCmd_clears (hw : walkEnded d a = true) (hp : alone d = true ∨ a ∈ d.bsn.partnerWalk) (hm : mirrors d = false) :
    clearCmd p a d = markDead a false (onBsn (fun b => { b with partnerWalk := b.partnerWalk.filter fun x => x ≠ a }) d) := by
  have hp' : (alone d || decide (a ∈ d.bsn.partnerWalk)) = true := by simpa using hp
  simp only [clearCmd, hl, hd, hw, hp', mirrors_markDead, hm, Bool.not_true, Bool.false_eq_true, or_self, Bool.and_self, if_false, if_true]

theorem clearCmd_refused (hw : walkEnded d a = false ∨ (alone d = false ∧ a ∉ d.bsn.partnerWalk)) :
    clearCmd p a d = setB F.BSN_ERR_CMD_REFUSED true d := by
  have hc : (walkEnded d a && (alone d || decide (a ∈ d.bsn.partnerWalk))) = false := by
    rcases hw with h | ⟨h1, h2⟩
    · rw [h]; rfl
    · rw [h1, decide_eq_false h2, Bool.false_or, Bool.and_false]
  simp only [clearCmd, hl, hd, hc, Bool.not_true, Bool.false_eq_true, or_self, if_false]

end Clear

theorem declared_limit {n a : Nat} {f : Fld} (hn : n < 512) (hf : f.lo ≤ f.hi ∧ f.hi < 32) (he : Safety.eventReg f.addr = false) (d : Dev) :
    flag (raiseN n a (setB f true d)) f = true ∧ Safety.pending (raiseN n a (setB f true d)) n = true ∧ (raiseN n a (setB f true d)).bsn = d.bsn :=
  ⟨by rw [raiseN_flag he, flag_setB_at hf], raiseN_pending _ _ _ hn (.inl rfl), by rw [raiseN_bsn]; rfl⟩

/-! ## Departing -/

/-- The agents that depart, with one more (R140). -/
def nowDeparted (a : Nat) (d : Dev) : Dev := onBsn (fun b => { b with departed := b.departed ++ [a] }) d

theorem departCmd_departs {p a : Nat} {d : Dev} (hl : getF d (F.FAB_STS_LTSTATE p) = 6) (hc : (linkOf d p).rxFree.get 0 4 ≠ 0)
    (ha : a ∈ agentsOfPort d p) (hd : a ∉ d.bsn.departed) : departCmd p a d =
      giveCredit p 4 (startWalk { agent := a, depart := true } (zeroMac a (clearSlot a (nowDeparted a (takeCredit p 4 d))))) := by
  rw [departCmd, received_answer hl (by decide) hc ha, if_neg (show a ∉ (takeCredit p 4 d).bsn.departed from hd)]
  rfl

/-! ## The partner's messages -/

/-- The device once a message of a class has been counted and its SEQ has passed (R267, R297). -/
def mirTaken (cls : Nat) (d : Dev) : Dev :=
  whenD (cls ≤ 12) (count (0xA00C + cls - 1)) (onTwn (fun t => { t with rxSeq := t.rxSeq + 1 }) d)

theorem mirRecv_up {d : Dev} (h : mirUp d = true) (cls : Nat) (k : Nat → Dev → Dev) : mirRecv cls k d = k d.twn.rxSeq (mirTaken cls d) := by
  rw [mirRecv, h]
  rfl

theorem mirTaken_keeps (cls : Nat) (d : Dev) : Safety.Keeps [.regs, .glb, .svc, .fab, .obs, .twn] d (mirTaken cls d) := by
  unfold mirTaken whenD
  split
  · exact .step (count_keeps _ _) rfl ((onTwn_keeps _ _).mono rfl)
  · exact (onTwn_keeps _ _).mono rfl

theorem mirTaken_twn (cls : Nat) (d : Dev) : (mirTaken cls d).twn = { d.twn with rxSeq := d.twn.rxSeq + 1 } := by
  unfold mirTaken whenD
  split
  · rw [count_twn]
    rfl
  · rfl

end Sys2Proof.Machine

namespace Sys2Proof
open Sys2Proof.Machine

/-- Settles O50. -/
theorem deadAgents : Obligations.DeadAgents := by
  intro port agent tag p cause what ecc s d a t awake n runs
  have quiet {c f} {E : Dev → Prop} (hc : exec c s = runQ f s) (h : E (f s.dev)) : runs c E := ⟨_, f s.dev, hc, rfl, .inl rfl, h⟩
  have direct {c e} {E : Dev → Prop} (hc : exec c s = .next { s with dev := e }) (h : E e) : runs c E := ⟨_, e, hc, rfl, .inl rfl, h⟩
  clear_value runs
  refine ⟨fun hl hc ha hd => ?_, fun w hw ht => ?_, fun hp ht => ?_, fun hb => ?_, fun hu => ?_, ?_⟩
  · refine quiet (f := departCmd port.val a) rfl ⟨nowDeparted a (takeCredit port.val 4 d), _, departCmd_departs hl hc ha hd, rfl, rfl, ?_⟩
    exact .step (onBsn_keeps _ _) rfl ((takeCredit_keeps _ _ _).mono rfl)
  · refine direct (e := declareDead a 2 (raiseN 170 a (setB F.BSN_ERR_SNP_TMO true d))) ?_ ⟨_, rfl, declared_limit (by decide) (by decide) (by decide) d⟩
    show execSnoopTimeout tag agent s = _
    simp only [execSnoopTimeout, runQ, show (getT s.dev tag.toNat).snps.find? (fun w => decide (w.agent = agent.toNat)) = _ from hw,
      show ¬ (w.waited < getF s.dev F.BSN_TMO_SNP_TMO) from Nat.not_lt.mpr ht, if_false]
    rfl
  · refine direct (e := declareDead t.r.agent.toNat 3 (raiseN 171 t.r.agent.toNat (setB F.BSN_ERR_PULL_TMO true d))) ?_
      ⟨_, rfl, declared_limit (by decide) (by decide) (by decide) d⟩
    refine congrArg (fun e => Host.Outcome.next { s with dev := e }) (if_neg ?_)
    rintro (h | h)
    · exact Option.isSome_iff_ne_none.mp hp h
    · exact absurd h (Nat.not_lt.mpr ht)
  · have via {c f} {E : Dev → Prop} (hc : exec c s = runQ (viaPort p.val f) s) (h : E (f n)) : runs c E :=
      quiet hc (by rw [show viaPort p.val f s.dev = f n from viaPort_eq hb _ _]; exact h)
    have hlock (hl : holdsLock d p.val = true) : holdsLock n p.val = true := (holdsLock_touch _ _ _).trans hl
    have hdead (h : isDead d a = true) : isDead n a = true := (isDead_touch _ _ _).trans h
    refine ⟨fun hl hd => ?_, fun hl hd hw hp hm => ?_, fun hl hd hw => ?_⟩
    · exact via (f := declareCmd p.val a) rfl (if_pos (hlock hl))
    · refine via (f := clearCmd p.val a) rfl ?_
      rw [clearCmd_clears (hlock hl) (hdead hd) ((walkEnded_touch _ _ _).trans hw)
        (hp.imp (fun h => (alone_touch _ _).trans h) fun h => by rw [show n.bsn = d.bsn from touch_bsn]; exact h) ((mirrors_touch _ _).trans hm)]
      refine ⟨isDead_markDead_false _ _, fun hin => ?_⟩
      obtain ⟨-, hne⟩ := List.mem_filter.mp (show a ∈ n.bsn.partnerWalk.filter _ from hin)
      simp at hne
    · refine via (f := clearCmd p.val a) rfl ?_
      rw [clearCmd_refused (hlock hl) (hdead hd) (hw.imp (fun h => (walkEnded_touch _ _ _).trans h)
        fun h => ⟨(alone_touch _ _).trans h.1, by rw [show n.bsn = d.bsn from touch_bsn]; exact h.2⟩)]
      refine ⟨flag_setB_at (by decide) _ _, ?_, (setB_bsn _ _ _).trans touch_bsn⟩
      unfold isDead getPair
      rw [getF_setB_apart (by decide), getF_setB_apart (by decide)]
      exact hdead hd
  · refine quiet (f := mirRecv 9 fun _ d => declIn a cause.toNat what.toNat d) rfl ⟨mirTaken 9 d, mirRecv_up hu _ _, ?_, ?_⟩
    · rw [mirTaken_twn]
    · exact mirTaken_keeps _ _ .bsn (by decide)
  · exact direct rfl rfl

end Sys2Proof
end

section
/-!
The near tier: tenures, pre-emption, merge windows, scrub, probes and repopulation (R169, R174-R179, R237, R240, R280, R432).
-/
namespace Sys2Proof.Machine
open Sys2Proof Sys2Proof.SMapLaws

/-! ## Weir (R175-R179) -/

theorem weirOf_onWeir (c : Nat) (f : WeirCh → WeirCh) (d : Dev) : weirOf (onWeir c f d) c = f (weirOf d c) := get_upd_same _ _ _ _
theorem weirOf_of_ntr {d e : Dev} (h : e.ntr = d.ntr) (c : Nat) : weirOf e c = weirOf d c := by unfold weirOf; rw [h]
theorem weirOf_count (i : Nat) (d : Dev) (c : Nat) : weirOf (count i d) c = weirOf d c := weirOf_of_ntr count_ntr c
theorem chUp_onWeir (c : Nat) (f : WeirCh → WeirCh) (d : Dev) (k : Nat) : chUp (onWeir c f d) k = chUp d k := rfl

/-- What a grant leaves (R176). -/
theorem weirGrant_some {c k cls r : Nat} {raised : BitVec 10} {d : Dev} (h : weirNext d c (weirOf d c) raised k = some (cls, r)) :
    weirOf (weirGrant c raised k d) c = { weirOf d c with
      raised := raised &&& ~~~(BitVec.ofNat 10 (2 ^ r)), granted := some r, lastOf := (weirOf d c).lastOf.put 9 cls r } ∧
    Safety.Keeps [.regs, .glb, .svc, .fab, .ntr, .obs] d (weirGrant c raised k d) := by
  simp only [weirGrant, h]
  exact ⟨by rw [weirOf_count, weirOf_onWeir], .step (count_keeps _ _) rfl ((onWeir_keeps _ _ _).mono rfl)⟩

theorem weirGrant_none {c k : Nat} {raised : BitVec 10} {d : Dev} (h : weirNext d c (weirOf d c) raised k = none) :
    weirGrant c raised k d = onWeir c (fun w => { w with raised := raised, granted := none }) d := by
  simp only [weirGrant, h]

section Tenure
variable {c : Nat} {a : NtAccess} {d : Dev} (hu : chUp d c = true)
include hu

/-- On a channel that no one holds the requests presented are decided at once (R176). -/
theorem tenureEnd_idle (hg : (weirOf d c).granted = none) (ht : (weirOf d c).taken.drop 1 = []) : tenureEnd c a d =
    weirGrant c ((weirOf d c).raised ||| a.raised) a.subWindow.val (onWeir c (fun w => { w with taken := w.taken.drop 1 }) d) := by
  simp only [tenureEnd, hu, hg, ht, chUp_onWeir, weirOf_onWeir, Bool.not_true, Bool.false_eq_true, ne_eq, not_true_eq_false, if_false]

theorem tenureEnd_granted {r : Nat} (hg : (weirOf d c).granted = some r) (hu' : chUp (tenureWork c r a d) c = true)
    (ht : (weirOf (tenureWork c r a d) c).taken = []) : tenureEnd c a d =
      weirGrant c ((weirOf (tenureWork c r a d) c).raised ||| a.raised) a.subWindow.val (tenureWork c r a d) := by
  simp only [tenureEnd, hu, hg, hu', ht, Bool.not_true, Bool.false_eq_true, ne_eq, not_true_eq_false, if_false]

end Tenure

/-- What a pre-empted tenure leaves (R179). -/
theorem preempt_spec (c m : Nat) (d : Dev) : (weirOf (preempt c m d) c).granted = none ∧ (weirOf (preempt c m d) c).taken = (weirOf d c).taken ∧
    ∀ r, (weirOf d c).granted = some r → m < (weirOf d c).left.get (tenureUnits r) r →
      (weirOf (preempt c m d) c).raised = (weirOf d c).raised ||| BitVec.ofNat 10 (2 ^ r) ∧
      (weirOf (preempt c m d) c).left.get 0 r = (weirOf d c).left.get (tenureUnits r) r - m := by
  cases hg : (weirOf d c).granted with
  | none =>
    simp only [preempt, hg]
    exact ⟨trivial, trivial, fun r hr => absurd hr (by simp)⟩
  | some q =>
    simp only [preempt, hg, weirOf_count, weirOf_onWeir]
    refine ⟨trivial, trivial, fun r hr hm => ?_⟩
    obtain rfl := Option.some.inj hr
    have hn : ¬ ((weirOf d c).left.get (tenureUnits q) q - m = 0) := by omega
    simp only [hn, if_false]
    exact ⟨trivial, get_insert_same _ _ _ _⟩

theorem refreshTakes_spec {c : Nat} {d : Dev} (hu : chUp d c = true) (m : Nat) :
    weirOf (refreshTakes c m d) c = { weirOf (preempt c m d) c with taken := false :: (weirOf d c).taken.filter fun x => x } := by
  obtain ⟨-, ht, -⟩ := preempt_spec c m d
  simp only [refreshTakes, hu, Bool.not_true, Bool.false_eq_true, if_false, weirOf_onWeir, weirOf_count, ht]

/-- The channel as the JTAG port holds it (R457). -/
def jtagHeld (c m : Nat) (d : Dev) : Dev :=
  raiseN 248 c (onWeir c (fun w => { w with taken := w.taken.filter (fun x => !x) ++ [true] }) (preempt c m d))

theorem jtagTakes_up {c : Nat} {d : Dev} (hu : chUp d c = true) (hj : d.glb.debugUnlocked = true) (m : Nat) :
    jtagTakes c m d = noteLine (fun d la => decide (lineChannel d la = some c)) (jtagHeld c m d) := by
  simp only [jtagTakes, jtagHeld, hu, hj, Bool.not_true, Bool.or_self, Bool.false_eq_true, if_false]

theorem jtagHeld_weir (c m : Nat) (d : Dev) :
    weirOf (jtagHeld c m d) c = { weirOf (preempt c m d) c with taken := (weirOf d c).taken.filter (fun x => !x) ++ [true] } := by
  obtain ⟨-, ht, -⟩ := preempt_spec c m d
  rw [jtagHeld, weirOf_of_ntr raiseN_ntr, weirOf_onWeir, ht]

/-! ## Merge windows (R169, R280) -/

section Merge
variable {la : Nat} {m : Merge} {d : Dev} (hm : mergeOf d la = some m) (ht : m.tick + getF d F.NTR_MERGE_WIN ≤ d.glb.tick)
  (hl : lostPending d la = false)
include hm ht hl

theorem mergeExpire_drains : mergeExpire la true d = mergeDrain la d := by
  simp only [mergeExpire, hm, hl, Nat.not_lt.mpr ht, Bool.false_eq_true, or_self, if_false, if_true]

theorem mergeExpire_fails : mergeExpire la false d = recoverDirty la 2 (setB F.SLU_ERR_LINE_TAG true (count 0x9000 d)) := by
  simp only [mergeExpire, hm, hl, Nat.not_lt.mpr ht, Bool.false_eq_true, or_self, if_false]

end Merge

/-! ## Scrub (R174) -/

/-- The scrubber at its first block (R174). -/
def scrubFirst (d : Dev) : Dev :=
  setB F.NTR_SCRUB_CTL_BUSY true (onNtr (fun n => { n with scrubNext := getF d F.NTR_SCRUB_FIRST_BLOCK, scrubCe := 0, scrubUe := 0, scrubRows := 0 }) d)

theorem scrubGo_starts {d : Dev} (hb : flag d F.NTR_SCRUB_CTL_BUSY = false) (hf : getF d F.NTR_SCRUB_FIRST_BLOCK ≤ getF d F.NTR_SCRUB_LAST_BLOCK) :
    scrubGo d = scrubRaise (scrubFirst d) := by
  simp only [scrubGo, hb, Nat.not_lt.mpr hf, Bool.false_eq_true, or_self, if_false]
  rfl

theorem scrubRaise_spec (d : Dev) : (scrubRaise d).ntr.scrubNext = d.ntr.scrubNext ∧ (scrubRaise d).ntr.scrubCe = d.ntr.scrubCe ∧
    (scrubRaise d).ntr.scrubUe = d.ntr.scrubUe ∧
    (weirOf (scrubRaise d) (blockPlace (scrubRaise d) (scrubRaise d).ntr.scrubNext).1).raised.getLsbD 7 = true := by
  refine ⟨rfl, rfl, rfl, ?_⟩
  have hp : (blockPlace (scrubRaise d) (scrubRaise d).ntr.scrubNext).1 = (blockPlace d d.ntr.scrubNext).1 := rfl
  rw [hp, scrubRaise, weirOf_onWeir, BitVec.getLsbD_or]
  simp

/-! ## Probes (R240) -/

/-- Two devices with one map: the region table and the translation state. -/
structure SameMap (d e : Dev) : Prop where
  fld : ∀ f : Fld, f.addr < 0x2000 → getF e f = getF d f
  xlt : e.xlt = d.xlt

namespace SameMap

theorem trans {a b c : Dev} (h : SameMap a b) (k : SameMap b c) : SameMap a c :=
  ⟨fun f hf => (k.fld f hf).trans (h.fld f hf), k.xlt.trans h.xlt⟩

theorem touch (p : Nat) (d : Dev) : SameMap d (touch p d) := ⟨fun _ _ => touch_getF, touch_xlt⟩

theorem setF {f : Fld} (h : 0x2000 ≤ f.addr) (v : Nat) (d : Dev) : SameMap d (setF f v d) :=
  ⟨fun _ hg => getF_setF_ne (by omega) _ _, rfl⟩

section
variable {d e : Dev} (h : SameMap d e)
include h

theorem flag {f : Fld} (hf : f.addr < 0x2000) : flag e f = flag d f := by unfold Machine.flag; rw [h.fld f hf]

theorem ordinalOf (leaf : Nat) : ordinalOf e leaf = ordinalOf d leaf := by
  have hv (r : Nat) (hr : r < 64) : Machine.flag e (F.GLB_RGN_CTL_VALID r) = Machine.flag d (F.GLB_RGN_CTL_VALID r) :=
    h.flag (by simp only [F.GLB_RGN_CTL_VALID]; omega)
  have hf (r : Nat) (hr : r < 64) : getF e (F.GLB_RGN_FIRST_SEG r) = getF d (F.GLB_RGN_FIRST_SEG r) :=
    h.fld _ (by simp only [F.GLB_RGN_FIRST_SEG]; omega)
  have hn (r : Nat) (hr : r < 64) : getF e (F.GLB_RGN_NSEG_SEG r) = getF d (F.GLB_RGN_NSEG_SEG r) :=
    h.fld _ (by simp only [F.GLB_RGN_NSEG_SEG]; omega)
  have hr : regionOf e (segOfLeaf leaf) = regionOf d (segOfLeaf leaf) := by
    unfold regionOf
    refine List.find?_congr fun r hr => ?_
    have hr := List.mem_range.mp hr
    rw [hv r hr, hf r hr, hn r hr]
  unfold Machine.ordinalOf
  rw [hr]
  refine Option.map_congr fun r hr => ?_
  have hr64 : r < 64 := List.mem_range.mp (List.mem_of_find?_eq_some hr)
  unfold ordinalIn
  rw [hf r hr64, List.filter_congr fun q hq => hv q ((List.mem_range.mp hq).trans hr64)]
  congr 2
  refine List.map_congr_left fun q hq => hn q ?_
  exact (List.mem_range.mp (List.mem_of_mem_filter hq)).trans hr64

theorem segOf (leaf : Nat) : segOf e leaf = segOf d leaf := by unfold Machine.segOf; rw [h.ordinalOf, h.xlt]
theorem neverWritten (leaf : Nat) : neverWritten e leaf = neverWritten d leaf := by unfold Machine.neverWritten; rw [h.segOf, h.xlt]
theorem mapCached (leaf : Nat) : mapCached e leaf = mapCached d leaf := by unfold Machine.mapCached; rw [h.ordinalOf, h.xlt]

end
end SameMap

/-- What a probe shows, given the device whose map it reads (R240). -/
theorem probe_spec {n d : Dev} (h : SameMap n d) {l : Nat} (hl : getPair F.XLT_PROBE_LEAF_LO_LEAF F.XLT_PROBE_LEAF_HI_LEAF d = l) :
    flag (probe d) F.XLT_PROBE_PA_HI_DONE = true ∧ flag (probe d) F.XLT_PROBE_PA_HI_MISS = (!mapCached n l && !neverWritten n l) ∧
      flag (probe d) F.XLT_PROBE_PA_HI_ZERO = neverWritten n l ∧ flag (probe d) F.XLT_PROBE_PA_HI_REBUILD = (segOf n l).rebuild ∧
      getF (probe d) F.XLT_PROBE_PA_LO_PADDR = (n.xlt.map.get sentinel l).toNat % 2 ^ 32 := by
  unfold probe
  extract_lets leaf miss pa d1 d2
  have h1 : SameMap n d1 := (h.trans (.setF (by decide) _ _)).trans (.setF (by decide) _ _)
  have hleaf : leaf = l := hl
  refine ⟨?_, ?_, ?_, ?_, ?_⟩
  · rw [flag_setB_apart (by decide), flag_setB_at (by decide)]
  · rw [flag_setB_at (by decide), ← h.mapCached, ← h.neverWritten, ← hleaf]
  · rw [flag_setB_apart (by decide), flag_setB_apart (by decide), flag_setB_at (by decide), h1.neverWritten, hleaf]
  · rw [flag_setB_apart (by decide), flag_setB_apart (by decide), flag_setB_apart (by decide), flag_setB_at (by decide), h1.segOf, hleaf]
  · rw [getF_setB_apart (by decide), getF_setB_apart (by decide), getF_setB_apart (by decide), getF_setB_apart (by decide),
      getF_setF_same _ _ _ (by decide) (by decide), ← h.xlt, ← hleaf]
    rfl

theorem probe_keeps_regs (d : Dev) : Safety.Keeps [.regs, .plain] d (probe d) := by
  unfold probe
  extract_lets leaf miss pa d1 d2
  exact .step (setB_keeps _ _ _) rfl (.step (setB_keeps _ _ _) rfl (.step (setB_keeps _ _ _) rfl (.step (setB_keeps _ _ _) rfl
    (.step (setF_keeps _ _ _) rfl ((setF_keeps _ _ _).mono rfl)))))

/-! ## Repopulation (R237, R432) -/

theorem repopFetch_installs {x leaf : Nat} {d y : Dev} (h1 : d.xlt.repop = some x) (h2 : getF d F.SPR_REPOP_GBPS ≠ 0)
    (h3 : 4096 ≤ d.xlt.repopRoom) (h4 : 2 * (dirtyLeafList d).length < capLeaves d) (h5 : dieOfLeaf d leaf = x)
    (h6 : (segOf d leaf).rebuild = true) (hy : allocFrame leaf d = some y) (poison : Word64) (lines : List Line) : repopFetch x leaf poison lines d =
      installLines leaf poison lines true (onXlt (fun x => { x with repopRoom := x.repopRoom - 4096 }) y) := by
  simp only [repopFetch, h1, h2, Nat.not_lt.mpr h3, Nat.not_le.mpr h4, h5, h6, hy, Bool.not_true, Bool.false_eq_true, ne_eq, not_true_eq_false,
    or_self, if_false]

end Sys2Proof.Machine

namespace Sys2Proof
open Sys2Proof.Machine

/-- Settles O51. -/
theorem nearTierWork : Obligations.NearTierWork := by
  intro ch acc x laddr tagOk p die leaf poison lines v s d c w awake n u holds runs
  have quiet {c f} {E : Dev → Prop} (hc : exec c s = runQ f s) (h : E (f s.dev)) : runs c E := ⟨_, f s.dev, hc, rfl, .inl rfl, h⟩
  have whole {c f} {E : Dev → Prop} (hc : exec c s = run f s) (h : E (f s.dev)) : runs c E := ⟨_, f s.dev, hc, rfl, .inr rfl, h⟩
  have held {e taken} (he : weirOf e x.ch.val = { weirOf (preempt x.ch.val x.moved.val d) x.ch.val with taken := taken }) : holds taken e := by
    obtain ⟨hg, -, hr⟩ := preempt_spec x.ch.val x.moved.val d
    show (weirOf e x.ch.val).granted = none ∧ _
    rw [he]
    exact ⟨hg, rfl, hr⟩
  clear_value runs holds
  refine ⟨fun hu => ⟨fun hg ht => ?_, fun r hg => ?_⟩, fun hu => ⟨?_, fun hj => ?_⟩, fun m hm ht hl => ⟨fun hk => ?_, fun hk => ?_⟩,
    fun hb => ?_, fun y h1 h2 h3 h4 h5 h6 hy => ?_⟩
  · intro y
    have he : tenureEnd c acc s.dev = weirGrant c (w.raised ||| acc.raised) acc.subWindow.val y := tenureEnd_idle hu hg ht
    have hy : weirOf y c = { w with taken := w.taken.drop 1 } := weirOf_onWeir _ _ _
    refine ⟨fun k r hn => ?_, fun hn => ?_⟩
    · obtain ⟨hw, hk⟩ := weirGrant_some hn
      refine whole (f := tenureEnd c acc) rfl ?_
      rw [he, hw]
      exact ⟨rfl, rfl, by rw [hy]; exact ht, .step hk rfl ((onWeir_keeps _ _ _).mono rfl)⟩
    · refine whole (f := tenureEnd c acc) rfl ?_
      rw [he, weirGrant_none hn, weirOf_onWeir]
      exact ⟨rfl, rfl, .step (onWeir_keeps _ _ _) rfl (onWeir_keeps _ _ _)⟩
  · intro y hu' ht
    exact whole (f := tenureEnd c acc) rfl (tenureEnd_granted hu hg hu' ht)
  · exact quiet (f := refreshTakes x.ch.val x.moved.val) rfl (held (refreshTakes_spec hu _))
  · refine quiet (f := jtagTakes x.ch.val x.moved.val) rfl ⟨jtagHeld x.ch.val x.moved.val d, jtagTakes_up hu hj _, held (jtagHeld_weir _ _ _), ?_⟩
    exact raiseN_pending _ _ _ (by decide) (.inl rfl)
  · subst hk
    exact quiet (f := mergeExpire laddr.toNat true) rfl (mergeExpire_drains hm ht hl)
  · subst hk
    exact quiet (f := mergeExpire laddr.toNat false) rfl ⟨_, mergeExpire_fails hm ht hl, flag_setB_at (by decide) _ _,
      (setB_ntr _ _ _).trans count_ntr⟩
  · have via {c f} {E : Dev → Prop} (hc : exec c s = runQ (viaPort p.val f) s) (h : E (f n)) : runs c E :=
      quiet hc (by rw [show viaPort p.val f s.dev = f n from viaPort_eq hb _ _]; exact h)
    refine ⟨fun hbusy hf => ?_, fun hr => ?_, ?_⟩
    · refine via (f := scrubGo) rfl ?_
      obtain ⟨h1, h2, h3, h4⟩ := scrubRaise_spec (scrubFirst n)
      rw [scrubGo_starts hbusy hf]
      exact ⟨flag_setB_at (by decide) _ _, h1, h2, h3, h4⟩
    · refine via (f := scrubGo) rfl ?_
      rw [show scrubGo n = setB F.NTR_SCRUB_CTL_ERR true n from if_pos hr]
      exact ⟨flag_setB_at (by decide) _ _, (setB_ntr _ _ _).trans touch_ntr⟩
    · refine via (f := fun d => probe (setF F.XLT_PROBE_LEAF_HI_LEAF v.toNat d)) rfl ?_
      obtain ⟨h1, h2, h3, h4, h5⟩ := probe_spec (n := d) (d := setF F.XLT_PROBE_LEAF_HI_LEAF v.toNat n)
        (.trans (.touch _ _) (.setF (by decide) _ _)) rfl
      exact ⟨h1, h2, h3, h4, h5, .step (probe_keeps_regs _) rfl (.step (setF_keeps _ _ _) rfl ((touch_keeps _ _).mono rfl))⟩
  · exact quiet (f := repopFetch die.toNat leaf.toNat poison lines) rfl (repopFetch_installs h1 h2 h3 h4 h5 h6 hy _ _)

end Sys2Proof
end

section
/-!
The Sluice: the re-key walk, entropy, the tree-walk cache, MAC pages and the quiesce (R275, R281-R291, R360).
-/
namespace Sys2Proof.Machine
open Sys2Proof Sys2Proof.SMapLaws

/-! ## The re-key walk (R282, R283) -/

theorem keyNamed_setF {f : Fld} (h : 0x2000 ≤ f.addr) (v : Nat) (d : Dev) (id : Nat) : keyNamed (setF f v d) id = keyNamed d id := by
  have hm := SameMap.setF h v d
  unfold keyNamed
  refine Bool.eq_iff_iff.mpr ?_
  simp only [List.any_eq_true, List.mem_range]
  refine exists_congr fun r => and_congr_right fun hr => ?_
  rw [hm.flag (by simp only [F.GLB_RGN_CTL_VALID]; omega), hm.fld _ (by simp only [F.GLB_RGN_CTL_KEYID]; omega)]

/-- A key ID is FREE, its key gone (R255, R283). -/
def keyReleased (id : Nat) (d : Dev) : Dev :=
  onSlu (fun s => { s with keys := s.keys.put none id none, keyState := s.keyState.put .free id .free }) d

theorem keyReleased_flag (id : Nat) (d : Dev) (f : Fld) : flag (keyReleased id d) f = flag d f := rfl

theorem keyReleased_slu (id : Nat) (d : Dev) : (keyReleased id d).slu.keys.get none id = none ∧ (keyReleased id d).slu.keyState.get .free id = .free :=
  ⟨get_put_same none d.slu.keys id none, get_put_same KeySt.free d.slu.keyState id KeySt.free⟩

section Rekey
variable {d : Dev} (hc : regionEnd d (getF d F.SLU_REKEY_REGION) ≤ cursor d)
include hc

theorem rekeyMove_atEnd (n : Nat) : rekeyMove n d = d := by
  cases n with
  | zero => rfl
  | succ n => exact if_pos hc

variable (hp : getF d F.SLU_REKEY_PEND_COUNT = 0)
include hp

/-- A walk at its end releases the old key (R283). -/
theorem rekeyEnd_releases (hb : flag d F.SLU_REKEY_BLOCKED = false) (hn : keyNamed d (getF d F.SLU_REKEY_OLD) = false) : rekeyEnd d =
    raiseN 360 (getF d F.SLU_REKEY_OLD) (keyReleased (getF d F.SLU_REKEY_OLD) (setB F.SLU_REKEY_BUSY false d)) := by
  have hb' : flag (setB F.SLU_REKEY_BUSY false d) F.SLU_REKEY_BLOCKED = false := by rw [flag_setB_apart (by decide), hb]
  have hn' : keyNamed (setB F.SLU_REKEY_BUSY false d) (getF d F.SLU_REKEY_OLD) = false := by rw [setB, keyNamed_setF (by decide), hn]
  simp only [rekeyEnd, Nat.not_lt.mpr hc, hp, hb', hn', Bool.false_eq_true, ne_eq, not_true_eq_false, or_self, if_false]
  rfl

theorem rekeyEnd_blocked (hb : flag d F.SLU_REKEY_BLOCKED = true) : rekeyEnd d =
    raiseN 361 (getF d F.SLU_REKEY_OLD) (setB F.SLU_ERR_REKEY_BLOCKED true (setB F.SLU_REKEY_BUSY false d)) := by
  have hb' : flag (setB F.SLU_REKEY_BUSY false d) F.SLU_REKEY_BLOCKED = true := by rw [flag_setB_apart (by decide), hb]
  simp only [rekeyEnd, Nat.not_lt.mpr hc, hp, hb', ne_eq, not_true_eq_false, or_self, if_false, if_true]

end Rekey

theorem entropyFails_spec (d : Dev) : flag (entropyFails d) F.SLU_ENT_HEALTH_OK = false ∧ flag (entropyFails d) F.SLU_ENT_FAIL = true ∧
    Safety.pending (entropyFails d) 363 = true := by
  unfold entropyFails
  refine ⟨?_, ?_, raiseN_pending _ _ _ (by decide) (.inl rfl)⟩
  · rw [raiseN_flag (by decide), flag_setB_apart (by decide), flag_setB_at (by decide)]
  · rw [raiseN_flag (by decide), flag_setB_at (by decide)]

/-! ## MAC pages (R286-R289) -/

theorem macPage_of_slu {d e : Dev} (h : e.slu = d.slu) (k : Nat) : macPage e k = macPage d k := by unfold macPage; rw [h]
theorem macPage_count (i : Nat) (d : Dev) (k : Nat) : macPage (count i d) k = macPage d k := macPage_of_slu count_slu k

/-- The device as an access through a page finds it (R286). -/
def pageVia (g : Nat) (d : Dev) : Dev := if g < 64 then d else touch (g - 64) d

theorem macPage_pageVia (g : Nat) (d : Dev) (k : Nat) : macPage (pageVia g d) k = macPage d k := by
  unfold pageVia
  split
  · rfl
  · exact macPage_of_slu touch_slu k

theorem viaPage_reaches {g : Nat} {d : Dev} (h : if g < 64 then serves d = true else d.glb.base ∉ [Base.off, .sequencing, .withdrawn])
    (f : Dev → Dev) : viaPage g f d = f (pageVia g d) := by
  unfold viaPage pageVia
  split
  next hg => rw [if_pos hg] at h; exact if_pos h
  next hg => rw [if_neg hg] at h; exact viaPort_eq h _ _

/-- A failed step (R289). -/
theorem macPage_macFail (g k : Nat) (d : Dev) : macPage (macFail g k d) g = { macPage d g with
    isOpen := false, acc := [], rekeyed := false, result := 0, done := true, err := BitVec.ofNat 4 k } := by
  unfold macFail
  rw [macPage_of_slu raiseOnce_slu, macPage_onPage_same]

/-- The bytes of a step (R288). -/
def stepBytes (m : MacPage) (len : Nat) : List (BitVec 8) := (List.range len).map fun i => m.msg.get 0 i

section Step
variable {g len : Nat} {d : Dev}

theorem macStep_fails {k : Nat} {first last : Bool} (hc : macCauses (macPage d g) len first last = [k]) :
    macStep g len first last d = macFail g k (count (0x900E + g) d) := by
  simp only [macStep, macPage_count, hc, List.length_singleton, ne_eq, reduceCtorEq, not_false_eq_true, if_true, Nat.mod_one, List.getD_cons_zero]

theorem macStep_goes {first : Bool} (hc : macCauses (macPage d g) len first false = []) : macPage (macStep g len first false d) g =
    { macPage d g with isOpen := true, done := false, err := 0
                       acc := (if first then [] else (macPage d g).acc) ++ stepBytes (macPage d g) len
                       total := ((if first then [] else (macPage d g).acc) ++ stepBytes (macPage d g) len).length
                       rekeyed := (macPage d g).rekeyed && !first } := by
  simp only [macStep, macPage_count, hc, ne_eq, not_true_eq_false, if_false, Bool.not_false, if_true]
  rw [macPage_onPage_same, macPage_count]
  rfl

theorem macStep_ends {first : Bool} (hc : macCauses (macPage d g) len first true = []) (hr : first = false → (macPage d g).rekeyed = false) :
    (macPage (macStep g len first true d) g).isOpen = false ∧ (macPage (macStep g len first true d) g).done = true ∧
      (macPage (macStep g len first true d) g).err = 0 ∧ (macPage (macStep g len first true d) g).result =
        cmac (macPage d g).key ((if first then [] else (macPage d g).acc) ++ stepBytes (macPage d g) len) := by
  have hk : ((macPage d g).rekeyed && !first) = false := by
    cases first with
    | true => exact Bool.and_false _
    | false => rw [hr rfl]; rfl
  simp only [macStep, macPage_count, hc, ne_eq, not_true_eq_false, if_false, Bool.not_true, Bool.false_eq_true, macPage_onPage_same, hk]
  exact ⟨trivial, trivial, trivial, rfl⟩

end Step

/-! ## A request in the MAC window (R286) -/

theorem macWindowRequest_turn {port : Nat} {r : Req} {q : ReqEnt} {d : Dev} (hq : reqOf d port r.agent r.tag = some q)
    (hw : inMacWindow d q.r = true) (ho : q.r.op ≠ 10) (hs : serves d = true) (hd : d.twn.draining = false) (hh : streamHolds d q = false)
    (hb : barrierHolds d q.order r.agent.toNat = false) (hp : r.agent.toNat ∉ d.bsn.departed) (hr : q.r.reissue = false) (mask : Word64) (v : Line) :
    macWindowRequest port r mask v d = macRequest q mask v d := by
  simp only [macWindowRequest, hq, hw, ho, hs, hd, hh, hb, hp, hr, decide_false, Bool.not_true, Bool.or_self, Bool.false_and, Bool.false_eq_true,
    if_false]

/-! ## The quiesce (R360) -/

theorem quiesceEnd_phase {d : Dev} (hb : d.glb.base = .shutdown) (h1 : getF d F.PWR_STS_SPW = 1) (hp : flag d F.PWR_STS_PAUSED = false)
    (hs : alone d = true ∨ (d.bsn.txns.any fun e => e.2.phase == .sent) = false) : getF (quiesceEnd d) F.PWR_STS_SPW = 2 := by
  have hn : ¬ ((!alone d) = true ∧ (d.bsn.txns.any fun e => e.2.phase == .sent) = true) := by
    rintro ⟨h2, h3⟩
    rcases hs with h | h
    · rw [h] at h2; cases h2
    · rw [h] at h3; cases h3
  simp only [quiesceEnd, hb, h1, hp, hn, Bool.false_eq_true, ne_eq, not_true_eq_false, or_self, if_false]
  exact getF_setF_fits (by decide) (by decide) _

end Sys2Proof.Machine

namespace Sys2Proof
open Sys2Proof.Machine

/-- Settles O52. -/
theorem sluiceWork : Obligations.SluiceWork := by
  intro p page idx key mask len first port r data s d g m reach old part runs
  have quiet {c f} {E : Dev → Prop} (hc : exec c s = runQ f s) (h : E (f s.dev)) : runs c E := ⟨_, f s.dev, hc, rfl, .inl rfl, h⟩
  have whole {c f} {E : Dev → Prop} (hc : exec c s = run f s) (h : E (f s.dev)) : runs c E := ⟨_, f s.dev, hc, rfl, .inr rfl, h⟩
  clear_value runs
  refine ⟨fun hb => ⟨?_, fun hc hp => ⟨fun hbl hn => ?_, fun hbl => ?_⟩⟩, ?_, fun hb => ?_, fun hreach => ?_,
    fun q hq hw ho hs hd hh hba hdp hr => ?_, fun hb h1 hpa hs => ?_⟩
  · exact quiet (f := rekeyWalkStep) rfl (if_pos hb)
  · refine quiet (f := rekeyWalkStep) rfl ?_
    rw [show rekeyWalkStep s.dev = _ from if_pos hb, rekeyMove_atEnd (d := s.dev) hc, rekeyEnd_releases (d := s.dev) hc hp hbl hn]
    refine ⟨?_, ?_, ?_, raiseN_pending _ _ _ (by decide) (.inl rfl)⟩
    · rw [raiseN_flag (by decide), keyReleased_flag, flag_setB_at (by decide)]
    · rw [raiseN_slu]
      exact (keyReleased_slu _ _).1
    · rw [raiseN_slu]
      exact (keyReleased_slu _ _).2
  · refine quiet (f := rekeyWalkStep) rfl ?_
    rw [show rekeyWalkStep s.dev = _ from if_pos hb, rekeyMove_atEnd (d := s.dev) hc, rekeyEnd_blocked (d := s.dev) hc hp hbl]
    refine ⟨?_, ?_, raiseN_slu.trans ((setB_slu _ _ _).trans (setB_slu _ _ _)), raiseN_pending _ _ _ (by decide) (.inl rfl)⟩
    · rw [raiseN_flag (by decide), flag_setB_apart (by decide), flag_setB_at (by decide)]
    · rw [raiseN_flag (by decide), flag_setB_at (by decide)]
  · exact quiet (f := entropyFails) rfl (entropyFails_spec _)
  · refine quiet (f := viaPort p.val wcInvalidate) rfl ?_
    rw [viaPort_eq hb]
    rfl
  · have via {c f} {E : Dev → Prop} (hc : exec c s = runQ (viaPage g f) s) (h : E (f (pageVia g d))) : runs c E :=
      quiet hc (by rw [show viaPage g f s.dev = _ from viaPage_reaches hreach _]; exact h)
    have hm : macPage (pageVia g d) g = m := macPage_pageVia _ _ _
    have steps {c last} {E : Dev → Prop} (f : Bool) (hc : exec c s = runQ (viaPage g (macStep g len.toNat f last)) s)
        (h : E (macStep g len.toNat f last (pageVia g d))) : runs c E := via hc h
    have ends (hc : macCauses m len.toNat first true = []) (hr : first = false → m.rekeyed = false) := macStep_ends (g := g) (d := pageVia g d)
      (by rw [hm]; exact hc) (by rw [hm]; exact hr)
    rw [hm] at ends
    refine ⟨fun hg hk => ?_, fun hg hk => ?_, fun hg => ?_, fun hc => ?_, fun hc => ?_, fun hc hr c hcm => ?_, fun k last hc c hcm => ?_, ?_⟩
    · refine via (f := fun d => if g < 64 then macKeyAgent g key mask d else macKeyWord g idx.toNat (BitVec.ofNat 32 key.toNat) d) rfl ?_
      rw [if_pos hg, macKeyAgent, if_pos hk, macKeyed, macPage_onPage_same]
      exact ⟨rfl, rfl, fun k hne => (macPage_onPage_ne hne _ _).trans (macPage_pageVia _ _ _)⟩
    · refine via (f := fun d => if g < 64 then macKeyAgent g key mask d else macKeyWord g idx.toNat (BitVec.ofNat 32 key.toNat) d) rfl ?_
      rw [if_pos hg, macKeyAgent, if_neg hk, macPage_macFail, macPage_onPage_same]
      exact ⟨rfl, rfl, rfl, rfl⟩
    · refine via (f := fun d => if g < 64 then macKeyAgent g key mask d else macKeyWord g idx.toNat (BitVec.ofNat 32 key.toNat) d) rfl ?_
      rw [if_neg (Nat.not_lt.mpr hg), macKeyWord, macPage_onPage_same, hm]
      exact ⟨rfl, fun k hne => (macPage_onPage_ne hne _ _).trans (macPage_pageVia _ _ _)⟩
    · refine steps true rfl ?_
      rw [macStep_goes (by rw [hm]; exact hc), hm]
      exact ⟨rfl, rfl, rfl, rfl⟩
    · refine steps false rfl ?_
      rw [macStep_goes (by rw [hm]; exact hc), hm]
      exact ⟨rfl, rfl, rfl, rfl⟩
    · have he := ends hc hr
      cases first with
      | true =>
        simp only [if_true, List.mem_cons, List.not_mem_nil, or_false] at hcm
        rcases hcm with rfl | rfl
        · exact steps true rfl he
        · exact steps true rfl he
      | false =>
        obtain rfl := List.mem_singleton.mp hcm
        exact steps false rfl he
    · have he : (macPage (macStep g len.toNat first last (pageVia g d)) g).isOpen = false ∧
          (macPage (macStep g len.toNat first last (pageVia g d)) g).done = true ∧
          (macPage (macStep g len.toNat first last (pageVia g d)) g).err = BitVec.ofNat 4 k ∧
          (macPage (macStep g len.toNat first last (pageVia g d)) g).result = 0 := by
        rw [macStep_fails (k := k) (by rw [hm]; exact hc), macPage_macFail]
        exact ⟨rfl, rfl, rfl, rfl⟩
      cases last with
      | true =>
        obtain rfl := List.mem_singleton.mp hcm
        exact steps first rfl he
      | false =>
        cases first with
        | true =>
          obtain rfl := List.mem_singleton.mp hcm
          exact steps true rfl he
        | false =>
          obtain rfl := List.mem_singleton.mp hcm
          exact steps false rfl he
    · refine via (f := macKeyClr g) rfl ?_
      rw [macKeyClr, macPage_onPage_same]
      exact ⟨rfl, rfl, rfl, fun k hne => (macPage_onPage_ne hne _ _).trans ((macPage_count _ _ _).trans (macPage_pageVia _ _ _))⟩
  · exact quiet (f := macWindowRequest port.val r mask data) rfl (macWindowRequest_turn hq hw ho hs hd hh hba hdp hr _ _)
  · exact whole (f := quiesceEnd) rfl (quiesceEnd_phase hb h1 hpa hs)

end Sys2Proof
end

section
/-!
Messages of the mirror link while it is up (R16, R40, R42, R115, R130, R222, R295-R299, R312).
-/
namespace Sys2Proof.Machine
open Sys2Proof Sys2Proof.SMapLaws

theorem mirTaken_quiet (cls : Nat) (d : Dev) : Quiet d (mirTaken cls d) := by
  unfold mirTaken whenD
  split
  · exact (onTwn_quiet _ _).trans (count_quiet _ _)
  · exact onTwn_quiet _ _

theorem mirTaken_glbRest (cls : Nat) (d : Dev) : glbRest (mirTaken cls d) = glbRest d := by
  unfold mirTaken whenD
  split
  · rw [count_glbRest]
    rfl
  · rfl

theorem mirTaken_sch (cls : Nat) (d : Dev) : (mirTaken cls d).sch = d.sch := mirTaken_keeps _ _ .sch (by decide)

theorem mirTaken_flag_target (cls : Nat) (d : Dev) : flag (mirTaken cls d) F.TWN_STS_TARGET = flag d F.TWN_STS_TARGET :=
  (mirTaken_quiet _ _).flag (by decide)

/-! ## ACK (R115, R297) -/

/-- A transaction as an ACK up to a SEQ leaves it (R115). -/
def ackedTo (seq : Nat) (t : Txn) : Txn :=
  if t.seq.any fun k => decide (k ≤ seq) then { t with acked := t.phase == .sent, lossOut := false } else t

theorem ackTo_eq (seq : Nat) (d : Dev) :
    ackTo seq d = commitSweep (onBsn (fun b => { b with txns := b.txns.map fun e => (e.1, ackedTo seq e.2) }) d) := by
  unfold ackTo
  refine congrArg (fun f => commitSweep (onBsn (fun b => { b with txns := b.txns.map f }) d)) (funext fun e => congrArg (Prod.mk e.1) ?_)
  obtain ⟨k, t⟩ := e
  unfold ackedTo
  refine if_congr (iff_of_eq (congrArg (· = true) ?_)) rfl rfl
  dsimp only
  cases t.seq with
  | none => rfl
  | some n => rfl

/-! ## Claims and windows (R40, R42) -/

theorem claimTick_mirTaken (cls : Nat) (d : Dev) (ch n : Nat) : claimTick (mirTaken cls d) ch n = claimTick d ch n := by
  have hi : img (mirTaken cls d) = img d := img_of_glbRest (mirTaken_glbRest _ _)
  have ht := (mirTaken_quiet cls d).tick
  have ho : getF (mirTaken cls d) F.SCH_POS_OFS_OFS = getF d F.SCH_POS_OFS_OFS := (mirTaken_quiet cls d).fld _ (by decide)
  unfold claimTick periodOf spos sposAt
  rw [hi, ht, ho]

theorem claim_void {c : Claim} {d : Dev} (h : claimTick d c.channel.toNat c.window.toNat = none) : claim c d = claimVoid c d := by
  unfold claim
  simp only [h, Option.isNone_none, Bool.true_or, if_true]

section Void
variable {ch n : Nat} {w : Window} {d : Dev}
  (hw : d.sch.windows.find? (fun w => !w.own && decide (w.ch = ch) && decide (w.n = n)) = some w)
include hw

/-- The device without a window that its VOID gave back (R40). -/
def windowBack (w : Window) (d : Dev) : Dev :=
  onSch (fun x => { x with windows := x.windows.filter fun y => y ≠ w, freed := x.freed ++ [(w.own, w.ch, w.issue)] }) d

theorem void_releases : void ch n true d =
    onT w.htag (fun t => { t with case_ := if t.case_ = 7 then 3 else if t.case_ = 2 then 1 else t.case_ }) (windowBack w d) := by
  simp only [void, hw, if_true]
  rfl

theorem void_rebinds : ∃ y two, void ch n false d = rebindRead w.htag false two w.second y := by
  simp only [void, hw, Bool.false_eq_true, if_false]
  exact ⟨_, _, rfl⟩

end Void

/-! ## Ways (R130, R299, R312) -/

theorem sfway_target {d : Dev} (h : flag d F.TWN_STS_TARGET = true) (set way : Nat) (b : BitVec 228) : sfway set way b d =
    if (wayOfBits b).v then putWay (leafHomeB (sectorOf set (wayOfBits b) / 4) == roleB d) set way (wayOfBits b) d else d := by
  simp only [sfway, h, if_true]

theorem sfway_asked {d : Dev} (h : flag d F.TWN_STS_TARGET = false) {set way : Nat} {q : LReq}
    (hq : d.twn.lreqs.find? (fun q => decide (2 ≤ q.kind) && decide (q.set = set) && decide (q.way = way)) = some q) (b : BitVec 228) :
    ∃ y, y.twn.lreqs = d.twn.lreqs.filter (fun x => decide (x ≠ q)) ∧
      sfway set way b d = if q.kind = 2 then wayBack set (wayOfBits b) y else putWay false set way (wayOfBits b) y := by
  refine ⟨onTwn (fun t => { t with lreqs := t.lreqs.filter fun x => x ≠ q }) d, rfl, ?_⟩
  simp only [sfway, h, hq, Bool.false_eq_true, if_false]

/-- What a message that carries a leaf does, by its use (R295). -/
def leafMsg (leaf : BitVec 40) (use : BitVec 2) (poison : Word64) (lines : List Line) (ok : Bool) (n : Nat) (d : Dev) : Dev :=
  if use = 2 then (if flag d F.TWN_STS_TARGET && ok then stream (.leaf leaf 2 poison lines) n d else d)
  else if use = 1 then copySource leaf.toNat poison lines ok d
  else if use = 0 then leafIn leaf.toNat poison lines ok d else d

end Sys2Proof.Machine

namespace Sys2Proof
open Sys2Proof.Machine

/-- Settles O53. -/
theorem mirrorMessages : Obligations.MirrorMessages := by
  intro recs leaf wl seq cl channel window release use kind poison lines ok line set way entry cidx s d n got runs does hu
  have quiet {c f} {E : Dev → Prop} (hc : exec c s = runQ f s) (h : E (f s.dev)) : runs c E := ⟨_, f s.dev, hc, rfl, .inl rfl, h⟩
  have takes {c cls k} {E : Dev → Prop} (hc : exec c s = runQ (mirRecv cls k) s) (h : E (k n (mirTaken cls d))) : runs c E :=
    quiet hc (by rw [show mirRecv cls k s.dev = _ from mirRecv_up hu _ _]; exact h)
  have taken (cls : Nat) : got (mirTaken cls d) :=
    ⟨by rw [mirTaken_twn], by rw [mirTaken_twn], by rw [mirTaken_twn], (mirTaken_keeps _ _).mono rfl⟩
  have acts {c cls k} {f : Dev → Dev} (hc : exec c s = runQ (mirRecv cls k) s) (h : k n (mirTaken cls d) = f (mirTaken cls d)) : does c f :=
    takes hc ⟨_, taken cls, h⟩
  clear_value runs does got
  have htgt (b : Bool) (h : flag d F.TWN_STS_TARGET = b) (cls : Nat) : flag (mirTaken cls d) F.TWN_STS_TARGET = b :=
    (mirTaken_flag_target _ _).trans h
  refine ⟨?_, ?_, ?_, ?_, ?_, ?_, ?_, fun hc => ?_, fun w hw => ⟨?_, ?_⟩, ?_, ?_, ?_, fun ht q hq => ?_, fun ht => ?_⟩
  · exact acts (k := fun n d => stream (.upd recs) n d) rfl rfl
  · exact acts (k := fun n d => stream (.wmir leaf wl) n d) rfl rfl
  · exact acts (k := fun n d => stream (.retire cidx) n d) rfl rfl
  · exact acts (k := fun n d => stream (.lreq kind leaf line set way) n d) rfl rfl
  · exact acts (k := fun _ d => d) rfl rfl
  · refine takes (k := fun _ d => ackTo seq.toNat d) rfl ⟨_, ackTo_eq _ _, ?_⟩
    show (mirTaken 3 d).bsn.txns.map _ = _
    rw [mirTaken_keeps 3 d .bsn (by decide)]
    refine List.map_congr_left fun x _ => ?_
    unfold ackedTo
    split
    · rfl
    · rfl
  · exact acts (k := fun _ d => claim cl d) rfl rfl
  · refine takes (k := fun _ d => claim cl d) rfl ?_
    rw [claim_void ((claimTick_mirTaken _ _ _ _).trans hc), claimVoid]
    exact ⟨raiseN_pending _ _ _ (by decide) (.inl rfl), by rw [raiseN_sch, mirSend_sch, mirTaken_sch]⟩
  · rintro rfl
    refine takes (k := fun _ d => void channel.toNat window.toNat true d) rfl ?_
    rw [void_releases (w := w) (by rw [mirTaken_sch]; exact hw), onT_sch]
    refine ⟨?_, ?_⟩
    · show (mirTaken 5 d).sch.windows.filter _ = _
      rw [mirTaken_sch]
    · show (mirTaken 5 d).sch.freed ++ _ = _
      rw [mirTaken_sch]
  · rintro rfl
    exact takes (k := fun _ d => void channel.toNat window.toNat false d) rfl (void_rebinds (w := w) (by rw [mirTaken_sch]; exact hw))
  · rintro rfl ht rfl
    refine acts (k := fun n d => leafMsg leaf 2 poison lines true n d) rfl ?_
    refine if_pos (c := (flag (mirTaken 6 d) F.TWN_STS_TARGET && true) = true) ?_
    rw [htgt true ht]
    rfl
  · rintro rfl
    exact acts (k := fun n d => leafMsg leaf 1 poison lines ok n d) rfl rfl
  · rintro rfl
    exact acts (k := fun n d => leafMsg leaf 0 poison lines ok n d) rfl rfl
  · obtain ⟨y, hy, he⟩ := sfway_asked (d := mirTaken 13 d) (htgt false ht 13) (q := q) (by rw [mirTaken_twn]; exact hq) entry
    refine takes (k := fun _ d => sfway set.toNat way.toNat entry d) rfl ⟨y, ?_, he⟩
    rw [hy, mirTaken_twn]
  · exact acts (k := fun _ d => sfway set.toNat way.toNat entry d) rfl (sfway_target (htgt true ht 13) _ _ _)

end Sys2Proof
end

section
/-!
Heartbeat, pulses, the loss of the partner and the takeover (R301-R304); how the device enters Withdrawn and Shutdown.
-/
namespace Sys2Proof.Machine
open Sys2Proof Sys2Proof.SMapLaws

/-! ## Entering Withdrawn and Shutdown (R5, R308, R360) -/

theorem toWithdrawn_base (d : Dev) : (toWithdrawn d).glb.base = .withdrawn := fallSilent_keeps _ .stay (by decide) rfl

theorem withdraw_paired {d : Dev} (h : serves d = true) (ha : alone d = false) (w : Bool) : withdraw w d = toWithdrawn d := by
  have hb : d.glb.base = .serving := of_decide_eq_true h
  have ha' : d.glb.degraded = false := ha
  simp only [withdraw, hb, ha', Bool.and_false, Bool.false_and, Bool.false_eq_true, if_false]

theorem enterShutdown_base {d : Dev} (h : serves d = true) (why : Nat) : (enterShutdown why d).glb.base = .shutdown := by
  rw [enterShutdown, h, shutdownAs]
  simp only [if_true]
  rw [count_keeps _ _ .base (by decide), setF_keeps _ _ _ .base (by decide)]
  exact endService_keeps _ .base (by decide)

/-! ## Heartbeat (R302) -/

theorem spos_of_quiet {d e : Dev} (h : Quiet d e) : spos e = spos d := by
  unfold spos sposAt
  rw [h.tick, h.fld _ (by decide)]

/-- What an HB at this twin's position keeps (R302). -/
theorem hbIn_keeps_pair {sp level st : Nat} {d : Dev} (hs : sp = spos d) (h9 : st ≠ 9) (h10 : st ≠ 0xA) (hst : st < 16) :
    flag (hbIn sp level st d) F.TWN_STS_HB_OK = true ∧ getF (hbIn sp level st d) F.TWN_STS_PSTATE = st ∧
      (hbIn sp level st d).twn.plevel = level ∧ (hbIn sp level st d).twn.mism = 0 ∧ (hbIn sp level st d).twn.lastHb = d.glb.tick ∧
      (hbIn sp level st d).twn.hbHist = d.twn.hbHist ||| 1 ∧ (hbIn sp level st d).glb.base = d.glb.base := by
  unfold hbIn
  extract_lets bad d1 d2 d3 d4 d5
  have h3 : d3 = d2 := if_neg fun h => h10 h.1
  have h5 : d5 = d4 := if_neg fun h => h9 h.1
  have hbad : bad = false := decide_eq_false fun h => h hs
  have hm : d5.twn.mism = 0 := by
    rw [h5]
    show d3.twn.mism = 0
    rw [h3]
    show (if bad then _ else 0) = 0
    rw [hbad]
    rfl
  rw [if_neg fun h => absurd h.1 (by rw [hm]; decide), h5]
  have hregs : d4.regs = d2.regs := show d3.regs = d2.regs from congrArg Dev.regs h3
  have htwn : d4.twn = { d2.twn with partnerWithdrawn := decide (st = 0xA) } := by
    show { d3.twn with partnerWithdrawn := decide (st = 0xA) } = _
    rw [h3]
  have hglb : d4.glb = d2.glb := show d3.glb = d2.glb from congrArg Dev.glb h3
  refine ⟨?_, ?_, by rw [htwn]; rfl, by rw [← h5]; exact hm, by rw [htwn]; rfl, by rw [htwn]; rfl, by rw [hglb]; rfl⟩
  · unfold flag
    rw [getF_of_regs hregs]
    exact flag_setB_at (by decide) _ _
  · rw [getF_of_regs hregs, getF_setB_apart (by decide), getF_setF_fits (by decide) hst]

/-! ## Pulses (R301) -/

/-- A leader's pulse as a follower measures it (R301). -/
def pulseSkew (diff : BitVec 16) (d : Dev) : BitVec 16 := diff - BitVec.ofNat 16 (getF d F.TWN_TSYNC_DELAY)

theorem onTwn_flag (g : Twn → Twn) (d : Dev) (f : Fld) : flag (onTwn g d) f = flag d f := rfl

/-- A pulse has come (R301). -/
def pulseSeen (d : Dev) : Dev := setB F.TWN_STS_TSYNC_OK true (onTwn (fun t => { t with pulseHist := t.pulseHist ||| 1 }) d)

theorem pulseSeen_follower (d : Dev) : flag (pulseSeen d) F.TWN_STS_FOLLOWER = flag d F.TWN_STS_FOLLOWER := by
  rw [pulseSeen, flag_setB_apart (by decide), onTwn_flag]

theorem pulseSeen_ok (d : Dev) : flag (pulseSeen d) F.TWN_STS_TSYNC_OK = true := flag_setB_at (by decide) _ _

theorem pulseIn_leader {d : Dev} (h : flag d F.TWN_STS_FOLLOWER = false) (diff : BitVec 16) :
    pulseIn diff d = onTwn (fun t => { t with skewWide := false }) (pulseSeen d) := by
  have hf : flag (pulseSeen d) F.TWN_STS_FOLLOWER = false := (pulseSeen_follower d).trans h
  refine if_pos ?_
  show (!flag (pulseSeen d) F.TWN_STS_FOLLOWER) = true
  rw [hf]
  rfl

/-- The skew as measured, with the row of wide pulses. -/
def skewMeasured (diff : BitVec 16) (row : Nat) (d : Dev) : Dev :=
  setF F.TWN_TSYNC_SKEW (pulseSkew diff d).toNat (onTwn (fun t => { t with skewRow := row, skewWide := false }) (pulseSeen d))

theorem skewMeasured_spec (diff : BitVec 16) (row : Nat) (d : Dev) : flag (skewMeasured diff row d) F.TWN_STS_TSYNC_OK = true ∧
    getF (skewMeasured diff row d) F.TWN_TSYNC_SKEW = (pulseSkew diff d).toNat ∧ (skewMeasured diff row d).twn.skewRow = row := by
  refine ⟨?_, getF_setF_fits (by decide) (pulseSkew diff d).isLt _, rfl⟩
  rw [skewMeasured, flag_setF_apart (by decide), onTwn_flag, pulseSeen_ok]

/-- The widest skew that is in order: more while pulses have been missed (R301). -/
def skewLimit (d : Dev) : Int := if d.twn.skewWide then 400 else 40

section Follower
variable {d : Dev} (h : flag d F.TWN_STS_FOLLOWER = true) (diff : BitVec 16)
include h

theorem pulseIn_narrow (h1 : -skewLimit d ≤ (pulseSkew diff d).toInt) (h2 : (pulseSkew diff d).toInt ≤ skewLimit d) :
    pulseIn diff d = skewMeasured diff 0 d := by
  have hf : flag (pulseSeen d) F.TWN_STS_FOLLOWER = true := (pulseSeen_follower d).trans h
  have hw : (decide (skewLimit d < (pulseSkew diff d).toInt) || decide ((pulseSkew diff d).toInt < -skewLimit d)) = false := by
    rw [decide_eq_false (Int.not_lt.mpr h1), decide_eq_false (Int.not_lt.mpr h2)]
    rfl
  unfold pulseIn
  extract_lets skew d1 limit wide row d2
  have hwide : wide = false := hw
  have hrow : row = 0 := by
    show (if wide then _ else _) = _
    rw [hwide]
    rfl
  have hd2 : d2 = skewMeasured diff 0 d := by
    show setF _ _ (onTwn (fun t => { t with skewRow := row, skewWide := false }) _) = _
    rw [hrow]
    rfl
  rw [if_neg (show ¬ ((!flag d1 F.TWN_STS_FOLLOWER) = true) from by rw [show flag d1 F.TWN_STS_FOLLOWER = true from hf]; decide),
    if_neg (by rw [hrow]; decide), hd2]

theorem pulseIn_wide (hw : skewLimit d < (pulseSkew diff d).toInt ∨ (pulseSkew diff d).toInt < -skewLimit d) (hr : d.twn.skewRow = 15) :
    pulseIn diff d = raiseN 395 (pulseSkew diff d).toNat (setB F.TWN_ERR_SKEW true (skewMeasured diff 16 d)) := by
  have hf : flag (pulseSeen d) F.TWN_STS_FOLLOWER = true := (pulseSeen_follower d).trans h
  have hw' : (decide (skewLimit d < (pulseSkew diff d).toInt) || decide ((pulseSkew diff d).toInt < -skewLimit d)) = true := by
    simpa using hw
  unfold pulseIn
  extract_lets skew d1 limit wide row d2
  have hwide : wide = true := hw'
  have hrow : row = 16 := by
    show (if wide then d.twn.skewRow + 1 else _) = _
    rw [hwide, hr]
    rfl
  have hd2 : d2 = skewMeasured diff 16 d := by
    show setF _ _ (onTwn (fun t => { t with skewRow := row, skewWide := false }) _) = _
    rw [hrow]
    rfl
  rw [if_neg (show ¬ ((!flag d1 F.TWN_STS_FOLLOWER) = true) from by rw [show flag d1 F.TWN_STS_FOLLOWER = true from hf]; decide),
    if_pos hrow, hd2]
  rfl

end Follower

/-! ## Loss of the partner (R303, R304) -/

theorem evtQueueFirst_quiet (p : Nat) (m : LcfMsg) (d : Dev) : Quiet d (evtQueueFirst p m d) :=
  ⟨⟨rfl, fun _ => rfl, rfl⟩, fun _ _ => rfl, fun _ _ h => h, rfl, rfl⟩

theorem evtQueueFirst_twn (p : Nat) (m : LcfMsg) (d : Dev) : (evtQueueFirst p m d).twn = d.twn := rfl

theorem foldl_twn {α : Type} {f : Dev → α → Dev} (h : ∀ d a, (f d a).twn = d.twn) (l : List α) (d : Dev) : (l.foldl f d).twn = d.twn := by
  induction l generalizing d with
  | nil => rfl
  | cons a l ih => exact (ih _).trans (h d a)

/-- TAKEOVER to one agent (R304). -/
def tellTakeover (p : Nat) (d : Dev) (a : Nat) : Dev :=
  pump p (evtQueueFirst p (.evt 2 (BitVec.ofNat 6 a) 0 (roleB d) (BitVec.ofNat 40 d.glb.tick) 0) d)

theorem tellTakeover_quiet (p : Nat) (d : Dev) (a : Nat) : Quiet d (tellTakeover p d a) := (evtQueueFirst_quiet _ _ _).trans (pump_quiet _ _)
theorem tellTakeover_twn (p : Nat) (d : Dev) (a : Nat) : (tellTakeover p d a).twn = d.twn := pump_twn.trans (evtQueueFirst_twn _ _ _)

/-- The agents of a port are told of the takeover (R304). -/
def tellPort (d : Dev) (p : Nat) : Dev := (agentsOfPort d p).foldl (tellTakeover p) d

theorem tellPort_quiet (d : Dev) (p : Nat) : Quiet d (tellPort d p) := foldl_quiet (tellTakeover_quiet p) _ d
theorem tellPort_twn (d : Dev) (p : Nat) : (tellPort d p).twn = d.twn := by
  unfold tellPort
  exact foldl_twn (tellTakeover_twn p) _ d

/-- The agents of every port are told of the takeover (R304). -/
def tellAll (d : Dev) : Dev := (List.range 16).foldl tellPort d

theorem tellAll_quiet (d : Dev) : Quiet d (tellAll d) := foldl_quiet tellPort_quiet _ d
theorem tellAll_twn (d : Dev) : (tellAll d).twn = d.twn := by
  unfold tellAll
  exact foldl_twn tellPort_twn _ d

theorem announce_due {d : Dev} (h1 : flag d F.TWN_STS_TAKEOVER = true) (h2 : d.twn.announced = false) (h3 : d.twn.takeoverAt + 1 ≤ d.glb.tick)
    (h4 : serves d = true) : ¬ ((!flag d F.TWN_STS_TAKEOVER) = true ∨ d.twn.announced = true ∨ d.glb.tick < d.twn.takeoverAt + 1 ∨ (!serves d) = true) := by
  rintro (h | h | h | h)
  · rw [h1] at h; cases h
  · rw [h2] at h; cases h
  · exact absurd h3 (Nat.not_le.mpr h)
  · rw [h4] at h; cases h

theorem announce_tells {d : Dev} (h1 : flag d F.TWN_STS_TAKEOVER = true) (h2 : d.twn.announced = false) (h3 : d.twn.takeoverAt + 1 ≤ d.glb.tick)
    (h4 : serves d = true) : announce d = tellAll (setB F.TWN_STS_REISSUE true (onTwn (fun t => { t with announced := true }) d)) :=
  if_neg (announce_due h1 h2 h3 h4)

theorem announce_spec {d : Dev} (h1 : flag d F.TWN_STS_TAKEOVER = true) (h2 : d.twn.announced = false) (h3 : d.twn.takeoverAt + 1 ≤ d.glb.tick)
    (h4 : serves d = true) : flag (announce d) F.TWN_STS_REISSUE = true ∧ (announce d).twn.announced = true := by
  rw [announce_tells h1 h2 h3 h4, (tellAll_quiet _).flag (by decide), tellAll_twn, setB_twn]
  exact ⟨flag_setB_at (by decide) _ _, rfl⟩

theorem reissueEnd_spec {d : Dev} (h1 : flag d F.TWN_STS_REISSUE = true) (h2 : d.twn.takeoverAt + 1 + getF d F.TWN_TMO_REISSUE_TMO ≤ d.glb.tick) :
    flag (reissueEnd d) F.TWN_STS_REISSUE = false ∧ (reissueEnd d).twn.ctab = [] ∧ Safety.pending (reissueEnd d) 387 = true := by
  unfold reissueEnd
  rw [if_neg (by simp [h1, h2])]
  extract_lets n d1 d2
  refine ⟨?_, by rw [raiseN_twn]; rfl, raiseN_pending _ _ _ (by decide) (.inl rfl)⟩
  have hq : Quiet d1 d2 := foldl_quiet (fun d p => foldl_quiet (fun d a => sendLcf_quiet _ _ _) _ d) _ d1
  rw [raiseN_flag (by decide), onTwn_flag, hq.flag (by decide)]
  exact flag_setB_at (by decide) _ _

/-- What LINK_TMO ticks without an HB, while pulses arrive, bring (R303). -/
def linkLost (d : Dev) : Dev :=
  if roleB d then raiseBy true 389 1 (withdraw false (setF F.TWN_STS_LINK 4 d)) else setF F.TWN_STS_LINK 4 d

theorem linkLost_roleB {d : Dev} (hr : roleB d = true) (hs : serves d = true) (ha : alone d = false) :
    (linkLost d).glb.base = .withdrawn ∧ Safety.pending (linkLost d) 389 = true := by
  rw [linkLost, if_pos hr, withdraw_paired (d := setF F.TWN_STS_LINK 4 d) hs ha]
  exact ⟨by rw [raiseBy_base, toWithdrawn_base], raiseBy_pending _ _ _ _ (by decide) (.inl rfl)⟩

theorem linkLossTimeout_lost {s : State} (h1 : s.dev.twn.hbHist = 0) (h2 : s.dev.twn.pulseHist ≠ 0)
    (h3 : s.dev.twn.lastHb + getF s.dev F.TWN_TMO_LINK_TMO ≤ s.dev.glb.tick) (h4 : alone s.dev = false) (h5 : serves s.dev = true) :
    exec .linkLossTimeout s = run (fun _ => linkLost s.dev) s := by
  refine congrArg (fun e => Host.Outcome.next { s with dev := finish (stateByte s.dev) e }) (if_neg ?_)
  rintro (h | h | h | h | h)
  · exact h h1
  · exact h2 h
  · exact absurd h3 (Nat.not_le.mpr h)
  · exact absurd (h4.symm.trans h) (by decide)
  · rw [h5] at h
    cases h

end Sys2Proof.Machine

namespace Sys2Proof
open Sys2Proof.Machine

/-- Settles O54. -/
theorem pairAlive : Obligations.PairAlive := by
  intro sp level state wok gtick diff s d skew limit runs
  have quiet {c f} {E : Dev → Prop} (hc : exec c s = runQ f s) (h : E (f s.dev)) : runs c E := ⟨_, f s.dev, hc, rfl, .inl rfl, h⟩
  have whole {c f} {E : Dev → Prop} (hc : exec c s = run f s) (h : E (f s.dev)) : runs c E := ⟨_, f s.dev, hc, rfl, .inr rfl, h⟩
  clear_value runs
  refine ⟨fun hu hs h9 h10 => ?_, fun hf => ?_, fun hf => ⟨fun h1 h2 => ?_, fun hw hr => ?_⟩, fun h1 h2 => ?_, fun h1 h2 h3 => ?_,
    fun h1 h2 h3 h4 h5 => ⟨fun hr => ?_, fun hr => ?_⟩, fun h1 h2 h3 h4 => ?_, fun h1 h2 => ?_⟩
  · refine whole (f := mirRecv 8 fun _ d => hbIn sp.toNat level.toNat state.toNat d) rfl ?_
    obtain ⟨k1, k2, k3, k4, k5, k6, k7⟩ := hbIn_keeps_pair (level := level.toNat) (d := mirTaken 8 d) (st := state.toNat)
      (hs.trans (spos_of_quiet (mirTaken_quiet _ _)).symm) (fun h => h9 (BitVec.eq_of_toNat_eq h)) (fun h => h10 (BitVec.eq_of_toNat_eq h)) state.isLt
    rw [show mirRecv 8 _ s.dev = _ from mirRecv_up hu _ _]
    exact ⟨k1, k2, k3, k4, k5.trans (mirTaken_quiet _ _).tick, k6.trans (by rw [mirTaken_twn]), k7.trans (mirTaken_quiet _ _).base⟩
  · refine quiet (f := pulseIn diff) rfl ?_
    rw [pulseIn_leader (d := s.dev) hf, onTwn_flag]
    exact ⟨pulseSeen_ok _, rfl⟩
  · refine quiet (f := pulseIn diff) rfl ?_
    rw [pulseIn_narrow (d := s.dev) hf diff h1 h2]
    exact skewMeasured_spec diff 0 d
  · refine quiet (f := pulseIn diff) rfl ?_
    obtain ⟨-, k2, k3⟩ := skewMeasured_spec diff 16 d
    rw [pulseIn_wide (d := s.dev) hf diff hw hr, raiseN_getF (by decide), getF_setB_apart (by decide), raiseN_flag (by decide), raiseN_twn, setB_twn]
    exact ⟨k2, k3, flag_setB_at (by decide) _ _, raiseN_pending _ _ _ (by decide) (.inl rfl)⟩
  · refine whole (f := fun d => if d.twn.hbHist ≠ 0 ∨ d.twn.pulseHist ≠ 0 then d
      else partnerGone (if getF d F.TWN_STS_LINK = 4 then 2 else 1) d) rfl (if_neg ?_)
    rintro (h | h)
    · exact h h1
    · exact h h2
  · refine quiet (f := fun d => if d.twn.hbHist = 0 ∨ d.twn.pulseHist ≠ 0 ∨ d.twn.skewWide then d
      else raiseN 390 0 (setB F.TWN_ERR_TSYNC_LOST true (onTwn (fun t => { t with skewWide := true }) d))) rfl ?_
    have hn : ¬ (d.twn.hbHist = 0 ∨ d.twn.pulseHist ≠ 0 ∨ d.twn.skewWide = true) := by
      rintro (h | h | h)
      · exact h1 h
      · exact h h2
      · exact absurd (h3.symm.trans h) (by decide)
    rw [if_neg hn]
    exact ⟨by rw [raiseN_flag (by decide), flag_setB_at (by decide)], by rw [raiseN_twn]; rfl, raiseN_pending _ _ _ (by decide) (.inl rfl)⟩
  · exact whole (f := fun _ => linkLost d) (linkLossTimeout_lost h1 h2 h3 h4 h5) ⟨by
      rw [linkLost, if_neg (by rw [hr]; decide)]
      exact getF_setF_fits (by decide) (by decide) _, by
      rw [linkLost, if_neg (by rw [hr]; decide)]
      exact of_decide_eq_true h5⟩
  · exact whole (f := fun _ => linkLost d) (linkLossTimeout_lost h1 h2 h3 h4 h5) (linkLost_roleB hr h5 h4)
  · exact quiet (f := announce) rfl (announce_spec h1 h2 h3 h4)
  · exact quiet (f := reissueEnd) rfl (reissueEnd_spec h1 h2)

end Sys2Proof
end

section
/-!
Leaving and joining the pair (R304, R309-R313, R336).
-/
namespace Sys2Proof.Machine
open Sys2Proof Sys2Proof.SMapLaws

theorem glb_of_glbRest {d e : Dev} (h : glbRest e = glbRest d) {α : Type} (f : Glb → α) (hf : ∀ g, f { g with held := [], sfEvents := [] } = f g) :
    f e.glb = f d.glb := by
  rw [← hf e.glb, ← hf d.glb]
  exact congrArg f h

theorem alone_of_glbRest {d e : Dev} (h : glbRest e = glbRest d) : alone e = alone d := show (glbRest e).degraded = (glbRest d).degraded by rw [h]
theorem serves_of_base {d e : Dev} (h : e.glb.base = d.glb.base) : serves e = serves d := by unfold serves; rw [h]
theorem base_of_glbRest {d e : Dev} (h : glbRest e = glbRest d) : e.glb.base = d.glb.base := show (glbRest e).base = (glbRest d).base by rw [h]

theorem mirUp_of_quiet {d e : Dev} (h : Quiet d e) : mirUp e = mirUp d := by
  unfold mirUp
  rw [h.base, h.fld _ (by decide)]

theorem hsMay_mirTaken (cls : Nat) (d : Dev) : hsMay (mirTaken cls d) = hsMay d := by
  have hg := mirTaken_glbRest cls d
  have hq := mirTaken_quiet cls d
  have hd : (mirTaken cls d).glb.handshakeDone = d.glb.handshakeDone := show (glbRest _).handshakeDone = (glbRest d).handshakeDone by rw [hg]
  unfold hsMay
  rw [mirUp_of_quiet hq, hq.flag (by decide), hq.base, serves_of_base hq.base, alone_of_glbRest hg, hd]

/-! ## Handover (R313) -/

/-- The resilver ends at the target (R313). -/
def rslvOver (d : Dev) : Dev := setB F.TWN_STS_RSLV false (setB F.TWN_STS_TARGET false (setB F.TWN_STS_TAKEOVER false d))

/-- The target once it has taken its half, before its step is shown (R313). -/
def tookHalf (d : Dev) : Dev :=
  onGlb (fun g => { g with
    base := .serving, tadpole := true, degraded := false, handshakeDone := true
    sweeping := true, sweepEnded := false, tadpoleLate := false, tadpoleSince := g.tick })
    (grtSetCtr 2 ((rslvOver d).twn.hsEpoch + 1) (keepPartner (rslvOver d).twn.hsPartner (rslvOver d)))

/-- The target's counts of the handover (R313). -/
def halfShown (d : Dev) : Dev := setF F.GLB_BOOT_STS_STEP 10 (onTwn (fun t => { t with rebuilt := true, hsDec := 0 }) (tookHalf d))

theorem handover_target {d : Dev} (h : flag d F.TWN_STS_TARGET = true) : handover d = raiseN 393 ((rslvOver d).twn.hsEpoch + 1) (halfShown d) := by
  unfold handover
  rw [if_neg (show ¬ ((!flag d F.TWN_STS_TARGET) = true) from by rw [h]; decide)]
  rfl

theorem halfShown_spec (d : Dev) : (halfShown d).glb.base = .serving ∧ (halfShown d).glb.tadpole = true ∧ (halfShown d).glb.degraded = false ∧
    (halfShown d).twn.rebuilt = true ∧ getF (halfShown d) F.GLB_BOOT_STS_STEP = 10 :=
  ⟨rfl, rfl, rfl, rfl, getF_setF_fits (by decide) (by decide) _⟩

theorem handover_spec {d : Dev} (h : flag d F.TWN_STS_TARGET = true) : (handover d).glb.base = .serving ∧ (handover d).glb.tadpole = true ∧
    (handover d).glb.degraded = false ∧ (handover d).twn.rebuilt = true ∧ getF (handover d) F.GLB_BOOT_STS_STEP = 10 ∧
    Safety.pending (handover d) 393 = true := by
  obtain ⟨h1, h2, h3, h4, h5⟩ := halfShown_spec d
  have hg : glbRest (handover d) = glbRest (halfShown d) := by rw [handover_target h, raiseN_glbRest]
  have ht : (handover d).twn = (halfShown d).twn := by rw [handover_target h, raiseN_twn]
  have hb : (handover d).glb.base = (halfShown d).glb.base := glb_of_glbRest hg Glb.base fun _ => rfl
  have ht' : (handover d).glb.tadpole = (halfShown d).glb.tadpole := glb_of_glbRest hg Glb.tadpole fun _ => rfl
  have hd : (handover d).glb.degraded = (halfShown d).glb.degraded := glb_of_glbRest hg Glb.degraded fun _ => rfl
  refine ⟨by rw [hb, h1], by rw [ht', h2], by rw [hd, h3], by rw [ht, h4], ?_, ?_⟩
  · rw [handover_target h, raiseN_getF (by decide), h5]
  · rw [handover_target h]
    exact raiseN_pending _ _ _ (by decide) (.inl rfl)

/-! ## DETACH and SOLO (R309, R336) -/

section Lock
variable {p : Nat} {d : Dev} (hl : holdsLock d p = true)
include hl

theorem detachCmd_drains (h1 : alone d = false) (h2 : flag d F.TWN_STS_RSLV = false) (h3 : serves d = true)
    (h4 : getF d F.TWN_STS_PSTATE = 5 ∨ getF d F.TWN_STS_PSTATE = 6 ∨ getF d F.TWN_STS_PSTATE = 8) :
    detachCmd p d = raiseN 394 0 (onTwn (fun t => { t with draining := true }) d) := by
  have hps : (decide (getF d F.TWN_STS_PSTATE = 5) || decide (getF d F.TWN_STS_PSTATE = 6) || decide (getF d F.TWN_STS_PSTATE = 8)) = true := by
    simpa [or_assoc] using h4
  simp only [detachCmd, hl, h1, h2, h3, hps, Bool.not_true, Bool.or_self, Bool.false_eq_true, if_false]

theorem detachCmd_refused (h : alone d = true ∨ flag d F.TWN_STS_RSLV = true ∨ serves d = false ∨
    (getF d F.TWN_STS_PSTATE ≠ 5 ∧ getF d F.TWN_STS_PSTATE ≠ 6 ∧ getF d F.TWN_STS_PSTATE ≠ 8)) :
    detachCmd p d = setB F.TWN_ERR_CMD_REFUSED true d := by
  have hc : (alone d || flag d F.TWN_STS_RSLV || !serves d || !(decide (getF d F.TWN_STS_PSTATE = 5) || decide (getF d F.TWN_STS_PSTATE = 6) ||
      decide (getF d F.TWN_STS_PSTATE = 8))) = true := by
    rcases h with h | h | h | ⟨h5, h6, h8⟩
    · simp [h]
    · simp [h]
    · simp [h]
    · simp [h5, h6, h8]
  unfold detachCmd
  extract_lets ps
  rw [if_neg (by simp [hl])]
  exact if_pos hc

theorem solo_takes (h1 : d.glb.base = .pairing) (h2 : d.twn.rebuilt = true) (h3 : d.twn.hsOn = false) (h4 : flag d F.TWN_STS_RSLV = false)
    (h5 : d.glb.handshakeDone = false) (h6 : d.glb.soloTaken = false) (h7 : 0 < getF d F.TWN_PEPOCH_EPOCH) :
    solo p d = takeover 1 (onGlb (fun g => { g with soloTaken := true }) d) := by
  simp only [solo, hl, h1, h2, h3, h4, h5, h6, h7, Bool.not_true, Bool.not_false, Bool.false_eq_true, and_self, if_false, if_true]

theorem solo_discarded (h : d.glb.base ≠ .pairing) : solo p d = raiseN 3 0x210 d := by
  simp only [solo, hl, h, Bool.not_true, Bool.false_eq_true, false_and, if_false]

end Lock

/-! ## The end of a drain (R309) -/

/-- The twin once its drain has ended (R309). -/
def drained (d : Dev) : Dev := onTwn (fun t => { t with draining := false }) (mirSend (.ctl 1) d)

theorem drained_done (d : Dev) : (drained d).twn.draining = false := by
  unfold drained
  rw [onTwn_twn]

theorem onTwn_glbRest (f : Twn → Twn) (d : Dev) : glbRest (onTwn f d) = glbRest d := rfl
theorem drained_glbRest (d : Dev) : glbRest (drained d) = glbRest d := by rw [drained, onTwn_glbRest, mirSend_glbRest]

theorem detachEnd_withdraws {d : Dev} (h1 : d.twn.draining = true) (h2 : (d.bsn.txns.any fun e => e.2.phase != .done) = false) :
    detachEnd d = withdraw false (drained d) := by
  simp only [drained, detachEnd, h1, h2, Bool.not_true, Bool.false_eq_true, or_self, if_false]

end Sys2Proof.Machine

namespace Sys2Proof
open Sys2Proof.Machine

/-- Settles O55. -/
theorem joining : Obligations.Joining := by
  intro step data p s d n got ps awake runs
  have quiet {c f} {E : Dev → Prop} (hc : exec c s = runQ f s) (h : E (f s.dev)) : runs c E := ⟨_, f s.dev, hc, rfl, .inl rfl, h⟩
  have whole {c f} {E : Dev → Prop} (hc : exec c s = run f s) (h : E (f s.dev)) : runs c E := ⟨_, f s.dev, hc, rfl, .inr rfl, h⟩
  have taken (cls : Nat) : got (mirTaken cls d) := ⟨by rw [mirTaken_twn], (mirTaken_keeps _ _).mono rfl⟩
  clear_value runs got
  refine ⟨fun hu => ⟨?_, fun hm => ?_, fun ht => ?_⟩, fun hb hl => ?_, fun h1 h2 => ?_, fun h1 h2 => ?_, fun t h1 h2 => ?_,
    fun h1 h2 h3 => ⟨fun h4 => ?_, fun h4 => ?_⟩⟩
  · exact whole (f := mirRecv 11 fun _ d => partnerGone 3 d) rfl ⟨_, taken 11, mirRecv_up hu _ _⟩
  · refine whole (f := mirRecv 10 fun _ d => if hsMay d then hsStep step.toNat data d else d) rfl ⟨_, taken 10, ?_⟩
    rw [show mirRecv 10 _ s.dev = _ from mirRecv_up hu _ _]
    exact if_pos ((hsMay_mirTaken 10 d).trans hm)
  · refine whole (f := mirRecv 11 fun _ d => handover d) rfl ?_
    rw [show mirRecv 11 _ s.dev = _ from mirRecv_up hu _ _]
    exact handover_spec ((mirTaken_flag_target _ _).trans ht)
  · have via {c f} {E : Dev → Prop} (hc : exec c s = run (viaPort p.val f) s) (h : E (f n)) : runs c E :=
      whole hc (by rw [show viaPort p.val f s.dev = f n from viaPort_eq hb _ _]; exact h)
    have hl' : holdsLock n p.val = true := (holdsLock_touch _ _ _).trans hl
    have hg : n.glb = d.glb := touch_glb
    have ht : n.twn = d.twn := touch_twn
    have ha : alone n = alone d := alone_touch _ _
    have hs : serves n = serves d := serves_of_base (congrArg Glb.base hg)
    refine ⟨fun h1 h2 h3 h4 => ?_, fun h => ?_, fun h1 h2 h3 h4 h5 h6 h7 => ?_, fun h => ?_⟩
    · refine via (f := detachCmd p.val) rfl ?_
      rw [detachCmd_drains hl' (ha.trans h1) (touch_flag.trans h2) (hs.trans h3) (by rw [touch_getF]; exact h4)]
      exact ⟨by rw [raiseN_twn]; rfl, raiseN_pending _ _ _ (by decide) (.inl rfl)⟩
    · refine via (f := detachCmd p.val) rfl ?_
      rw [detachCmd_refused hl' (by rw [ha, touch_flag, hs, touch_getF]; exact h)]
      exact ⟨flag_setB_at (by decide) _ _, (setB_twn _ _ _).trans ht⟩
    · exact via (f := solo p.val) rfl (solo_takes hl' (by rw [hg]; exact h1) (by rw [ht]; exact h2) (by rw [ht]; exact h3) (touch_flag.trans h4)
        (by rw [hg]; exact h5) (by rw [hg]; exact h6) (by rw [touch_getF]; exact h7))
    · refine via (f := solo p.val) rfl ?_
      rw [solo_discarded hl' (by rw [hg]; exact h)]
      exact ⟨raiseN_pending _ _ _ (by decide) (.inl rfl), raiseN_twn.trans ht⟩
  · have he : detachEnd s.dev = withdraw false (drained s.dev) := detachEnd_withdraws h1 h2
    refine whole (f := detachEnd) rfl ?_
    rw [he]
    refine ⟨drained s.dev, rfl, drained_done s.dev, fun hb ha => ?_⟩
    rw [withdraw_paired (decide_eq_true ((base_of_glbRest (drained_glbRest _)).trans hb)) ((alone_of_glbRest (drained_glbRest _)).trans ha)]
    exact toWithdrawn_base _
  · exact quiet (f := fun d => if d.twn.hsOn ∧ (d.twn.hsStepStart + 10000 ≤ d.glb.tick ∨ d.twn.hsStart + 100000 ≤ d.glb.tick) then hsBegin d else d)
      rfl (if_pos ⟨h1, h2⟩)
  · refine quiet (f := fun _ => hsBegin d) ?_ rfl
    show execHandshakeRetry s = _
    simp only [execHandshakeRetry, runQ, show s.dev.twn.hsRetryAt = some t from h1, show t ≤ s.dev.glb.tick from h2, if_true]
    rfl
  · refine whole (f := fun _ => handoverTry d) ?_ rfl
    show execResilverCopyComplete s = _
    simp only [execResilverCopyComplete, run, show flag s.dev F.TWN_STS_RSLV = true from h1, show s.dev.twn.source = true from h2,
      show s.dev.twn.rsCopied = true from h3, show s.dev.twn.handoverWait = true from h4, Bool.not_true, Bool.false_eq_true, or_self, if_false, if_true]
    rfl
  · refine whole (f := fun d => handoverTry (onTwn (fun t => { t with handoverWait := true }) (tellAgents 391 0 (raiseN 391 0 d)))) ?_ rfl
    show execResilverCopyComplete s = _
    simp only [execResilverCopyComplete, run, show flag s.dev F.TWN_STS_RSLV = true from h1, show s.dev.twn.source = true from h2,
      show s.dev.twn.rsCopied = true from h3, show s.dev.twn.handoverWait = false from h4, Bool.not_true, Bool.false_eq_true, or_self, if_false]

end Sys2Proof
end

section
/-!
Power, reset and the first steps of a start (R334, R335, R337, R343, R348, R381, R255, R256).
-/
namespace Sys2Proof.Machine
open Sys2Proof Sys2Proof.SMapLaws

/-! ## Resets (R24, R334, R337) -/

theorem resetDev_cleared (cold : Bool) (d : Dev) : Safety.Keeps [.regs, .plain] (clearedDev cold d) (resetDev cold d) :=
  .step (setB_keeps _ _ _) rfl (keepReadings_keeps _ _)

theorem resetDev_glb (cold : Bool) (d : Dev) : (resetDev cold d).glb =
    { roleB := d.glb.roleB, tick := d.glb.tick, fuses := d.glb.fuses, unblown := d.glb.unblown, idHash := d.glb.idHash, resetLow := d.glb.resetLow } :=
  resetDev_cleared cold d .glb (by decide)

/-- The volatile units are empty. -/
def Emptied (e : Dev) : Prop := e.sch = {} ∧ e.bsn = {} ∧ e.ntr = {} ∧ e.fab = {} ∧ e.twn = {}

theorem Emptied.of_keeps {d e : Dev} (h : Emptied d) {M : List Safety.Part} (hk : Safety.Keeps M d e)
    (hm : Safety.Part.sch ∉ M ∧ Safety.Part.bsn ∉ M ∧ Safety.Part.ntr ∉ M ∧ Safety.Part.fab ∉ M ∧ Safety.Part.twn ∉ M) : Emptied e := by
  obtain ⟨h1, h2, h3, h4, h5⟩ := h
  obtain ⟨m1, m2, m3, m4, m5⟩ := hm
  exact ⟨(hk .sch m1).trans h1, (hk .bsn m2).trans h2, (hk .ntr m3).trans h3, (hk .fab m4).trans h4, (hk .twn m5).trans h5⟩

theorem resetDev_empty (cold : Bool) (d : Dev) : Emptied (resetDev cold d) :=
  Emptied.of_keeps ⟨rfl, rfl, rfl, rfl, rfl⟩ (resetDev_cleared cold d) (by decide)

theorem setF_glbRest (f : Fld) (v : Nat) (d : Dev) : glbRest (setF f v d) = glbRest d := rfl
theorem setB_glbRest (f : Fld) (b : Bool) (d : Dev) : glbRest (setB f b d) = glbRest d := rfl
theorem onSvc_glbRest (f : Svc → Svc) (d : Dev) : glbRest (onSvc f d) = glbRest d := rfl

theorem rollBack_glbRest (r : Nat) (d : Dev) : glbRest (rollBack r d) = glbRest d := by
  unfold rollBack
  rw [raiseN_glbRest, setF_glbRest, setF_glbRest, setF_glbRest, setB_glbRest, onSvc_glbRest]

theorem rolledBack_glbRest (c : Prop) [Decidable c] (r : Nat) (d : Dev) : glbRest (if c then rollBack r d else d) = glbRest d := by
  split
  · exact rollBack_glbRest _ _
  · rfl

theorem loseLock_glbRest (c : Nat) (d : Dev) : glbRest (loseLock c d) = glbRest d := by
  unfold loseLock
  dsimp only
  split
  · rfl
  · rw [rolledBack_glbRest]
    split
    · rw [raiseN_glbRest, setF_glbRest, setF_glbRest]
    · rw [setF_glbRest, setF_glbRest]

theorem endService_glbRest (d : Dev) : glbRest (endService d) = glbRest d := by
  unfold endService abandonCommit
  rw [rolledBack_glbRest, loseLock_glbRest]

/-- The device after a warm reset that no flush came before, its start recorded (R334, R343). -/
def warmDev (kind : Nat) (d : Dev) : Dev :=
  setF F.GLB_BOOT_STS_LAST_START kind (setB F.GLB_BOOT_STS_FLUSHED false (onGlb (fun g => { g with startTick := g.tick }) (resetDev false (endService d))))

theorem warmDev_empty (kind : Nat) (d : Dev) : Emptied (warmDev kind d) :=
  (resetDev_empty false (endService d)).of_keeps (M := [.regs, .plain, .glb])
    (.step (setF_keeps _ _ _) rfl (.step (setB_keeps _ _ _) rfl (.glb rfl (fun _ => ⟨rfl, rfl⟩) (.refl _ _)))) (by decide)

theorem warmDev_resetLow (kind : Nat) (d : Dev) : (warmDev kind d).glb.resetLow = d.glb.resetLow := by
  rw [warmDev, setF_glb, setB_glb, onGlb_glb, resetDev_glb]
  exact glb_of_glbRest (endService_glbRest d) Glb.resetLow fun _ => rfl

theorem warmDev_start {kind : Nat} (hk : kind < 4) (d : Dev) : getF (warmDev kind d) F.GLB_BOOT_STS_LAST_START = kind ∧
    flag (warmDev kind d) F.GLB_BOOT_STS_FLUSHED = false :=
  ⟨getF_setF_fits (by decide) hk _, (flag_setF_apart (by decide) _ _).trans (flag_setB_at (by decide) _ _)⟩

theorem warmReset_held {kind : Nat} {d : Dev} (h : d.glb.resetLow = true) :
    warmReset kind false d = onGlb (fun g => { g with resetHold := true }) (warmDev kind d) :=
  if_pos ((warmDev_resetLow kind d).trans h)

theorem warmReset_begins {kind : Nat} {d : Dev} (h : d.glb.resetLow = false) : warmReset kind false d = beginStep2 (warmDev kind d) := by
  have hn : ¬ ((warmDev kind d).glb.resetLow = true) := by rw [warmDev_resetLow, h]; decide
  exact if_neg hn

theorem beginStep2_spec (d : Dev) : (beginStep2 d).glb.base = .loading ∧ (beginStep2 d).glb.resetLow = d.glb.resetLow ∧
    (beginStep2 d).glb.resetHold = false ∧ bootStep (beginStep2 d) = 2 :=
  ⟨rfl, rfl, rfl, getF_setF_fits (by decide) (by decide) _⟩

theorem beginStep2_start (d : Dev) : getF (beginStep2 d) F.GLB_BOOT_STS_LAST_START = getF d F.GLB_BOOT_STS_LAST_START ∧
    flag (beginStep2 d) F.GLB_BOOT_STS_FLUSHED = flag d F.GLB_BOOT_STS_FLUSHED :=
  ⟨getF_setF_apart (by decide) _ _, flag_setF_apart (by decide) _ _⟩

theorem beginStep2_empty {d : Dev} (h : Emptied d) : Emptied (beginStep2 d) := h.of_keeps (beginStep2_keeps d) (by decide)

/-- The states of a start that a warm reset begins anew (R343). -/
theorem askWarmReset_starting {d : Dev} (h : d.glb.base = .loading ∨ d.glb.base = .recovering ∨ d.glb.base = .pairing) (kind : Nat) :
    askWarmReset kind d = warmReset kind false d := by
  rcases h with h | h | h
  · simp only [askWarmReset, h]
  · simp only [askWarmReset, h]
  · simp only [askWarmReset, h]

theorem askWarmReset_serving {d : Dev} (h : d.glb.base = .serving) (kind : Nat) : (askWarmReset kind d).glb.base = .shutdown := by
  simp only [askWarmReset, h]
  exact enterShutdown_base (d := { d with twn := { d.twn with hbStop := true } }) (decide_eq_true h) _

theorem askWarmReset_shutdown {d : Dev} (h : d.glb.base = .shutdown) (kind : Nat) : askWarmReset kind d = d := by
  simp only [askWarmReset, h]

theorem rst_asks {p : Nat} {d : Dev} (hl : holdsLock d p = true) (hb : d.glb.base ≠ .withdrawn) : rst p d = askWarmReset 2 d := if_pos ⟨hl, hb⟩

/-! ## The removal of power (R337) -/

theorem powerRemoved_keeps_units (d : Dev) : Safety.Keeps [.glb, .base, .stay] (resetDev true d) (powerRemoved d) := .glbB rfl (fun _ => rfl) (.refl _ _)

theorem powerRemoved_base (d : Dev) : (powerRemoved d).glb.base = .off := by rw [powerRemoved, onGlb_glb]

theorem powerRemoved_empty (d : Dev) : Emptied (powerRemoved d) := (resetDev_empty true d).of_keeps (powerRemoved_keeps_units d) (by decide)

theorem powerRemoved_stored (d : Dev) : (powerRemoved d).grt.wait = [] ∧ (powerRemoved d).xlt.media = d.xlt.media := by
  rw [powerRemoved_keeps_units d .grt (by decide), powerRemoved_keeps_units d .xlt (by decide), resetDev_cleared true d .grt (by decide),
    resetDev_cleared true d .xlt (by decide)]
  exact ⟨rfl, rfl⟩

/-! ## RESET_N (R334, R343) -/

/-- RESET_N is low. -/
def heldLow (d : Dev) : Dev := onGlb (fun g => { g with resetLow := true }) d

section ResetN
variable {t : Nat} (ht : 0 < t) {d : Dev}
include ht

theorem resetNLow_off (h : d.glb.base = .off) : resetNLow t d = onGlb (fun g => { g with base := .off, standbyOnly := false }) (heldLow d) :=
  (if_neg (by omega)).trans (if_pos (.inl h))

theorem resetNLow_asks (h : d.glb.base ≠ .off) (hw : d.glb.base ≠ .withdrawn) : resetNLow t d = askWarmReset 1 (heldLow d) := by
  refine (if_neg (by omega)).trans (if_neg ?_)
  rintro (h1 | h1)
  · exact h h1
  · exact hw h1.1

end ResetN

theorem resetNHigh_begins {d : Dev} (h : d.glb.resetHold = true) : resetNHigh d = beginStep2 (onGlb (fun g => { g with resetLow := false }) d) :=
  if_pos h

theorem resetNHigh_stays {d : Dev} (h : d.glb.resetHold = false) : resetNHigh d = onGlb (fun g => { g with resetLow := false }) d := by
  have hn : ¬ ((onGlb (fun g => { g with resetLow := false }) d).glb.resetHold = true) := fun hh => absurd (h.symm.trans hh) (by decide)
  exact if_neg hn

theorem onGlb_keeps_glb {f : Glb → Glb} {d : Dev} (hb : (f d.glb).base = d.glb.base) (ht : (f d.glb).tick = d.glb.tick) :
    Safety.Keeps [.glb] d (onGlb f d) := .set_glb rfl ⟨hb, ht⟩ (.refl _ _)

theorem resetHeld_empty {d : Dev} (h : Emptied d) : Emptied (onGlb (fun g => { g with resetHold := true }) d) :=
  h.of_keeps (onGlb_keeps_glb rfl rfl) (by decide)

/-! ## Steps 1 to 3 (R335, R381, R255, R256) -/

theorem coldStart_begins {d : Dev} (h1 : d.glb.base = .off) (h2 : d.glb.standbyOnly = false) (h3 : flag d F.PWR_STS_VIN_OK = true)
    (h4 : d.glb.resetLow = false) : coldStart true d = resetDev true d :=
  if_pos ⟨h1, by rw [h2]; rfl, rfl, h3, by rw [h4]; rfl⟩

/-- The device with its role sampled and the boot rails' fuses read (R10, R335, R348). -/
def rolled (roleB : Bool) (fuses : List RailFuse) (d : Dev) : Dev :=
  forEach (List.zip (List.range 6) fuses) (fun (e : Nat × RailFuse) d => fuseRail e.1 e.2 d)
    (setB F.TWN_STS_ROLE roleB (onGlb (fun g => { g with roleB := roleB }) d))

theorem rolled_glb (roleB : Bool) (fuses : List RailFuse) (d : Dev) : (rolled roleB fuses d).glb = { d.glb with roleB := roleB } := by
  have hk : Safety.Keeps [.regs, .plain] (onGlb (fun g => { g with roleB := roleB }) d) (rolled roleB fuses d) :=
    .forEach (setB_keeps _ _ _) fun e x hx => .step (fuseRail_keeps _ _ _) rfl hx
  exact hk .glb (by decide)

theorem sequencing_brings {d : Dev} (h1 : d.glb.base = .sequencing) (h2 : flag d F.PWR_STS_VIN_OK = true) (h3 : d.glb.resetLow = false)
    (h4 : ∀ r, r < 16 → railState d r = 0) (roleB : Bool) (fuses : List RailFuse) : sequencing roleB fuses d = bringUp (rolled roleB fuses d) := by
  refine if_neg ?_
  rintro (h | h | h | h)
  · exact h h1
  · rw [h2] at h
    cases h
  · rw [h3] at h
    cases h
  · obtain ⟨r, hr, hs⟩ := List.any_eq_true.mp h
    exact of_decide_eq_true hs (h4 r (List.mem_range.mp hr))

theorem toStep_step {n : Nat} (h : n < 16) (d : Dev) : bootStep (toStep n d) = n := getF_setF_fits (by decide) h _

/-- What the scan of step 2 finds (R381). -/
def stepScan (d : Dev) : GrtScan :=
  { mapOk := (Config.grottoScan d.free).1, weak := (Config.grottoScan d.free).2.1, bad := (Config.grottoScan d.free).2.2 }

section Grotto
variable {d : Dev} (hl : loadingAt d 2 = true)
include hl

theorem grottoStep_fails (h : grottoOk (grottoScan (stepScan d) { d with free := d.free + 1 }) = false ∨ grtRefuses { d with free := d.free + 1 } 0 = true) :
    grottoStep d = stepWithdraws 2 2 (grottoScan (stepScan d) { d with free := d.free + 1 }) := by
  have hc : (!grottoOk (grottoScan (stepScan d) { d with free := d.free + 1 }) || grtRefuses { d with free := d.free + 1 } 0) = true := by
    rcases h with h | h
    · rw [h]; rfl
    · rw [h, Bool.or_true]
  unfold grottoStep
  extract_lets scan d1 d2
  rw [if_neg (by rw [hl]; decide)]
  exact if_pos hc

theorem grottoStep_goes (h1 : grottoOk (grottoScan (stepScan d) { d with free := d.free + 1 }) = true)
    (h2 : grtRefuses { d with free := d.free + 1 } 0 = false) : ∀ w, w = grottoRecover (stepScan d) (grottoScan (stepScan d) { d with free := d.free + 1 }) →
    grottoStep d = toStep 3 (grottoGives (grtInc (if getF w F.GLB_BOOT_STS_LAST_START = 0 then 3 else 4) w)) := by
  rintro w rfl
  have hc : ¬ ((!grottoOk (grottoScan (stepScan d) { d with free := d.free + 1 }) || grtRefuses { d with free := d.free + 1 } 0) = true) := by
    rw [h1, h2]; decide
  unfold grottoStep
  extract_lets scan d1 d2
  rw [if_neg (by rw [hl]; decide)]
  exact if_neg hc

end Grotto

theorem keyUnwrap_fails {d : Dev} (hl : loadingAt d 3 = true) {ok : Bool} (h : ok = false ∨ d.grt.keyLost = true) (fuses : List FuseSlot) (en : Bool) :
    keyUnwrap fuses ok en d = stepWithdraws 3 3 d := by
  unfold keyUnwrap
  rw [if_neg (by rw [hl]; decide)]
  exact if_pos (h.imp (fun h => by rw [h]; rfl) id)

theorem keyUnwrap_step {d : Dev} (hl : loadingAt d 3 = true) (h : d.grt.keyLost = false) (fuses : List FuseSlot) (en : Bool) :
    bootStep (keyUnwrap fuses true en d) = if en then 4 else 3 := by
  unfold keyUnwrap
  rw [if_neg (by rw [hl]; decide), if_neg (by rw [h]; decide)]
  extract_lets d1 d2 d3
  cases en with
  | true => exact toStep_step (by decide) _
  | false => exact toStep_step (by decide) _

end Sys2Proof.Machine

namespace Sys2Proof
open Sys2Proof.Machine

/-- Settles O56. -/
theorem resetAndFirstSteps : Obligations.ResetAndFirstSteps := by
  intro ok entropyOk roleB ticks p rails fuses s d n starting runs
  have whole {c f} {E : Dev → Prop} (hc : exec c s = run f s) (h : E (f s.dev)) : runs c E := ⟨_, f s.dev, hc, rfl, .inr rfl, h⟩
  have wholeOf {c f e} {E : Dev → Prop} (hc : exec c s = run f s) (he : f d = e) (h : E e) : runs c E := whole hc (by rw [show f s.dev = e from he]; exact h)
  clear_value runs
  refine ⟨fun h1 h2 h3 h4 hok => ?_, fun ht => ⟨fun hb => ?_, fun hb => ?_, fun hb => ?_⟩, fun hh => ?_, fun hh => ?_,
    fun hl => ⟨fun hb hr => ?_, fun hb => ?_, fun hb => ?_⟩, ?_, fun h1 h2 h3 h4 => ?_, fun hl => ?_, fun hl => ⟨fun hf => ?_, fun hok hk => ?_⟩⟩
  · subst hok
    obtain ⟨e1, e2, e3, e4, e5⟩ := resetDev_empty true d
    exact wholeOf (f := coldStart true) rfl (coldStart_begins h1 h2 h3 h4) ⟨by rw [resetDev_glb], by rw [resetDev_glb], e1, e2, e3, e4, e5⟩
  · refine wholeOf (f := resetNLow ticks) rfl (resetNLow_off ht hb) ⟨rfl, rfl, ?_⟩
    exact .trans (onGlb_keeps_glb (d := d) rfl rfl) (onGlb_keeps_glb (d := heldLow d) hb.symm rfl)
  · have hstart : (heldLow d).glb.base = .loading ∨ (heldLow d).glb.base = .recovering ∨ (heldLow d).glb.base = .pairing := hb
    have he : resetNLow ticks d = onGlb (fun g => { g with resetHold := true }) (warmDev 1 (heldLow d)) := by
      rw [resetNLow_asks ht (by rcases hb with h | h | h <;> rw [h] <;> decide) (by rcases hb with h | h | h <;> rw [h] <;> decide),
        askWarmReset_starting hstart, warmReset_held rfl]
    obtain ⟨e1, e2, e3, e4, e5⟩ := resetHeld_empty (warmDev_empty 1 (heldLow d))
    refine wholeOf (f := resetNLow ticks) rfl he ⟨?_, ?_, ?_, e1, e2, e3, e4, e5⟩
    · rw [onGlb_glb]
      exact warmDev_resetLow 1 (heldLow d)
    · rw [onGlb_glb]
    · rw [onGlb_getF]
      exact (warmDev_start (by decide) _).1
  · refine wholeOf (f := resetNLow ticks) rfl (resetNLow_asks ht (by rw [hb]; decide) (by rw [hb]; decide)) ?_
    exact askWarmReset_serving (d := heldLow d) hb 1
  · obtain ⟨e1, e2, e3, e4⟩ := beginStep2_spec (onGlb (fun g => { g with resetLow := false }) d)
    exact wholeOf (f := resetNHigh) rfl (resetNHigh_begins hh) ⟨e1, e2, e3, e4⟩
  · exact wholeOf (f := resetNHigh) rfl (resetNHigh_stays hh) ⟨rfl, rfl, onGlb_keeps_glb rfl rfl⟩
  · have ha : n.glb.base = d.glb.base := congrArg Glb.base touch_glb
    have hstart : n.glb.base = .loading ∨ n.glb.base = .recovering ∨ n.glb.base = .pairing := by rw [ha]; exact hb
    have he : viaPort p.val (rst p.val) d = beginStep2 (warmDev 2 n) := by
      rw [viaPort_eq (by rcases hb with h | h | h <;> rw [h] <;> decide),
        rst_asks (d := n) ((holdsLock_touch _ _ _).trans hl) (by rcases hstart with h | h | h <;> rw [h] <;> decide),
        askWarmReset_starting hstart, warmReset_begins ((congrArg Glb.resetLow touch_glb).trans hr)]
    obtain ⟨e1, -, -, e2⟩ := beginStep2_spec (warmDev 2 n)
    obtain ⟨k1, k2⟩ := beginStep2_start (warmDev 2 n)
    obtain ⟨w1, w2⟩ := warmDev_start (kind := 2) (by decide) n
    obtain ⟨v1, v2, -, -, v3⟩ := beginStep2_empty (warmDev_empty 2 n)
    exact wholeOf (f := viaPort p.val (rst p.val)) rfl he ⟨e1, e2, k1.trans w1, k2.trans w2, v1, v2, v3⟩
  · have hb' : n.glb.base = .serving := (congrArg Glb.base touch_glb).trans hb
    have he : viaPort p.val (rst p.val) d = askWarmReset 2 n := by
      rw [viaPort_eq (by rw [hb]; decide), rst_asks (d := n) ((holdsLock_touch _ _ _).trans hl) (by rw [hb']; decide)]
    exact wholeOf (f := viaPort p.val (rst p.val)) rfl he (askWarmReset_serving hb' 2)
  · have hb' : n.glb.base = .shutdown := (congrArg Glb.base touch_glb).trans hb
    have he : viaPort p.val (rst p.val) d = n := by
      rw [viaPort_eq (by rw [hb]; decide), rst_asks (d := n) ((holdsLock_touch _ _ _).trans hl) (by rw [hb']; decide), askWarmReset_shutdown hb']
    exact wholeOf (f := viaPort p.val (rst p.val)) rfl he rfl
  · obtain ⟨e1, e2, e3, e4, e5⟩ := powerRemoved_empty d
    exact whole (f := powerRemoved) rfl ⟨powerRemoved_base d, e1, e2, e3, e4, e5, (powerRemoved_stored d).1, (powerRemoved_stored d).2⟩
  · refine whole (f := Machine.sequencing roleB rails) rfl ⟨rolled roleB rails d, sequencing_brings h1 h2 h3 h4 _ _, ?_, ?_⟩
    · rw [rolled_glb]
    · rw [rolled_glb]
      exact h1
  · intro y o scan z w
    refine ⟨fun h => ?_, fun h1 h2 => ?_⟩
    · exact whole (f := grottoStep) rfl (grottoStep_fails hl h)
    · have he := grottoStep_goes hl h1 h2 w rfl
      exact wholeOf (f := grottoStep) rfl he ⟨toStep_step (by decide) _, rfl⟩
  · exact whole (f := keyUnwrap fuses ok entropyOk) rfl (keyUnwrap_fails hl hf _ _)
  · subst hok
    exact whole (f := keyUnwrap fuses true entropyOk) rfl (keyUnwrap_step hl hk _ _)

end Sys2Proof
end

section
/-!
From Loading to Serving, and the end of Tadpole (R51, R87, R232, R316-R326, R335, R340, R342).
-/
namespace Sys2Proof.Machine
open Sys2Proof Sys2Proof.SMapLaws

/-! ## Step 4 (R317, R323) -/

section Step4
variable {d : Dev} (hl : loadingAt d 4 = true)
include hl

theorem imageVerify_unread {f : Flash} (h : f.sfdpOk = false ∨ f.mib < 64 ∨ f.rdMode = 3) :
    imageVerify f d = bothRejected (rejectCopy true 2 (rejectCopy false 2 d)) := by
  unfold imageVerify
  rw [if_neg (by rw [hl]; decide)]
  exact if_pos (h.imp_left fun h => by rw [h]; rfl)

theorem imageVerify_tries {f : Flash} (h1 : f.sfdpOk = true) (h2 : 64 ≤ f.mib) (h3 : f.rdMode ≠ 3) :
    ∃ y, y = (if getF d F.GLB_IMG_STS_A_RSN = 0 then tryCopy false f d else d) ∧ imageVerify f d = bothRejected
      (if 2 ≤ getF y F.GLB_IMG_STS_A_RSN ∧ getF y F.GLB_IMG_STS_B_RSN = 0 then tryCopy true f y else y) := by
  refine ⟨_, rfl, ?_⟩
  have hn : ¬ ((!f.sfdpOk) = true ∨ f.mib < 64 ∨ f.rdMode = 3) := by
    rintro (h | h | h)
    · rw [h1] at h
      cases h
    · exact absurd h2 (Nat.not_le.mpr h)
    · exact h3 h
  unfold imageVerify
  rw [if_neg (by rw [hl]; decide), if_neg hn]

theorem flashTimeout_rejects {b : Bool} (h0 : getF d (rsnFld b) = 0) (ha : b = false ∨ 2 ≤ getF d F.GLB_IMG_STS_A_RSN) :
    flashTimeout b d = bothRejected (rejectCopy b 0xC d) := by
  refine if_neg ?_
  rintro (h | h | ⟨h1, h2⟩)
  · rw [hl] at h
    cases h
  · exact h h0
  · rcases ha with ha | ha
    · rw [ha] at h1
      cases h1
    · exact absurd ha (Nat.not_le.mpr h2)

end Step4

theorem rejectCopy_rsn (b : Bool) {rsn : Nat} (h : rsn < 16) (d : Dev) : getF (rejectCopy b rsn d) (rsnFld b) = rsn := by
  cases b with
  | false => exact (raiseN_getF (by decide)).trans (getF_setF_fits (by decide) h d)
  | true => exact (raiseN_getF (by decide)).trans (getF_setF_fits (by decide) h d)

theorem rejectCopy_reports (b : Bool) (rsn : Nat) (d : Dev) : Safety.pending (rejectCopy b rsn d) 8 = true :=
  raiseN_pending _ _ _ (by decide) (.inl rfl)

/-! ## Steps 5 and 7 (R51, R232) -/

theorem runnelLoad_short {d : Dev} (hl : loadingAt d 5 = true) (h : (loadEngines d).length < 44) : runnelLoad d = stepWithdraws 5 5 d := by
  unfold runnelLoad
  rw [if_neg (by rw [hl]; decide)]
  exact if_pos h

theorem runnelLoad_goes {d : Dev} (hl : loadingAt d 5 = true) (h : 44 ≤ (loadEngines d).length) :
    ∃ x, runnelLoad d = bankStart (bringUp (toStep 6 (onGlb (fun g => { g with base := .recovering }) x))) := by
  unfold runnelLoad
  rw [if_neg (by rw [hl]; decide)]
  extract_lets es d1 d2 d3
  exact ⟨d3, if_neg (Nat.not_lt.mpr h)⟩

theorem mapRebuild_pairs {d : Dev} (hb : d.glb.base = .recovering) (hs : bootStep d = 7) (failed torn : List Nat) :
    ∃ x, mapRebuild failed torn d = hsBegin (trainAll (toStep 8 (onGlb (fun g => { g with base := .pairing }) x))) := by
  unfold mapRebuild
  rw [if_neg (by rw [hb, hs]; decide)]
  exact ⟨_, rfl⟩

/-! ## Steps 8 to 10 (R87, R340) -/

theorem pairingComplete_ready {d : Dev} (hb : d.glb.base = .pairing) (hh : d.glb.handshakeDone = true ∨ d.glb.soloTaken = true) (hj : d.glb.joinAt = none)
    (hp : ∀ p, p < 16 → flag d (F.FAB_CTL_ENABLE p) = false ∨ ltOf d p = 6 ∨ (linkOf d p).trainSince + 100000 ≤ d.glb.tick) :
    pairingComplete d = onGlb (fun g => { g with joinAt := some g.tick }) d := by
  refine if_pos ⟨hb, hh, hj, List.all_eq_true.mpr fun p hm => ?_⟩
  rcases hp p (List.mem_range.mp hm) with h | h | h
  · simp [h]
  · simp [h]
  · simp [h]

theorem raisedIf_glbRest (c : Prop) [Decidable c] (n v : Nat) (d : Dev) : glbRest (if c then raiseN n v d else d) = glbRest d := by
  split
  · exact raiseN_glbRest _ _ _
  · rfl

theorem levelApplies_glbRest (d : Dev) : glbRest (levelApplies d) = glbRest d := by
  have hs : glbRest (onSch (fun s => { s with lastLevel := dutyLevel d }) d) = glbRest d := rfl
  unfold levelApplies
  extract_lets old new d1 d2 d3
  have h3 : glbRest d3 = glbRest d := by
    show glbRest (raiseN _ _ (setB _ _ (setF _ _ d1))) = _
    rw [raiseN_glbRest, setB_glbRest, setF_glbRest]
    exact hs
  split
  · exact hs
  · split
    · rw [raiseN_glbRest]
      exact h3
    · rw [raisedIf_glbRest]
      exact h3

/-- The device as its service begins: Tadpole without a valid offset table (R340, R342). -/
def serviceBegun (d : Dev) : Dev :=
  onGlb (fun g => { g with
      base := .serving, tadpole := !d.grt.offsetsValid, sweeping := true, sweepEnded := false, tadpoleLate := false, tadpoleSince := g.tick })
    (if !d.grt.offsetsValid then setF F.GLB_TADPOLE_EPOCHS 0 (defaultOffsets d) else restoreOffsets d)

theorem serviceBegun_glb (d : Dev) : (serviceBegun d).glb.base = .serving ∧ (serviceBegun d).glb.tadpole = !d.grt.offsetsValid := by
  rw [serviceBegun, onGlb_glb]
  exact ⟨rfl, rfl⟩

theorem servingStart_serves {t : Nat} {d : Dev} (hb : d.glb.base = .pairing) (hj : d.glb.joinAt = some t) (ht : t < d.glb.tick) (hs : sfTick d = 0) :
    ∃ v x, glbRest x = glbRest (serviceBegun d) ∧ servingStart d = raiseN 13 v x := by
  unfold servingStart
  simp only [hb, hj, hs, decide_eq_true ht, ne_eq, not_true_eq_false, Bool.not_true, Bool.false_eq_true, or_self, if_false]
  refine ⟨_, _, ?_, rfl⟩
  rw [setB_glbRest, levelApplies_glbRest, setF_glbRest, setB_glbRest, setF_glbRest]
  rfl

theorem servingStart_spec {t : Nat} {d : Dev} (hb : d.glb.base = .pairing) (hj : d.glb.joinAt = some t) (ht : t < d.glb.tick) (hs : sfTick d = 0) :
    (servingStart d).glb.base = .serving ∧ (servingStart d).glb.tadpole = !d.grt.offsetsValid ∧ Safety.pending (servingStart d) 13 = true := by
  obtain ⟨v, x, hx, he⟩ := servingStart_serves hb hj ht hs
  obtain ⟨h1, h2⟩ := serviceBegun_glb d
  have hg : glbRest (raiseN 13 v x) = glbRest (serviceBegun d) := (raiseN_glbRest _ _ _).trans hx
  rw [he]
  exact ⟨(base_of_glbRest hg).trans h1, (glb_of_glbRest hg Glb.tadpole fun _ => rfl).trans h2, raiseN_pending _ _ _ (by decide) (.inl rfl)⟩

/-! ## Tadpole and the limits of steps (R335, R342) -/

theorem tadpoleEnd_ends {d : Dev} (h1 : d.glb.tadpole = true) (h2 : d.glb.sweepEnded = true) (h3 : sfTick d = 0) (h4 : serves d = true) :
    tadpoleEnd d = raiseN 14 (getF d F.GLB_TADPOLE_EPOCHS) (onGlb (fun g => { g with tadpole := false, sweepEnded := false }) d) :=
  if_pos ⟨h1, h2, h3, h4⟩

theorem tadpoleTimeout_late {d : Dev} (h1 : d.glb.tadpole = true) (h2 : serves d = true) (h3 : 8 ≤ getF d F.GLB_TADPOLE_EPOCHS)
    (h4 : d.glb.tadpoleLate = false) : tadpoleTimeout d = raiseN 15 0 (onGlb (fun g => { g with tadpoleLate := true }) d) :=
  if_pos ⟨h1, h2, h3, by rw [h4]; rfl⟩

theorem stepTimeout_late {d : Dev} {n rsn : Nat} (hb : d.glb.base = .loading) (hl : stepLimit (bootStep d) = some (n, rsn))
    (ht : d.glb.stepStart + n ≤ d.glb.tick) (hr : d.glb.resetHold = false) : stepTimeout d = stepWithdraws (bootStep d) rsn d := by
  simp only [stepTimeout, hl]
  exact if_pos ⟨hb, ht, by rw [hr]; rfl⟩

theorem stepWithdraws_loading {d : Dev} (hb : d.glb.base = .loading) (step rsn : Nat) : (stepWithdraws step rsn d).glb.base = .withdrawn := by
  have hf : (stepFails step rsn d).glb.base = .loading := (stepFails_keeps _ _ _ .base (by decide)).trans hb
  have hs : serves (stepFails step rsn d) = false := by rw [serves, hf]; rfl
  simp only [stepWithdraws, withdraw, hf, hs, Bool.false_and, Bool.false_eq_true, if_false]
  exact toWithdrawn_base _

end Sys2Proof.Machine

namespace Sys2Proof
open Sys2Proof.Machine

/-- Settles O57. -/
theorem loadingToServing : Obligations.LoadingToServing := by
  intro flash copyB failed torn s d runs
  have whole {c f} {E : Dev → Prop} (hc : exec c s = run f s) (h : E (f s.dev)) : runs c E := ⟨_, f s.dev, hc, rfl, .inr rfl, h⟩
  have quiet {c f} {E : Dev → Prop} (hc : exec c s = runQ f s) (h : E (f s.dev)) : runs c E := ⟨_, f s.dev, hc, rfl, .inl rfl, h⟩
  have wholeOf {c f e} {E : Dev → Prop} (hc : exec c s = run f s) (he : f d = e) (h : E e) : runs c E := whole hc (by rw [show f s.dev = e from he]; exact h)
  clear_value runs
  refine ⟨fun hl => ⟨fun h => ?_, fun h1 h2 h3 => ?_, fun h0 ha => ?_⟩, fun hl => ⟨fun h => ?_, fun h => ?_⟩, fun hb hs => ?_, fun hb hh hj hp => ?_,
    fun n rsn hb hl ht hr => ?_, fun t hb hj ht hs => ?_, fun ht hs => ⟨fun he h0 => ?_, fun h8 hn => ?_⟩⟩
  · exact whole (f := imageVerify flash) rfl (imageVerify_unread hl h)
  · exact whole (f := imageVerify flash) rfl (imageVerify_tries hl h1 h2 h3)
  · exact whole (f := flashTimeout copyB) rfl ⟨_, flashTimeout_rejects hl h0 ha, rejectCopy_rsn _ (by decide) _, rejectCopy_reports _ _ _⟩
  · exact whole (f := runnelLoad) rfl (runnelLoad_short hl h)
  · obtain ⟨x, hx⟩ := runnelLoad_goes hl h
    exact whole (f := runnelLoad) rfl ⟨_, hx, rfl, toStep_step (by decide) _⟩
  · obtain ⟨x, hx⟩ := mapRebuild_pairs hb hs (failed.map BitVec.toNat) (torn.map BitVec.toNat)
    exact whole (f := mapRebuild (failed.map BitVec.toNat) (torn.map BitVec.toNat)) rfl ⟨_, hx, rfl, toStep_step (by decide) _⟩
  · refine quiet (f := pairingComplete) rfl ?_
    rw [show pairingComplete s.dev = _ from pairingComplete_ready hb hh hj hp]
    exact ⟨rfl, onGlb_keeps_glb rfl rfl⟩
  · exact wholeOf (f := stepTimeout) rfl (stepTimeout_late hb hl ht hr) ⟨stepWithdraws_loading hb _ _, rfl⟩
  · exact whole (f := servingStart) rfl (servingStart_spec hb hj ht hs)
  · have hg := raiseN_glbRest 14 (getF d F.GLB_TADPOLE_EPOCHS) (onGlb (fun g => { g with tadpole := false, sweepEnded := false }) d)
    exact wholeOf (f := tadpoleEnd) rfl (tadpoleEnd_ends ht he h0 hs)
      ⟨glb_of_glbRest hg Glb.tadpole fun _ => rfl, glb_of_glbRest hg Glb.sweepEnded fun _ => rfl, raiseN_pending _ _ _ (by decide) (.inl rfl)⟩
  · have hg := raiseN_glbRest 15 0 (onGlb (fun g => { g with tadpoleLate := true }) d)
    exact wholeOf (f := tadpoleTimeout) rfl (tadpoleTimeout_late ht hs h8 hn)
      ⟨glb_of_glbRest hg Glb.tadpoleLate fun _ => rfl, (glb_of_glbRest hg Glb.tadpole fun _ => rfl).trans ht, raiseN_pending _ _ _ (by decide) (.inl rfl)⟩

end Sys2Proof
end

section
/-!
Rails, their supervision and the hold-up bank (R348-R352, R356-R359, R451).
-/
namespace Sys2Proof.Machine
open Sys2Proof Sys2Proof.SMapLaws

/-! ## Registers of a rail -/

theorem railState_event {r : Nat} (h : r < 16) : Safety.eventReg (F.PWR_RAIL_STS_STATE r).addr = false :=
  (show ∀ r : Fin 16, Safety.eventReg (F.PWR_RAIL_STS_STATE r.val).addr = false by decide) ⟨r, h⟩

theorem railState_setF (r : Nat) {v : Nat} (h : v < 8) (d : Dev) : railState (setF (F.PWR_RAIL_STS_STATE r) v d) r = v :=
  getF_setF_fits ⟨(by decide : (16 : Nat) ≤ 18), (by decide : 18 < 32)⟩ h d

theorem railState_raiseN {r : Nat} (h : r < 16) (n v : Nat) (d : Dev) : railState (raiseN n v d) r = railState d r :=
  raiseN_getF (railState_event h)

theorem railOf_onRail (r : Nat) (f : Rail → Rail) (d : Dev) : railOf (onRail r f d) r = f (railOf d r) := get_upd_same _ _ _ _

/-! ## Qualification and discharge (R348, R352) -/

/-- A rail whose qualification has succeeded. -/
def qualified (r : Nat) (d : Dev) : Dev := setF (F.PWR_RAIL_STS_STATE r) 2 (onRail r (fun x => { x with retry := false, beyond := 0, crossed := 0 }) d)

theorem qualified_state (r : Nat) (d : Dev) : railState (qualified r d) r = 2 := railState_setF r (by decide) _

theorem qualified_keeps (r : Nat) (d : Dev) : Safety.Keeps [.regs, .pwr, .plain] d (qualified r d) :=
  .step (setF_keeps _ _ _) rfl (.step (onRail_keeps _ _ _) rfl (.refl _ _))

theorem qualified_base (r : Nat) (d : Dev) : (qualified r d).glb.base = d.glb.base := by rw [qualified, setF_glb, onRail_glb]

section Qualify
variable {r t : Nat} {d : Dev} (hg : (railOf d r).goodSince = some t) (hs : railState d r = 1 ∨ railState d r = 5)
  (ht : t + getF d F.PWR_QUAL_QUAL_TK ≤ d.glb.tick) (hi : insideFault d r = true)
include hg hs ht hi

theorem railQualified_starting (hv : serves d = false) (hw : d.glb.base ≠ .withdrawn) : railQualified r d = bringUp (qualified r d) := by
  have hn : ¬ ((serves (qualified r d) || decide ((qualified r d).glb.base = .withdrawn)) = true) := by
    rw [serves_of_base (qualified_base r d), qualified_base, hv, decide_eq_false hw]
    decide
  simp only [railQualified, hg]
  rw [if_pos ⟨hs, ht, hi⟩]
  exact if_neg hn

theorem railQualified_withdrawn (hw : d.glb.base = .withdrawn) :
    railQualified r d = raiseN (416 + r) (8 + railMv (qualified r d) r * 16) (qualified r d) := by
  have hv : serves (qualified r d) = false := by
    rw [serves_of_base (qualified_base r d), serves, hw]
    rfl
  have hn : ¬ (serves (raiseN (416 + r) (8 + railMv (qualified r d) r * 16) (qualified r d)) = true) := by
    rw [serves_of_base raiseN_base, hv]
    decide
  have hp : (serves (qualified r d) || decide ((qualified r d).glb.base = .withdrawn)) = true := by
    rw [qualified_base, decide_eq_true hw, Bool.or_true]
  simp only [railQualified, hg]
  rw [if_pos ⟨hs, ht, hi⟩]
  exact (if_pos hp).trans (if_neg hn)

end Qualify

theorem dischargeTimeout_ends {r : Nat} {d : Dev} (hs : railState d r = 6) (hd : discharged d r = false)
    (ht : (railOf d r).since + getF d (F.PWR_RAIL_CTL_DIS_TMO r) ≤ d.glb.tick) :
    ∃ y, y = railLog 3 r (raiseN 442 r (setB F.PWR_ERR_DIS_TMO true d)) ∧
      (dischargeTimeout r d = qualifyFails r y ∨ dischargeTimeout r d = dischargeEnds r y) := by
  refine ⟨_, rfl, ?_⟩
  unfold dischargeTimeout
  rw [if_neg (show ¬ (_ ∨ _ ∨ _) from ?_)]
  · exact ite_eq_or_eq _ _ _
  · rintro (h | h | h)
    · exact h hs
    · exact absurd ht (Nat.not_le.mpr h)
    · rw [hd] at h
      cases h

/-! ## Supervision (R349-R351) -/

theorem grtSubmit_flag {f : Fld} (hf : Safety.eventReg f.addr = false) (ha : Apart F.GRT_ERR_PROT f) (w : GWrite) (d : Dev) :
    flag (grtSubmit w d) f = flag d f := by
  unfold grtSubmit
  split
  · rw [raiseN_flag hf, flag_setB_apart ha]
  · rfl

theorem railLog_flag {f : Fld} (hf : Safety.eventReg f.addr = false) (ha : Apart F.GRT_ERR_PROT f) (c r : Nat) (d : Dev) :
    flag (railLog c r d) f = flag d f := grtSubmit_flag hf ha _ _

/-- A fault of a rail as it is reported, before the rail's reaction (R351). -/
def faultShown (r c : Nat) (d : Dev) : Dev :=
  setB F.PWR_ERR_RAIL_FAULT true (if c = 6 then setB F.PWR_ERR_CHATTER true (onRail r (fun x => { x with due := x.due.filter fun k => k ≠ c }) d)
    else onRail r (fun x => { x with due := x.due.filter fun k => k ≠ c }) d)

/-- A fault of a rail once it is counted, logged and raised (R351). -/
def faultRaised (r c : Nat) (d : Dev) : Dev :=
  raiseN (416 + r) (c + railMv (faultShown r c d) r * 16) (railLog 1 r (count (0xB000 + r) (faultShown r c d)))

theorem railFault_reacts {r c : Nat} {d : Dev} (h : c ∈ (railOf d r).due) : railFault r c d = railReact r (faultRaised r c d) := if_neg (not_not_intro h)

theorem faultRaised_spec {r : Nat} (hr : r < 16) (c : Nat) (d : Dev) : Safety.pending (faultRaised r c d) (416 + r) = true ∧
    flag (faultRaised r c d) F.PWR_ERR_RAIL_FAULT = true := by
  refine ⟨raiseN_pending _ _ _ (by omega) (.inl rfl), ?_⟩
  rw [faultRaised, raiseN_flag (by decide), railLog_flag (by decide) (by decide), count_flag (by decide)]
  exact flag_setB_at (by decide) _ _

section GoodLow
variable {r ns : Nat} {d : Dev}

theorem goodLow_restarts (h : railState d r = 1 ∨ railState d r = 5) : goodLow r ns d = onRail r (fun x => { x with goodSince := none }) d := if_pos h

variable (h : railState d r = 2 ∨ railState d r = 3 ∨ railState d r = 4)
include h

theorem goodLow_short (hn : ns < 200) : goodLow r ns d = d := by
  have h1 : ¬ (railState d r = 1 ∨ railState d r = 5) := by omega
  exact (if_neg h1).trans (if_pos (.inr hn))

theorem goodLow_long (h2 : 200 ≤ ns) (hn : getF d F.PWR_QUAL_LOW_TK * 1000 ≤ ns) :
    goodLow r ns d = onRail r (fun x => { x with due := insertNew 5 x.due }) d := by
  have h1 : ¬ (railState d r = 1 ∨ railState d r = 5) := by omega
  have h3 : ¬ ((railState d r ≠ 2 ∧ railState d r ≠ 3 ∧ railState d r ≠ 4) ∨ ns < 200) := by omega
  exact ((if_neg h1).trans (if_neg h3)).trans (if_pos hn)

end GoodLow

/-! ## The hold-up bank (R356-R359) -/

theorem bankStart_spec {d : Dev} (hm : d.pwr.meas = 0) : (bankStart d).pwr.meas = 1 ∧ (bankStart d).pwr.measV0 = getF d F.PWR_HU_V_NOW ∧
    (bankStart d).pwr.measStart = d.glb.tick ∧ flag (bankStart d) F.PWR_STS_HU_TEST = true := by
  have he : bankStart d = count 0xB032 (setB F.PWR_STS_HU_TEST true
      (onPwr (fun p => { p with meas := 1, measStart := d.glb.tick, measV0 := getF d F.PWR_HU_V_NOW }) d)) := if_neg (not_not_intro hm)
  rw [he, count_pwr, setB_pwr, count_flag (by decide), flag_setB_at (by decide)]
  exact ⟨rfl, rfl, rfl, rfl⟩

theorem huMeas_starts {p : Nat} {d : Dev} (hl : holdsLock d p = true) (hs : serves d = true) : huMeas p d = bankStart d :=
  if_pos (by rw [hl, hs]; rfl)

section Sample
variable {d : Dev} (hm : d.pwr.meas = 1) (ht : d.pwr.measStart + (dcap d).meas ≤ d.glb.tick)
include hm ht

theorem bankSample_fails (h : d.pwr.measV0 < getF d F.PWR_HU_V_NOW + 50) : bankSample d = bankFails (setB F.PWR_STS_HU_TEST false d) := by
  have hg : ¬ (d.pwr.meas ≠ 1 ∨ d.glb.tick < d.pwr.measStart + (dcap d).meas) := by omega
  exact (if_neg hg).trans (if_pos h)

theorem bankSample_taken (h : getF d F.PWR_HU_V_NOW + 50 ≤ d.pwr.measV0) : bankSample d = onPwr (fun p => { p with
    meas := 2, measStart := d.glb.tick, newNum := (dcap d).iTest * (dcap d).meas, newDen := p.measV0 - getF d F.PWR_HU_V_NOW })
      (setB F.PWR_STS_HU_TEST false d) := by
  have hg : ¬ (d.pwr.meas ≠ 1 ∨ d.glb.tick < d.pwr.measStart + (dcap d).meas) := by omega
  exact (if_neg hg).trans (if_neg (Nat.not_lt.mpr h))

end Sample

theorem capLowered_pwr (n : Nat) (d : Dev) : (capLowered n d).pwr = d.pwr := capLowered_keeps _ _ .pwr (by decide)
theorem deriveCap_pwr (n : Nat) (d : Dev) : (deriveCap n d).pwr = d.pwr := deriveCap_keeps _ _ .pwr (by decide)

/-- The device whose bank takes the capacity measured (R356). -/
def bankTaken (d : Dev) : Dev := onPwr (fun p => { p with meas := 0, capNum := p.newNum, capDen := p.newDen }) d

theorem bankEnd_taken {d : Dev} (hm : d.pwr.meas = 2) (h : d.pwr.measV0 ≤ getF d F.PWR_HU_V_NOW) :
    ∃ v x, x.pwr = (bankTaken d).pwr ∧ bankEnd d = raiseN 439 v x := by
  unfold bankEnd
  rw [if_neg (not_not_intro hm), if_pos h]
  refine ⟨_, _, ?_, rfl⟩
  rw [capLowered_pwr, deriveCap_pwr, setF_pwr, setF_pwr]
  rfl

theorem bankEnd_spec {d : Dev} (hm : d.pwr.meas = 2) (h : d.pwr.measV0 ≤ getF d F.PWR_HU_V_NOW) : (bankEnd d).pwr.meas = 0 ∧
    (bankEnd d).pwr.capNum = d.pwr.newNum ∧ (bankEnd d).pwr.capDen = d.pwr.newDen ∧ Safety.pending (bankEnd d) 439 = true := by
  obtain ⟨v, x, hx, he⟩ := bankEnd_taken hm h
  have hp : (bankEnd d).pwr = (bankTaken d).pwr := by rw [he, raiseN_pwr, hx]
  rw [hp, he]
  exact ⟨rfl, rfl, rfl, raiseN_pending _ _ _ (by decide) (.inl rfl)⟩

theorem bankEnd_late {d : Dev} (hm : d.pwr.meas = 2) (h : getF d F.PWR_HU_V_NOW < d.pwr.measV0)
    (ht : d.pwr.measStart + 10 * (dcap d).meas ≤ d.glb.tick) : bankEnd d = bankFails d := by
  unfold bankEnd
  rw [if_neg (not_not_intro hm), if_neg (Nat.not_le.mpr h)]
  exact if_pos ht

/-! ## The reference clock (R451) -/

theorem refclkFails_serving {d : Dev} (hb : d.glb.base = .serving) (ha : d.glb.degraded = false) : (refclkFails d).glb.base = .withdrawn := by
  simp only [refclkFails, hb]
  rw [withdraw_paired (decide_eq_true hb) ha]
  exact toWithdrawn_base _

theorem refclkFails_starting {d : Dev} (h : d.glb.base ∈ [Base.sequencing, .loading, .recovering, .pairing]) :
    refclkFails d = shutdownAs false 5 d := by
  have h' : d.glb.base = .sequencing ∨ d.glb.base = .loading ∨ d.glb.base = .recovering ∨ d.glb.base = .pairing := by simpa using h
  rcases h' with h | h | h | h
  · simp only [refclkFails, h]
  · simp only [refclkFails, h]
  · simp only [refclkFails, h]
  · simp only [refclkFails, h]

end Sys2Proof.Machine

namespace Sys2Proof
open Sys2Proof.Machine

/-- Settles O58. -/
theorem railsAndBank : Obligations.RailsAndBank := by
  intro r cause ns p s d k x st now runs
  have whole {c f} {E : Dev → Prop} (hc : exec c s = run f s) (h : E (f s.dev)) : runs c E := ⟨_, f s.dev, hc, rfl, .inr rfl, h⟩
  have quiet {c f} {E : Dev → Prop} (hc : exec c s = runQ f s) (h : E (f s.dev)) : runs c E := ⟨_, f s.dev, hc, rfl, .inl rfl, h⟩
  have wholeOf {c f e} {E : Dev → Prop} (hc : exec c s = run f s) (he : f d = e) (h : E e) : runs c E := whole hc (by rw [show f s.dev = e from he]; exact h)
  have quietOf {c f e} {E : Dev → Prop} (hc : exec c s = runQ f s) (he : f d = e) (h : E e) : runs c E := quiet hc (by rw [show f s.dev = e from he]; exact h)
  clear_value runs
  refine ⟨fun t hg hs ht hi => ⟨fun hv hw => ?_, fun hw => ?_⟩, fun hs ht => ?_, fun hs hd => ?_, fun hs hd ht => ?_, fun hm => ?_, fun hs => ?_,
    fun hs => ⟨fun hn => ?_, fun h2 hn => ?_⟩, fun hl hs hm => ?_, fun hm ht => ⟨fun hv => ?_, fun hv => ?_⟩, fun hm => ⟨fun hv => ?_, fun hv ht => ?_⟩,
    fun hb ha => ?_, fun hb => ?_⟩
  · exact wholeOf (f := railQualified k) rfl (railQualified_starting hg hs ht hi hv hw) ⟨_, rfl, qualified_state k d, qualified_keeps k d⟩
  · refine wholeOf (f := railQualified k) rfl (railQualified_withdrawn hg hs ht hi hw) ⟨?_, raiseN_pending _ _ _ (by omega) (.inl rfl)⟩
    rw [railState_raiseN r.isLt]
    exact qualified_state k d
  · exact whole (f := fun d => if (railState d r.val = 1 ∨ railState d r.val = 5) ∧
        (railOf d r.val).since + getF d (F.PWR_RAIL_CTL_PG_TMO r.val) ≤ d.glb.tick then qualifyFails r.val d else d) rfl (if_pos ⟨hs, ht⟩)
  · exact whole (f := fun d => if railState d r.val = 6 ∧ discharged d r.val then dischargeEnds r.val d else d) rfl (if_pos ⟨hs, hd⟩)
  · exact whole (f := dischargeTimeout k) rfl (dischargeTimeout_ends hs hd ht)
  · exact wholeOf (f := railFault k cause.toNat) rfl (railFault_reacts hm) ⟨_, rfl, faultRaised_spec r.isLt _ _⟩
  · refine quietOf (f := goodLow k ns) rfl (goodLow_restarts hs) ?_
    rw [railOf_onRail]
  · exact quiet (f := goodLow k ns) rfl (goodLow_short hs hn)
  · refine quietOf (f := goodLow k ns) rfl (goodLow_long hs h2 hn) ?_
    rw [railOf_onRail]
    exact mem_insertNew _ _
  · have hb : d.glb.base ∉ [Base.off, .sequencing, .withdrawn] := by
      rw [show d.glb.base = .serving from of_decide_eq_true hs]
      decide
    have hs' : serves (touch p.val d) = true := (serves_of_base (congrArg Glb.base touch_glb)).trans hs
    have he : viaPort p.val (huMeas p.val) d = bankStart (touch p.val d) := by
      rw [viaPort_eq hb]
      exact huMeas_starts ((holdsLock_touch _ _ _).trans hl) hs'
    obtain ⟨e1, e2, e3, e4⟩ := bankStart_spec (d := touch p.val d) ((congrArg Pwr.meas touch_pwr).trans hm)
    exact quietOf (f := viaPort p.val (huMeas p.val)) rfl he ⟨e1, e2.trans touch_getF, e3.trans (congrArg Glb.tick touch_glb), e4⟩
  · exact quiet (f := bankSample) rfl (bankSample_fails hm ht hv)
  · refine quietOf (f := bankSample) rfl (bankSample_taken hm ht hv) ⟨rfl, rfl, rfl, rfl, ?_⟩
    exact flag_setB_at (by decide) false d
  · exact quiet (f := bankEnd) rfl (bankEnd_spec hm hv)
  · exact quiet (f := bankEnd) rfl (bankEnd_late hm hv ht)
  · exact whole (f := refclkFails) rfl (refclkFails_serving hb ha)
  · exact whole (f := refclkFails) rfl (refclkFails_starting hb)

end Sys2Proof
end

section
/-!
Input loss, the Spillway's phases, its pause and OFF (R353, R354, R360-R366).
-/
namespace Sys2Proof.Machine
open Sys2Proof Sys2Proof.SMapLaws

/-! ## Input loss (R353, R354) -/

/-- The device runs: an input failure shuts it down (R353). -/
def Running (d : Dev) : Prop := d.glb.base ≠ .off ∧ d.glb.base ≠ .withdrawn ∧ d.glb.base ≠ .shutdown

theorem enterShutdown_serving {d e : Dev} (hk : e.glb.base = d.glb.base) (hb : d.glb.base = .serving) (why : Nat) :
    (enterShutdown why e).glb.base = .shutdown := enterShutdown_base (decide_eq_true (hk.trans hb)) why

theorem inputActs_running {d : Dev} (h : Running d) (bank : Bool) : inputActs bank d = enterShutdown (if bank then 8 else 1) (inputLost bank d) := by
  obtain ⟨h1, h2, h3⟩ := h
  cases hb : d.glb.base with
  | off => exact absurd hb h1
  | withdrawn => exact absurd hb h2
  | shutdown => exact absurd hb h3
  | sequencing => simp only [inputActs, hb]
  | loading => simp only [inputActs, hb]
  | recovering => simp only [inputActs, hb]
  | pairing => simp only [inputActs, hb]
  | serving => simp only [inputActs, hb]

theorem inputActs_silent {d : Dev} (h : d.glb.base = .off ∨ d.glb.base = .withdrawn) (bank : Bool) : inputActs bank d = d := by
  rcases h with h | h
  · simp only [inputActs, h]
  · simp only [inputActs, h]

theorem inputFailure_acts {bank : Bool} {d : Dev} (h1 : flag d F.PWR_STS_VIN_OK = true) (h2 : 2 ≤ (if bank then d.pwr.huLow else d.pwr.vinLow)) :
    inputFailure bank d = inputActs bank (setB F.PWR_STS_VIN_OK false d) := by
  refine if_neg ?_
  rw [h1, decide_eq_false (Nat.not_lt.mpr h2)]
  decide

theorem inputLost_base (bank : Bool) (d : Dev) : (inputLost bank d).glb.base = d.glb.base := inputLost_keeps _ _ .base (by decide)

theorem pfaultFollow_runs {d : Dev} (h1 : flag d F.PWR_CTL_PF_FOLLOW = true) (h2 : 2 ≤ d.pwr.pfLow) (h3 : flag d F.PWR_STS_PF_DRV = false)
    (h : Running d) : pfaultFollow d = enterShutdown 2 (raiseN 433 0 d) := by
  have hn : ¬ ((!flag d F.PWR_CTL_PF_FOLLOW || decide (d.pwr.pfLow < 2) || flag d F.PWR_STS_PF_DRV) = true) := by
    rw [h1, h3, decide_eq_false (Nat.not_lt.mpr h2)]
    decide
  obtain ⟨h4, h5, h6⟩ := h
  cases hb : d.glb.base with
  | off => exact absurd hb h4
  | withdrawn => exact absurd hb h5
  | shutdown => exact absurd hb h6
  | sequencing => simp only [pfaultFollow, if_neg hn, hb]
  | loading => simp only [pfaultFollow, if_neg hn, hb]
  | recovering => simp only [pfaultFollow, if_neg hn, hb]
  | pairing => simp only [pfaultFollow, if_neg hn, hb]
  | serving => simp only [pfaultFollow, if_neg hn, hb]

/-! ## The phases of the Spillway (R361) -/

theorem spw_setF {v : Nat} (h : v < 8) (d : Dev) : getF (setF F.PWR_STS_SPW v d) F.PWR_STS_SPW = v := getF_setF_fits (by decide) h d

section Phase
variable {d : Dev} (hb : d.glb.base = .shutdown) (hp : flag d F.PWR_STS_PAUSED = false)
include hb hp

theorem phase_open : ¬ (d.glb.base ≠ .shutdown ∨ flag d F.PWR_STS_PAUSED = true) := by rw [hb, hp]; decide

theorem spillwayPhase_two (h : getF d F.PWR_STS_SPW = 2) : spillwayPhase d = setF F.PWR_STS_SPW 3 (markFlushed (takeImages d)) := by
  simp only [spillwayPhase, if_neg (phase_open hb hp), h]

theorem spillwayPhase_three (h : getF d F.PWR_STS_SPW = 3) : spillwayPhase d = setF F.PWR_STS_SPW 4 d := by
  simp only [spillwayPhase, if_neg (phase_open hb hp), h]

theorem spillwayPhase_four (h : getF d F.PWR_STS_SPW = 4) : spillwayPhase d = setF F.PWR_STS_SPW 5 (writeTop (flushNodes d)) := by
  simp only [spillwayPhase, if_neg (phase_open hb hp), h]

theorem spillwayPhase_five (h : getF d F.PWR_STS_SPW = 5) (hc : some (ctrNow d 0) = d.grt.flushTag) :
    spillwayPhase d = raiseN 434 (inShutdown d) (setF F.PWR_STS_SPW 6 d) := by
  simp only [spillwayPhase, if_neg (phase_open hb hp), h]
  exact if_pos hc

theorem spillwayPhase_six (h : getF d F.PWR_STS_SPW = 6) : spillwayPhase d = flushEnds d := by
  simp only [spillwayPhase, if_neg (phase_open hb hp), h]

/-! ## Good input and the pause (R365) -/

section VinReturn
variable (hw : d.pwr.why = 1 ∨ d.pwr.why = 8) (hv : flag d F.PWR_STS_VIN_OK = true) (hk : d.pwr.vinBack = false)
include hw hv hk

theorem return_seen : ¬ (d.glb.base ≠ .shutdown ∨ (d.pwr.why ≠ 1 ∧ d.pwr.why ≠ 8) ∨ (!flag d F.PWR_STS_VIN_OK) = true ∨
    flag d F.PWR_STS_PAUSED = true ∨ d.pwr.vinBack = true) := by
  rintro (h | h | h | h | h)
  · exact h hb
  · omega
  · rw [hv] at h
    cases h
  · rw [hp] at h
    cases h
  · rw [hk] at h
    cases h

theorem vinReturn_pauses (h1 : 1 ≤ getF d F.PWR_STS_SPW) (h4 : getF d F.PWR_STS_SPW ≤ 4) : vinReturn d = pause d :=
  (if_neg (return_seen hb hp hw hv hk)).trans (if_pos ⟨h1, h4⟩)

theorem vinReturn_late (h6 : 6 ≤ getF d F.PWR_STS_SPW) : vinReturn d = raiseLedger 437 0 (onPwr (fun p => { p with vinBack := true }) d) := by
  have h4 : ¬ (1 ≤ getF d F.PWR_STS_SPW ∧ getF d F.PWR_STS_SPW ≤ 4) := by omega
  exact ((if_neg (return_seen hb hp hw hv hk)).trans (if_neg h4)).trans (if_pos h6)

theorem vinReturn_back (h6 : 6 ≤ getF d F.PWR_STS_SPW) : (vinReturn d).pwr.vinBack = true := by
  rw [vinReturn_late hb hp hw hv hk h6, raiseLedger_keeps _ _ _ .pwr (by decide)]
  rfl

end VinReturn

theorem pfaultReleased_pauses (hw : d.pwr.why = 2) (hv : flag d F.PWR_STS_VIN_OK = true) (hi : flag d F.PWR_STS_PF_IN = false)
    (h1 : 1 ≤ getF d F.PWR_STS_SPW) (h4 : getF d F.PWR_STS_SPW ≤ 4) : pfaultReleased d = pause d := by
  refine if_neg ?_
  rintro (h | h | h | h | h | h | h)
  · exact h hb
  · exact h hw
  · rw [hv] at h
    cases h
  · rw [hi] at h
    cases h
  · rw [hp] at h
    cases h
  · exact absurd h (Nat.ne_of_gt h1)
  · exact absurd h4 (Nat.not_le.mpr h)

end Phase

/-- A device that resumes takes over from a partner that it has lost meanwhile (R363). -/
def lostTakenOver (z : Dev) : Dev := if !alone z && decide (z.twn.hbHist = 0 ∧ z.twn.pulseHist = 0) then takeover 1 z else z

theorem spillwayResume_resumes {d : Dev} (hb : d.glb.base = .shutdown) (hp : flag d F.PWR_STS_PAUSED = true) (hs : sfTick d = 0)
    (hv : flag d F.PWR_STS_VIN_OK = true) (hi : flag d F.PWR_STS_PF_IN = false) (h1 : d.pwr.vinGoodSince + 2000 ≤ d.glb.tick)
    (h2 : d.pwr.pfHighSince + 2000 ≤ d.glb.tick) (he : pauseErased d = true) :
    ∃ y, spillwayResume d = (htags (lostTakenOver (raiseN 436 (inShutdown d) (onPwr (fun p => { p with flushed := [] }) y)))).foldl
      (fun d h => advance h d) (lostTakenOver (raiseN 436 (inShutdown d) (onPwr (fun p => { p with flushed := [] }) y))) := by
  have hn : ¬ (d.glb.base ≠ .shutdown ∨ (!flag d F.PWR_STS_PAUSED) = true ∨ sfTick d ≠ 0 ∨ (!flag d F.PWR_STS_VIN_OK) = true ∨
      flag d F.PWR_STS_PF_IN = true ∨ d.glb.tick < d.pwr.vinGoodSince + 2000 ∨ d.glb.tick < d.pwr.pfHighSince + 2000 ∨
      (!pauseErased d) = true) := by
    rw [hb, hp, hs, hv, hi, he]
    simp only [ne_eq, not_true_eq_false, Bool.not_true, Bool.false_eq_true, false_or, or_false, not_or, Nat.not_lt]
    exact ⟨h1, h2⟩
  unfold spillwayResume
  rw [if_neg hn]
  exact ⟨_, rfl⟩

/-! ## OFF (R366) -/

section Off
variable {p : Nat} {d : Dev} (hl : holdsLock d p = true)
include hl

theorem off_serving (hb : d.glb.base = .serving) : (off p d).glb.base = .shutdown ∧ (off p d).pwr.why = 7 ∧ (off p d).pwr.offStep = 1 := by
  have hn : ¬ ((!holdsLock d p) = true) := by rw [hl]; decide
  simp only [off, if_neg hn, hb]
  exact ⟨rfl, rfl, rfl⟩

theorem off_starting (hb : d.glb.base = .loading ∨ d.glb.base = .recovering ∨ d.glb.base = .pairing) :
    off p d = shutdownAs false 7 (railLog 4 0xFF (raiseN 445 0 d)) := by
  have hn : ¬ ((!holdsLock d p) = true) := by rw [hl]; decide
  rcases hb with hb | hb | hb
  · simp only [off, if_neg hn, hb]
  · simp only [off, if_neg hn, hb]
  · simp only [off, if_neg hn, hb]

end Off

end Sys2Proof.Machine

namespace Sys2Proof
open Sys2Proof.Machine

/-- Settles O59. -/
theorem spillwayAndOff : Obligations.SpillwayAndOff := by
  intro bank p s d spw why up runs
  have whole {c f} {E : Dev → Prop} (hc : exec c s = run f s) (h : E (f s.dev)) : runs c E := ⟨_, f s.dev, hc, rfl, .inr rfl, h⟩
  have wholeOf {c f e} {E : Dev → Prop} (hc : exec c s = run f s) (he : f d = e) (h : E e) : runs c E := whole hc (by rw [show f s.dev = e from he]; exact h)
  clear_value runs
  refine ⟨fun h1 h2 => ⟨fun hu => ?_, fun hb => ?_⟩, fun h1 h2 h3 hu => ?_, fun hb hp => ⟨fun h => ?_, fun h => ?_, fun h => ?_, fun h hc => ?_, fun h => ?_,
    fun hw hv hk => ⟨fun h1 h4 => ?_, fun h6 => ?_⟩, fun hw hv hi h1 h4 => ?_⟩, fun hb hp hs hv hi h1 h2 he => ?_, fun hl => ⟨fun hb => ?_, fun hb => ?_⟩⟩
  · have he : inputFailure bank d = enterShutdown why (inputLost bank (setB F.PWR_STS_VIN_OK false d)) :=
      (inputFailure_acts h1 h2).trans (inputActs_running (d := setB F.PWR_STS_VIN_OK false d) hu bank)
    have hk : (inputLost bank (setB F.PWR_STS_VIN_OK false d)).glb.base = d.glb.base := by rw [inputLost_base, setB_glb]
    exact wholeOf (f := inputFailure bank) rfl he ⟨rfl, fun hb => enterShutdown_serving hk hb why⟩
  · exact whole (f := inputFailure bank) rfl ((inputFailure_acts h1 h2).trans (inputActs_silent (d := setB F.PWR_STS_VIN_OK false d) hb bank))
  · have he : pfaultFollow d = enterShutdown 2 (raiseN 433 0 d) := pfaultFollow_runs h1 h2 h3 hu
    exact wholeOf (f := pfaultFollow) rfl he ⟨rfl, fun hb => enterShutdown_serving (d := d) raiseN_base hb 2⟩
  · exact wholeOf (f := spillwayPhase) rfl (spillwayPhase_two hb hp h) (spw_setF (by decide) _)
  · exact wholeOf (f := spillwayPhase) rfl (spillwayPhase_three hb hp h) ⟨spw_setF (by decide) _, setF_keeps _ _ _⟩
  · exact wholeOf (f := spillwayPhase) rfl (spillwayPhase_four hb hp h) (spw_setF (by decide) _)
  · exact wholeOf (f := spillwayPhase) rfl (spillwayPhase_five hb hp h hc)
      ⟨(raiseN_getF (by decide)).trans (spw_setF (by decide) _), raiseN_pending _ _ _ (by decide) (.inl rfl)⟩
  · exact whole (f := spillwayPhase) rfl (spillwayPhase_six hb hp h)
  · exact whole (f := vinReturn) rfl (vinReturn_pauses hb hp hw hv hk h1 h4)
  · exact whole (f := vinReturn) rfl (vinReturn_back hb hp hw hv hk h6)
  · exact whole (f := pfaultReleased) rfl (pfaultReleased_pauses hb hp hw hv hi h1 h4)
  · obtain ⟨y, hy⟩ := spillwayResume_resumes hb hp hs hv hi h1 h2 he
    exact whole (f := spillwayResume) rfl ⟨_, _, rfl, rfl, hy⟩
  · have hb' : (touch p.val d).glb.base = .serving := (congrArg Glb.base touch_glb).trans hb
    have he : viaPort p.val (off p.val) d = off p.val (touch p.val d) := viaPort_eq (by rw [hb]; decide) _ _
    exact wholeOf (f := viaPort p.val (off p.val)) rfl he (off_serving ((holdsLock_touch _ _ _).trans hl) hb')
  · have hb' : d.glb.base = .loading ∨ d.glb.base = .recovering ∨ d.glb.base = .pairing := by simpa using hb
    have hn : (touch p.val d).glb.base = .loading ∨ (touch p.val d).glb.base = .recovering ∨ (touch p.val d).glb.base = .pairing := by
      rw [touch_glb]
      exact hb'
    have he : viaPort p.val (off p.val) d = shutdownAs false 7 (railLog 4 0xFF (raiseN 445 0 (touch p.val d))) := by
      rw [viaPort_eq (by rcases hb' with h | h | h <;> rw [h] <;> decide)]
      exact off_starting ((holdsLock_touch _ _ _).trans hl) hn
    exact whole (f := viaPort p.val (off p.val)) rfl he

end Sys2Proof
end

section
/-!
The Grotto's page writes, sectors and protect level; the sensors, the trip and the held start (R373-R380, R385, R388-R390).
-/
namespace Sys2Proof.Machine
open Sys2Proof Sys2Proof.SMapLaws

/-! ## Page writes (R373-R375) -/

section PageWrite
variable {addr : BitVec 22} {bytes : List (BitVec 8)} {d : Dev}

theorem pageWrite_waits (h : grtRefuses d (addr.toNat / 0x10000) = false) :
    pageWrite addr bytes d = onGrt (fun g => { g with wait := g.wait ++ [{ addr := addr.toNat, bytes := bytes }] }) d := by
  have hn : ¬ (grtRefuses d (writeSector { addr := addr.toNat, bytes := bytes }) = true) := by
    rw [show writeSector { addr := addr.toNat, bytes := bytes } = addr.toNat / 0x10000 from rfl, h]
    decide
  exact if_neg hn

theorem pageWrite_refused (h : grtRefuses d (addr.toNat / 0x10000) = true) :
    pageWrite addr bytes d = raiseN 476 (addr.toNat / 0x10000) (setB F.GRT_ERR_PROT true d) := if_pos h

end PageWrite

section Start
variable {d : Dev} {w : GWrite} {rest : List GWrite} (hc : d.grt.cur = none) (hw : d.grt.wait = w :: rest)
include hc hw

theorem pageWriteStart_starts (h : getF d (F.PWR_RAIL_STS_STATE 4) = 2 ∧ flag d F.GRT_STS_STORE_OK = true) :
    pageWriteStart d = setB F.GRT_STS_WAIT false (setB F.GRT_STS_BUSY true
      (onGrt (fun g => { g with cur := some w, program := 1, retried := false, wait := rest }) d)) := by
  simp only [pageWriteStart, hc, hw]
  exact if_pos h

theorem pageWriteStart_waits (h : ¬ (getF d (F.PWR_RAIL_STS_STATE 4) = 2 ∧ flag d F.GRT_STS_STORE_OK = true)) :
    pageWriteStart d = setB F.GRT_STS_WAIT true d := by
  simp only [pageWriteStart, hc, hw]
  exact if_neg h

end Start

theorem writeEnds_spec (w : GWrite) (d : Dev) : (writeEnds w d).grt.cur = none ∧ flag (writeEnds w d) F.GRT_STS_BUSY = false := by
  refine ⟨?_, flag_setB_at (by decide) _ _⟩
  rw [writeEnds, setB_grt, count_grt]
  rfl

section Program
variable {d : Dev} {w : GWrite} (hc : d.grt.cur = some w)
include hc

theorem programDone_last (h : 4 ≤ d.grt.program) : physicalProgramDone true d = writeEnds w (count 0xD001 d) := by
  have h2 : ¬ (d.grt.program = 2) := by omega
  simp only [physicalProgramDone, programNext, hc, count_grt, if_true, if_neg h2, if_pos h]

theorem programDone_next (h2 : d.grt.program ≠ 2) (h4 : d.grt.program < 4) :
    physicalProgramDone true d = onGrt (fun g => { g with program := g.program + 1, retried := false }) (count 0xD001 d) := by
  simp only [physicalProgramDone, programNext, hc, count_grt, if_true, if_neg h2, if_neg (Nat.not_le.mpr h4)]

theorem programFailed_once (h : d.grt.retried = false) :
    physicalProgramDone false d = onGrt (fun g => { g with retried := true }) (count 0xD001 d) := by
  simp only [physicalProgramDone, hc, count_grt, h, Bool.not_false, Bool.false_eq_true, if_true, if_false]

theorem programFailed_spareless (h : d.grt.retried = true) (hf : bestFree d.grt = none) : ∃ x, physicalProgramDone false d =
    setB F.GRT_STS_BUSY false (onGrt (fun g => { g with cur := none, program := 0, retried := false })
      (raiseN 477 (writeSector w) (setB F.GRT_ERR_NOSPARE true x))) := by
  simp only [physicalProgramDone, hc, setB_grt, count_grt, h, hf, Bool.not_true, Bool.false_eq_true, if_false]
  exact ⟨_, rfl⟩

theorem energyStoreFault_cuts : energyStoreFault d = setB F.GRT_STS_BUSY false (onGrt (fun g => { g with
    cur := none, program := 0, retried := false, cut := some (w, decide (3 ≤ g.program)) }) (setB F.GRT_STS_STORE_OK false d)) := by
  simp only [energyStoreFault, setB_grt, hc]

end Program

/-- A flag outside the pending bits of the events leaves them as they are. -/
theorem pending_setB {f : Fld} (hf : 0x200140 ≤ f.addr) {m : Nat} (hm : m < 512) (b : Bool) (d : Dev) :
    Safety.pending (setB f b d) m = Safety.pending d m := Bank.pending (Bank.setF (.inr hf) _ _) hm

theorem onGrt_pending (f : Grt → Grt) (d : Dev) (n : Nat) : Safety.pending (onGrt f d) n = Safety.pending d n := rfl
theorem onGrt_flag (f : Grt → Grt) (d : Dev) (g : Fld) : flag (onGrt f d) g = flag d g := rfl

/-- What a write that no free sector can take leaves: it ends, with NOSPARE and event 477 (R375). -/
theorem spareless_spec (sec : Nat) (x : Dev) : ∀ e, e = setB F.GRT_STS_BUSY false (onGrt (fun g => { g with cur := none, program := 0, retried := false })
      (raiseN 477 sec (setB F.GRT_ERR_NOSPARE true x))) →
    e.grt.cur = none ∧ flag e F.GRT_STS_BUSY = false ∧ flag e F.GRT_ERR_NOSPARE = true ∧ Safety.pending e 477 = true := by
  rintro e rfl
  refine ⟨?_, flag_setB_at (by decide) _ _, ?_, ?_⟩
  · rw [setB_grt]
    rfl
  · rw [flag_setB_apart (by decide), onGrt_flag, raiseN_flag (by decide)]
    exact flag_setB_at (by decide) _ _
  · have hr : Safety.pending (raiseN 477 sec (setB F.GRT_ERR_NOSPARE true x)) 477 = true := raiseN_pending _ _ _ (by decide) (.inl rfl)
    rw [pending_setB (by decide) (by decide), onGrt_pending]
    exact hr

/-! ## Sectors, margin reads and PROTECT (R377-R379) -/

theorem sectorMove_moves {sec f : Nat} {d : Dev} (h : getF d F.GRT_ROT_WRITES ≤ d.grt.since.get 0 sec) (hf : bestFree d.grt = some f) :
    sectorMove sec d = moveTo sec f d := by
  simp only [sectorMove, if_neg (Nat.not_lt.mpr h), hf]

theorem marginRead_goes (weak bad : List (BitVec 14)) (d : Dev) :
    (marginRead weak bad d).grt.marginAt = (d.grt.marginAt + getF d F.GRT_MARGIN_PAGES) % (50 * 256) := rfl

/-! ## Sensors (R385, R390) -/

theorem sensorFails_spec {k : Nat} {d : Dev} (hd : k ∈ d.thm.due) (hf : sensorFailed d k = false) :
    Safety.pending (sensorFails k d) 452 = true ∧ (sensorFails k d).thm.due = d.thm.due.filter (fun i => decide (i ≠ k)) := by
  have hn : ¬ (k ∉ d.thm.due ∨ sensorFailed d k = true) := by
    rintro (h | h)
    · exact h hd
    · rw [hf] at h
      cases h
  unfold sensorFails
  rw [if_neg hn]
  extract_lets d1 d2 n
  have hp : Safety.pending d2 452 = true := raiseN_pending _ _ _ (by decide) (.inl rfl)
  have ht : d2.thm = d1.thm := by
    show (raiseN _ _ _).thm = _
    rw [raiseN_thm, count_thm, setF_thm]
  have hb : Safety.pending (setB F.THM_STS_FORCED true d2) 452 = true := (pending_setB (by decide) (by decide) _ _).trans hp
  split
  · exact ⟨raiseN_pending _ _ _ (by decide) (.inr hb), by rw [raiseN_thm, setB_thm, ht]; rfl⟩
  · exact ⟨hp, by rw [ht]; rfl⟩

theorem peakClear_peak (d : Dev) : getF (peakClear d) F.THM_PEAK_PEAK = bits12 d.thm.maxT % 2 ^ 12 :=
  getF_setF_same d F.THM_PEAK_PEAK _ (by decide) (by decide)

/-! ## Trip and held start (R388, R389) -/

/-- The report of a trip: event 451, which in a healthy pair goes through the Ledger alone, and its detail record (R388, R391, R420). -/
def tripTold (d : Dev) : Dev :=
  let arg := getF d F.THM_STS_HOT + bits12 d.thm.maxT * 32
  let d := if serves d && !alone d then raiseLedger 451 arg d else raiseN 451 arg d
  ledDetail 451 (BitVec.ofNat 32 arg) (tripDetail d) d

theorem tripTold_keeps (d : Dev) : Safety.Keeps [.regs, .glb, .svc, .fab, .obs] d (tripTold d) :=
  .step (ledDetail_keeps _ _ _ _) rfl (.ite (.step (raiseLedger_keeps _ _ _) rfl (.refl _ _)) (.step (raiseN_keeps _ _ _) rfl (.refl _ _)))

/-- A trip is recorded, but in the tick of an input failure (R388). -/
def tripMarked (d : Dev) : Dev :=
  let inputTick := decide (d.glb.base = .shutdown) && decide (d.pwr.entry = d.glb.tick) && (decide (d.pwr.why = 1) || decide (d.pwr.why = 8))
  if inputTick then d else onThm (fun t => { t with tripped := true }) d

theorem tripMarked_keeps (d : Dev) : Safety.Keeps [.thm] d (tripMarked d) := .ite (.refl _ _) (.step (onThm_keeps _ _) rfl (.refl _ _))

theorem trip_keeps (d : Dev) : Safety.Keeps [.regs, .glb, .svc, .fab, .thm, .obs] d (tripMarked (tripTold d)) :=
  .step (tripMarked_keeps _) rfl ((tripTold_keeps _).mono rfl)

theorem trip_flag (d : Dev) : flag (tripMarked (tripTold d)) F.THM_STS_TRIP = flag d F.THM_STS_TRIP := flag_plain (trip_keeps d) (by decide) (by decide)

theorem trip_base (d : Dev) : (tripMarked (tripTold d)).glb.base = d.glb.base := trip_keeps d .base (by decide)

theorem thermalTrip_told {d : Dev} (hn : ¬ (d.thm.hotRow < 2 ∨ flag d F.THM_STS_TRIP = true ∨ d.glb.base = .off)) :
    thermalTrip d = tripActs (tripMarked (tripTold (setB F.THM_STS_TRIP true d))) := by
  unfold thermalTrip tripMarked tripTold
  rw [if_neg hn]

theorem thermalTrip_acts {d : Dev} (h1 : 2 ≤ d.thm.hotRow) (h2 : flag d F.THM_STS_TRIP = false) (h3 : d.glb.base ≠ .off) :
    ∃ y, thermalTrip d = tripActs y ∧ flag y F.THM_STS_TRIP = true ∧ y.glb.base = d.glb.base := by
  have hn : ¬ (d.thm.hotRow < 2 ∨ flag d F.THM_STS_TRIP = true ∨ d.glb.base = .off) := by
    rintro (h | h | h)
    · omega
    · rw [h2] at h
      cases h
    · exact h3 h
  refine ⟨tripMarked (tripTold (setB F.THM_STS_TRIP true d)), thermalTrip_told hn, (trip_flag _).trans (flag_setB_at (by decide) _ _), ?_⟩
  rw [trip_base, setB_glb]

section Hold
variable {d : Dev} (hb : d.glb.base = .sequencing) (hr : ∀ r ∈ upOrder.take 6, railState d r = 2 ∨ railState d r = 3) (ht : d.thm.tripped = true)
  (hd : ∀ t, d.thm.heldAt = some t → t + 1000 ≤ d.glb.tick)
include hb hr ht hd

/-- The sensors are read: the device stands in step 1 with its boot rails up, and the last reading is 1,000 ticks back (R389). -/
theorem startHold_reads (t22 t23 : Int) : startHold t22 t23 d =
    if 872 ≤ t22 ∨ 872 ≤ t23 then
      (if d.thm.heldRaised then onThm (fun t => { t with heldAt := some d.glb.tick, heldRaised := true }) d
        else raiseN 454 (bits12 (max t22 t23)) (onThm (fun t => { t with heldAt := some d.glb.tick, heldRaised := true }) d))
    else step1End (onThm (fun t => { t with tripped := false, heldAt := none, heldRaised := false }) d) := by
  have hboot : ((upOrder.take 6).all fun r => decide (railState d r = 2) || decide (railState d r = 3)) = true :=
    List.all_eq_true.mpr fun r hm => by
      rcases hr r hm with h | h
      · simp [h]
      · simp [h]
  unfold startHold
  extract_lets boot due raised d1
  have hdue : due = true := by
    show (match d.thm.heldAt with | none => true | some t => decide (t + 1000 ≤ d.glb.tick)) = true
    cases h : d.thm.heldAt with
    | none => rfl
    | some t => exact decide_eq_true (hd t h)
  refine if_neg ?_
  rintro (h | h | h | h)
  · exact h hb
  · rw [show boot = true from hboot] at h
    cases h
  · rw [ht] at h
    cases h
  · rw [hdue] at h
    cases h

theorem startHold_holds {t22 t23 : Int} (h : 872 ≤ t22 ∨ 872 ≤ t23) : (startHold t22 t23 d).thm.heldAt = some d.glb.tick ∧
    (startHold t22 t23 d).thm.heldRaised = true ∧ (startHold t22 t23 d).glb.base = .sequencing ∧
    (d.thm.heldRaised = false → Safety.pending (startHold t22 t23 d) 454 = true) := by
  rw [startHold_reads hb hr ht hd, if_pos h]
  split
  · next hh => exact ⟨rfl, rfl, hb, fun hn => absurd hh (by rw [hn]; decide)⟩
  · refine ⟨by rw [raiseN_thm]; rfl, by rw [raiseN_thm]; rfl, by rw [raiseN_base]; exact hb, fun _ => raiseN_pending _ _ _ (by decide) (.inl rfl)⟩

theorem startHold_starts {t22 t23 : Int} (h22 : t22 < 872) (h23 : t23 < 872) : (startHold t22 t23 d).glb.base = .loading ∧
    (startHold t22 t23 d).glb.tick = 0 ∧ (startHold t22 t23 d).thm.tripped = false ∧ bootStep (startHold t22 t23 d) = 2 := by
  rw [startHold_reads hb hr ht hd, if_neg (by omega)]
  refine ⟨rfl, rfl, rfl, ?_⟩
  exact (beginStep2_spec _).2.2.2

end Hold

end Sys2Proof.Machine

namespace Sys2Proof
open Sys2Proof.Machine

/-- Settles O60. -/
theorem grottoAndSensors : Obligations.GrottoAndSensors := by
  intro addr bytes ok sec weak bad p level k t22 t23 s d g awake ready runs
  have whole {c f} {E : Dev → Prop} (hc : exec c s = run f s) (h : E (f s.dev)) : runs c E := ⟨_, f s.dev, hc, rfl, .inr rfl, h⟩
  have quiet {c f} {E : Dev → Prop} (hc : exec c s = runQ f s) (h : E (f s.dev)) : runs c E := ⟨_, f s.dev, hc, rfl, .inl rfl, h⟩
  have quietOf {c f e} {E : Dev → Prop} (hc : exec c s = runQ f s) (he : f d = e) (h : E e) : runs c E := quiet hc (by rw [show f s.dev = e from he]; exact h)
  clear_value runs
  refine ⟨fun h => ?_, fun h => ?_, fun w rest hc hw => ⟨fun h => ?_, fun h => ?_⟩,
    fun w hc => ⟨fun ho h4 => ?_, fun ho h2 h4 => ?_, fun ho hr => ?_, fun ho hr hf => ?_, ?_⟩, fun f hw hf => ?_, ?_, fun ha => ⟨fun hl => ?_, ?_⟩,
    fun hd hf => ?_, fun h1 h2 h3 => ?_, fun hb hr ht hd => ⟨fun h => ?_, fun h22 h23 => ?_⟩⟩
  · exact quietOf (f := pageWrite addr bytes) rfl (pageWrite_waits h) ⟨rfl, onGrt_keeps _ _⟩
  · refine quietOf (f := pageWrite addr bytes) rfl (pageWrite_refused h) ⟨?_, ?_, raiseN_pending _ _ _ (by decide) (.inl rfl)⟩
    · rw [raiseN_grt, setB_grt]
    · rw [raiseN_flag (by decide)]
      exact flag_setB_at (by decide) _ _
  · refine quietOf (f := pageWriteStart) rfl (pageWriteStart_starts hc hw h) ⟨rfl, rfl, rfl, ?_, flag_setB_at (by decide) _ _⟩
    rw [flag_setB_apart (by decide)]
    exact flag_setB_at (by decide) _ _
  · exact quietOf (f := pageWriteStart) rfl (pageWriteStart_waits hc hw h) ⟨rfl, flag_setB_at (by decide) _ _⟩
  · subst ho
    exact quietOf (f := physicalProgramDone true) rfl (programDone_last hc h4) (writeEnds_spec _ _)
  · subst ho
    refine quietOf (f := physicalProgramDone true) rfl (programDone_next hc h2 h4) ?_
    rw [onGrt_grt, count_grt]
    exact ⟨rfl, rfl⟩
  · subst ho
    refine quietOf (f := physicalProgramDone false) rfl (programFailed_once hc hr) ?_
    rw [onGrt_grt, count_grt]
    exact ⟨rfl, rfl⟩
  · subst ho
    obtain ⟨x, hx⟩ := programFailed_spareless hc hr hf
    exact quiet (f := physicalProgramDone false) rfl (spareless_spec _ x _ hx)
  · refine quietOf (f := energyStoreFault) rfl (energyStoreFault_cuts hc) ⟨rfl, rfl, ?_⟩
    rw [flag_setB_apart (by decide), onGrt_flag]
    exact flag_setB_at (by decide) _ _
  · exact quiet (f := sectorMove sec.val) rfl (sectorMove_moves hw hf)
  · exact quiet (f := marginRead weak bad) rfl (marginRead_goes weak bad d)
  · have he : viaPort p.val (protectCmd p.val level.toNat) d = Machine.protect level.toNat (touch p.val d) := by
      rw [viaPort_eq ha]
      exact if_pos ((holdsLock_touch _ _ _).trans hl)
    exact quiet (f := viaPort p.val (protectCmd p.val level.toNat)) rfl he
  · have he : viaPort p.val peakClear d = peakClear (touch p.val d) := viaPort_eq ha _ _
    exact quietOf (f := viaPort p.val peakClear) rfl he ((peakClear_peak _).trans (by rw [touch_thm]))
  · exact quiet (f := sensorFails k.val) rfl (sensorFails_spec hd hf)
  · exact whole (f := thermalTrip) rfl (thermalTrip_acts h1 h2 h3)
  · exact whole (f := startHold t22.toInt t23.toInt) rfl (startHold_holds hb hr ht hd h)
  · exact whole (f := startHold t22.toInt t23.toInt) rfl (startHold_starts hb hr ht hd h22 h23)

end Sys2Proof
end
